-- ==== Sys2Proof/Syntax.lean ====
section
/-! DEFINITION. The instructions and events of the W4, whole, and the plain data that events carry.
A core is named by its 20-bit number: logical package in bits 19:16, logical core in bits 15:0 (spec/01 Table 1-4). -/
namespace Sys2Proof

/-- A value with its poison mark (spec/22 R465). -/
structure Datum where
  val : Word
  poison : Bool := false
  deriving DecidableEq, Repr

/-- Who sends a packet, a message or a request, in the classes of the source order (spec/06 R146). -/
inductive Source where
  | core (id : Nat)
  | derrick
  | slice (n : Nat)
  | host
  /-- A Wyal port that verifies checked chunks (spec/18 R414, R426), numbered 18 times the package and its number. -/
  | port (n : Nat)
  /-- A router, by its position, at which a barrier's node or a multicast's copy stands (spec/10 R248, spec/17 R389). -/
  | node (router : Nat)
  deriving DecidableEq, Repr

/-- Kind of a message, named in its grant request (R145, R388). -/
inductive MsgKind where
  | carry | data | change
  deriving DecidableEq, Repr

/-- A carry message (spec/06 Table 6-1): header fields and the carried registers, keyed by register number.
`uid` names the strand's registers that still await replies; `frame` is set in a frame return (spec/12 R312). -/
structure CarryMsg where
  code : BitVec 32
  strand : BitVec 24
  preds : BitVec 8
  draw : BitVec 32
  pend : BitVec 32
  side : List (Nat × BitVec 16)
  regs : List (Nat × Word)
  poison : BitVec 56
  uid : Nat
  frame : Option Nat
  deriving DecidableEq, Repr

/-- A change record (spec/20 Table 20-1). -/
structure ChangeRec where
  key : Word
  valLo : Word
  valHi : Word
  mult : BitVec 32
  wave : BitVec 32
  deriving DecidableEq, Repr

/-- What a message carries. -/
inductive Body where
  | carry (m : CarryMsg)
  | data (ws : List Datum)
  | change (desc : Nat) (r : ChangeRec)
  deriving DecidableEq, Repr

/-- A message: its sender and the sender's name for it, its destination core and channel, its receive slots. -/
structure Msg where
  src : Source
  id : Nat
  dst : Nat
  ch : Nat
  slots : Nat
  body : Body
  /-- Sent with `.rp`, on the reply network (spec/06 R162). -/
  rp : Bool := false
  /-- Registers that a carry message carries (spec/17 Table 17-2). -/
  carried : Nat := 0
  deriving DecidableEq, Repr

/-- A packet of the grant exchange (spec/06 R143, spec/17 R388). -/
structure GrantAsk where
  src : Source
  id : Nat
  dst : Nat
  ch : Nat
  kind : MsgKind
  slots : Nat
  deriving DecidableEq, Repr

/-- One write of a store: `size` bytes of `val` at `addr`, with the poison of its source. -/
structure Wr where
  addr : Nat
  size : Nat
  val : Word
  poison : Bool := false
  deriving DecidableEq, Repr

/-- The future operations (spec/10 R242). -/
inductive FutOp where
  | put | putnb | take | takenb | peek
  deriving DecidableEq, Repr

/-- The dependence-counter operations (spec/10 R245). -/
inductive CtrOp where
  | set | add | dec
  deriving DecidableEq, Repr

/-- What follows a chained packet (spec/10 Table 10-5): nothing, a second packet, a message, or a future. -/
inductive Chain where
  | none
  | packet (addr op sz : Nat)
  | message (chword : Word)
  | future (core off : Nat)
  deriving DecidableEq, Repr

/-- What a request asks its home to do. Addresses are offsets at a core, physical addresses at a slice. -/
inductive MemOp where
  | load (ps : List (Nat × Nat))
  | store (ws : List Wr)
  | amo (addr op sz : Nat) (o : Word)
  | packet (addr op sz : Nat) (o : Datum) (c : Chain)
  | cas (addr sz : Nat) (cmp new : Word)
  | future (addr : Nat) (k : FutOp) (v : Datum)
  | counter (addr : Nat) (k : CtrOp) (v : Word)
  | reduce (addr op : Nat) (image : List Byte) (bad : List Nat) (va : Word)
  | arrange (addr : Nat) (kind : Nat) (r : ChangeRec)
  | put (desc pa : Nat) (chword : Word) (cons : Bool) (r : ChangeRec)
  | seal (pa : Nat) (wave : BitVec 32)
  | quiet (pa : Nat) (wave : BitVec 32) (watch held : Bool)
  | release (pa : Nat) (wave : BitVec 32) (n : Nat)
  | timeline (addr : Nat) (set : Bool) (v : Word)
  | watch (addr : Nat) (threshold : Word) (register : Bool)
  | append (queue : Nat) (image : List Byte)
  | writeBack (addr : Nat)
  | table (frame : Nat) (w0 w1 : Word)
  | tableRead (frame : Nat)
  | anchor (index : Nat) (w : Word)
  deriving DecidableEq, Repr

/-- A request in flight: its sender and the sender's tag for it (the entry a reply completes), the lanes whose store
count its acknowledgement lowers, its home (a core, or none for the slice of its physical address); `quiet` marks a part
of a request whose last part is the one that is answered. -/
structure Req where
  src : Source
  tag : Nat
  uids : List Nat
  home : Option Nat
  op : MemOp
  quiet : Bool := false
  deriving DecidableEq, Repr

/-- A notice entry (spec/12 Table 12-5): its four words. -/
structure Notice where
  w0 : Word
  w1 : Word
  w2 : Word
  w3 : Word
  deriving DecidableEq, Repr

/-- A notice on its way: its source, the entry, and whether it is a retry (spec/12 R322). -/
structure Post where
  src : Source
  notice : Notice
  again : Bool := false
  deriving DecidableEq, Repr

/-- A push through the matrix command window (spec/11 R279): the core and the names that its acknowledgement goes to, and, once
the store of its last word has been performed, the slot's 64 bytes with whether they carry poison. -/
structure WindowPush where
  ack : Option (Nat × List Nat)
  taken : Option (List Byte × Bool) := none
  deriving DecidableEq, Repr

/-- What the host does to a register of its port (spec/24 R489, R494). -/
inductive HostAccess where
  | write (v : Word)
  | read
  deriving DecidableEq, Repr

/-- A partition's image (spec/24 R500): its number, its code, and the trap routine of its compute cores (spec/01 R24). -/
structure SystemImage where
  id : Nat
  code : List (BitVec 16)
  trap : List (BitVec 16)
  deriving DecidableEq, Repr

/-- What makes an error fatal and where (spec/22 R478): FCAUSE, the SOURCE and INDEX of its event record, the die. -/
structure FatalAt where
  cause : Nat
  source : Nat
  index : Nat
  die : Nat
  deriving DecidableEq, Repr

/-- A context as a mailbox command names it: its partition and its number. -/
structure ContextName where
  part : Nat
  id : Nat
  deriving DecidableEq, Repr

/-- An SPDM message (spec/24 R504): its request code, and what GET_CERTIFICATE, CHALLENGE and GET_MEASUREMENTS ask for. -/
structure SpdmReq where
  code : Nat
  off : Nat
  len : Nat
  nonce : Nat
  index : Nat
  deriving DecidableEq, Repr

/-- An array that holds code-protected data or can enter retention (spec/22 Table 22-1). -/
inductive ArrayRef where
  | localMem (core : Nat)
  | codeStore (core : Nat)
  | arrivals (core : Nat)
  | buffer (core : Nat)
  | gangRegs (core : Nat)
  | slice (n : Nat)
  | stack (n : Nat)
  | clusterBuffer (n : Nat)
  | pool (n : Nat)
  deriving DecidableEq, Repr

/-- A rectangle of core positions on one package (spec/01 R20): its first row and column, its height and width. -/
structure Rect where
  pkg : Nat
  row : Nat
  col : Nat
  rows : Nat
  cols : Nat
  deriving DecidableEq, Repr

/-- Mailbox command RESTORE (spec/12 R317) with the rectangles that the supervisor picks for the context. -/
structure RestoreReq where
  ctx : Nat
  rects : List Rect
  deriving DecidableEq, Repr

/-- What starts a context (spec/02 R77): identifiers, the control block's address, the rectangles that the supervisor grants in
the order of the logical packages, and the image. -/
structure StartReq where
  part : Nat
  ctx : Nat
  ccb : Word
  seed : Option Word
  rects : List Rect
  dir : Word
  map : Word
  rings : Word
  frames : Word
  launchq : Word
  coreSave : Word
  clusterSave : Word
  chunkChan : Word
  watchdog : Word
  debug : Nat
  image : List Byte
  deriving DecidableEq, Repr

/-- Mailbox command PARTITION CREATE (spec/24 Table 24-4) with the resources that the supervisor picks for it: a rectangle on
each package, runs of global frame numbers, slice ways (16 times the slice, plus the way) with near-memory told from cache,
system cores, the fabric descriptor, containment rectangles, and the hash anchors (physical address and A, spec/14 R342). -/
structure PartitionReq where
  part : Nat
  area : List Rect
  frames : List (Nat × Nat)
  ways : List (Nat × Bool)
  sysCores : List Nat
  fabric : Word
  retIdle : Nat
  contain : List Rect
  ownerKey : Nat
  anchors : Nat
  anchorLog : Nat
  deriving DecidableEq, Repr

/-- Mailbox command WINDOW SET (spec/24 R493). -/
structure WindowReq where
  off : Nat
  size : Nat
  part : Nat
  vbase : Nat
  rd : Bool
  wr : Bool
  deriving DecidableEq, Repr

/-- An Ikitik request (spec/23 Table 23-2): header fields, then the payload as (address or number, size, value). -/
structure IkitikReq where
  seq : Nat
  part : Nat
  ctx : Nat
  core : Nat
  slot : Nat
  lane : Nat
  kind : Nat
  num : Nat
  len : Nat
  val : Word
  val2 : Word
  deriving DecidableEq, Repr


/-- The one instruction type: a constructor for every row of spec/opcode_table.json. The first 129 are the events
of the hardware, which have no encoding, each with the data it acts on (spec/95); the rest are the 302 encoded
instructions, with their fields named and sized as the table has them. -/
inductive Instr where
  /-- DELAY_SLOT_ANNUL: An annulled queue entry takes one issue cycle and performs nothing. (R115) -/
  | delaySlotAnnul
  /-- TIMER_EXPIRY: TIMER passes from 1 to 0 and the timer trap becomes pending. (R36) -/
  | timerExpiry (core : Nat)
  /-- TRAP_ENTRY: A pending or held trap is taken at a boundary into the trap routine. (R293) -/
  | trapEntry (core : Nat)
  /-- TRANSFER_PACKING: At the boundary after the second slot, selected lanes are checked, packed and removed. (R136) -/
  | transferPacking
  /-- CARRY_MESSAGE_SEND: A packed message leaves under a grant. (R143) -/
  | carryMessageSend (src : Source) (id : Nat)
  /-- SPILL: A message that waited 4,096 cycles is written to the overflow ring and OVF set. (R147) -/
  | spill (src : Source) (id : Nat)
  /-- GRANT_REQUEST: A destination channel receives and queues or grants a grant request. (R143) -/
  | grantRequest (q : GrantAsk)
  /-- GRANT: A grant arrives at its source and releases a waiting message or stands. (R144) -/
  | grant (q : GrantAsk)
  /-- REVOCATION: A revocation arrives and lapses an unused grant. (R159) -/
  | revocation (q : GrantAsk)
  /-- REFUSAL: A refusal for a mismatched kind arrives at the source. (R145) -/
  | refusal (q : GrantAsk)
  /-- CARRY_ARRIVAL: A carry message arrives in its granted slots. (R152) -/
  | carryArrival (m : Msg)
  /-- DATA_MESSAGE_ARRIVAL: A data message joins the channel's word queue. (R161) -/
  | dataMessageArrival (m : Msg)
  /-- CHANGE_MESSAGE_ARRIVAL: A change message arrives, consolidating at a CONS channel. (R446) -/
  | changeMessageArrival (m : Msg)
  /-- RING_DRAIN: A freed slot is filled from the overflow ring once the entry's read completes. (R150) -/
  | ringDrain (core : Nat) (ch : Nat)
  /-- REBINDING_TAKES_EFFECT: A rebinding channel takes its new entry once no gang of it remains. (R159) -/
  | rebindingTakesEffect (core : Nat) (ch : Nat)
  /-- FIRING: The selector chooses an eligible channel and forms a gang. (R372) -/
  | firing (core : Nat) (ch : Nat)
  /-- FRAME_RELEASE: The saving core receives a frame release and frees the frame. (R313) -/
  | frameRelease (core : Nat) (frame : Nat)
  /-- LOAD_REPLY: A load or atomic reply writes its pending register. (R108) -/
  | loadReply (core : Nat) (tag : Nat) (vals : List Datum)
  /-- FORWARDED_REPLY: A reply for a carried pending register is forwarded and written where the strand stands. (R359) -/
  | forwardedReply (core : Nat) (uid reg : Nat) (v : Datum)
  /-- FORWARDING_ENTRY_TIMEOUT: A forwarding entry undrained after 2,048 cycles is recorded. (R359) -/
  | forwardingEntryTimeout (core : Nat) (tag : Nat)
  /-- STORE_ACKNOWLEDGEMENT: An acknowledgement arrives and USC falls. (R109) -/
  | storeAcknowledgement (core : Nat) (uids : List Nat)
  /-- REMOTE_ACCESS: A local-memory unit performs a core-space access from another core. (R332) -/
  | remoteAccess (r : Req)
  /-- SLICE_OPERATION: A slice performs an access, atomic or packet on a block it homes. (R336) -/
  | sliceOperation (r : Req)
  /-- CHAINED_PACKET: A slice performs a chain link and forwards its result. (R240) -/
  | chainedPacket (r : Req)
  /-- FUTURE_RETRY: A blocked remote future operation is sent again after 256 cycles. (R243) -/
  | futureRetry (core : Nat) (tag : Nat)
  /-- COUNTER_UPDATE_RETRY: A refused counter update is repeated after 256 cycles. (R246) -/
  | counterUpdateRetry (core : Nat) (tag : Nat)
  /-- READY_QUEUE_SEND: The ready queue drains a codelet or counter message to its channel. (R246) -/
  | readyQueueSend (core : Nat)
  /-- COUNTER_EVENT: A counter crossing its threshold queues a kind-2 message. (R376) -/
  | counterEvent (core : Nat) (sel : Nat)
  /-- BARRIER_ARRIVAL: Arrivals are counted at the barrier node. (R248) -/
  | barrierArrival (core : Nat) (n count : Nat) (ack : Option (List Nat))
  /-- BARRIER_COMPLETION: A generation completes and GEN rises at each participant. (R248) -/
  | barrierCompletion (core : Nat) (n : Nat)
  /-- TIMELINE_WRITE: A write to a timeline word evaluates and releases registered watches. (R255) -/
  | timelineWrite (r : Req)
  /-- TIMELINE_RELEASE: A released waiter's tlwait completes and acquires. (R255) -/
  | timelineRelease (core : Nat) (tag : Nat)
  /-- COPY_UNIT: A copy queue moves one unit from source to destination. (R264) -/
  | copyUnit (core : Nat) (q : Nat)
  /-- COPY_COMPLETION: A copy completes and reports through its barrier, stream or ring. (R265) -/
  | copyCompletion (core : Nat) (q : Nat)
  /-- CHECKED_CHUNK_VERIFY: A home verifies a checked chunk before writing it. (R415) -/
  | checkedChunkVerify (core : Nat) (q : Nat)
  /-- CHUNK_RECORD_DROP: A record waiting 4,096 cycles for a grant is dropped. (R426) -/
  | chunkRecordDrop (src : Source) (id : Nat)
  /-- MATRIX_ARBITRATION: The matrix unit takes one request from the next queue in round-robin. (R281) -/
  | matrixArbitration (cluster : Nat)
  /-- MATRIX_K_STEP: One k-step of a product updates the accumulator tile. (R282) -/
  | matrixKStep (cluster : Nat)
  /-- MATRIX_DRAIN: A drain writes the scaled, rounded tile to OUT. (R285) -/
  | matrixDrain (cluster : Nat)
  /-- MATRIX_SET_CONTEXT: A set-context command writes the format context at the head. (R280) -/
  | matrixSetContext (cluster : Nat)
  /-- MATRIX_FENCE: A matrix fence completes once its copy queues have completed. (R286) -/
  | matrixFence (cluster : Nat)
  /-- MATRIX_COMPLETION: A command completes, raising MDRAW and signalling its barrier. (R286) -/
  | matrixCompletion (cluster : Nat)
  /-- MATRIX_WINDOW_PUSH: A store to a staging slot's last word pushes the command; `taken` is the slot's contents, and
  whether they carry poison, once that store has been performed. (R279) -/
  | matrixWindowPush (core : Nat) (slot : Nat) (v : Word) (p : WindowPush)
  /-- RING_WINDOW_PUSH: A store to a ring descriptor's w1 pushes tiles or sets OVERRUN. (R274) -/
  | ringWindowPush (core : Nat) (ring : Nat) (count : Word) (ack : Option (Nat × List Nat))
  /-- TRANSLATION_WALK: A walker searches the inverted page table and fills the buffers. (R344) -/
  | translationWalk (core : Nat) (va : Word)
  /-- TRANSLATION_FAULT: A faulting gang or lanes are saved to a fault frame and a notice posted. (R312) -/
  | translationFault (core : Nat) (frame : Nat)
  /-- INVALIDATION_ACK: A core's translation hardware acknowledges an invalidation. (R314) -/
  | invalidationAck (core : Nat) (tag : Nat)
  /-- NOTICE_POST: A notice of a source is written to the partition notice queue or retried every 256 cycles; `again` marks
  the retry. (R322) -/
  | noticePost (n : Post)
  /-- WATCHDOG_EXPIRY: The stall count reaches WATCHDOG and a notice is posted. (R378) -/
  | watchdogExpiry (core : Nat)
  /-- DERRICK_SELECTION: The derrick selects a runnable launch head and distributes up to 32 strands. (R369) -/
  | derrickSelection
  /-- LAUNCH_DONE: A record with every strand retired advances its done timeline. (R370) -/
  | launchDone (q idx : Nat)
  /-- LAUNCH_QUEUE_CONTROL: A CONTROL store sets HOLD or PRIO, and REPRIO reprioritises channels. (R371) -/
  | launchQueueControl (q : Nat) (v : Word)
  /-- CONTEXT_START: The loader places and starts a context from an image. (R77) -/
  | contextStart (r : StartReq)
  /-- PREEMPTION: The supervisor saves a whole context at instruction boundaries. (R316) -/
  | preemption
  /-- CONTEXT_RESTORE: A saved context is restored onto the rectangles that the supervisor has picked. (R317) -/
  | contextRestore
  /-- OUTBOUND_RECORD_SEND: A restored outbound record is sent under a fresh count. (R317) -/
  | outboundRecordSend (src : Source) (id : Nat)
  /-- CHANGE_SLICE_QUEUE_SEND: A slice queue forwards a change record under a grant. (R445) -/
  | changeSliceQueueSend (slice : Nat)
  /-- CHANGE_FIRING_END: A change firing's end sends the held record's decrement. (R449) -/
  | changeFiringEnd (core : Nat) (tag : Nat)
  /-- CHANGE_RECORD_LOST: A refused change message is removed, COUNT lowered and LOST set. (R447) -/
  | changeRecordLost (desc : Nat) (wave : BitVec 32)
  /-- QUIESCENCE_WATCH: A registered wave watch completes dxquiet when the wave is quiescent. (R453) -/
  | quiescenceWatch (core : Nat) (tag : Nat) (v : Word)
  /-- SCRUB: The scrubber reads and corrects a word of an awake array. (R463) -/
  | scrub (a : ArrayRef) (addr : Nat)
  /-- RETENTION_ENTRY: An idle array enters retention after RETIDLE cycles. (R468) -/
  | retentionEntry (a : ArrayRef)
  /-- RETENTION_EXIT: An access wakes an array, which decodes and corrects. (R469) -/
  | retentionExit (a : ArrayRef)
  /-- PAIR_INTERVAL_CLOSE: An interval closes and the pair exchanges fingerprints. (R471) -/
  | pairIntervalClose (core : Nat)
  /-- CONTAINMENT: A rectangle is fenced, stopped and discarded. (R475) -/
  | containment (rect trigger : Nat)
  /-- CONTAINMENT_RESET: Cores inside a contained rectangle are reset and the partition notified. (R475) -/
  | containmentReset (rect : Nat)
  /-- FATAL_ERROR: A fatal error stops every core and signals the host. (R478) -/
  | fatalError (cause : FatalAt) (array addr : Nat)
  /-- RECORDER_UNFREEZE: Clearing FROZEN resumes writing at NEXT. (R478) -/
  | recorderUnfreeze (die : Nat)
  /-- FRAME_BOUNDARY: The pod frame count rises every 8,192 cycles. (R394) -/
  | frameBoundary
  /-- PACKET_ADMISSION: A packet is admitted to a frame by the source's quota counts. (R396) -/
  | packetAdmission (src : Source) (cost : Nat)
  /-- MULTICAST_FORK: A router forks a multicast packet, named with its input, to its free branches. (R389) -/
  | multicastFork (tree : Nat × Nat)
  /-- MULTICAST_RESIDUAL_SEND: The residual copy is sent on a branch that frees. (R389) -/
  | multicastResidualSend (router : Nat)
  /-- REFUSED_TRAFFIC: A down port or contained boundary refuses a packet with its outcome. (R398) -/
  | refusedTraffic (r : Req)
  /-- FLIT_RECEIVE: A Wyal receiver accepts or discards a flit and acknowledges. (R400) -/
  | flitReceive (port : Nat) (flit : BitVec 512)
  /-- NEGATIVE_ACKNOWLEDGEMENT: A sender replays from the named SEQ. (R400) -/
  | negativeAcknowledgement (port seq : Nat)
  /-- CREDIT_RETURN: Link management returns buffer credits. (R401) -/
  | creditReturn (port vn n : Nat)
  /-- FRAME_MARK: A frame mark arrives and is passed on. (R402) -/
  | frameMark (port : Nat)
  /-- PORT_RETRAIN: Eight failed retries retrain the port or take it down. (R405) -/
  | portRetrain (port : Nat)
  /-- PORT_TRAINING: A port trains from DOWN through TRAIN to UP or back. (R499) -/
  | portTraining (port peer : Nat)
  /-- PORT_TRAINING_TIMEOUT: A port not UP within 50 ms returns to DOWN. (R499) -/
  | portTrainingTimeout (port : Nat)
  /-- THROTTLE_UPDATE: A block adjusts its throttle level once per 1.8e6 reference cycles. (R505) -/
  | throttleUpdate (block : Nat)
  /-- THERMAL_TRIP: A die at 115 °C stops the package as a fatal error. (R506) -/
  | thermalTrip (die : Nat)
  /-- POWER_ON: Power-on runs the boot stages. (R501) -/
  | powerOn
  /-- PCIE_RESET: A PCI Express conventional reset runs the boot stages. (R501) -/
  | pcieReset
  /-- RESET: DEVCTL RESET with ARM 0xA5 resets the package. (R490) -/
  | reset
  /-- HOST_REGISTER_WRITE: A host write to a register with no row of its own; a host read of a register other than DEVSTAT, which has
  no row, arrives as the same event. (R489, R494) -/
  | hostRegisterWrite (off : Nat) (a : HostAccess)
  /-- RING: A doorbell RING copies the staged record and starts an append. (R492) -/
  | ring (page : Nat) (v : Word)
  /-- DOORBELL_APPEND_DONE: The append completes, writing RESULT and raising DONE. (R492) -/
  | doorbellAppendDone (page : Nat)
  /-- CONTROL: A doorbell CONTROL write is performed as a store to a queue's CONTROL. (R492) -/
  | control (page q : Nat) (v : Word)
  /-- MEMORY_WINDOW_ACCESS: A host access through BAR4 is translated and performed. (R493) -/
  | memoryWindowAccess (off size : Nat) (write : Bool) (v : Word)
  /-- MAILBOX_REQUEST: The supervisor takes a request entry and answers with one response. (R495) -/
  | mailboxRequest
  /-- PARTITION_CREATE: Creates a partition from free resources. (R500) -/
  | partitionCreate (p : PartitionReq)
  /-- PARTITION_DESTROY: Destroys a partition after containing its contexts. (R495) -/
  | partitionDestroy (part : Nat)
  /-- IMAGE_LOAD: Verifies, measures and starts a partition system image: its own code, and the trap routine it brings
  (R24). (R500) -/
  | imageLoad (part : Nat) (image : SystemImage)
  /-- DOORBELL_ASSIGN: Assigns a doorbell page to a context. (R492) -/
  | doorbellAssign (page : Nat) (ctx : ContextName)
  /-- WINDOW_SET: Sets a memory window's mapping and permissions. (R493) -/
  | windowSet (win : Nat) (w : WindowReq)
  /-- PREEMPT: Mailbox command that pre-empts a context. (R316) -/
  | preempt (ctx : Nat)
  /-- RESTORE: Mailbox command that restores a context, on rectangles that the supervisor picks. (R317) -/
  | restore (r : RestoreReq)
  /-- DEBUG: Carries one Ikitik message. (R486) -/
  | debug (q : IkitikReq)
  /-- SPDM: Carries one SPDM message. (R504) -/
  | spdm (session : Nat) (msg : SpdmReq)
  /-- NOTICE: Returns up to 8 notice entries of a partition. (R495) -/
  | notice (part : Nat)
  /-- PORT: Restarts or stops a port and sets the route table. (R498) -/
  | port (port action : Nat) (routes : List Nat)
  /-- POWER: Sets the package cap, TLIMIT and RETIDLE. (R505) -/
  | power (cap tlimit part retidle : Nat)
  /-- SUPERVISOR_RESPONSE: The supervisor answers a supervisor call and releases the core. (R496) -/
  | supervisorResponse (core : Nat) (v : Word)
  /-- GET_VERSION: SPDM version request. (R504) -/
  | getVersion (session : Nat)
  /-- GET_CAPABILITIES: SPDM capabilities request. (R504) -/
  | getCapabilities (session : Nat)
  /-- NEGOTIATE_ALGORITHMS: SPDM algorithm negotiation. (R504) -/
  | negotiateAlgorithms (session : Nat)
  /-- GET_DIGESTS: SPDM certificate digests request. (R504) -/
  | getDigests (session : Nat)
  /-- GET_CERTIFICATE: SPDM certificate chain request. (R504) -/
  | getCertificate (session off len : Nat)
  /-- CHALLENGE: SPDM challenge signed with the identity key. (R504) -/
  | challenge (session nonce : Nat)
  /-- GET_MEASUREMENTS: SPDM measurement request. (R504) -/
  | getMeasurements (session index : Nat)
  /-- IKITIK_HALT: Halts the named gangs at their next allowed boundary. (R483) -/
  | ikitikHalt (q : IkitikReq)
  /-- IKITIK_RESUME: Resumes halted gangs. (R487) -/
  | ikitikResume (q : IkitikReq)
  /-- IKITIK_STEP: Steps a halted gang one instruction. (R484) -/
  | ikitikStep (q : IkitikReq)
  /-- STEPLANE: Steps a halted gang in one lane. (R484) -/
  | steplane (q : IkitikReq)
  /-- SETPOINT: Sets a code breakpoint or watchpoint. (R481) -/
  | setpoint (q : IkitikReq)
  /-- READGANG: Returns the gang image of a halted gang. (R488) -/
  | readgang (q : IkitikReq)
  /-- READCORE: Returns a core's barrier, stream, map and ring registers. (R486) -/
  | readcore (q : IkitikReq)
  /-- WRITEREG: Writes a register of a halted gang. (R487) -/
  | writereg (q : IkitikReq)
  /-- READARRIVALS: Returns a core's slot map and arrival buffer. (R486) -/
  | readarrivals (q : IkitikReq)
  /-- READMEM: Reads memory of the context. (R486) -/
  | readmem (q : IkitikReq)
  /-- READRECORDER: Reads records of a die's event recorder. (R486) -/
  | readrecorder (q : IkitikReq)
  /-- POWER_LOSS: Loss of power clears the event recorders and ends all state of the package. (R478) -/
  | powerLoss
  /-- IDLE_EXPIRY: An idle core resumes issue when gA cycles have passed. (R307) -/
  | idleExpiry (core : Nat)
  /-- CHANGE_PUT_RETRY: A dqput refused because the slice queue is full is sent again every 256 cycles. (R445) -/
  | changePutRetry (core : Nat) (tag : Nat)
  /-- LINK_MANAGEMENT_INTERVAL: Every 256 cycles a Wyal port sends link management contents again, among them those of a discarded management flit. (R401) -/
  | linkManagementInterval (port : Nat)
  /-- DEVSTAT_READ: A host read of DEVSTAT returns only after every earlier host write has been performed. (R494) -/
  | devstatRead
  /-- DIRECTORY_INVALIDATION_ACK: A core acknowledges the invalidation of its cached directory entry, which lets rrepl or rrepl.ret complete. (R133) -/
  | directoryInvalidationAck (core : Nat) (id : Nat)
  /-- RECORDER_FREEZE: The event recorder freezes on a supervisor request, with CAUSE 4. (R478) -/
  | recorderFreeze (die : Nat)
  /-- ADD: Gang add gA + gB into gD; with B = 0 it is mov. (R100) -/
  | add (d : BitVec 4) (a : BitVec 4) (b : BitVec 4)
  /-- SUB: Gang subtract gA − gB into gD. (R100) -/
  | sub (d : BitVec 4) (a : BitVec 4) (b : BitVec 4)
  /-- MUL: Low 64 bits of the gang product. (R100) -/
  | mul (d : BitVec 4) (a : BitVec 4) (b : BitVec 4)
  /-- MULH_S64: High 64 bits of the signed 128-bit product. (R100) -/
  | mulhS64 (d : BitVec 4) (a : BitVec 4) (b : BitVec 4)
  /-- MULH_N64: High 64 bits of the unsigned 128-bit product. (R100) -/
  | mulhN64 (d : BitVec 4) (a : BitVec 4) (b : BitVec 4)
  /-- DIV_S64: Signed quotient truncated toward zero, no trap on any divisor. (R101) -/
  | divS64 (d : BitVec 4) (a : BitVec 4) (b : BitVec 4)
  /-- DIV_N64: Unsigned quotient, all ones for a zero divisor. (R101) -/
  | divN64 (d : BitVec 4) (a : BitVec 4) (b : BitVec 4)
  /-- REM_S64: Signed remainder with the sign of the dividend. (R101) -/
  | remS64 (d : BitVec 4) (a : BitVec 4) (b : BitVec 4)
  /-- REM_N64: Unsigned remainder, the dividend for a zero divisor. (R101) -/
  | remN64 (d : BitVec 4) (a : BitVec 4) (b : BitVec 4)
  /-- AND: Bitwise and of two gang registers. (R100) -/
  | and (d : BitVec 4) (a : BitVec 4) (b : BitVec 4)
  /-- OR: Bitwise or of two gang registers. (R100) -/
  | or (d : BitVec 4) (a : BitVec 4) (b : BitVec 4)
  /-- XOR: Bitwise xor of two gang registers. (R100) -/
  | xor (d : BitVec 4) (a : BitVec 4) (b : BitVec 4)
  /-- ANDN: gA and not gB. (R100) -/
  | andn (d : BitVec 4) (a : BitVec 4) (b : BitVec 4)
  /-- SHL: Shift left by gB[5:0]. (R100) -/
  | shl (d : BitVec 4) (a : BitVec 4) (b : BitVec 4)
  /-- SHR: Logical shift right by gB[5:0]. (R100) -/
  | shr (d : BitVec 4) (a : BitVec 4) (b : BitVec 4)
  /-- SRA: Arithmetic shift right by gB[5:0]. (R100) -/
  | sra (d : BitVec 4) (a : BitVec 4) (b : BitVec 4)
  /-- ROL: Rotate left by gB[5:0]. (R100) -/
  | rol (d : BitVec 4) (a : BitVec 4) (b : BitVec 4)
  /-- MIN_S64: Signed minimum. (R100) -/
  | minS64 (d : BitVec 4) (a : BitVec 4) (b : BitVec 4)
  /-- MAX_S64: Signed maximum. (R100) -/
  | maxS64 (d : BitVec 4) (a : BitVec 4) (b : BitVec 4)
  /-- MIN_N64: Unsigned minimum. (R100) -/
  | minN64 (d : BitVec 4) (a : BitVec 4) (b : BitVec 4)
  /-- MAX_N64: Unsigned maximum. (R100) -/
  | maxN64 (d : BitVec 4) (a : BitVec 4) (b : BitVec 4)
  /-- SEQ: 1 when gA equals gB, else 0. (R100) -/
  | seq (d : BitVec 4) (a : BitVec 4) (b : BitVec 4)
  /-- SLT_S64: Signed less-than into gD. (R100) -/
  | sltS64 (d : BitVec 4) (a : BitVec 4) (b : BitVec 4)
  /-- SLT_N64: Unsigned less-than into gD. (R100) -/
  | sltN64 (d : BitVec 4) (a : BitVec 4) (b : BitVec 4)
  /-- CLZ: Count of leading zero bits. (R100) -/
  | clz (d : BitVec 4) (a : BitVec 4)
  /-- CTZ: Count of trailing zero bits. (R100) -/
  | ctz (d : BitVec 4) (a : BitVec 4)
  /-- POPC: Count of one bits. (R100) -/
  | popc (d : BitVec 4) (a : BitVec 4)
  /-- SEXT: Sign-extend the low n bits of gA. (R100) -/
  | sext (d : BitVec 4) (a : BitVec 4) (n : BitVec 6)
  /-- ZEXT: Zero-extend the low n bits of gA. (R100) -/
  | zext (d : BitVec 4) (a : BitVec 4) (n : BitVec 6)
  /-- BFX: Extract an n-bit field of gA from bit gB. (R100) -/
  | bfx (d : BitVec 4) (a : BitVec 4) (b : BitVec 4) (n : BitVec 6)
  /-- BFI: Insert gA[n−1:0] into gD at bit gB. (R100) -/
  | bfi (d : BitVec 4) (a : BitVec 4) (b : BitVec 4) (n : BitVec 6)
  /-- LEA: gA + gB × 2^s without address check. (R100) -/
  | lea (d : BitVec 4) (a : BitVec 4) (b : BitVec 4) (s : BitVec 2)
  /-- ADDI: Add a sign-extended immediate. (R102) -/
  | addi (d : BitVec 4) (a : BitVec 4) (i : BitVec 15)
  /-- MULI: Multiply by a sign-extended immediate. (R102) -/
  | muli (d : BitVec 4) (a : BitVec 4) (i : BitVec 15)
  /-- ANDI: And with a zero-extended immediate. (R102) -/
  | andi (d : BitVec 4) (a : BitVec 4) (i : BitVec 15)
  /-- ORI: Or with a zero-extended immediate. (R102) -/
  | ori (d : BitVec 4) (a : BitVec 4) (i : BitVec 15)
  /-- XORI: Xor with a zero-extended immediate. (R102) -/
  | xori (d : BitVec 4) (a : BitVec 4) (i : BitVec 15)
  /-- SHLI: Shift left by an immediate count. (R102) -/
  | shli (d : BitVec 4) (a : BitVec 4) (i : BitVec 6)
  /-- SHRI: Logical shift right by an immediate count. (R102) -/
  | shri (d : BitVec 4) (a : BitVec 4) (i : BitVec 6)
  /-- SRAI: Arithmetic shift right by an immediate count. (R102) -/
  | srai (d : BitVec 4) (a : BitVec 4) (i : BitVec 6)
  /-- SEQI: 1 when gA equals the immediate. (R102) -/
  | seqi (d : BitVec 4) (a : BitVec 4) (i : BitVec 15)
  /-- SLTI_S64: Signed less-than against an immediate. (R102) -/
  | sltiS64 (d : BitVec 4) (a : BitVec 4) (i : BitVec 15)
  /-- SLTI_N64: Unsigned less-than against a sign-extended immediate. (R102) -/
  | sltiN64 (d : BitVec 4) (a : BitVec 4) (i : BitVec 15)
  /-- RSBI: Immediate minus gA. (R102) -/
  | rsbi (d : BitVec 4) (a : BitVec 4) (i : BitVec 15)
  /-- MINI_S64: Signed minimum with an immediate. (R102) -/
  | miniS64 (d : BitVec 4) (a : BitVec 4) (i : BitVec 15)
  /-- MAXI_S64: Signed maximum with an immediate. (R102) -/
  | maxiS64 (d : BitVec 4) (a : BitVec 4) (i : BitVec 15)
  /-- MOVW: Writes a 16-bit immediate into one halfword and zeroes the rest. (R103) -/
  | movw (d : BitVec 4) (h : BitVec 2) (i : BitVec 16)
  /-- MOVK: Replaces one halfword of gD with an immediate. (R103) -/
  | movk (d : BitVec 4) (h : BitVec 2) (i : BitVec 16)
  /-- LDL: Gang load from local memory. (R107) -/
  | ldl (d : BitVec 4) (a : BitVec 4) (s : BitVec 2) (e : BitVec 1) (n : BitVec 1) (f : BitVec 11)
  /-- STL: Gang store to local memory. (R107) -/
  | stl (d : BitVec 4) (a : BitVec 4) (s : BitVec 2) (n : BitVec 1) (f : BitVec 11)
  /-- LD: Gang load from global or core space through the outstanding-load table. (R108) -/
  | ld (d : BitVec 4) (a : BitVec 4) (s : BitVec 2) (e : BitVec 1) (n : BitVec 1) (f : BitVec 11)
  /-- ST: Gang store to global or core space, counted in USC. (R109) -/
  | st (d : BitVec 4) (a : BitVec 4) (s : BitVec 2) (n : BitVec 1) (f : BitVec 11)
  /-- LD_ACQ: Acquire load at a scope. (R110) -/
  | ldAcq (d : BitVec 4) (a : BitVec 4) (s : BitVec 2) (e : BitVec 1) (c : BitVec 3)
  /-- ST_REL: Release store at a scope after USC reaches zero. (R110) -/
  | stRel (d : BitVec 4) (a : BitVec 4) (s : BitVec 2) (c : BitVec 3)
  /-- LDL_PR: Loads a register pair from local memory. (R106) -/
  | ldlPr (d : BitVec 4) (a : BitVec 4) (n : BitVec 1) (f : BitVec 11)
  /-- STL_PR: Stores a register pair to local memory. (R106) -/
  | stlPr (d : BitVec 4) (a : BitVec 4) (n : BitVec 1) (f : BitVec 11)
  /-- LD_NC: Load that does not allocate in the slice cache. (R106) -/
  | ldNc (d : BitVec 4) (a : BitVec 4) (s : BitVec 2) (e : BitVec 1) (n : BitVec 1) (f : BitVec 11)
  /-- ST_NC: Store that does not allocate in the slice cache. (R106) -/
  | stNc (d : BitVec 4) (a : BitVec 4) (s : BitVec 2) (n : BitVec 1) (f : BitVec 11)
  /-- PF: Prefetches a block into the slice cache, never trapping. (R111) -/
  | pf (a : BitVec 4) (n : BitVec 1) (f : BitVec 11)
  /-- WBK: Writes a dirty slice block back to HBM. (R111) -/
  | wbk (a : BitVec 4) (n : BitVec 1) (f : BitVec 11)
  /-- XLQ: Translation query returning mapped and permission bits. (R112) -/
  | xlq (d : BitVec 4) (a : BitVec 4) (n : BitVec 1) (f : BitVec 11)
  /-- STZ: Zeroes 64 bytes in global or core space as one store. (R109) -/
  | stz (a : BitVec 4) (n : BitVec 1) (f : BitVec 11)
  /-- CHKA: Returns the cause code an access would raise, without trapping. (R112) -/
  | chka (d : BitVec 4) (a : BitVec 4) (s : BitVec 2) (e : BitVec 1) (n : BitVec 1) (f : BitVec 11)
  /-- STZL: Zeroes 64 bytes of local memory. (R107) -/
  | stzl (a : BitVec 4) (n : BitVec 1) (f : BitVec 11)
  /-- B: Local branch under a condition, with two delay slots. (R119) -/
  | b (a : BitVec 4) (c : BitVec 3) (p : BitVec 16)
  /-- B_N: Nullifying branch that annuls both slots when not taken. (R115) -/
  | bN (a : BitVec 4) (c : BitVec 3) (p : BitVec 16)
  /-- CALL: Conditional local call writing the link to g15. (R120) -/
  | call (a : BitVec 4) (c : BitVec 3) (p : BitVec 16)
  /-- RET: Returns to the code address in gA within the routine. (R121) -/
  | ret (a : BitVec 4)
  /-- JR: Jumps to offset gA + gB. (R119) -/
  | jr (a : BitVec 4) (b : BitVec 4)
  /-- LOOP: Decrements gA and branches while the result is nonzero. (R119) -/
  | loop (a : BitVec 4) (p : BitVec 16)
  /-- LOOP_N: Nullifying loop branch. (R119) -/
  | loopN (a : BitVec 4) (p : BitVec 16)
  /-- B_EQ: Branch when gA equals gB. (R119) -/
  | bEq (a : BitVec 4) (b : BitVec 4) (p : BitVec 15)
  /-- B_NE: Branch when gA differs from gB. (R119) -/
  | bNe (a : BitVec 4) (b : BitVec 4) (p : BitVec 15)
  /-- B_LT_S64: Branch on signed less-than. (R119) -/
  | bLtS64 (a : BitVec 4) (b : BitVec 4) (p : BitVec 15)
  /-- B_LT_N64: Branch on unsigned less-than. (R119) -/
  | bLtN64 (a : BitVec 4) (b : BitVec 4) (p : BitVec 15)
  /-- B_GE_S64: Branch on signed greater-or-equal. (R119) -/
  | bGeS64 (a : BitVec 4) (b : BitVec 4) (p : BitVec 15)
  /-- B_GE_N64: Branch on unsigned greater-or-equal. (R119) -/
  | bGeN64 (a : BitVec 4) (b : BitVec 4) (p : BitVec 15)
  /-- YIELD: Lets the selector issue from another gang or firing. (R122) -/
  | yield
  /-- NOP: Does nothing. (R119) -/
  | nop
  /-- CALLR: Calls offset gA and writes the link to gD. (R120) -/
  | callr (d : BitVec 4) (a : BitVec 4)
  /-- JX: Transfers the selected lanes to another routine as carry messages. (R136) -/
  | jx (r : BitVec 16) (q : BitVec 3) (h : BitVec 1)
  /-- CX: Transfer elsewhere that writes the continuation to w31. (R136) -/
  | cx (r : BitVec 16) (q : BitVec 3) (h : BitVec 1)
  /-- JXR: Transfers the selected lanes to the code address in gA. (R136) -/
  | jxr (a : BitVec 4) (h : BitVec 1) (q : BitVec 3)
  /-- XRET: Transfers each selected lane to the code address in its w31. (R136) -/
  | xret (q : BitVec 3) (h : BitVec 1)
  /-- XEND: Retires the selected lanes after their stores are acknowledged. (R140) -/
  | xend (q : BitVec 3)
  /-- SEND: Queues a data message of 1–7 words, waiting while the send queue is full. (R162) -/
  | send (a : BitVec 4) (b : BitVec 4) (p : BitVec 1) (n : BitVec 3)
  /-- SENDNB: Queues a data message or reports a full queue without waiting. (R162) -/
  | sendnb (d : BitVec 4) (a : BitVec 4) (b : BitVec 4) (p : BitVec 1) (n : BitVec 3)
  /-- RECV: Takes the next word of a message channel, waiting while empty. (R164) -/
  | recv (d : BitVec 4) (a : BitVec 4)
  /-- RECVNB: Takes the next word of a message channel or reports empty. (R164) -/
  | recvnb (d : BitVec 4) (a : BitVec 4) (b : BitVec 4)
  /-- CHBIND: Binds a channel from a local image and returns a status. (R158) -/
  | chbind (d : BitVec 4) (a : BitVec 4) (b : BitVec 4)
  /-- LAUNCH: Appends a launch record to its launch queue. (R168) -/
  | launch (d : BitVec 4) (a : BitVec 4)
  /-- SPAWN: Creates one new strand per selected lane. (R169) -/
  | spawn (d : BitVec 4) (a : BitVec 4) (h : BitVec 1) (q : BitVec 3)
  /-- RREPL: Places a replica of a routine on another core. (R170) -/
  | rrepl (r : BitVec 16) (g : BitVec 3)
  /-- RREPL_RET: Retires a replica of a routine. (R171) -/
  | rreplRet (r : BitVec 16) (g : BitVec 3)
  /-- EVBIND: Binds a counter event to a message channel with a threshold. (R172) -/
  | evbind (d : BitVec 4) (a : BitVec 4) (b : BitVec 4)
  /-- EVBIND_OFF: Removes the counter event binding of a selector. (R172) -/
  | evbindOff (d : BitVec 4) (a : BitVec 4)
  /-- VCLAIM: Sets the channel's lane claim and reports available lanes. (R155) -/
  | vclaim (d : BitVec 4) (a : BitVec 4)
  /-- VRENEW: Returns vacated lanes and sets LANE_GRANT to GANG_SIZE. (R156) -/
  | vrenew (d : BitVec 4)
  /-- VADD: Lane element-wise integer add. (R208) -/
  | vadd (g : BitVec 3) (m : BitVec 2) (d : BitVec 6) (a : BitVec 6) (b : BitVec 6)
  /-- VSUB: Lane element-wise integer subtract. (R208) -/
  | vsub (g : BitVec 3) (m : BitVec 2) (d : BitVec 6) (a : BitVec 6) (b : BitVec 6)
  /-- VMUL: Lane element-wise low product. (R208) -/
  | vmul (g : BitVec 3) (m : BitVec 2) (d : BitVec 6) (a : BitVec 6) (b : BitVec 6)
  /-- VMULH_S: Lane signed high product. (R208) -/
  | vmulhS (g : BitVec 3) (m : BitVec 2) (d : BitVec 6) (a : BitVec 6) (b : BitVec 6)
  /-- VMULH_N: Lane unsigned high product. (R208) -/
  | vmulhN (g : BitVec 3) (m : BitVec 2) (d : BitVec 6) (a : BitVec 6) (b : BitVec 6)
  /-- VDIV_S: Lane signed division per element. (R208) -/
  | vdivS (g : BitVec 3) (m : BitVec 2) (d : BitVec 6) (a : BitVec 6) (b : BitVec 6)
  /-- VDIV_N: Lane unsigned division per element. (R208) -/
  | vdivN (g : BitVec 3) (m : BitVec 2) (d : BitVec 6) (a : BitVec 6) (b : BitVec 6)
  /-- VREM_S: Lane signed remainder per element. (R208) -/
  | vremS (g : BitVec 3) (m : BitVec 2) (d : BitVec 6) (a : BitVec 6) (b : BitVec 6)
  /-- VREM_N: Lane unsigned remainder per element. (R208) -/
  | vremN (g : BitVec 3) (m : BitVec 2) (d : BitVec 6) (a : BitVec 6) (b : BitVec 6)
  /-- VAND: Lane bitwise and. (R208) -/
  | vand (g : BitVec 3) (d : BitVec 6) (a : BitVec 6) (b : BitVec 6)
  /-- VOR: Lane bitwise or. (R208) -/
  | vor (g : BitVec 3) (d : BitVec 6) (a : BitVec 6) (b : BitVec 6)
  /-- VXOR: Lane bitwise xor. (R208) -/
  | vxor (g : BitVec 3) (d : BitVec 6) (a : BitVec 6) (b : BitVec 6)
  /-- VANDN: Lane and-not. (R208) -/
  | vandn (g : BitVec 3) (d : BitVec 6) (a : BitVec 6) (b : BitVec 6)
  /-- VSHL: Lane shift left per element. (R208) -/
  | vshl (g : BitVec 3) (m : BitVec 2) (d : BitVec 6) (a : BitVec 6) (b : BitVec 6)
  /-- VSHR: Lane logical shift right per element. (R208) -/
  | vshr (g : BitVec 3) (m : BitVec 2) (d : BitVec 6) (a : BitVec 6) (b : BitVec 6)
  /-- VSRA: Lane arithmetic shift right per element. (R208) -/
  | vsra (g : BitVec 3) (m : BitVec 2) (d : BitVec 6) (a : BitVec 6) (b : BitVec 6)
  /-- VMIN_S: Lane signed minimum. (R208) -/
  | vminS (g : BitVec 3) (m : BitVec 2) (d : BitVec 6) (a : BitVec 6) (b : BitVec 6)
  /-- VMIN_N: Lane unsigned minimum. (R208) -/
  | vminN (g : BitVec 3) (m : BitVec 2) (d : BitVec 6) (a : BitVec 6) (b : BitVec 6)
  /-- VMAX_S: Lane signed maximum. (R208) -/
  | vmaxS (g : BitVec 3) (m : BitVec 2) (d : BitVec 6) (a : BitVec 6) (b : BitVec 6)
  /-- VMAX_N: Lane unsigned maximum. (R208) -/
  | vmaxN (g : BitVec 3) (m : BitVec 2) (d : BitVec 6) (a : BitVec 6) (b : BitVec 6)
  /-- VCMPEQ: Lane equality compare into a predicate. (R209) -/
  | vcmpeq (g : BitVec 3) (m : BitVec 2) (d : BitVec 6) (a : BitVec 6) (b : BitVec 6)
  /-- VCMPLT_S: Lane signed less-than compare into a predicate. (R209) -/
  | vcmpltS (g : BitVec 3) (m : BitVec 2) (d : BitVec 6) (a : BitVec 6) (b : BitVec 6)
  /-- VCMPLT_N: Lane unsigned less-than compare into a predicate. (R209) -/
  | vcmpltN (g : BitVec 3) (m : BitVec 2) (d : BitVec 6) (a : BitVec 6) (b : BitVec 6)
  /-- VSEL: Selects A or B per lane by the guard predicate. (R210) -/
  | vsel (g : BitVec 3) (d : BitVec 6) (a : BitVec 6) (b : BitVec 6)
  /-- VCLZ: Lane count of leading zeros. (R208) -/
  | vclz (g : BitVec 3) (m : BitVec 2) (d : BitVec 6) (a : BitVec 6)
  /-- VPOPC: Lane population count. (R208) -/
  | vpopc (g : BitVec 3) (m : BitVec 2) (d : BitVec 6) (a : BitVec 6)
  /-- VLEA: Per-lane address A + LANE_INDEX × B. (R208) -/
  | vlea (g : BitVec 3) (d : BitVec 6) (a : BitVec 6) (b : BitVec 6)
  /-- VMOV: Moves a lane operand or constant. (R211) -/
  | vmov (g : BitVec 3) (d : BitVec 6) (a : BitVec 6)
  /-- VBCAST: Broadcasts the lowest guarded lane's value to every lane. (R211) -/
  | vbcast (g : BitVec 3) (d : BitVec 6) (a : BitVec 6)
  /-- VREDI: Integer reduction over guarded lanes into a gang register. (R212) -/
  | vredi (g : BitVec 3) (d : BitVec 4) (a : BitVec 6) (b : BitVec 6)
  /-- VSHUF: Reads a lane chosen by B per lane. (R211) -/
  | vshuf (g : BitVec 3) (d : BitVec 6) (a : BitVec 6) (b : BitVec 6)
  /-- VGEXT: Copies a gang register into lanes. (R211) -/
  | vgext (g : BitVec 3) (d : BitVec 6) (a : BitVec 4)
  /-- VFADD_F64: Binary64 lane add with a rounding mode. (R213) -/
  | vfaddF64 (g : BitVec 3) (m : BitVec 2) (d : BitVec 6) (a : BitVec 6) (b : BitVec 6)
  /-- VFSUB_F64: Binary64 lane subtract. (R213) -/
  | vfsubF64 (g : BitVec 3) (m : BitVec 2) (d : BitVec 6) (a : BitVec 6) (b : BitVec 6)
  /-- VFMUL_F64: Binary64 lane multiply. (R213) -/
  | vfmulF64 (g : BitVec 3) (m : BitVec 2) (d : BitVec 6) (a : BitVec 6) (b : BitVec 6)
  /-- VFMA_F64: Binary64 fused multiply-add. (R213) -/
  | vfmaF64 (g : BitVec 3) (m : BitVec 2) (d : BitVec 6) (a : BitVec 6) (b : BitVec 6)
  /-- VFADD_F32: Binary32 lane add. (R213) -/
  | vfaddF32 (g : BitVec 3) (m : BitVec 2) (d : BitVec 6) (a : BitVec 6) (b : BitVec 6)
  /-- VFSUB_F32: Binary32 lane subtract. (R213) -/
  | vfsubF32 (g : BitVec 3) (m : BitVec 2) (d : BitVec 6) (a : BitVec 6) (b : BitVec 6)
  /-- VFMUL_F32: Binary32 lane multiply. (R213) -/
  | vfmulF32 (g : BitVec 3) (m : BitVec 2) (d : BitVec 6) (a : BitVec 6) (b : BitVec 6)
  /-- VFMA_F32: Binary32 fused multiply-add. (R213) -/
  | vfmaF32 (g : BitVec 3) (m : BitVec 2) (d : BitVec 6) (a : BitVec 6) (b : BitVec 6)
  /-- VFADD_BF16: BF16 lane add per element. (R213) -/
  | vfaddBf16 (g : BitVec 3) (m : BitVec 2) (d : BitVec 6) (a : BitVec 6) (b : BitVec 6)
  /-- VFMUL_BF16: BF16 lane multiply per element. (R213) -/
  | vfmulBf16 (g : BitVec 3) (m : BitVec 2) (d : BitVec 6) (a : BitVec 6) (b : BitVec 6)
  /-- VFMA_BF16: BF16 fused multiply-add per element. (R213) -/
  | vfmaBf16 (g : BitVec 3) (m : BitVec 2) (d : BitVec 6) (a : BitVec 6) (b : BitVec 6)
  /-- VFADD_F16: Binary16 lane add per element. (R213) -/
  | vfaddF16 (g : BitVec 3) (m : BitVec 2) (d : BitVec 6) (a : BitVec 6) (b : BitVec 6)
  /-- VFMUL_F16: Binary16 lane multiply per element. (R213) -/
  | vfmulF16 (g : BitVec 3) (m : BitVec 2) (d : BitVec 6) (a : BitVec 6) (b : BitVec 6)
  /-- VFMA_F16: Binary16 fused multiply-add per element. (R213) -/
  | vfmaF16 (g : BitVec 3) (m : BitVec 2) (d : BitVec 6) (a : BitVec 6) (b : BitVec 6)
  /-- VFMIN: Floating-point lane minimum. (R213) -/
  | vfmin (g : BitVec 3) (m : BitVec 2) (d : BitVec 6) (a : BitVec 6) (b : BitVec 6)
  /-- VFMAX: Floating-point lane maximum. (R213) -/
  | vfmax (g : BitVec 3) (m : BitVec 2) (d : BitVec 6) (a : BitVec 6) (b : BitVec 6)
  /-- VFCMPEQ: Floating-point equality compare into a predicate. (R213) -/
  | vfcmpeq (g : BitVec 3) (m : BitVec 2) (d : BitVec 6) (a : BitVec 6) (b : BitVec 6)
  /-- VFCMPLT: Floating-point less-than compare into a predicate. (R213) -/
  | vfcmplt (g : BitVec 3) (m : BitVec 2) (d : BitVec 6) (a : BitVec 6) (b : BitVec 6)
  /-- VFCMPLE: Floating-point less-or-equal compare into a predicate. (R213) -/
  | vfcmple (g : BitVec 3) (m : BitVec 2) (d : BitVec 6) (a : BitVec 6) (b : BitVec 6)
  /-- VFDIV: Floating-point division rounded to nearest even. (R213) -/
  | vfdiv (g : BitVec 3) (m : BitVec 2) (d : BitVec 6) (a : BitVec 6) (b : BitVec 6)
  /-- VFSQRT: Floating-point square root. (R213) -/
  | vfsqrt (g : BitVec 3) (m : BitVec 2) (d : BitVec 6) (a : BitVec 6)
  /-- VFNEG: Inverts the sign bit of each element. (R213) -/
  | vfneg (g : BitVec 3) (m : BitVec 2) (d : BitVec 6) (a : BitVec 6)
  /-- VFABS: Clears the sign bit of each element. (R213) -/
  | vfabs (g : BitVec 3) (m : BitVec 2) (d : BitVec 6) (a : BitVec 6)
  /-- VFCLASS: Writes a class mask per element. (R214) -/
  | vfclass (g : BitVec 3) (m : BitVec 2) (d : BitVec 6) (a : BitVec 6)
  /-- VCVT: Converts between floating-point formats. (R216) -/
  | vcvt (g : BitVec 3) (m : BitVec 2) (d : BitVec 6) (a : BitVec 6) (t : BitVec 3) (s : BitVec 3)
  /-- VCVTX: Narrowing conversion under rodd or rsr. (R216) -/
  | vcvtx (g : BitVec 3) (m : BitVec 2) (d : BitVec 6) (a : BitVec 6) (t : BitVec 3) (s : BitVec 3)
  /-- VCVTI: Converts floating point to a saturated integer. (R217) -/
  | vcvti (g : BitVec 3) (m : BitVec 2) (d : BitVec 6) (a : BitVec 6) (t : BitVec 3) (s : BitVec 3)
  /-- VCVTF: Converts an integer to floating point. (R217) -/
  | vcvtf (g : BitVec 3) (m : BitVec 2) (d : BitVec 6) (a : BitVec 6) (t : BitVec 3) (s : BitVec 3)
  /-- VDOT2: Two-element 16-bit dot product into binary32. (R218) -/
  | vdot2 (g : BitVec 3) (m : BitVec 2) (d : BitVec 6) (a : BitVec 6) (b : BitVec 6)
  /-- VDOT4: Four-element FP8 dot product into binary32. (R218) -/
  | vdot4 (g : BitVec 3) (m : BitVec 2) (d : BitVec 6) (a : BitVec 6) (b : BitVec 6)
  /-- VDOT8: Eight-byte integer dot product into 32 bits. (R218) -/
  | vdot8 (g : BitVec 3) (m : BitVec 2) (d : BitVec 6) (a : BitVec 6) (b : BitVec 6)
  /-- VFRED: Floating-point reduction across guarded lanes by a fixed tree. (R219) -/
  | vfred (g : BitVec 3) (m : BitVec 2) (d : BitVec 6) (a : BitVec 6) (o : BitVec 2) (r : BitVec 2)
  /-- VBADD: Block-scaled add, re-encoded per block. (R221) -/
  | vbadd (g : BitVec 3) (m : BitVec 2) (d : BitVec 3) (f : BitVec 2) (a : BitVec 3) (b : BitVec 3)
  /-- VBSUB: Block-scaled subtract. (R221) -/
  | vbsub (g : BitVec 3) (m : BitVec 2) (d : BitVec 3) (f : BitVec 2) (a : BitVec 3) (b : BitVec 3)
  /-- VBMUL: Block-scaled multiply. (R221) -/
  | vbmul (g : BitVec 3) (m : BitVec 2) (d : BitVec 3) (f : BitVec 2) (a : BitVec 3) (b : BitVec 3)
  /-- VBFMA: Block-scaled fused multiply-add. (R221) -/
  | vbfma (g : BitVec 3) (m : BitVec 2) (d : BitVec 3) (f : BitVec 2) (a : BitVec 3) (b : BitVec 3)
  /-- VBMAX: Block-scaled maximum. (R221) -/
  | vbmax (g : BitVec 3) (m : BitVec 2) (d : BitVec 3) (f : BitVec 2) (a : BitVec 3) (b : BitVec 3)
  /-- VBMIN: Block-scaled minimum. (R221) -/
  | vbmin (g : BitVec 3) (m : BitVec 2) (d : BitVec 3) (f : BitVec 2) (a : BitVec 3) (b : BitVec 3)
  /-- VBSCALE: Scales a block by a power of two from a sidecar. (R221) -/
  | vbscale (g : BitVec 3) (m : BitVec 2) (d : BitVec 3) (f : BitVec 2) (a : BitVec 3) (b : BitVec 3)
  /-- VBNORM: Re-encodes a block at the least allowed scale. (R221) -/
  | vbnorm (g : BitVec 3) (m : BitVec 2) (d : BitVec 3) (f : BitVec 2) (a : BitVec 3)
  /-- VBPACK: Packs 32 BF16 values into one MX block. (R222) -/
  | vbpack (g : BitVec 3) (m : BitVec 2) (d : BitVec 3) (f : BitVec 2) (a : BitVec 3) (b : BitVec 3)
  /-- VBUNPACK: Unpacks 16 MX elements into BF16. (R223) -/
  | vbunpack (g : BitVec 3) (m : BitVec 2) (d : BitVec 3) (f : BitVec 2) (a : BitVec 3) (c : BitVec 3)
  /-- VSXPACK: Packs 16 BF16 values into one SX block. (R222) -/
  | vsxpack (g : BitVec 3) (m : BitVec 2) (d : BitVec 3) (f : BitVec 2) (a : BitVec 3)
  /-- VSXUNPACK: Unpacks one SX block into BF16. (R223) -/
  | vsxunpack (g : BitVec 3) (m : BitVec 2) (d : BitVec 3) (f : BitVec 2) (a : BitVec 3) (c : BitVec 3)
  /-- VKGET: Reads a sidecar scale into a lane register. (R221) -/
  | vkget (g : BitVec 3) (d : BitVec 3) (a : BitVec 3)
  /-- VKSET: Writes a sidecar scale from a lane register. (R221) -/
  | vkset (g : BitVec 3) (d : BitVec 3) (a : BitVec 3)
  /-- VBDOT: Block-scaled dot product into binary32. (R221) -/
  | vbdot (g : BitVec 3) (m : BitVec 2) (d : BitVec 3) (f : BitVec 2) (a : BitVec 3) (b : BitVec 3)
  /-- VBCVT: Converts a block between MX formats. (R221) -/
  | vbcvt (g : BitVec 3) (m : BitVec 2) (d : BitVec 3) (f : BitVec 2) (a : BitVec 3) (s : BitVec 3)
  /-- VLDL: Lane load from local memory. (R226) -/
  | vldl (g : BitVec 3) (m : BitVec 2) (d : BitVec 6) (a : BitVec 6) (e : BitVec 1) (c : BitVec 4)
  /-- VSTL: Lane store to local memory. (R226) -/
  | vstl (g : BitVec 3) (m : BitVec 2) (d : BitVec 6) (a : BitVec 6) (c : BitVec 4)
  /-- VLD: Lane load from global or core space, with per-lane translation faults. (R227) -/
  | vld (g : BitVec 3) (m : BitVec 2) (d : BitVec 6) (a : BitVec 6) (e : BitVec 1) (c : BitVec 4)
  /-- VST: Lane store to global or core space. (R227) -/
  | vst (g : BitVec 3) (m : BitVec 2) (d : BitVec 6) (a : BitVec 6) (c : BitVec 4)
  /-- VLD_ACQ: Lane acquire load at a scope. (R229) -/
  | vldAcq (g : BitVec 3) (m : BitVec 2) (d : BitVec 6) (a : BitVec 6) (e : BitVec 1) (s : BitVec 3)
  /-- VST_REL: Lane release store at a scope. (R229) -/
  | vstRel (g : BitVec 3) (m : BitVec 2) (d : BitVec 6) (a : BitVec 6) (s : BitVec 3)
  /-- VLDLQ: Loads a register quad from local memory. (R230) -/
  | vldlq (g : BitVec 3) (d : BitVec 3) (a : BitVec 6) (s : BitVec 1)
  /-- VSTLQ: Stores a register quad to local memory. (R230) -/
  | vstlq (g : BitVec 3) (d : BitVec 3) (a : BitVec 6) (s : BitVec 1)
  /-- VLDQ: Loads a register quad from global or core space. (R230) -/
  | vldq (g : BitVec 3) (d : BitVec 3) (a : BitVec 6) (s : BitVec 1)
  /-- VSTQ: Stores a register quad to global or core space. (R230) -/
  | vstq (g : BitVec 3) (d : BitVec 3) (a : BitVec 6) (s : BitVec 1)
  /-- VPF: Lane prefetch into slice caches. (R231) -/
  | vpf (g : BitVec 3) (a : BitVec 6)
  /-- SRD: Takes stream elements into guarded lanes, waiting for enough. (R233) -/
  | srd (g : BitVec 3) (d : BitVec 6) (n : BitVec 2)
  /-- SRDNB: Takes stream elements where available and sets a predicate. (R232) -/
  | srdnb (g : BitVec 3) (d : BitVec 6) (p : BitVec 3) (n : BitVec 2)
  /-- SCNT: Reads the number of held stream elements. (R232) -/
  | scnt (g : BitVec 3) (d : BitVec 6) (n : BitVec 2)
  /-- SDROP: Discards the n oldest stream elements. (R232) -/
  | sdrop (g : BitVec 3) (a : BitVec 6) (n : BitVec 2)
  /-- SRESET: Discards all stream elements and ends the binding. (R232) -/
  | sreset (g : BitVec 3) (n : BitVec 2)
  /-- AMO: Atomic at the home returning the old value. (R238) -/
  | amo (d : BitVec 4) (a : BitVec 4) (b : BitVec 4) (z : BitVec 2) (o : BitVec 8)
  /-- AMOCAS: Compare-and-swap at the home. (R237) -/
  | amocas (d : BitVec 4) (a : BitVec 4) (b : BitVec 4) (z : BitVec 2)
  /-- AMOL: Atomic on the issuing core's local memory. (R238) -/
  | amol (d : BitVec 4) (a : BitVec 4) (b : BitVec 4) (z : BitVec 2) (o : BitVec 8)
  /-- SOP: Slice packet operation returning the new value. (R237) -/
  | sop (d : BitVec 4) (a : BitVec 4) (b : BitVec 4) (z : BitVec 2) (o : BitVec 8)
  /-- SOP_CH: Sends a chained packet image to a slice. (R240) -/
  | sopCh (a : BitVec 4)
  /-- FPUT: Releases and writes a future word when empty, waiting when full. (R242) -/
  | fput (a : BitVec 4) (b : BitVec 4)
  /-- FPUTNB: Writes a future word if empty, else reports full. (R242) -/
  | fputnb (d : BitVec 4) (a : BitVec 4) (b : BitVec 4)
  /-- FTAKE: Takes a full future word, waiting while empty. (R242) -/
  | ftake (d : BitVec 4) (a : BitVec 4)
  /-- FTAKENB: Takes a future word if full, else reports empty. (R242) -/
  | ftakenb (d : BitVec 4) (a : BitVec 4) (b : BitVec 4)
  /-- FPEEK: Reads a future word and its state without change. (R242) -/
  | fpeek (d : BitVec 4) (a : BitVec 4) (b : BitVec 4)
  /-- DCSET: Sets a dependence counter, queuing the codelet on reaching zero. (R245) -/
  | dcset (d : BitVec 4) (a : BitVec 4) (b : BitVec 4) (o : BitVec 1)
  /-- DCADD: Adds to a dependence counter with saturation. (R245) -/
  | dcadd (d : BitVec 4) (a : BitVec 4) (b : BitVec 4) (o : BitVec 1)
  /-- DCDEC: Decrements a dependence counter, queuing the codelet at zero. (R245) -/
  | dcdec (d : BitVec 4) (a : BitVec 4) (b : BitVec 4) (o : BitVec 1)
  /-- SOPW: Write-only slice packet with operand from local memory. (R238) -/
  | sopw (a : BitVec 4) (b : BitVec 4) (z : BitVec 2) (o : BitVec 8)
  /-- AMONR: Atomic without result. (R237) -/
  | amonr (a : BitVec 4) (b : BitVec 4) (z : BitVec 2) (o : BitVec 8)
  /-- SOPQ: Slice packet whose result is put into a local future. (R239) -/
  | sopq (d : BitVec 4) (a : BitVec 4) (b : BitVec 4) (z : BitVec 2) (o : BitVec 8)
  /-- CCOPY: Validates and queues a tensor copy on a copy queue. (R263) -/
  | ccopy (a : BitVec 4) (b : BitVec 4) (s : BitVec 3) (t : BitVec 3) (w : BitVec 1) (j : BitVec 3) (k : BitVec 2) (q : BitVec 2)
  /-- CFENCE: Queues a fence entry joining named queues. (R268) -/
  | cfence (q : BitVec 2) (m : BitVec 5)
  /-- MCMD: Validates and queues a matrix command. (R278) -/
  | mcmd (a : BitVec 4)
  /-- MGANG: Queues a ganged matrix command over 2–4 partners. (R288) -/
  | mgang (a : BitVec 4)
  /-- MRESUME: Restarts the stopped matrix command from MPROG. (R284) -/
  | mresume
  /-- MRESUME_ABORT: Discards the stopped matrix command. (R284) -/
  | mresumeAbort
  /-- MFENCE: Queues a matrix fence on copy queues. (R286) -/
  | mfence (m : BitVec 4)
  /-- MDRAIN: Queues a drain of an accumulator tile. (R285) -/
  | mdrain (a : BitVec 4) (b : BitVec 4) (o : BitVec 3) (t : BitVec 3) (c : BitVec 3)
  /-- MSTAT: Writes the matrix queue status word. (R287) -/
  | mstat (a : BitVec 4)
  /-- MSTAT_CTX: Writes the core's format context. (R287) -/
  | mstatCtx (a : BitVec 4)
  /-- CSTAT: Writes a copy queue's status word. (R270) -/
  | cstat (a : BitVec 4) (q : BitVec 2)
  /-- CSTAT_DROP: Discards a stopped copy head and writes the status. (R270) -/
  | cstatDrop (a : BitVec 4) (q : BitVec 2)
  /-- TMSET: Validates and loads a tensor map register. (R260) -/
  | tmset (a : BitVec 4) (b : BitVec 4) (n : BitVec 3)
  /-- TMGET: Stores a tensor map image. (R260) -/
  | tmget (a : BitVec 4) (n : BitVec 3)
  /-- RGSET: Loads a ring descriptor with a status. (R272) -/
  | rgset (a : BitVec 4) (b : BitVec 4) (n : BitVec 3)
  /-- RGGET: Stores both words of a ring descriptor. (R272) -/
  | rgget (a : BitVec 4) (n : BitVec 3)
  /-- RGPUSH: Releases and pushes n tiles onto a ring. (R273) -/
  | rgpush (a : BitVec 4) (b : BitVec 4) (n : BitVec 3)
  /-- RGPOP: Pops n tiles from a ring. (R273) -/
  | rgpop (a : BitVec 4) (b : BitVec 4) (n : BitVec 3)
  /-- CWAIT: Waits for named engine queues and acquires. (R269) -/
  | cwait (m : BitVec 5)
  /-- BARBIND: Binds or unbinds a barrier register at a scope. (R250) -/
  | barbind (a : BitVec 4) (b : BitVec 4) (n : BitVec 3) (s : BitVec 3)
  /-- BARARR: Releases and adds arrivals to a barrier. (R251) -/
  | bararr (a : BitVec 4) (b : BitVec 4) (n : BitVec 3)
  /-- BARWAIT: Waits for a new barrier generation and acquires. (R249) -/
  | barwait (a : BitVec 4) (n : BitVec 3)
  /-- BARWAITNB: Tests for a new barrier generation. (R249) -/
  | barwaitnb (a : BitVec 4) (b : BitVec 4) (n : BitVec 3)
  /-- FENCE: Full fence at a scope. (R252) -/
  | fence (s : BitVec 3)
  /-- FENCE_ACQ: Acquire fence waiting for earlier load replies. (R252) -/
  | fenceAcq (s : BitVec 3)
  /-- FENCE_REL: Release fence holding later effects. (R252) -/
  | fenceRel (s : BitVec 3)
  /-- TLWAIT: Waits on a timeline threshold, registering a slice watch. (R255) -/
  | tlwait (a : BitVec 4) (b : BitVec 4)
  /-- TLWAITNB: Tests a timeline against a threshold. (R254) -/
  | tlwaitnb (a : BitVec 4) (b : BitVec 4)
  /-- TLADD: Releases and adds to a timeline. (R254) -/
  | tladd (a : BitVec 4) (b : BitVec 4)
  /-- TLADD_SET: Releases and sets a timeline. (R254) -/
  | tladdSet (a : BitVec 4) (b : BitVec 4)
  /-- CKGEN: Writes a chunk trailer per lane. (R423) -/
  | ckgen (g : BitVec 3) (d : BitVec 6) (a : BitVec 6) (b : BitVec 6)
  /-- CKVER: Verifies a chunk image into a predicate. (R423) -/
  | ckver (g : BitVec 3) (d : BitVec 6) (a : BitVec 6) (b : BitVec 6)
  /-- CKFOLD: Folds a source chunk into a destination with checks. (R424) -/
  | ckfold (g : BitVec 3) (d : BitVec 6) (a : BitVec 6) (b : BitVec 6)
  /-- DQPUT: Puts a change record to a channel through its dataflow slice. (R445) -/
  | dqput (d : BitVec 4) (a : BitVec 4) (b : BitVec 4) (c : BitVec 1)
  /-- DXLOOK: Looks up an arrangement entry. (R451) -/
  | dxlook (d : BitVec 4) (a : BitVec 4) (b : BitVec 4) (s : BitVec 1) (k : BitVec 1)
  /-- DXADD: Adds a multiplicity to an arrangement entry. (R451) -/
  | dxadd (d : BitVec 4) (a : BitVec 4) (b : BitVec 4) (s : BitVec 1)
  /-- DXSEAL: Releases and seals a wave of a dataflow. (R452) -/
  | dxseal (d : BitVec 4) (a : BitVec 4) (b : BitVec 4)
  /-- DXQUIET: Waits until a wave is quiescent. (R453) -/
  | dxquiet (d : BitVec 4) (a : BitVec 4) (b : BitVec 4)
  /-- DXQUIETNB: Tests whether a wave is quiescent. (R453) -/
  | dxquietnb (d : BitVec 4) (a : BitVec 4) (b : BitVec 4)
  /-- SGET: Reads a special register. (R300) -/
  | sget (d : BitVec 4) (s : BitVec 8)
  /-- SSET: Writes a special register. (R300) -/
  | sset (a : BitVec 4) (s : BitVec 8)
  /-- SCALL: Raises the supervisor call at level 2. (R301) -/
  | scall (d : BitVec 4) (a : BitVec 4) (s : BitVec 8)
  /-- PCALL: Raises the partition call, or performs a partition service at level 1–2. (R301) -/
  | pcall (d : BitVec 4) (a : BitVec 4) (s : BitVec 8)
  /-- TRET: Returns from the trap routine, reloading the queue. (R296) -/
  | tret
  /-- BRK: Raises the breakpoint trap after the instruction. (R299) -/
  | brk (s : BitVec 8)
  /-- WPSET: Loads a code breakpoint or watchpoint for the context. (R305) -/
  | wpset (d : BitVec 4) (a : BitVec 4) (k : BitVec 1) (n : BitVec 3)
  /-- XLINV: Invalidates a 64 KiB translation across a scope. (R314) -/
  | xlinv (a : BitVec 4) (s : BitVec 3)
  /-- XLINV_LG: Invalidates a 2 MiB translation across a scope. (R314) -/
  | xlinvLg (a : BitVec 4) (s : BitVec 3)
  /-- XLINV_ALL: Invalidates every translation of the partition. (R314) -/
  | xlinvAll (s : BitVec 3)
  /-- CLDW: Reads an interrupted gang's register into the trap bank. (R302) -/
  | cldw (d : BitVec 4) (n : BitVec 4)
  /-- CLDW_W: Writes an interrupted gang's register from the trap bank. (R302) -/
  | cldwW (a : BitVec 4) (n : BitVec 4)
  /-- CHWR: Writes a handler-table entry without rebinding. (R303) -/
  | chwr (d : BitVec 4) (a : BitVec 4) (c : BitVec 6)
  /-- CHRD: Stores a handler-table entry. (R303) -/
  | chrd (a : BitVec 4) (c : BitVec 6)
  /-- EBRD: Reads a word of an error bank. (R321) -/
  | ebrd (d : BitVec 4) (a : BitVec 4) (w : BitVec 2)
  /-- EBRD_CLR: Reads and clears an error bank. (R321) -/
  | ebrdClr (d : BitVec 4) (a : BitVec 4) (w : BitVec 2)
  /-- INJ: Arms one injected error. (R306) -/
  | inj (d : BitVec 4) (a : BitVec 4) (s : BitVec 8)
  /-- IDLE: Stops issue until cycles pass, an arrival or the timer. (R307) -/
  | idle (a : BitVec 4)
  /-- HALT: Makes the next tret leave the gang in debug halt. (R307) -/
  | halt
  /-- SSTEP: Single-steps the interrupted gang after tret. (R307) -/
  | sstep (a : BitVec 4)
  /-- SSTEP_LN: Single-steps one lane of the interrupted gang. (R307) -/
  | sstepLn (a : BitVec 4)
  /-- BRK_COMPACT: Compact breakpoint; 0x0000 is brk 0. (R88) -/
  | brkCompact (i : BitVec 8)
  /-- ADD_COMPACT: Compact add on g0–g7. (R88) -/
  | addCompact (d : BitVec 3) (a : BitVec 3) (b : BitVec 3)
  /-- SUB_COMPACT: Compact sub. (R88) -/
  | subCompact (d : BitVec 3) (a : BitVec 3) (b : BitVec 3)
  /-- AND_COMPACT: Compact and. (R88) -/
  | andCompact (d : BitVec 3) (a : BitVec 3) (b : BitVec 3)
  /-- OR_COMPACT: Compact or. (R88) -/
  | orCompact (d : BitVec 3) (a : BitVec 3) (b : BitVec 3)
  /-- XOR_COMPACT: Compact xor. (R88) -/
  | xorCompact (d : BitVec 3) (a : BitVec 3) (b : BitVec 3)
  /-- ADDI_COMPACT: Compact addi d, d, imm7. (R88) -/
  | addiCompact (d : BitVec 3) (i : BitVec 7)
  /-- SHLI_COMPACT: Compact shli. (R88) -/
  | shliCompact (d : BitVec 3) (i : BitVec 6)
  /-- SHRI_COMPACT: Compact shri. (R88) -/
  | shriCompact (d : BitVec 3) (i : BitVec 6)
  /-- SRAI_COMPACT: Compact srai. (R88) -/
  | sraiCompact (d : BitVec 3) (i : BitVec 6)
  /-- ANDI_COMPACT: Compact andi. (R88) -/
  | andiCompact (d : BitVec 3) (i : BitVec 7)
  /-- LDL_COMPACT: Compact 8-byte local load. (R88) -/
  | ldlCompact (d : BitVec 3) (a : BitVec 3) (f : BitVec 4)
  /-- STL_COMPACT: Compact 8-byte local store. (R88) -/
  | stlCompact (d : BitVec 3) (a : BitVec 3) (f : BitVec 4)
  /-- LD_COMPACT: Compact 8-byte load. (R88) -/
  | ldCompact (d : BitVec 3) (a : BitVec 3) (f : BitVec 4)
  /-- ST_COMPACT: Compact 8-byte store. (R88) -/
  | stCompact (d : BitVec 3) (a : BitVec 3) (f : BitVec 4)
  /-- B_COMPACT: Compact unconditional branch. (R88) -/
  | bCompact (p : BitVec 10)
  /-- B_Z_COMPACT: Compact branch when zero. (R88) -/
  | bZCompact (a : BitVec 3) (p : BitVec 7)
  /-- B_NZ_COMPACT: Compact branch when nonzero. (R88) -/
  | bNzCompact (a : BitVec 3) (p : BitVec 7)
  /-- LOOP_COMPACT: Compact loop. (R88) -/
  | loopCompact (a : BitVec 3) (p : BitVec 7)
  /-- VADD_COMPACT: Compact vadd.n64 on w0–w7. (R88) -/
  | vaddCompact (d : BitVec 3) (a : BitVec 3) (b : BitVec 3) (c : BitVec 1)
  /-- VSUB_COMPACT: Compact vsub.n64. (R88) -/
  | vsubCompact (d : BitVec 3) (a : BitVec 3) (b : BitVec 3) (c : BitVec 1)
  /-- VMUL_COMPACT: Compact vmul.n64. (R88) -/
  | vmulCompact (d : BitVec 3) (a : BitVec 3) (b : BitVec 3) (c : BitVec 1)
  /-- VAND_COMPACT: Compact vand. (R88) -/
  | vandCompact (d : BitVec 3) (a : BitVec 3) (b : BitVec 3) (c : BitVec 1)
  /-- VOR_COMPACT: Compact vor. (R88) -/
  | vorCompact (d : BitVec 3) (a : BitVec 3) (b : BitVec 3) (c : BitVec 1)
  /-- VXOR_COMPACT: Compact vxor. (R88) -/
  | vxorCompact (d : BitVec 3) (a : BitVec 3) (b : BitVec 3) (c : BitVec 1)
  /-- VMOV_COMPACT: Compact vmov. (R88) -/
  | vmovCompact (d : BitVec 3) (a : BitVec 3)
  /-- VFADD_F32_COMPACT: Compact vfadd.f32 under rne. (R88) -/
  | vfaddF32Compact (d : BitVec 3) (a : BitVec 3) (b : BitVec 3) (c : BitVec 1)
  /-- VFMUL_F32_COMPACT: Compact vfmul.f32 under rne. (R88) -/
  | vfmulF32Compact (d : BitVec 3) (a : BitVec 3) (b : BitVec 3) (c : BitVec 1)
  /-- VFMA_F32_COMPACT: Compact vfma.f32 under rne. (R88) -/
  | vfmaF32Compact (d : BitVec 3) (a : BitVec 3) (b : BitVec 3) (c : BitVec 1)
  /-- VCMPEQ_COMPACT: Compact vcmpeq.n64 into a predicate. (R88) -/
  | vcmpeqCompact (d : BitVec 3) (a : BitVec 3) (b : BitVec 3) (c : BitVec 1)
  /-- XEND_COMPACT: Compact xend of every lane. (R88) -/
  | xendCompact
  /-- XRET_COMPACT: Compact xret of every lane. (R88) -/
  | xretCompact
  deriving DecidableEq, Repr

end Sys2Proof
end

