-- ==== Sys2Proof/WellFormed.lean ====
section
/-! DEFINITION. Which field values an instruction may hold: the value-level rules of spec/03 (R83, R84, R87, Table 3-8)
and of each instruction's entry, with the subcode that each breach reports. -/
namespace Sys2Proof

/-- A subcode when its breach holds. -/
def check (sub : Nat) (breach : Prop) [Decidable breach] : Option Nat := if breach then some sub else none

/-- The lowest of several optional subcodes (R89). -/
def least : List (Option Nat) → Option Nat
  | [] => none
  | none :: cs => least cs
  | some a :: cs => match least cs with
    | none => some a
    | some b => some (min a b)

/-- A lane source field: 37-47 name nothing (R83). -/
def laneSrc (x : BitVec 6) : Option Nat := check 2 (37 ≤ x.toNat ∧ x.toNat ≤ 47)
/-- A lane destination field: no constant either (R83). -/
def laneDst (x : BitVec 6) : Option Nat := least [laneSrc x, check 3 (48 ≤ x.toNat)]
/-- A predicate destination (R83). -/
def predNum (x : BitVec 6) : Option Nat := check 4 (8 ≤ x.toNat)
/-- A field that must name `w0`-`w31` (spec/10 R225, spec/18 R423). -/
def laneMain (x : BitVec 6) : Option Nat := least [laneSrc x, check 5 (32 ≤ x.toNat)]
/-- Format M with an index: OFF[6:0] is zero (R81). -/
def indexOff (n : BitVec 1) (f : BitVec 11) : Option Nat := check 1 (n = 1 ∧ f.toNat % 128 ≠ 0)
/-- A scope field with codes 0-5 (spec/04 R106). -/
def scopeCode (c : BitVec 3) : Option Nat := check 4 (6 ≤ c.toNat)
/-- The format code F of the quad instructions (R84). -/
def formatCode (f m : BitVec 2) : Nat := f.toNat * 4 + m.toNat
/-- A format code within a row's column F (spec/09 Table 9-7). -/
def formatIn (f m : BitVec 2) (lo hi : Nat) : Option Nat := check 4 (formatCode f m < lo ∨ hi < formatCode f m)
/-- Blocks held by a quad of an SX format (spec/08 R196). -/
def sxBlocks (F : Nat) : Nat := if F = 6 then 4 else if F = 7 then 2 else 1
/-- Fraction bits of the conversion codes of Table 9-6. -/
def fracBits (code : Nat) : Nat :=
  match code with
  | 0 => 52 | 1 => 23 | 2 => 7 | 3 => 10 | 4 => 3 | _ => 2
/-- A format code of Table 11-2 within a range (spec/18 R423). -/
def fmtIn (x : BitVec 6) (lo hi : Nat) : Option Nat := check 4 (x.toNat < lo ∨ hi < x.toNat)
/-- The size code an operation of Table 10-3 takes is right: 2 or 3 for 0x01-0x09, else its row's. -/
def opSizeOk (o z : Nat) : Bool :=
  if 1 ≤ o ∧ o ≤ 9 then z == 2 || z == 3
  else if o = 0x11 then z == 3
  else if 0x20 ≤ o ∧ o ≤ 0x23 then z == 3
  else z == 2
/-- An operation of Table 10-3 that an instruction accepts: 0x01-0x09 and 0x10 to `top`, and the chunk reductions
0x20-0x23 where `red` holds, with its size (spec/10 R236, R237; spec/18 R422). -/
def opOk (top : Nat) (red : Bool) (o z : Nat) : Bool :=
  ((1 ≤ o && o ≤ 9) || (0x10 ≤ o && o ≤ top) || (red && 0x20 ≤ o && o ≤ 0x23)) && opSizeOk o z
/-- The OP and SZ fields of an instruction that carries an operation. -/
def opCode (top : Nat) (red : Bool) (o : BitVec 8) (z : BitVec 2) : Option Nat :=
  check 4 (opOk top red o.toNat z.toNat = false)


/-- The lowest subcode of Table 3-8 that the field values of an instruction break, if any: the values that a row's
fixed bits do not already rule out. Compact rows and events break none. `send` takes 1 to 7 words (spec/06 R162). `ccopy` is
accepted with ARR = 1 under a binding other than a barrier, and with an object number under BIND 0: the spec does not say that
either is refused; nor that a nonzero A under COND 0 of `b`, `b.n` and `call` is, which is accepted too (DESIGN CHOICE, log 44). -/
def illegal : Instr → Option Nat
  | .add _ _ _ => none
  | .sub _ _ _ => none
  | .mul _ _ _ => none
  | .mulhS64 _ _ _ => none
  | .mulhN64 _ _ _ => none
  | .divS64 _ _ _ => none
  | .divN64 _ _ _ => none
  | .remS64 _ _ _ => none
  | .remN64 _ _ _ => none
  | .and _ _ _ => none
  | .or _ _ _ => none
  | .xor _ _ _ => none
  | .andn _ _ _ => none
  | .shl _ _ _ => none
  | .shr _ _ _ => none
  | .sra _ _ _ => none
  | .rol _ _ _ => none
  | .minS64 _ _ _ => none
  | .maxS64 _ _ _ => none
  | .minN64 _ _ _ => none
  | .maxN64 _ _ _ => none
  | .seq _ _ _ => none
  | .sltS64 _ _ _ => none
  | .sltN64 _ _ _ => none
  | .clz _ _ => none
  | .ctz _ _ => none
  | .popc _ _ => none
  | .sext _ _ _ => none
  | .zext _ _ _ => none
  | .bfx _ _ _ _ => none
  | .bfi _ _ _ _ => none
  | .lea _ _ _ _ => none
  | .addi _ _ _ => none
  | .muli _ _ _ => none
  | .andi _ _ _ => none
  | .ori _ _ _ => none
  | .xori _ _ _ => none
  | .shli _ _ _ => none
  | .shri _ _ _ => none
  | .srai _ _ _ => none
  | .seqi _ _ _ => none
  | .sltiS64 _ _ _ => none
  | .sltiN64 _ _ _ => none
  | .rsbi _ _ _ => none
  | .miniS64 _ _ _ => none
  | .maxiS64 _ _ _ => none
  | .movw _ _ _ => none
  | .movk _ _ _ => none
  | .ldl _ _ s e n f => least [indexOff n f, check 4 (e = 1 ∧ s = 3)]
  | .stl _ _ _ n f => least [indexOff n f]
  | .ld _ _ s e n f => least [indexOff n f, check 4 (e = 1 ∧ s = 3)]
  | .st _ _ _ n f => least [indexOff n f]
  | .ldAcq _ _ s e c => least [check 4 (e = 1 ∧ s = 3), scopeCode c]
  | .stRel _ _ _ c => least [scopeCode c]
  | .ldlPr d _ n f => least [indexOff n f, check 5 (d.toNat % 2 = 1)]
  | .stlPr d _ n f => least [indexOff n f, check 5 (d.toNat % 2 = 1)]
  | .ldNc _ _ s e n f => least [indexOff n f, check 4 (e = 1 ∧ s = 3)]
  | .stNc _ _ _ n f => least [indexOff n f]
  | .pf _ n f => least [indexOff n f]
  | .wbk _ n f => least [indexOff n f]
  | .xlq _ _ n f => least [indexOff n f]
  | .stz _ n f => least [indexOff n f]
  | .chka _ _ _ _ n f => least [indexOff n f]
  | .stzl _ n f => least [indexOff n f]
  | .b a c _ => least [check 5 (5 ≤ c.toNat ∧ 8 ≤ a.toNat)]
  | .bN a c _ => least [check 5 (5 ≤ c.toNat ∧ 8 ≤ a.toNat)]
  | .call a c _ => least [check 5 (5 ≤ c.toNat ∧ 8 ≤ a.toNat)]
  | .ret _ => none
  | .jr _ _ => none
  | .loop _ _ => none
  | .loopN _ _ => none
  | .bEq _ _ _ => none
  | .bNe _ _ _ => none
  | .bLtS64 _ _ _ => none
  | .bLtN64 _ _ _ => none
  | .bGeS64 _ _ _ => none
  | .bGeN64 _ _ _ => none
  | .yield => none
  | .nop => none
  | .callr _ _ => none
  | .jx _ _ _ => none
  | .cx _ _ _ => none
  | .jxr _ _ _ => none
  | .xret _ _ => none
  | .xend _ => none
  | .send _ _ _ n => check 4 (n = 7)
  | .sendnb _ _ _ _ n => check 4 (n = 7)
  | .recv _ _ => none
  | .recvnb _ _ _ => none
  | .chbind _ _ _ => none
  | .launch _ _ => none
  | .spawn _ _ _ _ => none
  | .rrepl _ _ => none
  | .rreplRet _ _ => none
  | .evbind _ _ _ => none
  | .evbindOff _ _ => none
  | .vclaim _ _ => none
  | .vrenew _ => none
  | .vadd _ _ d a b => least [laneDst d, laneSrc a, laneSrc b]
  | .vsub _ _ d a b => least [laneDst d, laneSrc a, laneSrc b]
  | .vmul _ _ d a b => least [laneDst d, laneSrc a, laneSrc b]
  | .vmulhS _ _ d a b => least [laneDst d, laneSrc a, laneSrc b]
  | .vmulhN _ _ d a b => least [laneDst d, laneSrc a, laneSrc b]
  | .vdivS _ _ d a b => least [laneDst d, laneSrc a, laneSrc b]
  | .vdivN _ _ d a b => least [laneDst d, laneSrc a, laneSrc b]
  | .vremS _ _ d a b => least [laneDst d, laneSrc a, laneSrc b]
  | .vremN _ _ d a b => least [laneDst d, laneSrc a, laneSrc b]
  | .vand _ d a b => least [laneDst d, laneSrc a, laneSrc b]
  | .vor _ d a b => least [laneDst d, laneSrc a, laneSrc b]
  | .vxor _ d a b => least [laneDst d, laneSrc a, laneSrc b]
  | .vandn _ d a b => least [laneDst d, laneSrc a, laneSrc b]
  | .vshl _ _ d a b => least [laneDst d, laneSrc a, laneSrc b]
  | .vshr _ _ d a b => least [laneDst d, laneSrc a, laneSrc b]
  | .vsra _ _ d a b => least [laneDst d, laneSrc a, laneSrc b]
  | .vminS _ _ d a b => least [laneDst d, laneSrc a, laneSrc b]
  | .vminN _ _ d a b => least [laneDst d, laneSrc a, laneSrc b]
  | .vmaxS _ _ d a b => least [laneDst d, laneSrc a, laneSrc b]
  | .vmaxN _ _ d a b => least [laneDst d, laneSrc a, laneSrc b]
  | .vcmpeq _ _ d a b => least [predNum d, laneSrc a, laneSrc b]
  | .vcmpltS _ _ d a b => least [predNum d, laneSrc a, laneSrc b]
  | .vcmpltN _ _ d a b => least [predNum d, laneSrc a, laneSrc b]
  | .vsel _ d a b => least [laneDst d, laneSrc a, laneSrc b]
  | .vclz _ _ d a => least [laneDst d, laneSrc a]
  | .vpopc _ _ d a => least [laneDst d, laneSrc a]
  | .vlea _ d a b => least [laneDst d, laneSrc a, laneSrc b]
  | .vmov _ d a => least [laneDst d, laneSrc a]
  | .vbcast _ d a => least [laneDst d, laneSrc a]
  | .vredi _ _ a b => least [laneSrc a, check 4 (48 ≤ b.toNat)]
  | .vshuf _ d a b => least [laneDst d, laneSrc a, laneSrc b]
  | .vgext _ d _ => least [laneDst d]
  | .vfaddF64 _ _ d a b => least [laneDst d, laneSrc a, laneSrc b]
  | .vfsubF64 _ _ d a b => least [laneDst d, laneSrc a, laneSrc b]
  | .vfmulF64 _ _ d a b => least [laneDst d, laneSrc a, laneSrc b]
  | .vfmaF64 _ _ d a b => least [laneDst d, laneSrc a, laneSrc b]
  | .vfaddF32 _ _ d a b => least [laneDst d, laneSrc a, laneSrc b]
  | .vfsubF32 _ _ d a b => least [laneDst d, laneSrc a, laneSrc b]
  | .vfmulF32 _ _ d a b => least [laneDst d, laneSrc a, laneSrc b]
  | .vfmaF32 _ _ d a b => least [laneDst d, laneSrc a, laneSrc b]
  | .vfaddBf16 _ _ d a b => least [laneDst d, laneSrc a, laneSrc b]
  | .vfmulBf16 _ _ d a b => least [laneDst d, laneSrc a, laneSrc b]
  | .vfmaBf16 _ _ d a b => least [laneDst d, laneSrc a, laneSrc b]
  | .vfaddF16 _ _ d a b => least [laneDst d, laneSrc a, laneSrc b]
  | .vfmulF16 _ _ d a b => least [laneDst d, laneSrc a, laneSrc b]
  | .vfmaF16 _ _ d a b => least [laneDst d, laneSrc a, laneSrc b]
  | .vfmin _ _ d a b => least [laneDst d, laneSrc a, laneSrc b]
  | .vfmax _ _ d a b => least [laneDst d, laneSrc a, laneSrc b]
  | .vfcmpeq _ _ d a b => least [predNum d, laneSrc a, laneSrc b]
  | .vfcmplt _ _ d a b => least [predNum d, laneSrc a, laneSrc b]
  | .vfcmple _ _ d a b => least [predNum d, laneSrc a, laneSrc b]
  | .vfdiv _ _ d a b => least [laneDst d, laneSrc a, laneSrc b]
  | .vfsqrt _ _ d a => least [laneDst d, laneSrc a]
  | .vfneg _ _ d a => least [laneDst d, laneSrc a]
  | .vfabs _ _ d a => least [laneDst d, laneSrc a]
  | .vfclass _ _ d a => least [laneDst d, laneSrc a]
  | .vcvt _ _ d a t s => least [laneDst d, laneSrc a, check 4 (6 ≤ t.toNat), check 4 (6 ≤ s.toNat)]
  | .vcvtx _ m d a t s => least [laneDst d, laneSrc a, check 4 (6 ≤ t.toNat), check 4 (6 ≤ s.toNat), check 4 (2 ≤ m.toNat), check 4 (t.toNat ≤ 5 ∧ s.toNat ≤ 5 ∧ fracBits s.toNat ≤ fracBits t.toNat)]
  | .vcvti _ _ d a _ s => least [laneDst d, laneSrc a, check 4 (6 ≤ s.toNat)]
  | .vcvtf _ _ d a t _ => least [laneDst d, laneSrc a, check 4 (6 ≤ t.toNat)]
  | .vdot2 _ _ d a b => least [laneDst d, laneSrc a, laneSrc b]
  | .vdot4 _ _ d a b => least [laneDst d, laneSrc a, laneSrc b]
  | .vdot8 _ m d a b => least [laneDst d, laneSrc a, laneSrc b, check 4 (m = 3)]
  | .vfred _ _ d a o r => least [laneDst d, laneSrc a, check 4 (o = 3), check 1 ((o = 1 ∨ o = 2) ∧ r ≠ 0)]
  | .vbadd _ m _ f _ _ => least [formatIn f m 0 8]
  | .vbsub _ m _ f _ _ => least [formatIn f m 0 8]
  | .vbmul _ m _ f _ _ => least [formatIn f m 0 8]
  | .vbfma _ m _ f _ _ => least [formatIn f m 0 8]
  | .vbmax _ m _ f _ _ => least [formatIn f m 0 8]
  | .vbmin _ m _ f _ _ => least [formatIn f m 0 8]
  | .vbscale _ m _ f _ _ => least [formatIn f m 0 8]
  | .vbnorm _ m _ f _ => least [formatIn f m 0 8]
  | .vbpack _ m _ f _ _ => least [formatIn f m 0 5]
  | .vbunpack _ m _ f _ c => least [formatIn f m 0 5, check 4 ((if formatCode f m = 4 then 4 else 2) ≤ c.toNat)]
  | .vsxpack _ m _ f _ => least [formatIn f m 6 8]
  | .vsxunpack _ m _ f _ c => least [formatIn f m 6 8, check 4 (sxBlocks (formatCode f m) ≤ c.toNat)]
  | .vkget _ _ _ => none
  | .vkset _ _ _ => none
  | .vbdot _ m _ f _ _ => least [formatIn f m 0 8]
  | .vbcvt _ m _ f _ s => least [formatIn f m 0 8, check 4 (formatCode f m = 4 ∨ 6 ≤ formatCode f m), check 4 (s.toNat = 4 ∨ 6 ≤ s.toNat)]
  | .vldl _ m d a e _ => least [laneDst d, laneMain a, check 4 (e = 1 ∧ m = 3)]
  | .vstl _ _ d a _ => least [laneDst d, laneMain a]
  | .vld _ m d a e _ => least [laneDst d, laneMain a, check 4 (e = 1 ∧ m = 3)]
  | .vst _ _ d a _ => least [laneDst d, laneMain a]
  | .vldAcq _ m d a e s => least [laneDst d, laneMain a, check 4 (e = 1 ∧ m = 3), scopeCode s]
  | .vstRel _ _ d a s => least [laneDst d, laneMain a, scopeCode s]
  | .vldlq _ _ a _ => least [laneMain a]
  | .vstlq _ _ a _ => least [laneMain a]
  | .vldq _ _ a _ => least [laneMain a]
  | .vstq _ _ a _ => least [laneMain a]
  | .vpf _ a => least [laneMain a]
  | .srd _ d _ => least [laneDst d]
  | .srdnb _ d _ _ => least [laneDst d]
  | .scnt _ d _ => least [laneDst d]
  | .sdrop _ a _ => least [laneSrc a]
  | .sreset _ _ => none
  | .amo _ _ _ z o => least [opCode 0x14 false o z]
  | .amocas _ _ _ z => least [check 4 (z ≠ 2 ∧ z ≠ 3)]
  | .amol _ _ _ z o => least [opCode 0x14 false o z]
  | .sop _ _ _ z o => least [opCode 0x15 true o z]
  | .sopCh _ => none
  | .fput _ _ => none
  | .fputnb _ _ _ => none
  | .ftake _ _ => none
  | .ftakenb _ _ _ => none
  | .fpeek _ _ _ => none
  | .dcset d _ _ o => least [check 1 (o = 0 ∧ d ≠ 0)]
  | .dcadd d _ _ o => least [check 1 (o = 0 ∧ d ≠ 0)]
  | .dcdec d _ _ o => least [check 1 (o = 0 ∧ d ≠ 0)]
  | .sopw _ _ z o => least [opCode 0x14 false o z]
  | .amonr _ _ z o => least [opCode 0x14 false o z]
  | .sopq _ _ _ z o => least [opCode 0x15 true o z]
  | .ccopy _ b _ t _ j k _ => least [check 4 (k = 2 ∧ 4 ≤ j.toNat), check 1 (k = 2 ∧ (b ≠ 0 ∨ t ≠ 0))]
  | .cfence _ _ => none
  | .mcmd _ => none
  | .mgang _ => none
  | .mresume => none
  | .mresumeAbort => none
  | .mfence _ => none
  | .mdrain _ _ _ t c => least [check 1 (c.toNat / 2 % 2 = 0 ∧ t ≠ 0)]
  | .mstat _ => none
  | .mstatCtx _ => none
  | .cstat _ _ => none
  | .cstatDrop _ _ => none
  | .tmset _ _ _ => none
  | .tmget _ _ => none
  | .rgset _ _ _ => none
  | .rgget _ _ => none
  | .rgpush _ _ _ => none
  | .rgpop _ _ _ => none
  | .cwait _ => none
  | .barbind _ _ _ s => least [scopeCode s]
  | .bararr _ _ _ => none
  | .barwait _ _ => none
  | .barwaitnb _ _ _ => none
  | .fence s => least [check 4 (s = 7)]
  | .fenceAcq s => least [check 4 (s = 7)]
  | .fenceRel s => least [check 4 (s = 7)]
  | .tlwait _ _ => none
  | .tlwaitnb _ _ => none
  | .tladd _ _ => none
  | .tladdSet _ _ => none
  | .ckgen _ d a b => least [fmtIn d 1 14, laneMain a, laneSrc b]
  | .ckver _ d a b => least [predNum d, fmtIn b 1 14, laneMain a]
  | .ckfold _ d a b => least [fmtIn d 9 12, laneMain a, laneMain b]
  | .dqput _ _ _ _ => none
  | .dxlook _ _ _ _ _ => none
  | .dxadd _ _ _ _ => none
  | .dxseal _ _ _ => none
  | .dxquiet _ _ _ => none
  | .dxquietnb _ _ _ => none
  | .sget _ s => least [check 4 (0x19 ≤ s.toNat)]
  | .sset _ s => least [check 4 (0x19 ≤ s.toNat)]
  | .scall _ _ _ => none
  | .pcall _ _ _ => none
  | .tret => none
  | .brk _ => none
  | .wpset _ _ k n => least [check 1 (k = 0 ∧ 4 ≤ n.toNat)]
  | .xlinv _ s => least [scopeCode s]
  | .xlinvLg _ s => least [scopeCode s]
  | .xlinvAll s => least [scopeCode s]
  | .cldw _ _ => none
  | .cldwW _ _ => none
  | .chwr _ _ _ => none
  | .chrd _ _ => none
  | .ebrd _ _ _ => none
  | .ebrdClr _ _ _ => none
  | .inj _ _ s => least [check 4 (4 ≤ s.toNat)]
  | .idle _ => none
  | .halt => none
  | .sstep _ => none
  | .sstepLn _ => none
  | .brkCompact _ => none
  | .addCompact _ _ _ => none
  | .subCompact _ _ _ => none
  | .andCompact _ _ _ => none
  | .orCompact _ _ _ => none
  | .xorCompact _ _ _ => none
  | .addiCompact _ _ => none
  | .shliCompact _ _ => none
  | .shriCompact _ _ => none
  | .sraiCompact _ _ => none
  | .andiCompact _ _ => none
  | .ldlCompact _ _ _ => none
  | .stlCompact _ _ _ => none
  | .ldCompact _ _ _ => none
  | .stCompact _ _ _ => none
  | .bCompact _ => none
  | .bZCompact _ _ => none
  | .bNzCompact _ _ => none
  | .loopCompact _ _ => none
  | .vaddCompact _ _ _ _ => none
  | .vsubCompact _ _ _ _ => none
  | .vmulCompact _ _ _ _ => none
  | .vandCompact _ _ _ _ => none
  | .vorCompact _ _ _ _ => none
  | .vxorCompact _ _ _ _ => none
  | .vmovCompact _ _ => none
  | .vfaddF32Compact _ _ _ _ => none
  | .vfmulF32Compact _ _ _ _ => none
  | .vfmaF32Compact _ _ _ _ => none
  | .vcmpeqCompact _ _ _ _ => none
  | .xendCompact => none
  | .xretCompact => none
  | .delaySlotAnnul => none
  | .timerExpiry _ => none
  | .trapEntry _ => none
  | .transferPacking => none
  | .carryMessageSend _ _ => none
  | .spill _ _ => none
  | .grantRequest _ => none
  | .grant _ => none
  | .revocation _ => none
  | .refusal _ => none
  | .carryArrival _ => none
  | .dataMessageArrival _ => none
  | .changeMessageArrival _ => none
  | .ringDrain _ _ => none
  | .rebindingTakesEffect _ _ => none
  | .firing _ _ => none
  | .frameRelease _ _ => none
  | .loadReply _ _ _ => none
  | .forwardedReply _ _ _ _ => none
  | .forwardingEntryTimeout _ _ => none
  | .storeAcknowledgement _ _ => none
  | .remoteAccess _ => none
  | .sliceOperation _ => none
  | .chainedPacket _ => none
  | .futureRetry _ _ => none
  | .counterUpdateRetry _ _ => none
  | .readyQueueSend _ => none
  | .counterEvent _ _ => none
  | .barrierArrival _ _ _ _ => none
  | .barrierCompletion _ _ => none
  | .timelineWrite _ => none
  | .timelineRelease _ _ => none
  | .copyUnit _ _ => none
  | .copyCompletion _ _ => none
  | .checkedChunkVerify _ _ => none
  | .chunkRecordDrop _ _ => none
  | .matrixArbitration _ => none
  | .matrixKStep _ => none
  | .matrixDrain _ => none
  | .matrixSetContext _ => none
  | .matrixFence _ => none
  | .matrixCompletion _ => none
  | .matrixWindowPush _ _ _ _ => none
  | .ringWindowPush _ _ _ _ => none
  | .translationWalk _ _ => none
  | .translationFault _ _ => none
  | .invalidationAck _ _ => none
  | .noticePost _ => none
  | .watchdogExpiry _ => none
  | .derrickSelection => none
  | .launchDone _ _ => none
  | .launchQueueControl _ _ => none
  | .contextStart _ => none
  | .preemption => none
  | .contextRestore => none
  | .outboundRecordSend _ _ => none
  | .changeSliceQueueSend _ => none
  | .changeFiringEnd _ _ => none
  | .changeRecordLost _ _ => none
  | .quiescenceWatch _ _ _ => none
  | .scrub _ _ => none
  | .retentionEntry _ => none
  | .retentionExit _ => none
  | .pairIntervalClose _ => none
  | .containment _ _ => none
  | .containmentReset _ => none
  | .fatalError _ _ _ => none
  | .recorderUnfreeze _ => none
  | .frameBoundary => none
  | .packetAdmission _ _ => none
  | .multicastFork _ => none
  | .multicastResidualSend _ => none
  | .refusedTraffic _ => none
  | .flitReceive _ _ => none
  | .negativeAcknowledgement _ _ => none
  | .creditReturn _ _ _ => none
  | .frameMark _ => none
  | .portRetrain _ => none
  | .portTraining _ _ => none
  | .portTrainingTimeout _ => none
  | .throttleUpdate _ => none
  | .thermalTrip _ => none
  | .powerOn => none
  | .pcieReset => none
  | .reset => none
  | .hostRegisterWrite _ _ => none
  | .ring _ _ => none
  | .doorbellAppendDone _ => none
  | .control _ _ _ => none
  | .memoryWindowAccess _ _ _ _ => none
  | .mailboxRequest => none
  | .partitionCreate _ => none
  | .partitionDestroy _ => none
  | .imageLoad _ _ => none
  | .doorbellAssign _ _ => none
  | .windowSet _ _ => none
  | .preempt _ => none
  | .restore _ => none
  | .debug _ => none
  | .spdm _ _ => none
  | .notice _ => none
  | .port _ _ _ => none
  | .power _ _ _ _ => none
  | .supervisorResponse _ _ => none
  | .getVersion _ => none
  | .getCapabilities _ => none
  | .negotiateAlgorithms _ => none
  | .getDigests _ => none
  | .getCertificate _ _ _ => none
  | .challenge _ _ => none
  | .getMeasurements _ _ => none
  | .ikitikHalt _ => none
  | .ikitikResume _ => none
  | .ikitikStep _ => none
  | .steplane _ => none
  | .setpoint _ => none
  | .readgang _ => none
  | .readcore _ => none
  | .writereg _ => none
  | .readarrivals _ => none
  | .readmem _ => none
  | .readrecorder _ => none
  | .powerLoss => none
  | .idleExpiry _ => none
  | .changePutRetry _ _ => none
  | .linkManagementInterval _ => none
  | .devstatRead => none
  | .directoryInvalidationAck _ _ => none
  | .recorderFreeze _ => none

/-- An instruction whose field values break no rule. -/
def WellFormed (i : Instr) : Prop := illegal i = none

end Sys2Proof
end

