-- ==== Sys2Proof/Decode.lean ====
section
/-! DEFINITION. From bits to instructions and back (spec/03). A 32-bit instruction is taken as one number whose bits
[31:16] are its first halfword (R4, R78), which is how spec/opcode_table.json numbers it. Decoding is total: it gives an
instruction, or the lowest subcode of Table 3-8 that the word breaks (R89). -/
namespace Sys2Proof

/-- Bits [hi:lo] of a number (R3). -/
def bits (w hi lo : Nat) : Nat := w / 2 ^ lo % 2 ^ (hi + 1 - lo)

/-- The `n` bits of a number from bit `lo` upward. -/
def fld (w lo n : Nat) : BitVec n := BitVec.ofNat n (w / 2 ^ lo)

/-- Opcodes 0x00-0x0F of Table 3-4, by bits [26:23]. -/
noncomputable def row0 (w : Nat) : Nat → Instr × List (Nat × Nat × Nat × Nat)
  | 0 => (.add (fld w 19 4) (fld w 15 4) (fld w 11 4), [(10, 0, 0, 1)])
  | 1 => (.sub (fld w 19 4) (fld w 15 4) (fld w 11 4), [(10, 0, 0, 1)])
  | 2 => (.mul (fld w 19 4) (fld w 15 4) (fld w 11 4), [(10, 0, 0, 1)])
  | 3 => (.mulhS64 (fld w 19 4) (fld w 15 4) (fld w 11 4), [(10, 0, 0, 1)])
  | 4 => (.mulhN64 (fld w 19 4) (fld w 15 4) (fld w 11 4), [(10, 0, 0, 1)])
  | 5 => (.divS64 (fld w 19 4) (fld w 15 4) (fld w 11 4), [(10, 0, 0, 1)])
  | 6 => (.divN64 (fld w 19 4) (fld w 15 4) (fld w 11 4), [(10, 0, 0, 1)])
  | 7 => (.remS64 (fld w 19 4) (fld w 15 4) (fld w 11 4), [(10, 0, 0, 1)])
  | 8 => (.remN64 (fld w 19 4) (fld w 15 4) (fld w 11 4), [(10, 0, 0, 1)])
  | 9 => (.and (fld w 19 4) (fld w 15 4) (fld w 11 4), [(10, 0, 0, 1)])
  | 10 => (.or (fld w 19 4) (fld w 15 4) (fld w 11 4), [(10, 0, 0, 1)])
  | 11 => (.xor (fld w 19 4) (fld w 15 4) (fld w 11 4), [(10, 0, 0, 1)])
  | 12 => (.andn (fld w 19 4) (fld w 15 4) (fld w 11 4), [(10, 0, 0, 1)])
  | 13 => (.shl (fld w 19 4) (fld w 15 4) (fld w 11 4), [(10, 0, 0, 1)])
  | 14 => (.shr (fld w 19 4) (fld w 15 4) (fld w 11 4), [(10, 0, 0, 1)])
  | _ => (.sra (fld w 19 4) (fld w 15 4) (fld w 11 4), [(10, 0, 0, 1)])
/-- Opcodes 0x10-0x1F of Table 3-4, by bits [26:23]. -/
noncomputable def row1 (w : Nat) : Nat → Instr × List (Nat × Nat × Nat × Nat)
  | 0 => (.rol (fld w 19 4) (fld w 15 4) (fld w 11 4), [(10, 0, 0, 1)])
  | 1 => (.minS64 (fld w 19 4) (fld w 15 4) (fld w 11 4), [(10, 0, 0, 1)])
  | 2 => (.maxS64 (fld w 19 4) (fld w 15 4) (fld w 11 4), [(10, 0, 0, 1)])
  | 3 => (.minN64 (fld w 19 4) (fld w 15 4) (fld w 11 4), [(10, 0, 0, 1)])
  | 4 => (.maxN64 (fld w 19 4) (fld w 15 4) (fld w 11 4), [(10, 0, 0, 1)])
  | 5 => (.seq (fld w 19 4) (fld w 15 4) (fld w 11 4), [(10, 0, 0, 1)])
  | 6 => (.sltS64 (fld w 19 4) (fld w 15 4) (fld w 11 4), [(10, 0, 0, 1)])
  | 7 => (.sltN64 (fld w 19 4) (fld w 15 4) (fld w 11 4), [(10, 0, 0, 1)])
  | 8 => (.clz (fld w 19 4) (fld w 15 4), [(14, 0, 0, 1)])
  | 9 => (.ctz (fld w 19 4) (fld w 15 4), [(14, 0, 0, 1)])
  | 10 => (.popc (fld w 19 4) (fld w 15 4), [(14, 0, 0, 1)])
  | 11 => (.sext (fld w 19 4) (fld w 15 4) (fld w 0 6), [(14, 6, 0, 1)])
  | 12 => (.zext (fld w 19 4) (fld w 15 4) (fld w 0 6), [(14, 6, 0, 1)])
  | 13 => (.bfx (fld w 19 4) (fld w 15 4) (fld w 11 4) (fld w 0 6), [(10, 6, 0, 1)])
  | 14 => (.bfi (fld w 19 4) (fld w 15 4) (fld w 11 4) (fld w 0 6), [(10, 6, 0, 1)])
  | _ => (.lea (fld w 19 4) (fld w 15 4) (fld w 11 4) (fld w 0 2), [(10, 2, 0, 1)])
/-- Opcodes 0x20-0x2F of Table 3-4, by bits [26:23]. -/
noncomputable def row2 (w : Nat) : Nat → Instr × List (Nat × Nat × Nat × Nat)
  | 0 => (.addi (fld w 19 4) (fld w 15 4) (fld w 0 15), [])
  | 1 => (.muli (fld w 19 4) (fld w 15 4) (fld w 0 15), [])
  | 2 => (.andi (fld w 19 4) (fld w 15 4) (fld w 0 15), [])
  | 3 => (.ori (fld w 19 4) (fld w 15 4) (fld w 0 15), [])
  | 4 => (.xori (fld w 19 4) (fld w 15 4) (fld w 0 15), [])
  | 5 => (.shli (fld w 19 4) (fld w 15 4) (fld w 0 6), [(14, 6, 0, 1)])
  | 6 => (.shri (fld w 19 4) (fld w 15 4) (fld w 0 6), [(14, 6, 0, 1)])
  | 7 => (.srai (fld w 19 4) (fld w 15 4) (fld w 0 6), [(14, 6, 0, 1)])
  | 8 => (.seqi (fld w 19 4) (fld w 15 4) (fld w 0 15), [])
  | 9 => (.sltiS64 (fld w 19 4) (fld w 15 4) (fld w 0 15), [])
  | 10 => (.sltiN64 (fld w 19 4) (fld w 15 4) (fld w 0 15), [])
  | 11 => (.rsbi (fld w 19 4) (fld w 15 4) (fld w 0 15), [])
  | 12 => (.miniS64 (fld w 19 4) (fld w 15 4) (fld w 0 15), [])
  | 13 => (.maxiS64 (fld w 19 4) (fld w 15 4) (fld w 0 15), [])
  | 14 => (.movw (fld w 19 4) (fld w 17 2) (fld w 0 16), [(16, 16, 0, 1)])
  | _ => (.movk (fld w 19 4) (fld w 17 2) (fld w 0 16), [(16, 16, 0, 1)])
/-- Opcodes 0x30-0x3F of Table 3-4, by bits [26:23]. -/
noncomputable def row3 (w : Nat) : Nat → Instr × List (Nat × Nat × Nat × Nat)
  | 0 => (.ldl (fld w 19 4) (fld w 15 4) (fld w 13 2) (fld w 12 1) (fld w 11 1) (fld w 0 11), [])
  | 1 => (.stl (fld w 19 4) (fld w 15 4) (fld w 13 2) (fld w 11 1) (fld w 0 11), [(12, 12, 0, 4)])
  | 2 => (.ld (fld w 19 4) (fld w 15 4) (fld w 13 2) (fld w 12 1) (fld w 11 1) (fld w 0 11), [])
  | 3 => (.st (fld w 19 4) (fld w 15 4) (fld w 13 2) (fld w 11 1) (fld w 0 11), [(12, 12, 0, 4)])
  | 4 => (.ldAcq (fld w 19 4) (fld w 15 4) (fld w 13 2) (fld w 12 1) (fld w 8 3), [(11, 11, 0, 1), (7, 0, 0, 1)])
  | 5 => (.stRel (fld w 19 4) (fld w 15 4) (fld w 13 2) (fld w 8 3), [(12, 12, 0, 4), (11, 11, 0, 1), (7, 0, 0, 1)])
  | 6 => (.ldlPr (fld w 19 4) (fld w 15 4) (fld w 11 1) (fld w 0 11), [(14, 12, 6, 4)])
  | 7 => (.stlPr (fld w 19 4) (fld w 15 4) (fld w 11 1) (fld w 0 11), [(14, 12, 6, 4)])
  | 8 => (.ldNc (fld w 19 4) (fld w 15 4) (fld w 13 2) (fld w 12 1) (fld w 11 1) (fld w 0 11), [])
  | 9 => (.stNc (fld w 19 4) (fld w 15 4) (fld w 13 2) (fld w 11 1) (fld w 0 11), [(12, 12, 0, 4)])
  | 10 => (.pf (fld w 15 4) (fld w 11 1) (fld w 0 11), [(22, 19, 0, 1), (14, 12, 6, 4)])
  | 11 => (.wbk (fld w 15 4) (fld w 11 1) (fld w 0 11), [(22, 19, 0, 1), (14, 12, 6, 4)])
  | 12 => (.xlq (fld w 19 4) (fld w 15 4) (fld w 11 1) (fld w 0 11), [(14, 12, 6, 4)])
  | 13 => (.stz (fld w 15 4) (fld w 11 1) (fld w 0 11), [(22, 19, 0, 1), (14, 12, 6, 4)])
  | 14 => (.chka (fld w 19 4) (fld w 15 4) (fld w 13 2) (fld w 12 1) (fld w 11 1) (fld w 0 11), [])
  | _ => (.stzl (fld w 15 4) (fld w 11 1) (fld w 0 11), [(22, 19, 0, 1), (14, 12, 6, 4)])
/-- Opcodes 0x40-0x4F of Table 3-4, by bits [26:23]. -/
noncomputable def row4 (w : Nat) : Nat → Instr × List (Nat × Nat × Nat × Nat)
  | 0 => (.b (fld w 19 4) (fld w 16 3) (fld w 0 16), [])
  | 1 => (.bN (fld w 19 4) (fld w 16 3) (fld w 0 16), [])
  | 2 => (.call (fld w 19 4) (fld w 16 3) (fld w 0 16), [])
  | 3 => (.ret (fld w 15 4), [(22, 19, 0, 1), (14, 0, 0, 1)])
  | 4 => (.jr (fld w 15 4) (fld w 11 4), [(22, 19, 0, 1), (10, 0, 0, 1)])
  | 5 => (.loop (fld w 19 4) (fld w 0 16), [(18, 16, 0, 1)])
  | 6 => (.loopN (fld w 19 4) (fld w 0 16), [(18, 16, 0, 1)])
  | 7 => (.bEq (fld w 19 4) (fld w 15 4) (fld w 0 15), [])
  | 8 => (.bNe (fld w 19 4) (fld w 15 4) (fld w 0 15), [])
  | 9 => (.bLtS64 (fld w 19 4) (fld w 15 4) (fld w 0 15), [])
  | 10 => (.bLtN64 (fld w 19 4) (fld w 15 4) (fld w 0 15), [])
  | 11 => (.bGeS64 (fld w 19 4) (fld w 15 4) (fld w 0 15), [])
  | 12 => (.bGeN64 (fld w 19 4) (fld w 15 4) (fld w 0 15), [])
  | 13 => (.yield, [(22, 0, 0, 1)])
  | 14 => (.nop, [(22, 0, 0, 1)])
  | _ => (.callr (fld w 19 4) (fld w 15 4), [(14, 0, 0, 1)])
/-- Opcodes 0x50-0x5F of Table 3-4, by bits [26:23]. -/
noncomputable def row5 (w : Nat) : Nat → Instr × List (Nat × Nat × Nat × Nat)
  | 0 => (.jx (fld w 7 16) (fld w 4 3) (fld w 0 1), [(3, 1, 0, 4)])
  | 1 => (.cx (fld w 7 16) (fld w 4 3) (fld w 0 1), [(3, 1, 0, 4)])
  | 2 => (.jxr (fld w 15 4) (fld w 3 1) (fld w 0 3), [(22, 19, 0, 1), (14, 4, 0, 1)])
  | 3 => (.xret (fld w 4 3) (fld w 0 1), [(22, 7, 0, 1), (3, 1, 0, 4)])
  | 4 => (.xend (fld w 4 3), [(22, 7, 0, 1), (3, 1, 0, 4), (0, 0, 0, 1)])
  | 5 => (.send (fld w 15 4) (fld w 11 4) (fld w 3 1) (fld w 0 3), [(22, 19, 0, 1), (10, 4, 0, 1)])
  | 6 => (.sendnb (fld w 19 4) (fld w 15 4) (fld w 11 4) (fld w 3 1) (fld w 0 3), [(10, 4, 0, 1)])
  | 7 => (.recv (fld w 19 4) (fld w 15 4), [(14, 0, 0, 1)])
  | 8 => (.recvnb (fld w 19 4) (fld w 15 4) (fld w 11 4), [(10, 0, 0, 1)])
  | 9 => (.chbind (fld w 19 4) (fld w 15 4) (fld w 11 4), [(10, 0, 0, 1)])
  | 10 => (.launch (fld w 19 4) (fld w 15 4), [(14, 0, 0, 1)])
  | 11 => (.spawn (fld w 19 4) (fld w 15 4) (fld w 3 1) (fld w 0 3), [(14, 4, 0, 1)])
  | 12 => if bits w 0 0 = 1 then (.rreplRet (fld w 7 16) (fld w 4 3), [(3, 1, 0, 4)])
      else (.rrepl (fld w 7 16) (fld w 4 3), [(3, 1, 0, 4)])
  | 13 => if bits w 0 0 = 1 then (.evbindOff (fld w 19 4) (fld w 15 4), [(14, 1, 0, 1)])
      else (.evbind (fld w 19 4) (fld w 15 4) (fld w 11 4), [(10, 1, 0, 1)])
  | 14 => (.vclaim (fld w 19 4) (fld w 15 4), [(14, 0, 0, 1)])
  | _ => (.vrenew (fld w 19 4), [(18, 0, 0, 1)])
/-- Opcodes 0x60-0x6F of Table 3-4, by bits [26:23]. -/
noncomputable def row6 (w : Nat) : Nat → Instr × List (Nat × Nat × Nat × Nat)
  | 0 => (.vadd (fld w 20 3) (fld w 18 2) (fld w 12 6) (fld w 6 6) (fld w 0 6), [])
  | 1 => (.vsub (fld w 20 3) (fld w 18 2) (fld w 12 6) (fld w 6 6) (fld w 0 6), [])
  | 2 => (.vmul (fld w 20 3) (fld w 18 2) (fld w 12 6) (fld w 6 6) (fld w 0 6), [])
  | 3 => (.vmulhS (fld w 20 3) (fld w 18 2) (fld w 12 6) (fld w 6 6) (fld w 0 6), [])
  | 4 => (.vmulhN (fld w 20 3) (fld w 18 2) (fld w 12 6) (fld w 6 6) (fld w 0 6), [])
  | 5 => (.vdivS (fld w 20 3) (fld w 18 2) (fld w 12 6) (fld w 6 6) (fld w 0 6), [])
  | 6 => (.vdivN (fld w 20 3) (fld w 18 2) (fld w 12 6) (fld w 6 6) (fld w 0 6), [])
  | 7 => (.vremS (fld w 20 3) (fld w 18 2) (fld w 12 6) (fld w 6 6) (fld w 0 6), [])
  | 8 => (.vremN (fld w 20 3) (fld w 18 2) (fld w 12 6) (fld w 6 6) (fld w 0 6), [])
  | 9 => (.vand (fld w 20 3) (fld w 12 6) (fld w 6 6) (fld w 0 6), [(19, 18, 0, 4)])
  | 10 => (.vor (fld w 20 3) (fld w 12 6) (fld w 6 6) (fld w 0 6), [(19, 18, 0, 4)])
  | 11 => (.vxor (fld w 20 3) (fld w 12 6) (fld w 6 6) (fld w 0 6), [(19, 18, 0, 4)])
  | 12 => (.vandn (fld w 20 3) (fld w 12 6) (fld w 6 6) (fld w 0 6), [(19, 18, 0, 4)])
  | 13 => (.vshl (fld w 20 3) (fld w 18 2) (fld w 12 6) (fld w 6 6) (fld w 0 6), [])
  | 14 => (.vshr (fld w 20 3) (fld w 18 2) (fld w 12 6) (fld w 6 6) (fld w 0 6), [])
  | _ => (.vsra (fld w 20 3) (fld w 18 2) (fld w 12 6) (fld w 6 6) (fld w 0 6), [])
/-- Opcodes 0x70-0x7F of Table 3-4, by bits [26:23]. -/
noncomputable def row7 (w : Nat) : Nat → Instr × List (Nat × Nat × Nat × Nat)
  | 0 => (.vminS (fld w 20 3) (fld w 18 2) (fld w 12 6) (fld w 6 6) (fld w 0 6), [])
  | 1 => (.vminN (fld w 20 3) (fld w 18 2) (fld w 12 6) (fld w 6 6) (fld w 0 6), [])
  | 2 => (.vmaxS (fld w 20 3) (fld w 18 2) (fld w 12 6) (fld w 6 6) (fld w 0 6), [])
  | 3 => (.vmaxN (fld w 20 3) (fld w 18 2) (fld w 12 6) (fld w 6 6) (fld w 0 6), [])
  | 4 => (.vcmpeq (fld w 20 3) (fld w 18 2) (fld w 12 6) (fld w 6 6) (fld w 0 6), [])
  | 5 => (.vcmpltS (fld w 20 3) (fld w 18 2) (fld w 12 6) (fld w 6 6) (fld w 0 6), [])
  | 6 => (.vcmpltN (fld w 20 3) (fld w 18 2) (fld w 12 6) (fld w 6 6) (fld w 0 6), [])
  | 7 => (.vsel (fld w 20 3) (fld w 12 6) (fld w 6 6) (fld w 0 6), [(19, 18, 0, 4)])
  | 8 => (.vclz (fld w 20 3) (fld w 18 2) (fld w 12 6) (fld w 6 6), [(5, 0, 0, 1)])
  | 9 => (.vpopc (fld w 20 3) (fld w 18 2) (fld w 12 6) (fld w 6 6), [(5, 0, 0, 1)])
  | 10 => (.vlea (fld w 20 3) (fld w 12 6) (fld w 6 6) (fld w 0 6), [(19, 18, 0, 4)])
  | 11 => (.vmov (fld w 20 3) (fld w 12 6) (fld w 6 6), [(19, 18, 0, 4), (5, 0, 0, 1)])
  | 12 => (.vbcast (fld w 20 3) (fld w 12 6) (fld w 6 6), [(19, 18, 0, 4), (5, 0, 0, 1)])
  | 13 => (.vredi (fld w 20 3) (fld w 12 4) (fld w 6 6) (fld w 0 6), [(19, 18, 0, 4), (17, 16, 0, 1)])
  | 14 => (.vshuf (fld w 20 3) (fld w 12 6) (fld w 6 6) (fld w 0 6), [(19, 18, 0, 4)])
  | _ => (.vgext (fld w 20 3) (fld w 12 6) (fld w 6 4), [(19, 18, 0, 4), (11, 10, 0, 1), (5, 0, 0, 1)])
/-- Opcodes 0x80-0x8F of Table 3-4, by bits [26:23]. -/
noncomputable def row8 (w : Nat) : Nat → Instr × List (Nat × Nat × Nat × Nat)
  | 0 => (.vfaddF64 (fld w 20 3) (fld w 18 2) (fld w 12 6) (fld w 6 6) (fld w 0 6), [])
  | 1 => (.vfsubF64 (fld w 20 3) (fld w 18 2) (fld w 12 6) (fld w 6 6) (fld w 0 6), [])
  | 2 => (.vfmulF64 (fld w 20 3) (fld w 18 2) (fld w 12 6) (fld w 6 6) (fld w 0 6), [])
  | 3 => (.vfmaF64 (fld w 20 3) (fld w 18 2) (fld w 12 6) (fld w 6 6) (fld w 0 6), [])
  | 4 => (.vfaddF32 (fld w 20 3) (fld w 18 2) (fld w 12 6) (fld w 6 6) (fld w 0 6), [])
  | 5 => (.vfsubF32 (fld w 20 3) (fld w 18 2) (fld w 12 6) (fld w 6 6) (fld w 0 6), [])
  | 6 => (.vfmulF32 (fld w 20 3) (fld w 18 2) (fld w 12 6) (fld w 6 6) (fld w 0 6), [])
  | 7 => (.vfmaF32 (fld w 20 3) (fld w 18 2) (fld w 12 6) (fld w 6 6) (fld w 0 6), [])
  | 8 => (.vfaddBf16 (fld w 20 3) (fld w 18 2) (fld w 12 6) (fld w 6 6) (fld w 0 6), [])
  | 9 => (.vfmulBf16 (fld w 20 3) (fld w 18 2) (fld w 12 6) (fld w 6 6) (fld w 0 6), [])
  | 10 => (.vfmaBf16 (fld w 20 3) (fld w 18 2) (fld w 12 6) (fld w 6 6) (fld w 0 6), [])
  | 11 => (.vfaddF16 (fld w 20 3) (fld w 18 2) (fld w 12 6) (fld w 6 6) (fld w 0 6), [])
  | 12 => (.vfmulF16 (fld w 20 3) (fld w 18 2) (fld w 12 6) (fld w 6 6) (fld w 0 6), [])
  | 13 => (.vfmaF16 (fld w 20 3) (fld w 18 2) (fld w 12 6) (fld w 6 6) (fld w 0 6), [])
  | 14 => (.vfmin (fld w 20 3) (fld w 18 2) (fld w 12 6) (fld w 6 6) (fld w 0 6), [])
  | _ => (.vfmax (fld w 20 3) (fld w 18 2) (fld w 12 6) (fld w 6 6) (fld w 0 6), [])
/-- Opcodes 0x90-0x9F of Table 3-4, by bits [26:23]. -/
noncomputable def row9 (w : Nat) : Nat → Instr × List (Nat × Nat × Nat × Nat)
  | 0 => (.vfcmpeq (fld w 20 3) (fld w 18 2) (fld w 12 6) (fld w 6 6) (fld w 0 6), [])
  | 1 => (.vfcmplt (fld w 20 3) (fld w 18 2) (fld w 12 6) (fld w 6 6) (fld w 0 6), [])
  | 2 => (.vfcmple (fld w 20 3) (fld w 18 2) (fld w 12 6) (fld w 6 6) (fld w 0 6), [])
  | 3 => (.vfdiv (fld w 20 3) (fld w 18 2) (fld w 12 6) (fld w 6 6) (fld w 0 6), [])
  | 4 => (.vfsqrt (fld w 20 3) (fld w 18 2) (fld w 12 6) (fld w 6 6), [(5, 0, 0, 1)])
  | 5 => (.vfneg (fld w 20 3) (fld w 18 2) (fld w 12 6) (fld w 6 6), [(5, 0, 0, 1)])
  | 6 => (.vfabs (fld w 20 3) (fld w 18 2) (fld w 12 6) (fld w 6 6), [(5, 0, 0, 1)])
  | 7 => (.vfclass (fld w 20 3) (fld w 18 2) (fld w 12 6) (fld w 6 6), [(5, 0, 0, 1)])
  | 8 => (.vcvt (fld w 20 3) (fld w 18 2) (fld w 12 6) (fld w 6 6) (fld w 3 3) (fld w 0 3), [])
  | 9 => (.vcvtx (fld w 20 3) (fld w 18 2) (fld w 12 6) (fld w 6 6) (fld w 3 3) (fld w 0 3), [])
  | 10 => (.vcvti (fld w 20 3) (fld w 18 2) (fld w 12 6) (fld w 6 6) (fld w 3 3) (fld w 0 3), [])
  | 11 => (.vcvtf (fld w 20 3) (fld w 18 2) (fld w 12 6) (fld w 6 6) (fld w 3 3) (fld w 0 3), [])
  | 12 => (.vdot2 (fld w 20 3) (fld w 18 2) (fld w 12 6) (fld w 6 6) (fld w 0 6), [])
  | 13 => (.vdot4 (fld w 20 3) (fld w 18 2) (fld w 12 6) (fld w 6 6) (fld w 0 6), [])
  | 14 => (.vdot8 (fld w 20 3) (fld w 18 2) (fld w 12 6) (fld w 6 6) (fld w 0 6), [])
  | _ => (.vfred (fld w 20 3) (fld w 18 2) (fld w 12 6) (fld w 6 6) (fld w 4 2) (fld w 2 2), [(1, 0, 0, 1)])
/-- Opcodes 0xA0-0xAF of Table 3-4, by bits [26:23]. R84 wants bits [1:0] of A and B zero and names no subcode for them: the
model reports 0x05, as for the other bits that make a field no quad (DESIGN CHOICE, log 44). -/
noncomputable def rowA (w : Nat) : Nat → Instr × List (Nat × Nat × Nat × Nat)
  | 0 => (.vbadd (fld w 20 3) (fld w 18 2) (fld w 14 3) (fld w 12 2) (fld w 8 3) (fld w 2 3), [(17, 17, 0, 5), (11, 11, 0, 5), (7, 5, 0, 5), (1, 0, 0, 5)])
  | 1 => (.vbsub (fld w 20 3) (fld w 18 2) (fld w 14 3) (fld w 12 2) (fld w 8 3) (fld w 2 3), [(17, 17, 0, 5), (11, 11, 0, 5), (7, 5, 0, 5), (1, 0, 0, 5)])
  | 2 => (.vbmul (fld w 20 3) (fld w 18 2) (fld w 14 3) (fld w 12 2) (fld w 8 3) (fld w 2 3), [(17, 17, 0, 5), (11, 11, 0, 5), (7, 5, 0, 5), (1, 0, 0, 5)])
  | 3 => (.vbfma (fld w 20 3) (fld w 18 2) (fld w 14 3) (fld w 12 2) (fld w 8 3) (fld w 2 3), [(17, 17, 0, 5), (11, 11, 0, 5), (7, 5, 0, 5), (1, 0, 0, 5)])
  | 4 => (.vbmax (fld w 20 3) (fld w 18 2) (fld w 14 3) (fld w 12 2) (fld w 8 3) (fld w 2 3), [(17, 17, 0, 5), (11, 11, 0, 5), (7, 5, 0, 5), (1, 0, 0, 5)])
  | 5 => (.vbmin (fld w 20 3) (fld w 18 2) (fld w 14 3) (fld w 12 2) (fld w 8 3) (fld w 2 3), [(17, 17, 0, 5), (11, 11, 0, 5), (7, 5, 0, 5), (1, 0, 0, 5)])
  | 6 => (.vbscale (fld w 20 3) (fld w 18 2) (fld w 14 3) (fld w 12 2) (fld w 8 3) (fld w 2 3), [(17, 17, 0, 5), (11, 11, 0, 5), (7, 5, 0, 5), (1, 0, 0, 5)])
  | 7 => (.vbnorm (fld w 20 3) (fld w 18 2) (fld w 14 3) (fld w 12 2) (fld w 8 3), [(17, 17, 0, 5), (11, 11, 0, 5), (7, 6, 0, 5), (5, 0, 0, 1)])
  | 8 => (.vbpack (fld w 20 3) (fld w 18 2) (fld w 14 3) (fld w 12 2) (fld w 8 3) (fld w 2 3), [(17, 17, 0, 5), (11, 11, 0, 5), (7, 5, 0, 5), (1, 0, 0, 5)])
  | 9 => (.vbunpack (fld w 20 3) (fld w 18 2) (fld w 14 3) (fld w 12 2) (fld w 8 3) (fld w 2 3), [(17, 17, 0, 5), (11, 11, 0, 5), (7, 5, 0, 5), (1, 0, 0, 5)])
  | 10 => (.vsxpack (fld w 20 3) (fld w 18 2) (fld w 14 3) (fld w 12 2) (fld w 8 3), [(17, 17, 0, 5), (11, 11, 0, 5), (7, 6, 0, 5), (5, 0, 0, 1)])
  | 11 => (.vsxunpack (fld w 20 3) (fld w 18 2) (fld w 14 3) (fld w 12 2) (fld w 8 3) (fld w 2 3), [(17, 17, 0, 5), (11, 11, 0, 5), (7, 5, 0, 5), (1, 0, 0, 5)])
  | 12 => (.vkget (fld w 20 3) (fld w 14 3) (fld w 8 3), [(19, 18, 0, 4), (17, 17, 0, 5), (13, 12, 0, 4), (11, 11, 0, 5), (7, 6, 0, 5), (5, 0, 0, 1)])
  | 13 => (.vkset (fld w 20 3) (fld w 14 3) (fld w 8 3), [(19, 18, 0, 4), (17, 17, 0, 5), (13, 12, 0, 4), (11, 11, 0, 5), (7, 6, 0, 5), (5, 0, 0, 1)])
  | 14 => (.vbdot (fld w 20 3) (fld w 18 2) (fld w 14 3) (fld w 12 2) (fld w 8 3) (fld w 2 3), [(17, 17, 0, 5), (11, 11, 0, 5), (7, 5, 0, 5), (1, 0, 0, 5)])
  | _ => (.vbcvt (fld w 20 3) (fld w 18 2) (fld w 14 3) (fld w 12 2) (fld w 8 3) (fld w 2 3), [(17, 17, 0, 5), (11, 11, 0, 5), (7, 5, 0, 5), (1, 0, 0, 5)])
/-- Opcodes 0xB0-0xBF of Table 3-4, by bits [26:23]. -/
noncomputable def rowB (w : Nat) : Nat → Instr × List (Nat × Nat × Nat × Nat)
  | 0 => (.vldl (fld w 20 3) (fld w 18 2) (fld w 12 6) (fld w 6 6) (fld w 5 1) (fld w 0 4), [(4, 4, 0, 1)])
  | 1 => (.vstl (fld w 20 3) (fld w 18 2) (fld w 12 6) (fld w 6 6) (fld w 0 4), [(5, 5, 0, 4), (4, 4, 0, 1)])
  | 2 => (.vld (fld w 20 3) (fld w 18 2) (fld w 12 6) (fld w 6 6) (fld w 5 1) (fld w 0 4), [(4, 4, 0, 1)])
  | 3 => (.vst (fld w 20 3) (fld w 18 2) (fld w 12 6) (fld w 6 6) (fld w 0 4), [(5, 5, 0, 4), (4, 4, 0, 1)])
  | 4 => (.vldAcq (fld w 20 3) (fld w 18 2) (fld w 12 6) (fld w 6 6) (fld w 5 1) (fld w 0 3), [(4, 3, 0, 1)])
  | 5 => (.vstRel (fld w 20 3) (fld w 18 2) (fld w 12 6) (fld w 6 6) (fld w 0 3), [(5, 5, 0, 4), (4, 3, 0, 1)])
  | 6 => (.vldlq (fld w 20 3) (fld w 14 3) (fld w 6 6) (fld w 5 1), [(19, 18, 0, 4), (17, 17, 0, 5), (13, 12, 0, 5), (4, 0, 0, 1)])
  | 7 => (.vstlq (fld w 20 3) (fld w 14 3) (fld w 6 6) (fld w 5 1), [(19, 18, 0, 4), (17, 17, 0, 5), (13, 12, 0, 5), (4, 0, 0, 1)])
  | 8 => (.vldq (fld w 20 3) (fld w 14 3) (fld w 6 6) (fld w 5 1), [(19, 18, 0, 4), (17, 17, 0, 5), (13, 12, 0, 5), (4, 0, 0, 1)])
  | 9 => (.vstq (fld w 20 3) (fld w 14 3) (fld w 6 6) (fld w 5 1), [(19, 18, 0, 4), (17, 17, 0, 5), (13, 12, 0, 5), (4, 0, 0, 1)])
  | 10 => (.vpf (fld w 20 3) (fld w 6 6), [(19, 18, 0, 4), (17, 12, 0, 1), (5, 0, 0, 1)])
  | 11 => (.srd (fld w 20 3) (fld w 12 6) (fld w 0 2), [(19, 18, 0, 4), (11, 2, 0, 1)])
  | 12 => (.srdnb (fld w 20 3) (fld w 12 6) (fld w 6 3) (fld w 0 2), [(19, 18, 0, 4), (11, 9, 0, 1), (5, 2, 0, 1)])
  | 13 => (.scnt (fld w 20 3) (fld w 12 6) (fld w 0 2), [(19, 18, 0, 4), (11, 2, 0, 1)])
  | 14 => (.sdrop (fld w 20 3) (fld w 6 6) (fld w 0 2), [(19, 18, 0, 4), (17, 12, 0, 1), (5, 2, 0, 1)])
  | _ => (.sreset (fld w 20 3) (fld w 0 2), [(19, 18, 0, 4), (17, 2, 0, 1)])
/-- Opcodes 0xC0-0xCF of Table 3-4, by bits [26:23]. -/
noncomputable def rowC (w : Nat) : Nat → Instr × List (Nat × Nat × Nat × Nat)
  | 0 => (.amo (fld w 19 4) (fld w 15 4) (fld w 11 4) (fld w 8 2) (fld w 0 8), [(10, 10, 0, 1)])
  | 1 => (.amocas (fld w 19 4) (fld w 15 4) (fld w 11 4) (fld w 8 2), [(10, 10, 0, 1), (7, 0, 0, 1)])
  | 2 => (.amol (fld w 19 4) (fld w 15 4) (fld w 11 4) (fld w 8 2) (fld w 0 8), [(10, 10, 0, 1)])
  | 3 => (.sop (fld w 19 4) (fld w 15 4) (fld w 11 4) (fld w 8 2) (fld w 0 8), [(10, 10, 0, 1)])
  | 4 => (.sopCh (fld w 15 4), [(22, 19, 0, 1), (14, 0, 0, 1)])
  | 5 => (.fput (fld w 15 4) (fld w 11 4), [(22, 19, 0, 1), (10, 0, 0, 1)])
  | 6 => (.fputnb (fld w 19 4) (fld w 15 4) (fld w 11 4), [(10, 0, 0, 1)])
  | 7 => (.ftake (fld w 19 4) (fld w 15 4), [(14, 0, 0, 1)])
  | 8 => (.ftakenb (fld w 19 4) (fld w 15 4) (fld w 11 4), [(10, 0, 0, 1)])
  | 9 => (.fpeek (fld w 19 4) (fld w 15 4) (fld w 11 4), [(10, 0, 0, 1)])
  | 10 => (.dcset (fld w 19 4) (fld w 15 4) (fld w 11 4) (fld w 0 1), [(10, 1, 0, 1)])
  | 11 => (.dcadd (fld w 19 4) (fld w 15 4) (fld w 11 4) (fld w 0 1), [(10, 1, 0, 1)])
  | 12 => (.dcdec (fld w 19 4) (fld w 15 4) (fld w 11 4) (fld w 0 1), [(10, 1, 0, 1)])
  | 13 => (.sopw (fld w 15 4) (fld w 11 4) (fld w 8 2) (fld w 0 8), [(22, 19, 0, 1), (10, 10, 0, 1)])
  | 14 => (.amonr (fld w 15 4) (fld w 11 4) (fld w 8 2) (fld w 0 8), [(22, 19, 0, 1), (10, 10, 0, 1)])
  | _ => (.sopq (fld w 19 4) (fld w 15 4) (fld w 11 4) (fld w 8 2) (fld w 0 8), [(10, 10, 0, 1)])
/-- Opcodes 0xD0-0xDF of Table 3-4, by bits [26:23]. -/
noncomputable def rowD (w : Nat) : Nat → Instr × List (Nat × Nat × Nat × Nat)
  | 0 => (.ccopy (fld w 19 4) (fld w 15 4) (fld w 12 3) (fld w 9 3) (fld w 7 1) (fld w 4 3) (fld w 2 2) (fld w 0 2), [(8, 8, 0, 1)])
  | 1 => (.cfence (fld w 12 2) (fld w 0 5), [(22, 15, 0, 1), (14, 14, 0, 4), (11, 5, 0, 1)])
  | 2 => (.mcmd (fld w 19 4), [(18, 0, 0, 1)])
  | 3 => (.mgang (fld w 19 4), [(18, 0, 0, 1)])
  | 4 => if bits w 0 0 = 1 then (.mresumeAbort, [(22, 1, 0, 1)])
      else (.mresume, [(22, 1, 0, 1)])
  | 5 => (.mfence (fld w 0 4), [(22, 4, 0, 1)])
  | 6 => (.mdrain (fld w 19 4) (fld w 15 4) (fld w 12 3) (fld w 9 3) (fld w 0 3), [(8, 3, 0, 1)])
  | 7 => if bits w 0 0 = 1 then (.mstatCtx (fld w 19 4), [(18, 1, 0, 1)])
      else (.mstat (fld w 19 4), [(18, 1, 0, 1)])
  | 8 => if bits w 0 0 = 1 then (.cstatDrop (fld w 19 4) (fld w 12 2), [(18, 15, 0, 1), (14, 14, 0, 4), (11, 1, 0, 1)])
      else (.cstat (fld w 19 4) (fld w 12 2), [(18, 15, 0, 1), (14, 14, 0, 4), (11, 1, 0, 1)])
  | 9 => (.tmset (fld w 19 4) (fld w 15 4) (fld w 12 3), [(11, 0, 0, 1)])
  | 10 => (.tmget (fld w 19 4) (fld w 12 3), [(18, 15, 0, 1), (11, 0, 0, 1)])
  | 11 => (.rgset (fld w 19 4) (fld w 15 4) (fld w 12 3), [(11, 0, 0, 1)])
  | 12 => (.rgget (fld w 19 4) (fld w 12 3), [(18, 15, 0, 1), (11, 0, 0, 1)])
  | 13 => (.rgpush (fld w 19 4) (fld w 15 4) (fld w 12 3), [(11, 0, 0, 1)])
  | 14 => (.rgpop (fld w 19 4) (fld w 15 4) (fld w 12 3), [(11, 0, 0, 1)])
  | _ => (.cwait (fld w 0 5), [(22, 5, 0, 1)])
/-- Opcodes 0xE0-0xEF of Table 3-4, by bits [26:23]. -/
noncomputable def rowE (w : Nat) : Nat → Instr × List (Nat × Nat × Nat × Nat)
  | 0 => (.barbind (fld w 19 4) (fld w 15 4) (fld w 12 3) (fld w 0 3), [(11, 3, 0, 1)])
  | 1 => (.bararr (fld w 19 4) (fld w 15 4) (fld w 12 3), [(11, 0, 0, 1)])
  | 2 => (.barwait (fld w 19 4) (fld w 12 3), [(18, 15, 0, 1), (11, 0, 0, 1)])
  | 3 => (.barwaitnb (fld w 19 4) (fld w 15 4) (fld w 12 3), [(11, 0, 0, 1)])
  | 4 => if bits w 4 3 = 1 then (.fenceAcq (fld w 0 3), [(22, 5, 0, 1)])
      else if bits w 4 3 = 2 then (.fenceRel (fld w 0 3), [(22, 5, 0, 1)])
      else (.fence (fld w 0 3), [(22, 5, 0, 1), (4, 3, 0, 4)])
  | 5 => (.tlwait (fld w 19 4) (fld w 15 4), [(14, 0, 0, 1)])
  | 6 => (.tlwaitnb (fld w 19 4) (fld w 15 4), [(14, 0, 0, 1)])
  | 7 => if bits w 0 0 = 1 then (.tladdSet (fld w 19 4) (fld w 15 4), [(14, 1, 0, 1)])
      else (.tladd (fld w 19 4) (fld w 15 4), [(14, 1, 0, 1)])
  | 8 => (.ckgen (fld w 20 3) (fld w 12 6) (fld w 6 6) (fld w 0 6), [(19, 18, 0, 4)])
  | 9 => (.ckver (fld w 20 3) (fld w 12 6) (fld w 6 6) (fld w 0 6), [(19, 18, 0, 4)])
  | 10 => (.ckfold (fld w 20 3) (fld w 12 6) (fld w 6 6) (fld w 0 6), [(19, 18, 0, 4)])
  | 11 => (.dqput (fld w 19 4) (fld w 15 4) (fld w 11 4) (fld w 0 1), [(10, 1, 0, 1)])
  | 12 => (.dxlook (fld w 19 4) (fld w 15 4) (fld w 11 4) (fld w 1 1) (fld w 0 1), [(10, 2, 0, 1)])
  | 13 => (.dxadd (fld w 19 4) (fld w 15 4) (fld w 11 4) (fld w 1 1), [(10, 2, 0, 1), (0, 0, 0, 1)])
  | 14 => (.dxseal (fld w 19 4) (fld w 15 4) (fld w 11 4), [(10, 0, 0, 1)])
  | _ => if bits w 0 0 = 1 then (.dxquietnb (fld w 19 4) (fld w 15 4) (fld w 11 4), [(10, 1, 0, 1)])
      else (.dxquiet (fld w 19 4) (fld w 15 4) (fld w 11 4), [(10, 1, 0, 1)])
/-- Opcodes 0xF0-0xFF of Table 3-4, by bits [26:23]. -/
noncomputable def rowF (w : Nat) : Nat → Instr × List (Nat × Nat × Nat × Nat)
  | 0 => (.sget (fld w 19 4) (fld w 7 8), [(18, 15, 0, 1), (6, 0, 0, 1)])
  | 1 => (.sset (fld w 15 4) (fld w 7 8), [(22, 19, 0, 1), (6, 0, 0, 1)])
  | 2 => (.scall (fld w 19 4) (fld w 15 4) (fld w 7 8), [(6, 0, 0, 1)])
  | 3 => (.pcall (fld w 19 4) (fld w 15 4) (fld w 7 8), [(6, 0, 0, 1)])
  | 4 => (.tret, [(22, 0, 0, 1)])
  | 5 => (.brk (fld w 7 8), [(22, 15, 0, 1), (6, 0, 0, 1)])
  | 6 => (.wpset (fld w 19 4) (fld w 15 4) (fld w 10 1) (fld w 7 3), [(14, 11, 0, 1), (6, 0, 0, 1)])
  | 7 => if bits w 11 10 = 1 then (.xlinvLg (fld w 15 4) (fld w 7 3), [(22, 19, 0, 1), (14, 12, 0, 1), (6, 0, 0, 1)])
      else if bits w 11 10 = 2 then (.xlinvAll (fld w 7 3), [(22, 12, 0, 1), (6, 0, 0, 1)])
      else if bits w 11 10 = 3 then (.xlinvAll (fld w 7 3), [(22, 12, 0, 1), (11, 10, 2, 4), (6, 0, 0, 1)])
      else (.xlinv (fld w 15 4) (fld w 7 3), [(22, 19, 0, 1), (14, 12, 0, 1), (11, 10, 0, 4), (6, 0, 0, 1)])
  | 8 => if bits w 14 14 = 1 then (.cldwW (fld w 15 4) (fld w 7 4), [(22, 19, 0, 1), (13, 11, 0, 1), (6, 0, 0, 1)])
      else (.cldw (fld w 19 4) (fld w 7 4), [(18, 15, 0, 1), (13, 11, 0, 1), (6, 0, 0, 1)])
  | 9 => (.chwr (fld w 19 4) (fld w 15 4) (fld w 7 6), [(14, 13, 0, 1), (6, 0, 0, 1)])
  | 10 => (.chrd (fld w 15 4) (fld w 7 6), [(22, 19, 0, 1), (14, 13, 0, 1), (6, 0, 0, 1)])
  | 11 => if bits w 9 9 = 1 then (.ebrdClr (fld w 19 4) (fld w 15 4) (fld w 7 2), [(14, 10, 0, 1), (6, 0, 0, 1)])
      else (.ebrd (fld w 19 4) (fld w 15 4) (fld w 7 2), [(14, 10, 0, 1), (6, 0, 0, 1)])
  | 12 => (.inj (fld w 19 4) (fld w 15 4) (fld w 7 8), [(6, 0, 0, 1)])
  | 13 => (.idle (fld w 15 4), [(22, 19, 0, 1), (14, 0, 0, 1)])
  | 14 => (.halt, [(22, 0, 0, 1)])
  | _ => if bits w 7 7 = 1 then (.sstepLn (fld w 15 4), [(22, 19, 0, 1), (14, 8, 0, 1), (6, 0, 0, 1)])
      else (.sstep (fld w 15 4), [(22, 19, 0, 1), (14, 8, 0, 1), (6, 0, 0, 1)])
/-- The row of a 32-bit word, by its opcode in bits [30:23], with the bits that must hold fixed values
(high bit, low bit, value, subcode when broken). -/
noncomputable def row32 (w : Nat) : Instr × List (Nat × Nat × Nat × Nat) :=
  match bits w 30 27 with
  | 0 => row0 w (bits w 26 23)
  | 1 => row1 w (bits w 26 23)
  | 2 => row2 w (bits w 26 23)
  | 3 => row3 w (bits w 26 23)
  | 4 => row4 w (bits w 26 23)
  | 5 => row5 w (bits w 26 23)
  | 6 => row6 w (bits w 26 23)
  | 7 => row7 w (bits w 26 23)
  | 8 => row8 w (bits w 26 23)
  | 9 => row9 w (bits w 26 23)
  | 10 => rowA w (bits w 26 23)
  | 11 => rowB w (bits w 26 23)
  | 12 => rowC w (bits w 26 23)
  | 13 => rowD w (bits w 26 23)
  | 14 => rowE w (bits w 26 23)
  | _ => rowF w (bits w 26 23)
/-- The row of a compact halfword, by bits [14:10] (Table 3-7). Bit 0 of layout CA, which Table 3-6 makes zero, is reported as a
compact field, subcode 0x06 (DESIGN CHOICE, log 44). -/
noncomputable def row16 (w : Nat) : Instr × List (Nat × Nat × Nat × Nat) :=
  match bits w 14 10 with
  | 0 => (.brkCompact (fld w 0 8), [(9, 8, 0, 6)])
  | 1 => (.addCompact (fld w 7 3) (fld w 4 3) (fld w 1 3), [(0, 0, 0, 6)])
  | 2 => (.subCompact (fld w 7 3) (fld w 4 3) (fld w 1 3), [(0, 0, 0, 6)])
  | 3 => (.andCompact (fld w 7 3) (fld w 4 3) (fld w 1 3), [(0, 0, 0, 6)])
  | 4 => (.orCompact (fld w 7 3) (fld w 4 3) (fld w 1 3), [(0, 0, 0, 6)])
  | 5 => (.xorCompact (fld w 7 3) (fld w 4 3) (fld w 1 3), [(0, 0, 0, 6)])
  | 6 => (.addiCompact (fld w 7 3) (fld w 0 7), [])
  | 7 => (.shliCompact (fld w 7 3) (fld w 0 6), [(6, 6, 0, 6)])
  | 8 => (.shriCompact (fld w 7 3) (fld w 0 6), [(6, 6, 0, 6)])
  | 9 => (.sraiCompact (fld w 7 3) (fld w 0 6), [(6, 6, 0, 6)])
  | 10 => (.andiCompact (fld w 7 3) (fld w 0 7), [])
  | 11 => (.ldlCompact (fld w 7 3) (fld w 4 3) (fld w 0 4), [])
  | 12 => (.stlCompact (fld w 7 3) (fld w 4 3) (fld w 0 4), [])
  | 13 => (.ldCompact (fld w 7 3) (fld w 4 3) (fld w 0 4), [])
  | 14 => (.stCompact (fld w 7 3) (fld w 4 3) (fld w 0 4), [])
  | 15 => (.bCompact (fld w 0 10), [])
  | 16 => (.bZCompact (fld w 7 3) (fld w 0 7), [])
  | 17 => (.bNzCompact (fld w 7 3) (fld w 0 7), [])
  | 18 => (.loopCompact (fld w 7 3) (fld w 0 7), [])
  | 19 => (.vaddCompact (fld w 7 3) (fld w 4 3) (fld w 1 3) (fld w 0 1), [])
  | 20 => (.vsubCompact (fld w 7 3) (fld w 4 3) (fld w 1 3) (fld w 0 1), [])
  | 21 => (.vmulCompact (fld w 7 3) (fld w 4 3) (fld w 1 3) (fld w 0 1), [])
  | 22 => (.vandCompact (fld w 7 3) (fld w 4 3) (fld w 1 3) (fld w 0 1), [])
  | 23 => (.vorCompact (fld w 7 3) (fld w 4 3) (fld w 1 3) (fld w 0 1), [])
  | 24 => (.vxorCompact (fld w 7 3) (fld w 4 3) (fld w 1 3) (fld w 0 1), [])
  | 25 => (.vmovCompact (fld w 7 3) (fld w 4 3), [(3, 0, 0, 6)])
  | 26 => (.vfaddF32Compact (fld w 7 3) (fld w 4 3) (fld w 1 3) (fld w 0 1), [])
  | 27 => (.vfmulF32Compact (fld w 7 3) (fld w 4 3) (fld w 1 3) (fld w 0 1), [])
  | 28 => (.vfmaF32Compact (fld w 7 3) (fld w 4 3) (fld w 1 3) (fld w 0 1), [])
  | 29 => (.vcmpeqCompact (fld w 7 3) (fld w 4 3) (fld w 1 3) (fld w 0 1), [])
  | 30 => (.xendCompact, [(9, 0, 0, 6)])
  | _ => (.xretCompact, [(9, 0, 0, 6)])

/-- The lesser of two optional subcodes (R89: the lowest is reported). -/
def leastSub : Option Nat → Option Nat → Option Nat
  | none, b => b
  | a, none => a
  | some a, some b => some (min a b)

/-- The lowest subcode among the fixed bits that a word breaks. -/
def brokenBits (w : Nat) : List (Nat × Nat × Nat × Nat) → Option Nat
  | [] => none
  | (hi, lo, v, sub) :: cs => leastSub (if bits w hi lo = v then none else some sub) (brokenBits w cs)

/-- The instruction of a row when its fixed bits hold and its field values are legal, else the lowest subcode broken (R89). -/
noncomputable def readRow (w : Nat) (r : Instr × List (Nat × Nat × Nat × Nat)) : Except Nat Instr :=
  match leastSub (brokenBits w r.2) (illegal r.1) with
  | none => .ok r.1
  | some sub => .error sub

/-- A six-bit lane operand field that names nothing (R83, Table 3-3). -/
def namesNothing (x : Nat) : Bool := 37 ≤ x && x ≤ 47

/-- The subcode that R83 gives a lane operand field as such, beside what R84 and R230 ask of a quad field: 0x02 where D, A or
B of 0xA0-0xAF, or D of the quad loads and stores 0xB6-0xB9, holds 37-47 (DEDUCED, log 43), and 0x03 where D of the latter
holds a constant (R225). A constant in D of 0xA0-0xAF is reported by R84's 0x05 and not by R83's 0x03 (DESIGN CHOICE, log 44). -/
def quadSubcode (w : Nat) : Option Nat :=
  let d := bits w 17 12
  if bits w 30 27 = 10 then
    if namesNothing d || namesNothing (bits w 11 6) || namesNothing (bits w 5 0) then some 2 else none
  else if 0xB6 ≤ bits w 30 23 ∧ bits w 30 23 ≤ 0xB9 then
    if namesNothing d then some 2 else if 48 ≤ d then some 3 else none
  else none

/-- Decodes a 32-bit word (bit 31 is 1 by R78). -/
noncomputable def decode32 (w : Nat) : Except Nat Instr :=
  match readRow w (row32 w) with
  | .ok i => .ok i
  | .error sub => .error (min sub ((quadSubcode w).getD sub))

/-- Decodes a compact halfword. -/
noncomputable def decode16 (w : Nat) : Except Nat Instr := readRow w (row16 w)

/-- Decodes a halfword and the one that follows it, with the length in halfwords (R78). -/
noncomputable def decode (h0 h1 : BitVec 16) : Except Nat Instr × Nat :=
  if h0.toNat < 32768 then (decode16 h0.toNat, 1) else (decode32 (h0.toNat * 65536 + h1.toNat), 2)

/-- The word of an encoded instruction, with its number of bits, from the encoding tables of spec/03-23; none for an
event of the hardware, which has no encoding. -/
def encode : Instr → Option (Nat × Nat)
  | .add d a b => some (32, 0x80000000 + d.toNat * 0x80000 + a.toNat * 0x8000 + b.toNat * 0x800)
  | .sub d a b => some (32, 0x80800000 + d.toNat * 0x80000 + a.toNat * 0x8000 + b.toNat * 0x800)
  | .mul d a b => some (32, 0x81000000 + d.toNat * 0x80000 + a.toNat * 0x8000 + b.toNat * 0x800)
  | .mulhS64 d a b => some (32, 0x81800000 + d.toNat * 0x80000 + a.toNat * 0x8000 + b.toNat * 0x800)
  | .mulhN64 d a b => some (32, 0x82000000 + d.toNat * 0x80000 + a.toNat * 0x8000 + b.toNat * 0x800)
  | .divS64 d a b => some (32, 0x82800000 + d.toNat * 0x80000 + a.toNat * 0x8000 + b.toNat * 0x800)
  | .divN64 d a b => some (32, 0x83000000 + d.toNat * 0x80000 + a.toNat * 0x8000 + b.toNat * 0x800)
  | .remS64 d a b => some (32, 0x83800000 + d.toNat * 0x80000 + a.toNat * 0x8000 + b.toNat * 0x800)
  | .remN64 d a b => some (32, 0x84000000 + d.toNat * 0x80000 + a.toNat * 0x8000 + b.toNat * 0x800)
  | .and d a b => some (32, 0x84800000 + d.toNat * 0x80000 + a.toNat * 0x8000 + b.toNat * 0x800)
  | .or d a b => some (32, 0x85000000 + d.toNat * 0x80000 + a.toNat * 0x8000 + b.toNat * 0x800)
  | .xor d a b => some (32, 0x85800000 + d.toNat * 0x80000 + a.toNat * 0x8000 + b.toNat * 0x800)
  | .andn d a b => some (32, 0x86000000 + d.toNat * 0x80000 + a.toNat * 0x8000 + b.toNat * 0x800)
  | .shl d a b => some (32, 0x86800000 + d.toNat * 0x80000 + a.toNat * 0x8000 + b.toNat * 0x800)
  | .shr d a b => some (32, 0x87000000 + d.toNat * 0x80000 + a.toNat * 0x8000 + b.toNat * 0x800)
  | .sra d a b => some (32, 0x87800000 + d.toNat * 0x80000 + a.toNat * 0x8000 + b.toNat * 0x800)
  | .rol d a b => some (32, 0x88000000 + d.toNat * 0x80000 + a.toNat * 0x8000 + b.toNat * 0x800)
  | .minS64 d a b => some (32, 0x88800000 + d.toNat * 0x80000 + a.toNat * 0x8000 + b.toNat * 0x800)
  | .maxS64 d a b => some (32, 0x89000000 + d.toNat * 0x80000 + a.toNat * 0x8000 + b.toNat * 0x800)
  | .minN64 d a b => some (32, 0x89800000 + d.toNat * 0x80000 + a.toNat * 0x8000 + b.toNat * 0x800)
  | .maxN64 d a b => some (32, 0x8A000000 + d.toNat * 0x80000 + a.toNat * 0x8000 + b.toNat * 0x800)
  | .seq d a b => some (32, 0x8A800000 + d.toNat * 0x80000 + a.toNat * 0x8000 + b.toNat * 0x800)
  | .sltS64 d a b => some (32, 0x8B000000 + d.toNat * 0x80000 + a.toNat * 0x8000 + b.toNat * 0x800)
  | .sltN64 d a b => some (32, 0x8B800000 + d.toNat * 0x80000 + a.toNat * 0x8000 + b.toNat * 0x800)
  | .clz d a => some (32, 0x8C000000 + d.toNat * 0x80000 + a.toNat * 0x8000)
  | .ctz d a => some (32, 0x8C800000 + d.toNat * 0x80000 + a.toNat * 0x8000)
  | .popc d a => some (32, 0x8D000000 + d.toNat * 0x80000 + a.toNat * 0x8000)
  | .sext d a n => some (32, 0x8D800000 + d.toNat * 0x80000 + a.toNat * 0x8000 + n.toNat * 0x1)
  | .zext d a n => some (32, 0x8E000000 + d.toNat * 0x80000 + a.toNat * 0x8000 + n.toNat * 0x1)
  | .bfx d a b n => some (32, 0x8E800000 + d.toNat * 0x80000 + a.toNat * 0x8000 + b.toNat * 0x800 + n.toNat * 0x1)
  | .bfi d a b n => some (32, 0x8F000000 + d.toNat * 0x80000 + a.toNat * 0x8000 + b.toNat * 0x800 + n.toNat * 0x1)
  | .lea d a b s => some (32, 0x8F800000 + d.toNat * 0x80000 + a.toNat * 0x8000 + b.toNat * 0x800 + s.toNat * 0x1)
  | .addi d a i => some (32, 0x90000000 + d.toNat * 0x80000 + a.toNat * 0x8000 + i.toNat * 0x1)
  | .muli d a i => some (32, 0x90800000 + d.toNat * 0x80000 + a.toNat * 0x8000 + i.toNat * 0x1)
  | .andi d a i => some (32, 0x91000000 + d.toNat * 0x80000 + a.toNat * 0x8000 + i.toNat * 0x1)
  | .ori d a i => some (32, 0x91800000 + d.toNat * 0x80000 + a.toNat * 0x8000 + i.toNat * 0x1)
  | .xori d a i => some (32, 0x92000000 + d.toNat * 0x80000 + a.toNat * 0x8000 + i.toNat * 0x1)
  | .shli d a i => some (32, 0x92800000 + d.toNat * 0x80000 + a.toNat * 0x8000 + i.toNat * 0x1)
  | .shri d a i => some (32, 0x93000000 + d.toNat * 0x80000 + a.toNat * 0x8000 + i.toNat * 0x1)
  | .srai d a i => some (32, 0x93800000 + d.toNat * 0x80000 + a.toNat * 0x8000 + i.toNat * 0x1)
  | .seqi d a i => some (32, 0x94000000 + d.toNat * 0x80000 + a.toNat * 0x8000 + i.toNat * 0x1)
  | .sltiS64 d a i => some (32, 0x94800000 + d.toNat * 0x80000 + a.toNat * 0x8000 + i.toNat * 0x1)
  | .sltiN64 d a i => some (32, 0x95000000 + d.toNat * 0x80000 + a.toNat * 0x8000 + i.toNat * 0x1)
  | .rsbi d a i => some (32, 0x95800000 + d.toNat * 0x80000 + a.toNat * 0x8000 + i.toNat * 0x1)
  | .miniS64 d a i => some (32, 0x96000000 + d.toNat * 0x80000 + a.toNat * 0x8000 + i.toNat * 0x1)
  | .maxiS64 d a i => some (32, 0x96800000 + d.toNat * 0x80000 + a.toNat * 0x8000 + i.toNat * 0x1)
  | .movw d h i => some (32, 0x97000000 + d.toNat * 0x80000 + h.toNat * 0x20000 + i.toNat * 0x1)
  | .movk d h i => some (32, 0x97800000 + d.toNat * 0x80000 + h.toNat * 0x20000 + i.toNat * 0x1)
  | .ldl d a s e n f => some (32, 0x98000000 + d.toNat * 0x80000 + a.toNat * 0x8000 + s.toNat * 0x2000 + e.toNat * 0x1000 + n.toNat * 0x800 + f.toNat * 0x1)
  | .stl d a s n f => some (32, 0x98800000 + d.toNat * 0x80000 + a.toNat * 0x8000 + s.toNat * 0x2000 + n.toNat * 0x800 + f.toNat * 0x1)
  | .ld d a s e n f => some (32, 0x99000000 + d.toNat * 0x80000 + a.toNat * 0x8000 + s.toNat * 0x2000 + e.toNat * 0x1000 + n.toNat * 0x800 + f.toNat * 0x1)
  | .st d a s n f => some (32, 0x99800000 + d.toNat * 0x80000 + a.toNat * 0x8000 + s.toNat * 0x2000 + n.toNat * 0x800 + f.toNat * 0x1)
  | .ldAcq d a s e c => some (32, 0x9A000000 + d.toNat * 0x80000 + a.toNat * 0x8000 + s.toNat * 0x2000 + e.toNat * 0x1000 + c.toNat * 0x100)
  | .stRel d a s c => some (32, 0x9A800000 + d.toNat * 0x80000 + a.toNat * 0x8000 + s.toNat * 0x2000 + c.toNat * 0x100)
  | .ldlPr d a n f => some (32, 0x9B006000 + d.toNat * 0x80000 + a.toNat * 0x8000 + n.toNat * 0x800 + f.toNat * 0x1)
  | .stlPr d a n f => some (32, 0x9B806000 + d.toNat * 0x80000 + a.toNat * 0x8000 + n.toNat * 0x800 + f.toNat * 0x1)
  | .ldNc d a s e n f => some (32, 0x9C000000 + d.toNat * 0x80000 + a.toNat * 0x8000 + s.toNat * 0x2000 + e.toNat * 0x1000 + n.toNat * 0x800 + f.toNat * 0x1)
  | .stNc d a s n f => some (32, 0x9C800000 + d.toNat * 0x80000 + a.toNat * 0x8000 + s.toNat * 0x2000 + n.toNat * 0x800 + f.toNat * 0x1)
  | .pf a n f => some (32, 0x9D006000 + a.toNat * 0x8000 + n.toNat * 0x800 + f.toNat * 0x1)
  | .wbk a n f => some (32, 0x9D806000 + a.toNat * 0x8000 + n.toNat * 0x800 + f.toNat * 0x1)
  | .xlq d a n f => some (32, 0x9E006000 + d.toNat * 0x80000 + a.toNat * 0x8000 + n.toNat * 0x800 + f.toNat * 0x1)
  | .stz a n f => some (32, 0x9E806000 + a.toNat * 0x8000 + n.toNat * 0x800 + f.toNat * 0x1)
  | .chka d a s e n f => some (32, 0x9F000000 + d.toNat * 0x80000 + a.toNat * 0x8000 + s.toNat * 0x2000 + e.toNat * 0x1000 + n.toNat * 0x800 + f.toNat * 0x1)
  | .stzl a n f => some (32, 0x9F806000 + a.toNat * 0x8000 + n.toNat * 0x800 + f.toNat * 0x1)
  | .b a c p => some (32, 0xA0000000 + a.toNat * 0x80000 + c.toNat * 0x10000 + p.toNat * 0x1)
  | .bN a c p => some (32, 0xA0800000 + a.toNat * 0x80000 + c.toNat * 0x10000 + p.toNat * 0x1)
  | .call a c p => some (32, 0xA1000000 + a.toNat * 0x80000 + c.toNat * 0x10000 + p.toNat * 0x1)
  | .ret a => some (32, 0xA1800000 + a.toNat * 0x8000)
  | .jr a b => some (32, 0xA2000000 + a.toNat * 0x8000 + b.toNat * 0x800)
  | .loop a p => some (32, 0xA2800000 + a.toNat * 0x80000 + p.toNat * 0x1)
  | .loopN a p => some (32, 0xA3000000 + a.toNat * 0x80000 + p.toNat * 0x1)
  | .bEq a b p => some (32, 0xA3800000 + a.toNat * 0x80000 + b.toNat * 0x8000 + p.toNat * 0x1)
  | .bNe a b p => some (32, 0xA4000000 + a.toNat * 0x80000 + b.toNat * 0x8000 + p.toNat * 0x1)
  | .bLtS64 a b p => some (32, 0xA4800000 + a.toNat * 0x80000 + b.toNat * 0x8000 + p.toNat * 0x1)
  | .bLtN64 a b p => some (32, 0xA5000000 + a.toNat * 0x80000 + b.toNat * 0x8000 + p.toNat * 0x1)
  | .bGeS64 a b p => some (32, 0xA5800000 + a.toNat * 0x80000 + b.toNat * 0x8000 + p.toNat * 0x1)
  | .bGeN64 a b p => some (32, 0xA6000000 + a.toNat * 0x80000 + b.toNat * 0x8000 + p.toNat * 0x1)
  | .yield => some (32, 0xA6800000)
  | .nop => some (32, 0xA7000000)
  | .callr d a => some (32, 0xA7800000 + d.toNat * 0x80000 + a.toNat * 0x8000)
  | .jx r q h => some (32, 0xA8000000 + r.toNat * 0x80 + q.toNat * 0x10 + h.toNat * 0x1)
  | .cx r q h => some (32, 0xA8800000 + r.toNat * 0x80 + q.toNat * 0x10 + h.toNat * 0x1)
  | .jxr a h q => some (32, 0xA9000000 + a.toNat * 0x8000 + h.toNat * 0x8 + q.toNat * 0x1)
  | .xret q h => some (32, 0xA9800000 + q.toNat * 0x10 + h.toNat * 0x1)
  | .xend q => some (32, 0xAA000000 + q.toNat * 0x10)
  | .send a b p n => some (32, 0xAA800000 + a.toNat * 0x8000 + b.toNat * 0x800 + p.toNat * 0x8 + n.toNat * 0x1)
  | .sendnb d a b p n => some (32, 0xAB000000 + d.toNat * 0x80000 + a.toNat * 0x8000 + b.toNat * 0x800 + p.toNat * 0x8 + n.toNat * 0x1)
  | .recv d a => some (32, 0xAB800000 + d.toNat * 0x80000 + a.toNat * 0x8000)
  | .recvnb d a b => some (32, 0xAC000000 + d.toNat * 0x80000 + a.toNat * 0x8000 + b.toNat * 0x800)
  | .chbind d a b => some (32, 0xAC800000 + d.toNat * 0x80000 + a.toNat * 0x8000 + b.toNat * 0x800)
  | .launch d a => some (32, 0xAD000000 + d.toNat * 0x80000 + a.toNat * 0x8000)
  | .spawn d a h q => some (32, 0xAD800000 + d.toNat * 0x80000 + a.toNat * 0x8000 + h.toNat * 0x8 + q.toNat * 0x1)
  | .rrepl r g => some (32, 0xAE000000 + r.toNat * 0x80 + g.toNat * 0x10)
  | .rreplRet r g => some (32, 0xAE000001 + r.toNat * 0x80 + g.toNat * 0x10)
  | .evbind d a b => some (32, 0xAE800000 + d.toNat * 0x80000 + a.toNat * 0x8000 + b.toNat * 0x800)
  | .evbindOff d a => some (32, 0xAE800001 + d.toNat * 0x80000 + a.toNat * 0x8000)
  | .vclaim d a => some (32, 0xAF000000 + d.toNat * 0x80000 + a.toNat * 0x8000)
  | .vrenew d => some (32, 0xAF800000 + d.toNat * 0x80000)
  | .vadd g m d a b => some (32, 0xB0000000 + g.toNat * 0x100000 + m.toNat * 0x40000 + d.toNat * 0x1000 + a.toNat * 0x40 + b.toNat * 0x1)
  | .vsub g m d a b => some (32, 0xB0800000 + g.toNat * 0x100000 + m.toNat * 0x40000 + d.toNat * 0x1000 + a.toNat * 0x40 + b.toNat * 0x1)
  | .vmul g m d a b => some (32, 0xB1000000 + g.toNat * 0x100000 + m.toNat * 0x40000 + d.toNat * 0x1000 + a.toNat * 0x40 + b.toNat * 0x1)
  | .vmulhS g m d a b => some (32, 0xB1800000 + g.toNat * 0x100000 + m.toNat * 0x40000 + d.toNat * 0x1000 + a.toNat * 0x40 + b.toNat * 0x1)
  | .vmulhN g m d a b => some (32, 0xB2000000 + g.toNat * 0x100000 + m.toNat * 0x40000 + d.toNat * 0x1000 + a.toNat * 0x40 + b.toNat * 0x1)
  | .vdivS g m d a b => some (32, 0xB2800000 + g.toNat * 0x100000 + m.toNat * 0x40000 + d.toNat * 0x1000 + a.toNat * 0x40 + b.toNat * 0x1)
  | .vdivN g m d a b => some (32, 0xB3000000 + g.toNat * 0x100000 + m.toNat * 0x40000 + d.toNat * 0x1000 + a.toNat * 0x40 + b.toNat * 0x1)
  | .vremS g m d a b => some (32, 0xB3800000 + g.toNat * 0x100000 + m.toNat * 0x40000 + d.toNat * 0x1000 + a.toNat * 0x40 + b.toNat * 0x1)
  | .vremN g m d a b => some (32, 0xB4000000 + g.toNat * 0x100000 + m.toNat * 0x40000 + d.toNat * 0x1000 + a.toNat * 0x40 + b.toNat * 0x1)
  | .vand g d a b => some (32, 0xB4800000 + g.toNat * 0x100000 + d.toNat * 0x1000 + a.toNat * 0x40 + b.toNat * 0x1)
  | .vor g d a b => some (32, 0xB5000000 + g.toNat * 0x100000 + d.toNat * 0x1000 + a.toNat * 0x40 + b.toNat * 0x1)
  | .vxor g d a b => some (32, 0xB5800000 + g.toNat * 0x100000 + d.toNat * 0x1000 + a.toNat * 0x40 + b.toNat * 0x1)
  | .vandn g d a b => some (32, 0xB6000000 + g.toNat * 0x100000 + d.toNat * 0x1000 + a.toNat * 0x40 + b.toNat * 0x1)
  | .vshl g m d a b => some (32, 0xB6800000 + g.toNat * 0x100000 + m.toNat * 0x40000 + d.toNat * 0x1000 + a.toNat * 0x40 + b.toNat * 0x1)
  | .vshr g m d a b => some (32, 0xB7000000 + g.toNat * 0x100000 + m.toNat * 0x40000 + d.toNat * 0x1000 + a.toNat * 0x40 + b.toNat * 0x1)
  | .vsra g m d a b => some (32, 0xB7800000 + g.toNat * 0x100000 + m.toNat * 0x40000 + d.toNat * 0x1000 + a.toNat * 0x40 + b.toNat * 0x1)
  | .vminS g m d a b => some (32, 0xB8000000 + g.toNat * 0x100000 + m.toNat * 0x40000 + d.toNat * 0x1000 + a.toNat * 0x40 + b.toNat * 0x1)
  | .vminN g m d a b => some (32, 0xB8800000 + g.toNat * 0x100000 + m.toNat * 0x40000 + d.toNat * 0x1000 + a.toNat * 0x40 + b.toNat * 0x1)
  | .vmaxS g m d a b => some (32, 0xB9000000 + g.toNat * 0x100000 + m.toNat * 0x40000 + d.toNat * 0x1000 + a.toNat * 0x40 + b.toNat * 0x1)
  | .vmaxN g m d a b => some (32, 0xB9800000 + g.toNat * 0x100000 + m.toNat * 0x40000 + d.toNat * 0x1000 + a.toNat * 0x40 + b.toNat * 0x1)
  | .vcmpeq g m d a b => some (32, 0xBA000000 + g.toNat * 0x100000 + m.toNat * 0x40000 + d.toNat * 0x1000 + a.toNat * 0x40 + b.toNat * 0x1)
  | .vcmpltS g m d a b => some (32, 0xBA800000 + g.toNat * 0x100000 + m.toNat * 0x40000 + d.toNat * 0x1000 + a.toNat * 0x40 + b.toNat * 0x1)
  | .vcmpltN g m d a b => some (32, 0xBB000000 + g.toNat * 0x100000 + m.toNat * 0x40000 + d.toNat * 0x1000 + a.toNat * 0x40 + b.toNat * 0x1)
  | .vsel g d a b => some (32, 0xBB800000 + g.toNat * 0x100000 + d.toNat * 0x1000 + a.toNat * 0x40 + b.toNat * 0x1)
  | .vclz g m d a => some (32, 0xBC000000 + g.toNat * 0x100000 + m.toNat * 0x40000 + d.toNat * 0x1000 + a.toNat * 0x40)
  | .vpopc g m d a => some (32, 0xBC800000 + g.toNat * 0x100000 + m.toNat * 0x40000 + d.toNat * 0x1000 + a.toNat * 0x40)
  | .vlea g d a b => some (32, 0xBD000000 + g.toNat * 0x100000 + d.toNat * 0x1000 + a.toNat * 0x40 + b.toNat * 0x1)
  | .vmov g d a => some (32, 0xBD800000 + g.toNat * 0x100000 + d.toNat * 0x1000 + a.toNat * 0x40)
  | .vbcast g d a => some (32, 0xBE000000 + g.toNat * 0x100000 + d.toNat * 0x1000 + a.toNat * 0x40)
  | .vredi g d a b => some (32, 0xBE800000 + g.toNat * 0x100000 + d.toNat * 0x1000 + a.toNat * 0x40 + b.toNat * 0x1)
  | .vshuf g d a b => some (32, 0xBF000000 + g.toNat * 0x100000 + d.toNat * 0x1000 + a.toNat * 0x40 + b.toNat * 0x1)
  | .vgext g d a => some (32, 0xBF800000 + g.toNat * 0x100000 + d.toNat * 0x1000 + a.toNat * 0x40)
  | .vfaddF64 g m d a b => some (32, 0xC0000000 + g.toNat * 0x100000 + m.toNat * 0x40000 + d.toNat * 0x1000 + a.toNat * 0x40 + b.toNat * 0x1)
  | .vfsubF64 g m d a b => some (32, 0xC0800000 + g.toNat * 0x100000 + m.toNat * 0x40000 + d.toNat * 0x1000 + a.toNat * 0x40 + b.toNat * 0x1)
  | .vfmulF64 g m d a b => some (32, 0xC1000000 + g.toNat * 0x100000 + m.toNat * 0x40000 + d.toNat * 0x1000 + a.toNat * 0x40 + b.toNat * 0x1)
  | .vfmaF64 g m d a b => some (32, 0xC1800000 + g.toNat * 0x100000 + m.toNat * 0x40000 + d.toNat * 0x1000 + a.toNat * 0x40 + b.toNat * 0x1)
  | .vfaddF32 g m d a b => some (32, 0xC2000000 + g.toNat * 0x100000 + m.toNat * 0x40000 + d.toNat * 0x1000 + a.toNat * 0x40 + b.toNat * 0x1)
  | .vfsubF32 g m d a b => some (32, 0xC2800000 + g.toNat * 0x100000 + m.toNat * 0x40000 + d.toNat * 0x1000 + a.toNat * 0x40 + b.toNat * 0x1)
  | .vfmulF32 g m d a b => some (32, 0xC3000000 + g.toNat * 0x100000 + m.toNat * 0x40000 + d.toNat * 0x1000 + a.toNat * 0x40 + b.toNat * 0x1)
  | .vfmaF32 g m d a b => some (32, 0xC3800000 + g.toNat * 0x100000 + m.toNat * 0x40000 + d.toNat * 0x1000 + a.toNat * 0x40 + b.toNat * 0x1)
  | .vfaddBf16 g m d a b => some (32, 0xC4000000 + g.toNat * 0x100000 + m.toNat * 0x40000 + d.toNat * 0x1000 + a.toNat * 0x40 + b.toNat * 0x1)
  | .vfmulBf16 g m d a b => some (32, 0xC4800000 + g.toNat * 0x100000 + m.toNat * 0x40000 + d.toNat * 0x1000 + a.toNat * 0x40 + b.toNat * 0x1)
  | .vfmaBf16 g m d a b => some (32, 0xC5000000 + g.toNat * 0x100000 + m.toNat * 0x40000 + d.toNat * 0x1000 + a.toNat * 0x40 + b.toNat * 0x1)
  | .vfaddF16 g m d a b => some (32, 0xC5800000 + g.toNat * 0x100000 + m.toNat * 0x40000 + d.toNat * 0x1000 + a.toNat * 0x40 + b.toNat * 0x1)
  | .vfmulF16 g m d a b => some (32, 0xC6000000 + g.toNat * 0x100000 + m.toNat * 0x40000 + d.toNat * 0x1000 + a.toNat * 0x40 + b.toNat * 0x1)
  | .vfmaF16 g m d a b => some (32, 0xC6800000 + g.toNat * 0x100000 + m.toNat * 0x40000 + d.toNat * 0x1000 + a.toNat * 0x40 + b.toNat * 0x1)
  | .vfmin g m d a b => some (32, 0xC7000000 + g.toNat * 0x100000 + m.toNat * 0x40000 + d.toNat * 0x1000 + a.toNat * 0x40 + b.toNat * 0x1)
  | .vfmax g m d a b => some (32, 0xC7800000 + g.toNat * 0x100000 + m.toNat * 0x40000 + d.toNat * 0x1000 + a.toNat * 0x40 + b.toNat * 0x1)
  | .vfcmpeq g m d a b => some (32, 0xC8000000 + g.toNat * 0x100000 + m.toNat * 0x40000 + d.toNat * 0x1000 + a.toNat * 0x40 + b.toNat * 0x1)
  | .vfcmplt g m d a b => some (32, 0xC8800000 + g.toNat * 0x100000 + m.toNat * 0x40000 + d.toNat * 0x1000 + a.toNat * 0x40 + b.toNat * 0x1)
  | .vfcmple g m d a b => some (32, 0xC9000000 + g.toNat * 0x100000 + m.toNat * 0x40000 + d.toNat * 0x1000 + a.toNat * 0x40 + b.toNat * 0x1)
  | .vfdiv g m d a b => some (32, 0xC9800000 + g.toNat * 0x100000 + m.toNat * 0x40000 + d.toNat * 0x1000 + a.toNat * 0x40 + b.toNat * 0x1)
  | .vfsqrt g m d a => some (32, 0xCA000000 + g.toNat * 0x100000 + m.toNat * 0x40000 + d.toNat * 0x1000 + a.toNat * 0x40)
  | .vfneg g m d a => some (32, 0xCA800000 + g.toNat * 0x100000 + m.toNat * 0x40000 + d.toNat * 0x1000 + a.toNat * 0x40)
  | .vfabs g m d a => some (32, 0xCB000000 + g.toNat * 0x100000 + m.toNat * 0x40000 + d.toNat * 0x1000 + a.toNat * 0x40)
  | .vfclass g m d a => some (32, 0xCB800000 + g.toNat * 0x100000 + m.toNat * 0x40000 + d.toNat * 0x1000 + a.toNat * 0x40)
  | .vcvt g m d a t s => some (32, 0xCC000000 + g.toNat * 0x100000 + m.toNat * 0x40000 + d.toNat * 0x1000 + a.toNat * 0x40 + t.toNat * 0x8 + s.toNat * 0x1)
  | .vcvtx g m d a t s => some (32, 0xCC800000 + g.toNat * 0x100000 + m.toNat * 0x40000 + d.toNat * 0x1000 + a.toNat * 0x40 + t.toNat * 0x8 + s.toNat * 0x1)
  | .vcvti g m d a t s => some (32, 0xCD000000 + g.toNat * 0x100000 + m.toNat * 0x40000 + d.toNat * 0x1000 + a.toNat * 0x40 + t.toNat * 0x8 + s.toNat * 0x1)
  | .vcvtf g m d a t s => some (32, 0xCD800000 + g.toNat * 0x100000 + m.toNat * 0x40000 + d.toNat * 0x1000 + a.toNat * 0x40 + t.toNat * 0x8 + s.toNat * 0x1)
  | .vdot2 g m d a b => some (32, 0xCE000000 + g.toNat * 0x100000 + m.toNat * 0x40000 + d.toNat * 0x1000 + a.toNat * 0x40 + b.toNat * 0x1)
  | .vdot4 g m d a b => some (32, 0xCE800000 + g.toNat * 0x100000 + m.toNat * 0x40000 + d.toNat * 0x1000 + a.toNat * 0x40 + b.toNat * 0x1)
  | .vdot8 g m d a b => some (32, 0xCF000000 + g.toNat * 0x100000 + m.toNat * 0x40000 + d.toNat * 0x1000 + a.toNat * 0x40 + b.toNat * 0x1)
  | .vfred g m d a o r => some (32, 0xCF800000 + g.toNat * 0x100000 + m.toNat * 0x40000 + d.toNat * 0x1000 + a.toNat * 0x40 + o.toNat * 0x10 + r.toNat * 0x4)
  | .vbadd g m d f a b => some (32, 0xD0000000 + g.toNat * 0x100000 + m.toNat * 0x40000 + d.toNat * 0x4000 + f.toNat * 0x1000 + a.toNat * 0x100 + b.toNat * 0x4)
  | .vbsub g m d f a b => some (32, 0xD0800000 + g.toNat * 0x100000 + m.toNat * 0x40000 + d.toNat * 0x4000 + f.toNat * 0x1000 + a.toNat * 0x100 + b.toNat * 0x4)
  | .vbmul g m d f a b => some (32, 0xD1000000 + g.toNat * 0x100000 + m.toNat * 0x40000 + d.toNat * 0x4000 + f.toNat * 0x1000 + a.toNat * 0x100 + b.toNat * 0x4)
  | .vbfma g m d f a b => some (32, 0xD1800000 + g.toNat * 0x100000 + m.toNat * 0x40000 + d.toNat * 0x4000 + f.toNat * 0x1000 + a.toNat * 0x100 + b.toNat * 0x4)
  | .vbmax g m d f a b => some (32, 0xD2000000 + g.toNat * 0x100000 + m.toNat * 0x40000 + d.toNat * 0x4000 + f.toNat * 0x1000 + a.toNat * 0x100 + b.toNat * 0x4)
  | .vbmin g m d f a b => some (32, 0xD2800000 + g.toNat * 0x100000 + m.toNat * 0x40000 + d.toNat * 0x4000 + f.toNat * 0x1000 + a.toNat * 0x100 + b.toNat * 0x4)
  | .vbscale g m d f a b => some (32, 0xD3000000 + g.toNat * 0x100000 + m.toNat * 0x40000 + d.toNat * 0x4000 + f.toNat * 0x1000 + a.toNat * 0x100 + b.toNat * 0x4)
  | .vbnorm g m d f a => some (32, 0xD3800000 + g.toNat * 0x100000 + m.toNat * 0x40000 + d.toNat * 0x4000 + f.toNat * 0x1000 + a.toNat * 0x100)
  | .vbpack g m d f a b => some (32, 0xD4000000 + g.toNat * 0x100000 + m.toNat * 0x40000 + d.toNat * 0x4000 + f.toNat * 0x1000 + a.toNat * 0x100 + b.toNat * 0x4)
  | .vbunpack g m d f a c => some (32, 0xD4800000 + g.toNat * 0x100000 + m.toNat * 0x40000 + d.toNat * 0x4000 + f.toNat * 0x1000 + a.toNat * 0x100 + c.toNat * 0x4)
  | .vsxpack g m d f a => some (32, 0xD5000000 + g.toNat * 0x100000 + m.toNat * 0x40000 + d.toNat * 0x4000 + f.toNat * 0x1000 + a.toNat * 0x100)
  | .vsxunpack g m d f a c => some (32, 0xD5800000 + g.toNat * 0x100000 + m.toNat * 0x40000 + d.toNat * 0x4000 + f.toNat * 0x1000 + a.toNat * 0x100 + c.toNat * 0x4)
  | .vkget g d a => some (32, 0xD6000000 + g.toNat * 0x100000 + d.toNat * 0x4000 + a.toNat * 0x100)
  | .vkset g d a => some (32, 0xD6800000 + g.toNat * 0x100000 + d.toNat * 0x4000 + a.toNat * 0x100)
  | .vbdot g m d f a b => some (32, 0xD7000000 + g.toNat * 0x100000 + m.toNat * 0x40000 + d.toNat * 0x4000 + f.toNat * 0x1000 + a.toNat * 0x100 + b.toNat * 0x4)
  | .vbcvt g m d f a s => some (32, 0xD7800000 + g.toNat * 0x100000 + m.toNat * 0x40000 + d.toNat * 0x4000 + f.toNat * 0x1000 + a.toNat * 0x100 + s.toNat * 0x4)
  | .vldl g m d a e c => some (32, 0xD8000000 + g.toNat * 0x100000 + m.toNat * 0x40000 + d.toNat * 0x1000 + a.toNat * 0x40 + e.toNat * 0x20 + c.toNat * 0x1)
  | .vstl g m d a c => some (32, 0xD8800000 + g.toNat * 0x100000 + m.toNat * 0x40000 + d.toNat * 0x1000 + a.toNat * 0x40 + c.toNat * 0x1)
  | .vld g m d a e c => some (32, 0xD9000000 + g.toNat * 0x100000 + m.toNat * 0x40000 + d.toNat * 0x1000 + a.toNat * 0x40 + e.toNat * 0x20 + c.toNat * 0x1)
  | .vst g m d a c => some (32, 0xD9800000 + g.toNat * 0x100000 + m.toNat * 0x40000 + d.toNat * 0x1000 + a.toNat * 0x40 + c.toNat * 0x1)
  | .vldAcq g m d a e s => some (32, 0xDA000000 + g.toNat * 0x100000 + m.toNat * 0x40000 + d.toNat * 0x1000 + a.toNat * 0x40 + e.toNat * 0x20 + s.toNat * 0x1)
  | .vstRel g m d a s => some (32, 0xDA800000 + g.toNat * 0x100000 + m.toNat * 0x40000 + d.toNat * 0x1000 + a.toNat * 0x40 + s.toNat * 0x1)
  | .vldlq g d a s => some (32, 0xDB000000 + g.toNat * 0x100000 + d.toNat * 0x4000 + a.toNat * 0x40 + s.toNat * 0x20)
  | .vstlq g d a s => some (32, 0xDB800000 + g.toNat * 0x100000 + d.toNat * 0x4000 + a.toNat * 0x40 + s.toNat * 0x20)
  | .vldq g d a s => some (32, 0xDC000000 + g.toNat * 0x100000 + d.toNat * 0x4000 + a.toNat * 0x40 + s.toNat * 0x20)
  | .vstq g d a s => some (32, 0xDC800000 + g.toNat * 0x100000 + d.toNat * 0x4000 + a.toNat * 0x40 + s.toNat * 0x20)
  | .vpf g a => some (32, 0xDD000000 + g.toNat * 0x100000 + a.toNat * 0x40)
  | .srd g d n => some (32, 0xDD800000 + g.toNat * 0x100000 + d.toNat * 0x1000 + n.toNat * 0x1)
  | .srdnb g d p n => some (32, 0xDE000000 + g.toNat * 0x100000 + d.toNat * 0x1000 + p.toNat * 0x40 + n.toNat * 0x1)
  | .scnt g d n => some (32, 0xDE800000 + g.toNat * 0x100000 + d.toNat * 0x1000 + n.toNat * 0x1)
  | .sdrop g a n => some (32, 0xDF000000 + g.toNat * 0x100000 + a.toNat * 0x40 + n.toNat * 0x1)
  | .sreset g n => some (32, 0xDF800000 + g.toNat * 0x100000 + n.toNat * 0x1)
  | .amo d a b z o => some (32, 0xE0000000 + d.toNat * 0x80000 + a.toNat * 0x8000 + b.toNat * 0x800 + z.toNat * 0x100 + o.toNat * 0x1)
  | .amocas d a b z => some (32, 0xE0800000 + d.toNat * 0x80000 + a.toNat * 0x8000 + b.toNat * 0x800 + z.toNat * 0x100)
  | .amol d a b z o => some (32, 0xE1000000 + d.toNat * 0x80000 + a.toNat * 0x8000 + b.toNat * 0x800 + z.toNat * 0x100 + o.toNat * 0x1)
  | .sop d a b z o => some (32, 0xE1800000 + d.toNat * 0x80000 + a.toNat * 0x8000 + b.toNat * 0x800 + z.toNat * 0x100 + o.toNat * 0x1)
  | .sopCh a => some (32, 0xE2000000 + a.toNat * 0x8000)
  | .fput a b => some (32, 0xE2800000 + a.toNat * 0x8000 + b.toNat * 0x800)
  | .fputnb d a b => some (32, 0xE3000000 + d.toNat * 0x80000 + a.toNat * 0x8000 + b.toNat * 0x800)
  | .ftake d a => some (32, 0xE3800000 + d.toNat * 0x80000 + a.toNat * 0x8000)
  | .ftakenb d a b => some (32, 0xE4000000 + d.toNat * 0x80000 + a.toNat * 0x8000 + b.toNat * 0x800)
  | .fpeek d a b => some (32, 0xE4800000 + d.toNat * 0x80000 + a.toNat * 0x8000 + b.toNat * 0x800)
  | .dcset d a b o => some (32, 0xE5000000 + d.toNat * 0x80000 + a.toNat * 0x8000 + b.toNat * 0x800 + o.toNat * 0x1)
  | .dcadd d a b o => some (32, 0xE5800000 + d.toNat * 0x80000 + a.toNat * 0x8000 + b.toNat * 0x800 + o.toNat * 0x1)
  | .dcdec d a b o => some (32, 0xE6000000 + d.toNat * 0x80000 + a.toNat * 0x8000 + b.toNat * 0x800 + o.toNat * 0x1)
  | .sopw a b z o => some (32, 0xE6800000 + a.toNat * 0x8000 + b.toNat * 0x800 + z.toNat * 0x100 + o.toNat * 0x1)
  | .amonr a b z o => some (32, 0xE7000000 + a.toNat * 0x8000 + b.toNat * 0x800 + z.toNat * 0x100 + o.toNat * 0x1)
  | .sopq d a b z o => some (32, 0xE7800000 + d.toNat * 0x80000 + a.toNat * 0x8000 + b.toNat * 0x800 + z.toNat * 0x100 + o.toNat * 0x1)
  | .ccopy a b s t w j k q => some (32, 0xE8000000 + a.toNat * 0x80000 + b.toNat * 0x8000 + s.toNat * 0x1000 + t.toNat * 0x200 + w.toNat * 0x80 + j.toNat * 0x10 + k.toNat * 0x4 + q.toNat * 0x1)
  | .cfence q m => some (32, 0xE8800000 + q.toNat * 0x1000 + m.toNat * 0x1)
  | .mcmd a => some (32, 0xE9000000 + a.toNat * 0x80000)
  | .mgang a => some (32, 0xE9800000 + a.toNat * 0x80000)
  | .mresume => some (32, 0xEA000000)
  | .mresumeAbort => some (32, 0xEA000001)
  | .mfence m => some (32, 0xEA800000 + m.toNat * 0x1)
  | .mdrain a b o t c => some (32, 0xEB000000 + a.toNat * 0x80000 + b.toNat * 0x8000 + o.toNat * 0x1000 + t.toNat * 0x200 + c.toNat * 0x1)
  | .mstat a => some (32, 0xEB800000 + a.toNat * 0x80000)
  | .mstatCtx a => some (32, 0xEB800001 + a.toNat * 0x80000)
  | .cstat a q => some (32, 0xEC000000 + a.toNat * 0x80000 + q.toNat * 0x1000)
  | .cstatDrop a q => some (32, 0xEC000001 + a.toNat * 0x80000 + q.toNat * 0x1000)
  | .tmset a b n => some (32, 0xEC800000 + a.toNat * 0x80000 + b.toNat * 0x8000 + n.toNat * 0x1000)
  | .tmget a n => some (32, 0xED000000 + a.toNat * 0x80000 + n.toNat * 0x1000)
  | .rgset a b n => some (32, 0xED800000 + a.toNat * 0x80000 + b.toNat * 0x8000 + n.toNat * 0x1000)
  | .rgget a n => some (32, 0xEE000000 + a.toNat * 0x80000 + n.toNat * 0x1000)
  | .rgpush a b n => some (32, 0xEE800000 + a.toNat * 0x80000 + b.toNat * 0x8000 + n.toNat * 0x1000)
  | .rgpop a b n => some (32, 0xEF000000 + a.toNat * 0x80000 + b.toNat * 0x8000 + n.toNat * 0x1000)
  | .cwait m => some (32, 0xEF800000 + m.toNat * 0x1)
  | .barbind a b n s => some (32, 0xF0000000 + a.toNat * 0x80000 + b.toNat * 0x8000 + n.toNat * 0x1000 + s.toNat * 0x1)
  | .bararr a b n => some (32, 0xF0800000 + a.toNat * 0x80000 + b.toNat * 0x8000 + n.toNat * 0x1000)
  | .barwait a n => some (32, 0xF1000000 + a.toNat * 0x80000 + n.toNat * 0x1000)
  | .barwaitnb a b n => some (32, 0xF1800000 + a.toNat * 0x80000 + b.toNat * 0x8000 + n.toNat * 0x1000)
  | .fence s => some (32, 0xF2000000 + s.toNat * 0x1)
  | .fenceAcq s => some (32, 0xF2000008 + s.toNat * 0x1)
  | .fenceRel s => some (32, 0xF2000010 + s.toNat * 0x1)
  | .tlwait a b => some (32, 0xF2800000 + a.toNat * 0x80000 + b.toNat * 0x8000)
  | .tlwaitnb a b => some (32, 0xF3000000 + a.toNat * 0x80000 + b.toNat * 0x8000)
  | .tladd a b => some (32, 0xF3800000 + a.toNat * 0x80000 + b.toNat * 0x8000)
  | .tladdSet a b => some (32, 0xF3800001 + a.toNat * 0x80000 + b.toNat * 0x8000)
  | .ckgen g d a b => some (32, 0xF4000000 + g.toNat * 0x100000 + d.toNat * 0x1000 + a.toNat * 0x40 + b.toNat * 0x1)
  | .ckver g d a b => some (32, 0xF4800000 + g.toNat * 0x100000 + d.toNat * 0x1000 + a.toNat * 0x40 + b.toNat * 0x1)
  | .ckfold g d a b => some (32, 0xF5000000 + g.toNat * 0x100000 + d.toNat * 0x1000 + a.toNat * 0x40 + b.toNat * 0x1)
  | .dqput d a b c => some (32, 0xF5800000 + d.toNat * 0x80000 + a.toNat * 0x8000 + b.toNat * 0x800 + c.toNat * 0x1)
  | .dxlook d a b s k => some (32, 0xF6000000 + d.toNat * 0x80000 + a.toNat * 0x8000 + b.toNat * 0x800 + s.toNat * 0x2 + k.toNat * 0x1)
  | .dxadd d a b s => some (32, 0xF6800000 + d.toNat * 0x80000 + a.toNat * 0x8000 + b.toNat * 0x800 + s.toNat * 0x2)
  | .dxseal d a b => some (32, 0xF7000000 + d.toNat * 0x80000 + a.toNat * 0x8000 + b.toNat * 0x800)
  | .dxquiet d a b => some (32, 0xF7800000 + d.toNat * 0x80000 + a.toNat * 0x8000 + b.toNat * 0x800)
  | .dxquietnb d a b => some (32, 0xF7800001 + d.toNat * 0x80000 + a.toNat * 0x8000 + b.toNat * 0x800)
  | .sget d s => some (32, 0xF8000000 + d.toNat * 0x80000 + s.toNat * 0x80)
  | .sset a s => some (32, 0xF8800000 + a.toNat * 0x8000 + s.toNat * 0x80)
  | .scall d a s => some (32, 0xF9000000 + d.toNat * 0x80000 + a.toNat * 0x8000 + s.toNat * 0x80)
  | .pcall d a s => some (32, 0xF9800000 + d.toNat * 0x80000 + a.toNat * 0x8000 + s.toNat * 0x80)
  | .tret => some (32, 0xFA000000)
  | .brk s => some (32, 0xFA800000 + s.toNat * 0x80)
  | .wpset d a k n => some (32, 0xFB000000 + d.toNat * 0x80000 + a.toNat * 0x8000 + k.toNat * 0x400 + n.toNat * 0x80)
  | .xlinv a s => some (32, 0xFB800000 + a.toNat * 0x8000 + s.toNat * 0x80)
  | .xlinvLg a s => some (32, 0xFB800400 + a.toNat * 0x8000 + s.toNat * 0x80)
  | .xlinvAll s => some (32, 0xFB800800 + s.toNat * 0x80)
  | .cldw d n => some (32, 0xFC000000 + d.toNat * 0x80000 + n.toNat * 0x80)
  | .cldwW a n => some (32, 0xFC004000 + a.toNat * 0x8000 + n.toNat * 0x80)
  | .chwr d a c => some (32, 0xFC800000 + d.toNat * 0x80000 + a.toNat * 0x8000 + c.toNat * 0x80)
  | .chrd a c => some (32, 0xFD000000 + a.toNat * 0x8000 + c.toNat * 0x80)
  | .ebrd d a w => some (32, 0xFD800000 + d.toNat * 0x80000 + a.toNat * 0x8000 + w.toNat * 0x80)
  | .ebrdClr d a w => some (32, 0xFD800200 + d.toNat * 0x80000 + a.toNat * 0x8000 + w.toNat * 0x80)
  | .inj d a s => some (32, 0xFE000000 + d.toNat * 0x80000 + a.toNat * 0x8000 + s.toNat * 0x80)
  | .idle a => some (32, 0xFE800000 + a.toNat * 0x8000)
  | .halt => some (32, 0xFF000000)
  | .sstep a => some (32, 0xFF800000 + a.toNat * 0x8000)
  | .sstepLn a => some (32, 0xFF800080 + a.toNat * 0x8000)
  | .brkCompact i => some (16, 0x0000 + i.toNat * 0x1)
  | .addCompact d a b => some (16, 0x0400 + d.toNat * 0x80 + a.toNat * 0x10 + b.toNat * 0x2)
  | .subCompact d a b => some (16, 0x0800 + d.toNat * 0x80 + a.toNat * 0x10 + b.toNat * 0x2)
  | .andCompact d a b => some (16, 0x0C00 + d.toNat * 0x80 + a.toNat * 0x10 + b.toNat * 0x2)
  | .orCompact d a b => some (16, 0x1000 + d.toNat * 0x80 + a.toNat * 0x10 + b.toNat * 0x2)
  | .xorCompact d a b => some (16, 0x1400 + d.toNat * 0x80 + a.toNat * 0x10 + b.toNat * 0x2)
  | .addiCompact d i => some (16, 0x1800 + d.toNat * 0x80 + i.toNat * 0x1)
  | .shliCompact d i => some (16, 0x1C00 + d.toNat * 0x80 + i.toNat * 0x1)
  | .shriCompact d i => some (16, 0x2000 + d.toNat * 0x80 + i.toNat * 0x1)
  | .sraiCompact d i => some (16, 0x2400 + d.toNat * 0x80 + i.toNat * 0x1)
  | .andiCompact d i => some (16, 0x2800 + d.toNat * 0x80 + i.toNat * 0x1)
  | .ldlCompact d a f => some (16, 0x2C00 + d.toNat * 0x80 + a.toNat * 0x10 + f.toNat * 0x1)
  | .stlCompact d a f => some (16, 0x3000 + d.toNat * 0x80 + a.toNat * 0x10 + f.toNat * 0x1)
  | .ldCompact d a f => some (16, 0x3400 + d.toNat * 0x80 + a.toNat * 0x10 + f.toNat * 0x1)
  | .stCompact d a f => some (16, 0x3800 + d.toNat * 0x80 + a.toNat * 0x10 + f.toNat * 0x1)
  | .bCompact p => some (16, 0x3C00 + p.toNat * 0x1)
  | .bZCompact a p => some (16, 0x4000 + a.toNat * 0x80 + p.toNat * 0x1)
  | .bNzCompact a p => some (16, 0x4400 + a.toNat * 0x80 + p.toNat * 0x1)
  | .loopCompact a p => some (16, 0x4800 + a.toNat * 0x80 + p.toNat * 0x1)
  | .vaddCompact d a b c => some (16, 0x4C00 + d.toNat * 0x80 + a.toNat * 0x10 + b.toNat * 0x2 + c.toNat * 0x1)
  | .vsubCompact d a b c => some (16, 0x5000 + d.toNat * 0x80 + a.toNat * 0x10 + b.toNat * 0x2 + c.toNat * 0x1)
  | .vmulCompact d a b c => some (16, 0x5400 + d.toNat * 0x80 + a.toNat * 0x10 + b.toNat * 0x2 + c.toNat * 0x1)
  | .vandCompact d a b c => some (16, 0x5800 + d.toNat * 0x80 + a.toNat * 0x10 + b.toNat * 0x2 + c.toNat * 0x1)
  | .vorCompact d a b c => some (16, 0x5C00 + d.toNat * 0x80 + a.toNat * 0x10 + b.toNat * 0x2 + c.toNat * 0x1)
  | .vxorCompact d a b c => some (16, 0x6000 + d.toNat * 0x80 + a.toNat * 0x10 + b.toNat * 0x2 + c.toNat * 0x1)
  | .vmovCompact d a => some (16, 0x6400 + d.toNat * 0x80 + a.toNat * 0x10)
  | .vfaddF32Compact d a b c => some (16, 0x6800 + d.toNat * 0x80 + a.toNat * 0x10 + b.toNat * 0x2 + c.toNat * 0x1)
  | .vfmulF32Compact d a b c => some (16, 0x6C00 + d.toNat * 0x80 + a.toNat * 0x10 + b.toNat * 0x2 + c.toNat * 0x1)
  | .vfmaF32Compact d a b c => some (16, 0x7000 + d.toNat * 0x80 + a.toNat * 0x10 + b.toNat * 0x2 + c.toNat * 0x1)
  | .vcmpeqCompact d a b c => some (16, 0x7400 + d.toNat * 0x80 + a.toNat * 0x10 + b.toNat * 0x2 + c.toNat * 0x1)
  | .xendCompact => some (16, 0x7800)
  | .xretCompact => some (16, 0x7C00)
  | .delaySlotAnnul => none
  | .timerExpiry _ => none
  | .trapEntry _ => none
  | .transferPacking => none
  | .carryMessageSend _ _ => none
  | .spill _ _ => none
  | .grantRequest _ => none
  | .grant _ => none
  | .revocation _ => none
  | .refusal _ => none
  | .carryArrival _ => none
  | .dataMessageArrival _ => none
  | .changeMessageArrival _ => none
  | .ringDrain _ _ => none
  | .rebindingTakesEffect _ _ => none
  | .firing _ _ => none
  | .frameRelease _ _ => none
  | .loadReply _ _ _ => none
  | .forwardedReply _ _ _ _ => none
  | .forwardingEntryTimeout _ _ => none
  | .storeAcknowledgement _ _ => none
  | .remoteAccess _ => none
  | .sliceOperation _ => none
  | .chainedPacket _ => none
  | .futureRetry _ _ => none
  | .counterUpdateRetry _ _ => none
  | .readyQueueSend _ => none
  | .counterEvent _ _ => none
  | .barrierArrival _ _ _ _ => none
  | .barrierCompletion _ _ => none
  | .timelineWrite _ => none
  | .timelineRelease _ _ => none
  | .copyUnit _ _ => none
  | .copyCompletion _ _ => none
  | .checkedChunkVerify _ _ => none
  | .chunkRecordDrop _ _ => none
  | .matrixArbitration _ => none
  | .matrixKStep _ => none
  | .matrixDrain _ => none
  | .matrixSetContext _ => none
  | .matrixFence _ => none
  | .matrixCompletion _ => none
  | .matrixWindowPush _ _ _ _ => none
  | .ringWindowPush _ _ _ _ => none
  | .translationWalk _ _ => none
  | .translationFault _ _ => none
  | .invalidationAck _ _ => none
  | .noticePost _ => none
  | .watchdogExpiry _ => none
  | .derrickSelection => none
  | .launchDone _ _ => none
  | .launchQueueControl _ _ => none
  | .contextStart _ => none
  | .preemption => none
  | .contextRestore => none
  | .outboundRecordSend _ _ => none
  | .changeSliceQueueSend _ => none
  | .changeFiringEnd _ _ => none
  | .changeRecordLost _ _ => none
  | .quiescenceWatch _ _ _ => none
  | .scrub _ _ => none
  | .retentionEntry _ => none
  | .retentionExit _ => none
  | .pairIntervalClose _ => none
  | .containment _ _ => none
  | .containmentReset _ => none
  | .fatalError _ _ _ => none
  | .recorderUnfreeze _ => none
  | .frameBoundary => none
  | .packetAdmission _ _ => none
  | .multicastFork _ => none
  | .multicastResidualSend _ => none
  | .refusedTraffic _ => none
  | .flitReceive _ _ => none
  | .negativeAcknowledgement _ _ => none
  | .creditReturn _ _ _ => none
  | .frameMark _ => none
  | .portRetrain _ => none
  | .portTraining _ _ => none
  | .portTrainingTimeout _ => none
  | .throttleUpdate _ => none
  | .thermalTrip _ => none
  | .powerOn => none
  | .pcieReset => none
  | .reset => none
  | .hostRegisterWrite _ _ => none
  | .ring _ _ => none
  | .doorbellAppendDone _ => none
  | .control _ _ _ => none
  | .memoryWindowAccess _ _ _ _ => none
  | .mailboxRequest => none
  | .partitionCreate _ => none
  | .partitionDestroy _ => none
  | .imageLoad _ _ => none
  | .doorbellAssign _ _ => none
  | .windowSet _ _ => none
  | .preempt _ => none
  | .restore _ => none
  | .debug _ => none
  | .spdm _ _ => none
  | .notice _ => none
  | .port _ _ _ => none
  | .power _ _ _ _ => none
  | .supervisorResponse _ _ => none
  | .getVersion _ => none
  | .getCapabilities _ => none
  | .negotiateAlgorithms _ => none
  | .getDigests _ => none
  | .getCertificate _ _ _ => none
  | .challenge _ _ => none
  | .getMeasurements _ _ => none
  | .ikitikHalt _ => none
  | .ikitikResume _ => none
  | .ikitikStep _ => none
  | .steplane _ => none
  | .setpoint _ => none
  | .readgang _ => none
  | .readcore _ => none
  | .writereg _ => none
  | .readarrivals _ => none
  | .readmem _ => none
  | .readrecorder _ => none
  | .powerLoss => none
  | .idleExpiry _ => none
  | .changePutRetry _ _ => none
  | .linkManagementInterval _ => none
  | .devstatRead => none
  | .directoryInvalidationAck _ _ => none
  | .recorderFreeze _ => none

/-- The instruction that the decoder reads from a word numbered as spec/opcode_table.json numbers it: 16 bits for a
compact row, 32 for the others; the first halfword of a 32-bit word is its bits [31:16]. -/
noncomputable def decodeTableWord (nbits w : Nat) : Option Instr :=
  let r := if nbits ≤ 16 then decode (BitVec.ofNat 16 w) 0
    else decode (BitVec.ofNat 16 (w / 65536)) (BitVec.ofNat 16 w)
  match r.1 with
  | .ok i => some i
  | .error _ => none

end Sys2Proof
end

