-- ==== Sys2Proof/Machine/State.lean ====
section
/-! DEFINITION. Everything the spec gives the machine, as plain data, and the machine right after reset.
Each field names the rule that gives it; INVENTORY.md lists them with their reset values. Register files and tables are
finite maps (Machine/Sparse.lean): a key that is not listed reads as the default that the accessor names. -/
namespace Sys2Proof.Machine

/-- Bytes by address, and the 8-byte words (by address div 8) that carry poison (spec/22 R465). -/
structure Memory where
  bytes : List Host.Cell := []
  bad : List (Nat × Bool) := []
  deriving DecidableEq, Repr

/-- A cause of spec/12 Table 12-1 that waits to be taken, with its subcode, information word and lanes. -/
structure Cause where
  code : Nat
  sub : Nat
  info : Word
  lanes : BitVec 32
  deriving DecidableEq, Repr

/-- One strand standing as a lane (spec/01 R25, R29). -/
structure Lane where
  /-- `w0`-`w31`, `n0`-`n3`, `lt` by operand number 0-36 (spec/03 Table 3-3). -/
  regs : List (Nat × Word) := []
  /-- Sidecars `k0`-`k7`, default 0x7F7F. -/
  side : List (Nat × BitVec 16) := []
  /-- `p0`-`p7`; bit 0 is always 1. -/
  preds : BitVec 8 := 1
  strand : BitVec 24 := 0
  draw : BitVec 32 := 0
  /-- Poison of the registers 0-36 (bits 0-36), sidecars (bits 40-47), predicates (bits 48-55). -/
  poison : BitVec 56 := 0
  /-- Registers 0-36 and sidecars (bits 40-47) that await a load reply. -/
  pend : BitVec 48 := 0
  /-- Main registers that arrived pending (spec/15 R358). -/
  arrPend : BitVec 32 := 0
  /-- Unacknowledged stores of this lane (spec/06 R139). -/
  unacked : Nat := 0
  /-- The model's name for this lane's outstanding loads. -/
  uid : Nat := 0
  /-- Packed in a carry message that is not yet sent or spilled (spec/06 R136). -/
  packed : Bool := false
  deriving DecidableEq, Repr

/-- Kind of the firing a gang was formed in (spec/06 R153, R165; spec/20 R448). -/
inductive Firing where
  | carry | message | change
  deriving DecidableEq, Repr

/-- Which transfer elsewhere is under way (spec/06 R135). -/
inductive XferKind where
  | jx (routine : BitVec 16) | cx (routine : BitVec 16) | jxr (g : BitVec 4) | xret | xend
  deriving DecidableEq, Repr

/-- A transfer elsewhere that has executed: its own code address, its selecting predicate, whether only the home may
receive, the link, and the delay slots left; `packed` once the boundary action has been made (spec/06 R136). -/
structure Xfer where
  kind : XferKind
  pred : BitVec 3
  home : Bool
  link : BitVec 32
  left : Nat
  packed : Bool
  /-- Held after-causes of the slots (spec/12 R508). -/
  held : List Cause
  /-- A lane step selects only this lane (spec/12 R307). -/
  only : Option Nat := none
  deriving DecidableEq, Repr

/-- Where an instruction of several steps stands (spec/03 R95): what it has sent and awaits. -/
inductive Phase where
  | none
  /-- A request is out under this tag, no answer yet. -/
  | asked (tag : Nat)
  /-- The answer to the request. -/
  | answered (tag : Nat) (v : Datum) (ok : Bool)
  /-- `spawn` has queued its messages, this many strands (spec/06 R169). -/
  | spawned (n : Nat)
  /-- A directory change or an invalidation awaits acknowledgements (spec/06 R170, spec/12 R314). -/
  | acks (tag : Nat) (left : Nat) (result : Nat)
  /-- `cwait`: the queue entries it waits for (spec/11 R269). -/
  | queues (ids : List Nat)
  /-- `ckfold`: the lanes below `next` are done, and these records are not yet delivered (spec/18 R424, R426). -/
  | fold (next : Nat) (ids : List Nat)
  deriving DecidableEq, Repr

/-- A pending step request (spec/12 R307, spec/23 R484): the whole gang or one lane. -/
inductive Stepping where
  | off | gang | lane (i : Nat)
  deriving DecidableEq, Repr

/-- A resident gang (spec/01 R27, spec/04 R114). -/
structure Gang where
  lanes : List Lane := []
  /-- `g0`-`g15`. -/
  g : List (Nat × Word) := []
  gPoison : BitVec 16 := 0
  gPend : BitVec 16 := 0
  q0 : BitVec 32 := 0
  q1 : BitVec 32 := 0
  q2 : BitVec 32 := 0
  /-- Annul marks of Q0, Q1, Q2 (spec/04 R115). -/
  ann0 : Bool := false
  ann1 : Bool := false
  ann2 : Bool := false
  grant : Nat := 0
  channel : Nat := 0
  kind : Firing := .carry
  /-- Effective priority at formation (spec/16 R373). -/
  prio : Nat := 0
  /-- Holds the floor lane of its slot (spec/16 R374). -/
  waiting : Bool := false
  yielded : Bool := false
  phase : Phase := .none
  /-- The address at which a code breakpoint is due since a watchpoint was taken before it (spec/23 R482). -/
  breakDue : Option (BitVec 32) := none
  xfer : Option Xfer := Option.none
  /-- A transfer elsewhere that the trap routine executes at level 1. -/
  xferIn : Option Xfer := Option.none
  /-- Load tags that must return before a later access (acquire), and before a later store (release). -/
  acq : List Nat := []
  rel : Option (List Nat) := Option.none
  /-- The change record a change firing holds: descriptor and wave (spec/20 R448). -/
  held : Option (Nat × BitVec 32) := Option.none
  ending : Bool := false
  halted : Bool := false
  haltAtTret : Bool := false
  haltAsked : Bool := false
  step : Stepping := .off
  stepArmed : Stepping := .off
  /-- The step was asked for by a debugger: its end is a debug halt (spec/23 R484). -/
  stepDebug : Bool := false
  /-- A debugger's step has been made: its halt falls at the boundary that R508 and R116 give. -/
  stepped : Bool := false
  /-- A code breakpoint does not match the next execution (spec/12 R296). -/
  skipBreak : Bool := false
  /-- After-causes not yet taken (spec/12 R298). -/
  causes : List Cause := []
  /-- Pages that the instruction in Q0 has asked a walk for (spec/14 R343). -/
  walking : List Nat := []
  /-- Pages a walk has just found unmapped for the instruction in Q0 (spec/14 R344). -/
  missed : List Nat := []
  /-- Pages that have been walked again for the instruction in Q0 (spec/14 R345). -/
  walked : List Nat := []
  deriving DecidableEq, Repr

/-- A handler-table entry (spec/06 Table 6-7), with the entry that a rebinding will bring in. -/
structure Channel where
  word0 : Word := 0x7E0#64
  enable : Bool := false
  hold : Bool := false
  state : Nat := 0
  next : Option (Word × Bool × Bool) := none
  /-- The unbound-channel event of this period has been raised (R160). -/
  told : Bool := false
  ovf : Bool := false
  age : Nat := 0
  /-- Channel of a replica that is retiring (spec/06 R171). -/
  retire : Bool := false
  deriving DecidableEq, Repr

/-- A message waiting in receive slots, or a data message with the words not yet taken. -/
structure Arrival where
  msg : Msg
  deriving DecidableEq, Repr

/-- Slots granted to a message that has not arrived (spec/06 R143). -/
structure Granted where
  ask : GrantAsk
  deriving DecidableEq, Repr

/-- An outbound message at its source: packed at a step, granted or not, whether it has asked (spec/06 R143, R147). -/
structure Outbound where
  msg : Msg
  kind : MsgKind
  slot : Nat
  laneUid : Nat
  since : Nat
  asked : Bool
  granted : Bool
  refused : Bool
  /-- It has left, and is kept until it arrives for what follows. -/
  sent : Bool := false
  /-- What follows its delivery (spec/18 R426, spec/10 R240). -/
  after : List Instr := []
  /-- A chunk fault record. -/
  fault : Bool := false
  /-- Its place in the order of its network's messages: the name under which it was queued (spec/06 R163). -/
  seq : Nat := 0
  /-- The frame stamp of the chain whose link it is (spec/17 R397). -/
  stamp : Option (BitVec 4) := none
  deriving DecidableEq, Repr

/-- A stream register (spec/10 R232). -/
structure Stream where
  elems : List Datum := []
  /-- The copy queue bound to it, and whether its remaining elements are discarded. -/
  bound : Option Nat := none
  drop : Bool := false
  readers : List Nat := []
  deriving DecidableEq, Repr

/-- A barrier register (spec/10 Table 10-7). -/
structure Barrier where
  scope : Nat := 0
  count : Nat := 0
  arrived : Nat := 0
  gen : Nat := 0
  pending : Nat := 0
  deriving DecidableEq, Repr

/-- A ring descriptor (spec/11 Table 11-5). -/
structure RingDesc where
  word0 : Word := 0
  busy : Nat := 0
  overrun : Bool := false
  valid : Bool := false
  deriving DecidableEq, Repr

/-- An entry of a copy queue: a copy with the maps it took and the bytes left, or a fence with its unfinished targets
(spec/11 R263, R268). -/
inductive CopyJob where
  | copy (src dst : List Word) (aoff boff : Word) (bind obj : Nat) (arr : Bool) (total : Nat)
  | fence (waits : List Nat)
  deriving DecidableEq, Repr

/-- A checked chunk on its way (spec/18 R421): its image, the words of it that carry poison, and whether a fault of it has
been reported (R414). -/
structure ChunkOut where
  image : List Byte
  bad : List Nat
  reported : Bool
  deriving DecidableEq, Repr

structure CopyEntry where
  id : Nat
  job : CopyJob
  done : Nat := 0
  active : Bool := false
  /-- A unit or chunk has been read and its write is not yet acknowledged. -/
  out : Bool := false
  chunk : Option ChunkOut := none
  /-- A word of the entry is poisoned (spec/22 Table 22-1). -/
  bad : Bool := false
  deriving DecidableEq, Repr

structure CopyQueue where
  entries : List CopyEntry := []
  cause : Nat := 0
  addr : Word := 0
  deriving DecidableEq, Repr

/-- A matrix command in a queue: its 64-byte image, the maps it took, its start and stop (spec/11 R278). -/
structure MatrixEntry where
  id : Nat
  image : List Byte
  mapA : List Word
  mapB : List Word
  mapO : List Word
  fmtA : Nat
  fmtB : Nat
  active : Bool := false
  /-- It starts or has been resumed: ZERO is looked at before its next k-step (spec/11 R282). -/
  fresh : Bool := true
  /-- The drain has been made: completion remains. -/
  drained : Bool := false
  waits : List Nat := []
  deriving DecidableEq, Repr

structure MatrixQueue where
  entries : List MatrixEntry := []
  cause : Nat := 0
  held : Bool := false
  deriving DecidableEq, Repr

/-- A counter binding (spec/06 R172). -/
structure Binding where
  sel : Nat
  ch : Nat
  threshold : Word
  armed : Bool
  remembered : Option Word
  deriving DecidableEq, Repr

/-- A lane register that a reply writes: its strand, its number, the bytes, their extension, whether `lt` takes the value
with it (spec/01 R31, spec/10 R230), and whether its strand has left without it (spec/15 R359). -/
structure LanePart where
  uid : Nat
  reg : Nat
  size : Nat
  sx : Bool
  latch : Bool
  gone : Bool := false
  deriving DecidableEq, Repr

/-- Where the parts of a reply go (spec/04 R108, spec/10 R227, R239). -/
inductive LoadDest where
  | gang (slot reg size : Nat) (sx : Bool) (bank : Bool)
  | lanes (parts : List LanePart)
  | future (off : Nat)
  | phase (slot : Nat)
  | gangs (slot rd rb : Nat) (bank : Bool)
  /-- A counter update without result, kept for its repetition: it takes no entry of the table. -/
  | update
  /-- A write of a copy queue: it takes no entry of the table. -/
  | copy (q : Nat)
  | discard
  deriving DecidableEq, Repr

/-- An entry of the outstanding-load table: the reply it awaits; what it counts in `USC`; the request for a retry. -/
structure LoadEntry where
  tag : Nat
  slot : Nat
  dest : LoadDest
  usc : Bool
  uids : List Nat
  req : Req
  since : Nat
  /-- A reply that waits for a full future (spec/10 R239). -/
  held : Option Datum
  /-- The core that a strand of it was sent to, with a register that travels pending (spec/06 R139). -/
  forward : Option Nat
  /-- No longer an access of its gang: the strands have left it, or the gang is no more. -/
  orphan : Bool
  late : Bool
  deriving DecidableEq, Repr

/-- Where a strand's pending register has gone on to (spec/06 R139, spec/15 R359): 64 times the strand plus the register, the core,
when its message left, and whether it has been recorded as late. `own`: the entry of the load stands on this core; else the
forwarding entry is this one, under a name of its own. -/
structure Forward where
  key : Nat
  dst : Nat
  own : Bool
  tag : Nat
  since : Nat
  late : Bool := false
  deriving DecidableEq, Repr

/-- A translation: page number, frame, permissions, size (spec/14 R343). -/
structure TlbEntry where
  vpn : Nat
  frame : Nat
  large : Bool
  rd : Bool
  wr : Bool
  deriving DecidableEq, Repr

/-- A routine directory entry as read (spec/06 Table 6-2). -/
structure DirEntry where
  id : Nat
  length : Nat
  carry : BitVec 32
  channel : Nat
  eligible : BitVec 8
  retiring : BitVec 8
  places : List Nat
  known : Bool
  deriving DecidableEq, Repr

/-- A standing or used grant held by a source (spec/06 R144). -/
structure HeldGrant where
  ask : GrantAsk
  deriving DecidableEq, Repr

/-- A fault being written to a frame (spec/12 R312). -/
structure FaultSave where
  frame : Nat
  lanes : List Lane
  gang : Gang
  gangFault : Bool
  addr : Word
  write : Bool
  /-- The frame has been written and the notice posted. -/
  written : Bool := false
  /-- Its return has been queued. -/
  returned : Bool := false
  deriving DecidableEq, Repr

/-- An error bank record with its snapshot (spec/12 Table 12-4, R321). -/
structure ErrorBank where
  words : List Word := [0, 0, 0, 0]
  snap : List Word := [0, 0, 0, 0]
  deriving DecidableEq, Repr

/-- A routine placed in a code store. -/
structure Placed where
  id : Nat
  base : Nat
  len : Nat
  deriving DecidableEq, Repr

/-- Retention of an array (spec/22 R468). -/
inductive Retention where
  | awake | entering | asleep | leaving
  deriving DecidableEq, Repr

/-- Pair state of a logical core in a paired context (spec/22 R470-R473). -/
structure Pair where
  on : Bool := false
  /-- The count S at which the open interval began. -/
  start : Word := 0
  gate : List Instr := []
  /-- Entries of the undo log, and what it restores: the local memory at S. -/
  undo : Nat := 0
  base : Memory := {}
  /-- The open interval has disagreed once and runs again. -/
  rerun : Bool := false
  closing : Bool := false
  /-- Messages with this name or a later one belong to the open interval (the model's own). -/
  mark : Nat := 0
  /-- The cycle in which the leader last issued: the follower issues the same 64 cycles later (R470). -/
  last : Nat := 0
  deriving DecidableEq, Repr

/-- The level-1 owner of a core (spec/12 R293, R295). -/
inductive Owner where
  | none
  | gang (slot : Nat)
  | system
  deriving DecidableEq, Repr

/-- One logical core (spec/01). -/
structure Core where
  gangs : List (Nat × Gang) := []
  /-- The gang slot whose instruction is executing: 0-3, 4 the system slot. -/
  slot : Nat := 0
  lastSlot : Nat := 3
  lastFired : Nat := 63
  owner : Owner := .none
  priv : BitVec 2 := 2
  xpc0 : BitVec 32 := 0
  xpc1 : BitVec 32 := 0
  xpc2 : BitVec 32 := 0
  trapCause : BitVec 16 := 0
  trapInfo : Word := 0
  trapLanes : BitVec 32 := 0
  /-- TIMER as written, and the step at which it was written (spec/01 R36). -/
  timer : BitVec 32 := 0
  timerAt : Nat := 0
  trapBank : List (Nat × Word) := []
  bankPoison : BitVec 16 := 0
  bankPend : BitVec 16 := 0
  logicalId : BitVec 20 := 0
  rank : BitVec 20 := 0
  usc : BitVec 16 := 0
  mprog : BitVec 16 := 0
  /-- CYCLE is this value plus the steps since the last reset. -/
  cycle : Word := 0
  retired : Word := 0
  /-- Causes of no gang that wait for the system slot, and the pending timer (spec/12 R295, R298). -/
  causes : List Cause := []
  timerPending : Bool := false
  /-- Stopped at level 2 (spec/12 R297, R301), with the register a supervisor response writes. -/
  stopped : Bool := false
  answer : Option Nat := none
  idle : Option (Nat × Nat) := none
  mem : Memory := {}
  full : List (Nat × Bool) := []
  code : List (Nat × BitVec 16) := []
  codeBad : List (Nat × Bool) := []
  placed : List Placed := []
  trapLen : Nat := 512
  channels : List (Nat × Channel) := []
  arrivals : List Arrival := []
  granted : List Granted := []
  asks : List GrantAsk := []
  draining : List (Nat × Nat) := []
  streams : List (Nat × Stream) := []
  barriers : List (Nat × Barrier) := []
  tmaps : List (Nat × List Word) := []
  rings : List (Nat × RingDesc) := []
  copyQs : List (Nat × CopyQueue) := []
  matrixQ : MatrixQueue := {}
  staging : Memory := {}
  /-- Messages of the request network, of the reply network, of the ready queue, packed carry messages, records. -/
  sendReq : List Outbound := []
  sendRep : List Outbound := []
  ready : List Outbound := []
  outbox : List Outbound := []
  records : List Outbound := []
  /-- Verifiers of the core whose last record was dropped, by SOURCE of Table 18-5: 0 copy engine, 3 matrix unit, 4 lane
  instruction (spec/18 R426). -/
  recordLost : List (Nat × Bool) := []
  bindings : List Binding := []
  counters : List (Nat × Word) := []
  /-- Grant requests refused in the current frame (spec/16 Table 16-4). -/
  refusals : Nat := 0
  loads : List LoadEntry := []
  forwards : List Forward := []
  dir : List DirEntry := []
  tlb : List TlbEntry := []
  frames : BitVec 16 := 0
  faults : List FaultSave := []
  grants : List HeldGrant := []
  rotate : List (Nat × Nat) := []
  inject : List (Nat × Word) := []
  breaks : List (Nat × BitVec 32) := []
  watches : List (Nat × Nat × Nat × Nat) := []
  bank : ErrorBank := {}
  stall : Nat := 0
  barked : Bool := false
  retention : Retention := .awake
  lastAccess : Nat := 0
  /-- Bit errors that stand in its local memory: the place, and whether it is uncorrectable (spec/22 R462). -/
  upsets : List (Nat × Bool) := []
  pair : Pair := {}
  notices : List Notice := []
  preempting : Bool := false
  /-- It belongs to the context: not after a containment reset (spec/22 R475). -/
  member : Bool := true
  deriving DecidableEq, Repr

/-- What a compute core keeps that belongs to the part and to no context: CYCLE as `Core.cycle`, RETIRED, its error bank (spec/01
Table 1-4, spec/22 Table 22-2). -/
structure PartCore where
  cycle : Word := 0
  retired : Word := 0
  bank : ErrorBank := {}
  deriving DecidableEq, Repr

/-- Format context of one core in its cluster's matrix unit (spec/11 R280). -/
structure FormatCtx where
  fmtA : Nat := 0x0B
  fmtB : Nat := 0x0B
  rsr : Bool := false
  mdraw : BitVec 32 := 0
  deriving DecidableEq, Repr

/-- The turn that the matrix unit's arbitration has given (spec/11 R281). -/
inductive Turn where
  | idle
  | kstep (core : Nat) | drain (core : Nat) | setCtx (core : Nat) | fence (core : Nat) | complete (core : Nat)
  deriving DecidableEq, Repr

/-- A cluster: matrix unit, lane pool, translation buffer (spec/11, spec/16 R374, spec/14 R343). -/
structure Cluster where
  /-- Accumulator element t * 1024 + 32 i + j. -/
  acc : List (Nat × BitVec 32) := []
  accBad : List (Nat × Bool) := []
  predict : List (Nat × Word) := []
  budget : List (Nat × Word) := []
  contexts : List (Nat × FormatCtx) := []
  pointer : Nat := 7
  turn : Turn := .idle
  sharedTaken : Nat := 0
  tlb : List TlbEntry := []
  bank : ErrorBank := {}
  deriving DecidableEq, Repr

/-- An open launch (spec/16 R370). -/
structure OpenLaunch where
  id : Nat
  queue : Nat
  done : Option Nat
  live : Nat
  left : Nat
  routine : Nat
  deriving DecidableEq, Repr

/-- A change of the routine directory by `rrepl` or `rrepl.ret` (spec/06 R170, R171): the routine, the core whose placement
no message chooses meanwhile, and the acknowledgements still awaited. -/
structure DirChange where
  routine : Nat
  core : Nat
  left : Nat
  deriving DecidableEq, Repr

/-- The context that this machine runs: its control block and its derrick (spec/01 R15, spec/16). -/
structure Context where
  part : BitVec 8 := 0
  id : BitVec 16 := 0
  started : Bool := false
  saved : Bool := false
  ended : Bool := false
  ccb : Word := 0
  seed : Word := 0
  paired : Bool := false
  check : Nat := 0
  dirBase : Nat := 0
  mapBase : Nat := 0
  ringBase : Nat := 0
  frameBase : Nat := 0
  launchBase : Nat := 0
  coreSave : Nat := 0
  clusterSave : Nat := 0
  chunkChan : Word := 0
  watchdog : Nat := 0
  debug : BitVec 8 := 0
  /-- Its rectangles, in the order of the logical packages (spec/01 R14). -/
  rects : List Rect := []
  /-- Core number and physical position (package, row, column), in rank order. -/
  cores : List (Nat × Nat × Nat × Nat) := []
  strandNext : Nat := 1
  strandsLive : List (Nat × Nat) := []
  launches : List OpenLaunch := []
  launchNext : Nat := 1
  queueLast : Nat := 15
  controls : List (Nat × BitVec 8) := []
  headLeft : List (Nat × Nat × Nat) := []
  released : List Nat := []
  derrickOut : List Outbound := []
  derrickGrants : List HeldGrant := []
  derrickRotate : List (Nat × Nat) := []
  derrickHalt : Bool := false
  savedCores : List (Nat × Core) := []
  savedClusters : List (Nat × Cluster) := []
  savedValid : Bool := false
  /-- The rectangles that the supervisor has picked for the restore it has been asked for (spec/12 R317). -/
  target : List Rect := []
  /-- Since a restore the derrick waits for the restored messages to ask (spec/16 R379). -/
  derrickHeld : Bool := false
  rrepling : Option DirChange := none
  /-- Change records held by lanes that stand in fault frames whose saving core has been contained: the frame's address, the
  descriptor, the wave (spec/20 R449). -/
  frameHolds : List (Nat × Nat × BitVec 32) := []
  deriving DecidableEq, Repr

/-- A barrier instance at its node (spec/10 R248). -/
structure BarrierNode where
  n : Nat
  scope : Nat
  extent : Nat
  count : Nat
  arrived : Nat
  gen : Nat
  members : List Nat
  deriving DecidableEq, Repr

/-- A watch on a timeline or on a wave (spec/10 R255, spec/20 R453). -/
structure Watch where
  addr : Nat
  key : Word
  core : Nat
  tag : Nat
  wave : Bool
  held : Bool
  /-- The frame stamp of the request that registered it (spec/17 R397). -/
  stamp : BitVec 4 := 0
  deriving DecidableEq, Repr

/-- A record waiting in a slice's change queue (spec/20 R445). -/
structure QueuedChange where
  id : Nat
  desc : Nat
  dst : Nat
  ch : Nat
  record : ChangeRec
  asked : Bool
  granted : Bool
  deriving DecidableEq, Repr

/-- A Wyal port (spec/17 R399-R406, spec/24 R499). -/
structure Port where
  state : Nat := 0
  peer : Nat := 0
  seqOut : BitVec 11 := 0
  seqIn : BitVec 11 := 0
  replay : List (BitVec 512) := []
  resend : Option (BitVec 11) := none
  retries : Nat := 0
  credits : List (Nat × Nat) := []
  owed : List (Nat × Nat) := []
  badMgmt : Bool := false
  nakDue : Bool := false
  /-- The flits of the packet that is being reassembled on each network. -/
  partialPkt : List (Nat × List (BitVec 512)) := []
  since : Nat := 0
  /-- The management interval that it has last served (spec/17 R401). -/
  managed : Nat := 0
  /-- It has trained with its peer since boot. -/
  linked : Bool := false
  /-- The source that its arbiter served last (spec/17 R396). -/
  served : Option Source := none
  deriving DecidableEq, Repr

/-- An event record (spec/22 Table 22-4): stamp, type, source, index, package, partition, context, and the detail words. -/
structure Event where
  stamp : Nat
  type : Nat
  source : Nat
  index : Nat
  pkg : Nat
  part : Nat
  ctx : Nat
  detail : List Word
  deriving DecidableEq, Repr

/-- A die's event recorder (spec/22 R478, Table 22-3). -/
structure Recorder where
  records : List (Nat × Event) := []
  next : Nat := 0
  wraps : Nat := 0
  frozen : Bool := false
  cause : Nat := 0
  missed : Nat := 0
  deriving DecidableEq, Repr

/-- The ports that a packet has yet to cross: not looked up yet, none that leads to its destination, or these (spec/17 R392). -/
inductive Path where
  | unset | refused | ports (is : List Nat)
  deriving DecidableEq, Repr

/-- Which input of a router a copy of a multicast came in by: where the tree begins, or the way it travels; `here` is the branch
to the router's own core. -/
inductive Way where
  | start | east | west | south | north | here
  deriving DecidableEq, Repr

/-- A copy of a multicast at an input of a router of the mesh (spec/17 R389): its router (25,600 times the package plus 160
times the row plus the column), the destinations it is to reach, what it does there, and the ports toward other packages as the
route tables stood when it was admitted (R405). -/
structure Tree where
  id : Nat
  at' : Nat
  way : Way
  dests : List Nat
  event : Instr
  ways : List (Nat × Path) := []
  deriving DecidableEq, Repr

/-- A packet on its way, or an input that has arrived (spec/17 R386): what it does at its destination, its frame stamp (none
while it waits at its source for a quota, R396), and its source where the event does not name it (a reply's home). -/
structure Packet where
  event : Instr
  stamp : Option (BitVec 4)
  home : Option Source
  /-- As the route tables stand when it is admitted (R405). -/
  path : Path := .unset
  /-- The port whose buffer holds it, and how many links it has crossed. -/
  port : Option Nat := none
  hops : Nat := 0
  /-- The link that it is on: the port that sends, the port that receives, the SEQ of its last flit (R399). -/
  link : Option (Nat × Nat × BitVec 11) := none
  /-- It stands in the queue of the port that it goes out by, where the arbiter serves it (R396). -/
  queued : Bool := false
  /-- A copy of a multicast bound for another package, and the router that it left (R389). -/
  tree : Option (Nat × Tree) := none
  deriving DecidableEq, Repr

/-- One thing that may happen: a packet is delivered, the hardware acts on its own, a core issues from a gang, or two events
at one destination coincide. -/
inductive Agent where
  | packet (p : Packet)
  /-- A packet comes to the queue of a Wyal port. -/
  | reach (p : Packet)
  /-- A packet is sent over a Wyal link. -/
  | cross (p : Packet)
  | own (i : Instr)
  | issue (core slot : Nat)
  /-- A gang that waits behind level 1 comes to its boundary at a pre-emption. -/
  | ending (core slot : Nat)
  /-- Two packets in one cycle. -/
  | both (p q : Packet)
  /-- A negative acknowledgement and a flit that acknowledges the same SEQ, in one cycle. -/
  | denied (p q : Packet)
  /-- The hardware's own event, and then a packet, in one cycle. -/
  | ahead (i : Instr) (q : Packet)
  /-- A pair runs the next step of its interval again (spec/22 R473). -/
  | again (core : Nat)
  /-- The next boot stage of a package (spec/24 R501). -/
  | boot (pkg : Nat)
  deriving DecidableEq, Repr

/-- What a leader has done or received, as it passes it to its follower (spec/22 R470): the name counter at that point, what
acted, and the words an engine wrote in its local memory, with their marks. -/
structure Passed where
  tag : Nat
  agent : Agent
  words : List (Nat × Word × Bool)
  deriving DecidableEq, Repr

/-- The second member of a pair and what the pair keeps of its open interval (spec/22 R470-R473). The follower stands as it does
when it has issued what the leader has, 64 cycles later (log 26). -/
structure Twin where
  follower : Core
  /-- The checkpoints of both members at S. -/
  base : Core
  otherBase : Core
  /-- The leader's log since S, and what is still to be run again of it. -/
  log : List Passed := []
  again : List Passed := []
  /-- The fingerprints of both members. -/
  print : Word := BitVec.allOnes 64
  otherPrint : Word := BitVec.allOnes 64
  /-- Bit errors that stand in the follower's arrays but its local memory, named as the leader's. -/
  upsets : List (ArrayRef × Nat × Bool) := []
  deriving DecidableEq, Repr

/-- Frame quotas of one source of a partition (spec/17 R396): what is left in the current frame and the next three. -/
structure Quota where
  src : Source
  part : Nat
  left : List Nat
  deriving DecidableEq, Repr

/-- A doorbell page (spec/24 Table 24-3). -/
structure Doorbell where
  assigned : Bool := false
  ctx : ContextName := ⟨0, 0⟩
  record : List (Nat × Byte) := []
  busy : Bool := false
  copy : List Byte := []
  done : BitVec 32 := 0
  result : Nat := 0
  deriving DecidableEq, Repr

/-- The host port (spec/24 R489-R495). -/
structure HostPort where
  fatal : Bool := false
  fcause : Nat := 0
  stage : Nat := 0
  reqTail : BitVec 6 := 0
  reqHead : BitVec 6 := 0
  rspTail : BitVec 6 := 0
  rspHead : BitVec 6 := 0
  reqRing : List (Nat × Byte) := []
  rspRing : List (Nat × Byte) := []
  doorbells : List (Nat × Doorbell) := []
  windows : List (Nat × WindowReq) := []
  /-- Completions returned to host reads: value and status (0 good, 1 poisoned, 2 unsupported request). -/
  reads : List (Word × Nat) := []
  vectors : BitVec 3 := 0
  /-- The request that is being answered: the ring it stood in, 0 the host's, else the partition's number; its SEQ (R495, R496). -/
  serving : Option (Nat × Nat) := none
  deriving DecidableEq, Repr

/-- A notice whose queue was full, held by its source (spec/12 R322): its partition, and when it was last tried. -/
structure HeldNotice where
  src : Source
  part : Nat
  notice : Notice
  since : Nat
  deriving DecidableEq, Repr

/-- A partition as the supervisor holds it (spec/01 R13, spec/24 R495, R500): its rectangles, its HBM frames as runs of global
frame numbers, its slice ways (16 times the slice plus the way) with their use, its system cores, its containment rectangles,
the trap routine of its image, and its translation descriptor: the hash anchors' physical address and A (spec/14 R342). -/
structure Partition where
  area : List Rect
  frames : List (Nat × Nat)
  ways : List (Nat × Bool)
  sysCores : List Nat
  fabric : Word
  retIdle : Nat
  contain : List Rect
  owner : Nat
  image : Option Nat
  noticeBase : Nat
  trap : List (BitVec 16) := []
  anchors : Nat := 0
  anchorLog : Nat := 10
  deriving DecidableEq, Repr

/-- The supervisor, boot and power (spec/24 R500-R506), the debug sessions (spec/23). -/
structure Supervisor where
  partitions : List (Nat × Partition) := []
  /-- Packages whose boot has come to stage 5: what no partition owns of them is free. System core 0 of each runs the
  supervisor, so 63 of the 64 of Table 0-1 are free: the spec does not say how many it takes (DESIGN CHOICE, log 51). -/
  packages : List Nat := []
  /-- What the supervisor has been told (containment, double faults, calls), oldest first. -/
  told : List (Nat × Nat × Word) := []
  /-- Responses sent (kind of ring, status, payload words), oldest first. -/
  responses : List (Nat × Nat × List Word) := []
  cap : Nat := 3000
  tlimit : Nat := 100
  throttle : List (Nat × Nat) := []
  /-- The throttle periods in which blocks were last looked at (spec/24 R505). -/
  looked : List (Nat × Nat) := []
  /-- The packages that a die's trip has stopped, and those that a fatal error has (spec/24 R506, spec/22 R478). -/
  tripped : List Nat := []
  stopped : List Nat := []
  /-- The boot stage of each package but the host's, or its failure code (spec/24 Table 24-5). -/
  stages : List (Nat × Nat) := []
  /-- What debuggers are still to be told by EVENT: TRAP_CAUSE, Q0, core, slot (spec/23 Table 23-3). -/
  events : List (Nat × Nat × Nat × Nat) := []
  /-- Containment rectangles: number and its clusters; fenced rectangles. -/
  rects : List (Nat × List Nat) := []
  fences : List (Nat × Nat) := []
  /-- The partition that the debug session is bound to; 0 for an operator session (spec/23 R486). -/
  session : Nat := 0
  routes : List (Nat × BitVec 8) := []
  deriving DecidableEq, Repr

/-- The whole machine. -/
structure State where
  /-- Steps taken; also the model's own counter for free values (log 1, log 2). -/
  clock : Nat
  /-- The core that acts in this step (the model's own). -/
  cur : Nat
  /-- The next unused name of a load, a lane or a message (the model's own). -/
  nextTag : Nat
  cores : List (Nat × Core)
  clusters : List (Nat × Cluster)
  /-- The followers of a paired context, by logical core, once something has acted on the pair. -/
  twins : List (Nat × Twin)
  ctx : Context
  /-- Global memory by frame number * 65,536 + offset (spec/14 R339). -/
  mem : Memory
  /-- Inverted page table entries by frame (spec/14 Table 14-4), default 0. -/
  ipt : List (Nat × BitVec 128)
  /-- Core positions that self-test has disabled (spec/01 R16, spec/24 Table 24-5), numbered as routers are. -/
  disabled : List Nat
  /-- What the cores keep at whose positions none of the context stands, by position, numbered so too. -/
  parts : List (Nat × PartCore)
  /-- The step at which the package was last reset: CYCLE counts from there. -/
  epoch : Nat
  /-- Bit errors that stand in the other arrays: the place, and whether it is uncorrectable (spec/22 R462). -/
  upsets : List (ArrayRef × Nat × Bool)
  /-- Packets in flight and inputs that have arrived, oldest first. -/
  agenda : List Packet
  /-- The stamp of the packet that this step performs, and where: its replies and its chain take them (spec/17 R397). -/
  carried : Option (BitVec 4 × Source)
  /-- Flits that a partition has sent through a port in this frame, by 65,536 times the partition plus the port (spec/17 Table 17-4). -/
  linkUsed : List (Nat × Nat)
  /-- Packages that have passed on the mark of the current frame (spec/17 R402). -/
  marked : List Nat
  nodes : List BarrierNode
  watches : List Watch
  changes : List (Nat × List QueuedChange)
  sliceGrants : List HeldGrant
  /-- Messages of slices: chain links to channels and chunk fault records (spec/10 R240, spec/18 R426). -/
  sliceOut : List Outbound
  frame : BitVec 4
  quotas : List Quota
  trees : List Tree
  residuals : List (Nat × Tree)
  ports : List (Nat × Port)
  recorders : List (Nat × Recorder)
  sliceBanks : List (Nat × ErrorBank)
  stackBanks : List (Nat × ErrorBank)
  /-- Retention of the slices that have been accessed, and the cycle of the last access. -/
  sliceRet : List (Nat × Retention × Nat)
  /-- Slices whose last chunk fault record was dropped (spec/18 R426). -/
  sliceLost : List (Nat × Bool)
  /-- Notices whose queue was full, held by their sources, oldest first. -/
  heldNotices : List HeldNotice
  host : HostPort
  sup : Supervisor
  deriving DecidableEq, Repr

/-- The machine right after reset: every register at the value of its Reset column or of Table 1-3, memory with
nothing listed (spec/00 R10, spec/01 R29; log 3 for what the spec leaves open). -/
def State.reset : State where
  clock := 0
  cur := 0
  nextTag := 1
  cores := []
  clusters := []
  twins := []
  ctx := {}
  mem := {}
  ipt := []
  disabled := []
  parts := []
  epoch := 0
  upsets := []
  agenda := []
  carried := none
  linkUsed := []
  marked := []
  nodes := []
  watches := []
  changes := []
  sliceGrants := []
  sliceOut := []
  frame := 0
  quotas := []
  trees := []
  residuals := []
  ports := []
  recorders := []
  sliceBanks := []
  stackBanks := []
  sliceRet := []
  sliceLost := []
  heldNotices := []
  host := {}
  sup := {}

/-- Reasons to stop with a fault. The spec gives every state a value and every refused combination an outcome
(spec/00 R12), so no meaning raises one; the constructor is for a state that no rule reaches. -/
inductive Fault where
  /-- Raised by nothing; safe. -/
  | unreachable
  deriving DecidableEq, Repr

/-- Reasons to refuse an instruction. -/
inductive Refusal where
  /-- The instruction has no meaning yet: raised by its arm of `exec`; safe. -/
  | notModelled (mnemonic : String)
  deriving DecidableEq, Repr

end Sys2Proof.Machine
end

