-- ==== Sys2Proof/Machine/Frames.lean ====
section
/-! DEFINITION. Whose what is: the partition of a core (spec/01 R13), the home slice, the way and the owner of a frame of global memory
(spec/14 R333-R340). -/
namespace Sys2Proof.Machine

/-- System core n of package p goes by the number 2^20 + 64 p + n (the model's own); it is one of the 16 of die n div 16. -/
def sysBase : Nat := 2 ^ 20
/-- The partition of a core: of a system core the one that owns it (spec/01 R13, R42). -/
def State.partOf (s : State) (c : Nat) : Nat :=
  if sysBase ≤ c then ((s.sup.partitions.find? fun e => e.2.sysCores.contains (c - sysBase)).map (·.1)).getD 0 else s.ctx.part.toNat

/-- Where the window of the table assists begins among the model's physical addresses: the entry of frame f stands at this
and 16 f (the model's own; log 53). -/
def tableBase : Nat := 2 ^ 48
/-- The home slice of a physical address, 256 to a package (spec/14 R334, R335): a slice frame's own; for an HBM block
one of the 32 that its stack serves, by the block's number (log 10); for a table entry the first of its stack's. -/
def sliceOf (pa : Nat) : Nat :=
  if tableBase ≤ pa then let f := (pa - tableBase) / 16; f / 2 ^ 24 * 256 + f / 2 ^ 21 % 8 * 32
  else
    let frame := pa / 65536
    let stack := frame / 2 ^ 21 % 8
    frame / 2 ^ 24 * 256 + stack * 32 + (if frame / 2 ^ 20 % 2 = 1 then frame / 32 % 32 else pa / 64 % 32)
/-- Whether a physical address lies in a slice frame (Table 14-3). -/
def sliceFrame (pa : Nat) : Bool := pa / 65536 / 2 ^ 20 % 2 = 1
/-- The way of its slice that holds a slice frame (R335): 16 times the slice, plus the way. -/
def wayOf (frame : Nat) : Nat := 16 * sliceOf (frame * 65536) + frame % 32 / 2
/-- The slice frames of a way (Table 14-2): two of 64 KiB. -/
def wayFrames (w : Nat) : List Nat :=
  let n := w / 16
  let first := n / 256 * 2 ^ 24 + n % 256 / 32 * 2 ^ 21 + 2 ^ 20 + 32 * (n % 32) + 2 * (w % 16)
  [first, first + 1]
/-- A global frame number that names a frame: a slice INDEX runs from 0 to 1,023 (Table 14-3), and a stack's table has an entry for no
other (R340). -/
def frameNamed (frame : Nat) : Bool := !sliceFrame (frame * 65536) || frame % 2 ^ 20 < 1024
/-- The frames in which a stack keeps its page table, 16 MiB and 16 KiB: its last 257, the supervisor's (R340; DESIGN CHOICE, log
53). -/
def tableFrames : Nat := 257
/-- A frame that a partition owns: of its runs of HBM, or of its near-memory ways (R333, R337). -/
def Partition.owns (p : Partition) (frame : Nat) : Bool :=
  if sliceFrame (frame * 65536) then frameNamed frame && p.ways.any fun w => w.2 && w.1 = wayOf frame
  else p.frames.any fun r => r.1 ≤ frame && frame < r.1 + r.2
/-- The PART of a frame: 0 is the supervisor's (R337). -/
def State.ownerOf (s : State) (frame : Nat) : Nat := ((s.sup.partitions.find? fun e => e.2.owns frame).map (·.1)).getD 0

end Sys2Proof.Machine
end

