-- ==== Sys2Proof/Machine/Packet.lean ====
section
/-! DEFINITION. Packets of the fabric (spec/17): their network, their flits, what a source pays for them, the frame they are
admitted to, and the agenda of packets on their way. -/
namespace Sys2Proof.Machine

/-- The virtual networks (Table 17-1). -/
inductive Net where
  | request | reply | carry | system
  deriving DecidableEq, Repr

/-- Their numbers in a flit (Table 17-6). -/
def Net.code : Net → Nat
  | .request => 0 | .reply => 1 | .carry => 2 | .system => 3

/-- The message of a counter event (spec/06 Table 6-8): KIND 2 in its header word. -/
def counterBody : Body → Bool
  | .data (h :: _) => h.val.toNat / 2 ^ 36 % 16 = 2
  | _ => false
/-- The network of a packet; none for what is no packet. -/
def netOf : Instr → Option Net
  | .remoteAccess _ | .sliceOperation _ | .timelineWrite _ | .chainedPacket _ | .ringWindowPush _ _ _ _ | .matrixWindowPush _ _ _ ⟨_, none⟩
  | .changeMessageArrival _ | .checkedChunkVerify _ _ => some .request
  | .dataMessageArrival m => some (if counterBody m.body then .system else if m.rp then .reply else .request)
  | .loadReply _ _ _ | .storeAcknowledgement _ _ | .forwardedReply _ _ _ _ | .timelineRelease _ _ | .quiescenceWatch _ _ _ => some .reply
  | .carryArrival _ => some .carry
  | .grantRequest _ | .grant _ | .revocation _ | .refusal _ | .barrierArrival _ _ _ _ | .barrierCompletion _ _ | .invalidationAck _ _
  | .directoryInvalidationAck _ _ | .frameRelease _ _ | .noticePost _ | .multicastFork _ => some .system
  | _ => none

/-! ### Sizes (Table 17-2) -/

/-- Flits of a packet with this many bytes of data: 1 up to 16 bytes, 3 up to 64; a longer one, which the table does not list,
takes a flit for each further 32 bytes (DESIGN CHOICE, log 52). -/
def flitsFor (n : Nat) : Nat := if n ≤ 16 then 1 else if n ≤ 64 then 3 else 1 + (n + 31) / 32
/-- The bytes that a request brings. -/
def opBytes : MemOp → Nat
  | .store ws => (ws.map (·.size)).sum
  | .cas _ _ _ _ | .table _ _ _ => 16
  | .reduce _ _ img _ _ => img.length
  | .arrange _ _ _ | .put _ _ _ _ _ => 32
  | .append _ img => img.length + 8
  | .load _ | .writeBack _ | .tableRead _ => 0
  | _ => 8
/-- The bytes that the reply to a request brings. -/
def replyBytes : MemOp → Nat
  | .load ps => (ps.map (·.2)).sum
  | .tableRead _ => 16
  | _ => 8
/-- Flits of a data message with n words after its header. -/
def dataFlits (n : Nat) : Nat := (16 + 8 * n + 31) / 32
/-- Flits of a carry message with n carried registers. -/
def carryFlits (n : Nat) : Nat := (40 + 8 * n + 31) / 32
/-- Flits of the later packets of a chain (spec/10 R240). -/
def chainFlits : Chain → Nat
  | .none => 0
  | .message _ => dataFlits 1
  | .packet _ _ _ | .future _ _ => 1
/-- The flits of a packet. -/
def flitsOf : Instr → Nat
  | .remoteAccess r | .sliceOperation r | .timelineWrite r | .chainedPacket r => flitsFor (opBytes r.op)
  | .dataMessageArrival m => (match m.body with
    | .data ws => dataFlits (ws.length - 1)
    | _ => 1)
  | .changeMessageArrival _ => dataFlits 5
  | .checkedChunkVerify _ _ => flitsFor 272
  | .carryArrival m => carryFlits m.carried
  | .loadReply _ _ vals => flitsFor (min 64 (8 * vals.length))
  | _ => 1
/-- The flits of a packet on its way: those of a reply by the bytes that its request asked for. -/
def State.packetFlits (s : State) (e : Instr) : Nat :=
  match e with
  | .loadReply c tag _ => (match (mget {} s.cores c).loads.find? (·.tag = tag) with
    | some x => flitsFor (replyBytes x.req.op)
    | none => flitsOf e)
  | e => flitsOf e
/-- The Wyal flits of a packet, 56 bytes in each (R399). -/
def State.wyalFlits (s : State) (e : Instr) : Nat := (32 * s.packetFlits e + 55) / 56
/-- The number of its network. -/
def vnOf (e : Instr) : Nat := ((netOf e).map Net.code).getD 0
/-- The cost of a packet (R396): its flits, those of its reply, those of its chain (R397). -/
def costOf (e : Instr) : Nat :=
  flitsOf e + (match e with
    | .remoteAccess r | .sliceOperation r | .timelineWrite r =>
      (if r.quiet then 0 else flitsFor (replyBytes r.op)) + (match r.op with
        | .packet _ _ _ _ c => chainFlits c
        | _ => 0)
    | .ringWindowPush _ _ _ _ | .matrixWindowPush _ _ _ _ | .checkedChunkVerify _ _ => 1
    | _ => 0)

/-! ### Admission (R394-R397) -/

/-- A slice or a port is no source of R395. -/
def paysFor : Source → Option Source
  | .slice _ | .port _ => none
  | src => some src
/-- The source whose quota a packet counts against: requests and carry messages alone (R395, R397); not an access of a core to
itself, which is local (spec/01 R41). -/
def payerOf : Instr → Option Source
  | .remoteAccess r | .sliceOperation r | .timelineWrite r => if r.home.any fun c => r.src = .core c then none else paysFor r.src
  | .ringWindowPush d _ _ (some (c, _)) | .matrixWindowPush d _ _ ⟨some (c, _), none⟩ => if c = d then none else some (.core c)
  | .carryArrival m => paysFor m.src
  | .dataMessageArrival m => if m.rp || counterBody m.body then none else paysFor m.src
  | .checkedChunkVerify c _ => some (.core c)
  | _ => none
/-- Packets that keep the stamp of the one that brought them about: replies, acknowledgements, chained packets, and a command
that stands by where it was taken. -/
def inherits : Instr → Bool
  | .loadReply _ _ _ | .storeAcknowledgement _ _ | .forwardedReply _ _ _ _ | .timelineRelease _ _ | .quiescenceWatch _ _ _
  | .chainedPacket _ | .matrixWindowPush _ _ _ ⟨_, some _⟩ => true
  | _ => false

/-- The fabric descriptor that routers, queues and ports hold for a partition: the one whose PART names it (Table 17-4). -/
def State.fabricOf (s : State) (part : Nat) : Nat :=
  ((s.sup.partitions.find? fun e => e.2.fabric.toNat / 2 ^ 32 % 256 = part).map (·.2.fabric.toNat)).getD 0
/-- FLITS of a partition; 0 is unlimited. -/
def State.flits (s : State) (part : Nat) : Nat := s.fabricOf part % 65536
/-- LINKQ of a partition; 0 is unlimited. -/
def State.linkq (s : State) (part : Nat) : Nat := s.fabricOf part / 65536 % 65536
/-- The partition of a source: of the host port's requests that of the frame they touch (DESIGN CHOICE, log 66). -/
def State.sourcePart (s : State) (src : Source) (e : Instr) : Nat :=
  match src, e with
  | .core c, _ => s.partOf c
  | .host, .sliceOperation r => (match r.op with
    | .load ((a, _) :: _) => s.ownerOf (a / 65536)
    | .store (w :: _) => s.ownerOf (w.addr / 65536)
    | _ => s.ctx.part.toNat)
  | _, _ => s.ctx.part.toNat
/-- The cost of a spill's ring write, charged as a store of its 256 bytes with its acknowledgement (R397). -/
def spillCost : Nat := flitsFor 256 + 1
/-- The four counts of a source of a partition: those not yet charged are full. -/
def State.quota (s : State) (src : Source) (part : Nat) : Quota :=
  (s.quotas.find? fun q => q.src = src && q.part = part).getD ⟨src, part, List.replicate 4 (s.flits part)⟩
/-- A cost taken from the earliest count that covers it: which of the four, and the counts left. -/
def chargeFirst (cost : Nat) : List Nat → Option (Nat × List Nat)
  | [] => none
  | n :: ns => if cost ≤ n then some (0, (n - cost) :: ns) else (chargeFirst cost ns).map fun x => (x.1 + 1, n :: x.2)
/-- A cost charged to a source: the stamp of the frame, and the quotas left; none when no frame covers it. -/
def State.charge (s : State) (src : Source) (part cost : Nat) : Option (BitVec 4 × List Quota) :=
  if s.flits part = 0 then some (s.frame, s.quotas)
  else (chargeFirst cost (s.quota src part).left).map fun x =>
    (s.frame + BitVec.ofNat 4 x.1, s.quotas.filter (fun q => !(q.src = src && q.part = part)) ++ [⟨src, part, x.2⟩])
/-- A source holds packets that no frame has covered yet. -/
def State.stalls (s : State) (src : Source) : Bool := s.agenda.any fun p => p.stamp.isNone && payerOf p.event = some src
/-- The packets that a source holds so. -/
def State.heldBy (s : State) (src : Source) : Nat := (s.agenda.filter fun p => p.stamp.isNone && payerOf p.event = some src).length
/-- A cost that a source of a partition could be charged now. -/
def State.covers (s : State) (src : Source) (part cost : Nat) : Bool :=
  s.flits part = 0 || (!s.stalls src && (s.charge src part cost).isSome)
/-- The quotas after a charge that is covered. -/
def State.afterCharge (s : State) (src : Source) (part cost : Nat) : List Quota := ((s.charge src part cost).map (·.2)).getD s.quotas
/-- A packet of a source that would be admitted now. -/
def State.admits (s : State) (e : Instr) : Bool := (payerOf e).all fun src => s.covers src (s.sourcePart src e) (costOf e)
/-- The stamp that a packet takes as it is ready to leave, none when it must wait, and the quotas after it. -/
def State.admission (s : State) (e : Instr) : Option (BitVec 4) × List Quota :=
  match payerOf e with
  | none => (some (if inherits e then (s.carried.map (·.1)).getD s.frame else s.frame), s.quotas)
  | some src =>
    let part := s.sourcePart src e
    if s.flits part ≠ 0 && s.stalls src then (none, s.quotas)
    else match s.charge src part (costOf e) with
      | some x => (some x.1, x.2)
      | none => (none, s.quotas)

/-! ### The agenda -/

/-- What the packets on their way do, oldest first. -/
def State.events (s : State) : List Instr := s.agenda.map (·.event)
/-- A packet or event put on its way (R387, R396). -/
def State.push (s : State) (e : Instr) : State :=
  { s with agenda := s.agenda ++ [{ event := e, stamp := (s.admission e).1, home := s.carried.map (·.2) }], quotas := (s.admission e).2 }
/-- A packet of a source that its event does not name. -/
def State.pushFrom (s : State) (src : Source) (e : Instr) : State := { ({ s with carried := some (s.frame, src) } : State).push e with carried := s.carried }
/-- A packet on its way withdrawn: the oldest that does this. -/
def State.unpush (s : State) (e : Instr) : State := { s with agenda := s.agenda.eraseP fun p => p.event = e }
/-- Packets that stay on their way. -/
def State.keepEvents (s : State) (f : Instr → Bool) : State := { s with agenda := s.agenda.filter fun p => f p.event }
/-- An event pushed under a stamp that it keeps (R397). -/
def State.pushAs (s : State) (stamp : Option (BitVec 4)) (e : Instr) : State :=
  match stamp with
  | none => s.push e
  | some f => { s.push e with agenda := s.agenda ++ [{ event := e, stamp := some f, home := s.carried.map (·.2) }] }

end Sys2Proof.Machine
end

