-- ==== Sys2Proof/Machine/Ops.lean ====
section
/-! DEFINITION. The named operations that every meaning goes through: the acting core and gang, gang registers, the
program-counter queue, retirement, taking a trap and returning from one, and what the machine tells the outside. -/
namespace Sys2Proof.Machine

/-! ### Bits -/

/-- Bit `i` of a word set to a truth value. -/
def bput {n : Nat} (b : BitVec n) (i : Nat) (v : Bool) : BitVec n :=
  if v then b ||| (1#n <<< i) else b &&& ~~~(1#n <<< i)

/-- 1 for true. -/
def bnat (b : Bool) : Nat := if b then 1 else 0

/-- The field [hi:lo] of a word, as a number (spec/00 R3). -/
def fieldOf (w : Word) (hi lo : Nat) : Nat := w.toNat / 2 ^ lo % 2 ^ (hi + 1 - lo)

/-- Sign extension of the low `n` bits of a number to 64 bits. -/
def sext64 (n v : Nat) : Word := (BitVec.ofNat n v).signExtend 64

/-! ### Cores and gangs -/

def State.core (s : State) (c : Nat) : Core := mget {} s.cores c
def State.setCore (s : State) (c : Nat) (k : Core) : State := { s with cores := mput s.cores c k }
def State.modCore (s : State) (c : Nat) (f : Core → Core) : State := s.setCore c (f (s.core c))
/-- The core that acts in this step. -/
def State.me (s : State) : Core := s.core s.cur
def State.setMe (s : State) (k : Core) : State := s.setCore s.cur k
def State.modMe (s : State) (f : Core → Core) : State := s.modCore s.cur f

def Core.at (k : Core) (i : Nat) : Gang := mget {} k.gangs i
def Core.setAt (k : Core) (i : Nat) (g : Gang) : Core := { k with gangs := mput k.gangs i g }
/-- The gang whose instruction executes. -/
def Core.gang (k : Core) : Gang := k.at k.slot
def Core.setGang (k : Core) (g : Gang) : Core := k.setAt k.slot g
def Core.modGang (k : Core) (f : Gang → Gang) : Core := k.setGang (f k.gang)
def State.gang (s : State) : Gang := s.me.gang
def State.setGang (s : State) (g : Gang) : State := s.setMe (s.me.setGang g)
def State.modGang (s : State) (f : Gang → Gang) : State := s.setGang (f s.gang)

/-- Every lane of the gang, as a lane mask (R90). -/
def Gang.mask (g : Gang) : BitVec 32 := BitVec.ofNat 32 (2 ^ g.lanes.length - 1)
def State.allLanes (s : State) : BitVec 32 := s.gang.mask

/-! ### Gang registers (spec/01 Table 1-3, spec/04 R97, spec/12 R294) -/

/-- `g0` reads zero; at level 1 the names denote the core's trap bank. -/
def Core.readG (k : Core) (n : Nat) : Word :=
  if n = 0 then 0 else if k.priv = 1 then mget 0 k.trapBank n else mget 0 k.gang.g n
/-- The poison mark of a gang register (spec/22 R465). -/
def Core.poisonG (k : Core) (n : Nat) : Bool :=
  if n = 0 then false else if k.priv = 1 then k.bankPoison.getLsbD n else k.gang.gPoison.getLsbD n
/-- A gang register that awaits a reply (spec/04 R98). -/
def Core.pendG (k : Core) (n : Nat) : Bool :=
  if n = 0 then false else if k.priv = 1 then k.bankPend.getLsbD n else k.gang.gPend.getLsbD n
/-- A write to `g0` is discarded. -/
def Core.writeG (k : Core) (n : Nat) (v : Word) (p : Bool) : Core :=
  if n = 0 then k
  else if k.priv = 1 then { k with trapBank := mset 0 k.trapBank n v, bankPoison := bput k.bankPoison n p }
  else k.modGang fun g => { g with g := mset 0 g.g n v, gPoison := bput g.gPoison n p }
/-- A gang register made pending, or no longer pending. -/
def Core.setPendG (k : Core) (n : Nat) (v : Bool) : Core :=
  if n = 0 then k
  else if k.priv = 1 then { k with bankPend := bput k.bankPend n v }
  else k.modGang fun g => { g with gPend := bput g.gPend n v }

def State.readG (s : State) (n : BitVec 4) : Word := s.me.readG n.toNat
def State.writeG (s : State) (n : BitVec 4) (v : Word) (p : Bool := false) : State := s.modMe (·.writeG n.toNat v p)
def State.pendG (s : State) (n : BitVec 4) : State := s.modMe (·.setPendG n.toNat true)
/-- A gang register with its poison mark, as a datum. -/
def State.datumG (s : State) (n : BitVec 4) : Datum := ⟨s.readG n, s.me.poisonG n.toNat⟩

/-! ### Code store and the program-counter queue (spec/03 R78-R80, spec/04 R114) -/

/-- Identifier of the partition's trap routine (spec/01 R21). -/
def trapRoutine : Nat := 0xFFFF
def routineOf (a : BitVec 32) : Nat := a.toNat / 65536
def offsetOf (a : BitVec 32) : Nat := a.toNat % 65536
def codeAddr (r o : Nat) : BitVec 32 := BitVec.ofNat 32 (r * 65536 + o)

/-- Where a routine stands in a core's code store, and its length (R24, R293). -/
def Core.placedAt (k : Core) (r : Nat) : Option (Nat × Nat) :=
  if r = trapRoutine then some (0x1E00, k.trapLen) else (k.placed.find? (·.id = r)).map fun p => (p.base, p.len)
/-- The halfword at a code address; 0 where the routine is not placed. -/
def Core.half (k : Core) (a : BitVec 32) : BitVec 16 :=
  match k.placedAt (routineOf a) with
  | some (b, _) => mget 0 k.code (b + offsetOf a)
  | none => 0
/-- Whether the code word of a halfword carries poison. -/
def Core.halfBad (k : Core) (a : BitVec 32) : Bool :=
  match k.placedAt (routineOf a) with
  | some (b, _) => mget false k.codeBad ((b + offsetOf a) / 4)
  | none => false
/-- The length in halfwords of the instruction at a code address (R78). -/
def Core.lenAt (k : Core) (a : BitVec 32) : Nat := if (k.half a).getLsbD 15 then 2 else 1
/-- The sequential successor (R79). -/
def Core.succ (k : Core) (a : BitVec 32) : BitVec 32 := a + BitVec.ofNat 32 (k.lenAt a)
/-- The instruction at a code address, as R90 shows it: the word fetched, the code address above it. Of a 32-bit instruction cut
off by the end of its routine (subcode 0x07) the low half is the halfword of the code store that follows (DESIGN CHOICE, log 44). -/
def Core.shown (k : Core) (a : BitVec 32) : Word :=
  let h := (k.half a).toNat
  w64 (a.toNat * 2 ^ 32 + (if k.lenAt a = 2 then h * 65536 + (k.half (a + 1)).toNat else h))
/-- The length of the routine that a code address names; 0 where it is not placed. -/
def Core.lengthOf (k : Core) (a : BitVec 32) : Nat := ((k.placedAt (routineOf a)).map (·.2)).getD 0

/-- The queue advances: `next` is the target of a taken local transfer, else the successor of Q2 (R114). -/
def Gang.advance (g : Gang) (next : BitVec 32) : Gang :=
  { g with q0 := g.q1, q1 := g.q2, q2 := next, ann0 := g.ann1, ann1 := g.ann2, ann2 := false }
/-- A queue that starts at an address (R114). -/
def Gang.startAt (g : Gang) (k : Core) (a : BitVec 32) : Gang :=
  { g with q0 := a, q1 := k.succ a, q2 := k.succ (k.succ a), ann0 := false, ann1 := false, ann2 := false }

/-! ### Positions (spec/01 R18-R20) -/

/-- Package, row and column of a logical core, from the core map. -/
def State.place (s : State) (c : Nat) : Option (Nat × Nat × Nat) :=
  (s.ctx.cores.find? (·.1 = c)).map (·.2)
def dieAt (p : Nat × Nat × Nat) : Nat := 4 * p.1 + 2 * (p.2.1 / 80) + p.2.2 / 80
def clusterAt (p : Nat × Nat × Nat) : Nat := 3200 * p.1 + 40 * (p.2.1 / 2) + p.2.2 / 4
/-- Position in the cluster, 0 to 7. -/
def seatAt (p : Nat × Nat × Nat) : Nat := 4 * (p.2.1 % 2) + p.2.2 % 4
def coreIndexAt (p : Nat × Nat × Nat) : Nat := 160 * p.2.1 + p.2.2
/-- The number of a position: 25,600 times the package plus 160 times the row plus the column. -/
def positionAt (p : Nat × Nat × Nat) : Nat := 25600 * p.1 + coreIndexAt p
/-- The positions of a cluster, by number. -/
def clusterPositions (u : Nat) : List Nat :=
  (List.range 2).flatMap fun i => (List.range 4).map fun j => positionAt (u / 3200, 2 * (u % 3200 / 40) + i, 4 * (u % 40) + j)
/-- The die of a core. -/
def State.dieOf (s : State) (c : Nat) : Nat :=
  if sysBase ≤ c then (c - sysBase) / 16 else ((s.place c).map dieAt).getD 0
/-- The cluster of a core; a system core stands in none, and has the number of a block of its own. -/
def State.clusterOf (s : State) (c : Nat) : Nat := if sysBase ≤ c then c else ((s.place c).map clusterAt).getD 0
/-- The core's CYCLE register counts from the last reset (spec/01 Table 1-4). -/
def State.sinceReset (s : State) : Word := w64 (s.clock - s.epoch)
def State.seatOf (s : State) (c : Nat) : Nat := ((s.place c).map seatAt).getD 0
def State.rankOf (s : State) (c : Nat) : Nat := s.ctx.cores.findIdx (·.1 = c)
def State.cluster (s : State) (n : Nat) : Cluster := mget {} s.clusters n
def State.modCluster (s : State) (n : Nat) (f : Cluster → Cluster) : State :=
  { s with clusters := mput s.clusters n (f (s.cluster n)) }

/-! ### Rectangles (spec/01 R13-R20) -/

/-- A rectangle of whole clusters inside the 160 × 160 positions of one of 16 packages (R20). -/
def rectOk (r : Rect) : Bool :=
  r.pkg < 16 && 0 < r.rows && 0 < r.cols && r.row % 2 = 0 && r.rows % 2 = 0 && r.col % 4 = 0 && r.cols % 4 = 0 &&
    r.row + r.rows ≤ 160 && r.col + r.cols ≤ 160
/-- One rectangle on each of 1 to 16 packages (R13, R14). -/
def areaOk (rs : List Rect) : Bool :=
  1 ≤ rs.length && rs.length ≤ 16 && rs.all rectOk && (rs.map (·.pkg)).eraseDups.length = rs.length
/-- Its positions in row-major order (R16). -/
def rectPositions (r : Rect) : List (Nat × Nat × Nat) :=
  (List.range r.rows).flatMap fun i => (List.range r.cols).map fun j => (r.pkg, r.row + i, r.col + j)
/-- Its clusters, numbered as `clusterAt` numbers them. -/
def rectClusters (r : Rect) : List Nat :=
  (List.range (r.rows / 2)).flatMap fun i => (List.range (r.cols / 4)).map fun j => 3200 * r.pkg + 40 * (r.row / 2 + i) + r.col / 4 + j
/-- It lies inside another. -/
def rectWithin (r q : Rect) : Bool :=
  r.pkg = q.pkg && q.row ≤ r.row && r.row + r.rows ≤ q.row + q.rows && q.col ≤ r.col && r.col + r.cols ≤ q.col + q.cols
/-- Each of some rectangles lies inside one of others. -/
def insideArea (rs qs : List Rect) : Bool := rs.all fun r => qs.any (rectWithin r)
def areaClusters (rs : List Rect) : List Nat := rs.flatMap rectClusters
/-- A position that self-test has not disabled. -/
def State.enabled (s : State) (p : Nat × Nat × Nat) : Bool := !s.disabled.contains (positionAt p)
/-- The follower's position: the odd column after the leader's (R17). -/
def followerAt (p : Nat × Nat × Nat) : Nat × Nat × Nat := (p.1, p.2.1, p.2.2 + 1)
/-- The positions of a rectangle that receive a number: enabled ones, or the leaders of pairs with both members enabled. -/
def State.numberedIn (s : State) (paired : Bool) (r : Rect) : List (Nat × Nat × Nat) :=
  (rectPositions r).filter fun p => s.enabled p && (!paired || (p.2.2 % 2 = 0 && s.enabled (followerAt p)))
/-- The logical cores of some rectangles, in rank order, with their positions (R16-R18). -/
def State.numbered (s : State) (paired : Bool) (rs : List Rect) : List (Nat × Nat × Nat × Nat) :=
  rs.zipIdx.flatMap fun e => (s.numberedIn paired e.1).zipIdx.map fun p => (65536 * e.2 + p.2, p.1)

/-- Whether a core belongs to the context (check 2 of spec/01 R39). -/
def State.hasCore (s : State) (c : Nat) : Bool := s.ctx.cores.any (·.1 = c)

/-- The acting core reaches the running context: it is one of its cores, a system core of its partition, or the supervisor (R42). -/
def State.reachesCtx (s : State) : Bool := s.me.priv = 2 || s.partOf s.cur = s.ctx.part.toNat
/-- Check 2 of spec/01 R39 for an access of the acting core. -/
def State.sees (s : State) (c : Nat) : Bool := s.hasCore c && s.reachesCtx
/-- What a core keeps of its part. -/
def Core.physical (k : Core) : PartCore := ⟨k.cycle, k.retired, k.bank⟩
/-- A core at a position: CYCLE, RETIRED and the error bank are the position's. -/
def Core.standsAt (k : Core) (p : PartCore) : Core := { k with cycle := p.cycle, retired := p.retired, bank := p.bank }
/-- The part of a position at which no core of the context stands. -/
def State.partAt (s : State) (p : Nat × Nat × Nat) : PartCore := mget {} s.parts (positionAt p)
/-- The context's cores leave their positions: what they keep stays there. -/
def State.vacate (s : State) : State :=
  { s with parts := s.ctx.cores.foldl (fun m (e : Nat × Nat × Nat × Nat) => match mfind s.cores e.1 with
      | some k => mput m (positionAt e.2) k.physical
      | none => m) s.parts }

/-- The context's clusters, in ascending rank of their first logical core. -/
def State.clustersOf (s : State) : List Nat := (s.ctx.cores.map fun e => clusterAt e.2).eraseDups

/-! ### Telling the outside -/

/-- A fresh name for a load, a lane or a message. -/
def State.fresh (s : State) : State := { s with nextTag := s.nextTag + 1 }
/-- The supervisor is told: what, which core, an information word (spec/12 R297, R301). -/
def State.tell (s : State) (what core : Nat) (info : Word) : State :=
  { s with sup := { s.sup with told := s.sup.told ++ [(what, core, info)] } }

/-- A die's recorder writes an event, or counts it missed while frozen (spec/22 R478). -/
def Recorder.write (r : Recorder) (e : Event) : Recorder :=
  if r.frozen then { r with missed := min 65535 (r.missed + 1) }
  else { r with records := mput r.records r.next e, next := (r.next + 1) % 8192,
                wraps := if r.next = 8191 then min 65535 (r.wraps + 1) else r.wraps }
/-- The order of the events of one cycle: TYPE, SOURCE, INDEX. -/
def Event.before (x y : Event) : Bool :=
  x.type < y.type || (x.type = y.type && (x.source < y.source || (x.source = y.source && x.index < y.index)))
def insertEvent (e : Event) : List Event → List Event
  | [] => [e]
  | x :: xs => if e.before x then e :: x :: xs else x :: insertEvent e xs
/-- The records of one cycle in their order (R478). -/
def Recorder.settle (r : Recorder) (stamp : Nat) : Recorder :=
  let place (i : Nat) : Nat := (r.next + 8191 - i) % 8192
  let here := (List.range (min r.records.length 8192)).takeWhile fun i => (mfind r.records (place i)).any (·.stamp = stamp)
  if here.length ≤ 1 then r
  else
    let es := (here.filterMap fun i => mfind r.records (place i)).foldr (fun e es => insertEvent e es) []
    { r with records := (es.zipIdx).foldl (fun m e => mput m (place (here.length - 1 - e.2)) e.1) r.records }
/-- An event record of the running context (spec/22 Tables 22-4 and 22-5). -/
def State.record (s : State) (die type source index : Nat) (detail : List Word) : State :=
  let e : Event := { stamp := s.clock, type, source, index, pkg := die / 4, part := s.ctx.part.toNat,
                     ctx := s.ctx.id.toNat, detail }
  { s with recorders := mput s.recorders die ((mget {} s.recorders die).write e) }
/-- An event record of a core, or of a system core. -/
def State.recordCore (s : State) (c type : Nat) (detail : List Word) : State :=
  if sysBase ≤ c then s.record (s.dieOf c) type 2 ((c - sysBase) % 64) detail
  else s.record (s.dieOf c) type 1 (((s.place c).map coreIndexAt).getD 0) detail
/-- A recorder freezes (spec/22 Table 22-3): the first cause stands. -/
def Recorder.freeze (r : Recorder) (cause : Nat) : Recorder :=
  if r.frozen then r else { r with frozen := true, cause := cause }
def State.freeze (s : State) (die cause : Nat) : State :=
  { s with recorders := mput s.recorders die ((mget {} s.recorders die).freeze cause) }

/-- The number of the rectangle in which the clusters of a context on a package lie that the supervisor has placed in none (spec/22
R475): the first of 2^15 plus the package plus a multiple of 16 that names no other (DESIGN CHOICE, log 55). -/
def Supervisor.ownRect (x : Supervisor) (pkg : Nat) : Nat :=
  (((List.range 64).map fun i => 2 ^ 15 + pkg + 16 * i).find? fun n => !x.rects.any (·.1 = n)).getD (2 ^ 15 + pkg)
/-- The containment rectangle of a core. -/
def State.rectOf (s : State) (c : Nat) : Nat :=
  ((s.sup.rects.find? fun r => r.2.contains (s.clusterOf c)).map (·.1)).getD (s.sup.ownRect (s.dieOf c / 4))

/-- A core inside a contained rectangle whose fence stands. -/
def State.fenced (s : State) (c : Nat) : Bool := s.sup.fences.any (·.1 = s.rectOf c)
/-- The Wyal port that a package's traffic for another takes (spec/17 R392, spec/24 R498): entry 16 p + q of the route
tables; ports are numbered 18 p + i. -/
def State.portFor (s : State) (p q : Nat) : Option Nat :=
  let e := mget 0 s.sup.routes (16 * p + q)
  if e.getLsbD 7 then some (18 * p + e.toNat % 32) else none
/-- The ports that traffic of package `p` for package `q` takes, one a package, each by its own table (R392, R498); none
where a table has no entry or the way does not end. -/
def State.routeFrom (s : State) (q : Nat) : Nat → Nat → Option (List Nat)
  | 0, p => if p = q then some [] else none
  | n + 1, p =>
    if p = q then some []
    else match s.portFor p q with
      | none => none
      | some i => (s.routeFrom q n (mget {} s.ports i).peer).map (i :: ·)
def State.route (s : State) (p q : Nat) : Option (List Nat) := s.routeFrom q 16 p
/-- The port of the peer at which the link of a port ends: among the ports that have trained between the same two packages, the
one of the same rank (DESIGN CHOICE, log 58). -/
def State.farPort (s : State) (i : Nat) : Nat :=
  let p := i / 18
  let q := (mget {} s.ports i).peer
  let joins (a b : Nat) : List Nat := (List.range 18).filter fun j => (mget {} s.ports (18 * a + j)).linked && (mget {} s.ports (18 * a + j)).peer = b
  18 * q + ((joins q p)[((joins p q).filter (· < i % 18)).length]?).getD 0
/-- A link that is down, at either end. -/
def State.linkDown (s : State) (i : Nat) : Bool := (mget {} s.ports i).state = 0 || (mget {} s.ports (s.farPort i)).state = 0
/-- The first link that a packet of package `p` for package `q` crosses: the port that sends it and the one that receives it. -/
def State.firstLink (s : State) (p q : Nat) : Option (Nat × Nat) :=
  match s.route p q with
  | some (i :: _) => some (i, s.farPort i)
  | _ => none
/-- The package a source stands in, seen from a core: slices by number, cores by position. -/
def State.packageOf (s : State) (src : Source) (c : Nat) : Nat :=
  match src with
  | .core i => s.dieOf i / 4
  | .slice n => n / 256
  | .port n => n / 18
  | .node n => n / 25600
  | .host => 0
  | .derrick => s.dieOf c / 4
/-- Who refuses traffic between two ends (spec/17 R398): the boundary of a contained rectangle at its destination, the first port on its
way that is down, or the package of its source, whose table has no entry. -/
def State.refuserOf (s : State) (src dst : Source) : Source :=
  let here (y : Source) : Nat := match y with
    | .core c => c
    | _ => (s.ctx.cores.headD (0, 0, 0, 0)).1
  let shut := match dst with
    | .core c => s.fenced c
    | _ => false
  if shut then dst
  else match s.route (s.packageOf src (here dst)) (s.packageOf dst (here src)) with
    | some is => ((is.find? s.linkDown).map Source.port).getD dst
    | none => src

/-- A counter of spec/16 Table 16-4 that is kept as a count rises by 1. -/
def Core.bump (k : Core) (sel : Nat) : Core :=
  { k with counters := mset 0 k.counters sel (mget 0 k.counters sel + 1) }

/-! ### What an instruction does -/

/-- The outcome of an instruction's Operation. -/
inductive Out where
  /-- It completes; its after-causes, in the order of R298. -/
  | next (s : State) (after : List Cause := [])
  /-- A taken local transfer completes: the target enters the queue (R114). -/
  | take (s : State) (target : BitVec 32)
  /-- It completes at its own boundary: the queue is as the state has it. -/
  | stay (s : State)
  /-- It waits (R95): what it has already sent stays sent. -/
  | wait (s : State)
  /-- It raises a before-cause and has performed nothing (R94). -/
  | trap (c : Cause)
  deriving DecidableEq, Repr

/-- Lanes of a core no longer count as waiting: they try again. -/
def Core.wake (k : Core) : Core :=
  { k with gangs := k.gangs.map fun e => (e.1, { e.2 with waiting := false }) }
/-- Every gang of the context tries again. -/
def State.wake (s : State) : State := { s with cores := s.cores.map fun e => (e.1, e.2.wake) }

/-- A gang after the instruction in Q0 has completed (R114, R135). -/
def Gang.retire (g : Gang) (next : BitVec 32) (routine : Bool) : Gang :=
  let less (x : Option Xfer) : Option Xfer := x.map fun x => { x with left := x.left - 1 }
  { g.advance next with
    phase := .none, walking := [], missed := [], walked := [], skipBreak := false, breakDue := none,
    xfer := if routine then g.xfer else less g.xfer, xferIn := if routine then less g.xferIn else g.xferIn }
/-- The transfer elsewhere under way at the core's level: one of the gang, one of its trap routine. -/
def Core.xfer (k : Core) : Option Xfer := if k.priv = 1 then k.gang.xferIn else k.gang.xfer
def Core.setXfer (k : Core) (x : Option Xfer) : Core :=
  k.modGang fun g => if k.priv = 1 then { g with xferIn := x } else { g with xfer := x }
/-- The core after an instruction has completed: RETIRED and counter 0x0101 rise, the stall count returns to 0. -/
def Core.retire (k : Core) (next : Option (BitVec 32)) : Core :=
  let k' := (k.modGang fun g => g.retire (next.getD (k.succ g.q2)) (k.priv = 1)).wake
  { k'.bump 0x0101 with retired := k.retired + 1, lastSlot := k.slot, stall := 0, barked := false }
def State.retire (s : State) (next : Option (BitVec 32)) : State := s.modMe (·.retire next)

/-! ### Traps (spec/12 R292-R298, R508) -/

/-- The gang that awaits acknowledgements under a name has one less to await. -/
def State.lessAcks (s : State) (tag : Nat) : State :=
  let less : Phase → Phase
    | .acks t n r => if t = tag then .acks t (n - 1) r else .acks t n r
    | p => p
  { s with cores := s.cores.map fun (e : Nat × Core) =>
    (e.1, { e.2 with gangs := e.2.gangs.map fun (x : Nat × Gang) => (x.1, { x.2 with phase := less x.2.phase }) }) }
/-- A gang no longer waits in `srd` (spec/10 R233): it executes the instruction again from its beginning. -/
def Core.leaveReaders (k : Core) (slot : Nat) : Core :=
  { k with streams := k.streams.map fun (e : Nat × Stream) => (e.1, { e.2 with readers := e.2.readers.filter (· ≠ slot) }) }

/-- The code breakpoint that is still due on Q0 when a trap is taken at its boundary: one that a watchpoint comes before (R298,
spec/23 R482), and one so due before. -/
def Core.breakDue (k : Core) (g : Gang) (c : Cause) : Option (BitVec 32) :=
  if c.code = 0x10 then (if k.breaks.any (·.2 = g.q0) then some g.q0 else none)
  else if c.code = 0x0F then none
  else g.breakDue
/-- A trap into the trap routine at level 1 (R293), belonging to the gang in a slot, or to no gang: then the system
slot, whose one lane has registers zero and STRAND_ID 0 (R295). A step request that is still to be used stands aside until `tret`
(R294, log 47); the instruction in Q0 starts from its beginning then (spec/03 R95). -/
def Core.enter (k : Core) (slot : Option Nat) (c : Cause) : Core :=
  let g : Gang := match slot with
    | some i => k.at i
    | none => { lanes := [{}], grant := 1 }
  let i := slot.getD 4
  let q (b : BitVec 32) : BitVec 32 := if slot.isSome then b else 0
  let k' := { k with
    priv := 1, owner := if slot.isSome then .gang i else .system, slot := i,
    trapCause := BitVec.ofNat 16 (c.code * 256 + c.sub), trapInfo := c.info, trapLanes := c.lanes,
    xpc0 := q g.q0, xpc1 := q g.q1, xpc2 := q g.q2 }
  (k'.leaveReaders i).setAt i
    { g.startAt k (codeAddr trapRoutine 0) with
      phase := .none, waiting := false, xferIn := none, walking := [], missed := [], walked := [],
      step := .off, stepArmed := g.step, breakDue := k.breakDue g c }

/-- A trap of the acting core into its trap routine, recorded when its cause is 0x01 to 0x0E (spec/22 Table 22-5). -/
def State.enterTrap (s : State) (slot : Option Nat) (c : Cause) : State :=
  let s' := s.modMe (·.enter slot c)
  if c.code ≤ 0x0E then
    s'.recordCore s.cur 0x01 [w64 (c.code * 256 + c.sub), c.info, (s'.me.xpc0.setWidth 64)]
  else s'

/-- `idle` of a partition's system cores ends as an entry is written that they serve (spec/12 R307). -/
def State.rouse (s : State) (part : Nat) : State :=
  { s with cores := s.cores.map fun (e : Nat × Core) => (e.1, if sysBase ≤ e.1 && s.partOf e.1 = part then { e.2 with idle := none } else e.2) }
/-- A cause taken at level 2: the core stops issuing and the supervisor is told (R43, R297, R301). What: 1 poison
consumed, which the device answers by containment (spec/22 R466); 2 double fault, which the supervisor answers so (R297);
3 supervisor call. A system core lies in no rectangle (R475). -/
def State.levelTwo (s : State) (what : Nat) (c : Cause) : State :=
  let s' := (s.modMe fun k =>
    if what = 3 then { k with stopped := true }
    else { k with stopped := true, trapCause := BitVec.ofNat 16 (c.code * 256 + c.sub), trapInfo := c.info, trapLanes := c.lanes }).tell what s.cur c.info
  let s' := if c.code ≤ 0x0E then
      s'.recordCore s.cur 0x01 [w64 (c.code * 256 + c.sub), c.info, s.gang.q0.setWidth 64]
    else s'
  if what = 3 || sysBase ≤ s.cur then s' else s'.push (.containment (s.rectOf s.cur) (if what = 1 then 1 else 3))

/-- A trap raised by the instruction of the acting gang: poison consumed and supervisor calls go to level 2; at level 1
or above every other is a double fault (R297). -/
def State.takeTrap (s : State) (c : Cause) : State :=
  if c.code = 0x0E then s.levelTwo 1 c
  else if c.code = 0x13 then s.levelTwo 3 c
  else if s.me.priv = 0 then s.enterTrap (some s.me.slot) c
  else s.levelTwo 2 c

/-- A boundary at level 0 at which no trap is taken: one where Q0 is annulled (R116), one at which a halt that was asked for or a
pre-emption comes first (R298, R316, spec/23 R483). -/
def State.defers (s : State) : Bool := s.gang.ann0 || (s.me.priv = 0 && (s.gang.haltAsked || s.me.preempting))
/-- The after-causes of an instruction that has retired: held to the end of the slots when the instruction stood in a
slot of a transfer elsewhere (R508), kept pending where no trap is taken, else the first is taken and the rest stay pending
(R298). -/
def State.takeAfter (s : State) : List Cause → State
  | [] => s
  | c :: cs =>
    let here : State :=
      if s.defers then s.modGang fun g => { g with causes := g.causes ++ c :: cs }
      else (s.modGang fun g => { g with causes := g.causes ++ cs }).takeTrap c
    match s.me.xfer with
    | some x => if x.left < 2 then s.modMe (·.setXfer (some { x with held := x.held ++ c :: cs })) else here
    | none => here

/-- The single-step cause of a step request that the retired instruction has used up (R307, spec/23 R484); none at level 1
(R294). -/
def State.stepCause (s : State) : List Cause :=
  if s.me.priv ≠ 0 || s.gang.step = .off || s.gang.stepDebug then [] else [⟨0x11, 0, s.gang.q0.setWidth 64, s.allLanes⟩]
/-- The debugger is told that a gang has halted, stepped or been reset (spec/23 Table 23-3, EVENT): TRAP_CAUSE, Q0, the core
and the slot. -/
def State.tellGang (s : State) (cause : BitVec 16) (c slot : Nat) : State :=
  { s with sup := { s.sup with
      responses := s.sup.responses ++ [(0x80, 0, [cause.setWidth 64, ((s.core c).at slot).q0.setWidth 64, w64 c, w64 slot])],
      events := s.sup.events ++ [(cause.toNat, ((s.core c).at slot).q0.toNat, c, slot)] } }
def State.tellHalt (s : State) (c slot : Nat) : State := s.tellGang (s.core c).trapCause c slot
/-- A step is over with the instruction that retires at level 0; one that a debugger asked for ends in debug halt (spec/23
R484), at the end of the slots of a transfer elsewhere (R508) and past annulled entries (R116). A step whose instruction
trapped first stays for its execution after `tret` (DEDUCED, log 47). -/
def State.clearStep (s : State) : State :=
  if s.me.priv ≠ 0 then s
  else s.modGang fun g => { g with step := .off, stepped := g.stepped || g.stepDebug, stepDebug := false }

/-- What a core has to send. -/
def Core.outs (k : Core) : List Outbound := k.outbox ++ k.sendReq ++ k.sendRep ++ k.ready ++ k.records
/-- The release gate of a pair holds an effect, a message or an engine command of the open interval (spec/22 R472). -/
def Core.gateHolds (k : Core) : Bool :=
  k.pair.on && (!k.pair.gate.isEmpty || k.outs.any (fun o => k.pair.mark ≤ o.msg.id) ||
    k.copyQs.any (fun e => e.2.entries.any fun x => k.pair.mark ≤ x.id) || k.matrixQ.entries.any fun x => k.pair.mark ≤ x.id)
/-- An open interval of a pair closes early when the core waits for effects that its gate holds (spec/22 R471). -/
def State.closing (s : State) : State :=
  if !s.me.gateHolds then s else s.modMe fun k => { k with pair := { k.pair with closing := true } }
/-- The request that an effect in a release gate is. -/
def gatedReq : Instr → Option Req
  | .remoteAccess r | .sliceOperation r | .timelineWrite r | .chainedPacket r => some r
  | _ => none
/-- An instruction that waits while a reply that its gang is to get stands in the gate of its pair waits for the gate to drain
(spec/15 R363, spec/22 R471; DEDUCED, log 65). -/
def State.waitsForGate (s : State) : Bool :=
  s.me.pair.gate.any fun e => (gatedReq e).any fun r => s.me.loads.any fun x => x.tag = r.tag && x.slot = s.me.slot
/-- The next state of an instruction whose Operation ended as `o` says. -/
def State.finish (s : State) : Out → Host.Outcome State Fault Refusal
  | .next t after => .next ((t.retire none).clearStep.takeAfter (after ++ s.stepCause))
  | .take t target => .next ((t.retire (some target)).clearStep.takeAfter s.stepCause)
  | .stay t => .next (t.modMe fun k => if s.me.slot < 4 then { k with lastSlot := s.me.slot } else k)
  | .wait t => .next ((if t.waitsForGate then t.closing else t).modGang fun g => { g with waiting := true })
  | .trap c => .next (s.takeTrap c)

/-! ### Return from a trap (spec/12 R296, R307) -/

/-- `tret` in the trap routine of a gang: the queue is reloaded, the level is 0, the trap bank stays; `halt` and
`sstep` that stood before it take effect. A code breakpoint on XPC0 does not match once, but for one that is still due there (spec/23
R482). -/
def Core.leaveGang (k : Core) (i : Nat) : Core :=
  let g := k.at i
  { k with priv := 0, owner := .none }.setAt i
    { g with q0 := k.xpc0, q1 := k.xpc1, q2 := k.xpc2, ann0 := false, ann1 := false, ann2 := false,
             skipBreak := g.breakDue ≠ some k.xpc0,
             halted := g.halted || g.haltAtTret || g.haltAsked, haltAtTret := false, haltAsked := false,
             step := g.stepArmed, stepArmed := .off, waiting := false, xferIn := none }
/-- `tret` in the system slot: the slot's firing ends and XPC0-XPC2 are ignored. -/
def Core.leaveSystem (k : Core) : Core :=
  { k with priv := 0, owner := .none, gangs := mdel k.gangs 4 }
/-- The return from a trap, counted as a retired instruction. -/
def Core.leave (k : Core) : Core :=
  let k' := match k.owner with
    | .gang i => k.leaveGang i
    | .system => k.leaveSystem
    | .none => { k with priv := 0 }
  { (k'.wake).bump 0x0101 with retired := k.retired + 1, stall := 0, barked := false }

/-! ### Checks before an Operation -/

/-- A gang register among these awaits a reply (spec/04 R98). -/
def State.anyPendG (s : State) (ns : List (BitVec 4)) : Bool := ns.any fun n => s.me.pendG n.toNat
/-- A trap whose information is the instruction itself (R90). -/
def State.trapHere (s : State) (code sub : Nat) : Out := .trap ⟨code, sub, s.me.shown s.gang.q0, s.allLanes⟩
/-- A blocking form: refused in a message or change firing, and at level 1 (spec/12 R297, R308). -/
def State.blocking (s : State) (body : Out) : Out :=
  if s.gang.kind ≠ .carry || s.me.priv ≠ 0 then s.trapHere 0x08 0 else body
/-- The first of these gang registers that carries poison. -/
def State.firstPoison (s : State) (ns : List (BitVec 4)) : Option (BitVec 4) :=
  ns.find? fun n => s.me.poisonG n.toNat
/-- Poison consumed from a gang register (spec/22 R466). -/
def State.poisonReg (s : State) (n : Nat) : Out := .trap ⟨0x0E, 0, w64 n, s.allLanes⟩

/-- A gang instruction waits on the registers it reads and writes, consumes poison from `uses`, and goes on. -/
def State.gate (s : State) (uses all : List (BitVec 4)) (body : Out) : Out :=
  if s.anyPendG all then .wait s
  else match s.firstPoison uses with
    | some n => s.poisonReg n.toNat
    | none => body

/-- As `gate`, with registers whose value is used as an address: their poison is subcode 1 with the address. -/
def State.gateAddr (s : State) (addrs uses all : List (BitVec 4)) (ea : Word) (body : Out) : Out :=
  if s.anyPendG all then .wait s
  else if (s.firstPoison addrs).isSome then .trap ⟨0x0E, 1, ea, s.allLanes⟩
  else match s.firstPoison uses with
    | some n => s.poisonReg n.toNat
    | none => body

end Sys2Proof.Machine
end

