-- ==== Sys2Proof/Machine/Flags.lean ====
section
/-! DEFINITION. The W4 has no condition flags (spec/04): a comparison writes 0 or 1, a branch tests registers or a
predicate. Here are the comparisons, the branch conditions of spec/03 Table 3-2, and the corner cases of division. -/
namespace Sys2Proof.Machine

/-- 1 when the relation holds, else 0. -/
def flag (b : Bool) : Word := if b then 1 else 0
/-- Signed and unsigned order. -/
def lessS {n : Nat} (a b : BitVec n) : Bool := decide (a.toInt < b.toInt)
def lessN {n : Nat} (a b : BitVec n) : Bool := decide (a.toNat < b.toNat)
def minS {n : Nat} (a b : BitVec n) : BitVec n := if lessS b a then b else a
def maxS {n : Nat} (a b : BitVec n) : BitVec n := if lessS a b then b else a
def minN {n : Nat} (a b : BitVec n) : BitVec n := if lessN b a then b else a
def maxN {n : Nat} (a b : BitVec n) : BitVec n := if lessN a b then b else a

/-- Division of R101: a zero divisor gives all ones and the dividend; the quotient is truncated toward zero, and the
quotient of the least number by -1 wraps to itself with remainder 0. -/
def quotS {n : Nat} (a b : BitVec n) : BitVec n := if b = 0 then BitVec.allOnes n else BitVec.ofInt n (a.toInt.tdiv b.toInt)
def remS {n : Nat} (a b : BitVec n) : BitVec n := if b = 0 then a else BitVec.ofInt n (a.toInt.tmod b.toInt)
def quotN {n : Nat} (a b : BitVec n) : BitVec n := if b = 0 then BitVec.allOnes n else BitVec.ofNat n (a.toNat / b.toNat)
def remN {n : Nat} (a b : BitVec n) : BitVec n := if b = 0 then a else BitVec.ofNat n (a.toNat % b.toNat)

/-- The high half of the exact product. -/
def mulHighS {n : Nat} (a b : BitVec n) : BitVec n := BitVec.ofInt n (a.toInt * b.toInt / 2 ^ n)
def mulHighN {n : Nat} (a b : BitVec n) : BitVec n := BitVec.ofNat n (a.toNat * b.toNat / 2 ^ n)

/-- Counts of bits: the width for zero in the first two. -/
def leadingZeros {n : Nat} (a : BitVec n) : Nat := if a = 0 then n else n - 1 - Nat.log2 a.toNat
def trailingZeros {n : Nat} (a : BitVec n) : Nat := if a = 0 then n else Nat.log2 (a.toNat ^^^ (a.toNat - 1))
def oneBits {n : Nat} (a : BitVec n) : Nat := ((List.range n).filter fun i => a.toNat.testBit i).length

/-- Lanes of the gang whose predicate is true. -/
def Gang.countPred (g : Gang) (p : Nat) : Nat := (g.lanes.filter fun l => l.preds.getLsbD p).length

/-- The condition of spec/03 Table 3-2 on `gA` and the gang: conditions 5 to 7 read predicate A[2:0] in every lane. -/
def condition (cond : Nat) (v : Word) (g : Gang) (p : Nat) : Bool :=
  match cond with
  | 0 => true
  | 1 => v = 0
  | 2 => v ≠ 0
  | 3 => v.msb
  | 4 => !v.msb
  | 5 => g.countPred p ≠ 0
  | 6 => g.countPred p = g.lanes.length
  | _ => g.countPred p = 0

end Sys2Proof.Machine
end

