-- ==== Sys2Proof/Machine/Gang.lean ====
section
/-! DEFINITION. Gang integer and logical instructions (spec/04 R96-R103), opcodes 0x00 to 0x2F. -/
namespace Sys2Proof.Machine

/-- A gang computation: it waits on its registers (R98), consumes the poison of its sources (spec/22 R466) and writes
`gD` (R97, R100). -/
def State.alu (s : State) (d : BitVec 4) (rs : List (BitVec 4)) (v : Word) : Out :=
  s.gate rs (d :: rs) (.next (s.writeG d v))

/-- A shift count: `gB[5:0]`. -/
def shiftCount (b : Word) : Nat := b.toNat % 64
/-- `old` with the `n` bits from `pos` upward replaced by the low bits of `v`; positions above 63 are dropped. -/
def insertBits (old v : Word) (pos n : Nat) : Word :=
  let m : Word := w64 ((2 ^ n - 1) * 2 ^ pos)
  (old &&& ~~~m) ||| (v <<< pos &&& m)

/-- `gA + gB`; with B = 0 it is `mov`, which copies poison (R100, spec/22 R465). -/
def execAdd (d a b : BitVec 4) (s : State) : Host.Outcome State Fault Refusal :=
  s.finish <|
    if b = 0 then s.gate [] [d, a] (.next (s.writeG d (s.readG a) (s.me.poisonG a.toNat)))
    else s.alu d [a, b] (s.readG a + s.readG b)
/-- `gA - gB` (R100). -/
def execSub (d a b : BitVec 4) (s : State) : Host.Outcome State Fault Refusal :=
  s.finish (s.alu d [a, b] (s.readG a - s.readG b))
/-- Low 64 bits of the product (R100). -/
def execMul (d a b : BitVec 4) (s : State) : Host.Outcome State Fault Refusal :=
  s.finish (s.alu d [a, b] (s.readG a * s.readG b))
/-- High 64 bits of the signed product (R100). -/
def execMulhS64 (d a b : BitVec 4) (s : State) : Host.Outcome State Fault Refusal :=
  s.finish (s.alu d [a, b] (mulHighS (s.readG a) (s.readG b)))
/-- High 64 bits of the unsigned product (R100). -/
def execMulhN64 (d a b : BitVec 4) (s : State) : Host.Outcome State Fault Refusal :=
  s.finish (s.alu d [a, b] (mulHighN (s.readG a) (s.readG b)))
/-- Signed quotient (R101). -/
def execDivS64 (d a b : BitVec 4) (s : State) : Host.Outcome State Fault Refusal :=
  s.finish (s.alu d [a, b] (quotS (s.readG a) (s.readG b)))
/-- Unsigned quotient (R101). -/
def execDivN64 (d a b : BitVec 4) (s : State) : Host.Outcome State Fault Refusal :=
  s.finish (s.alu d [a, b] (quotN (s.readG a) (s.readG b)))
/-- Signed remainder (R101). -/
def execRemS64 (d a b : BitVec 4) (s : State) : Host.Outcome State Fault Refusal :=
  s.finish (s.alu d [a, b] (remS (s.readG a) (s.readG b)))
/-- Unsigned remainder (R101). -/
def execRemN64 (d a b : BitVec 4) (s : State) : Host.Outcome State Fault Refusal :=
  s.finish (s.alu d [a, b] (remN (s.readG a) (s.readG b)))
/-- Bitwise and (R100). -/
def execAnd (d a b : BitVec 4) (s : State) : Host.Outcome State Fault Refusal :=
  s.finish (s.alu d [a, b] (s.readG a &&& s.readG b))
/-- Bitwise or (R100). -/
def execOr (d a b : BitVec 4) (s : State) : Host.Outcome State Fault Refusal :=
  s.finish (s.alu d [a, b] (s.readG a ||| s.readG b))
/-- Bitwise exclusive or (R100). -/
def execXor (d a b : BitVec 4) (s : State) : Host.Outcome State Fault Refusal :=
  s.finish (s.alu d [a, b] (s.readG a ^^^ s.readG b))
/-- `gA` and not `gB` (R100). -/
def execAndn (d a b : BitVec 4) (s : State) : Host.Outcome State Fault Refusal :=
  s.finish (s.alu d [a, b] (s.readG a &&& ~~~(s.readG b)))
/-- Left shift by `gB[5:0]` (R100). -/
def execShl (d a b : BitVec 4) (s : State) : Host.Outcome State Fault Refusal :=
  s.finish (s.alu d [a, b] (s.readG a <<< shiftCount (s.readG b)))
/-- Right shift by `gB[5:0]`, zeros entering (R100). -/
def execShr (d a b : BitVec 4) (s : State) : Host.Outcome State Fault Refusal :=
  s.finish (s.alu d [a, b] (s.readG a >>> shiftCount (s.readG b)))
/-- Right shift by `gB[5:0]`, bit 63 entering (R100). -/
def execSra (d a b : BitVec 4) (s : State) : Host.Outcome State Fault Refusal :=
  s.finish (s.alu d [a, b] ((s.readG a).sshiftRight (shiftCount (s.readG b))))
/-- Left rotation by `gB[5:0]` (R100). -/
def execRol (d a b : BitVec 4) (s : State) : Host.Outcome State Fault Refusal :=
  s.finish (s.alu d [a, b] ((s.readG a).rotateLeft (shiftCount (s.readG b))))
/-- The lesser, signed (R100). -/
def execMinS64 (d a b : BitVec 4) (s : State) : Host.Outcome State Fault Refusal :=
  s.finish (s.alu d [a, b] (minS (s.readG a) (s.readG b)))
/-- The greater, signed (R100). -/
def execMaxS64 (d a b : BitVec 4) (s : State) : Host.Outcome State Fault Refusal :=
  s.finish (s.alu d [a, b] (maxS (s.readG a) (s.readG b)))
/-- The lesser, unsigned (R100). -/
def execMinN64 (d a b : BitVec 4) (s : State) : Host.Outcome State Fault Refusal :=
  s.finish (s.alu d [a, b] (minN (s.readG a) (s.readG b)))
/-- The greater, unsigned (R100). -/
def execMaxN64 (d a b : BitVec 4) (s : State) : Host.Outcome State Fault Refusal :=
  s.finish (s.alu d [a, b] (maxN (s.readG a) (s.readG b)))
/-- 1 when equal (R100). -/
def execSeq (d a b : BitVec 4) (s : State) : Host.Outcome State Fault Refusal :=
  s.finish (s.alu d [a, b] (flag (s.readG a = s.readG b)))
/-- 1 when less, signed (R100). -/
def execSltS64 (d a b : BitVec 4) (s : State) : Host.Outcome State Fault Refusal :=
  s.finish (s.alu d [a, b] (flag (lessS (s.readG a) (s.readG b))))
/-- 1 when less, unsigned (R100). -/
def execSltN64 (d a b : BitVec 4) (s : State) : Host.Outcome State Fault Refusal :=
  s.finish (s.alu d [a, b] (flag (lessN (s.readG a) (s.readG b))))
/-- Leading zeros; 64 for zero (R100). -/
def execClz (d a : BitVec 4) (s : State) : Host.Outcome State Fault Refusal :=
  s.finish (s.alu d [a] (w64 (leadingZeros (s.readG a))))
/-- Trailing zeros; 64 for zero (R100). -/
def execCtz (d a : BitVec 4) (s : State) : Host.Outcome State Fault Refusal :=
  s.finish (s.alu d [a] (w64 (trailingZeros (s.readG a))))
/-- One bits (R100). -/
def execPopc (d a : BitVec 4) (s : State) : Host.Outcome State Fault Refusal :=
  s.finish (s.alu d [a] (w64 (oneBits (s.readG a))))
/-- The low n bits as signed, n - 1 in the encoding (R100). -/
def execSext (d a : BitVec 4) (n : BitVec 6) (s : State) : Host.Outcome State Fault Refusal :=
  s.finish (s.alu d [a] (sext64 (n.toNat + 1) (s.readG a).toNat))
/-- The low n bits, zero-extended (R100). -/
def execZext (d a : BitVec 4) (n : BitVec 6) (s : State) : Host.Outcome State Fault Refusal :=
  s.finish (s.alu d [a] (w64 ((s.readG a).toNat % 2 ^ (n.toNat + 1))))
/-- n bits of `gA` from bit `gB[5:0]` upward (R100). -/
def execBfx (d a b : BitVec 4) (n : BitVec 6) (s : State) : Host.Outcome State Fault Refusal :=
  s.finish (s.alu d [a, b] (w64 ((s.readG a).toNat / 2 ^ shiftCount (s.readG b) % 2 ^ (n.toNat + 1))))
/-- The old `gD` with n bits from bit `gB[5:0]` upward replaced; `gD` is a source (R100). -/
def execBfi (d a b : BitVec 4) (n : BitVec 6) (s : State) : Host.Outcome State Fault Refusal :=
  s.finish (s.alu d [a, b, d] (insertBits (s.readG d) (s.readG a) (shiftCount (s.readG b)) (n.toNat + 1)))
/-- `gA + gB * 2^s` (R100). -/
def execLea (d a b : BitVec 4) (k : BitVec 2) (s : State) : Host.Outcome State Fault Refusal :=
  s.finish (s.alu d [a, b] (s.readG a + s.readG b <<< k.toNat))
/-- `gA` + immediate, sign-extended (R102). -/
def execAddi (d a : BitVec 4) (i : BitVec 15) (s : State) : Host.Outcome State Fault Refusal :=
  s.finish (s.alu d [a] (s.readG a + sext64 15 i.toNat))
/-- Low 64 bits of `gA` times the immediate, sign-extended (R102). -/
def execMuli (d a : BitVec 4) (i : BitVec 15) (s : State) : Host.Outcome State Fault Refusal :=
  s.finish (s.alu d [a] (s.readG a * sext64 15 i.toNat))
/-- `gA` and the immediate, zero-extended (R102). -/
def execAndi (d a : BitVec 4) (i : BitVec 15) (s : State) : Host.Outcome State Fault Refusal :=
  s.finish (s.alu d [a] (s.readG a &&& i.setWidth 64))
/-- `gA` or the immediate, zero-extended (R102). -/
def execOri (d a : BitVec 4) (i : BitVec 15) (s : State) : Host.Outcome State Fault Refusal :=
  s.finish (s.alu d [a] (s.readG a ||| i.setWidth 64))
/-- `gA` xor the immediate, zero-extended (R102). -/
def execXori (d a : BitVec 4) (i : BitVec 15) (s : State) : Host.Outcome State Fault Refusal :=
  s.finish (s.alu d [a] (s.readG a ^^^ i.setWidth 64))
/-- Left shift by the immediate (R102). -/
def execShli (d a : BitVec 4) (i : BitVec 6) (s : State) : Host.Outcome State Fault Refusal :=
  s.finish (s.alu d [a] (s.readG a <<< i.toNat))
/-- Right shift by the immediate, zeros entering (R102). -/
def execShri (d a : BitVec 4) (i : BitVec 6) (s : State) : Host.Outcome State Fault Refusal :=
  s.finish (s.alu d [a] (s.readG a >>> i.toNat))
/-- Right shift by the immediate, bit 63 copied (R102). -/
def execSrai (d a : BitVec 4) (i : BitVec 6) (s : State) : Host.Outcome State Fault Refusal :=
  s.finish (s.alu d [a] ((s.readG a).sshiftRight i.toNat))
/-- 1 when equal to the immediate, sign-extended (R102). -/
def execSeqi (d a : BitVec 4) (i : BitVec 15) (s : State) : Host.Outcome State Fault Refusal :=
  s.finish (s.alu d [a] (flag (s.readG a = sext64 15 i.toNat)))
/-- 1 when less than the immediate, signed (R102). -/
def execSltiS64 (d a : BitVec 4) (i : BitVec 15) (s : State) : Host.Outcome State Fault Refusal :=
  s.finish (s.alu d [a] (flag (lessS (s.readG a) (sext64 15 i.toNat))))
/-- 1 when less than the sign-extended immediate, compared unsigned (R102). -/
def execSltiN64 (d a : BitVec 4) (i : BitVec 15) (s : State) : Host.Outcome State Fault Refusal :=
  s.finish (s.alu d [a] (flag (lessN (s.readG a) (sext64 15 i.toNat))))
/-- Immediate minus `gA` (R102). -/
def execRsbi (d a : BitVec 4) (i : BitVec 15) (s : State) : Host.Outcome State Fault Refusal :=
  s.finish (s.alu d [a] (sext64 15 i.toNat - s.readG a))
/-- The lesser of `gA` and the immediate, signed (R102). -/
def execMiniS64 (d a : BitVec 4) (i : BitVec 15) (s : State) : Host.Outcome State Fault Refusal :=
  s.finish (s.alu d [a] (minS (s.readG a) (sext64 15 i.toNat)))
/-- The greater of `gA` and the immediate, signed (R102). -/
def execMaxiS64 (d a : BitVec 4) (i : BitVec 15) (s : State) : Host.Outcome State Fault Refusal :=
  s.finish (s.alu d [a] (maxS (s.readG a) (sext64 15 i.toNat)))
/-- The immediate times 2^(16 h); the other bits are zero (R103). -/
def execMovw (d : BitVec 4) (h : BitVec 2) (i : BitVec 16) (s : State) : Host.Outcome State Fault Refusal :=
  s.finish (s.alu d [] (i.setWidth 64 <<< (16 * h.toNat)))
/-- One halfword of `gD` replaced, the others kept; `gD` is a source (R103). -/
def execMovk (d : BitVec 4) (h : BitVec 2) (i : BitVec 16) (s : State) : Host.Outcome State Fault Refusal :=
  s.finish (s.alu d [d] (insertBits (s.readG d) (i.setWidth 64) (16 * h.toNat) 16))

end Sys2Proof.Machine
end

