-- ==== Sys2Proof/Machine/Control.lean ====
section
/-! DEFINITION. Local control: branches, calls, returns, loops (spec/04 R114-R122), opcodes 0x40 to 0x4F. -/
namespace Sys2Proof.Machine

/-- A nullifying branch that is not taken annuls Q1 and Q2 before the queue advances (R115). -/
def State.annul (s : State) : State := s.modGang fun g => { g with ann1 := true, ann2 := true }

/-- The shared end of the local transfers: the target is checked before anything is performed (R121); `t` is the state
with the register effects, `target` the offset as computed, `info` what TRAP_INFO holds. -/
def State.transfer (s : State) (taken nullify : Bool) (target : Int) (info : Word) (t : State) : Out :=
  let here := s.gang.q0
  if taken then
    if target < 0 ∨ (s.me.lengthOf here : Int) ≤ target then .trap ⟨0x04, 1, info, s.allLanes⟩
    else .take t (codeAddr (routineOf here) target.toNat)
  else .next (if nullify then t.annul else t)

/-- The target of a B or BC form: the branch's own offset plus a signed displacement (R119). -/
def State.branchTarget (s : State) {n : Nat} (disp : BitVec n) : Int := (offsetOf s.gang.q0 : Int) + disp.toInt
/-- The link of a call: the offset that sequential fetch reaches after the two slots (R120). -/
def Core.linkAt (k : Core) (a : BitVec 32) : BitVec 32 := k.succ (k.succ (k.succ a))
def State.link (s : State) : Word := (s.me.linkAt s.gang.q0).setWidth 64

/-- The registers that a condition reads. -/
def condReads (c : BitVec 3) (a : BitVec 4) : List (BitVec 4) := if 1 ≤ c.toNat ∧ c.toNat ≤ 4 then [a] else []
/-- A poisoned predicate that conditions 5 to 7 would consume (spec/22 R466). -/
def State.condPoison (s : State) (c : BitVec 3) (p : Nat) : Bool :=
  5 ≤ c.toNat && s.gang.lanes.any fun l => l.poison.getLsbD (48 + p)

/-- A conditional form: waits, consumes its poison, then goes on with whether the condition holds. -/
def State.onCondition (s : State) (a : BitVec 4) (c : BitVec 3) (body : Bool → Out) : Out :=
  let p := a.toNat % 8
  s.gate (condReads c a) (condReads c a) <|
    if s.condPoison c p then s.poisonReg p else body (condition c.toNat (s.readG a) s.gang p)

/-- `b` (R119). -/
def execB (a : BitVec 4) (c : BitVec 3) (p : BitVec 16) (s : State) : Host.Outcome State Fault Refusal :=
  s.finish (s.onCondition a c fun taken =>
    s.transfer taken false (s.branchTarget p) (BitVec.ofInt 64 (s.branchTarget p)) s)
/-- `b.n`: annuls both slots when not taken (R115). -/
def execBN (a : BitVec 4) (c : BitVec 3) (p : BitVec 16) (s : State) : Host.Outcome State Fault Refusal :=
  s.finish (s.onCondition a c fun taken =>
    s.transfer taken true (s.branchTarget p) (BitVec.ofInt 64 (s.branchTarget p)) s)
/-- `call`: when taken, `g15` receives the link (R120). -/
def execCall (a : BitVec 4) (c : BitVec 3) (p : BitVec 16) (s : State) : Host.Outcome State Fault Refusal :=
  s.finish (s.onCondition a c fun taken =>
    if taken && s.anyPendG [15] then .wait s
    else s.transfer taken false (s.branchTarget p) (BitVec.ofInt 64 (s.branchTarget p))
      (if taken then s.writeG 15 s.link else s))
/-- `ret`: the code address in `gA`, which must lie in the current routine (R121). -/
def execRet (a : BitVec 4) (s : State) : Host.Outcome State Fault Refusal :=
  s.finish (s.gate [a] [a] <|
    let v := s.readG a
    if fieldOf v 63 32 ≠ 0 ∨ fieldOf v 31 16 ≠ routineOf s.gang.q0 ∨ fieldOf v 15 13 ≠ 0 then
      .trap ⟨0x04, 1, v, s.allLanes⟩
    else s.transfer true false (fieldOf v 12 0 : Int) v s)
/-- `jr`: the offset `gA + gB` (R119). -/
def execJr (a b : BitVec 4) (s : State) : Host.Outcome State Fault Refusal :=
  s.finish (s.gate [a, b] [a, b] <|
    s.transfer true false ((s.readG a + s.readG b).toNat : Int) (s.readG a + s.readG b) s)
/-- `callr`: the offset `gA`, the link in `gD` (R120). -/
def execCallr (d a : BitVec 4) (s : State) : Host.Outcome State Fault Refusal :=
  s.finish (s.gate [a] [d, a] <|
    s.transfer true false ((s.readG a).toNat : Int) (s.readG a) (s.writeG d s.link))

/-- The loop forms: `gA - 1` is written always, and the condition is on it (R119). -/
def State.loopForm (s : State) (nullify : Bool) (a : BitVec 4) (p : BitVec 16) : Out :=
  s.gate [a] [a] <|
    let v := s.readG a - 1
    s.transfer (v ≠ 0) nullify (s.branchTarget p) (BitVec.ofInt 64 (s.branchTarget p)) (s.writeG a v)
/-- `loop` (R119). -/
def execLoop (a : BitVec 4) (p : BitVec 16) (s : State) : Host.Outcome State Fault Refusal :=
  s.finish (s.loopForm false a p)
/-- `loop.n` (R119, R115). -/
def execLoopN (a : BitVec 4) (p : BitVec 16) (s : State) : Host.Outcome State Fault Refusal :=
  s.finish (s.loopForm true a p)

/-- The compare branches: taken when a relation of `gA` and `gB` holds (R119). -/
def State.compareForm (s : State) (a b : BitVec 4) (p : BitVec 15) (rel : Word → Word → Bool) : Out :=
  s.gate [a, b] [a, b] <|
    s.transfer (rel (s.readG a) (s.readG b)) false (s.branchTarget p) (BitVec.ofInt 64 (s.branchTarget p)) s
/-- `b.eq`. -/
def execBEq (a b : BitVec 4) (p : BitVec 15) (s : State) : Host.Outcome State Fault Refusal :=
  s.finish (s.compareForm a b p fun x y => x = y)
/-- `b.ne`. -/
def execBNe (a b : BitVec 4) (p : BitVec 15) (s : State) : Host.Outcome State Fault Refusal :=
  s.finish (s.compareForm a b p fun x y => x ≠ y)
/-- `b.lt.s64`. -/
def execBLtS64 (a b : BitVec 4) (p : BitVec 15) (s : State) : Host.Outcome State Fault Refusal :=
  s.finish (s.compareForm a b p lessS)
/-- `b.lt.n64`. -/
def execBLtN64 (a b : BitVec 4) (p : BitVec 15) (s : State) : Host.Outcome State Fault Refusal :=
  s.finish (s.compareForm a b p lessN)
/-- `b.ge.s64`. -/
def execBGeS64 (a b : BitVec 4) (p : BitVec 15) (s : State) : Host.Outcome State Fault Refusal :=
  s.finish (s.compareForm a b p fun x y => !lessS x y)
/-- `b.ge.n64`. -/
def execBGeN64 (a b : BitVec 4) (p : BitVec 15) (s : State) : Host.Outcome State Fault Refusal :=
  s.finish (s.compareForm a b p fun x y => !lessN x y)

/-- `yield`: another gang, or a firing, may come first; the gang is the last of its priority for the next choice
(R122, spec/16 R373). -/
def execYield (s : State) : Host.Outcome State Fault Refusal :=
  s.finish (.next (s.modGang fun g => { g with yielded := true }))
/-- `nop`. -/
def execNop (s : State) : Host.Outcome State Fault Refusal := s.finish (.next s)

end Sys2Proof.Machine
end

