-- ==== Sys2Proof/Config.lean ====
section
/-! DEFINITION. What an implementation or the outside world fixes and the spec leaves open: free values,
constants with no body, so that no proof can see what they are (notes/assumptions 1, 2, 4, 5). -/
namespace Sys2Proof

/-- The configuration image in a package's flash (spec/24 R502): the bytes it begins with, its version and security version, the pod
number, the positions that its repair section mends, trim, helper data, the identity certificate chain, the supervisor image's code,
the signature. -/
structure ConfigImage where
  magic : List Byte
  version : Nat
  security : Nat
  pod : Nat
  repair : List Nat
  trim : List Byte
  helper : List Byte
  chain : List Byte
  supervisor : List (BitVec 16)
  signature : List Byte
  deriving DecidableEq, Repr
/-- What the flash of each package holds, none where it cannot be read (log 5). -/
opaque Config.flash : Nat → Option ConfigImage
/-- Which of the ready agents acts at a step (timing of grants, deliveries, engines and cores is left open):
a free value of the step counter (log 1). -/
opaque Config.pick : Nat → Nat
/-- A reading of a sensor or of a self-test at a time: temperature in 1/8 °C, power draw in W, which cores pass, soft errors
(log 4). First argument: which reading; second: the step counter. -/
opaque Config.sense : Nat → Nat → Nat
/-- Results of cryptographic operations and of the identity function (log 5). First argument: which operation;
second: its input as a number. -/
opaque Config.crypto : Nat → Nat → Nat
/-- A value that the spec leaves unstated (log 2): first argument, which; second, the step counter. -/
opaque Config.freeValue : Nat → Nat → Word

end Sys2Proof
end

