-- ==== Sys2Proof/Machine/Memory.lean ====
section
/-! DEFINITION. Bytes with poison, address checks (spec/01 R37-R41), translation (spec/14 R340-R345), the waits that
order asks for (spec/10 R252, spec/15 R351), and watchpoints (spec/23 R482). -/
namespace Sys2Proof.Machine

/-! ### Bytes -/

/-- What a byte that nothing has written reads as is zero (log 3). -/
def Memory.byte (m : Memory) (a : Nat) : Byte := mget 0 m.bytes a
/-- `n` bytes from `a`, little-endian (spec/00 R4). -/
def Memory.load (m : Memory) (a : Nat) : Nat → Nat
  | 0 => 0
  | n + 1 => (m.byte a).toNat + 256 * m.load (a + 1) n
/-- `n` bytes from `a` as a list. -/
def Memory.image (m : Memory) (a : Nat) : Nat → List Byte
  | 0 => []
  | n + 1 => m.byte a :: m.image (a + 1) n
/-- The first of the `n` words from word `w` on carries poison, or a later one does. -/
def Memory.badWords (m : Memory) (w : Nat) : Nat → Bool
  | 0 => false
  | n + 1 => mget false m.bad w || m.badWords (w + 1) n
/-- Whether an access of `n` bytes at `a` touches a poisoned word (spec/22 R465). -/
def Memory.poisoned (m : Memory) (a n : Nat) : Bool := if n = 0 then false else m.badWords (a / 8) ((a + n - 1) / 8 + 1 - a / 8)
/-- A value of up to 8 bytes with its poison. -/
def Memory.datum (m : Memory) (a n : Nat) : Datum := ⟨w64 (m.load a n), m.poisoned a n⟩

def Memory.setByte (m : Memory) (a : Nat) (b : Byte) : Memory := { m with bytes := mset 0 m.bytes a b }
def Memory.setBad (m : Memory) (w : Nat) (b : Bool) : Memory := { m with bad := mset false m.bad w b }
/-- Bytes written one after the other. -/
def Memory.putBytes (m : Memory) (a : Nat) : List Byte → Memory
  | [] => m
  | b :: bs => (m.setByte a b).putBytes (a + 1) bs
/-- The marks of the words that a write of `n` bytes at `a` touches: a poisoned write marks each, a clean write clears
those it covers whole. -/
def Memory.mark (m : Memory) (a n : Nat) (p : Bool) : List Nat → Memory
  | [] => m
  | w :: ws =>
    (if p then m.setBad w true else if a ≤ 8 * w ∧ 8 * w + 8 ≤ a + n then m.setBad w false else m).mark a n p ws
/-- The words that `n` bytes at `a` touch. -/
def wordsOf (a n : Nat) : List Nat := if n = 0 then [] else (List.range ((a + n - 1) / 8 + 1 - a / 8)).map (· + a / 8)
/-- A list of bytes written with a poison mark. -/
def Memory.write (m : Memory) (a : Nat) (bs : List Byte) (p : Bool) : Memory :=
  (m.putBytes a bs).mark a bs.length p (wordsOf a bs.length)
/-- The low `n` bytes of a word, lowest first. -/
def bytesOf (v : Nat) : Nat → List Byte
  | 0 => []
  | n + 1 => BitVec.ofNat 8 v :: bytesOf (v / 256) n
/-- A store of the low `n` bytes of a word. -/
def Memory.store (m : Memory) (a n : Nat) (v : Word) (p : Bool) : Memory := m.write a (bytesOf v.toNat n) p

/-- The canonical form of a memory. -/
def Memory.wf (m : Memory) : Bool := mwf 0 m.bytes && mwf false m.bad

/-! ### Addresses -/

/-- The end of a core's local memory. -/
def localEnd : Nat := 0x18000

def inCoreSpace (a : Word) : Bool := a.getLsbD 63
/-- The logical core a core-space address or a channel word names: package in bits 19:16 (spec/01 Table 1-5). -/
def coreOf (a : Word) : Nat := fieldOf a 62 59 * 65536 + fieldOf a 58 43
def coreOffset (a : Word) : Nat := fieldOf a 16 0
/-- A core-space address of a core's own space (spec/23 R482). -/
def coreAddr (c off : Nat) : Word := w64 (2 ^ 63 + c / 65536 * 2 ^ 59 + c % 65536 * 2 ^ 43 + off)
/-- The page number of a global virtual address, in 64 KiB pages. -/
def pageOf (a : Word) : Nat := fieldOf a 56 16

/-- Check 1 of R39. -/
def badForm (a : Word) : Bool := if inCoreSpace a then fieldOf a 42 17 ≠ 0 else fieldOf a 62 57 ≠ 0

/-- Whether a core's window permits an access (R40; spec/06 R149, spec/11 R274, R279, spec/16 R377). -/
def windowPermits (off size : Nat) (write : Bool) : Bool :=
  if off < localEnd then true
  else if write then
    size = 8 && (off < 0x18200 || (0x1A000 ≤ off && off < 0x1A080 && off % 16 = 8))
  else size = 8 || off < 0x1E000 || 0x1E800 ≤ off

/-! ### Translation -/

/-- Entry fields of spec/14 Table 14-4. -/
def iptValid (e : BitVec 128) : Bool := e.getLsbD 63
def iptLarge (e : BitVec 128) : Bool := e.getLsbD 62
def iptCont (e : BitVec 128) : Bool := e.getLsbD 61
def iptRd (e : BitVec 128) : Bool := e.getLsbD 60
def iptWr (e : BitVec 128) : Bool := e.getLsbD 59
def iptPart (e : BitVec 128) : Nat := e.toNat / 2 ^ 41 % 256
def iptVpn (e : BitVec 128) : Nat := e.toNat % 2 ^ 41
def iptNext (e : BitVec 128) : Option Nat := if e.getLsbD 95 then some (e.toNat / 2 ^ 96 % 2 ^ 28) else none

/-- The page table entry of a frame; one that nothing has written holds its PART alone. -/
def State.iptAt (s : State) (frame : Nat) : BitVec 128 :=
  match mfind s.ipt frame with
  | some e => e
  | none => BitVec.ofNat 128 (s.ownerOf frame * 2 ^ 41)

/-- The anchor index of a key (R342). -/
def anchorIndex (aBits part v : Nat) : Nat := (v ^^^ (v / 2 ^ aBits) ^^^ (part * 2 ^ (aBits - 8))) % 2 ^ aBits
/-- The physical address of the anchor for a key, by the partition's translation descriptor (R342). -/
def State.anchorAt (s : State) (part v : Nat) : Option Nat :=
  (mfind s.sup.partitions part).map fun p => p.anchors + 8 * anchorIndex p.anchorLog part v
/-- The frame that an anchor names. -/
def State.anchor (s : State) (part v : Nat) : Option Nat :=
  match s.anchorAt part v with
  | none => none
  | some a => let w := s.mem.load a 8; if w / 2 ^ 63 % 2 = 1 then some (w % 2 ^ 28) else none

/-- The end of a walk along one chain. -/
inductive Walked where
  | found (frame : Nat) (e : BitVec 128)
  | miss
  /-- More than 64 links. -/
  | tooLong
  deriving DecidableEq, Repr

/-- A chain searched for a key, with the links that may still be followed (R344). -/
def State.chain (s : State) (part v : Nat) (large : Bool) : Nat → Option Nat → Walked
  | _, none => .miss
  | 0, some _ => .tooLong
  | n + 1, some f =>
    let e := s.iptAt f
    if iptValid e && !iptCont e && iptPart e = part && iptVpn e = v && iptLarge e = large then .found f e
    else s.chain part v large n (iptNext e)

/-- A walk for a page of a partition: 64 KiB first, then 2 MiB (R344). -/
def State.walk (s : State) (part page : Nat) : Option TlbEntry :=
  match s.chain part page false 64 (s.anchor part page) with
  | .found f e => some ⟨page, f, false, iptRd e, iptWr e⟩
  | _ =>
    let v := page / 32 * 32
    match s.chain part v true 64 (s.anchor part v) with
    | .found f e => some ⟨v, f, true, iptRd e, iptWr e⟩
    | _ => none
/-- Whether a walk meets a chain of more than 64 links, which the walker records (R344). -/
def State.walkTooLong (s : State) (part page : Nat) : Bool :=
  let one := s.chain part page false 64 (s.anchor part page)
  let v := page / 32 * 32
  one = .tooLong || (one = .miss && s.chain part v true 64 (s.anchor part v) = .tooLong)

/-- Whether a buffered entry maps a page. -/
def TlbEntry.maps (e : TlbEntry) (page : Nat) : Bool := if e.large then e.vpn / 32 = page / 32 else e.vpn = page
/-- The physical address of a virtual address under an entry (R344). -/
def TlbEntry.phys (e : TlbEntry) (a : Word) : Nat :=
  e.frame * 65536 + a.toNat % (if e.large then 2 ^ 21 else 2 ^ 16)
/-- The entry that the core's buffer, or else its cluster's buffer, holds for a page (R343). -/
def State.buffered (s : State) (c page : Nat) : Option TlbEntry :=
  match (s.core c).tlb.find? (·.maps page) with
  | some e => some e
  | none => (s.cluster (s.clusterOf c)).tlb.find? (·.maps page)

/-- What becomes of an address under the checks of R39. -/
inductive Chk where
  | core (c off : Nat)
  | phys (pa : Nat) (e : TlbEntry)
  /-- A trap: cause and subcode. -/
  | fail (code sub : Nat)
  /-- A translation fault. -/
  | fault
  /-- A walk is needed first. -/
  | walk
  deriving DecidableEq, Repr

/-- The virtual addresses of the window through which system cores reach table entries, 2^32 bytes, and of the one for hash
anchors: the supervisor's choice (R341; DESIGN CHOICE, log 53). -/
def tableWindow : Nat := 2 ^ 57 - 2 ^ 34
def anchorWindow : Nat := 2 ^ 57 - 2 ^ 33
/-- What a system core reaches through those windows (R341). -/
def State.systemWindow (s : State) (c a : Nat) : Option Nat :=
  if c < sysBase then none
  else if tableWindow ≤ a ∧ a < tableWindow + 2 ^ 32 then some (tableBase + (a - tableWindow))
  else match mfind s.sup.partitions (s.partOf c) with
    | some p => if anchorWindow ≤ a ∧ a < anchorWindow + 8 * 2 ^ p.anchorLog then some (p.anchors + (a - anchorWindow)) else none
    | none => none
/-- Check 4 for a global address: translation and permission, with one more walk before a refusal (R344, R345). -/
def State.translate (s : State) (c : Nat) (g : Gang) (a : Word) (permits : TlbEntry → Bool) (sub : Nat) : Chk :=
  match s.systemWindow c a.toNat with
  | some pa => .phys pa ⟨pageOf a, pa / 65536, false, true, true⟩
  | none => match s.buffered c (pageOf a) with
  | some e =>
    if permits e then .phys (e.phys a) e
    else if g.walked.contains (pageOf a) then .fail 0x06 sub else .walk
  | none => if g.missed.contains (pageOf a) then .fault else .walk

/-- Permission of a load or of a store. -/
def permitted (write : Bool) (e : TlbEntry) : Bool := if write then e.wr else e.rd

/-- The checks of R39 in their order, on an access of `size` bytes aligned to `align`; `mis` is the subcode of the
misaligned trap. -/
def State.check (s : State) (a : Word) (size align : Nat) (write : Bool) (mis : Nat) : Chk :=
  if badForm a then .fail 0x04 0
  else if inCoreSpace a && !s.sees (coreOf a) then .fail 0x07 0
  else if a.toNat % align ≠ 0 then .fail 0x03 mis
  else if inCoreSpace a then
    if windowPermits (coreOffset a) size write then .core (coreOf a) (coreOffset a) else .fail 0x06 (bnat write)
  else s.translate s.cur s.gang a (permitted write) (bnat write)

/-- The check of a local offset (spec/04 R107). -/
def checkLocal (ea : Word) (align mis : Nat) : Option (Nat × Nat) :=
  if localEnd ≤ ea.toNat then some (0x04, 0) else if ea.toNat % align ≠ 0 then some (0x03, mis) else none

/-- A buffered entry for a page is discarded: it has failed the permission check of an access (R345). -/
def State.discardEntry (s : State) (c p : Nat) : State :=
  (s.modCore c fun k => { k with tlb := k.tlb.filter fun e => !e.maps p }).modCluster (s.clusterOf c) fun u =>
    { u with tlb := u.tlb.filter fun e => !e.maps p }
/-- A buffer with an entry added, the oldest dropped when it is full. -/
def addTlb (cap : Nat) (e : TlbEntry) (b : List TlbEntry) : List TlbEntry :=
  let b' := b.filter fun x => !(x.vpn = e.vpn && x.large = e.large)
  (if cap ≤ b'.length then b'.drop 1 else b') ++ [e]
/-- The result of a walk fills the core's buffer and its cluster's (R343). -/
def State.fillEntry (s : State) (c : Nat) (e : TlbEntry) : State :=
  (s.modCore c fun k => { k with tlb := addTlb 32 e k.tlb }).modCluster (s.clusterOf c) fun u => { u with tlb := addTlb 2048 e u.tlb }
/-- Walks asked for by the acting gang, one for each page not already asked for by this core; what is buffered for the page
is discarded. -/
def State.askWalks (s : State) : List Nat → State
  | [] => s
  | p :: ps =>
    let e := Instr.translationWalk s.cur (w64 (p * 65536))
    let t := (s.discardEntry s.cur p).modGang fun g => { g with walking := p :: g.walking.filter (· ≠ p) }
    (if t.events.contains e then t else t.push e).askWalks ps

/-- The trap of a failed check at an address (spec/12 Table 12-1). -/
def State.addrTrap (s : State) (code sub : Nat) (a : Word) : Out := .trap ⟨code, sub, a, s.allLanes⟩

/-! ### Reading through translation, for the hardware's own accesses -/

/-- The physical address of a virtual address of a partition, by the table itself. -/
def State.resolve (s : State) (part : Nat) (a : Nat) (write : Bool) : Option Nat :=
  match s.walk part (a / 65536) with
  | some e => if permitted write e then some (e.phys (w64 a)) else none
  | none => none
/-- A word of a partition's global memory, 8-byte aligned. -/
def State.readV (s : State) (part a : Nat) : Option Word :=
  (s.resolve part a false).map fun pa => w64 (s.mem.load pa 8)

/-! ### Waits for order -/

/-- Tags of the requests of the acting gang that still await replies. -/
def Core.gangTags (k : Core) : List Nat := (k.loads.filter fun e => e.slot = k.slot && !e.orphan).map (·.tag)
/-- Every earlier access of the gang has been performed and USC is zero (spec/10 R252, R253). -/
def Core.drained (k : Core) : Bool := k.usc = 0 && k.gangTags.isEmpty
/-- An acquire of this gang still awaits its data (spec/10 R229, R243). -/
def Core.acquiring (k : Core) : Bool := k.gang.acq.any fun t => k.loads.any fun e => e.tag = t && !e.orphan
/-- A release fence of this gang still holds its later stores back (spec/10 R252). -/
def Core.fenced (k : Core) : Bool :=
  match k.gang.rel with
  | none => false
  | some ts => !(k.usc = 0 && !(ts.any fun t => k.loads.any fun e => e.tag = t && !e.orphan))
/-- A lane among these holds a register that arrived pending and is not yet written (spec/15 R358). -/
def Gang.arrivedPending (g : Gang) (lanes : List Nat) : Bool :=
  lanes.any fun i => match g.lanes[i]? with
    | some l => l.arrPend ≠ 0
    | none => false
/-- All lane indices of a gang. -/
def Gang.indices (g : Gang) : List Nat := List.range g.lanes.length

/-! ### Watchpoints (spec/23 R482) -/

/-- An access as a watchpoint sees it: lane, address as compared, size, load, store. -/
structure Seen where
  lane : Nat
  addr : Word
  size : Nat
  load : Bool
  store : Bool
  deriving DecidableEq, Repr

/-- The first address of an access inside a watchpoint's range, if its kind is selected. -/
def Seen.hit (a : Seen) (w : Nat × Nat × Nat × Nat) : Option Word :=
  let (_, first, len, kind) := w
  if (kind = 1 || kind = 3) && a.load || (kind = 2 || kind = 3) && a.store then
    let lo := max a.addr.toNat first
    if lo < a.addr.toNat + a.size ∧ lo < first + len then some (w64 lo) else none
  else none

/-- The watchpoint cause of an instruction's accesses at level 0: the lowest matching point, the first address touched
by the lowest matching lane, every lane that matched (all of them for a gang access). -/
def State.watch (s : State) (gangAccess : Bool) (as : List Seen) : List Cause :=
  if s.me.priv ≠ 0 then [] else
  match s.me.watches.find? fun w => as.any fun a => (a.hit w).isSome with
  | none => []
  | some w =>
    let hits := as.filter fun a => (a.hit w).isSome
    let info := ((hits.head?.bind fun a => a.hit w)).getD 0
    let lanes := if gangAccess then s.allLanes else hits.foldl (fun m a => bput m a.lane true) 0
    [⟨0x10, w.1, info, lanes⟩]

end Sys2Proof.Machine
end

