-- ==== Sys2Proof/Machine/Arrays.lean ====
section
/-! DEFINITION. The arrays of the machine as R462-R469 of spec/22 have them: the error banks (spec/12 Table 12-4), errors that stand
in arrays and the accesses that find them, retention, and the hardware's own writes of global memory. -/
namespace Sys2Proof.Machine

/-- The die and slice number of a slice. -/
def sliceDie (n : Nat) : Nat := n / 256 * 4 + n % 256 / 64
/-- The die of a cluster (spec/01 R20). -/
def dieOfCluster (k : Nat) : Nat := 4 * (k / 3200) + 2 * (k % 3200 / 1600) + k % 40 / 20
/-- The blocks of 64 bytes that `n` bytes at an address touch. -/
def blocksAt (a n : Nat) : List Nat := if n = 0 then [] else (List.range ((a + n - 1) / 64 + 1 - a / 64)).map (· + a / 64)
/-- The blocks of 64 bytes that an operation touches. -/
def blocksTouched : MemOp → List Nat
  | .load ps => (ps.flatMap fun p => blocksAt p.1 p.2).eraseDups
  | .store ws => (ws.flatMap fun w => blocksAt w.addr w.size).eraseDups
  | .amo a _ _ _ | .packet a _ _ _ _ | .cas a _ _ _ | .future a _ _ | .timeline a _ _ | .watch a _ _ | .writeBack a => [a / 64]
  | .counter a _ _ => blocksAt a 32
  | .reduce a _ _ _ _ => blocksAt a 272
  | .arrange a _ _ => blocksAt a 64
  | .put _ pa _ _ _ | .seal pa _ | .quiet pa _ _ _ | .release pa _ _ => [pa / 64]
  | .table f _ _ | .tableRead f => [(tableBase + 16 * f) / 64]
  | .append _ _ | .anchor _ _ => []

/-! ### Error banks (spec/12 Table 12-4, R320) and reads of local memory -/

/-- An error recorded in a bank: `ue` for an uncorrectable one. -/
def ErrorBank.add (b : ErrorBank) (ue : Bool) (array code bits addr : Nat) (synd cyc : Word) : ErrorBank :=
  let w := b.words.getD 0 0
  let ces := fieldOf w 47 32
  let ces' := if ue then ces else min 65535 (ces + 1)
  let withCes (w : Word) : Word := (w &&& ~~~0x0000FFFF00000000#64) ||| w64 (ces' * 2 ^ 32)
  if w.getLsbD 63 && w.getLsbD 62 then
    let w' := if ue then
        (w &&& ~~~0x00FF000000000000#64) ||| w64 (min 255 (fieldOf w 55 48 + 1) * 2 ^ 48) ||| w64 (2 ^ 61)
      else w
    { b with words := withCes w' :: b.words.drop 1 }
  else
    let w' : Word := w64 (2 ^ 63 + bnat ue * 2 ^ 62 + array * 2 ^ 24 + code * 2 ^ 16 + bits)
    { b with words := [withCes w', w64 addr, synd, cyc] }

/-- The core's CYCLE register (spec/01 Table 1-4). -/
def State.cycleOf (s : State) (c : Nat) : Word := (s.core c).cycle + s.sinceReset

/-- A bank that holds an uncorrectable error records no other (R320). -/
def ErrorBank.holds (b : ErrorBank) : Bool := (b.words.getD 0 0).getLsbD 63 && (b.words.getD 0 0).getLsbD 62
/-- An error reported to a core's bank; one that the bank records is written by its die's recorder (R319, R320). -/
def State.bankCore (s : State) (c : Nat) (ue : Bool) (array code bits addr : Nat) : State :=
  let old := (s.core c).bank
  let b := old.add ue array code bits addr (Config.freeValue 1 s.clock) (s.cycleOf c)
  let t := s.modCore c fun k => { k with bank := b }
  if old.holds then t else t.recordCore c 0x02 b.words
/-- An error of local memory that a read or the scrubber finds at a word: an armed injection of spec/12 R306 takes
effect, the error is recorded, and an uncorrectable word becomes poison (spec/22 R462). -/
def State.findError (s : State) (c : Nat) (e : Nat × Word) : State :=
  let ue := e.1 = 2
  let t := s.modCore c fun k =>
    { k with inject := k.inject.filter (· ≠ e), mem := if ue then k.mem.setBad (e.2.toNat / 8) true else k.mem }
  t.bankCore c ue 1 0 (if ue then 0xFFFF else 1) e.2.toNat
/-- Armed local-memory errors in the words that an access of `n` bytes at `a` touches. -/
def Core.errorsAt (k : Core) (a n : Nat) : List (Nat × Word) :=
  k.inject.filter fun e => (e.1 = 1 || e.1 = 2) && (wordsOf a n).contains (e.2.toNat / 8)
/-- A write that covers whole words leaves no inverted bit in them. -/
def Core.overwrite (k : Core) (a n : Nat) : Core :=
  let covers (x : Nat) : Bool := a ≤ x / 8 * 8 && x / 8 * 8 + 8 ≤ a + n
  { k with inject := k.inject.filter fun e => !((e.1 = 1 || e.1 = 2) && covers e.2.toNat), upsets := k.upsets.filter fun u => !covers u.1 }

/-- An access reaches a core's memory: retention counts from here (spec/22 R468). -/
def State.touchCore (s : State) (c : Nat) : State := s.modCore c fun k => { k with lastAccess := s.clock, retention := .awake }
/-- An access reaches a slice: one in retention wakes first, which shows only in time (spec/22 R469). -/
def State.touchSlice (s : State) (n : Nat) : State := { s with sliceRet := mput s.sliceRet n (.awake, s.clock) }

/-! ### Errors of arrays (spec/22 R462-R469) -/

/-- An array in retention. -/
def State.sleeps (s : State) : ArrayRef → Bool
  | .localMem c => (s.core c).retention ≠ .awake
  | .slice n => (mfind s.sliceRet n).any fun x => x.1 ≠ .awake
  | _ => false
/-- ARRAY of an array (spec/12 Table 12-4). -/
def arrayCode : ArrayRef → Nat
  | .localMem _ => 1 | .codeStore _ => 2 | .arrivals _ => 3 | .slice _ => 4 | .stack _ => 5
  | .buffer _ | .clusterBuffer _ => 6 | .gangRegs _ | .pool _ => 7
/-- An error reported to the bank of its array (Table 22-1), and written by its die's recorder when the bank records it; `n` is the
number of bits corrected. -/
def State.bankOf (s : State) (a : ArrayRef) (ue : Bool) (code n addr : Nat) : State :=
  let bits := if ue then 0xFFFF else n
  let add (b : ErrorBank) : ErrorBank := b.add ue (arrayCode a) code bits addr (Config.freeValue 1 s.clock) s.sinceReset
  match a with
  | .localMem c | .codeStore c | .arrivals c | .buffer c | .gangRegs c => s.bankCore c ue (arrayCode a) code bits addr
  | .slice n =>
    let old := mget {} s.sliceBanks n
    let t : State := { s with sliceBanks := mput s.sliceBanks n (add old) }
    if old.holds then t else t.record (sliceDie n) 0x02 3 (n % 256) (add old).words
  | .stack n =>
    let old := mget {} s.stackBanks n
    let t : State := { s with stackBanks := mput s.stackBanks n (add old) }
    if old.holds then t else t.record (n / 8 * 4 + n % 8 / 2) 0x02 4 (n % 8) (add old).words
  | .clusterBuffer n | .pool n =>
    let old := (s.cluster n).bank
    let t := s.modCluster n fun u => { u with bank := add old }
    if old.holds then t else t.record (dieOfCluster n) 0x02 5 (n % 3200) (add old).words
/-- The word of a message in the arrival buffer poisoned. -/
def poisonWord (m : Msg) (j : Nat) : Msg :=
  { m with body := match m.body with
    | .data ws => .data (ws.modify j fun w => { w with poison := true })
    | .carry x => .carry { x with poison := bput x.poison j true }
    | b => b }
/-- A change record, as against a carry or data message. -/
def changeBody : Body → Bool
  | .change _ _ => true
  | _ => false
/-- A word of an entry of the send queues poisoned: the request network's first, then the reply network's. -/
def Core.spoilQueued (k : Core) (n j : Nat) : Core :=
  let spoil (o : Outbound) : Outbound := { o with msg := poisonWord o.msg j }
  if n < k.sendReq.length then { k with sendReq := k.sendReq.modify n spoil } else { k with sendRep := k.sendRep.modify (n - k.sendReq.length) spoil }
/-- A word of an entry of a copy queue poisoned: what the entry moves carries poison (DESIGN CHOICE, log 4). -/
def Core.spoilCopy (k : Core) (q n : Nat) : Core :=
  match mfind k.copyQs q with
  | some x => { k with copyQs := mput k.copyQs q { x with entries := x.entries.modify n fun e => { e with bad := true } } }
  | none => k
/-- What an uncorrectable error does in its array (Table 22-1): the word is poisoned; one of a message's header contains (R467);
a translation entry is discarded. The place in an array is numbered by the model: a halfword of the code store, 64 times the
arrival plus the word, the page of a buffered translation, 16 times the slot plus the register, 4,096 plus 64 times the entry of the
send queues plus the word, 2^20 plus 1,024 times the copy queue plus 64 times its entry, a physical address, an element of the accumulators or 2^20 plus 64 times the lane of a core's slot plus the register. -/
def State.damage (s : State) (a : ArrayRef) (addr : Nat) : State :=
  match a with
  | .localMem c => s.modCore c fun k => { k with mem := k.mem.setBad (addr / 8) true }
  | .codeStore c => s.modCore c fun k => { k with codeBad := mset false k.codeBad (addr / 4) true }
  | .arrivals c =>
    if addr % 64 = 0 then
      if (s.core c).arrivals[addr / 64]?.any fun x => !changeBody x.msg.body then s.push (.containment (s.rectOf c) 5) else s
    else s.modCore c fun k => { k with arrivals := k.arrivals.modify (addr / 64) fun x => ⟨poisonWord x.msg (addr % 64)⟩ }
  | .gangRegs c => s.modCore c fun k =>
    if 2 ^ 20 ≤ addr then k.spoilCopy ((addr - 2 ^ 20) / 1024) ((addr - 2 ^ 20) / 64 % 16)
    else if 4096 ≤ addr then k.spoilQueued ((addr - 4096) / 64) (addr % 64)
    else if addr / 16 < 5 then k.setAt (addr / 16) { k.at (addr / 16) with gPoison := bput (k.at (addr / 16)).gPoison (addr % 16) true }
    else { k with bankPoison := bput k.bankPoison (addr % 16) true }
  | .slice _ | .stack _ => { s with mem := s.mem.setBad (addr / 8) true }
  | .pool n =>
    if addr < 2 ^ 20 then s.modCluster n fun u => { u with accBad := mset false u.accBad addr true }
    else
      let x := (addr - 2 ^ 20) / 64
      s.modCore (x / 256) fun k => let g := k.at (x / 32 % 8)
        k.setAt (x / 32 % 8) { g with lanes := g.lanes.modify (x % 32) fun l => { l with poison := bput l.poison (addr % 64) true } }
  | .buffer _ | .clusterBuffer _ => s
/-- Every error that stands in an array. -/
def State.allUpsets (s : State) : List (ArrayRef × Nat × Bool) :=
  s.upsets ++ s.cores.flatMap fun e => e.2.upsets.map fun u => (.localMem e.1, u)
/-- None does. -/
def State.sound (s : State) : Bool := s.upsets.isEmpty && s.cores.all (·.2.upsets.isEmpty)
/-- An error stands no longer. -/
def State.unstand (s : State) (u : ArrayRef × Nat × Bool) : State :=
  match u.1 with
  | .localMem c => s.modCore c fun k => { k with upsets := k.upsets.filter (· ≠ u.2) }
  | _ => { s with upsets := s.upsets.filter (· ≠ u) }
/-- The core that runs the supervisor whose array it is: system core 0 of its package (log 51). -/
def supervisorArray : ArrayRef → Option Nat
  | .localMem c | .codeStore c | .arrivals c | .buffer c | .gangRegs c => if sysBase ≤ c && (c - sysBase) % 64 = 0 then some c else none
  | _ => none
/-- A standing error found: recorded, and what follows. One of a translation buffer is recorded as corrected, and its entry is
discarded. One in a core that runs the supervisor is fatal (R478). -/
def State.findUpset (s : State) (code : Nat) (u : ArrayRef × Nat × Bool) : State :=
  let t := s.unstand u
  match u.1 with
  | .buffer c => (t.modCore c fun k => { k with tlb := k.tlb.filter fun e => !e.maps u.2.1 }).bankOf u.1 false code 1 u.2.1
  | .clusterBuffer n => (t.modCluster n fun k => { k with tlb := k.tlb.filter fun e => !e.maps u.2.1 }).bankOf u.1 false code 1 u.2.1
  | a => if u.2.2 then
      let t := (t.bankOf a true code 1 u.2.1).damage a u.2.1
      match supervisorArray a with
      | some c => t.push (.fatalError ⟨1, 2, (c - sysBase) % 64, t.dieOf c⟩ (arrayCode a) u.2.1)
      | none => t
    else t.bankOf a false code 1 u.2.1
/-- The order in which errors reach a bank: uncorrectable ones first, then by array and place (R320). -/
def upsetBefore (x y : ArrayRef × Nat × Bool) : Bool :=
  (x.2.2 && !y.2.2) || (x.2.2 = y.2.2 && (arrayCode x.1 < arrayCode y.1 || (arrayCode x.1 = arrayCode y.1 && x.2.1 ≤ y.2.1)))
def insertUpset (x : ArrayRef × Nat × Bool) : List (ArrayRef × Nat × Bool) → List (ArrayRef × Nat × Bool)
  | [] => [x]
  | y :: ys => if upsetBefore x y then x :: y :: ys else y :: insertUpset x ys
/-- The standing errors that a reader meets are found. -/
def State.findUpsets (s : State) (code : Nat) (meets : ArrayRef → Nat → Bool) : State :=
  ((s.allUpsets.filter fun u => meets u.1 u.2.1).foldr insertUpset []).foldl (fun t u => t.findUpset code u) s
/-- An array that wakes decodes each group of 256 bits in which errors stand (R468, R469): up to 2 bits are corrected, with their
number; with three or more all four words are poisoned. The 4-bit mask that the group keeps in retention is the poison marks of its four
words, which stand throughout. An error that SEC-DED cannot correct counts as three bits (log 4). -/
def State.decodeGroup (s : State) (a : ArrayRef) (g : Nat) : State :=
  let us := s.allUpsets.filter fun u => u.1 = a && u.2.1 / 32 = g
  let n := (us.map fun u => if u.2.2 then 3 else 1).sum
  let t := us.foldl State.unstand s
  if n ≤ 2 then t.bankOf a false 1 n (32 * g)
  else (List.range 4).foldl (fun t i => t.damage a (32 * g + 8 * i)) (t.bankOf a true 1 0 (32 * g))
/-- An access wakes an array in retention: what stands in it is decoded first (R469). -/
def State.rouseArray (s : State) (a : ArrayRef) : State :=
  if s.sound || !s.sleeps a then s
  else (((s.allUpsets.filter (·.1 = a)).map (·.2.1 / 32)).eraseDups).foldl (fun t g => t.decodeGroup a g) s
/-- A read of local memory finds the errors of the words it touches: armed injections, and what stands in them. -/
def State.scanLocal (s : State) (c a n : Nat) : State :=
  let t := ((s.core c).errorsAt a n).foldl (fun t e => t.findError c e) s
  if t.sound then t else t.findUpsets 0 fun x y => x = .localMem c && (wordsOf a n).contains (y / 8)
/-- An access reaches a core's local memory: it wakes first. -/
def State.wakeCore (s : State) (c : Nat) : State := (s.rouseArray (.localMem c)).touchCore c
/-- An access reaches the slices of some blocks: they wake first. -/
def State.wakeBlocks (s : State) (bs : List Nat) : State :=
  ((bs.map fun b => sliceOf (64 * b)).eraseDups).foldl (fun t n => (t.rouseArray (.slice n)).touchSlice n) s
/-- A read of blocks by a slice finds what stands in them, in its own array and in HBM. -/
def State.scanBlocks (s : State) (bs : List Nat) : State :=
  s.findUpsets 0 fun a addr => match a with
    | .slice _ | .stack _ => bs.contains (addr / 64)
    | _ => false
/-- A read of bytes of global memory: their slices wake, and what stands in their blocks is found (R338, R462, R469). -/
def State.meetGlobal (s : State) (a n : Nat) : State :=
  let bs := blocksAt a n
  (s.wakeBlocks bs).scanBlocks bs
/-- A write of whole words leaves no error in them. -/
def State.cleanWords (s : State) (ws : List Wr) : State :=
  { s with upsets := s.upsets.filter fun u => match u.1 with
    | .slice _ | .stack _ => !ws.any fun w => w.addr ≤ u.2.1 / 8 * 8 && u.2.1 / 8 * 8 + 8 ≤ w.addr + w.size
    | _ => true }
/-- Writes find the errors of the words that they cover in part; in those they cover whole none is left. -/
def State.overBlocks (s : State) (ws : List Wr) : State :=
  if s.upsets.isEmpty then s
  else
    let meets (u : Nat) (w : Wr) : Bool := w.addr < u / 8 * 8 + 8 && u / 8 * 8 < w.addr + w.size
    let covers (u : Nat) (w : Wr) : Bool := w.addr ≤ u / 8 * 8 && u / 8 * 8 + 8 ≤ w.addr + w.size
    (s.findUpsets 0 fun a u => match a with
      | .slice _ | .stack _ => ws.any (meets u) && !ws.any (covers u)
      | _ => false).cleanWords ws

def State.writePhys (s : State) (pa n : Nat) (v : Word) (p : Bool := false) : State :=
  { s with mem := s.mem.store pa n v p }
/-- A write of bytes of a partition's global memory, if the page is there; its slices wake (spec/22 R469). -/
def State.writeV (s : State) (part a : Nat) (bs : List Byte) : State :=
  match s.resolve part a true with
  | some pa => let t := s.wakeBlocks (blocksAt pa bs.length); { t with mem := t.mem.write pa bs false }
  | none => s


end Sys2Proof.Machine
end

