-- ==== Sys2Proof/Machine/Float.lean ====
section
/-! DEFINITION. Number formats and arithmetic (spec/08): binary floating point, the rounding modes with the generator of
stochastic rounding, conversions, Microscaling and shared-exponent blocks. Every value is exact until it is rounded. -/
namespace Sys2Proof.Machine

/-- A real value, or what has none. `fin neg m e` is (-1)^neg * m * 2^e; zero keeps its sign. -/
inductive Num where
  | nan
  | inf (neg : Bool)
  | fin (neg : Bool) (m : Nat) (e : Int)
  deriving DecidableEq, Repr

/-- Rounding modes of Table 8-2. -/
inductive Mode where
  | rne | rz | rpi | rni | rodd | rsr
  deriving DecidableEq, Repr

/-- What the all-ones exponent of a format means: infinities and NaNs; the same, but never produced by rounding, as in an
MX element (R184, R195); E4M3's one NaN; or more finite values. -/
inductive Top where
  | ieee | saturating | oneNan | finite
  deriving DecidableEq, Repr

/-- A floating-point format: exponent and fraction bits, bias, top, and generator bits (Tables 8-1, 8-3, 8-5). -/
structure Fmt where
  eb : Nat
  fb : Nat
  bias : Nat
  top : Top
  r : Nat
  deriving DecidableEq, Repr

def Fmt.f64 : Fmt := ⟨11, 52, 1023, .ieee, 32⟩
def Fmt.f32 : Fmt := ⟨8, 23, 127, .ieee, 24⟩
def Fmt.bf16 : Fmt := ⟨8, 7, 127, .ieee, 16⟩
def Fmt.f16 : Fmt := ⟨5, 10, 15, .ieee, 16⟩
def Fmt.e4m3 : Fmt := ⟨4, 3, 7, .oneNan, 8⟩
def Fmt.e5m2 : Fmt := ⟨5, 2, 15, .ieee, 8⟩
/-- E5M2 as an MX element: an element that overflows saturates (R195). -/
def Fmt.mxe5m2 : Fmt := ⟨5, 2, 15, .saturating, 8⟩
def Fmt.e2m3 : Fmt := ⟨2, 3, 1, .finite, 8⟩
def Fmt.e3m2 : Fmt := ⟨3, 2, 3, .finite, 8⟩
def Fmt.e2m1 : Fmt := ⟨2, 1, 1, .finite, 8⟩
/-- Bits of an element. -/
def Fmt.bits (f : Fmt) : Nat := 1 + f.eb + f.fb

/-- The value that a bit pattern encodes (R180, R193). -/
def decodeFloat (f : Fmt) (x : Nat) : Num :=
  let neg := (x / 2 ^ (f.eb + f.fb)) % 2 = 1
  let ex := x / 2 ^ f.fb % 2 ^ f.eb
  let fr := x % 2 ^ f.fb
  if ex = 0 then .fin neg fr (1 - (f.bias : Int) - f.fb)
  else if ex = 2 ^ f.eb - 1 ∧ (f.top = .ieee ∨ f.top = .saturating) then (if fr = 0 then .inf neg else .nan)
  else if ex = 2 ^ f.eb - 1 ∧ f.top = .oneNan ∧ fr = 2 ^ f.fb - 1 then .nan
  else .fin neg (fr + 2 ^ f.fb) ((ex : Int) - f.bias - f.fb)

/-- The sign bit in place. -/
def Fmt.sign (f : Fmt) (neg : Bool) : Nat := if neg then 2 ^ (f.eb + f.fb) else 0
/-- The canonical NaN (Table 8-1); formats without one produce none (R195). -/
def Fmt.nan (f : Fmt) : Nat :=
  match f.top with
  | .ieee | .saturating => (2 ^ f.eb - 1) * 2 ^ f.fb + 2 ^ (f.fb - 1)
  | .oneNan => 2 ^ (f.eb + f.fb) - 1
  | .finite => 0
/-- The pattern of the largest finite magnitude. -/
def Fmt.largest (f : Fmt) : Nat :=
  match f.top with
  | .ieee | .saturating => (2 ^ f.eb - 2) * 2 ^ f.fb + (2 ^ f.fb - 1)
  | .oneNan => 2 ^ (f.eb + f.fb) - 2
  | .finite => 2 ^ (f.eb + f.fb) - 1

/-- `m * 2^e` rounded to a whole number of units 2^ue, in magnitude (R183, R185): `g` is the generator's output and
`r` the bits of it that stochastic rounding uses. -/
def roundUnits (mode : Mode) (neg : Bool) (g r m : Nat) (e ue : Int) : Nat :=
  if ue ≤ e then m * 2 ^ (e - ue).toNat
  else
    let sh := (ue - e).toNat
    let q := m / 2 ^ sh
    let rest := m % 2 ^ sh
    match mode with
    | .rne => if 2 ^ sh < 2 * rest ∨ (2 * rest = 2 ^ sh ∧ q % 2 = 1) then q + 1 else q
    | .rz => q
    | .rpi => if rest ≠ 0 ∧ !neg then q + 1 else q
    | .rni => if rest ≠ 0 ∧ neg then q + 1 else q
    | .rodd => if rest ≠ 0 then q / 2 * 2 + 1 else q
    | .rsr => if 2 ^ (sh + r) ≤ rest * 2 ^ r + g / 2 ^ (64 - r) * 2 ^ sh then q + 1 else q

/-- The exponent of the binade of `m * 2^e`, for m ≠ 0. -/
def binade (m : Nat) (e : Int) : Int := (Nat.log2 m : Int) + e

/-- A rounded magnitude that exceeds the largest finite value (R184). -/
def Fmt.overflow (f : Fmt) (mode : Mode) (neg : Bool) : Nat :=
  let toInf : Bool := match mode with
    | .rne | .rsr => true
    | .rpi => !neg
    | .rni => neg
    | _ => false
  f.sign neg + if f.top = .ieee ∧ toInf then (2 ^ f.eb - 1) * 2 ^ f.fb else f.largest

/-- `Round` of spec/03 Table 3-9 (R181, R183-R185, R190): the bit pattern of a value rounded once. -/
def roundFloat (f : Fmt) (mode : Mode) (g : Nat) : Num → Nat
  | .nan => f.nan
  | .inf neg => if f.top = .ieee then f.sign neg + (2 ^ f.eb - 1) * 2 ^ f.fb else f.sign neg + f.largest
  | .fin neg m e =>
    if m = 0 then f.sign neg
    else
      let ue := max (binade m e) (1 - (f.bias : Int)) - f.fb
      let q := roundUnits mode neg g f.r m e ue
      let mag := if q < 2 ^ f.fb then q else
        -- a carry into the next binade leaves fraction 0 and raises the exponent field
        (ue + f.fb + f.bias - 1).toNat * 2 ^ f.fb + q
      if f.largest < mag then f.overflow mode neg else f.sign neg + mag

/-! ### Exact arithmetic -/

/-- A signed integer times a power of two as a value; zero is +0 (R182). -/
def Num.ofInt (v e : Int) : Num := .fin (v < 0) v.natAbs e
def signedOf (neg : Bool) (m : Nat) : Int := if neg then -(m : Int) else m
/-- The exact sum (R182, R199): equal zeros keep their sign, opposite infinities give NaN. -/
def Num.add : Num → Num → Num
  | .nan, _ | _, .nan => .nan
  | .inf a, .inf b => if a = b then .inf a else .nan
  | .inf a, _ => .inf a
  | _, .inf b => .inf b
  | .fin na ma ea, .fin nb mb eb =>
    if ma = 0 ∧ mb = 0 then .fin (na && nb) 0 0
    else
      let e := min ea eb
      .ofInt (signedOf na (ma * 2 ^ (ea - e).toNat) + signedOf nb (mb * 2 ^ (eb - e).toNat)) e
def Num.neg : Num → Num
  | .nan => .nan
  | .inf s => .inf (!s)
  | .fin s m e => .fin (!s) m e
/-- The exact product (R181). -/
def Num.mul : Num → Num → Num
  | .nan, _ | _, .nan => .nan
  | .inf a, .inf b => .inf (a != b)
  | .inf a, .fin b m _ => if m = 0 then .nan else .inf (a != b)
  | .fin a m _, .inf b => if m = 0 then .nan else .inf (a != b)
  | .fin a ma ea, .fin b mb eb => .fin (a != b) (ma * mb) (ea + eb)
/-- A value times 2^k. -/
def Num.scale (k : Int) : Num → Num
  | .fin s m e => .fin s m (e + k)
  | x => x
/-- The exact quotient, cut far below every format's last place, the rest kept as a sticky bit (Table 9-5). -/
def Num.div : Num → Num → Num
  | .nan, _ | _, .nan => .nan
  | .inf _, .inf _ => .nan
  | .inf a, .fin b _ _ => .inf (a != b)
  | .fin a _ _, .inf b => .fin (a != b) 0 0
  | .fin a ma ea, .fin b mb eb =>
    if mb = 0 then (if ma = 0 then .nan else .inf (a != b))
    else if ma = 0 then .fin (a != b) 0 0
    else
      let n := ma * 2 ^ 120
      .fin (a != b) (2 * (n / mb) + (if n % mb = 0 then 0 else 1)) (ea - eb - 121)
/-- The whole square root. -/
def isqrtAux (n : Nat) : Nat → Nat → Nat
  | 0, x => x
  | k + 1, x => let y := x + 2 ^ k; isqrtAux n k (if y * y ≤ n then y else x)
def isqrt (n : Nat) : Nat := isqrtAux n (Nat.log2 n / 2 + 1) 0
/-- The square root, with a sticky bit as `Num.div` (Table 9-5). -/
def Num.sqrt : Num → Num
  | .nan => .nan
  | .inf s => if s then .nan else .inf false
  | .fin s m e =>
    if m = 0 then .fin s 0 0
    else if s then .nan
    else
      let sh : Nat := 128 + (if e % 2 = 0 then 0 else 1)
      let n := m * 2 ^ sh
      let q := isqrt n
      .fin false (2 * q + (if q * q = n then 0 else 1)) ((e - sh) / 2 - 1)
/-- Order of values: none where a NaN takes part. -/
def Num.cmp : Num → Num → Option Ordering
  | .nan, _ | _, .nan => none
  | .inf a, .inf b => some (if a = b then .eq else if a then .lt else .gt)
  | .inf a, _ => some (if a then .lt else .gt)
  | _, .inf b => some (if b then .gt else .lt)
  | .fin na ma ea, .fin nb mb eb =>
    let e := min ea eb
    some (compare (signedOf na (ma * 2 ^ (ea - e).toNat)) (signedOf nb (mb * 2 ^ (eb - e).toNat)))
def Num.isNeg : Num → Bool
  | .nan => false
  | .inf s => s
  | .fin s _ _ => s
/-- Whether the first is the lesser, with -0 below +0 (Table 9-5). -/
def Num.below (a b : Num) : Bool :=
  match a.cmp b with
  | some .lt => true
  | some .eq => a.isNeg && !b.isNeg
  | _ => false
def Num.isNan : Num → Bool
  | .nan => true
  | _ => false
def Num.isFin : Num → Bool
  | .fin _ _ _ => true
  | _ => false
/-- `vfmin` and `vfmax` on bit patterns. -/
def minFloat (f : Fmt) (x y : Nat) : Nat :=
  let a := decodeFloat f x; let b := decodeFloat f y
  if a.isNan || b.isNan then f.nan else if b.below a then y else x
def maxFloat (f : Fmt) (x y : Nat) : Nat :=
  let a := decodeFloat f x; let b := decodeFloat f y
  if a.isNan || b.isNan then f.nan else if a.below b then y else x
/-- The exact sum of a list. -/
def Num.sum (l : List Num) (acc : Num) : Num := l.foldl Num.add acc

/-! ### The generator (R186) -/

/-- The output for a job seed and a counter. -/
def generator (seed : Word) (c : Nat) : Nat :=
  let z := (w64 c ^^^ seed) + 0x9E3779B97F4A7C15#64
  let z := (z ^^^ z >>> 30) * 0xBF58476D1CE4E5B9#64
  let z := (z ^^^ z >>> 27) * 0x94D049BB133111EB#64
  (z ^^^ z >>> 31).toNat
/-- The counter of a lane rounding (Table 8-4). -/
def laneCounter (rank lane draw : Nat) : Nat := rank * 2 ^ 44 + lane * 2 ^ 32 + draw
/-- The counter of a matrix rounding (Table 8-4). -/
def matrixCounter (rank : Nat) (drain : Bool) (element draw : Nat) : Nat :=
  rank * 2 ^ 44 + 2 ^ 43 + bnat drain * 2 ^ 42 + element * 2 ^ 32 + draw

/-! ### Integers and floating point (R191) -/

/-- An integer type: width and signedness (Table 9-6). -/
structure IntTy where
  bits : Nat
  signed : Bool
  deriving DecidableEq, Repr
def IntTy.least (t : IntTy) : Int := if t.signed then -(2 ^ (t.bits - 1) : Nat) else 0
def IntTy.most (t : IntTy) : Int := if t.signed then (2 ^ (t.bits - 1) : Nat) - 1 else (2 ^ t.bits : Nat) - 1
/-- Rounded to a whole number and saturated; NaN gives 0. -/
def toIntTy (t : IntTy) (mode : Mode) : Num → Int
  | .nan => 0
  | .inf s => if s then t.least else t.most
  | .fin s m e => min t.most (max t.least (signedOf s (roundUnits mode s 0 0 m e 0)))
/-- The number that the low bits of a word hold. -/
def ofIntTy (t : IntTy) (w : Word) : Int :=
  if t.signed then (BitVec.ofNat t.bits w.toNat).toInt else (w.toNat % 2 ^ t.bits : Nat)
def intTyOf (c : Nat) : IntTy := ⟨64 / 2 ^ (c / 2), c % 2 = 0⟩
def fmtOf (c : Nat) : Fmt :=
  match c with
  | 0 => .f64 | 1 => .f32 | 2 => .bf16 | 3 => .f16 | 4 => .e4m3 | _ => .e5m2

/-! ### Microscaling blocks (R192-R195) -/

/-- Element formats by format code F 0-4 (Table 8-5); F 5 is MXINT8. -/
def mxFmt (f : Nat) : Fmt :=
  match f with
  | 0 => .e4m3 | 1 => .mxe5m2 | 2 => .e2m3 | 3 => .e3m2 | _ => .e2m1
def mxEmax (f : Nat) : Int :=
  match f with
  | 0 => 8 | 1 => 15 | 2 => 2 | 3 => 4 | 4 => 2 | _ => 0
/-- One element under a scale byte. -/
def mxDecode (f scale x : Nat) : Num :=
  if scale = 255 then .nan
  else
    let k : Int := (scale : Int) - 127
    if f = 5 then Num.ofInt (BitVec.ofNat 8 x).toInt (k - 6)
    else (decodeFloat (mxFmt f) (x % 2 ^ (mxFmt f).bits)).scale k
/-- The largest magnitude among values, as a nonnegative value; none counts as zero. -/
def largestOf (vs : List Num) : Num :=
  vs.foldl (fun a v => match v with
    | .fin _ m e => if a.below (.fin false m e) then .fin false m e else a
    | _ => a) (.fin false 0 0)
/-- A result block: its scale byte and its element patterns (R195). `g` gives the generator's output for element k. -/
def mxEncode (f : Nat) (mode : Mode) (g : Nat → Nat) (vs : List Num) : Nat × List Nat :=
  if vs.any fun v => !v.isFin then (255, vs.map fun _ => 0)
  else match largestOf vs with
    | .fin _ 0 _ => (127, vs.map fun _ => 0)
    | .fin _ m e =>
      let ex := min 127 (max (-127) (binade m e - mxEmax f))
      let enc (k : Nat) (v : Num) : Nat :=
        match v with
        | .fin s m e =>
          if f = 5 then
            let q := signedOf s (roundUnits mode s (g k) 8 m (e - ex) (-6))
            (BitVec.ofInt 8 (min 127 (max (-128) q))).toNat
          else roundFloat (mxFmt f) mode (g k) (.fin s m (e - ex))
        | _ => 0
      ((ex + 127).toNat, vs.mapIdx enc)
    | _ => (127, vs.map fun _ => 0)

/-! ### Shared-exponent blocks (R196-R198) -/

/-- Mantissa bits of `.sx3`, `.sx5`, `.sx8` (F 6-8). -/
def sxM (f : Nat) : Nat := match f with | 6 => 2 | 7 => 4 | _ => 7
/-- Bits of the element fields, and of a block. -/
def sxW (f : Nat) : Nat := 16 * (sxM f + 1)
def sxBlock (f : Nat) : Nat := sxW f + 16
/-- The 16 values of a block. -/
def sxDecode (f blk : Nat) : List Num :=
  let m := sxM f
  let ex := blk / 2 ^ (sxW f + 8) % 256
  (List.range 16).map fun k =>
    let fld := blk / 2 ^ ((m + 1) * k) % 2 ^ (m + 1)
    let sh := blk / 2 ^ (sxW f + 2 * (k / 4)) % 4
    let mag := fld % 2 ^ m
    if ex = 255 then .nan
    else .fin (mag ≠ 0 && fld / 2 ^ m = 1) mag ((ex : Int) - 127 - sh - m)
/-- The least k with |v| ≤ T * 2^k, T = 1 - 2^-m; none for zero. -/
def sxNeed (m : Nat) : Num → Option Int
  | .fin _ mm e =>
    if mm = 0 then none
    else
      let l := Nat.log2 mm
      some (if mm * 2 ^ m ≤ (2 ^ m - 1) * 2 ^ (l + 1) then (l : Int) + e + 1 else (l : Int) + e + 2)
  | _ => none
def maxNeed (m : Nat) (vs : List Num) : Option Int :=
  vs.foldl (fun a v => match a, sxNeed m v with
    | some x, some y => some (max x y)
    | none, y => y
    | x, none => x) none
/-- A block encoded from 16 values (R198). When E is capped at 254 and a value exceeds T * 2^127, no shift of 0-3 meets step 3
for its quartet: the shift stored is 0 (DESIGN CHOICE, log 45). -/
def sxEncode (f : Nat) (mode : Mode) (g : Nat → Nat) (vs : List Num) : Nat :=
  let m := sxM f
  if vs.any fun v => !v.isFin then 255 * 2 ^ (sxW f + 8)
  else
    let ex : Int := match maxNeed m vs with
      | none => 0
      | some k => min 254 (max 0 (k + 127))
    let shift (q : Nat) : Int := match maxNeed m ((vs.drop (4 * q)).take 4) with
      | none => 3
      | some k => min 3 (max 0 (ex - 127 - k))
    let enc (k : Nat) (v : Num) : Nat :=
      match v with
      | .fin s mm e =>
        let q := min (2 ^ m - 1) (roundUnits mode s (g k) 8 mm e (ex - 127 - shift (k / 4) - m))
        (q + if s && q ≠ 0 then 2 ^ m else 0) * 2 ^ ((m + 1) * k)
      | _ => 0
    ex.toNat * 2 ^ (sxW f + 8) + ((List.range 4).map fun q => (shift q).toNat * 2 ^ (sxW f + 2 * q)).sum
      + (vs.mapIdx enc).sum

end Sys2Proof.Machine
end

