-- ==== Sys2Proof/Machine/Checked.lean ====
section
/-! DEFINITION. Unit formats (spec/11 Table 11-2) and checked chunks (spec/18 R408-R419): residues, value sums, trailers,
the compute check and the folding of one chunk into another. -/
namespace Sys2Proof.Machine

/-! ### Unit formats (Table 11-2) -/

/-- Bytes of a unit; 0 for a reserved code. -/
def unitBytes (fmt : Nat) : Nat :=
  match fmt with
  | 0x01 | 0x02 | 0x0D | 0x0E => 1
  | 0x03 | 0x04 | 0x0B | 0x0C => 2
  | 0x05 | 0x06 | 0x0A => 4
  | 0x07 | 0x08 | 0x09 => 8
  | 0x10 | 0x11 | 0x15 => 33
  | 0x12 | 0x13 => 25
  | 0x14 => 17
  | 0x18 => 8
  | 0x19 => 12
  | 0x1A => 18
  | _ => 0
/-- Alignment of a unit: its size for a scalar, 1 for a block. -/
def unitAlign (fmt : Nat) : Nat := if fmt < 0x10 then unitBytes fmt else 1
/-- The depth of a k-step; 0 for a format that the matrix unit does not read. -/
def matrixDepth (fmt : Nat) : Nat :=
  match fmt with
  | 0x01 | 0x0D | 0x0E | 0x10 | 0x11 | 0x15 | 0x1A => 16
  | 0x0B | 0x0C => 8
  | 0x12 | 0x13 | 0x14 | 0x18 | 0x19 => 32
  | _ => 0
/-- Whether a format has the drain use. -/
def drainFormat (fmt : Nat) : Bool := (0x09 ≤ fmt && fmt ≤ 0x0E) || (0x10 ≤ fmt && fmt ≤ 0x15) || (0x18 ≤ fmt && fmt ≤ 0x1A)
/-- The floating-point format of a scalar code. -/
def floatOf (fmt : Nat) : Option Fmt :=
  match fmt with
  | 0x09 => some .f64 | 0x0A => some .f32 | 0x0B => some .bf16 | 0x0C => some .f16 | 0x0D => some .e4m3 | 0x0E => some .e5m2
  | _ => none
/-- The value of one element of a scalar code. -/
def elementOf (fmt x : Nat) : Num :=
  match floatOf fmt with
  | some f => decodeFloat f x
  | none =>
    let n := 8 * unitBytes fmt
    .ofInt (if fmt % 2 = 1 then (BitVec.ofNat n x).toInt else (x % 2 ^ n : Nat)) 0

/-! ### Images -/

/-- A list of bytes as a number, lowest byte first. -/
def leNat : List Byte → Nat
  | [] => 0
  | b :: bs => b.toNat + 256 * leNat bs
/-- The consecutive elements of `n` bytes each. -/
def elemsOf (n : Nat) : Nat → List Byte → List Nat
  | 0, _ => []
  | k + 1, bs => leNat (bs.take n) :: elemsOf n k (bs.drop n)
/-- A sub-field of an image. -/
def imageAt (img : List Byte) (off n : Nat) : Nat := leNat ((img.drop off).take n)

/-- The prime 2^32 - 5 of R409. -/
def residuePrime : Nat := 4294967291
/-- The residue of an image: its 67 words from byte 4 (R409). -/
def residueOf (img : List Byte) : Nat := (elemsOf 4 67 (img.drop 4)).sum % residuePrime
/-- The residue check; a stored value of 2^32 - 5 or more never passes. -/
def residueOk (img : List Byte) : Bool := imageAt img 0 4 = residueOf img
/-- The values of the 256 data bytes. -/
def chunkValues (fmt : Nat) (data : List Byte) : List Num :=
  (elemsOf (unitBytes fmt) (256 / unitBytes fmt) data).map (elementOf fmt)
/-- An exact sum; +0 when it is zero (R410). -/
def exactSum (vs : List Num) : Num := Num.sum vs (.fin false 0 0)
/-- The value sum, binary64 (R410). -/
def valueSum (fmt : Nat) (data : List Byte) : Nat := roundFloat .f64 .rne 0 (exactSum (chunkValues fmt data))
def chunkStep (img : List Byte) : Nat := imageAt img 0x0C 1
def chunkSuspect (img : List Byte) : Bool := imageAt img 0x0D 1 % 2 = 1
def chunkVsum (img : List Byte) : Nat := imageAt img 4 8
def chunkData (img : List Byte) : List Byte := (img.drop 16).take 256
/-- An image with a fresh residue (Table 18-1). -/
def sealImage (vsum step : Nat) (suspect : Bool) (data : List Byte) : List Byte :=
  let body := bytesOf vsum 8 ++ bytesOf step 1 ++ bytesOf (bnat suspect) 1 ++ bytesOf 0 2 ++ data
  bytesOf (residueOf (bytesOf 0 4 ++ body)) 4 ++ body
/-- An image with a trailer computed from its data. -/
def makeImage (fmt step : Nat) (suspect : Bool) (data : List Byte) : List Byte :=
  sealImage (valueSum fmt data) step suspect data

/-! ### The compute check (R417) -/

/-- The unit of a format at a magnitude, as an exponent (spec/08 R183). -/
def unitExp (f : Fmt) : Num → Int
  | .fin _ m e => (if m = 0 then 1 - (f.bias : Int) else max (binade m e) (1 - (f.bias : Int))) - f.fb
  | _ => 1 - (f.bias : Int) - f.fb
def Num.abs : Num → Num
  | .fin _ m e => .fin false m e
  | .inf _ => .inf false
  | .nan => .nan
/-- Whether the first is at most the second. -/
def Num.le (a b : Num) : Bool :=
  match a.cmp b with
  | some .lt | some .eq => true
  | _ => false
/-- The binary64 unit at the greatest of some magnitudes. -/
def unitTop (vs : List Num) : Int := vs.foldl (fun u v => max u (unitExp .f64 v)) (-1074)
/-- The check of a reduction step; none where it is not made. -/
def computeCheck (f : Fmt) (va vb : Num) (os : List Num) : Option Bool :=
  let s := exactSum os
  if !(va.isFin && vb.isFin && s.isFin && os.all Num.isFin) then none
  else
    let bound := exactSum ((os.map fun o => Num.fin false 1 (unitExp f o - 1)) ++ [.fin false 1 (unitTop [va, vb, s] + 1)])
    some ((s.add (va.add vb).neg).abs.le bound)

/-- A chunk fold: its status (0 done, 1 and 2 transport faults of source and destination as the caller numbers them, 3
compute fault), the resulting image, and the EXPECTED and FOUND words of a compute fault (R417, R424, R422). -/
structure Folded where
  image : List Byte
  sums : List Num
  ok : Option Bool
  expected : Nat
  found : Nat
  deriving DecidableEq, Repr

/-- The element-wise sum of two images with its fresh trailer; `suspect` is the mark of the output before a failed check
sets it. -/
def foldImages (fmt : Nat) (a b : List Byte) (suspect : Bool) : Folded :=
  match floatOf fmt with
  | none => ⟨a, [], none, 0, 0⟩
  | some f =>
    let n := unitBytes fmt
    let xs := elemsOf n (256 / n) (chunkData a)
    let ys := elemsOf n (256 / n) (chunkData b)
    let outs := (xs.zip ys).map fun p => roundFloat f .rne 0 ((decodeFloat f p.1).add (decodeFloat f p.2))
    let vals := outs.map (decodeFloat f)
    let va := decodeFloat .f64 (chunkVsum a)
    let vb := decodeFloat .f64 (chunkVsum b)
    let data := outs.flatMap fun o => bytesOf o n
    let step := (max (chunkStep a) (chunkStep b) + 1) % 256
    let vsum := roundFloat .f64 .rne 0 (exactSum vals)
    ⟨sealImage vsum step suspect data, vals, if suspect then none else computeCheck f va vb vals,
     roundFloat .f64 .rne 0 (va.add vb), vsum⟩

/-- The same image with its SUSPECT mark set and its residue recomputed (R416). -/
def markSuspect (img : List Byte) : List Byte := sealImage (chunkVsum img) (chunkStep img) true (chunkData img)

/-- A chunk reduction under a mode of R412: the status word of R422, the image to write (none when held), and the fault
that a record reports: 1 source, 2 destination, 3 compute. An image with a poisoned word fails its check (spec/22 Table 22-6). -/
def reduceChunk (fmt mode : Nat) (dst src : List Byte) (badDst badSrc : Bool) : Nat × Option (List Byte) × List Nat × Folded :=
  let bad := if mode = 0 then [] else
    (if residueOk src && !badSrc then [] else [1]) ++ (if residueOk dst && !badDst then [] else [2])
  let suspect := mode ≠ 0 && (chunkSuspect src || chunkSuspect dst || !bad.isEmpty)
  let f := foldImages fmt dst src suspect
  let faults := bad ++ if mode ≠ 0 && f.ok = some false then [3] else []
  let st := faults.headD 0
  if st ≠ 0 ∧ mode = 2 then (st + 256, none, faults, f)
  else (st, some (if st = 3 then markSuspect f.image else f.image), faults, f)

/-- The format of a chunk reduction (R422). -/
def reduceFormat (op : Nat) : Nat :=
  match op with
  | 0x20 => 0x0A | 0x21 => 0x09 | 0x22 => 0x0B | _ => 0x0C

/-- Words 2 to 4 of a chunk fault record (Table 18-5): STEP, KIND, HOP, HELD, SOURCE; an agent as FROM or TO. -/
def recordWord (step : Nat) (compute : Bool) (hop : Nat) (held : Bool) (source : Nat) : Word :=
  w64 (step + 256 * bnat compute + 512 * hop + 4096 * bnat held + 65536 * source)
def agentCore (c : Nat) : Word := w64 (2 ^ 60 + c / 65536 * 2 ^ 48 + c % 65536)
def agentSlice (n : Nat) : Word := w64 (2 * 2 ^ 60 + n / 256 * 2 ^ 48 + n % 256)
def agentPort (n : Nat) : Word := w64 (3 * 2 ^ 60 + n / 18 * 2 ^ 48 + n % 18)
def agentMatrix (pkg : Nat) : Word := w64 (4 * 2 ^ 60 + pkg * 2 ^ 48)

end Sys2Proof.Machine
end

