-- ==== Sys2Proof/Machine/Mailbox.lean ====
section
/-! DEFINITION. The supervisor mailbox (spec/24 R495, R496): entries of the rings as bytes, the host's rings and the pair of rings in
each partition's memory, responses, and what debuggers are told. -/
namespace Sys2Proof.Machine

/-- A byte of a ring of 64 entries of 64 bytes. -/
def ringBytes (r : List (Nat × Byte)) (a n : Nat) : List Byte := (List.range n).map fun i => mget 0 r ((a + i) % 4096)
def putRing (r : List (Nat × Byte)) (a : Nat) (bs : List Byte) : List (Nat × Byte) :=
  (bs.zipIdx).foldl (fun r e => mset 0 r ((a + e.2) % 4096) e.1) r
/-- Entries that a header of 16 bytes and a payload take. -/
def entriesFor (len : Nat) : Nat := (0x10 + len + 63) / 64
/-- An entry of a ring (R495). -/
def mailImage (opc status seq part : Nat) (bs : List Byte) : List Byte :=
  bytesOf opc 1 ++ bytesOf status 1 ++ bytesOf seq 2 ++ bytesOf part 1 ++ bytesOf 0 1 ++ bytesOf (bs.length % 65536) 2 ++ bytesOf 0 8 ++ bs

/-! ### The rings of a partition (R496) -/

/-- Where the supervisor places a partition's pair of rings: REQTAIL, REQHEAD, RSPTAIL and RSPHEAD as the words of its first 32 bytes,
the request ring at 0x1000, the response ring at 0x2000 (DESIGN CHOICE, log 23). -/
def ringPlace : Nat := 2 ^ 57 - 2 ^ 19
def State.ringWord (s : State) (part off : Nat) : Nat := ((s.readV part (ringPlace + off)).getD 0).toNat
/-- Bytes of the request ring, from a multiple of 8. -/
def State.requestBytes (s : State) (part a n : Nat) : List Byte :=
  ((List.range ((n + 7) / 8)).flatMap fun i => bytesOf (s.ringWord part (0x1000 + (a + 8 * i) % 4096)) 8).take n
/-- An entry written into a partition's response ring, with the entries it continues in, and then RSPTAIL. -/
def State.putPartitionRing (s : State) (part : Nat) (e : List Byte) : State :=
  let tail := s.ringWord part 0x10
  let n := (e.length + 63) / 64
  let t := (List.range n).foldl (fun t i => t.writeV part (ringPlace + 0x2000 + (tail + i) % 64 * 64) ((e.drop (64 * i)).take 64)) s
  t.writeV part (ringPlace + 0x10) (bytesOf ((tail + n) % 64) 8)
/-- An entry in the host's response ring: the tail is raised by the entries it takes, vector 0 signalled (R491). -/
def State.putHostRing (s : State) (e : List Byte) : State :=
  { s with host := { s.host with
      rspRing := putRing s.host.rspRing (s.host.rspTail.toNat * 64) e,
      rspTail := s.host.rspTail + BitVec.ofNat 6 ((e.length + 63) / 64), vectors := s.host.vectors ||| 1 } }
/-- An entry in the ring of an origin: 0 the host's, else the partition's. -/
def State.putMail (s : State) (origin : Nat) (e : List Byte) : State :=
  if origin = 0 then s.putHostRing e else s.putPartitionRing origin e

/-- The response to the request that is being served, with its SEQ, in the ring it came by; what was answered is kept as told. After a
fatal error of its package nothing is answered (R507). -/
def State.respond (s : State) (opc status part : Nat) (payload : List Word) : State :=
  if s.host.fatal then s
  else
    let r := s.host.serving.getD (0, 0)
    let t := s.putMail r.1 (mailImage opc status r.2 part (payload.flatMap fun w => bytesOf w.toNat 8))
    { t with host := { t.host with serving := none }, sup := { t.sup with responses := t.sup.responses ++ [(opc, status, payload)] } }

/-! ### What debuggers are told (spec/23 Table 23-3, EVENT) -/

/-- EVENT: an Ikitik message by mailbox command 0x08 in the host's response ring; nothing asked for it, and its SEQ is 0 (DESIGN CHOICE,
log 25). The payload is TRAP_CAUSE and Q0. -/
def State.sendEvent (s : State) (e : Nat × Nat × Nat × Nat) : State :=
  let part := s.ctx.part.toNat
  s.putHostRing (mailImage 0x08 0 0 part (bytesOf 0x80 1 ++ bytesOf 0 3 ++ bytesOf part 1 ++ bytesOf 0 1 ++ bytesOf s.ctx.id.toNat 2 ++
    bytesOf e.2.2.1 4 ++ bytesOf e.2.2.2 1 ++ bytesOf 0 1 ++ bytesOf 16 2 ++ bytesOf e.1 8 ++ bytesOf e.2.1 8))
/-- Those of a step go out at its end. -/
def State.sendEventsOf (s : State) : State :=
  if s.sup.events.isEmpty then s
  else if s.host.fatal then { s with sup := { s.sup with events := [] } }
  else { s.sup.events.foldl State.sendEvent s with sup := { s.sup with events := [] } }

/-! ### Requests -/

/-- The next request: the ring it stands in and its bytes. The host's come first, then the partitions' in order (DESIGN CHOICE, log 23). -/
def State.mailEntry (s : State) : Option (Nat × List Byte) :=
  let h := s.host
  if h.reqHead ≠ h.reqTail then
    let e := ringBytes h.reqRing (h.reqHead.toNat * 64) 64
    some (0, ringBytes h.reqRing (h.reqHead.toNat * 64) (min 4112 (0x10 + imageAt e 6 2)))
  else
    match (s.sup.partitions.filter fun p => p.2.image.isSome && s.ringWord p.1 0 % 64 ≠ s.ringWord p.1 8 % 64).map (·.1) with
    | [] => none
    | p :: _ =>
      let a := s.ringWord p 8 % 64 * 64
      some (p, s.requestBytes p a (min 4112 (0x10 + imageAt (s.requestBytes p a 64) 6 2)))
/-- It is taken: the head goes past the entries it takes. -/
def State.takeMail (s : State) (origin : Nat) (e : List Byte) : State :=
  let n := entriesFor (imageAt e 6 2)
  let t : State := { s with host := { s.host with serving := some (origin, imageAt e 2 2) } }
  if origin = 0 then { t with host := { t.host with reqHead := t.host.reqHead + BitVec.ofNat 6 n } }
  else t.writeV origin (ringPlace + 8) (bytesOf ((s.ringWord origin 8 + n) % 64) 8)

end Sys2Proof.Machine
end

