-- ==== Sys2Proof/Machine/Home.lean ====
section
/-! DEFINITION. What the homes do: a core's local-memory unit with its windows (spec/14 R332), and the slices with their
arithmetic units, change queues and watches (spec/14 R336, spec/10, spec/20). Every operation is one indivisible step. -/
namespace Sys2Proof.Machine

/-! ### Operations of Table 10-3 -/

/-- The bytes of a memory size code. -/
def sizeOf (sz : Nat) : Nat := 2 ^ sz
/-- The two BF16 elements of a 4-byte word, one result each. -/
def bf16Pair (f : Nat → Nat → Nat) (m o : Nat) : Nat :=
  f (m % 65536) (o % 65536) + 65536 * f (m / 65536 % 65536) (o / 65536 % 65536)
/-- The new value n for the old value m and the operand o, in a word of `8 * size` bits. -/
def opValue (op size m o : Nat) : Nat :=
  let w := 8 * size
  let mb := BitVec.ofNat w m
  let ob := BitVec.ofNat w o
  let add (f : Fmt) (x y : Nat) : Nat := roundFloat f .rne 0 ((decodeFloat f x).add (decodeFloat f y))
  match op with
  | 0x01 => (mb + ob).toNat
  | 0x02 => (mb &&& ob).toNat
  | 0x03 => (mb ||| ob).toNat
  | 0x04 => (mb ^^^ ob).toNat
  | 0x05 => (minS mb ob).toNat
  | 0x06 => (minN mb ob).toNat
  | 0x07 => (maxS mb ob).toNat
  | 0x08 => (maxN mb ob).toNat
  | 0x09 => ob.toNat
  | 0x10 => add .f32 m (o % 2 ^ 32)
  | 0x11 => add .f64 m o
  | 0x12 => maxFloat .f32 m (o % 2 ^ 32)
  | 0x13 => minFloat .f32 m (o % 2 ^ 32)
  | 0x14 => bf16Pair (add .bf16) m o
  | 0x15 => roundFloat .f32 .rne 0
      (((decodeFloat .f32 m).mul (decodeFloat .f32 (o % 2 ^ 32))).add (decodeFloat .f32 (o / 2 ^ 32)))
  | _ => m
/-- One atomic or packet on a memory: the new memory, the old value and the new value (R238); a poisoned word stays
poisoned and both values are poisoned (R236). -/
def Memory.atomic (m : Memory) (a op size : Nat) (o : Word) : Memory × Datum × Datum :=
  let old := m.datum a size
  let new := w64 (opValue op size old.val.toNat o.toNat)
  (if old.poison then m else m.store a size new false, old, ⟨new, old.poison⟩)
/-- A packet and its result n; an operand that a chain brings poisoned poisons the word and the result. -/
def Memory.packet (m : Memory) (a op size : Nat) (o : Datum) : Memory × Datum :=
  if o.poison then (m.setBad (a / 8) true, ⟨0, true⟩) else let x := m.atomic a op size o.val; (x.1, x.2.2)
/-- A compare-and-swap (Table 10-4). -/
def Memory.cas (m : Memory) (a size : Nat) (cmp new : Word) : Memory × Datum :=
  let old := m.datum a size
  (if !old.poison && old.val.toNat = cmp.toNat % 2 ^ (8 * size) then m.store a size new false else m, old)

/-! ### Arrangements (spec/20 R450, R451) -/

/-- An entry of an arrangement. -/
def entryAt (base n : Nat) : Nat := base + 0x40 + 32 * n
/-- The hash of a key. -/
def arrangeHash (key : Word) (caplog : Nat) : Nat := (key * 0x9E3779B97F4A7C15#64).toNat / 2 ^ (64 - caplog)
/-- What a search has found: the first deleted entry, the matches in order, the empty entry that ended it. -/
structure Search where
  tomb : Option Nat
  hits : List Nat
  empty : Option Nat
  deriving DecidableEq, Repr
/-- The search from entry `i` on, with `n` entries left to examine. -/
def Memory.search (m : Memory) (base cap h : Nat) (all : Bool) (r : ChangeRec) : Nat → Nat → Search → Search
  | 0, _, f => f
  | n + 1, i, f =>
    let e := (h + i) % cap
    let a := entryAt base e
    let st := m.load (a + 0x1C) 1
    if st = 0 then { f with empty := some e }
    else
      let f := if st = 2 ∧ f.tomb = none then { f with tomb := some e } else f
      let same := st = 1 ∧ m.load a 8 = r.key.toNat ∧
        (all ∨ (m.load (a + 8) 8 = r.valLo.toNat ∧ m.load (a + 16) 8 = r.valHi.toNat))
      if same then
        let f := { f with hits := f.hits ++ [e] }
        if all then m.search base cap h all r n (i + 1) f else f
      else m.search base cap h all r n (i + 1) f
/-- A header whose CAPLOG is in range and whose reserved bytes are zero; none otherwise. -/
def Memory.caplog (m : Memory) (base top : Nat) : Option Nat :=
  let c := m.load base 1
  if 4 ≤ c ∧ c ≤ top ∧ m.load (base + 1) 7 = 0 ∧ m.load (base + 0x10) 0x30 = 0 then some c else none
/-- MULT of an entry, signed. -/
def Memory.mult (m : Memory) (base e : Nat) : Int := (BitVec.ofNat 32 (m.load (entryAt base e + 0x18) 4)).toInt
/-- A field of the header raised or lowered by 1. -/
def Memory.count (m : Memory) (a : Nat) (d : Int) : Memory := m.store a 4 (BitVec.ofInt 64 ((m.load a 4 : Int) + d)) false
def fits32 (v : Int) : Bool := -2147483648 ≤ v && v ≤ 2147483647
/-- A table of 2^`c` entries at `base` lies in one slice frame (R451, item 4). -/
def inSliceFrame (base c : Nat) : Bool := base % 65536 + 64 + 32 * 2 ^ c ≤ 65536
/-- `dxlook` (kind 0), `dxlook.k` (1) and `dxadd` (2) on a table whose CAPLOG is at most `top`. -/
def Memory.arrange (m : Memory) (base top kind : Nat) (r : ChangeRec) : Memory × Word :=
  match m.caplog base top with
  | none => (m, 0x8000000000000002#64)
  | some c =>
    let cap := 2 ^ c
    let f := m.search base cap (arrangeHash r.key c) (kind = 1) r cap 0 ⟨none, [], none⟩
    if kind = 1 then (m, BitVec.ofInt 64 (f.hits.map (m.mult base)).sum)
    else match kind, f.hits with
      | 0, [] => (m, 0)
      | 0, e :: _ => (m, BitVec.ofInt 64 (m.mult base e))
      | _, e :: _ =>
        let v := m.mult base e + r.mult.toInt
        if !fits32 v then (m, 0x8000000000000000#64)
        else if v = 0 then
          (((m.store (entryAt base e + 0x1C) 1 2 false).count (base + 8) (-1)).count (base + 0xC) 1, 0)
        else (m.store (entryAt base e + 0x18) 4 (BitVec.ofInt 64 v) false, BitVec.ofInt 64 v)
      | _, [] =>
        if r.mult = 0 then (m, 0)
        else match f.tomb.or f.empty with
          | none => (m, 0x8000000000000001#64)
          | some e =>
            let a := entryAt base e
            let m := (((m.store a 8 r.key false).store (a + 8) 8 r.valLo false).store (a + 16) 8 r.valHi false).store
              (a + 0x18) 4 (r.mult.setWidth 64) false
            let m := (m.store (a + 0x1C) 1 1 false).count (base + 8) 1
            (if f.tomb.isSome then m.count (base + 0xC) (-1) else m, r.mult.signExtend 64)

/-- The entries that a search examines. -/
def Memory.examined (m : Memory) (base cap h : Nat) (all : Bool) (r : ChangeRec) : Nat :=
  let f := m.search base cap h all r cap 0 ⟨none, [], none⟩
  match f.empty, f.hits with
  | some e, _ => (e + cap - h) % cap + 1
  | none, e :: _ => if all then cap else (e + cap - h) % cap + 1
  | none, [] => cap
/-- A core's read of the entries that a search examines in local memory finds their errors (spec/12 R306). -/
def State.scanEntries (s : State) (c base cl kind : Nat) (r : ChangeRec) : State :=
  let h := arrangeHash r.key cl
  (List.range ((s.core c).mem.examined base (2 ^ cl) h (kind = 1) r)).foldl
    (fun t i => t.scanLocal c (entryAt base ((h + i) % 2 ^ cl)) 32) s
/-- Whether an arrangement's header or an entry that a search examines carries poison (spec/22 R465). -/
def Memory.arrangeBad (m : Memory) (base top kind : Nat) (r : ChangeRec) : Bool :=
  m.poisoned base 64 || (match m.caplog base top with
    | none => false
    | some c =>
      let h := arrangeHash r.key c
      (List.range (m.examined base (2 ^ c) h (kind = 1) r)).any fun i => m.poisoned (entryAt base ((h + i) % 2 ^ c)) 32)

/-! ### Answers -/

/-- What a home sends back: a reply, an acknowledgement, or nothing yet. -/
inductive Answer where
  | reply (vals : List Datum)
  | ack
  | silent
  deriving DecidableEq, Repr

/-- The answer on its way to the issuer. A request without an entry (tag 0) is acknowledged; one with an entry is
replied to. -/
def State.answer (s : State) (r : Req) (a : Answer) : State :=
  if r.quiet then s else
  match a, r.src with
  | .silent, _ => s
  | .reply vals, .core c => if r.tag = 0 then s.push (.storeAcknowledgement c r.uids) else s.push (.loadReply c r.tag vals)
  | .ack, .core c => if r.tag = 0 then s.push (.storeAcknowledgement c r.uids) else s.push (.loadReply c r.tag [⟨1, false⟩])
  | .reply vals, .host => { s with host := { s.host with reads := s.host.reads ++ vals.map fun d =>
      if d.poison then (0, 1) else (d.val, 0) } }
  | _, _ => s

/-! ### Windows of a core (spec/01 Table 1-6) -/

def Core.channel (k : Core) (ch : Nat) : Channel := mget {} k.channels ch
def Core.setChannel (k : Core) (ch : Nat) (c : Channel) : Core := { k with channels := mput k.channels ch c }
def Core.ring (k : Core) (n : Nat) : RingDesc := mget {} k.rings n
def Core.setRing (k : Core) (n : Nat) (r : RingDesc) : Core := { k with rings := mput k.rings n r }
/-- Fields of Table 11-5. -/
def RingDesc.tail (r : RingDesc) : Nat := fieldOf r.word0 63 48
def RingDesc.head (r : RingDesc) : Nat := fieldOf r.word0 47 32
def RingDesc.slots (r : RingDesc) : Nat := fieldOf r.word0 31 25
def RingDesc.tile (r : RingDesc) : Nat := 32 * fieldOf r.word0 24 17
def RingDesc.base (r : RingDesc) : Nat := fieldOf r.word0 16 0
def RingDesc.held (r : RingDesc) : Nat := (r.tail + 65536 - r.head) % 65536
def RingDesc.word1 (r : RingDesc) : Word := w64 (4 * r.busy + 2 * bnat r.overrun + bnat r.valid)
def RingDesc.setTail (r : RingDesc) (t : Nat) : RingDesc :=
  { r with word0 := (r.word0 &&& 0x0000FFFFFFFFFFFF#64) ||| w64 (t % 65536 * 2 ^ 48) }
def RingDesc.setHead (r : RingDesc) (h : Nat) : RingDesc :=
  { r with word0 := (r.word0 &&& 0xFFFF0000FFFFFFFF#64) ||| w64 (h % 65536 * 2 ^ 32) }
/-- A push of n tiles, if they fit (R273). -/
def RingDesc.push (r : RingDesc) (n : Nat) : Option RingDesc :=
  if r.held + n ≤ r.slots then some (r.setTail (r.tail + n)) else none

/-- A store of a count to word 1 of a ring's window: a push, or OVERRUN (R274). -/
def State.pushRing (s : State) (c n : Nat) (count : Word) : State :=
  let r := (s.core c).ring n
  s.modCore c (·.setRing n (match if r.valid then r.push count.toNat else none with
    | some x => x
    | none => { r with overrun := true }))

/-- KS of a matrix command: K over the depth of its formats (spec/11 R282). -/
def MatrixEntry.steps (e : MatrixEntry) : Nat :=
  if imageAt e.image 0 1 = 0 then imageAt e.image 0x0C 4 / matrixDepth e.fmtA else 0
/-- The status word of Table 11-8. -/
def Core.matrixStatus (k : Core) : Word :=
  let q := k.matrixQ
  let total := (q.entries.head?.map (·.steps)).getD 0
  let active := (q.entries.head?.map (·.active)).getD false
  w64 (total * 2 ^ 48 + k.mprog.toNat * 2 ^ 32 + q.cause * 2 ^ 16 + q.entries.length * 256 + 8 * bnat q.held +
    4 * bnat (q.cause ≠ 0) + 2 * bnat active)

/-- The highest throttle level among a die's clusters (spec/24 R505); clusters are the blocks below 2^20. -/
def State.throttleOf (s : State) (die : Nat) : Nat :=
  ((s.sup.throttle.filter fun e => e.1 < 2 ^ 20 && dieOfCluster e.1 = die).map (·.2)).foldl max 0
/-- The channel's overflow flag as the window shows it; the value of a counter of Table 16-4. -/
def State.counterValue (s : State) (c sel : Nat) : Word :=
  let k := s.core c
  if sel = 0x0103 then w64 (oneBits k.frames)
  else if sel = 0x0106 then w64 k.stall
  else if 0x0140 ≤ sel ∧ sel < 0x0180 then w64 ((k.asks.filter (·.ch = sel - 0x0140)).length)
  else if 0x10000 ≤ sel ∧ sel < 0x20000 then
    let base := s.ctx.ringBase + (sel - 0x10000) * 65536
    (s.readV s.ctx.part.toNat base).getD 0 - (s.readV s.ctx.part.toNat (base + 8)).getD 0
  else if sel = 0x0400 then w64 (Config.sense (256 + s.dieOf c) s.clock)
  else if sel = 0x0401 then w64 (s.throttleOf (s.dieOf c))
  else mget 0 k.counters sel
/-- Counters of Table 16-4: whether a selector names one at a level. -/
def counterKnown (sel : Nat) (priv : Nat) : Bool :=
  (0x0101 ≤ sel && sel ≤ 0x0106) || (0x0140 ≤ sel && sel < 0x0180) || (0x10000 ≤ sel && sel < 0x20000) ||
  (1 ≤ priv && (sel = 0x0400 || sel = 0x0401))

/-- A word of a core's windows (spec/06 R149, spec/11 R274, R279, spec/16 R377). -/
def State.windowWord (s : State) (c off : Nat) : Word :=
  let k := s.core c
  if off = 0x19000 then k.matrixStatus
  else if 0x1A000 ≤ off ∧ off < 0x1A080 then
    let r := k.ring ((off - 0x1A000) / 16)
    if off % 16 = 0 then r.word0 else r.word1
  else if 0x1C000 ≤ off ∧ off < 0x1C200 then flag (k.channel ((off - 0x1C000) / 8)).ovf
  else if 0x1E000 ≤ off ∧ off < 0x1E800 then
    let sel := 0x0100 + (off - 0x1E000) / 8
    if counterKnown sel 0 then s.counterValue c sel else 0
  else 0
/-- Loads of up to 8 bytes from a core's space; the status word answers only 8-byte loads. -/
def State.coreDatum (s : State) (c off n : Nat) : Datum :=
  if off < localEnd then (s.core c).mem.datum off n
  else if off / 8 * 8 = 0x19000 ∧ n ≠ 8 then ⟨0, false⟩
  else ⟨w64 ((s.windowWord c (off / 8 * 8)).toNat / 2 ^ (8 * (off % 8)) % 2 ^ (8 * n)), false⟩

/-! ### The local-memory unit -/

/-- A message that a core's ready queue takes: header of a kind and two words (spec/06 Table 6-8, R167). -/
def headerWord (c kind n : Nat) : Word := w64 (c / 65536 * 2 ^ 59 + c % 65536 * 2 ^ 43 + (n - 1) * 2 ^ 40 + kind * 2 ^ 36)
def readyMessage (c id ch kind : Nat) (clock : Nat) (w1 w2 : Word) : Outbound :=
  { msg := { src := .core c, id, dst := c, ch, slots := 1,
             body := .data [⟨headerWord c kind 2, false⟩, ⟨w1, false⟩, ⟨w2, false⟩] },
    kind := .data, slot := 4, laneUid := 0, since := clock, asked := false, granted := false, refused := false, seq := id }

/-- A future operation at the word's core (spec/10 R242): whether it found the word in the state it needs, and the value. -/
def Core.future (k : Core) (off : Nat) (op : FutOp) (v : Datum) : Core × List Datum :=
  let full := mget false k.full (off / 8)
  let w := k.mem.datum off 8
  match op with
  | .put | .putnb =>
    if full then (k, [⟨0, false⟩, w])
    else ({ k.overwrite off 8 with mem := k.mem.store off 8 v.val v.poison, full := mset false k.full (off / 8) true }, [⟨1, false⟩, v])
  | .take | .takenb =>
    if full then ({ k with full := mset false k.full (off / 8) false }, [⟨1, false⟩, w]) else (k, [⟨0, false⟩, ⟨0, false⟩])
  | .peek => (k, [⟨flag full, false⟩, w])

/-- A counter update at the owning core (spec/10 R245, R246): no value when it is refused because the ready queue is
full, else the count before it. A poisoned count stays as it is. -/
def State.counter (s : State) (c off : Nat) (op : CtrOp) (v : Word) : State × List Datum :=
  let k := s.core c
  let old := k.mem.datum off 4
  let o := old.val.toNat
  let n := v.toNat % 2 ^ 32
  let new := match op with
    | .set => n
    | .add => min (o + n) (2 ^ 32 - 1)
    | .dec => o - n
  if old.poison then (s, [old])
  else if o ≠ 0 ∧ new = 0 then
    if 16 ≤ k.ready.length then (s, [])
    else
      let msg := readyMessage c s.nextTag (k.mem.load (off + 0x10) 1 % 64) 1 s.clock
        (w64 (k.mem.load (off + 4) 4)) (w64 (k.mem.load (off + 8) 8))
      ((s.setCore c { k with mem := k.mem.store off 4 (w64 new) false, ready := k.ready ++ [msg] }).fresh, [old])
  else (s.setCore c { k with mem := k.mem.store off 4 (w64 new) false }, [old])

/-- Writes of a store, one after the other, at a core's local memory or its staging slots. -/
def Core.writes (k : Core) : List Wr → Core
  | [] => k
  | w :: ws =>
    if w.addr < localEnd then
      ({ k.overwrite w.addr w.size with mem := k.mem.store w.addr w.size w.val w.poison } : Core).writes ws
    else ({ k with staging := k.staging.store (w.addr - localEnd) w.size w.val w.poison } : Core).writes ws

/-- A store performed by the local-memory unit of core `c`, to its ring window too (spec/11 R274). -/
def State.storeAt (s : State) (c : Nat) : List Wr → State
  | [] => s
  | w :: ws =>
    (if 0x1A000 ≤ w.addr then s.pushRing c ((w.addr - 0x1A000) / 16) w.val else s.modCore c (·.writes [w])).storeAt c ws
/-- A request performed by the local-memory unit of core `c` (spec/14 R332). -/
def State.performCore (s : State) (c : Nat) (op : MemOp) : State × Answer :=
  match op with
  | .load ps =>
    let t := ps.foldl (fun t p => if p.1 < localEnd then t.scanLocal c p.1 p.2 else t) s
    (t, .reply (ps.map fun p => t.coreDatum c p.1 p.2))
  | .store ws => (s.storeAt c ws, .ack)
  | .packet _ _ _ _ _ => (s, .ack)
  | .amo a op sz o =>
    let t := s.scanLocal c a (sizeOf sz)
    let r := (t.core c).mem.atomic a op (sizeOf sz) o
    (t.modCore c fun k => { k with mem := r.1 }, .reply [r.2.1])
  | .cas a sz cmp new =>
    let t := s.scanLocal c a (sizeOf sz)
    let r := (t.core c).mem.cas a (sizeOf sz) cmp new
    (t.modCore c fun k => { k with mem := r.1 }, .reply [r.2])
  | .future a k v =>
    let t := s.scanLocal c a 8
    let r := (t.core c).future a k v
    (t.setCore c r.1, .reply r.2)
  | .counter a k v =>
    let t := s.scanLocal c a 32
    let r := t.counter c a k v
    (r.1, .reply r.2)
  | _ => (s, .ack)

/-! ### Slices: waves and watches (spec/20 R440-R443, R453; spec/10 R255) -/

/-- How an entry stands toward a wave (R440). -/
inductive WaveCase where
  | fresh | mine | closed | busy
  deriving DecidableEq, Repr

def waveEntry (pa : Nat) (w : BitVec 32) : Nat := pa + 0x40 + 16 * (w.toNat % 64)
def Memory.waveOf (m : Memory) (e : Nat) : BitVec 32 := BitVec.ofNat 32 (m.load e 4)
def Memory.waveState (m : Memory) (e : Nat) : Nat := m.load (e + 4) 1
def Memory.waveCount (m : Memory) (e : Nat) : Nat := m.load (e + 8) 8
def Memory.waveSealed (m : Memory) (e : Nat) : Bool := (m.waveState e) / 2 % 2 = 1
def Memory.waveLost (m : Memory) (e : Nat) : Bool := (m.waveState e) / 4 % 2 = 1
/-- SEALED set and COUNT 0, with `less` taken off the count (R443, R453). -/
def Memory.waveDone (m : Memory) (e less : Nat) : Bool := m.waveSealed e && m.waveCount e = less
def Memory.waveCase (m : Memory) (pa : Nat) (w : BitVec 32) : WaveCase :=
  let e := waveEntry pa w
  let v := m.waveOf e
  if m.waveState e % 2 = 0 then .fresh
  else if v = w then .mine
  else
    let later := (v - w).toNat
    if later < 2 ^ 31 then .closed
    else if (w - v).toNat < 2 ^ 31 ∧ m.waveDone e 0 then .fresh
    else .busy
/-- Whether a wave is quiescent, and with LOST set: 0 no, 1 yes, 3 yes with a loss. -/
def Memory.quiescent (m : Memory) (pa : Nat) (w : BitVec 32) (less : Nat) : Nat :=
  match m.waveCase pa w with
  | .mine => if m.waveDone (waveEntry pa w) less then (if m.waveLost (waveEntry pa w) then 3 else 1) else 0
  | .closed => 1
  | _ => 0
/-- An entry claimed or reclaimed for a wave. -/
def Memory.claim (m : Memory) (pa : Nat) (w : BitVec 32) : Memory :=
  let e := waveEntry pa w
  ((m.store e 4 (w.setWidth 64) false).store (e + 4) 1 1 false).store (e + 8) 8 0 false
/-- COUNT of the entry that holds a wave changed. -/
def Memory.recount (m : Memory) (pa : Nat) (w : BitVec 32) (d : Int) : Memory :=
  if m.waveCase pa w = .mine then
    let e := waveEntry pa w
    m.store (e + 8) 8 (BitVec.ofInt 64 ((m.waveCount e : Int) + d)) false
  else m
/-- LOST set in the entry that holds a wave (R447). -/
def Memory.setLost (m : Memory) (pa : Nat) (w : BitVec 32) : Memory :=
  if m.waveCase pa w = .mine then
    let e := waveEntry pa w
    m.store (e + 4) 1 (w64 (m.waveState e ||| 4)) false
  else m

/-- Whether a threshold is released by a value (R254). -/
def released (v t : Word) : Bool := 0 ≤ (v - t).toInt
/-- A watch that the slice finds satisfied: the event that completes its instruction. -/
def State.watchDone (s : State) (w : Watch) : Option Instr :=
  if w.wave then
    let q := s.mem.quiescent w.addr (BitVec.ofNat 32 w.key.toNat) (bnat w.held)
    if q = 0 then none else some (.quiescenceWatch w.core w.tag (w64 q))
  else if released (w64 (s.mem.load w.addr 8)) w.key then some (.timelineRelease w.core w.tag) else none
/-- Every registered watch is evaluated after a write; the satisfied ones are dropped and their waiters released. -/
def State.evalWatches (s : State) : State :=
  let t := { s with watches := s.watches.filter fun w => (s.watchDone w).isNone }
  (s.watches.filterMap fun w => (s.watchDone w).map fun e => (w.stamp, e)).foldl (fun t x => t.pushAs (some x.1) x.2) t
/-- The stamp that replies of what is being performed carry. -/
def State.stampNow (s : State) : BitVec 4 := (s.carried.map (·.1)).getD s.frame

/-! ### Slices: change queues (spec/20 R445, R446) -/

/-- Records with equal KEY, VALUE and WAVE (R436). -/
def alike (a b : ChangeRec) : Bool := a.key = b.key && a.valLo = b.valLo && a.valHi = b.valHi && a.wave = b.wave
/-- The exact sum of two multiplicities, if it fits 32 signed bits. -/
def mergeMult (a b : ChangeRec) : Option ChangeRec :=
  let v := a.mult.toInt + b.mult.toInt
  if fits32 v then some { a with mult := BitVec.ofInt 32 v } else none

/-- A record accepted by the slice's queue: merged into the first one alike that waits for the channel and is not yet
leaving, or appended. The change of COUNT comes with it. -/
def mergeQueued (q : List QueuedChange) (desc dst ch : Nat) (r : ChangeRec) : Option (List QueuedChange × Int) :=
  match q.find? fun e => !e.granted && e.desc = desc && e.dst = dst && e.ch = ch && alike e.record r with
  | none => none
  | some e =>
    match mergeMult e.record r with
    | none => none
    | some m =>
      if m.mult = 0 then some (q.filter (·.id ≠ e.id), -1)
      else some (q.map fun x => if x.id = e.id then { x with record := m } else x, 0)

/-- `dqput` at the descriptor's slice (R445): the status, or no value when the queue is full. -/
def State.putChange (s : State) (desc pa : Nat) (chword : Word) (cons : Bool) (r : ChangeRec) : State × Answer :=
  let n := sliceOf pa
  let q := mget [] s.changes n
  if s.mem.quiescent pa r.wave 0 ≠ 0 then (s, .reply [⟨2, false⟩])
  else if s.mem.waveCase pa r.wave = .busy then (s, .reply [⟨1, false⟩])
  else if 1024 ≤ q.length then (s, .reply [])
  else
    let m := if s.mem.waveCase pa r.wave = .fresh then s.mem.claim pa r.wave else s.mem
    match if cons then mergeQueued q desc (coreOf chword) (fieldOf chword 5 0) r else none with
    | some (q', d) => ({ s with mem := m.recount pa r.wave d, changes := mput s.changes n q' }, .reply [⟨0, false⟩])
    | none =>
      let e : QueuedChange := { id := s.nextTag, desc, dst := coreOf chword, ch := fieldOf chword 5 0, record := r,
                                asked := false, granted := false }
      (({ s with mem := m.recount pa r.wave 1, changes := mput s.changes n (q ++ [e]) }).fresh, .reply [⟨0, false⟩])

/-- `dxseal` at the slice (R452). -/
def State.sealWave (s : State) (pa : Nat) (w : BitVec 32) : State × Answer :=
  let e := waveEntry pa w
  match s.mem.waveCase pa w with
  | .closed => (s, .reply [⟨2, false⟩])
  | .busy => (s, .reply [⟨1, false⟩])
  | .mine =>
    if s.mem.waveSealed e then (s, .reply [⟨2, false⟩])
    else ({ s with mem := s.mem.store (e + 4) 1 (w64 (s.mem.waveState e ||| 2)) false }, .reply [⟨0, false⟩])
  | .fresh => ({ s with mem := (s.mem.claim pa w).store (e + 4) 1 3 false }, .reply [⟨0, false⟩])

/-! ### Slices: chunk reductions and their records (spec/18 R422, R425) -/

/-- A chunk fault record as an outbound data message: seven words after the header, which names the issuing core. -/
def recordMessage (src : Source) (issuer id : Nat) (chan : Word) (clock : Nat) (ws : List Word) (after : List Instr) : Outbound :=
  { msg := { src, id, dst := coreOf chan, ch := fieldOf chan 5 0, slots := 1,
             body := .data ((headerWord issuer 0 7 :: ws).map fun w => ⟨w, false⟩) },
    kind := .data, slot := 4, laneUid := 0, since := clock, asked := false, granted := false, refused := false, after, fault := true, seq := id }
/-- The verifier whose record a message is: SOURCE of Table 18-5. -/
def Outbound.verifier (o : Outbound) : Nat :=
  match o.msg.body with
  | .data ws => fieldOf ((ws.getD 2 ⟨0, false⟩).val) 18 16
  | _ => 0

/-- An event record of a verifier. -/
def State.recordVerifier (s : State) (src : Source) (type : Nat) (ws : List Word) : State :=
  match src with
  | .core c => s.recordCore c type ws
  | .slice n => s.record (sliceDie n) type 3 (n % 256) ws
  | .port n => s.record (n / 18 * 4 + n % 4) type 6 (n % 18) ws
  | _ => s
/-- The cores that a verifier of core `c` serves: those of its cluster for the matrix unit (SOURCE 3), else itself. -/
def State.servedWith (s : State) (c source : Nat) : List Nat :=
  if source = 3 then (s.cores.map (·.1)).filter fun d => s.clusterOf d = s.clusterOf c && (d = c || s.hasCore d) else [c]
/-- A verifier's mark that its last record was dropped (R426); `source` tells the verifiers of a core apart. -/
def State.setLost (s : State) (src : Source) (source : Nat) (v : Bool) : State :=
  match src with
  | .core c => (s.servedWith c source).foldl (fun t d => t.modCore d fun k => { k with recordLost := mset false k.recordLost source v }) s
  | .slice n => { s with sliceLost := mset false s.sliceLost n v }
  | .port n => { s with sliceLost := mset false s.sliceLost (65536 + n) v }
  | _ => s
def State.lost (s : State) (source : Nat) : Source → Bool
  | .core c => mget false (s.core c).recordLost source
  | .slice n => mget false s.sliceLost n
  | .port n => mget false s.sliceLost (65536 + n)
  | _ => false
/-- Records of a verifier that wait for grants, of the 4 places that it has (R426). -/
def State.recordsHeld (s : State) (source : Nat) : Source → Nat
  | .core c => ((s.servedWith c source).map fun d => ((s.core d).records.filter fun o => !o.sent && o.verifier = source).length).sum
  | src => (s.sliceOut.filter fun o => o.fault && !o.sent && o.msg.src = src).length
/-- A verifier has room for `n` more records. -/
def State.recordRoom (s : State) (src : Source) (source n : Nat) : Bool := s.recordsHeld source src + n ≤ 4

/-- The records of a reduction, the answer following the last of them; with CHUNKCHAN 0 they are dropped into the event
recorder and the answer is sent at once (R426). -/
def State.sendRecords (s : State) (src : Source) (issuer : Nat) (recs : List (List Word)) (after : List Instr) : State :=
  match recs with
  | [] => after.foldl State.push s
  | ws :: rest =>
    let source := fieldOf (ws.getD 1 0) 18 16
    let ws := if s.lost source src then ws.modify 1 (· ||| 0x2000#64) else ws
    if s.ctx.chunkChan = 0 then
      ((s.recordVerifier src 0x0E (ws.take 2)).setLost src source true).sendRecords src issuer rest after
    else
      let s := s.setLost src source false
      let o := recordMessage src issuer s.nextTag s.ctx.chunkChan s.clock ws (if rest.isEmpty then after else [])
      let t := match src with
        | .core c => s.modCore c fun k => { k with records := k.records ++ [o] }
        | _ => { s with sliceOut := s.sliceOut ++ [{ o with stamp := some s.stampNow }] }
      t.fresh.sendRecords src issuer rest after

/-- Where a chunk crosses a link on its way, its receiving port verifies it first (R403, R414): the ports of that link, none for
traffic that stays in its package. -/
def State.chunkLink (s : State) (issuer q : Nat) : Option (Nat × Nat) := s.firstLink (s.dieOf issuer / 4) q
/-- The record of a port for a failing source image of a chunk reduction (Table 18-5, HOP 3). -/
def linkRecord (mode : Nat) (l : Nat × Nat) (va : Word) (src : List Byte) : List Word :=
  [0, recordWord (chunkStep src) false 3 (mode = 2) 2, agentPort l.1, agentPort l.2, w64 (imageAt src 0 4), w64 (residueOf src), va]
/-- The residue that a check finds; of an image with a poisoned word it is left open (log 2). -/
def State.residueFound (s : State) (img : List Byte) (bad : Bool) : Word := if bad then Config.freeValue 14 s.clock else w64 (residueOf img)
/-- The words of the records of a chunk reduction (Table 18-5). A source image with a poisoned word is at fault where it was stored
(HOP 0, spec/22 Table 22-6). -/
def reduceRecords (mode : Nat) (issuer slice : Nat) (va : Word) (dst src : List Byte) (stored : Bool) (foundSrc foundDst : Word) (faults : List Nat) (f : Folded) :
    List (List Word) :=
  faults.map fun x =>
    let held := mode = 2
    match x with
    | 1 => [0, recordWord (chunkStep src) false (if stored then 0 else 2) held 1, agentCore issuer,
            if stored then agentCore issuer else agentSlice slice, w64 (imageAt src 0 4), foundSrc, va]
    | 2 => [0, recordWord (chunkStep dst) false 0 held 1, agentSlice slice, agentSlice slice,
            w64 (imageAt dst 0 4), foundDst, va]
    | _ => [0, recordWord ((max (chunkStep dst) (chunkStep src) + 1) % 256) true 4 held 1, agentSlice slice, agentSlice slice,
            w64 f.expected, w64 f.found, va]

/-- The poisoned words of an image in memory, by number. -/
def Memory.poisonedWords (m : Memory) (a n : Nat) : List Nat := (List.range (n / 8)).filter fun i => m.poisoned (a + 8 * i) 8
/-- Who reports the faults of a reduction, and in how many records: a transport fault that the receiving port of a link has found
alone, that port; else the slice. -/
def State.reduceReports (s : State) (issuer n : Nat) (stored : Bool) (faults : List Nat) : Source × Nat :=
  match (if faults.contains 1 && !stored then s.chunkLink issuer (n / 256) else none) with
  | some l => if faults.all (· = 1) then (.port l.2, 1) else (.slice n, faults.length)
  | none => (.slice n, faults.length)
/-- Room for the records that a chunk reduction is going to send (R426). -/
def State.reduceRoom (s : State) (src : Source) (pa op : Nat) (img : List Byte) (badSrc : List Nat) : Bool :=
  let issuer := match src with
    | .core c => c
    | _ => 0
  let (_, _, faults, _) := reduceChunk (reduceFormat op) s.ctx.check (s.mem.image pa 272) img (!(s.mem.poisonedWords pa 272).isEmpty) (!badSrc.isEmpty)
  let x := s.reduceReports issuer (sliceOf pa) (!badSrc.isEmpty) faults
  faults.isEmpty || s.ctx.chunkChan = 0 || s.recordRoom x.1 1 x.2
/-- The records of a reduction sent. A transport fault that the receiving port of a link has found is reported by that port alone
(R414); where the slice reports another fault of the same packet, both records leave from the slice, so that the answer follows
both (log 58). -/
def State.sendReduce (s : State) (issuer pa : Nat) (va : Word) (dst src : List Byte) (stored badDst : Bool) (faults : List Nat) (f : Folded)
    (done : List Instr) : State :=
  let n := sliceOf pa
  let mode := s.ctx.check
  let recs (fs : List Nat) : List (List Word) := 
    reduceRecords mode issuer n va dst src stored (s.residueFound src stored) (s.residueFound dst badDst) fs f
  match (if faults.contains 1 && !stored then s.chunkLink issuer (n / 256) else none) with
  | none => s.sendRecords (.slice n) issuer (recs faults) done
  | some l =>
    let own := recs (faults.filter (· ≠ 1))
    if own.isEmpty then s.sendRecords (.port l.2) issuer [linkRecord mode l va src] done
    else s.sendRecords (.slice n) issuer (linkRecord mode l va src :: own) done
/-- Words of an image marked as poisoned. -/
def Memory.markWords (m : Memory) (a : Nat) (bad : List Nat) : Memory := bad.foldl (fun m i => m.setBad ((a + 8 * i) / 8) true) m
/-- A chunk reduction at a slice (R422). A poisoned word of either image stays one, and so do the sums that it enters, in the
trailer; the status that is returned carries it (spec/10 R236). -/
def State.reduceAt (s : State) (r : Req) (pa op : Nat) (img : List Byte) (badSrc : List Nat) (va : Word) : State :=
  let issuer := match r.src with
    | .core c => c
    | _ => 0
  let dst := s.mem.image pa 272
  let badDst := s.mem.poisonedWords pa 272
  let bad := badSrc ++ badDst
  let (st, out, faults, f) := reduceChunk (reduceFormat op) s.ctx.check dst img (!badDst.isEmpty) (!badSrc.isEmpty)
  let t := match out with
    | some o => { s with mem := (s.mem.write pa o false).markWords pa (if bad.isEmpty then [] else 0 :: 1 :: bad) }
    | none => s
  let done := match r.src with
    | .core c => [Instr.loadReply c r.tag [⟨w64 st, !bad.isEmpty⟩]]
    | _ => []
  t.sendReduce issuer pa va dst img (!badSrc.isEmpty) (!badDst.isEmpty) faults f done

/-! ### Slices: table entries (spec/14 R341) and launch queues (spec/16 R368) -/

/-- The partition that a request acts for. -/
def State.partFor (s : State) : Source → Nat
  | .core c => s.partOf c
  | _ => s.ctx.part.toNat
/-- A write that a table assist discards, recorded by its stack. -/
def State.discardEntryWrite (s : State) (frame : Nat) (w0 : Word) : State :=
  s.record (frame / 2 ^ 24 * 4 + frame / 2 ^ 22 % 4) 0x0C 4 (frame / 2 ^ 21 % 8) [w64 frame, w0]
/-- A write of a table entry by a partition's system core: discarded and recorded when it would change PART, falls on
another partition's entry, or has a reserved bit set. -/
def State.writeTable (s : State) (part frame : Nat) (w0 w1 : Word) : State :=
  let e := w1 ++ w0
  if iptPart e ≠ iptPart (s.iptAt frame) ∨ iptPart e ≠ part ∨ fieldOf w0 58 49 ≠ 0 ∨ fieldOf w1 63 60 ≠ 0 ∨ fieldOf w1 30 0 ≠ 0 then
    s.discardEntryWrite frame w0
  else { s with ipt := mput s.ipt frame e }
/-- The two words of a table entry, read as 16 bytes at once. -/
def State.readTable (s : State) (frame : Nat) : List Datum :=
  let e := s.iptAt frame
  [⟨e.setWidth 64, false⟩, ⟨(e >>> 64).setWidth 64, false⟩]
/-- A write of a hash anchor of a partition. -/
def State.writeAnchor (s : State) (part i : Nat) (w : Word) : State :=
  match mfind s.sup.partitions part with
  | some p => { s with mem := s.mem.store (p.anchors + 8 * i) 8 w false }
  | none => s
/-- A load at a slice; a table entry answers only what reads both its words at once (R341, log 53). -/
def State.sliceLoad (s : State) (ps : List (Nat × Nat)) : List Datum :=
  ps.map fun p =>
    if p.1 < tableBase then s.mem.datum p.1 p.2
    else
      let f := (p.1 - tableBase) / 16
      if ps.contains (tableBase + 16 * f, 8) && ps.contains (tableBase + 16 * f + 8, 8) then
        (s.readTable f).getD (p.1 % 16 / 8) ⟨0, false⟩
      else ⟨0, false⟩

/-- A write of the hardware that the slice's watches see (spec/10 R255). -/
def State.writeSeen (s : State) (part a : Nat) (bs : List Byte) : State := (s.writeV part a bs).evalWatches

/-- Launch queue q: its header; the offset of entry j (R366). -/
def State.queueBase (s : State) (q : Nat) : Nat := s.ctx.launchBase + q * 0x40000
def State.queueEntry (s : State) (q j : Nat) : Nat := s.queueBase q + 0x100 + 256 * (j % 1023)
/-- An append: TAIL rises, the record and SEQ are written; status 1 when the queue is full (R368). -/
def State.append (s : State) (q : Nat) (img : List Byte) : State × Nat :=
  let p := s.ctx.part.toNat
  let tail := (s.readV p (s.queueBase q)).getD 0
  let head := (s.readV p (s.queueBase q + 8)).getD 0
  if 1023 ≤ (tail - head).toNat then (s, 1)
  else
    let t := s.writeV p (s.queueBase q) (bytesOf (tail.toNat + 1) 8)
    let t := t.writeV p (s.queueEntry q tail.toNat) img
    (t.writeSeen p (s.queueEntry q tail.toNat + 0xF8) (bytesOf (tail.toNat + 1) 8), 0)

/-! ### The slices -/


/-- Writes of a store at a slice. -/
def Memory.writes (m : Memory) : List Wr → Memory
  | [] => m
  | w :: ws => (m.store w.addr w.size w.val w.poison).writes ws

/-- The physical places of the launch queue headers that are there. -/
def State.headers (s : State) : List Nat :=
  if s.ctx.started then (List.range 16).filterMap fun q => s.resolve s.ctx.part.toNat (s.queueBase q) true else []
/-- A byte of a header that only appends and the derrick write: all of it but CONTROL (R366, Table 16-2). -/
def headerFixed (h a : Nat) : Bool := h ≤ a && a < h + 256 && !(h + 16 ≤ a && a < h + 24)
/-- Memory after an operation at `n` bytes from `a`: the fixed parts of the headers stay as they were. -/
def Memory.keepHeaders (m old : Memory) (hs : List Nat) (a n : Nat) : Memory :=
  if hs.any fun h => a < h + 256 && h < a + n then
    (List.range n).foldl (fun m i => if hs.any fun h => headerFixed h (a + i) then
      (m.setByte (a + i) (old.byte (a + i))).setBad ((a + i) / 8) (mget false old.bad ((a + i) / 8)) else m) m
  else m
/-- CONTROL words that a store touches reach the derrick (R366). -/
def State.tellControls (s : State) (ws : List Wr) : State :=
  (List.range 16).foldl (fun t q =>
    match t.resolve t.ctx.part.toNat (t.queueBase q + 16) true with
    | some pa =>
      if t.ctx.started && ws.any fun w => w.addr < pa + 8 && pa < w.addr + w.size then
        t.push (.launchQueueControl q (w64 (t.mem.load pa 8)))
      else t
    | none => t) s

/-- Writes to global memory: launch queue headers keep what is not CONTROL, controls reach the derrick (R366), watches see them. -/
def State.writeGlobal (s : State) (ws : List Wr) : State :=
  let hs := s.headers
  let m := ws.foldl (fun m w => (m.store w.addr w.size w.val w.poison).keepHeaders s.mem hs w.addr w.size) s.mem
  (({ s with mem := m } : State).tellControls ws).evalWatches
/-- The entry of a frame as a store writes it: both its words at once, and clean (R341). -/
def wholeEntry (ws : List Wr) (f : Nat) : Option (Word × Word) :=
  match ws.find? (fun w => w.addr = tableBase + 16 * f && w.size = 8 && !w.poison), ws.find? fun w => w.addr = tableBase + 16 * f + 8 && w.size = 8 && !w.poison with
  | some x, some y => some (x.val, y.val)
  | _, _ => none
/-- A store at the window of a table assist: each entry that it writes whole is written, the others' writes are discarded (R341). -/
def State.storeTable (s : State) (part : Nat) (ws : List Wr) : State :=
  ((ws.map fun w => (w.addr - tableBase) / 16).eraseDups).foldl (fun t f => match wholeEntry ws f with
    | some (w0, w1) => t.writeTable part f w0 w1
    | none => t.discardEntryWrite f ((ws.find? fun w => (w.addr - tableBase) / 16 = f).map (·.val) |>.getD 0)) s
/-- A store at a slice. -/
def State.sliceStore (s : State) (part : Nat) (ws : List Wr) : State :=
  if ws.any fun w => tableBase ≤ w.addr then s.storeTable part ws else s.writeGlobal ws
/-- The memory of the slices changed by an operation at `n` bytes from `a`. -/
def State.slicePut (s : State) (m : Memory) (a n : Nat) : State :=
  (({ s with mem := m.keepHeaders s.mem s.headers a n } : State).tellControls [⟨a, n, 0, false⟩]).evalWatches
/-- The state `t` after an operation at `n` bytes from `a`, of memory as `s` had it: headers kept, controls told, watches looked at. -/
def State.sliceKeep (s t : State) (a n : Nat) : State :=
  (({ t with mem := t.mem.keepHeaders s.mem s.headers a n } : State).tellControls [⟨a, n, 0, false⟩]).evalWatches

/-- The next link of a chain with operand `n` (R240). -/
def State.chainOn (s : State) (r : Req) (n : Datum) (pa : Nat) : Chain → State
  | .none => s.answer r .ack
  | .packet a op sz => s.push (.chainedPacket { r with op := .packet a op sz n .none })
  | .message chw =>
    let issuer := match r.src with
      | .core c => c
      | _ => 0
    let o : Outbound :=
      { msg := { src := .slice (sliceOf pa), id := s.nextTag, dst := coreOf chw, ch := fieldOf chw 5 0, slots := 1,
                 body := .data [⟨headerWord issuer 0 1, false⟩, n] },
        kind := .data, slot := 4, laneUid := 0, since := s.clock, asked := false, granted := false, refused := false,
        stamp := some s.stampNow,
        after := match r.src with
          | .core c => [.storeAcknowledgement c r.uids]
          | _ => [] }
    ({ s with sliceOut := s.sliceOut ++ [o] }).fresh
  | .future c off => s.push (.chainedPacket { r with home := some c, op := .future off .put n })

/-- An earlier `dqput` of the same core to the same dataflow has been refused and not yet accepted (spec/20 R445). -/
def State.putsBehind (s : State) (r : Req) (desc : Nat) : Bool :=
  match r.src with
  | .core c => (s.core c).loads.any fun e => e.tag < r.tag && (match e.req.op with
      | .put d _ _ _ _ => d = desc
      | _ => false) && !s.events.any fun x => match x with
        | .loadReply c' t vs => c' = c && t = e.tag && !vs.isEmpty
        | _ => false
  | _ => false
/-- A put at the slice: one that would be accepted before an earlier one of its core is refused as for a full queue (R445). -/
def State.putInOrder (s : State) (r : Req) (desc pa : Nat) (chw : Word) (cons : Bool) (c : ChangeRec) : State × Answer :=
  let x := s.putChange desc pa chw cons c
  if x.2 = .reply [⟨0, false⟩] && s.putsBehind r desc then (s, .reply []) else x
/-- The table entry that an operation other than a load or a store addresses: none is made on the window of a table assist (R341). -/
def tableOp : MemOp → Option Nat
  | .amo a _ _ _ | .packet a _ _ _ _ | .cas a _ _ _ | .timeline a _ _ | .watch a _ _ | .reduce a _ _ _ _ | .arrange a _ _ | .put _ a _ _ _ | .seal a _
  | .quiet a _ _ _ | .release a _ _ => if tableBase ≤ a then some ((a - tableBase) / 16) else none
  | _ => none
/-- A request performed at the slice of its physical address: the state after it with its answer sent. An arrangement whose table, as its
header now stands, would leave its slice frame answers as one without a header does (DESIGN CHOICE, log 71). -/
def State.performSlice (s : State) (r : Req) : State :=
  if let some f := tableOp r.op then (s.discardEntryWrite f 0).answer r (.reply [⟨0, false⟩]) else
  match r.op with
  | .load ps => s.answer r (.reply (s.sliceLoad ps))
  | .store ws => (s.sliceStore (s.partFor r.src) ws).answer r .ack
  | .amo a op sz o =>
    let x := s.mem.atomic a op (sizeOf sz) o
    (s.slicePut x.1 a (sizeOf sz)).answer r (.reply [x.2.1])
  | .packet a op sz o ch =>
    let x := s.mem.packet a op (sizeOf sz) o
    let t := s.slicePut x.1 a (sizeOf sz)
    match ch with
    | .none => t.answer r (.reply [x.2])
    | _ => t.chainOn r x.2 a ch
  | .cas a sz cmp new =>
    let x := s.mem.cas a (sizeOf sz) cmp new
    (s.slicePut x.1 a (sizeOf sz)).answer r (.reply [x.2])
  | .reduce pa op img bad va =>
    s.sliceKeep (s.reduceAt r pa op img bad va) pa 272
  | .arrange a kind c =>
    if (s.mem.caplog a 10).any fun n => !inSliceFrame a n then s.answer r (.reply [⟨0x8000000000000002#64, false⟩])
    else if s.mem.arrangeBad a 10 kind c then s.answer r (.reply [⟨0, true⟩])
    else
      let x := s.mem.arrange a 10 kind c
      (s.slicePut x.1 a (64 + 32 * ((s.mem.caplog a 10).map (2 ^ ·)).getD 0)).answer r (.reply [⟨x.2, false⟩])
  | .put desc pa chw cons c =>
    let x := s.putInOrder r desc pa chw cons c
    (s.sliceKeep x.1 pa 1088).answer r x.2
  | .seal pa w =>
    let x := s.sealWave pa w
    (s.sliceKeep x.1 pa 1088).answer r x.2
  | .quiet pa w watch held =>
    let q := s.mem.quiescent pa w (bnat held)
    if q ≠ 0 ∨ !watch then s.answer r (.reply [⟨w64 q, false⟩])
    else match r.src with
      | .core c => { s with watches := s.watches ++ [⟨pa, w.setWidth 64, c, r.tag, true, held, s.stampNow⟩] }
      | _ => s
  | .release pa w n => (s.slicePut (s.mem.recount pa w (-(n : Int))) pa 1088).answer r .ack
  | .timeline a set v =>
    let x := s.mem.atomic a (if set then 0x09 else 0x01) 8 v
    (s.slicePut x.1 a 8).answer r .ack
  | .watch a t register =>
    if released (w64 (s.mem.load a 8)) t then s.answer r (.reply [⟨1, false⟩])
    else if register then
      match r.src with
      | .core c => { s with watches := s.watches ++ [⟨a, t, c, r.tag, false, false, s.stampNow⟩] }
      | _ => s
    else s.answer r (.reply [⟨0, false⟩])
  | .append q img =>
    let x := s.append q img
    x.1.evalWatches.answer r (.reply [⟨w64 x.2, false⟩])
  | .writeBack _ => s.answer r .ack
  | .table f w0 w1 => (s.writeTable (s.partFor r.src) f w0 w1).answer r .ack
  | .tableRead f => s.answer r (.reply (s.readTable f))
  | .anchor i w => (s.writeAnchor (s.partFor r.src) i w).answer r .ack
  | .future _ _ _ | .counter _ _ _ => s.answer r .ack

end Sys2Proof.Machine
end

