-- ==== Sys2Proof/Machine/Access.lean ====
section
/-! DEFINITION. Requests from a core to the homes of addresses (spec/04 R108, R109; spec/15 R347, R360), the checks of an
access before anything is done (spec/01 R39), and the strands that a translation fault takes out of a core (spec/12 R312). -/
namespace Sys2Proof.Machine

/-- The number that names a source in the source order (spec/06 R146): cores by rank, then the derrick, slices, ports that
report chunk faults (log 58), the host. -/
def State.order (s : State) : Source → Nat
  | .core c => s.rankOf c
  | .derrick => 2 ^ 20
  | .slice n => 2 ^ 20 + 1 + n
  | .port n => 2 ^ 20 + 2 ^ 19 + n
  | .node n => 2 ^ 22 + n
  | .host => 2 ^ 21

/-- An outbound effect leaves at once, or waits in the release gate of a paired context (spec/22 R472). -/
def State.emit (s : State) (e : Instr) : State :=
  if s.me.pair.on then s.modMe fun k => { k with pair := { k.pair with gate := k.pair.gate ++ [e] } } else s.push e

/-- Parts of a store that fall on a core's windows, each as its own event (spec/11 R274, R279); the last is answered. -/
def windowParts (r : Req) (c : Nat) : List Wr → List Instr
  | [] => []
  | w :: ws =>
    let last := ws.isEmpty
    let ack : Option (Nat × List Nat) := match last, r.src with
      | true, .core i => some (i, r.uids)
      | _, _ => none
    (if 0x1A000 ≤ w.addr then .ringWindowPush c ((w.addr - 0x1A000) / 16) w.val ack
     else if w.addr % 64 = 0x38 then .matrixWindowPush c ((w.addr - 0x18000) / 64) w.val ⟨ack, none⟩
     else .remoteAccess { r with op := .store [w], quiet := !last }) :: windowParts r c ws
/-- The events by which a request is performed at its home. -/
def reqEvents (r : Req) : List Instr :=
  match r.home, r.op with
  | some c, .store ws => if ws.any fun w => localEnd ≤ w.addr then windowParts r c ws else [.remoteAccess r]
  | some _, _ => [.remoteAccess r]
  | none, .timeline _ _ _ => [.timelineWrite r]
  | none, _ => [.sliceOperation r]
/-- An access of the acting core to itself that takes its turn among its own stores to its matrix command window: such a store,
and one to its windows while such a store is on its way (spec/01 R41, R349). -/
def State.takesTurn (s : State) (op : MemOp) : Bool :=
  let out := s.events.any fun e => match e with
    | .matrixWindowPush c _ _ ⟨some (i, _), none⟩ => c = s.cur && i = s.cur
    | _ => false
  match op with
  | .store ws => ws.any fun w => localEnd ≤ w.addr && (w.addr < 0x1A000 || out)
  | .load ps => out && ps.any fun p => localEnd ≤ p.1
  | _ => false
/-- An effect in the release gate bound where a request goes: to the same core, or to the slices. -/
def State.behindGate (s : State) (r : Req) : Bool :=
  s.me.pair.on && s.me.pair.gate.any fun e => match e, r.home with
    | .remoteAccess q, some c => q.home = some c
    | .ringWindowPush d _ _ _, some c | .matrixWindowPush d _ _ _, some c => d = c
    | .sliceOperation _, none | .timelineWrite _, none => true
    | _, _ => false
/-- A request leaves. One to the issuing core's own memory is performed at once, as a local access (spec/01 R41); the
others travel, those that count in USC through the release gate, and behind them what must not pass them (spec/15 R349, R363). -/
def State.dispatch (s : State) (counted : Bool) (r : Req) : State :=
  if r.home = some s.cur && !s.takesTurn r.op then let x := s.performCore s.cur r.op; x.1.answer r x.2
  else if counted then (reqEvents r).foldl State.emit s
  else if s.behindGate r then ((reqEvents r).foldl State.emit s).closing
  else (reqEvents r).foldl State.push s

/-- Whether a request takes an entry of the table. -/
def LoadDest.takesEntry : LoadDest → Bool
  | .update | .copy _ => false
  | _ => true
/-- Room in the outstanding-load table (spec/04 R108), in which forwarding entries hold places too (spec/15 R359). -/
def Core.loadRoom (k : Core) (n : Nat) : Bool :=
  (k.loads.filter fun e => e.dest.takesEntry).length + (k.forwards.filter (!·.own)).length + n ≤ 32
/-- Room in the count of unacknowledged stores (spec/04 R109). -/
def Core.storeRoom (k : Core) (n : Nat) : Bool := k.usc.toNat + n ≤ 0xFFFF

/-- The home and operation of a checked address. -/
def Chk.home : Chk → Option Nat
  | .core c _ => some c
  | _ => none
def Chk.at : Chk → Nat
  | .core _ o => o
  | .phys pa _ => pa
  | _ => 0

/-- The lanes whose store count rises with a gang access: all of its gang (spec/06 R139). -/
def Gang.uids (g : Gang) : List Nat := g.lanes.map (·.uid)
/-- Lanes with one more unacknowledged store each. -/
def Gang.addStores (g : Gang) (uids : List Nat) : Gang :=
  { g with lanes := g.lanes.map fun l => if uids.contains l.uid then { l with unacked := l.unacked + 1 } else l }

/-- A store request: USC and the lanes' counts rise, the request leaves (spec/04 R109, spec/15 R360). -/
def State.sendStore (s : State) (uids : List Nat) (home : Option Nat) (op : MemOp) : State :=
  let s' := s.modMe fun k => { k.modGang (·.addStores uids) with usc := k.usc + 1 }
  s'.dispatch true { src := .core s.cur, tag := 0, uids, home, op }

/-- A request with a reply: it takes an entry of the outstanding-load table under a fresh tag; `counted` requests also
raise USC until their reply. -/
def State.sendLoad (s : State) (dest : LoadDest) (uids : List Nat) (counted : Bool) (home : Option Nat) (op : MemOp) : State :=
  let r : Req := { src := .core s.cur, tag := s.nextTag, uids := if counted then uids else [], home, op }
  let e : LoadEntry := { tag := s.nextTag, slot := s.me.slot, dest, usc := counted, uids, req := r, since := s.clock,
                         held := none, forward := none, orphan := false, late := false }
  let s' := (s.modMe fun k => { k with loads := k.loads ++ [e], usc := if counted then k.usc + 1 else k.usc }).fresh
  let s' := if counted then s'.modGang (·.addStores uids) else s'
  s'.dispatch counted r


/-! ### Faults of translation (spec/12 R312) -/

/-- The lowest free fault frame. -/
def Core.freeFrame (k : Core) : Option Nat := (List.range 16).find? fun f => !k.frames.getLsbD f
/-- Load entries of a slot, moved to a fault frame: replies go to the saved strands (slot 16 + frame). -/
def LoadEntry.toFrame (slot frame : Nat) (e : LoadEntry) : LoadEntry :=
  if e.slot = slot then
    { e with slot := 16 + frame, dest := match e.dest with
        | .gang _ r n x b => .gang (16 + frame) r n x b
        | .gangs _ a c b => .gangs (16 + frame) a c b
        | .phase _ => .phase (16 + frame)
        | d => d }
  else e
/-- Lanes that go back to the shared lanes of a core's cluster (spec/16 R374). -/
def State.returnShared (s : State) (c n : Nat) : State :=
  s.modCluster (s.clusterOf c) fun u => { u with sharedTaken := u.sharedTaken - n }
/-- A fault of the whole gang: it leaves its slot for the core's lowest free frame, with its queue at the instruction
(R113, R312); with no frame free the instruction waits. At level 1 the trap routine has no frame to go to: the fault is
its instruction's trap (log 12). -/
def State.gangFault (s : State) (a : Word) (write : Bool) : Out :=
  let k := s.me
  if k.priv ≠ 0 then .trap ⟨0x05, bnat write, a, s.allLanes⟩
  else match k.freeFrame with
    | none => .wait s
    | some f =>
      let save : FaultSave := { frame := f, lanes := k.gang.lanes, gang := { k.gang with lanes := [] }, gangFault := true,
                                addr := a, write }
      .stay ((s.setMe { k with gangs := mdel k.gangs k.slot, frames := bput k.frames f true, faults := k.faults ++ [save],
                               loads := k.loads.map (·.toFrame k.slot f) }).returnShared s.cur (k.gang.grant - 1)).wake

/-- The checks of a gang access, then what it does with the checked address. -/
def State.checked (s : State) (a : Word) (write : Bool) (c : Chk) (body : Chk → Out) : Out :=
  match c with
  | .fail code sub => s.addrTrap code sub a
  | .fault => s.gangFault a write
  | .walk => .wait (s.askWalks [pageOf a])
  | c => body c

/-- A gang access in global or core space: acquires before it, its checks, registers that arrived pending (spec/15
R358). -/
def State.gangAccess (s : State) (a : Word) (size align : Nat) (write : Bool) (mis : Nat) (body : Chk → Out) : Out :=
  if s.me.acquiring then .wait s
  else s.checked a write (s.check a size align write mis) fun c =>
    if s.gang.arrivedPending s.gang.indices then .wait s else body c
/-- A gang store or another effect that leaves the core: it waits for release fences and for room in USC. -/
def State.whenStore (s : State) (body : Out) : Out :=
  if s.me.fenced || !s.me.storeRoom 1 then .wait s else body
/-- A store that enters the request send queue waits while that queue is full (spec/04 R109), of messages and of packets that no
frame has admitted (spec/17 R396). -/
def State.whenQueued (s : State) (body : Out) : Out :=
  if 8 ≤ s.me.sendReq.length + s.heldBy (.core s.cur) then .wait s else body
/-- A release: every earlier access performed and USC zero (spec/10 R253). -/
def State.whenReleased (s : State) (body : Out) : Out := if s.me.drained then body else .wait s.closing

end Sys2Proof.Machine
end

