-- ==== Sys2Proof/Machine/GangMem.lean ====
section
/-! DEFINITION. Gang memory instructions (spec/04 R104-R113), opcodes 0x30 to 0x3F. -/
namespace Sys2Proof.Machine

/-- The effective address of format M (R104), and the registers that form it. -/
def State.eaM (s : State) (a : BitVec 4) (n : BitVec 1) (f : BitVec 11) : Word :=
  if n = 0 then s.readG a + sext64 11 f.toNat else s.readG a + s.readG (f.extractLsb' 7 4)
def eaReads (a : BitVec 4) (n : BitVec 1) (f : BitVec 11) : List (BitVec 4) :=
  if n = 0 then [a] else [a, f.extractLsb' 7 4]
/-- Bytes of a SIZE field. -/
def accessSize (z : BitVec 2) : Nat := 2 ^ z.toNat
/-- A datum of `size` bytes, extended as SX says (R105). -/
def extend (size : Nat) (sx : Bool) (v : Word) : Word :=
  if sx then sext64 (8 * size) v.toNat else w64 (v.toNat % 2 ^ (8 * size))

/-! ### Local forms (R107) -/

/-- A local form: acquires before it, its checks, then the access itself. -/
def State.localForm (s : State) (addrs uses all : List (BitVec 4)) (ea : Word) (align mis : Nat) (body : Out) : Out :=
  s.gateAddr addrs uses all ea <|
    if s.me.acquiring then .wait s
    else match checkLocal ea align mis with
      | some (code, sub) => s.addrTrap code sub ea
      | none => body
/-- A local load of registers from consecutive addresses. -/
def State.loadLocal (s : State) (size : Nat) (sx : Bool) : List (BitVec 4 × Nat) → State
  | [] => s
  | (d, a) :: ps =>
    let x := s.me.mem.datum a size
    (s.writeG d (extend size sx x.val) x.poison).loadLocal size sx ps
/-- A local store of bytes at one offset. -/
def State.storeLocal (s : State) (ws : List Wr) : State := s.modMe (·.writes ws)
/-- The 64 bytes that `stz` and `stzl` write. -/
def zeroBlock (a : Nat) : List Wr := (List.range 8).map fun i => ⟨a + 8 * i, 8, 0, false⟩
/-- The address of a local access as a watchpoint compares it (spec/23 R482). -/
def State.seenLocal (s : State) (ea : Word) (size : Nat) (load : Bool) : List Seen :=
  [⟨0, coreAddr s.cur ea.toNat, size, load, !load⟩]

/-- `ldl`. -/
def execLdl (d a : BitVec 4) (z : BitVec 2) (e n : BitVec 1) (f : BitVec 11) (s : State) : Host.Outcome State Fault Refusal :=
  let ea := s.eaM a n f
  let size := accessSize z
  s.finish (s.localForm (eaReads a n f) [] (d :: eaReads a n f) ea size 0 <|
    .next ((s.scanLocal s.cur ea.toNat size).loadLocal size (e = 1) [(d, ea.toNat)]) (s.watch true (s.seenLocal ea size true)))
/-- `stl`. -/
def execStl (d a : BitVec 4) (z : BitVec 2) (n : BitVec 1) (f : BitVec 11) (s : State) : Host.Outcome State Fault Refusal :=
  let ea := s.eaM a n f
  let size := accessSize z
  s.finish (s.localForm (eaReads a n f) [] (d :: eaReads a n f) ea size 1 <|
    if s.me.fenced then .wait s
    else .next (s.storeLocal [⟨ea.toNat, size, s.readG d, s.me.poisonG d.toNat⟩]) (s.watch true (s.seenLocal ea size false)))
/-- The registers of a pair form: gD and g(D+1). -/
def pairOf (d : BitVec 4) : BitVec 4 := d + 1
/-- `ldl.pr`. -/
def execLdlPr (d a : BitVec 4) (n : BitVec 1) (f : BitVec 11) (s : State) : Host.Outcome State Fault Refusal :=
  let ea := s.eaM a n f
  s.finish (s.localForm (eaReads a n f) [] (d :: pairOf d :: eaReads a n f) ea 16 0 <|
    .next ((s.scanLocal s.cur ea.toNat 16).loadLocal 8 false [(d, ea.toNat), (pairOf d, ea.toNat + 8)])
      (s.watch true (s.seenLocal ea 16 true)))
/-- `stl.pr`. -/
def execStlPr (d a : BitVec 4) (n : BitVec 1) (f : BitVec 11) (s : State) : Host.Outcome State Fault Refusal :=
  let ea := s.eaM a n f
  s.finish (s.localForm (eaReads a n f) [] (d :: pairOf d :: eaReads a n f) ea 16 1 <|
    if s.me.fenced then .wait s
    else .next (s.storeLocal [⟨ea.toNat, 8, s.readG d, s.me.poisonG d.toNat⟩,
                              ⟨ea.toNat + 8, 8, s.readG (pairOf d), s.me.poisonG (pairOf d).toNat⟩])
      (s.watch true (s.seenLocal ea 16 false)))
/-- `stzl`. -/
def execStzl (a : BitVec 4) (n : BitVec 1) (f : BitVec 11) (s : State) : Host.Outcome State Fault Refusal :=
  let ea := s.eaM a n f
  s.finish (s.localForm (eaReads a n f) [] (eaReads a n f) ea 64 1 <|
    if s.me.fenced then .wait s
    else .next (s.storeLocal (zeroBlock ea.toNat)) (s.watch true (s.seenLocal ea 64 false)))

/-! ### Global and core-space forms (R108-R110) -/

/-- A load that has passed its checks: an entry of the table, the request, gD pending (R108). -/
def State.startLoad (s : State) (d : BitVec 4) (size : Nat) (sx acq : Bool) (c : Chk) : State :=
  let bank : Bool := s.me.priv = 1
  let t := s.pendG d
  let t := if acq then t.modGang fun g => { g with acq := g.acq ++ [s.nextTag] } else t
  t.sendLoad (.gang s.me.slot d.toNat size sx bank) [] false c.home (.load [(c.at, size)])
/-- A gang load (R108); `acq` for the acquire form (R110). -/
def State.loadForm (s : State) (d : BitVec 4) (addrs : List (BitVec 4)) (ea : Word) (size : Nat) (sx acq : Bool) : Out :=
  s.gateAddr addrs [] (d :: addrs) ea <| s.gangAccess ea size size false 0 fun c =>
    if !s.me.loadRoom 1 then .wait s
    else .next (s.startLoad d size sx acq c) (s.watch true [⟨0, ea, size, true, false⟩])
/-- A gang store (R109); `rel` for the release form (R110). -/
def State.storeForm (s : State) (regs addrs : List (BitVec 4)) (ea : Word) (size : Nat) (rel : Bool) (ws : Nat → List Wr) : Out :=
  s.gateAddr addrs [] (regs ++ addrs) ea <| s.gangAccess ea size size true 1 fun c =>
    let body : Out := s.whenStore <| s.whenQueued <|
      .next (s.sendStore s.gang.uids c.home (.store (ws c.at))) (s.watch true [⟨0, ea, size, false, true⟩])
    if rel then s.whenReleased body else body
/-- The write of a gang register's low bytes. -/
def State.gangWrite (s : State) (d : BitVec 4) (size a : Nat) : List Wr := [⟨a, size, s.readG d, s.me.poisonG d.toNat⟩]

/-- `ld`. -/
def execLd (d a : BitVec 4) (z : BitVec 2) (e n : BitVec 1) (f : BitVec 11) (s : State) : Host.Outcome State Fault Refusal :=
  s.finish (s.loadForm d (eaReads a n f) (s.eaM a n f) (accessSize z) (e = 1) false)
/-- `ld.nc`: as `ld`; what the slice cache keeps is not architectural (spec/14 R334). -/
def execLdNc (d a : BitVec 4) (z : BitVec 2) (e n : BitVec 1) (f : BitVec 11) (s : State) : Host.Outcome State Fault Refusal :=
  s.finish (s.loadForm d (eaReads a n f) (s.eaM a n f) (accessSize z) (e = 1) false)
/-- `ld.acq`; the scopes wait alike (spec/10 R252). -/
def execLdAcq (d a : BitVec 4) (z : BitVec 2) (e : BitVec 1) (_c : BitVec 3) (s : State) : Host.Outcome State Fault Refusal :=
  s.finish (s.loadForm d [a] (s.readG a) (accessSize z) (e = 1) true)
/-- `st`. -/
def execSt (d a : BitVec 4) (z : BitVec 2) (n : BitVec 1) (f : BitVec 11) (s : State) : Host.Outcome State Fault Refusal :=
  s.finish (s.storeForm [d] (eaReads a n f) (s.eaM a n f) (accessSize z) false (s.gangWrite d (accessSize z)))
/-- `st.nc`. -/
def execStNc (d a : BitVec 4) (z : BitVec 2) (n : BitVec 1) (f : BitVec 11) (s : State) : Host.Outcome State Fault Refusal :=
  s.finish (s.storeForm [d] (eaReads a n f) (s.eaM a n f) (accessSize z) false (s.gangWrite d (accessSize z)))
/-- `st.rel`. -/
def execStRel (d a : BitVec 4) (z : BitVec 2) (_c : BitVec 3) (s : State) : Host.Outcome State Fault Refusal :=
  s.finish (s.storeForm [d] [a] (s.readG a) (accessSize z) true (s.gangWrite d (accessSize z)))
/-- `stz`: 64 zero bytes, one store. -/
def execStz (a : BitVec 4) (n : BitVec 1) (f : BitVec 11) (s : State) : Host.Outcome State Fault Refusal :=
  s.finish (s.storeForm [] (eaReads a n f) (s.eaM a n f) 64 false zeroBlock)
/-- `pf`: brings a block into the slice cache, which no program can tell; it never traps (R111, log 9). -/
def execPf (a : BitVec 4) (n : BitVec 1) (f : BitVec 11) (s : State) : Host.Outcome State Fault Refusal :=
  s.finish (if s.anyPendG (eaReads a n f) then .wait s else .next s)
/-- Check 4 of `wbk` and `xlq`: a page that grants RD or WR, either one. -/
def anyGrant (e : TlbEntry) : Bool := e.rd || e.wr
/-- `wbk`: checked without alignment; it counts in USC until HBM acknowledges (R111). A translation fault that it meets is a write
fault: the spec gives the protection subcode alone (DESIGN CHOICE, log 60). -/
def execWbk (a : BitVec 4) (n : BitVec 1) (f : BitVec 11) (s : State) : Host.Outcome State Fault Refusal :=
  let ea := s.eaM a n f
  s.finish (s.gateAddr (eaReads a n f) [] (eaReads a n f) ea <|
    if s.me.acquiring then .wait s
    else if badForm ea then s.addrTrap 0x04 0 ea
    else if inCoreSpace ea then (if s.sees (coreOf ea) then .next s else s.addrTrap 0x07 0 ea)
    else s.checked ea true (s.translate s.cur s.gang ea anyGrant 0) fun c =>
      if s.gang.arrivedPending s.gang.indices then .wait s
      else s.whenStore (.next (s.sendStore s.gang.uids none (.writeBack c.at))))
/-- `xlq` (R112). -/
def execXlq (d a : BitVec 4) (n : BitVec 1) (f : BitVec 11) (s : State) : Host.Outcome State Fault Refusal :=
  let ea := s.eaM a n f
  s.finish (s.gateAddr (eaReads a n f) [] (d :: eaReads a n f) ea <|
    if badForm ea then .next (s.writeG d 0)
    else if inCoreSpace ea then
      if s.sees (coreOf ea) then
        .next (s.writeG d (w64 (1 + 2 * bnat (windowPermits (coreOffset ea) 8 false) + 4 * bnat (windowPermits (coreOffset ea) 8 true))))
      else .next (s.writeG d 0)
    else match s.translate s.cur s.gang ea (fun _ => true) 0 with
      | .phys _ t => .next (s.writeG d (w64 (1 + 2 * bnat t.rd + 4 * bnat t.wr + 8 * bnat t.large)))
      | .walk => .wait (s.askWalks [pageOf ea])
      | _ => .next (s.writeG d 0))
/-- The cause code of a check: 0 when every check passes. -/
def Chk.cause : Chk → Nat
  | .fail c _ => c
  | .fault => 0x05
  | _ => 0
/-- `chka` (R112); SX selects the write test. -/
def execChka (d a : BitVec 4) (z : BitVec 2) (e n : BitVec 1) (f : BitVec 11) (s : State) : Host.Outcome State Fault Refusal :=
  let ea := s.eaM a n f
  s.finish (s.gateAddr (eaReads a n f) [] (d :: eaReads a n f) ea <|
    match s.check ea (accessSize z) (accessSize z) (e = 1) 0 with
    | .walk => .wait (s.askWalks [pageOf ea])
    | c => .next (s.writeG d (w64 c.cause)))

end Sys2Proof.Machine
end

