-- ==== Sys2Proof/Machine/Operands.lean ====
section
/-! DEFINITION. Lane operands (spec/03 R83, R84), guards, and the shape of a lane instruction (spec/09 R204-R206): its
waits, its consumption of poison, its writes of a destination and of `lt` (spec/01 R31). -/
namespace Sys2Proof.Machine

/-- Operand number of `lt` (Table 3-3). -/
def ltNum : Nat := 36
/-- A lane operand: a register, or a constant 0-15 for 48-63 (spec/01 R32). -/
def Lane.read (l : Lane) (n : Nat) : Word := if 48 ≤ n then w64 (n - 48) else mget 0 l.regs n
/-- The poison mark of an operand; 40 to 47 stand for the sidecars. -/
def Lane.bad (l : Lane) (n : Nat) : Bool := n < 48 && l.poison.getLsbD n
/-- An operand that awaits a load reply. -/
def Lane.pending (l : Lane) (n : Nat) : Bool := n < 48 && l.pend.getLsbD n
/-- One register written with a poison mark. -/
def Lane.put (l : Lane) (n : Nat) (v : Word) (p : Bool) : Lane :=
  { l with regs := mset 0 l.regs n v, poison := bput l.poison n p }
/-- A lane destination and `lt` written with one value (R31). -/
def Lane.write (l : Lane) (d : Nat) (v : Word) (p : Bool) : Lane := (l.put d v p).put ltNum v p
/-- A predicate written; a write to `p0` is discarded. -/
def Lane.setPred (l : Lane) (p : Nat) (v : Bool) : Lane :=
  if p = 0 then l else { l with preds := bput l.preds p v, poison := bput l.poison (48 + p) false }
/-- Sidecar `kq` with its marks. -/
def Lane.sidecar (l : Lane) (q : Nat) : BitVec 16 := mget 0x7F7F#16 l.side q
def Lane.setSidecar (l : Lane) (q : Nat) (v : BitVec 16) (p : Bool) : Lane :=
  { l with side := mset 0x7F7F#16 l.side q v, poison := bput l.poison (40 + q) p }

/-- The lanes in which a lane instruction may take effect: all, or the one that a lane step names (spec/12 R307). -/
def Gang.active (g : Gang) : List Nat :=
  match g.step with
  | .lane i => (List.range g.lanes.length).filter (· = i)
  | _ => List.range g.lanes.length
/-- `Guard(i)`: the guard predicate of lane i (spec/03 Table 3-9). -/
def Gang.guards (g : Gang) (p : Nat) (i : Nat) : Bool :=
  match g.lanes[i]? with
  | some l => l.preds.getLsbD p
  | none => false
/-- The lanes of a guard in which the instruction takes effect, ascending. -/
def Gang.guard (g : Gang) (p : BitVec 3) : List Nat := g.active.filter (g.guards p.toNat)
def Gang.lane (g : Gang) (i : Nat) : Lane := g.lanes[i]?.getD {}
/-- A change of some lanes. -/
def Gang.mapLanes (g : Gang) (is : List Nat) (f : Nat → Lane → Lane) : Gang :=
  { g with lanes := g.lanes.mapIdx fun i l => if is.contains i then f i l else l }
/-- Lanes as a lane mask. -/
def laneMask (is : List Nat) : BitVec 32 := is.foldl (fun m i => bput m i true) 0

/-- The first poisoned operand of the lowest lane that has one. -/
def Gang.poisonedOperand (g : Gang) (is : List Nat) (ns : List Nat) : Option Nat :=
  (is.flatMap fun i => ns.filter fun n => (g.lane i).bad n).head?
/-- The lanes that would consume poison. -/
def Gang.poisonedLanes (g : Gang) (is : List Nat) (ns : List Nat) : List Nat :=
  is.filter fun i => ns.any fun n => (g.lane i).bad n
/-- A guard predicate that carries poison in some lane of the gang. -/
def Gang.guardPoison (g : Gang) (p : BitVec 3) : Bool := g.lanes.any fun l => l.poison.getLsbD (48 + p.toNat)

/-- A lane instruction over the lanes `is`: it waits on the registers it reads and writes there (R205), consumes the
poison of its guard and of `uses` (spec/22 R466), and goes on. -/
def State.laneGate (s : State) (p : BitVec 3) (is uses all : List Nat) (body : Out) : Out :=
  let g := s.gang
  if is.any fun i => all.any fun n => (g.lane i).pending n then .wait s
  else if g.guardPoison p then .trap ⟨0x0E, 0, w64 p.toNat, s.allLanes⟩
  else match g.poisonedOperand is uses with
    | some n => .trap ⟨0x0E, 0, w64 n, laneMask (g.poisonedLanes is uses)⟩
    | none => body

/-- An instruction that computes one value per lane of its guard from operands it consumes, and writes `D` and `lt`; it waits
for `lt` too while a load still has to write it (R205; DEDUCED, log 46). -/
def State.laneOp (s : State) (p : BitVec 3) (d : BitVec 6) (srcs : List (BitVec 6)) (f : Nat → Lane → Word) : Out :=
  let is := s.gang.guard p
  let ns := srcs.map (·.toNat)
  s.laneGate p is ns (ltNum :: d.toNat :: ns) (.next (s.modGang (·.mapLanes is fun i l => l.write d.toNat (f i l) false)))
/-- An instruction that writes the predicate named by D in the lanes of its guard (R209). -/
def State.lanePred (s : State) (p : BitVec 3) (d : BitVec 6) (srcs : List (BitVec 6)) (f : Lane → Bool) : Out :=
  let is := s.gang.guard p
  let ns := srcs.map (·.toNat)
  s.laneGate p is ns ns (.next (s.modGang (·.mapLanes is fun _ l => l.setPred d.toNat (f l))))

/-! ### Elements (R204) -/

/-- Element `j` of width `w`. -/
def element (w j : Nat) (v : Word) : Nat := v.toNat / 2 ^ (w * j) % 2 ^ w
/-- A register from its elements; the bits above the last are zero. -/
def fromElements (w : Nat) (vs : List Nat) : Word := w64 (vs.mapIdx fun j v => v % 2 ^ w * 2 ^ (w * j)).sum
/-- The elements of a register, `n` of them. -/
def elements (w n : Nat) (v : Word) : List Nat := (List.range n).map fun j => element w j v
/-- The element width of a MOD field (Table 3-5). -/
def widthOf (m : BitVec 2) : Nat := 64 / 2 ^ m.toNat
/-- A function of two elements applied to each pair. -/
def packed (m : BitVec 2) (f : (w : Nat) → BitVec w → BitVec w → BitVec w) (a b : Word) : Word :=
  let w := widthOf m
  fromElements w ((List.range (64 / w)).map fun j => (f w (BitVec.ofNat w (element w j a)) (BitVec.ofNat w (element w j b))).toNat)
/-- A relation that holds for every pair of elements. -/
def packedAll (m : BitVec 2) (f : (w : Nat) → BitVec w → BitVec w → Bool) (a b : Word) : Bool :=
  let w := widthOf m
  (List.range (64 / w)).all fun j => f w (BitVec.ofNat w (element w j a)) (BitVec.ofNat w (element w j b))

/-- The tree of spec/08 R202: positions paired level by level, empty nodes passed over. -/
def treeLevel {α : Type} (f : α → α → α) : List (Option α) → List (Option α)
  | [] => []
  | [x] => [x]
  | some x :: some y :: rest => some (f x y) :: treeLevel f rest
  | some x :: none :: rest => some x :: treeLevel f rest
  | none :: y :: rest => y :: treeLevel f rest
/-- The root over 32 positions. -/
def treeRoot {α : Type} (f : α → α → α) (xs : List (Option α)) : Option α :=
  ((((treeLevel f (treeLevel f (treeLevel f (treeLevel f (treeLevel f xs))))).head?).join) : Option α)

end Sys2Proof.Machine
end

