-- ==== Sys2Proof/Machine/Faults.lean ====
section
/-! DEFINITION. Lanes that leave a gang (spec/06 R138), the end of a firing (spec/06 R156, spec/20 R449), and the lanes that
a translation fault takes out of a gang (spec/10 R227, spec/12 R312). -/
namespace Sys2Proof.Machine

/-- The gang without some lanes; the others are renumbered downward in their order (R138). -/
def Gang.without (g : Gang) (is : List Nat) : Gang :=
  { g with lanes := (g.lanes.zipIdx.filter fun p => !is.contains p.2).map (·.1) }
/-- The lanes at some indices, ascending. -/
def Gang.pick (g : Gang) (is : List Nat) : List Lane := (g.lanes.zipIdx.filter fun p => is.contains p.2).map (·.1)

/-- Replies owed to a gang that is no more are discarded; those of its lanes go where the lanes went (spec/06 R139). -/
def Core.orphanLoads (k : Core) (slot : Nat) : Core :=
  { k with loads := k.loads.map fun (e : LoadEntry) =>
      if e.slot = slot then
        { e with orphan := true, dest := match e.dest with
            | .gang _ _ _ _ _ | .gangs _ _ _ _ | .phase _ => .discard
            | d => d }
      else e }
/-- Loads of lanes that have left a gang no longer count as its own accesses. -/
def Core.leaveLoads (k : Core) (slot : Nat) : Core :=
  { k with loads := k.loads.map fun (e : LoadEntry) =>
      match e.dest with
      | .lanes ps =>
        if e.slot = slot ∧ !(ps.any fun p => (k.at slot).lanes.any (·.uid = p.uid)) then { e with orphan := true } else e
      | _ => e }
/-- The firing in a slot of the acting core ends: its lanes return to the pool, and the slot is free; a change firing
keeps it until the decrement for its held record has been sent (spec/20 R449). A trap routine that has run out of lanes
ends with it. -/
def State.endFiring (s : State) (slot : Nat) : State :=
  let k := s.me
  let g := k.at slot
  let t := s.returnShared s.cur (g.grant - 1)
  let k' := if k.owner = .gang slot ∨ (k.owner = .system ∧ slot = 4) then { k with owner := .none, priv := 0 } else k
  let k' := k'.leaveReaders slot
  (t.setMe (match g.held with
    | some _ => k'.setAt slot { g with lanes := [], grant := 1, ending := true, waiting := false, xfer := none, causes := [] }
    | none => { k'.orphanLoads slot with gangs := mdel k'.gangs slot })).wake

/-- The lanes `is` of the acting gang, saved to the core's lowest free frame with the queue at the instruction. -/
def Core.saveLanes (k : Core) (f : Nat) (is : List Nat) (a : Word) (write : Bool) : Core :=
  let save : FaultSave := { frame := f, lanes := k.gang.pick is, gang := { k.gang with lanes := [] }, gangFault := false, addr := a, write }
  { k with frames := bput k.frames f true, faults := k.faults ++ [save] }
/-- A translation fault in the lanes `is`, the lowest at address `a` (R227, R312): they leave the gang for one frame, and
`go` completes the instruction in the others. It waits for a free frame, and until no gang register awaits a reply, since
a frame holds them all. In a delay slot of a transfer elsewhere the whole gang faults. -/
def State.laneFault (s : State) (is : List Nat) (a : Word) (write : Bool) (go : State → Out) : Out :=
  let k := s.me
  if k.priv ≠ 0 then .trap ⟨0x05, bnat write, a, laneMask is⟩
  else if k.gang.xfer.isSome then s.gangFault a write
  else match k.freeFrame with
    | none => .wait s
    | some f =>
      if k.gang.gPend ≠ 0 then .wait s
      else
        let t := s.setMe (k.saveLanes f is a write)
        if k.gang.lanes.length ≤ is.length then
          .stay ((t.modGang fun g => { g with held := none }).endFiring k.slot)
        else go t

/-- The saving core and the number of the fault frame at an address (spec/12 R311). -/
def State.frameCore (s : State) (a : Nat) : Nat × Nat :=
  (((s.ctx.cores[(a - s.ctx.frameBase) / 0x40000]?).map (·.1)).getD 0, (a - s.ctx.frameBase) / 0x4000 % 16)
/-- The change record that is held by a lane in a fault frame (spec/20 R449). -/
def State.frameHold (s : State) (a : Nat) : Option (Nat × BitVec 32) :=
  ((s.ctx.frameHolds.find? (·.1 = a)).map (·.2)).or
    (((s.core (s.frameCore a).1).faults.find? fun f => f.frame = (s.frameCore a).2).bind fun f => f.gang.held)
/-- It is held there no longer. -/
def State.dropFrameHold (s : State) (a : Nat) : State :=
  { s.modCore (s.frameCore a).1 fun k => { k with faults := k.faults.map fun (f : FaultSave) =>
      if f.frame = (s.frameCore a).2 then { f with gang := { f.gang with held := none } } else f } with
    ctx := { s.ctx with frameHolds := s.ctx.frameHolds.filter (·.1 ≠ a) } }
/-- The frame that a message returns. -/
def returnedFrame (m : Msg) : Option Nat :=
  match m.body with
  | .carry x => x.frame
  | _ => none
/-- A record held in a frame whose return is lost, is lost (spec/22 Table 22-6). -/
def State.loseHold (s : State) (m : Msg) : State :=
  match returnedFrame m with
  | none => s
  | some a => match s.frameHold a with
    | some h => (s.dropFrameHold a).push (.changeRecordLost h.1 h.2)
    | none => s

end Sys2Proof.Machine
end

