-- ==== Sys2Proof/Machine/Channels.lean ====
section
/-! DEFINITION. Channels, grants and arrivals (spec/06 R143-R167), messages at their sources, the routine directory
(R132, R133), replica choice (R151), the strand pool (spec/01 R25), and carry messages (R131) with their rings (R148). -/
namespace Sys2Proof.Machine

/-! ### Handler-table entries (Table 6-7) -/

def Channel.routine (c : Channel) : Nat := fieldOf c.word0 63 48
def Channel.offset (c : Channel) : Nat := fieldOf c.word0 44 32
def Channel.kind (c : Channel) : Nat := fieldOf c.word0 31 30
def Channel.prio (c : Channel) : Nat := fieldOf c.word0 29 27
def Channel.slots (c : Channel) : Nat := fieldOf c.word0 26 20
def Channel.fire (c : Channel) : Nat := fieldOf c.word0 19 10
/-- The lane claim, 1 to 32. -/
def Channel.claim (c : Channel) : Nat := fieldOf c.word0 9 5 + 1
def Channel.cons (c : Channel) : Bool := c.word0.getLsbD 4
def Channel.start (c : Channel) : Bool := c.word0.getLsbD 3
def Channel.setPrio (c : Channel) (p : Nat) : Channel :=
  { c with word0 := (c.word0 &&& 0xFFFFFFFFC7FFFFFF#64) ||| w64 (p % 8 * 2 ^ 27) }
def Channel.setClaim (c : Channel) (n : Nat) : Channel :=
  { c with word0 := (c.word0 &&& 0xFFFFFFFFFFFFFC1F#64) ||| w64 ((n - 1) % 32 * 2 ^ 5) }
/-- Slots of the channel are reserved for its routine's ring (R150). -/
def Channel.drains (c : Channel) : Bool := c.ovf && c.state ≠ 0 && c.kind = 0
def kindCode : MsgKind → Nat
  | .carry => 0
  | .data => 1
  | .change => 2

def Core.arrivalsAt (k : Core) (ch : Nat) : List Arrival := k.arrivals.filter (·.msg.ch = ch)
/-- What an arrival counts in WAITING: a data message its words, any other 1. -/
def Arrival.weight (a : Arrival) : Nat :=
  match a.msg.body with
  | .data ws => ws.length
  | _ => 1
def Core.waitingAt (k : Core) (ch : Nat) : Nat := ((k.arrivalsAt ch).map Arrival.weight).sum
/-- Slots occupied, granted, or being filled from the ring. -/
def Core.slotsUsed (k : Core) (ch : Nat) : Nat :=
  ((k.arrivalsAt ch).map (·.msg.slots)).sum + ((k.granted.filter (·.ask.ch = ch)).map (·.ask.slots)).sum
def Core.slotsFree (k : Core) (ch : Nat) : Nat := (k.channel ch).slots - k.slotsUsed ch
/-- READY (Table 6-7). -/
def Core.isReady (k : Core) (ch : Nat) : Bool :=
  let c := k.channel ch
  c.enable && !c.hold && c.state = 1 && c.fire ≤ k.waitingAt ch
/-- Word 1 of an entry as `chrd` stores it. -/
def Core.channelStatus (k : Core) (ch : Nat) : Word :=
  let c := k.channel ch
  let n := k.waitingAt ch
  w64 (n % 1024 * 65536 + c.state * 16 + 8 * bnat (k.isReady ch) + 4 * bnat c.hold + 2 * bnat (0 < n) + bnat c.enable)
/-- A gang formed on a channel is resident. -/
def Core.resident (k : Core) (ch : Nat) : Bool := k.gangs.any fun e => e.1 < 4 && e.2.channel = ch

/-! ### Grants at the destination (R143-R145, R160) -/

/-- The oldest requests for a channel granted or refused, as many as may be. -/
def State.grantNext (s : State) (c ch : Nat) : Nat → State
  | 0 => s
  | n + 1 =>
    let k := s.core c
    let h := k.channel ch
    match k.asks.find? (·.ch = ch) with
    | none => s
    | some q =>
      let less := k.asks.erase q
      if h.state ≠ 0 ∧ kindCode q.kind ≠ h.kind then
        ((s.setCore c { k with asks := less, refusals := k.refusals + 1 }).push (.refusal q)).grantNext c ch n
      else if h.state = 2 then s
      else if h.slots = 0 ∨ (h.state = 1 ∧ h.kind = 0 ∧ h.ovf) ∨ k.slotsFree ch < q.slots then s
      else ((s.setCore c { k with asks := less, granted := k.granted ++ [⟨q⟩] }).push (.grant q)).grantNext c ch n
/-- Requests of a channel are looked at again: a slot may have freed. -/
def State.regrant (s : State) (c ch : Nat) : State := s.grantNext c ch ((s.core c).asks.length)
/-- Every channel of a core is looked at again. -/
def State.regrantAll (s : State) (c : Nat) : State :=
  (((s.core c).asks.map (·.ch)).eraseDups).foldl (fun t ch => t.regrant c ch) s
/-- The message of a grant has left its source and not arrived. -/
def State.underWayTo (s : State) (q : GrantAsk) : Bool :=
  s.events.any fun e => match e with
    | .carryArrival m | .dataMessageArrival m | .changeMessageArrival m => m.src = q.src && m.id = q.id
    | _ => false
/-- Grants sent and not yet used by an arrival are revoked (R159, R171); the slots of those whose message has not left are freed. -/
def State.revokeGrants (s : State) (c ch : Nat) : State :=
  let k := s.core c
  let gs := k.granted.filter (·.ask.ch = ch)
  gs.foldl (fun t g => t.push (.revocation g.ask))
    (s.setCore c { k with granted := k.granted.filter fun g => g.ask.ch ≠ ch || s.underWayTo g.ask })

/-- A message takes its granted slots (R45); the first arrival on an unbound channel raises its event (R160). -/
def State.arrive (s : State) (m : Msg) : State :=
  let k := s.core m.dst
  let h := k.channel m.ch
  let tell := h.state = 0 && !h.told
  let k' := { k with granted := k.granted.filter (fun g => !(g.ask.src = m.src && g.ask.id = m.id)),
                     arrivals := k.arrivals ++ [⟨m⟩], idle := none,
                     causes := if tell then k.causes ++ [⟨0x0A, 1, w64 m.ch, 0⟩] else k.causes }
  (s.setCore m.dst (if tell then k'.setChannel m.ch { h with told := true } else k')).wake
/-- The oldest arrivals of a channel taken: those with the names given. -/
def Core.dropArrivals (k : Core) (ms : List Msg) : Core := { k with arrivals := k.arrivals.filter fun a => !ms.contains a.msg }

/-! ### Messages at their sources (R143-R147) -/

def Outbound.ask (o : Outbound) : GrantAsk := ⟨o.msg.src, o.msg.id, o.msg.dst, o.msg.ch, o.kind, o.msg.slots⟩
/-- It waits and has neither asked nor been granted. -/
def Outbound.idle (o : Outbound) : Bool := !o.asked && !o.granted && !o.refused && !o.sent
def Core.mapOuts (k : Core) (f : Outbound → Outbound) : Core :=
  { k with outbox := k.outbox.map f, sendReq := k.sendReq.map f, sendRep := k.sendRep.map f, ready := k.ready.map f,
           records := k.records.map f }
def Core.dropOut (k : Core) (id : Nat) : Core :=
  let keep (o : Outbound) : Bool := o.msg.id ≠ id
  { k with outbox := k.outbox.filter keep, sendReq := k.sendReq.filter keep, sendRep := k.sendRep.filter keep,
           ready := k.ready.filter keep, records := k.records.filter keep }

/-- A change record in a slice's queue as a message of that slice. -/
def QueuedChange.out (n : Nat) (e : QueuedChange) : Outbound :=
  { msg := { src := .slice n, id := e.id, dst := e.dst, ch := e.ch, slots := 1, body := .change e.desc e.record },
    kind := .change, slot := 0, laneUid := 0, since := 0, asked := e.asked, granted := e.granted, refused := false }

/-- Standing grants that waiting messages may use at once (R144), each with the message. -/
def useStanding : List HeldGrant → List Outbound → List (HeldGrant × Nat)
  | _, [] => []
  | hs, o :: os =>
    if o.idle then
      match hs.find? fun h => h.ask.src = o.msg.src && h.ask.dst = o.msg.dst && h.ask.ch = o.msg.ch && h.ask.kind = o.kind
          && h.ask.slots = o.msg.slots with
      | some h => (h, o.msg.id) :: useStanding (hs.erase h) os
      | none => useStanding hs os
    else useStanding hs os
/-- Messages that may ask for a grant: at most 4 grants, used or requested, for each channel (R144). -/
def mayAsk (used : List (Source × Nat × Nat)) : List Outbound → List Outbound
  | [] => []
  | o :: os =>
    let key := (o.msg.src, o.msg.dst, o.msg.ch)
    if o.idle ∧ (used.filter (· = key)).length < 4 then o :: mayAsk (key :: used) os else mayAsk used os
/-- What counts against the 4 grants. -/
def usedKeys (hs : List HeldGrant) (os : List Outbound) : List (Source × Nat × Nat) :=
  hs.map (fun h => (h.ask.src, h.ask.dst, h.ask.ch)) ++
    (os.filter fun o => (o.asked || o.granted) && !o.sent && !o.refused).map fun o => (o.msg.src, o.msg.dst, o.msg.ch)
/-- The grants that some messages use and the requests they make. -/
def askPlan (hs : List HeldGrant) (os : List Outbound) : List (HeldGrant × Nat) × List Outbound :=
  let now := useStanding hs os
  let rest := os.filter fun o => !now.any (·.2 = o.msg.id)
  (now, mayAsk (usedKeys hs os) rest)
/-- The messages marked; one that uses a standing grant takes the name that the grant was given under. -/
def markOut (now : List (HeldGrant × Nat)) (asks : List Outbound) (o : Outbound) : Outbound :=
  match now.find? (·.2 = o.msg.id) with
  | some (h, _) => { o with granted := true, msg := { o.msg with id := h.ask.id } }
  | none => if asks.any (·.msg.id = o.msg.id) then { o with asked := true } else o
/-- Messages that may ask: of an open interval of a pair none, they stay in the release gate (spec/22 R472); at a pre-emption only
chunk fault records, which it waits for (spec/12 R316, spec/18 R428). -/
def Core.askable (k : Core) : List Outbound :=
  (if k.preempting then k.records else k.outs).filter fun o => !k.pair.on || o.msg.id < k.pair.mark
/-- A core asks for what it may. -/
def State.askCore (s : State) (c : Nat) : State :=
  let k := s.core c
  let (now, asks) := askPlan k.grants k.askable
  if now.isEmpty && asks.isEmpty then s
  else
    let k' := { k.mapOuts (markOut now asks) with grants := k.grants.filter fun h => !now.any (·.1 = h) }
    asks.foldl (fun t o => t.push (.grantRequest o.ask)) (s.setCore c k')
/-- Since a restore some message of a core has not asked yet (spec/16 R379). -/
def State.restoring (s : State) : Bool := s.ctx.derrickHeld && s.cores.any fun e => e.2.askable.any Outbound.idle
/-- The derrick asks; after a restore once every message of the cores has asked. -/
def State.askDerrick (s : State) : State :=
  let (now, asks) := askPlan s.ctx.derrickGrants s.ctx.derrickOut
  if s.restoring || (now.isEmpty && asks.isEmpty) then s
  else
    let x := { s.ctx with derrickOut := s.ctx.derrickOut.map (markOut now asks),
                          derrickGrants := s.ctx.derrickGrants.filter fun h => !now.any (·.1 = h) }
    asks.foldl (fun t o => t.push (.grantRequest o.ask)) { s with ctx := x }
/-- What the slices, and the ports that verify chunks, have to send: change records and the messages of chains and chunk
faults. -/
def State.sliceOuts (s : State) : List Outbound :=
  (s.changes.flatMap fun e => e.2.map (QueuedChange.out e.1)) ++ s.sliceOut
/-- The first granted message for each channel among some messages. -/
def firstGranted : List Outbound → List (Nat × Nat) → List Outbound
  | [], _ => []
  | o :: os, seen =>
    let key := (o.msg.dst, o.msg.ch)
    if o.sent then firstGranted os seen
    else if o.granted && !seen.contains key then o :: firstGranted os (key :: seen)
    else firstGranted os (key :: seen)
/-- The change records of a slice that may leave: the first of each channel, if granted (spec/20 R445). -/
def sliceReady (n : Nat) (q : List QueuedChange) : List Outbound := firstGranted (q.map (QueuedChange.out n)) []
/-- The slices ask; at a pre-emption for chunk fault records only. -/
def State.askSlices (s : State) : State :=
  let (now, asks) := askPlan s.sliceGrants (if s.cores.any (·.2.preempting) then s.sliceOut.filter (·.fault) else s.sliceOuts)
  if now.isEmpty && asks.isEmpty then s
  else
    let mark (e : QueuedChange) : QueuedChange :=
      match now.find? (·.2 = e.id) with
      | some (h, _) => { e with granted := true, id := h.ask.id }
      | none => if asks.any (·.msg.id = e.id) then { e with asked := true } else e
    asks.foldl (fun t o => t.push (.grantRequest o.ask))
      { s with changes := s.changes.map (fun (e : Nat × List QueuedChange) => (e.1, e.2.map mark)),
               sliceOut := s.sliceOut.map (markOut now asks),
               sliceGrants := s.sliceGrants.filter fun h => !now.any (·.1 = h) }
/-- Every source asks; while the context is being saved only for chunk fault records, while it is saved only the system cores
(spec/12 R316, spec/18 R428); a part of the passing of a cycle. -/
def State.askAll (s : State) : State :=
  let t := (s.cores.map (·.1)).foldl State.askCore s
  if s.ctx.saved then t
  else if t.cores.any (·.2.preempting) then t.askSlices
  else
    let t := t.askDerrick.askSlices
    if t.ctx.derrickHeld && !t.restoring then { t with ctx := { t.ctx with derrickHeld := false } } else t

/-- The messages of a core's request network in the order they were queued: `send` without `.rp`, the ready queue and the chunk
fault records (R163, spec/18 R425). -/
def requestOrder : List Outbound → List Outbound → List Outbound
  | [], ys => ys
  | x :: xs, ys => (ys.filter (·.seq < x.seq)) ++ x :: requestOrder xs (ys.filter fun y => !(y.seq < x.seq))
/-- The messages of that network that may leave: the first of each channel, if granted. -/
def Core.requestReady (k : Core) : List Outbound := firstGranted (requestOrder (requestOrder k.sendReq k.ready) k.records) []
/-- The messages of a source. -/
def State.outsOf (s : State) : Source → List Outbound
  | .core c => (s.core c).outs
  | .derrick => s.ctx.derrickOut
  | .slice n => s.sliceOuts.filter (·.msg.src = .slice n)
  | .port n => s.sliceOuts.filter (·.msg.src = .port n)
  | .host | .node _ => []
/-- A message of a source changed. -/
def State.mapOut (s : State) (src : Source) (id : Nat) (f : Outbound → Outbound) : State :=
  let g (o : Outbound) : Outbound := if o.msg.id = id then f o else o
  match src with
  | .core c => s.modCore c (·.mapOuts g)
  | .derrick => { s with ctx := { s.ctx with derrickOut := s.ctx.derrickOut.map g } }
  | .slice n =>
    let h (e : QueuedChange) : QueuedChange :=
      if e.id = id then let o := f (e.out n); { e with asked := o.asked, granted := o.granted } else e
    { s with sliceOut := s.sliceOut.map g, changes := s.changes.map (fun (e : Nat × List QueuedChange) => (e.1, e.2.map h)) }
  | .port _ => { s with sliceOut := s.sliceOut.map g }
  | .host | .node _ => s
/-- A message of a source removed. -/
def State.dropOut (s : State) (src : Source) (id : Nat) : State :=
  match src with
  | .core c => s.modCore c (·.dropOut id)
  | .derrick => { s with ctx := { s.ctx with derrickOut := s.ctx.derrickOut.filter (·.msg.id ≠ id) } }
  | .slice _ => { s with sliceOut := s.sliceOut.filter (·.msg.id ≠ id),
                         changes := s.changes.map (fun (e : Nat × List QueuedChange) => (e.1, e.2.filter (·.id ≠ id))) }
  | .port _ => { s with sliceOut := s.sliceOut.filter (·.msg.id ≠ id) }
  | .host | .node _ => s
/-- A grant that stays with its source (R144). -/
def State.keepGrant (s : State) (q : GrantAsk) : State :=
  match q.src with
  | .core c => s.modCore c fun k => { k with grants := k.grants ++ [⟨q⟩] }
  | .derrick => { s with ctx := { s.ctx with derrickGrants := s.ctx.derrickGrants ++ [⟨q⟩] } }
  | .slice _ | .port _ => { s with sliceGrants := s.sliceGrants ++ [⟨q⟩] }
  | .host | .node _ => s
/-- A standing grant that lapses. -/
def State.loseGrant (s : State) (q : GrantAsk) : State :=
  match q.src with
  | .core c => s.modCore c fun k => { k with grants := k.grants.filter (·.ask ≠ q) }
  | .derrick => { s with ctx := { s.ctx with derrickGrants := s.ctx.derrickGrants.filter (·.ask ≠ q) } }
  | .slice _ | .port _ => { s with sliceGrants := s.sliceGrants.filter (·.ask ≠ q) }
  | .host | .node _ => s

/-- Registers of a strand that travel pending: their replies go on to core `dst` (R139). -/
def forwardKeys (m : CarryMsg) : List Nat :=
  if m.frame.isSome then [] else ((List.range 32).filter fun j => m.pend.getLsbD j).map fun j => m.uid * 64 + j
/-- The entry of a load of this core serves the register of a key. -/
def Core.ownsReply (k : Core) (key : Nat) : Bool :=
  k.loads.any fun e => match e.dest with
    | .lanes ps => ps.any fun p => p.uid * 64 + p.reg = key
    | _ => false
/-- A strand leaves for core `dst` with registers pending: entries of an earlier departure give way to these (R139). -/
def State.forwardOn (s : State) (c : Nat) (m : CarryMsg) (dst : Nat) : State :=
  let keys := forwardKeys m
  if keys.isEmpty then s
  else { s.modCore c fun k => { k with
    forwards := (k.forwards.filter fun f => !keys.contains f.key) ++
      keys.zipIdx.map fun x => ⟨x.1, dst, k.ownsReply x.1, s.nextTag + x.2, s.clock, false⟩ } with nextTag := s.nextTag + keys.length }
/-- The entry of a load whose strand leaves for core `dst` (R139, spec/15 R359): a carried register goes on without `lt`, the
others' replies are discarded; it is an access of its gang while it serves a lane that stays. -/
def LoadEntry.left (e : LoadEntry) (g : Gang) (ps : List LanePart) (m : CarryMsg) (dst clock : Nat) : LoadEntry :=
  let goes (p : LanePart) : Bool := p.uid = m.uid && !p.gone && m.pend.getLsbD p.reg
  { e with
    dest := .lanes (ps.map fun p => if p.uid = m.uid then { p with latch := false, gone := !goes p } else p),
    forward := if ps.any goes then some dst else e.forward,
    since := if ps.any goes then clock else e.since,
    orphan := e.orphan || !(g.lanes.any fun l => !l.packed && ps.any (·.uid = l.uid)) }
/-- The event of a message's arrival. -/
def arrivalEvent (m : Msg) : Instr :=
  match m.body with
  | .carry _ => .carryArrival m
  | .data _ => .dataMessageArrival m
  | .change _ _ => .changeMessageArrival m
/-- A granted message leaves its source (R143): its lane or queue entry is freed; one with something to follow is kept. -/
def State.leave (s : State) (src : Source) (id : Nat) : State :=
  match (s.outsOf src).find? fun o => o.msg.id = id && o.granted && !o.sent with
  | none => s
  | some o =>
    let t := if o.after.isEmpty && !o.fault then s.dropOut src id else s.mapOut src id fun o => { o with sent := true }
    let t := match src, o.msg.body with
      | .core c, .carry m => (t.forwardOn c m o.msg.dst).modCore c fun k =>
        { k with loads := k.loads.map fun (e : LoadEntry) => match e.dest with
                   | .lanes ps => if ps.any (·.uid = m.uid) then e.left (k.at e.slot) ps m o.msg.dst s.clock else e
                   | _ => e }
      | _, _ => t
    (t.pushAs o.stamp (arrivalEvent o.msg)).wake

/-! ### The routine directory (R132, R133) -/

def State.dirAddr (s : State) (id : Nat) : Nat := s.ctx.dirBase + 64 * id
/-- An entry as its 64 bytes hold it. -/
def parseDir (id : Nat) (b : List Byte) : DirEntry :=
  let n := imageAt b 9 1
  { id, length := imageAt b 2 2, carry := BitVec.ofNat 32 (imageAt b 4 4), channel := imageAt b 8 1,
    eligible := BitVec.ofNat 8 (imageAt b 0xA 1), retiring := BitVec.ofNat 8 (imageAt b 0xB 1),
    places := (List.range (min n 8)).map fun j => imageAt b (0x10 + 4 * j) 4 % 2 ^ 20,
    known := decide (imageAt b 0 2 = id ∧ 1 ≤ n ∧ n ≤ 8 ∧ imageAt b 0xC 4 = 0 ∧ imageAt b 0x30 16 = 0) }
/-- The entry as the directory holds it now; none where its page is not there or not readable. -/
def State.readDir (s : State) (id : Nat) : Option DirEntry :=
  (s.resolve s.ctx.part.toNat (s.dirAddr id) false).map fun pa => parseDir id (s.mem.image pa 64)
/-- The slice of a directory entry wakes for a read of it (spec/22 R469). -/
def State.wakeDir (s : State) (id : Nat) : State :=
  match s.resolve s.ctx.part.toNat (s.dirAddr id) false with
  | some pa => s.wakeBlocks [pa / 64]
  | none => s
/-- A core's entry for a routine, read into its cache of 16 when it is not there. -/
def State.entry (s : State) (c id : Nat) : Option (DirEntry × State) :=
  match (s.core c).dir.find? (·.id = id) with
  | some e => some (e, s)
  | none => (s.readDir id).map fun e =>
      (e, (s.wakeDir id).modCore c fun k => { k with dir := (if 16 ≤ k.dir.length then k.dir.drop 1 else k.dir) ++ [e] })
/-- The trap of a directory read that fails (R133). -/
def State.dirTrap (s : State) (id : Nat) (lanes : BitVec 32) : Cause := ⟨0x0E, 2, w64 (s.dirAddr id), lanes⟩
/-- Carried registers. -/
def DirEntry.count (e : DirEntry) : Nat := oneBits e.carry
/-- Receive slots of a carry message with n registers (R131). -/
def carrySlots (n : Nat) : Nat := (n + 11) / 8
/-- The checks of R136 on a code address and its entry: cause and subcode. -/
def checkTarget (a : BitVec 32) (e : DirEntry) : Option (Nat × Nat) :=
  if routineOf a = 0 ∨ routineOf a = trapRoutine ∨ e.known = false ∨ a.toNat / 2 ^ 13 % 8 ≠ 0 ∨ e.length ≤ a.toNat % 2 ^ 13 then some (0x04, 1)
  else if e.channel = 0xFF then some (0x0A, 0)
  else if 24 < e.count then some (0x0B, 0)
  else none

/-! ### Replica choice (R151) -/

def absDiff (a b : Nat) : Nat := (a - b) + (b - a)
/-- How far a core is: mesh distance on the source's package, beyond it every core of another package by rank. -/
def State.farness (s : State) (c d : Nat) : Nat :=
  match s.place c, s.place d with
  | some (p, r, q), some (p', r', q') => if p = p' then absDiff r r' + absDiff q q' else 1000000 + s.rankOf d
  | _, _ => 0
/-- The candidates of an entry: the home, and the placements eligible and not retiring. -/
def DirEntry.candidates (e : DirEntry) (home : Bool) : List Nat :=
  (e.places.zipIdx.filter fun p => p.2 = 0 || (!home && e.eligible.getLsbD p.2 && !e.retiring.getLsbD p.2)).map (·.1)
/-- The candidates of a message, without the placement that a directory change under way concerns (R170, R171). -/
def State.choices (s : State) (e : DirEntry) (home : Bool) : List Nat :=
  (e.candidates home).filter fun d => s.ctx.rrepling.all fun x => x.routine ≠ e.id || x.core ≠ d
/-- The standing grants of a core for carry messages to a channel that no packed message is about to use. -/
def Core.standingFor (k : Core) (dst ch : Nat) : Nat :=
  (k.grants.filter fun h => h.ask.dst = dst && h.ask.ch = ch && h.ask.kind = .carry).length -
    (k.outbox.filter fun o => o.idle && o.msg.dst = dst && o.msg.ch = ch).length
/-- The element with the least key. -/
def leastBy (f : Nat → Nat) : List Nat → Option Nat
  | [] => none
  | a :: as => match leastBy f as with
    | none => some a
    | some b => if f b < f a then some b else some a
/-- The next of some cores by rank, from a pointer on, wrapping. -/
def State.rotateFrom (s : State) (p : Nat) (cs : List Nat) : Nat :=
  ((leastBy s.rankOf (cs.filter fun d => p ≤ s.rankOf d)).or (leastBy s.rankOf cs)).getD 0
/-- The core chosen for a message of core `c` to a routine, and the state with the rotation advanced: a choice under `.home`
advances it too (DESIGN CHOICE, log 48). -/
def State.chooseReplica (s : State) (c : Nat) (e : DirEntry) (home : Bool) : Nat × State :=
  let cs := s.choices e home
  let k := s.core c
  let held := cs.filter fun d => k.standingFor d e.channel ≠ 0
  match leastBy (fun d => s.farness c d * 2 ^ 21 + s.rankOf d) held with
  | some d => (d, s)
  | none =>
    let near := ((leastBy (s.farness c) cs).map (s.farness c)).getD 0
    let d := s.rotateFrom (mget 0 k.rotate e.id) (cs.filter fun d => s.farness c d = near)
    (d, s.setCore c { k with rotate := mput k.rotate e.id (s.rankOf d + 1) })

/-! ### Strand numbers (spec/01 R25) -/

/-- The next strand number of the context's pool, for a launch (0 for none); none while every number is in use. -/
def State.drawStrand (s : State) (launch : Nat) : Option (Nat × State) :=
  let live := s.ctx.strandsLive
  if 2 ^ 24 - 1 ≤ live.length then none
  else
    let tries := (List.range (live.length + 1)).map fun i => (s.ctx.strandNext - 1 + i) % (2 ^ 24 - 1) + 1
    (tries.find? fun n => !live.any (·.1 = n)).map fun n =>
      (n, { s with ctx := { s.ctx with strandNext := n + 1, strandsLive := live ++ [(n, launch)] } })
/-- The launch a strand belongs to. -/
def State.launchOf (s : State) (n : Nat) : Nat := ((s.ctx.strandsLive.find? (·.1 = n)).map (·.2)).getD 0
/-- A launch whose count changes; one with nothing left and nothing live is done (spec/16 R370). -/
def State.countLaunch (s : State) (id : Nat) (d : Int) : State :=
  let t := { s with ctx := { s.ctx with launches := s.ctx.launches.map fun (l : OpenLaunch) =>
    if l.id = id then { l with live := ((l.live : Int) + d).toNat } else l } }
  match t.ctx.launches.find? fun l => l.id = id && l.live = 0 && l.left = 0 with
  | some l => t.push (.launchDone l.queue l.id)
  | none => t
/-- A strand retires (R140). -/
def State.retireStrand (s : State) (n : Nat) : State :=
  let id := s.launchOf n
  let t := { s with ctx := { s.ctx with strandsLive := s.ctx.strandsLive.filter (·.1 ≠ n) } }
  if id = 0 then t else t.countLaunch id (-1)

/-! ### Carry messages (R131) -/

/-- The quads that a carry set holds whole: their sidecars travel. -/
def wholeQuads (carry : BitVec 32) : List Nat :=
  (List.range 8).filter fun q => (List.range 4).all fun i => carry.getLsbD (4 * q + i)
/-- A strand packed for a code address. -/
def Lane.pack (l : Lane) (a : BitVec 32) (strand : BitVec 24) (draw : BitVec 32) (carry : BitVec 32) : CarryMsg :=
  let js := (List.range 32).filter fun j => carry.getLsbD j
  let qs := wholeQuads carry
  let keep := js ++ qs.map (40 + ·) ++ (List.range 8).map (48 + ·)
  { code := a, strand, preds := l.preds, draw,
    pend := (List.range 32).foldl (fun m j => bput m j (carry.getLsbD j && l.pend.getLsbD j)) 0,
    side := (qs.filter fun q => l.sidecar q ≠ 0x7F7F).map fun q => (q, l.sidecar q),
    regs := (js.filter fun j => l.read j ≠ 0).map fun j => (j, l.read j),
    poison := keep.foldl (fun m j => bput m j (l.poison.getLsbD j)) 0, uid := l.uid, frame := none }
/-- A strand that has arrived, as a lane (spec/01 R26). -/
def carryLane (m : CarryMsg) : Lane :=
  { regs := m.regs, side := m.side, preds := m.preds, strand := m.strand, draw := m.draw, poison := m.poison,
    pend := m.pend.setWidth 48, arrPend := m.pend, uid := m.uid }
/-- A register that travels pending, written by its reply. -/
def carryFill (m : CarryMsg) (j : Nat) (v : Datum) : CarryMsg :=
  { m with regs := mset 0 m.regs j v.val, poison := bput m.poison j v.poison, pend := bput m.pend j false }
/-- A packed message at core `c` for the choice `d`. -/
def carryOut (c id d slot clock : Nat) (e : DirEntry) (m : CarryMsg) : Outbound :=
  { msg := { src := .core c, id, dst := d, ch := e.channel, slots := carrySlots e.count, body := .carry m, carried := e.count },
    kind := .carry, slot, laneUid := m.uid, since := clock, asked := false, granted := false, refused := false }

/-- The message's bytes: the header of Table 6-1, then the carried values in ascending order. -/
def carryImage (m : CarryMsg) (carry : BitVec 32) : List Byte :=
  let js := (List.range 32).filter fun j => carry.getLsbD j
  let pend := if m.frame.isSome then 0xFFFFFFFF else m.pend.toNat
  bytesOf m.code.toNat 4 ++ bytesOf m.strand.toNat 3 ++ bytesOf (m.preds.toNat / 2) 1 ++ bytesOf m.draw.toNat 4 ++
    bytesOf pend 4 ++
    (match m.frame with
      | some a => bytesOf a 8 ++ bytesOf 0 8
      | none => (List.range 8).flatMap fun q => bytesOf (mget 0x7F7F#16 m.side q).toNat 2) ++
    js.flatMap fun j => bytesOf (mget 0 m.regs j).toNat 8
/-- The offsets in those bytes of the 8-byte words that carry poison (spec/22 R465): each carried value's; a sidecar's word, for the four
in it; the first, for the predicates (log 19). -/
def carryMarks (m : CarryMsg) (carry : BitVec 32) : List Nat :=
  if m.frame.isSome then []
  else
    let js := (List.range 32).filter fun j => carry.getLsbD j
    (if (List.range 8).any fun p => m.poison.getLsbD (48 + p) then [0] else []) ++
      ([0, 1].filter fun h => (List.range 4).any fun q => m.poison.getLsbD (40 + 4 * h + q)).map (0x10 + 8 * ·) ++
      ((js.zipIdx.filter fun q => m.poison.getLsbD q.1).map (0x20 + 8 * ·.2))
/-- The message that such bytes hold, for a carry set; `bad o` says whether the word at offset o carries poison. -/
def parseCarry (b : List Byte) (carry : BitVec 32) (uid : Nat) (bad : Nat → Bool) : CarryMsg :=
  let js := (List.range 32).filter fun j => carry.getLsbD j
  let framed := imageAt b 0xC 4 = 0xFFFFFFFF
  let base : CarryMsg :=
    { code := BitVec.ofNat 32 (imageAt b 0 4), strand := BitVec.ofNat 24 (imageAt b 4 3),
      preds := BitVec.ofNat 8 (2 * (imageAt b 7 1 % 128) + 1), draw := BitVec.ofNat 32 (imageAt b 8 4), pend := 0,
      side := [], regs := [], poison := 0, uid, frame := none }
  if framed then { base with preds := 1, draw := 0, frame := some (imageAt b 0x10 8) }
  else
    { base with
      side := ((List.range 8).map fun q => (q, BitVec.ofNat 16 (imageAt b (0x10 + 2 * q) 2))).filter (·.2 ≠ 0x7F7F),
      regs := (js.mapIdx fun i j => (j, w64 (imageAt b (0x20 + 8 * i) 8))).filter (·.2 ≠ 0),
      poison := (js.mapIdx fun i j => (0x20 + 8 * i, j)).foldl (fun m p => bput m p.2 (bad p.1))
        ((List.range 8).foldl (fun m q => bput (bput m (40 + q) (bad (0x10 + q / 4 * 8))) (48 + q) (q ≠ 0 && bad 0)) 0) }

/-! ### Overflow rings (R148) -/

def State.ringAt (s : State) (r : Nat) : Nat := s.ctx.ringBase + r * 65536
def State.ringSlot (s : State) (r j : Nat) : Nat := s.ringAt r + 0x40 + 256 * (j % 255)
/-- Entries held in a routine's ring; none where it is not mapped. -/
def State.ringHeld (s : State) (r : Nat) : Option Nat :=
  match s.readV s.ctx.part.toNat (s.ringAt r), s.readV s.ctx.part.toNat (s.ringAt r + 8) with
  | some t, some h => some (t - h).toNat
  | _, _ => none
/-- A channel that has become the carry channel of a routine whose ring holds something must drain it (R150). -/
def State.bindRing (s : State) (c ch : Nat) : State :=
  let h := (s.core c).channel ch
  if h.state = 1 ∧ h.kind = 0 ∧ h.routine ≠ 0 ∧ (s.ringHeld h.routine).getD 0 ≠ 0 then
    s.modCore c (·.setChannel ch { h with ovf := true })
  else s

end Sys2Proof.Machine
end

