-- ==== Sys2Proof/Machine/Transfer.lean ====
section
/-! DEFINITION. Transfers elsewhere, messages, channels, launch, spawn, replicas, counter events (spec/06), opcodes 0x50 to
0x5F, with the events of messages, grants and arrivals. -/
namespace Sys2Proof.Machine

/-! ### Transfers elsewhere (R135-R142) -/

/-- A transfer elsewhere executes: two slots follow it; in a slot of another it is illegal (spec/03 Table 3-8). -/
def State.startXfer (s : State) (kind : XferKind) (p : BitVec 3) (h : BitVec 1) : Out :=
  if s.me.xfer.isSome then s.trapHere 0x01 0x08
  else
    let only : Option Nat := match s.gang.step with
      | .lane i => some i
      | _ => none
    .next (s.modMe (·.setXfer (some
      { kind, pred := p, home := h = 1, link := s.me.succ (s.me.succ (s.me.succ s.gang.q0)), left := 3, packed := false,
        held := [], only })))

/-- `jx`. -/
def execJx (r : BitVec 16) (q : BitVec 3) (h : BitVec 1) (s : State) : Host.Outcome State Fault Refusal :=
  s.finish (s.startXfer (.jx r) q h)
/-- `cx`. -/
def execCx (r : BitVec 16) (q : BitVec 3) (h : BitVec 1) (s : State) : Host.Outcome State Fault Refusal :=
  s.finish (s.startXfer (.cx r) q h)
/-- `jxr`: `gA` is read at the boundary (R136). -/
def execJxr (a : BitVec 4) (h : BitVec 1) (q : BitVec 3) (s : State) : Host.Outcome State Fault Refusal :=
  s.finish (s.startXfer (.jxr a) q h)
/-- `xret`. -/
def execXret (q : BitVec 3) (h : BitVec 1) (s : State) : Host.Outcome State Fault Refusal :=
  s.finish (s.startXfer .xret q h)
/-- `xend`. -/
def execXend (q : BitVec 3) (s : State) : Host.Outcome State Fault Refusal :=
  s.finish (s.startXfer .xend q 0)

/-- The selected lanes (R135). -/
def Gang.selected (g : Gang) (x : Xfer) : List Nat :=
  (List.range g.lanes.length).filter fun i => (g.lane i).preds.getLsbD x.pred.toNat && x.only.all (· = i)
/-- The destination of a lane as its source holds it (Table 6-4). -/
def State.xferSource (s : State) (x : Xfer) (l : Lane) : Word :=
  match x.kind with
  | .jx r | .cx r => w64 (r.toNat * 65536)
  | .jxr a => s.readG a
  | .xret => l.read 31
  | .xend => 0
/-- The directory entries that some code addresses name, read into the core's cache in turn; or the routine whose entry
cannot be read. -/
def State.readEntries (s : State) (ids : List Nat) : State × Option Nat :=
  ids.foldl (fun r id => match r with
    | (t, some bad) => (t, some bad)
    | (t, none) => match t.entry t.cur id with
      | some (_, t') => (t', none)
      | none => (t, some id)) (s, none)
def State.cached (s : State) (id : Nat) : DirEntry := ((s.entry s.cur id).map (·.1)).getD (parseDir id [])
/-- The first check of R136 that a source value fails. -/
def State.checkSource (s : State) (v : Word) : Option (Nat × Nat) :=
  if fieldOf v 63 32 ≠ 0 then some (0x04, 1)
  else checkTarget (v.setWidth 32) (s.cached (fieldOf v 31 16))
/-- The routines that valid source values name. -/
def routinesOf (vs : List Word) : List Nat :=
  ((vs.filter fun v => fieldOf v 63 32 = 0 ∧ fieldOf v 31 16 ≠ 0 ∧ fieldOf v 31 16 ≠ trapRoutine).map fun v => fieldOf v 31 16).eraseDups

/-- One lane packed: its message waits in the outbox, the lane is marked. None while it must wait. -/
def State.packLane (s : State) (x : Xfer) (i : Nat) : Option State :=
  let g := s.gang
  let l := g.lane i
  let a : BitVec 32 := (s.xferSource x l).setWidth 32
  let e := s.cached (routineOf a)
  let l := match x.kind with
    | .cx _ => l.put 31 (x.link.setWidth 64) false
    | _ => l
  if l.unacked ≠ 0 ∨ (wholeQuads e.carry).any (fun q => l.pend.getLsbD (40 + q)) then none
  else
    let drawn : Option (Nat × State) := if l.strand = 0 then s.drawStrand 0 else some (l.strand.toNat, s)
    drawn.map fun d =>
      let t := d.2
      let m := l.pack a (BitVec.ofNat 24 d.1) l.draw e.carry
      let (c, t) := t.chooseReplica t.cur e x.home
      let t := t.modGang (·.mapLanes [i] fun _ _ => { l with packed := true })
      (t.modMe fun k => { k with outbox := k.outbox ++ [carryOut t.cur t.nextTag c k.slot t.clock e m] }).fresh
/-- Lanes packed in ascending order, as far as they go. -/
def State.packLanes (s : State) (x : Xfer) : List Nat → State × Bool
  | [] => (s, true)
  | i :: is =>
    if (s.gang.lane i).packed then s.packLanes x is
    else match s.packLane x i with
      | some t => t.packLanes x is
      | none => (s, false)

/-- The lanes of a completed transfer leave; the after-causes held for this boundary are taken (R138, R508). When no lane remains the
system slot takes them; a debugger is told its step's instead (spec/23 R484). -/
def State.endXfer (s : State) (x : Xfer) (gone : List Nat) : State :=
  let slot := s.me.slot
  let t := (s.modGang (·.without gone)).modMe fun k => (k.setXfer none).leaveLoads slot
  if t.gang.lanes.isEmpty then
    let t := if t.gang.stepped then t.tellGang 0x1100 t.cur 4 else t
    (t.modMe fun k => { k with causes := k.causes ++ x.held.map fun c => { c with lanes := 0 } }).endFiring slot
  else t.takeAfter (x.held.map fun c => { c with lanes := t.allLanes })
/-- A transfer that raises a trap sends nothing; what was held stays pending (R137, R508). Where Q0 is annulled the trap is taken
after the annulled entries (R116; DEDUCED, log 62), but for poison, which stops the core at once. -/
def State.failXfer (s : State) (x : Xfer) (c : Cause) : State :=
  let t := s.modMe fun k => (k.setXfer none).modGang fun g => { g with causes := g.causes ++ x.held }
  if s.me.priv = 0 && s.defers && c.code ≠ 0x0E then t.modGang fun g => { g with causes := c :: g.causes } else t.takeTrap c
def State.waiting (s : State) : State := s.modGang fun g => { g with waiting := true }

/-- The boundary after the second slot of a transfer elsewhere (R136, R140). -/
def State.pack (s : State) (x : Xfer) : State :=
  let g := s.gang
  let sel := g.selected x
  let ls := sel.map g.lane
  let vs := ls.map (s.xferSource x)
  let addressed : Bool := match x.kind with
    | .jxr a => s.me.pendG a.toNat && !sel.isEmpty
    | .xret => ls.any (·.pending 31)
    | .cx _ => ls.any (·.pending 31)
    | _ => false
  let poisoned : Bool := match x.kind with
    | .jxr a => s.me.poisonG a.toNat && !sel.isEmpty
    | .xret => ls.any (·.bad 31)
    | _ => false
  if x.kind ≠ .xend ∧ g.guardPoison x.pred then s.failXfer x ⟨0x0E, 0, w64 x.pred.toNat, s.allLanes⟩
  else if sel.isEmpty then s.endXfer x []
  else match x.kind with
    | .xend =>
      if ls.any (·.unacked ≠ 0) then s.closing.waiting
      else (ls.foldl (fun t l => if l.strand = 0 then t else t.retireStrand l.strand.toNat) s).endXfer x sel
    | _ =>
      if addressed then s.waiting
      else if poisoned then s.failXfer x ⟨0x0E, 1, vs.headD 0, laneMask sel⟩
      else match s.readEntries (routinesOf vs) with
        | (t, some id) => t.failXfer x (t.dirTrap id (laneMask sel))
        | (t, none) =>
          let bad := (sel.zip vs).filter fun p => (t.checkSource p.2).isSome
          match bad with
          | p :: _ =>
            let c := (t.checkSource p.2).getD (0, 0)
            t.failXfer x ⟨c.1, c.2, p.2, laneMask (bad.map (·.1))⟩
          | [] =>
            let (u, done) := t.packLanes x sel
            (u.modMe (·.setXfer (some { x with packed := done }))).closing.waiting
/-- TRANSFER_PACKING: the acting gang stands at the boundary after the slots of its transfer. -/
def execTransferPacking (s : State) : Host.Outcome State Fault Refusal :=
  match s.me.xfer with
  | none => .next s
  | some x =>
    if x.packed then
      if s.me.outbox.any (·.slot = s.me.slot) then .next s.waiting
      else .next (s.endXfer x ((List.range s.gang.lanes.length).filter fun i => (s.gang.lane i).packed))
    else .next (s.pack x)

/-! ### Messages leaving, grants, spills (R143-R148) -/

/-- CARRY_MESSAGE_SEND: a granted message of a source leaves. -/
def execCarryMessageSend (src : Source) (id : Nat) (s : State) : Host.Outcome State Fault Refusal := .next (s.leave src id)
/-- OUTBOUND_RECORD_SEND: a restored record is sent as any message (spec/12 R317). -/
def execOutboundRecordSend (src : Source) (id : Nat) (s : State) : Host.Outcome State Fault Refusal := .next (s.leave src id)
/-- READY_QUEUE_SEND: the first message of the ready queue that may leave (spec/10 R246, R163). -/
def execReadyQueueSend (core : Nat) (s : State) : Host.Outcome State Fault Refusal :=
  match (s.core core).requestReady.find? fun o => (s.core core).ready.any (·.msg.id = o.msg.id) with
  | some o => .next (s.leave (.core core) o.msg.id)
  | none => .next s
/-- CHANGE_SLICE_QUEUE_SEND: the oldest granted record of a slice's queue leaves (spec/20 R445). -/
def execChangeSliceQueueSend (slice : Nat) (s : State) : Host.Outcome State Fault Refusal :=
  match sliceReady slice (mget [] s.changes slice) with
  | o :: _ => .next (s.leave (.slice slice) o.msg.id)
  | [] => .next s

/-- The word that names a source in a notice of type 0x4B; a port, which the table does not list, is kind 5 (DESIGN CHOICE, log
58). -/
def sourceWord : Source → Word
  | .core c => w64 (2 ^ 60 + c / 65536 * 2 ^ 48 + c % 65536)
  | .derrick => w64 (2 * 2 ^ 60)
  | .slice n => w64 (3 * 2 ^ 60 + n / 256 * 2 ^ 48 + n % 256)
  | .host => w64 (4 * 2 ^ 60)
  | .port n => w64 (5 * 2 ^ 60 + n / 18 * 2 ^ 48 + n % 18)
  | .node n => w64 (6 * 2 ^ 60 + n / 25600 * 2 ^ 48 + n % 25600)
def channelWord (core ch : Nat) : Word := w64 (2 ^ 63 + core / 65536 * 2 ^ 59 + core % 65536 * 2 ^ 43 + ch)
/-- Refused traffic is recorded (spec/17 R398) by the die of who refuses it: the packet's kind (its network of Table 17-1), destination,
issuer. -/
def State.recordRefused (s : State) (by' : Source) (kind : Nat) (dst src : Word) : State :=
  match by' with
  | .core _ | .slice _ | .port _ => s.recordVerifier by' 0x08 [w64 kind, dst, src]
  | _ => s.record (s.packageOf by' ((s.ctx.cores.map (·.1)).headD 0) * 4) 0x08 8 0 [w64 kind, dst, src]

/-- GRANT_REQUEST: it joins the requests of its channel in order of arrival; a refused one is never granted (spec/17
Table 17-5). -/
def execGrantRequest (q : GrantAsk) (s : State) : Host.Outcome State Fault Refusal :=
  .next (if s.fenced q.dst then s.recordRefused (.core q.dst) 3 (channelWord q.dst q.ch) (sourceWord q.src)
    else (s.modCore q.dst fun k => { k with asks := k.asks ++ [q] }).regrant q.dst q.ch)
/-- GRANT: its message may leave, or the grant stands (R144). -/
def execGrant (q : GrantAsk) (s : State) : Host.Outcome State Fault Refusal :=
  .next (match (s.outsOf q.src).find? fun o => o.msg.id = q.id && !o.sent && !o.granted with
    | some _ => s.mapOut q.src q.id fun o => { o with granted := true }
    | none => s.keepGrant q)
/-- REVOCATION: an unused grant lapses; a message that has left under it is delivered (R159). -/
def execRevocation (q : GrantAsk) (s : State) : Host.Outcome State Fault Refusal :=
  .next (match (s.outsOf q.src).find? fun o => o.msg.id = q.id && o.granted && !o.sent with
    | some _ => s.mapOut q.src q.id fun o => { o with granted := false, asked := false }
    | none => s.loseGrant q)

/-- A notice of the running context (spec/12 Table 12-5): its type, and words 1 to 3. -/
def State.noticeOf (s : State) (type extra : Nat) (w1 w2 w3 : Word) : Notice :=
  ⟨w64 (type + s.ctx.id.toNat * 65536 + extra), w1, w2, w3⟩
/-- REFUSAL (R145): a data message is discarded, a carry message waits for its spill, a change record is lost. -/
def execRefusal (q : GrantAsk) (s : State) : Host.Outcome State Fault Refusal :=
  .next (match (s.outsOf q.src).find? fun o => o.msg.id = q.id && !o.sent with
    | none => s
    | some o =>
      let note (t : State) : State :=
        (t.recordCore q.dst 0x08 [w64 (kindCode q.kind), channelWord q.dst q.ch, sourceWord q.src]).push
          (.noticePost ⟨.core q.dst, t.noticeOf 0x4B 0 (channelWord q.dst q.ch) (sourceWord q.src) 0, false⟩)
      match o.msg.body with
      | .data ws =>
        let t := note (s.dropOut q.src q.id)
        let t := if o.fault then (t.recordVerifier q.src 0x0E (((ws.drop 1).take 2).map (·.val))).setLost q.src o.verifier true else t
        (o.after.foldl (State.pushAs · o.stamp) t).wake
      | .carry _ => note (s.mapOut q.src q.id fun o => { o with refused := true })
      | .change desc r => (s.dropOut q.src q.id).push (.changeRecordLost desc r.wave))

/-- The request of a message that no longer needs one is withdrawn. -/
def State.withdraw (s : State) (q : GrantAsk) : State :=
  let t := s.modCore q.dst fun k => { k with asks := k.asks.erase q }
  t.unpush (.grantRequest q)
/-- The carry set of a routine, for the image of its messages. -/
def State.carryOf (s : State) (r : Nat) : BitVec 32 := ((s.readDir r).map (·.carry)).getD 0
/-- A message written into an entry of its routine's ring: bytes, the marks of poisoned values, SEQ last. Sidecars and predicates mark
the words that hold them (DESIGN CHOICE, log 19). -/
def State.writeRing (s : State) (r j : Nat) (m : CarryMsg) : State :=
  let p := s.ctx.part.toNat
  let carry := s.carryOf r
  let img := carryImage m carry
  let base := s.ringSlot r j
  let t := s.writeV p (s.ringAt r) (bytesOf (j + 1) 8)
  let t := t.writeV p base (img ++ List.replicate (0xE0 - img.length) 0)
  let t := match t.resolve p base true with
    | some pa => { t with mem := (carryMarks m carry).foldl (fun mm i => mm.setBad ((pa + i) / 8) true) t.mem }
    | none => t
  t.writeSeen p (base + 0xF8) (bytesOf (j + 1) 8)
/-- An outbound record of a save area (spec/16 Table 16-6): the message, its routine and the placement chosen, the rank of its source,
in use. -/
def State.recordImage (s : State) (c : Nat) (o : Outbound) : List Byte :=
  match o.msg.body with
  | .carry m =>
    let img := (carryImage m (s.carryOf (routineOf m.code))).take 0xE0
    img ++ List.replicate (0xE0 - img.length) 0 ++ bytesOf (routineOf m.code) 4 ++ bytesOf o.msg.dst 4 ++ bytesOf (s.rankOf c) 8 ++
      bytesOf 0 8 ++ bytesOf 1 8
  | _ => []
/-- A word of an area of the context in memory. -/
def State.areaWord (s : State) (a : Nat) : Word := (s.readV s.ctx.part.toNat a).getD 0
/-- A message that a core queues while its context is saved enters an outbound record that is not in use (spec/12 R317, spec/16 R381). -/
def State.recordSaved (s : State) (c : Nat) (o : Outbound) : State :=
  match s.place c with
  | none => s
  | some p =>
    let base := s.ctx.clusterSave + s.clustersOf.findIdx (· = clusterAt p) * 0x40000 + 0xC000
    match (List.range 384).find? fun i => s.areaWord (base + 256 * i + 0xF8) ≠ 1 with
    | some i => s.writeV s.ctx.part.toNat (base + 256 * i) (s.recordImage c o)
    | none => s
/-- An event record of a message's source: a core, a slice, or the derrick (spec/22 Table 22-4). -/
def State.recordSource (s : State) (src : Source) (type : Nat) (ws : List Word) : State :=
  match src with
  | .core _ | .slice _ => s.recordVerifier src type ws
  | _ => s.record (s.dieOf ((s.ctx.cores.map (·.1)).headD 0)) type 7 0 ws
/-- SPILL (R147): the message enters the ring of its routine and sets OVF at its choice; or it fails, is recorded, and
waits another 4,096 cycles. -/
def execSpill (src : Source) (id : Nat) (s : State) : Host.Outcome State Fault Refusal :=
  .next (match (s.outsOf src).find? fun o => o.msg.id = id && !o.granted && !o.sent with
    | none => s
    | some o =>
      match o.msg.body with
      | .carry m =>
        let r := routineOf m.code
        let p := s.ctx.part.toNat
        let again (cause : Nat) : State :=
          (s.mapOut src id fun o => { o with since := s.clock }).recordSource src 0x05 [w64 r, w64 cause]
        match s.walk p (s.ringAt r / 65536), s.ringHeld r with
        | none, _ | _, none => again 0x05
        | some e, some n =>
          if !e.wr then again 0x06
          else if 255 ≤ n then again 0
          else
            let j := ((s.readV p (s.ringAt r)).getD 0).toNat
            let t := ({ s with quotas := s.afterCharge src (s.sourcePart src (arrivalEvent o.msg)) spillCost } : State).writeRing r j m
            let t := t.modCore o.msg.dst fun k => k.setChannel o.msg.ch { k.channel o.msg.ch with ovf := true }
            let t := (t.dropOut src id).withdraw o.ask
            let t := match src with
              | .core c => t.modCore c (·.bump 0x0104)
              | _ => t
            (t.recordSource src 0x04 [w64 r, w64 j, w64 (s.rankOf o.msg.dst)]).wake
      | _ => s)

/-! ### Arrivals (R152-R161; spec/20 R446) -/

/-- A granted message that is refused (spec/17 Table 17-5): discarded, its strand number or its header recorded. A chunk
fault record so lost is recorded as dropped (spec/22 Table 22-6); what follows it happens. -/
def State.discardMsg (s : State) (m : Msg) : State :=
  let what : Word := match m.body with
    | .carry x => x.strand.setWidth 64
    | .data ws => (ws.headD ⟨0, false⟩).val
    | .change d _ => w64 d
  let t := (s.recordRefused (s.refuserOf m.src (.core m.dst)) (if m.rp then 1 else 0) what (sourceWord m.src)).loseHold m
  match (t.outsOf m.src).find? fun o => o.msg.id = m.id && o.sent with
  | none => t
  | some o =>
    let ws : List Word := match m.body with
      | .data ws => ((ws.drop 1).take 2).map (·.val)
      | _ => []
    let t := t.dropOut m.src m.id
    let t := if o.fault then (t.recordVerifier m.src 0x0E ws).setLost m.src o.verifier true else t
    (o.after.foldl (State.pushAs · o.stamp) t).wake
/-- CARRY_ARRIVAL. -/
def execCarryArrival (m : Msg) (s : State) : Host.Outcome State Fault Refusal :=
  .next (if s.fenced m.dst then s.discardMsg m else s.arrive m)
/-- DATA_MESSAGE_ARRIVAL; what follows the delivery of a kept message is sent. -/
def execDataMessageArrival (m : Msg) (s : State) : Host.Outcome State Fault Refusal :=
  let t := s.arrive m
  .next (if s.fenced m.dst then s.discardMsg m
    else match (t.outsOf m.src).find? fun o => o.msg.id = m.id && o.sent with
    | some o => (o.after.foldl (State.pushAs · o.stamp) (t.dropOut m.src m.id)).wake
    | none => t)
/-- A decrement of a wave's count sent by a core to the descriptor's slice. -/
def State.sendRelease (s : State) (c desc : Nat) (w : BitVec 32) (n : Nat) : State :=
  match s.resolve s.ctx.part.toNat desc false with
  | some pa => s.push (.sliceOperation { src := .core c, tag := 0, uids := [], home := none, op := .release pa w n, quiet := true })
  | none => s
/-- CHANGE_MESSAGE_ARRIVAL: at a CONS channel it is merged into the oldest waiting record alike (R446). -/
def execChangeMessageArrival (m : Msg) (s : State) : Host.Outcome State Fault Refusal :=
  let k := s.core m.dst
  let plain := s.arrive m
  .next (match m.body with
    | .change desc r =>
      if s.fenced m.dst then s.push (.changeRecordLost desc r.wave)
      else if !(k.channel m.ch).cons then plain
      else match (k.arrivalsAt m.ch).find? fun a => match a.msg.body with
          | .change d x => d = desc && alike x r
          | _ => false with
        | none => plain
        | some a =>
          match a.msg.body with
          | .change _ x =>
            match mergeMult x r with
            | none => plain
            | some y =>
              let t := s.setCore m.dst { k with granted := k.granted.filter fun g => !(g.ask.src = m.src && g.ask.id = m.id) }
              let gone := y.mult = 0
              let t := t.modCore m.dst fun k =>
                { k with arrivals := (if gone then k.arrivals.erase a
                    else k.arrivals.map fun b => if b = a then ⟨{ a.msg with body := .change desc y }⟩ else b), idle := none }
              ((t.sendRelease m.dst desc r.wave (if gone then 2 else 1)).regrant m.dst m.ch).wake
          | _ => plain
    | _ => plain)

/-- RING_DRAIN (R150): the oldest entry of the bound routine's ring fills a free slot, or the ring is found empty. -/
def execRingDrain (core ch : Nat) (s : State) : Host.Outcome State Fault Refusal :=
  let k := s.core core
  let h := k.channel ch
  let p := s.ctx.part.toNat
  .next (if !h.drains then s
    else match s.ringHeld h.routine with
      | none => s
      | some 0 => (s.setCore core (k.setChannel ch { h with ovf := false })).regrant core ch
      | some _ =>
        let j := ((s.readV p (s.ringAt h.routine + 8)).getD 0).toNat
        match s.readDir h.routine, s.resolve p (s.ringSlot h.routine j) false with
        | some e, some pa =>
          if s.mem.load (pa + 0xF8) 8 ≠ j + 1 ∨ k.slotsFree ch < carrySlots e.count then s
          else
            let m := parseCarry (s.mem.image pa 0xE0) e.carry s.nextTag fun i => s.mem.poisoned (pa + i) 8
            let msg : Msg := { src := .core core, id := s.nextTag, dst := core, ch, slots := carrySlots e.count, body := .carry m }
            ((s.writeSeen p (s.ringAt h.routine + 8) (bytesOf (j + 1) 8)).fresh).arrive msg
        | _, _ => s)

/-- A placement word removed from a routine's entry in the directory. -/
def State.writeDir (s : State) (e : DirEntry) : State :=
  let img := bytesOf e.id 2 ++ bytesOf e.length 2 ++ bytesOf e.carry.toNat 4 ++ bytesOf e.channel 1 ++ bytesOf e.places.length 1 ++
    bytesOf e.eligible.toNat 1 ++ bytesOf e.retiring.toNat 1 ++ bytesOf 0 4 ++
    ((List.range 8).flatMap fun j => bytesOf (e.places.getD j 0) 4) ++ bytesOf 0 16
  match s.resolve s.ctx.part.toNat (s.dirAddr e.id) false with
  | some pa => ({ s with mem := s.mem.write pa img false } : State).evalWatches
  | none => s
/-- Bit j removed, those above it lowered. -/
def dropBit (m : BitVec 8) (j : Nat) : BitVec 8 := BitVec.ofNat 8 (m.toNat % 2 ^ j + m.toNat / 2 ^ (j + 1) * 2 ^ j)
def DirEntry.without (e : DirEntry) (j : Nat) : DirEntry :=
  { e with places := e.places.eraseIdx j, eligible := dropBit e.eligible j, retiring := dropBit e.retiring j }
/-- REBINDING_TAKES_EFFECT: the new entry, in one step (R159); for a retiring replica, its end (R171). -/
def execRebindingTakesEffect (core ch : Nat) (s : State) : Host.Outcome State Fault Refusal :=
  let k := s.core core
  let h := k.channel ch
  .next (match h.next with
    | some (w, en, ho) =>
      let c : Channel := { word0 := w, enable := en, hold := ho, ovf := h.ovf }
      let c := { c with state := if c.routine = 0 then 0 else 1 }
      (((s.setCore core (k.setChannel ch c)).bindRing core ch).regrant core ch).wake
    | none =>
      if h.retire then
        let r := h.routine
        let t := s.setCore core ({ k with placed := k.placed.filter (·.id ≠ r) }.setChannel ch {})
        match t.readDir r with
        | some e => t.writeDir (e.without (e.places.findIdx (· = core)))
        | none => t
      else s)

/-- A gang of a routine is resident: one that stands in it, or that the trap routine has interrupted there. -/
def Core.runs (k : Core) (r : Nat) : Bool :=
  k.gangs.any fun e => e.1 < 4 && routineOf (if k.owner = .gang e.1 then k.xpc0 else e.2.q0) = r
/-- A retiring replica that may end (spec/06 R171): nothing waits or is on its way, grants and their revocations included, no gang
of the routine is resident. -/
def State.retires (s : State) (c ch : Nat) : Bool :=
  let k := s.core c
  let h := k.channel ch
  h.retire && !h.ovf && (k.arrivalsAt ch).isEmpty && !k.asks.any (·.ch = ch) && !k.granted.any (·.ask.ch = ch) && !k.runs h.routine &&
    !s.events.any fun e => match e with
      | .carryArrival m => m.dst = c && m.ch = ch
      | .grant q | .revocation q => q.dst = c && q.ch = ch
      | _ => false
/-- A rebinding that may take effect (spec/06 R159), or a retiring replica that may end. -/
def State.rebinds (s : State) (c ch : Nat) : Bool :=
  !(s.core c).resident ch && (((s.core c).channel ch).next.isSome || s.retires c ch)
/-! ### send and recv (R162-R164) -/

/-- Images that hold poison: their use consumes it (spec/22 R466). -/
def State.onImage (s : State) (off n : Nat) (body : Out) : Out :=
  if s.me.mem.poisoned off n then .trap ⟨0x0E, 1, w64 off, s.allLanes⟩ else body
/-- A channel word of R162: bit 63 set, bits 42:6 clear. -/
def channelWordOk (a : Word) : Bool := a.getLsbD 63 && fieldOf a 42 6 = 0
/-- The checks of a channel word: form, then context. -/
def State.checkChannel (s : State) (a : Word) (body : Out) : Out :=
  if !channelWordOk a then s.addrTrap 0x04 0 a
  else if !s.sees (coreOf a) then s.addrTrap 0x07 0 a
  else body
/-- The message that `send` queues. -/
def State.sendMessage (s : State) (a b : Word) (n : Nat) (rp : Bool) : Outbound :=
  { msg := { src := .core s.cur, id := s.nextTag, dst := coreOf a, ch := fieldOf a 5 0, slots := 1,
             body := .data (⟨headerWord s.cur 0 n, false⟩ :: (List.range n).map fun i => s.me.mem.datum (b.toNat + 8 * i) 8), rp },
    kind := .data, slot := 4, laneUid := 0, since := s.clock, asked := false, granted := false, refused := false, seq := s.nextTag }
/-- The queue of a network: its length, and a message put into it. -/
def Core.sendQueue (k : Core) (rp : BitVec 1) : List Outbound := if rp = 1 then k.sendRep else k.sendReq
def Core.queueSend (k : Core) (rp : BitVec 1) (o : Outbound) : Core :=
  if rp = 1 then { k with sendRep := k.sendRep ++ [o] } else { k with sendReq := k.sendReq ++ [o] }
/-- What `send` and `sendnb` share: checks, then the queue full or not. -/
def State.sendForm (s : State) (a b : BitVec 4) (all : List (BitVec 4)) (rp : BitVec 1) (n : BitVec 3) (body : Bool → State → Out) : Out :=
  let va := s.readG a
  let vb := s.readG b
  let cnt := n.toNat + 1
  s.gateAddr [b] [a] all vb <| s.checkChannel va <|
    if vb.toNat % 8 ≠ 0 then s.addrTrap 0x03 0 vb
    else if localEnd < vb.toNat + 8 * cnt then s.addrTrap 0x04 0 vb
    else if s.me.acquiring || s.me.fenced then .wait s
    else if 8 ≤ (s.me.sendQueue rp).length + (if rp = 1 then 0 else s.heldBy (.core s.cur)) then body true s
    else
      let t := s.scanLocal s.cur vb.toNat (8 * cnt)
      body false ((t.modMe (·.queueSend rp (t.sendMessage va vb cnt (rp = 1)))).fresh)
/-- `send`; a full queue traps in a message or change firing (R308). -/
def execSend (a b : BitVec 4) (p : BitVec 1) (n : BitVec 3) (s : State) : Host.Outcome State Fault Refusal :=
  s.finish (s.sendForm a b [a, b] p n fun full t =>
    if full then (if s.gang.kind ≠ .carry then s.trapHere 0x09 p.toNat else .wait s) else .next t)
/-- `sendnb`. -/
def execSendnb (d a b : BitVec 4) (p : BitVec 1) (n : BitVec 3) (s : State) : Host.Outcome State Fault Refusal :=
  s.finish (s.sendForm a b [d, a, b] p n fun full t => .next (t.writeG d (flag (!full))))

/-- A bound message channel. An unbound channel is none for `evbind` either, whatever its KIND (DESIGN CHOICE, log 67). -/
def Core.messageChannel (k : Core) (ch : Nat) : Bool := let h := k.channel ch; h.state ≠ 0 && h.kind = 1
/-- The next word of a channel's queue, taken; the slot of a message whose last word it is frees (R161). -/
def State.takeWord (s : State) (c ch : Nat) : Option (Datum × State) :=
  let k := s.core c
  match k.arrivalsAt ch with
  | [] => none
  | a :: _ =>
    match a.msg.body with
    | .data (w :: ws) =>
      let rest : List Arrival := if ws.isEmpty then k.arrivals.erase a
        else k.arrivals.map fun b => if b = a then ⟨{ a.msg with body := .data ws }⟩ else b
      some (w, (s.setCore c { k with arrivals := rest }).regrant c ch)
    | _ => none
/-- `recv` (R164). -/
def execRecv (d a : BitVec 4) (s : State) : Host.Outcome State Fault Refusal :=
  let ch := fieldOf (s.readG a) 5 0
  s.finish (s.blocking <| s.gate [a] [d, a] <|
    if !s.me.messageChannel ch then .trap ⟨0x0A, 2, w64 ch, s.allLanes⟩
    else match s.takeWord s.cur ch with
      | none => .wait s
      | some (w, t) => .next (t.writeG d w.val w.poison))
/-- `recvnb`. -/
def execRecvnb (d a b : BitVec 4) (s : State) : Host.Outcome State Fault Refusal :=
  let ch := fieldOf (s.readG a) 5 0
  s.finish (s.gate [a] [d, a, b] <|
    if !s.me.messageChannel ch then .trap ⟨0x0A, 2, w64 ch, s.allLanes⟩
    else match s.takeWord s.cur ch with
      | none => .next ((s.writeG d 0).writeG b 0)
      | some (w, t) => .next ((t.writeG d w.val w.poison).writeG b 1))

/-! ### chbind (R158, R159) -/

/-- Slots of the other channels with those of a new entry; a channel whose rebinding is pending counts with its old entry
(DESIGN CHOICE, log 50). -/
def Core.slotsWith (k : Core) (ch n : Nat) : Nat :=
  (((List.range 64).filter (· ≠ ch)).map fun i => (k.channel i).slots).sum + n
/-- Status 1 of `chbind`: the routine is not placed here, or the offset lies beyond it. -/
def Core.unplaced (k : Core) (c : Channel) : Bool :=
  c.routine ≠ 0 && (match k.placed.find? (·.id = c.routine) with
    | none => true
    | some p => p.len ≤ c.offset)
/-- Status 3: a field out of range, KIND 3, a reserved bit, CONS or START on the wrong kind (R157, R158, spec/20 R438). -/
def Channel.malformed (c : Channel) : Bool :=
  c.kind = 3 || fieldOf c.word0 47 45 ≠ 0 || fieldOf c.word0 2 0 ≠ 0 || 64 < c.slots || c.fire = 0 || 512 < c.fire ||
    (c.cons && c.kind ≠ 2) || (c.start && c.kind ≠ 1) || (c.kind = 2 && c.fire ≠ 1) || (c.kind = 0 && c.offset ≠ 0)
/-- The status shared by `chbind` and `chwr`. -/
def Core.bindStatus (k : Core) (ch : Nat) (c : Channel) : Nat :=
  if k.unplaced c then 1 else if 64 < k.slotsWith ch c.slots then 2 else if c.malformed then 3 else 0
/-- `chbind`. -/
def execChbind (d a b : BitVec 4) (s : State) : Host.Outcome State Fault Refusal :=
  let va := s.readG a
  let vb := s.readG b
  s.finish (s.gateAddr [b] [a] [d, a, b] vb <|
    if fieldOf va 63 6 ≠ 0 then s.addrTrap 0x04 0 va
    else if vb.toNat % 16 ≠ 0 ∨ localEnd ≤ vb.toNat then s.addrTrap 0x04 0 vb
    else if s.me.acquiring then .wait s
    else
      let t := s.scanLocal s.cur vb.toNat 16
      t.onImage vb.toNat 16 <|
        let ch := fieldOf va 5 0
        let k := t.me
        let w1 := w64 (k.mem.load (vb.toNat + 8) 8)
        let c : Channel := { word0 := w64 (k.mem.load vb.toNat 8) }
        let h := k.channel ch
        let st := if k.bindStatus ch c ≠ 0 then k.bindStatus ch c else if h.state = 2 then 4 else 0
        if st ≠ 0 then .next (t.writeG d (w64 st))
        else
          let u := t.modMe (·.setChannel ch { h with state := 2, next := some (c.word0, w1.getLsbD 0, w1.getLsbD 2), age := 0 })
          .next ((u.revokeGrants u.cur ch).writeG d 0))

/-! ### launch, spawn, replicas (R168-R171) -/

/-- The length of a launch record (spec/16 R367). -/
def recordLength (b : List Byte) : Nat := 0x38 + 8 * oneBits (BitVec.ofNat 32 (imageAt b 8 4))
/-- An address field of a launch record: given, aligned, global. -/
def timelineOk (v : Nat) : Bool := v ≠ 0 && v % 8 = 0 && v < 2 ^ 63
/-- Validity of a launch record against its routine's entry (spec/16 R367). -/
def launchValid (b : List Byte) (e : DirEntry) : Bool :=
  let f := imageAt b 3 1
  let carry := BitVec.ofNat 32 (imageAt b 8 4)
  let ireg := imageAt b 0xC 1
  let n := imageAt b 4 4
  e.known && e.channel ≠ 0xFF && (carry &&& ~~~e.carry) = 0 &&
    (f / 8 % 2 = 0 || (e.carry.getLsbD ireg && !carry.getLsbD ireg)) && 1 ≤ n && n ≤ 1048576 &&
    (f % 2 = 0 || timelineOk (imageAt b 0x10 8)) && (f / 2 % 2 = 0 || timelineOk (imageAt b 0x20 8)) &&
    imageAt b 2 1 < 16 && f < 16 && ireg < 32 && imageAt b 0xD 3 = 0 && imageAt b 0x28 16 = 0
/-- `launch` (R168, spec/16 R368): the append travels to the queue's slice, and `gD` awaits its status. -/
def execLaunch (d a : BitVec 4) (s : State) : Host.Outcome State Fault Refusal :=
  let va := s.readG a
  let img := s.me.mem.image va.toNat 64
  let n := recordLength img
  s.finish (s.gateAddr [a] [] [d, a] va <|
    if va.toNat % 64 ≠ 0 ∨ localEnd < va.toNat + n then s.addrTrap 0x04 0 va
    else if s.me.acquiring then .wait s
    else (s.scanLocal s.cur va.toNat n).onImage va.toNat n <|
      let s := s.scanLocal s.cur va.toNat n
      let r := imageAt img 0 2
      let go (t : State) (e : Option DirEntry) : Out :=
        match e with
        | some e =>
          if launchValid img e then
            if t.gang.arrivedPending t.gang.indices || t.me.fenced || !t.me.loadRoom 1 || !t.me.storeRoom 1 then .wait s
            else .next ((t.pendG d).sendLoad (.gang t.me.slot d.toNat 8 false (t.me.priv = 1)) t.gang.uids true none
              (.append (imageAt img 2 1) (t.me.mem.image va.toNat n)))
          else .next (t.writeG d 2)
        | none => .next (t.writeG d 2)
      if r = 0 ∨ r = trapRoutine ∨ !s.reachesCtx then go s none
      else match s.entry s.cur r with
        | none => .trap (s.dirTrap r s.allLanes)
        | some (e, t) => go t (some e))

/-- The spawned strands of the lanes `is`, until the pool runs out (R169): how many were made. -/
def State.spawnLanes (s : State) (a : BitVec 32) (e : DirEntry) (home : Bool) : List Nat → Nat → State × Nat
  | [], n => (s, n)
  | i :: is, n =>
    let l := s.gang.lane i
    let job := s.launchOf l.strand.toNat
    match s.drawStrand job with
    | none => (s, n)
    | some (num, t) =>
      let t := if job = 0 then t else t.countLaunch job 1
      let m := { l with uid := t.nextTag, pend := 0 }.pack a (BitVec.ofNat 24 num) 0 e.carry
      let (c, t) := t.chooseReplica t.cur e home
      ((t.modMe fun k => { k with outbox := k.outbox ++ [carryOut t.cur t.nextTag c k.slot t.clock e m] }).fresh).spawnLanes
        a e home is (n + 1)
/-- `spawn`. -/
def execSpawn (d a : BitVec 4) (h : BitVec 1) (q : BitVec 3) (s : State) : Host.Outcome State Fault Refusal :=
  let va := w64 (fieldOf (s.readG a) 31 0)
  let g := s.gang
  let is := g.guard q
  s.finish (match g.phase with
    | .spawned n =>
      if s.me.outbox.any (·.slot = s.me.slot) then .wait s else .next (s.writeG d (w64 n))
    | _ => s.gateAddr [a] [] [d, a] va <|
      if g.guardPoison q then .trap ⟨0x0E, 0, w64 q.toNat, s.allLanes⟩
      else if is.isEmpty then .next (s.writeG d 0)
      else match s.readEntries (routinesOf [va]) with
        | (t, some id) => .trap (t.dirTrap id (laneMask is))
        | (t, none) =>
          match t.checkSource va with
          | some (code, sub) => .trap ⟨code, sub, va, laneMask is⟩
          | none =>
            let e := t.cached (fieldOf va 31 16)
            let regs := (List.range 32).filter (fun j => e.carry.getLsbD j) ++ (wholeQuads e.carry).map (40 + ·)
            if is.any fun i => regs.any fun j => (g.lane i).pending j then .wait s
            else
              let (u, n) := t.spawnLanes (va.setWidth 32) e (h = 1) is 0
              .wait (u.modGang fun g => { g with phase := .spawned n }))

/-- The routines of a code store moved together from its start. -/
def compact (code : List (Nat × BitVec 16)) : Nat → List Placed → List (Nat × BitVec 16) × List Placed
  | _, [] => ([], [])
  | base, p :: ps =>
    let (c, qs) := compact code (base + p.len) ps
    ((List.range p.len).foldl (fun m i => mset 0 m (base + i) (mget 0 code (p.base + i))) c, { p with base } :: qs)
/-- A routine's code put into a core's code store behind the others. -/
def Core.place (k : Core) (id : Nat) (code : List (BitVec 16)) : Core :=
  let used := (k.placed.map (·.len)).sum
  let (c, ps) := compact k.code 0 k.placed
  let keep := k.code.filter fun e => 0x1E00 ≤ e.1
  let c := keep.foldl (fun m e => mset 0 m e.1 e.2) c
  { k with code := (code.zipIdx).foldl (fun m p => mset 0 m (used + p.2) p.1) c,
           placed := ps ++ [⟨id, used, code.length⟩] }
/-- The status of `rrepl` for a routine and a target (R170). -/
def State.replStatus (s : State) (e : DirEntry) (dst : Nat) : Nat :=
  let k := s.core dst
  let home := s.core (e.places.headD 0)
  if !e.known ∨ e.channel = 0xFF then 1
  else if 8 ≤ e.places.length then 2
  else if e.places.contains dst then 3
  else if s.hasCore dst ∧ 0x1E00 < (k.placed.map (·.len)).sum + e.length then 4
  else if s.hasCore dst ∧ ((k.channel e.channel).state ≠ 0 ∨ 64 < k.slotsWith e.channel (home.channel e.channel).slots) then 5
  else if !s.hasCore dst then 6
  else 0
/-- The status of `rrepl.ret` (R171). -/
def State.retStatus (s : State) (e : DirEntry) (dst : Nat) : Nat :=
  if !e.known ∨ e.channel = 0xFF then 1
  else if !e.places.contains dst then 3
  else if !s.hasCore dst then 6
  else if e.places.headD 0 = dst then 7
  else 0
/-- The name of a directory change among the waits of `Phase.acks`. -/
def dirTag (id : Nat) : Nat := 2 ^ 40 + id
/-- Every core of the context is told to drop its copy of an entry, and the acting gang awaits them. -/
def State.invalidateDir (s : State) (id dst : Nat) : State :=
  let cs := s.ctx.cores.map (·.1)
  let t := cs.foldl (fun t c => t.push (.directoryInvalidationAck c id)) s
  ({ t with ctx := { t.ctx with rrepling := some ⟨id, dst, cs.length⟩ } }).modGang fun g => { g with phase := .acks (dirTag id) cs.length 0 }
/-- The code copied from the home, the channel bound on the target with the home's entry, ENABLE set, the placement word
written (R170); its OVF stays (R149). -/
def State.replicate (s : State) (e : DirEntry) (dst : Nat) : State :=
  let home := s.core (e.places.headD 0)
  let code := (List.range e.length).map fun i => home.half (codeAddr e.id i)
  let t := s.modCore dst fun k =>
    let h := home.channel e.channel
    (k.place e.id code).setChannel e.channel { word0 := h.word0, enable := true, hold := h.hold, state := 1, ovf := (k.channel e.channel).ovf }
  let t := (t.bindRing dst e.channel).regrant dst e.channel
  t.writeDir { e with places := e.places ++ [dst], eligible := bput e.eligible e.places.length true,
                      retiring := bput e.retiring e.places.length false }
/-- What `rrepl` and `rrepl.ret` share: one change of the directory at a time, the acknowledgements, the status. -/
def State.replForm (s : State) (r : BitVec 16) (g : BitVec 4) (status : DirEntry → Nat → Nat) (change : State → DirEntry → Nat → State) : Out :=
  match s.gang.phase with
  | .acks _ 0 _ => .next (s.writeG g 0)
  | .acks _ _ _ => .wait s
  | _ => s.gate [g] [g] <|
    let dst := fieldOf (s.readG g) 19 0
    if s.ctx.rrepling.isSome then .wait s
    else if r.toNat = 0 ∨ r.toNat = trapRoutine ∨ !s.reachesCtx then .next (s.writeG g 1)
    else match s.readDir r.toNat with
      | none => .trap (s.dirTrap r.toNat s.allLanes)
      | some e =>
        let st := status e dst
        if st ≠ 0 then .next (s.writeG g (w64 st)) else .wait ((change s e dst).invalidateDir r.toNat dst)
/-- `rrepl`. -/
def execRrepl (r : BitVec 16) (g : BitVec 3) (s : State) : Host.Outcome State Fault Refusal :=
  s.finish (s.replForm r (g.setWidth 4) s.replStatus fun t e dst => t.replicate e dst)
/-- `rrepl.ret`: RETIRING is set and the unused grants on the replica are revoked (R171). -/
def execRreplRet (r : BitVec 16) (g : BitVec 3) (s : State) : Host.Outcome State Fault Refusal :=
  s.finish (s.replForm r (g.setWidth 4) s.retStatus fun t e dst =>
    let t := t.writeDir { e with retiring := bput e.retiring (e.places.findIdx (· = dst)) true }
    ((t.modCore dst fun k => k.setChannel e.channel { k.channel e.channel with retire := true }).revokeGrants dst e.channel).regrant
      dst e.channel)
/-- The change of the directory has one acknowledgement less to await; with the last it is over. -/
def State.lessChange (s : State) (id : Nat) : State :=
  { s with ctx := { s.ctx with rrepling := s.ctx.rrepling.bind fun x =>
      if x.routine ≠ id then some x else if x.left ≤ 1 then none else some { x with left := x.left - 1 } } }
/-- DIRECTORY_INVALIDATION_ACK: the core drops its copy, and the gang that awaits it has one less to await. -/
def execDirectoryInvalidationAck (core id : Nat) (s : State) : Host.Outcome State Fault Refusal :=
  .next ((((s.modCore core fun k => { k with dir := k.dir.filter (·.id ≠ id) }).lessAcks (dirTag id)).lessChange id)).wake

/-! ### Counter events, lane claims (R155, R156, R172) -/

/-- The crossing that a binding remembers is queued when the ready queue has room (spec/16 R376). -/
def State.queueCrossing (s : State) (core sel : Nat) : State :=
  let k := s.core core
  match k.bindings.find? fun b => b.sel = sel && b.remembered.isSome with
  | some b =>
    if 16 ≤ k.ready.length then s
    else
      let msg := readyMessage core s.nextTag b.ch 2 s.clock (w64 sel) (b.remembered.getD 0)
      (s.setCore core { k with
        ready := k.ready ++ [msg],
        bindings := k.bindings.map fun (x : Binding) => if x.sel = sel then { x with remembered := none } else x }).fresh
  | none => s
/-- `evbind`. A crossing that the old binding remembers is queued first; one that finds the ready queue full is dropped with
the old binding (DESIGN CHOICE, log 49). -/
def execEvbind (d a b : BitVec 4) (s : State) : Host.Outcome State Fault Refusal :=
  let sel := fieldOf (s.readG a) 31 0
  let ch := fieldOf (s.readG a) 37 32
  let thr := s.readG b
  s.finish (s.gate [a, b] [d, a, b] <|
    let k := s.me
    let old := k.bindings.any (·.sel = sel)
    let st := if !counterKnown sel k.priv.toNat then 1 else if !k.messageChannel ch then 2
      else if 8 ≤ k.bindings.length ∧ !old then 3 else 0
    if st ≠ 0 then .next (s.writeG d (w64 st))
    else
      let s := s.queueCrossing s.cur sel
      let k := s.me
      let b : Binding := ⟨sel, ch, thr, (s.counterValue s.cur sel).toNat < thr.toNat, none⟩
      .next ((s.setMe { k with bindings := k.bindings.filter (·.sel ≠ sel) ++ [b] }).writeG d 0))
/-- `evbind.off`; a remembered crossing as for `evbind`. -/
def execEvbindOff (d a : BitVec 4) (s : State) : Host.Outcome State Fault Refusal :=
  let sel := fieldOf (s.readG a) 31 0
  s.finish (s.gate [a] [d, a] <|
    let k := s.me
    let st := if !counterKnown sel k.priv.toNat then 1 else if !k.bindings.any (·.sel = sel) then 3 else 0
    if st ≠ 0 then .next (s.writeG d (w64 st))
    else .next (((s.queueCrossing s.cur sel).modMe fun k => { k with bindings := k.bindings.filter (·.sel ≠ sel) }).writeG d 0))
/-- COUNTER_EVENT (spec/16 R376). -/
def execCounterEvent (core sel : Nat) (s : State) : Host.Outcome State Fault Refusal := .next (s.queueCrossing core sel)
/-- Bindings look at their counters: a crossing is remembered, a counter below its threshold arms (R172). -/
def Binding.look (b : Binding) (v : Word) : Binding :=
  if v.toNat < b.threshold.toNat then { b with armed := true }
  else if b.armed then { b with armed := false, remembered := b.remembered.or (some v) }
  else b

/-- Free shared lanes of the acting core's cluster (spec/16 R374). -/
def State.sharedFree (s : State) (c : Nat) : Nat := 96 - (s.cluster (s.clusterOf c)).sharedTaken
/-- `vclaim`. -/
def execVclaim (d a : BitVec 4) (s : State) : Host.Outcome State Fault Refusal :=
  let n := (s.readG a).toNat
  s.finish (s.gate [a] [d, a] <|
    if n = 0 ∨ 32 < n then .trap ⟨0x0C, 0, s.readG a, s.allLanes⟩
    else
      let ch := s.gang.channel
      .next ((s.modMe fun k => k.setChannel ch ((k.channel ch).setClaim n)).writeG d (w64 (min n (1 + s.sharedFree s.cur)))))
/-- `vrenew`. -/
def execVrenew (d : BitVec 4) (s : State) : Host.Outcome State Fault Refusal :=
  s.finish (s.gate [] [d] <|
    let n := s.gang.lanes.length
    let t := s.returnShared s.cur (s.gang.grant - n)
    .next ((t.modGang fun g => { g with grant := n }).writeG d (w64 n)))

end Sys2Proof.Machine
end

