-- ==== Sys2Proof/Machine/Atomic.lean ====
section
/-! DEFINITION. Operations at the target: atomics and slice packets (spec/10 R236-R240, spec/18 R422), futures (R241-R244) and
dependence counters (R245, R246), opcodes 0xC0 to 0xCF. -/
namespace Sys2Proof.Machine

/-! ### Atomics and packets (R237, R238) -/

/-- The check of an atomic's address: a store of the memory size, and no core window accepts one. -/
def State.checkAtomic (s : State) (a : Word) (size : Nat) (core : Bool) : Chk :=
  match s.check a size size true 2 with
  | .core c off => if core && off < localEnd then .core c off else .fail 0x06 1
  | x => x
/-- What holds an access that leaves the core back, after its checks: registers that arrived pending (spec/15 R358), a
release fence, no room in USC. -/
def State.mayLeave (s : State) : Bool := !s.gang.arrivedPending s.gang.indices && !s.me.fenced && s.me.storeRoom 1
/-- An atomic or packet at `gA`: its checks, those of `more`, then the access. -/
def State.atomicForm (s : State) (a : BitVec 4) (uses all : List (BitVec 4)) (size : Nat) (core : Bool) (more : Out → Out)
    (go : Chk → Out) : Out :=
  let ea := s.readG a
  s.gateAddr [a] uses all ea <|
    if s.me.acquiring then .wait s
    else s.checked ea true (s.checkAtomic ea size core) fun c => more (if s.mayLeave then go c else .wait s)
/-- The watchpoint causes of an atomic. -/
def State.watchAtomic (s : State) (a : Word) (size : Nat) : List Cause := s.watch true [⟨0, a, size, true, true⟩]
/-- A request of an atomic with a result: `gD` pending, an entry, a count in USC (R238). -/
def State.sendAtomic (s : State) (d : BitVec 4) (size : Nat) (c : Chk) (op : MemOp) : State :=
  (s.pendG d).sendLoad (.gang s.me.slot d.toNat size false (s.me.priv = 1)) s.gang.uids true c.home op
/-- With a result it waits for room in the outstanding-load table. -/
def State.withEntry (s : State) (body : Out) : Out := if s.me.loadRoom 1 then body else .wait s
/-- The checks of a local offset that must be a multiple of `align`. -/
def State.localOffset (s : State) (v : Word) (align mis : Nat) (body : Out) : Out :=
  match checkLocal v align mis with
  | some (code, sub) => s.addrTrap code sub v
  | none => body

/-- `amo`. -/
def execAmo (d a b : BitVec 4) (z : BitVec 2) (o : BitVec 8) (s : State) : Host.Outcome State Fault Refusal :=
  let size := accessSize z
  s.finish (s.atomicForm a [b] [d, a, b] size true id fun c => s.withEntry <|
    .next (s.sendAtomic d size c (.amo c.at o.toNat z.toNat (s.readG b))) (s.watchAtomic (s.readG a) size))
/-- `amocas`: the old `gD` is the compare value, `gB` the new one. -/
def execAmocas (d a b : BitVec 4) (z : BitVec 2) (s : State) : Host.Outcome State Fault Refusal :=
  let size := accessSize z
  s.finish (s.atomicForm a [d, b] [d, a, b] size true id fun c => s.withEntry <|
    .next (s.sendAtomic d size c (.cas c.at z.toNat (s.readG d) (s.readG b))) (s.watchAtomic (s.readG a) size))
/-- `amol`: performed at issue in the core's own local memory. -/
def execAmol (d a b : BitVec 4) (z : BitVec 2) (o : BitVec 8) (s : State) : Host.Outcome State Fault Refusal :=
  let ea := s.readG a
  let size := accessSize z
  s.finish (s.localForm [a] [b] [d, a, b] ea size 2 <|
    if s.me.fenced then .wait s
    else
      let t := s.scanLocal s.cur ea.toNat size
      let x := t.me.mem.atomic ea.toNat o.toNat size (s.readG b)
      .next ((t.modMe fun k => { k with mem := x.1 }).writeG d x.2.1.val x.2.1.poison)
        (s.watchAtomic (coreAddr s.cur ea.toNat) size))
/-- `amonr`: as `amo` without a result. -/
def execAmonr (a b : BitVec 4) (z : BitVec 2) (o : BitVec 8) (s : State) : Host.Outcome State Fault Refusal :=
  let size := accessSize z
  s.finish (s.atomicForm a [b] [a, b] size true id fun c =>
    .next (s.sendStore s.gang.uids c.home (.amo c.at o.toNat z.toNat (s.readG b))) (s.watchAtomic (s.readG a) size))
/-- `sopw`: the operand is the word at local offset `gB`. -/
def execSopw (a b : BitVec 4) (z : BitVec 2) (o : BitVec 8) (s : State) : Host.Outcome State Fault Refusal :=
  let size := accessSize z
  let vb := s.readG b
  s.finish (s.atomicForm a [] [a, b] size false
    (fun body =>
      if s.me.poisonG b.toNat then .trap ⟨0x0E, 1, vb, s.allLanes⟩
      else s.localOffset vb 8 2 ((s.scanLocal s.cur vb.toNat 8).onImage vb.toNat 8 body))
    fun c =>
      let t := s.scanLocal s.cur vb.toNat 8
      .next (t.sendStore s.gang.uids none (.packet c.at o.toNat z.toNat ⟨(t.me.mem.datum vb.toNat 8).val, false⟩ .none))
        (s.watchAtomic (s.readG a) size))

/-! ### Chunk reductions (spec/18 R422) -/

/-- Bytes of a chunk with its trailer. -/
def imageBytes : Nat := 272
/-- The checks of a chunk reduction's destination: aligned to 16 within one slice frame. -/
def State.checkChunk (s : State) (a : Word) : Chk :=
  match s.check a 1 16 true 3 with
  | .core _ _ => .fail 0x06 1
  | .phys pa e =>
    if 65536 < pa % 65536 + imageBytes then .fail 0x03 3 else if sliceFrame pa then .phys pa e else .fail 0x06 1
  | x => x
/-- The checks of a local image of 272 bytes. -/
def State.localChunk (s : State) (v : Word) (body : Out) : Out :=
  if localEnd < v.toNat + imageBytes then s.addrTrap 0x04 0 v else if v.toNat % 16 ≠ 0 then s.addrTrap 0x03 3 v else body
/-- An image that leaves the core for another home: an armed transport flip inverts one bit of its data, and is used up
(spec/12 R306, spec/18 R428). -/
def flipImage (img : List Byte) (bit : Nat) : List Byte :=
  img.mapIdx fun i b => if i = 16 + bit / 8 then b ^^^ BitVec.ofNat 8 (2 ^ (bit % 8)) else b
def State.sendImage (s : State) (img : List Byte) : List Byte × State :=
  match s.me.inject.find? (·.1 = 0) with
  | some e => (flipImage img (e.2.toNat % 2048), s.modMe fun k => { k with inject := k.inject.filter (· ≠ e) })
  | none => (img, s)
/-- A chunk reduction with its source image at local offset `v`; the status goes to `dest`. -/
def State.reduceForm (s : State) (a : BitVec 4) (img : BitVec 4) (all : List (BitVec 4)) (op : Nat) (more : Out → Out)
    (dest : LoadDest) (pend : State → State) : Out :=
  let ea := s.readG a
  let v := s.readG img
  s.gateAddr [a] [] all ea <|
    if s.me.poisonG img.toNat then .trap ⟨0x0E, 1, v, s.allLanes⟩
    else if s.me.acquiring then .wait s
    else s.checked ea true (s.checkChunk ea) fun c => s.localChunk v <| more <|
      if !s.mayLeave || !s.me.loadRoom 1 then .wait s
      else
        let t := s.scanLocal s.cur v.toNat imageBytes
        let (bytes, t) := t.sendImage (t.me.mem.image v.toNat imageBytes)
        .next ((pend t).sendLoad dest s.gang.uids true none
          (.reduce c.at op bytes (t.me.mem.poisonedWords v.toNat imageBytes) ea)) (s.watchAtomic ea imageBytes)

/-- `sop`: the result is the new value n; a chunk reduction's is its status. -/
def execSop (d a b : BitVec 4) (z : BitVec 2) (o : BitVec 8) (s : State) : Host.Outcome State Fault Refusal :=
  let size := accessSize z
  s.finish (if 0x20 ≤ o.toNat then
      s.reduceForm a b [d, a, b] o.toNat id (.gang s.me.slot d.toNat 8 false (s.me.priv = 1)) (·.pendG d)
    else s.atomicForm a [b] [d, a, b] size false id fun c => s.withEntry <|
      .next (s.sendAtomic d size c (.packet c.at o.toNat z.toNat ⟨s.readG b, false⟩ .none)) (s.watchAtomic (s.readG a) size))
/-- `sopq`: the operand is `gD`; n goes to the future at local offset `gB` (R239). -/
def execSopq (d a b : BitVec 4) (z : BitVec 2) (o : BitVec 8) (s : State) : Host.Outcome State Fault Refusal :=
  let size := accessSize z
  let vb := s.readG b
  let future (body : Out) : Out :=
    if s.me.poisonG b.toNat then .trap ⟨0x0E, 1, vb, s.allLanes⟩ else s.localOffset vb 8 2 body
  s.finish (if 0x20 ≤ o.toNat then s.reduceForm a d [d, a, b] o.toNat future (.future vb.toNat) id
    else s.atomicForm a [d] [d, a, b] size false future fun c => s.withEntry <|
      .next (s.sendLoad (.future vb.toNat) s.gang.uids true none (.packet c.at o.toNat z.toNat ⟨s.readG d, false⟩ .none))
        (s.watchAtomic (s.readG a) size))

/-! ### Future and counter addresses (R241) -/

/-- The checks of a future or counter address: the core and the offset, or the trap. -/
def State.target (s : State) (a : Word) (align : Nat) : Except (Nat × Nat) (Nat × Nat) :=
  if a.getLsbD 63 then
    if badForm a ∨ localEnd ≤ coreOffset a then .error (0x04, 0)
    else if !s.sees (coreOf a) then .error (0x07, 0)
    else if a.toNat % align ≠ 0 then .error (0x03, 2)
    else .ok (coreOf a, coreOffset a)
  else if localEnd ≤ a.toNat then .error (0x04, 0)
  else if a.toNat % align ≠ 0 then .error (0x03, 2)
  else .ok (s.cur, a.toNat)
/-- The target of an instruction whose `gA` is a future or counter address. -/
def State.onTarget (s : State) (a : BitVec 4) (uses all : List (BitVec 4)) (align : Nat) (body : Nat → Nat → Out) : Out :=
  let ea := s.readG a
  s.gateAddr [a] uses all ea <|
    if s.me.acquiring then .wait s
    else match s.target ea align with
      | .error (code, sub) => s.addrTrap code sub ea
      | .ok (c, off) => body c off
/-- The address of a future as a watchpoint compares it. -/
def State.watchTarget (s : State) (a : Word) (size : Nat) (load store : Bool) : List Cause :=
  s.watch true [⟨0, if a.getLsbD 63 then a else coreAddr s.cur a.toNat, size, load, store⟩]

/-! ### Chained packets (R240) -/

/-- Fields of the image of Table 10-5. -/
structure ChainImage where
  addr : Word
  operand : Word
  op : Nat
  sz : Nat
  op2 : Nat
  sz2 : Nat
  kind : Nat
  dest : Word
  deriving DecidableEq, Repr
def parseChain (b : List Byte) : ChainImage :=
  { addr := w64 (imageAt b 0 8), operand := w64 (imageAt b 8 8), op := imageAt b 0x10 1, sz := imageAt b 0x11 1,
    op2 := imageAt b 0x12 1, sz2 := imageAt b 0x13 1, kind := imageAt b 0x14 1, dest := w64 (imageAt b 0x18 8) }
/-- An operation and its size code that a link of a chain accepts (Table 10-3). -/
def chainOp (op sz : Nat) : Bool :=
  if 1 ≤ op ∧ op ≤ 9 then sz = 2 ∨ sz = 3 else if op = 0x11 then sz = 3 else 0x10 ≤ op && op ≤ 0x15 && sz = 2
/-- Reserved bytes zero, operations and sizes accepted, a KIND of 0 to 3; what Table 10-5 says is zero under a KIND is held to that (DESIGN
CHOICE, log 44: the refusals that R240 lists do not name it). -/
def ChainImage.ok (i : ChainImage) (b : List Byte) : Bool :=
  imageAt b 0x15 3 = 0 && chainOp i.op i.sz && i.kind ≤ 3 &&
    (if i.kind = 1 then chainOp i.op2 i.sz2 else i.op2 = 0 && i.sz2 = 0) && (i.kind ≠ 0 || i.dest = 0)
/-- The check of NEXT DEST: the chain that it makes. -/
def State.checkDest (s : State) (i : ChainImage) (go : Chain → Out) : Out :=
  match i.kind with
  | 0 => go .none
  | 1 => s.checked i.dest true (s.checkAtomic i.dest (sizeOf i.sz2) false) fun c => go (.packet c.at i.op2 i.sz2)
  | 2 => if !channelWordOk i.dest then s.addrTrap 0x04 0 i.dest
    else if !s.sees (coreOf i.dest) then s.addrTrap 0x07 0 i.dest else go (.message i.dest)
  | _ => match s.target i.dest 8 with
    | .error (code, sub) => s.addrTrap code sub i.dest
    | .ok (c, off) => go (.future c off)
/-- The accesses of a chain as a watchpoint sees them. -/
def ChainImage.seen (i : ChainImage) (c : Nat) : List Seen :=
  ⟨0, i.addr, sizeOf i.sz, true, true⟩ ::
    (match i.kind with
      | 1 => [⟨0, i.dest, sizeOf i.sz2, true, true⟩]
      | 3 => [⟨0, if i.dest.getLsbD 63 then i.dest else coreAddr c i.dest.toNat, 8, false, true⟩]
      | _ => [])
/-- `sop.ch`: every check is made at issue. -/
def execSopCh (a : BitVec 4) (s : State) : Host.Outcome State Fault Refusal :=
  let va := s.readG a
  s.finish (s.localForm [a] [] [a] va 32 3 <|
    let t := s.scanLocal s.cur va.toNat 32
    t.onImage va.toNat 32 <|
      let b := t.me.mem.image va.toNat 32
      let i := parseChain b
      if !i.ok b then s.trapHere 0x01 0x04
      else s.checked i.addr true (s.checkAtomic i.addr (sizeOf i.sz) false) fun c => s.checkDest i fun chain =>
        if s.mayLeave then
          .next (t.sendStore s.gang.uids none (.packet c.at i.op i.sz ⟨i.operand, false⟩ chain)) (s.watch true (i.seen s.cur))
        else .wait s)

/-! ### Futures (R242, R243) -/

/-- An instruction in two parts: the request has been answered, is out, or has still to be made. -/
def State.twoPart (s : State) (answer : Datum → Bool → Out) (start : Out) : Out :=
  match s.gang.phase with
  | .answered _ v ok => answer v ok
  | .asked _ => .wait s
  | _ => start
/-- The gang waits for the answer to the request that it sends now. -/
def State.askPhase (s : State) (counted : Bool) (home : Option Nat) (op : MemOp) : Out :=
  if !s.me.loadRoom 1 || (counted && !s.me.storeRoom 1) then .wait s
  else
    let t := s.sendLoad (.phase s.me.slot) s.gang.uids counted home op
    .wait (t.modGang fun g => { g with phase := .asked s.nextTag }).closing
/-- A release or a put waits for registers that arrived pending (spec/15 R358), then for its release. -/
def State.whenPut (s : State) (body : Out) : Out :=
  if s.gang.arrivedPending s.gang.indices then .wait s else s.whenReleased body
/-- A remote future operation whose answer is written when it comes. -/
def State.sendFuture (s : State) (dest : LoadDest) (c off : Nat) (k : FutOp) (v : Datum) (pend : State → State) (after : List Cause) : Out :=
  if !s.me.loadRoom 1 || !s.me.storeRoom 1 then .wait s
  else .next ((pend s).sendLoad dest s.gang.uids true (some c) (.future off k v)) after
/-- A future operation on a word of the issuing core: performed at issue. -/
def State.ownFuture (s : State) (off : Nat) (k : FutOp) (v : Datum) : State × Bool × Datum :=
  let t := s.scanLocal s.cur off 8
  let r := t.me.future off k v
  (t.setMe r.1, decide ((r.2.headD ⟨0, false⟩).val ≠ 0), r.2.getLastD ⟨0, false⟩)
/-- A remote take or peek waits for registers that arrived pending. -/
def State.whenRemote (s : State) (body : Out) : Out :=
  if s.gang.arrivedPending s.gang.indices then .wait s else body
/-- An acquire whose data come with the next request. -/
def State.acquires (s : State) : State := s.modGang fun g => { g with acq := g.acq ++ [s.nextTag] }

/-- `fput`. -/
def execFput (a b : BitVec 4) (s : State) : Host.Outcome State Fault Refusal :=
  let after := s.watchTarget (s.readG a) 8 false true
  s.finish (s.twoPart (fun _ _ => .next s after) <| s.blocking <|
    s.onTarget a [] [a, b] 8 fun c off => s.whenPut <|
      if c = s.cur then
        let (t, ok, _) := s.ownFuture off .put (s.datumG b)
        if ok then .next t after else .wait s
      else s.askPhase true (some c) (.future off .put (s.datumG b)))
/-- `fputnb`: 1 when the word was empty. -/
def execFputnb (d a b : BitVec 4) (s : State) : Host.Outcome State Fault Refusal :=
  let after := s.watchTarget (s.readG a) 8 false true
  s.finish (s.onTarget a [] [d, a, b] 8 fun c off => s.whenPut <|
    if c = s.cur then
      let (t, ok, _) := s.ownFuture off .putnb (s.datumG b)
      .next (t.writeG d (flag ok)) after
    else s.sendFuture (.gang s.me.slot d.toNat 8 false (s.me.priv = 1)) c off .putnb (s.datumG b) (·.pendG d) after)
/-- `ftake`. -/
def execFtake (d a : BitVec 4) (s : State) : Host.Outcome State Fault Refusal :=
  let after := s.watchTarget (s.readG a) 8 true false
  s.finish (s.twoPart (fun v _ => .next (s.writeG d v.val v.poison) after) <| s.blocking <|
    s.onTarget a [] [d, a] 8 fun c off =>
      if c = s.cur then
        let (t, ok, v) := s.ownFuture off .take ⟨0, false⟩
        if ok then .next (t.writeG d v.val v.poison) after else .wait s
      else s.whenRemote (s.askPhase true (some c) (.future off .take ⟨0, false⟩)))
/-- `ftakenb` and `fpeek`: the word to `gD`, whether it was full to `gB`. -/
def State.takeForm (s : State) (d a b : BitVec 4) (k : FutOp) : Out :=
  let after := s.watchTarget (s.readG a) 8 true false
  s.onTarget a [] [d, a, b] 8 fun c off =>
    if c = s.cur then
      let (t, ok, v) := s.ownFuture off k ⟨0, false⟩
      .next ((t.writeG d v.val v.poison).writeG b (flag ok)) after
    else s.whenRemote <|
      s.sendFuture (.gangs s.me.slot d.toNat b.toNat (s.me.priv = 1)) c off k ⟨0, false⟩
        (fun t => ((t.pendG d).pendG b).acquires) after
/-- `ftakenb`. -/
def execFtakenb (d a b : BitVec 4) (s : State) : Host.Outcome State Fault Refusal := s.finish (s.takeForm d a b .takenb)
/-- `fpeek`. -/
def execFpeek (d a b : BitVec 4) (s : State) : Host.Outcome State Fault Refusal := s.finish (s.takeForm d a b .peek)

/-! ### Dependence counters (R245, R246) -/

/-- A counter update: it releases; with `.old` the count before it goes to `gD`. -/
def State.counterForm (s : State) (d a b : BitVec 4) (o : BitVec 1) (k : CtrOp) : Out :=
  let all := if o = 1 then [d, a, b] else [a, b]
  s.onTarget a [b] all 32 fun c off => s.whenPut <|
    if !s.me.storeRoom 1 || (o = 1 && !s.me.loadRoom 1) then .wait s
    else
      let dest : LoadDest := if o = 1 then .gang s.me.slot d.toNat 8 false (s.me.priv = 1) else .update
      let t := if o = 1 then s.pendG d else s
      .next (t.sendLoad dest s.gang.uids true (some c) (.counter off k (s.readG b)))
        (s.watchTarget (s.readG a) 4 (o = 1) true)
/-- `dcset`. -/
def execDcset (d a b : BitVec 4) (o : BitVec 1) (s : State) : Host.Outcome State Fault Refusal := s.finish (s.counterForm d a b o .set)
/-- `dcadd`. -/
def execDcadd (d a b : BitVec 4) (o : BitVec 1) (s : State) : Host.Outcome State Fault Refusal := s.finish (s.counterForm d a b o .add)
/-- `dcdec`. -/
def execDcdec (d a b : BitVec 4) (o : BitVec 1) (s : State) : Host.Outcome State Fault Refusal := s.finish (s.counterForm d a b o .dec)

end Sys2Proof.Machine
end

