-- ==== Sys2Proof/Machine/Sync.lean ====
section
/-! DEFINITION. Barriers (spec/10 R247-R251), fences (R252, R253) and timelines (R254, R255), opcodes 0xE0 to 0xE7. -/
namespace Sys2Proof.Machine

/-! ### Barrier instances -/

def Core.barrier (k : Core) (n : Nat) : Barrier := mget {} k.barriers n
def Core.setBarrier (k : Core) (n : Nat) (b : Barrier) : Core := { k with barriers := mset {} k.barriers n b }
/-- The extent of a scope around a position (spec/01 R20, Table 1-7); scopes as the SCOPE field of Table 10-7 has them. -/
def extentAt (scope : Nat) (p : Nat × Nat × Nat) : Nat :=
  match scope with
  | 1 => 25600 * p.1 + coreIndexAt p
  | 2 => 6400 * p.1 + 40 * p.2.1 + p.2.2 / 4
  | 3 => clusterAt p
  | 4 => dieAt p
  | 5 => p.1
  | _ => 0
def State.extent (s : State) (c scope : Nat) : Nat := ((s.place c).map (extentAt scope)).getD 0
/-- A scope that holds another core of the context than `c`: its node stands beyond the core (spec/01 R44). -/
def State.beyond (s : State) (c scope : Nat) : Bool :=
  s.ctx.cores.any fun e => e.1 ≠ c && extentAt scope e.2 = s.extent c scope
def BarrierNode.is (b : BarrierNode) (n scope extent : Nat) : Bool := b.n = n && b.scope = scope && b.extent = extent
/-- The instance of a barrier number at a scope around a core. -/
def State.node (s : State) (n scope extent : Nat) : Option BarrierNode := s.nodes.find? (·.is n scope extent)
def State.setNode (s : State) (b : BarrierNode) : State :=
  { s with nodes := s.nodes.map fun x => if x.is b.n b.scope b.extent then b else x }
/-- Every participant's PENDING is zero. -/
def State.nonePending (s : State) (b : BarrierNode) : Bool := b.members.all fun c => ((s.core c).barrier b.n).pending = 0
def Way.code : Way → Nat
  | .start => 0 | .east => 1 | .west => 2 | .south => 3 | .north => 4 | .here => 5
/-- The input of a router that a copy stands at, as a number. -/
def Tree.input (x : Tree) : Nat := 8 * x.at' + x.way.code
/-- Where multicasts enter the mesh of a die: its first router (spec/17 R389; DESIGN CHOICE, log 54). -/
def attachment (die : Nat) : Nat := 25600 * (die / 4) + 160 * (80 * (die % 4 / 2)) + 80 * (die % 2)
/-- The root router of a scope's tree: the attachment of its die, or of the first die of its package or of the pod (log 54). -/
def rootOf (scope extent : Nat) : Nat := attachment (if scope = 4 then extent else if scope = 5 then 4 * extent else 0)
/-- The router at which the node of a core's register stands: that of its quad or cluster, else the root of its scope (spec/01 Table 1-7). -/
def State.nodeRouter (s : State) (c scope : Nat) : Nat :=
  if scope < 4 then ((s.place c).map fun p => (clusterPositions (clusterAt p)).headD 0).getD 0 else rootOf scope (s.extent c scope)
/-- Whether a core takes part in what a copy announces: its register is bound at that scope. -/
def copyWanted (s : State) (e : Instr) (c : Nat) : Bool :=
  match e with
  | .barrierCompletion scope n => ((s.core c).barrier n).scope = scope
  | _ => true
/-- The completion of a generation reaches the participants: at once within one core, from the node of a quad or cluster, else
by a multicast from the root of the scope to the cores of its extent (spec/01 Table 1-7, spec/17 R389). -/
def State.announce (s : State) (b : BarrierNode) : State :=
  if b.scope = 1 then
    b.members.foldl (fun t c =>
      (t.modCore c fun k => let r := k.barrier b.n; k.setBarrier b.n { r with gen := (r.gen + 1) % 65536 }).wake) s
  else if b.scope < 4 then b.members.foldl (fun t c => t.push (.barrierCompletion c b.n)) s
  else
    let seats := s.ctx.cores.filter fun e => extentAt b.scope e.2 = b.extent
    let root := rootOf b.scope b.extent
    let way (q : Nat) : Path := match s.route (root / 25600) q with
      | some is => .ports is
      | none => .refused
    ({ s with trees := s.trees ++ [{ id := s.nextTag, at' := root, way := .start, dests := seats.map (·.1), event := .barrierCompletion b.scope b.n,
                                     ways := ((seats.map (·.2.1)).eraseDups.filter (· ≠ root / 25600)).map fun q => (q, way q) }] } : State).fresh
/-- Generations complete as long as the arrivals counted reach COUNT and no participant has bytes pending (R248). -/
def State.complete (s : State) (n scope extent : Nat) : Nat → State
  | 0 => s
  | fuel + 1 =>
    match s.node n scope extent with
    | none => s
    | some b =>
      if b.count = 0 ∨ b.arrived < b.count ∨ !s.nonePending b then s
      else
        let b' := { b with arrived := b.arrived - b.count, gen := (b.gen + 1) % 65536 }
        ((s.setNode b').announce b').complete n scope extent fuel
/-- An instance is looked at after a change: at most one generation for each arrival counted. -/
def State.settle (s : State) (n scope extent : Nat) : State :=
  match s.node n scope extent with
  | some b => s.complete n scope extent (b.arrived + 1)
  | none => s
/-- Arrivals counted at the node of a core's register. -/
def State.countArrivals (s : State) (c n count : Nat) : State :=
  let r := (s.core c).barrier n
  let e := s.extent c r.scope
  match s.node n r.scope e with
  | some b => (s.setNode { b with arrived := b.arrived + count }).settle n r.scope e
  | none => s
/-- PENDING of a register changed by an engine; a fall may complete a generation. -/
def State.setPending (s : State) (c n : Nat) (f : Nat → Nat) : State :=
  let r := (s.core c).barrier n
  let t := s.modCore c fun k => k.setBarrier n { r with pending := f r.pending }
  if f r.pending < r.pending then t.settle n r.scope (t.extent c r.scope) else t
/-- Arrivals of a core: counted at once where no other core is in reach, else forwarded to the node. -/
def State.arriveBarrier (s : State) (c n count : Nat) (ack : Option (List Nat)) : State :=
  let r := (s.core c).barrier n
  if count = 0 ∨ r.scope = 0 then s
  else if s.beyond c r.scope then
    let t := s.modCore c fun k => k.setBarrier n { r with arrived := r.arrived + count }
    match ack with
    | some uids =>
      let t := t.modMe fun k => { k.modGang (·.addStores uids) with usc := k.usc + 1 }
      t.emit (.barrierArrival c n count ack)
    | none => t.push (.barrierArrival c n count none)
  else s.countArrivals c n count
/-- BARRIER_ARRIVAL: the node counts; an arrival that counted in USC is acknowledged (spec/15 R360). -/
def execBarrierArrival (core n count : Nat) (ack : Option (List Nat)) (s : State) : Host.Outcome State Fault Refusal :=
  let t := s.modCore core fun k => let r := k.barrier n; k.setBarrier n { r with arrived := r.arrived - count }
  let t := t.countArrivals core n count
  .next (match ack with
    | some uids => t.push (.storeAcknowledgement core uids)
    | none => t).wake
/-- BARRIER_COMPLETION: GEN rises by 1 at a participant. -/
def execBarrierCompletion (core n : Nat) (s : State) : Host.Outcome State Fault Refusal :=
  .next (s.modCore core fun k => let r := k.barrier n; k.setBarrier n { r with gen := (r.gen + 1) % 65536 }).wake

/-- The status of `barbind` (R250). -/
def State.barbindStatus (s : State) (c n scope count : Nat) : Nat :=
  let r := (s.core c).barrier n
  let others := (s.node n scope (s.extent c scope)).any fun b => b.count ≠ count && b.members.any (· ≠ c)
  if count ≠ 0 ∧ others then 1
  else if r.scope ≠ 0 ∧ (r.arrived ≠ 0 ∨ r.pending ≠ 0) then 2
  else if r.scope = 0 ∧ count = 0 then 3
  else 0
/-- Completions of an instance number still on their way to a core are withdrawn. -/
def State.withdrawCompletions (s : State) (c n : Nat) : State :=
  let less (x : Tree) : Tree := match x.event with
    | .barrierCompletion _ m => if m = n then { x with dests := x.dests.filter (· ≠ c) } else x
    | _ => x
  let t := s.keepEvents fun e => e ≠ .barrierCompletion c n
  { t with agenda := (t.agenda.map fun p => { p with tree := p.tree.map fun x => (x.1, less x.2) }).filter fun p => !p.tree.any (·.2.dests.isEmpty),
           trees := (s.trees.map less).filter fun x => !x.dests.isEmpty,
           residuals := (s.residuals.map fun e => (e.1, less e.2)).filter fun e => !e.2.dests.isEmpty }
/-- The core is no longer a participant of the instance it is bound to; one without participants ceases to exist. -/
def State.leaveBarrier (s : State) (c n : Nat) : State :=
  let r := (s.core c).barrier n
  let e := s.extent c r.scope
  let s0 := s.withdrawCompletions c n
  let t := { s0 with nodes := (s.nodes.map fun (b : BarrierNode) => if b.is n r.scope e then { b with members := b.members.filter (· ≠ c) } else b).filter
                      fun (b : BarrierNode) => !b.members.isEmpty }
  if r.scope = 0 then s else t.settle n r.scope e
/-- The core becomes a participant, with COUNT and the instance's generation. -/
def State.joinBarrier (s : State) (c n scope count : Nat) : State :=
  let e := s.extent c scope
  let old := (s.node n scope e).getD { n, scope, extent := e, count, arrived := 0, gen := 0, members := [] }
  let b := { old with count, members := old.members.filter (· ≠ c) ++ [c] }
  let s0 := s.withdrawCompletions c n
  let t := { s0 with nodes := s.nodes.filter (fun (x : BarrierNode) => !x.is n scope e) ++ [b] }
  (t.modCore c (·.setBarrier n { scope, count, gen := b.gen })).settle n scope e
/-- `barbind`. -/
def execBarbind (a b : BitVec 4) (n sc : BitVec 3) (s : State) : Host.Outcome State Fault Refusal :=
  let count := fieldOf (s.readG a) 15 0
  let scope := sc.toNat + 1
  s.finish (s.gate [a] [a, b] <|
    let st := s.barbindStatus s.cur n.toNat scope count
    let r := s.me.barrier n.toNat
    if st ≠ 0 then .next (s.writeG b (w64 st))
    else if count = 0 then
      .next (((s.leaveBarrier s.cur n.toNat).modMe (·.setBarrier n.toNat { scope := 0, gen := r.gen })).writeG b 0)
    else
      let t := if r.scope = scope then s else s.leaveBarrier s.cur n.toNat
      .next ((t.joinBarrier s.cur n.toNat scope count).writeG b 0))
/-- An instruction on a bound register; an unbound one raises the protection trap (R251). -/
def State.onBarrier (s : State) (n : BitVec 3) (body : Barrier → Out) : Out :=
  let r := s.me.barrier n.toNat
  if r.scope = 0 then .trap ⟨0x06, 2, w64 n.toNat, s.allLanes⟩ else body r
/-- `bararr`. -/
def execBararr (a b : BitVec 4) (n : BitVec 3) (s : State) : Host.Outcome State Fault Refusal :=
  let count := fieldOf (s.readG a) 15 0
  s.finish (s.gate [a] [a, b] <| s.onBarrier n fun r => s.whenPut <|
    if 65535 < r.arrived + count || !s.me.storeRoom 1 then .wait s
    else .next ((s.arriveBarrier s.cur n.toNat count (some s.gang.uids)).writeG b (w64 r.gen)))
/-- `barwait`. -/
def execBarwait (a : BitVec 4) (n : BitVec 3) (s : State) : Host.Outcome State Fault Refusal :=
  s.finish (s.blocking <| s.gate [a] [a] <| s.onBarrier n fun r =>
    if r.gen = fieldOf (s.readG a) 15 0 then .wait s else .next s)
/-- `barwaitnb`. -/
def execBarwaitnb (a b : BitVec 4) (n : BitVec 3) (s : State) : Host.Outcome State Fault Refusal :=
  s.finish (s.gate [a] [a, b] <| s.onBarrier n fun r => .next (s.writeG b (flag (r.gen ≠ fieldOf (s.readG a) 15 0))))

/-! ### Fences -/

/-- `fence`: `.ln` waits for nothing; every other scope waits alike. -/
def execFence (sc : BitVec 3) (s : State) : Host.Outcome State Fault Refusal :=
  s.finish (if sc = 6 then .next s else s.whenPut (.next s))
/-- Loads, atomics and takes: what `fence.acq` waits for (R252). -/
def acquired : MemOp → Bool
  | .load _ | .amo _ _ _ _ | .cas _ _ _ _ | .future _ .take _ | .future _ .takenb _ => true
  | _ => false
/-- `fence.acq`: the replies of the gang's earlier loads, atomics and takes. -/
def execFenceAcq (sc : BitVec 3) (s : State) : Host.Outcome State Fault Refusal :=
  let out := s.me.loads.any fun e => e.slot = s.me.slot && !e.orphan && acquired e.req.op
  s.finish (if sc ≠ 6 ∧ out then .wait s else .next s)
/-- `fence.rel`: later stores wait for what is out now; the gang goes on. -/
def execFenceRel (sc : BitVec 3) (s : State) : Host.Outcome State Fault Refusal :=
  s.finish (if sc = 6 then .next s
    else if s.gang.arrivedPending s.gang.indices then .wait s
    else .next (s.modGang fun g => { g with rel := some s.me.gangTags }).closing)

/-! ### Timelines -/

/-- The check of a timeline address: 8 bytes of global memory. -/
def State.checkTimeline (s : State) (a : Word) (write : Bool) : Chk :=
  match s.check a 8 8 write (bnat write) with
  | .core _ _ => .fail 0x06 (bnat write)
  | x => x
/-- An access to a timeline, after its checks. -/
def State.timelineForm (s : State) (a b : BitVec 4) (write : Bool) (body : Chk → Out) : Out :=
  let ea := s.readG a
  s.gateAddr [a] [b] [a, b] ea <|
    if s.me.acquiring then .wait s
    else s.checked ea write (s.checkTimeline ea write) fun c =>
      if s.gang.arrivedPending s.gang.indices then .wait s else body c
/-- `tlwait`: the slice registers a watch when the word is not released at once (R255). -/
def execTlwait (a b : BitVec 4) (s : State) : Host.Outcome State Fault Refusal :=
  let after := s.watch true [⟨0, s.readG a, 8, true, false⟩]
  s.finish (s.twoPart (fun _ _ => .next s after) <| s.blocking <| s.timelineForm a b false fun c =>
    s.askPhase false none (.watch c.at (s.readG b) true))
/-- `tlwaitnb`. -/
def execTlwaitnb (a b : BitVec 4) (s : State) : Host.Outcome State Fault Refusal :=
  s.finish (s.timelineForm a b false fun c => s.withEntry <|
    .next (((s.pendG b).acquires).sendLoad (.gang s.me.slot b.toNat 8 false (s.me.priv = 1)) [] false none (.watch c.at (s.readG b) false))
      (s.watch true [⟨0, s.readG a, 8, true, false⟩]))
/-- `tladd` and `tladd.set`: a release; it counts in USC. -/
def State.tladdForm (s : State) (a b : BitVec 4) (set : Bool) : Out :=
  s.timelineForm a b true fun c => s.whenReleased <|
    if s.me.storeRoom 1 then
      .next (s.sendStore s.gang.uids none (.timeline c.at set (s.readG b))) (s.watch true [⟨0, s.readG a, 8, !set, true⟩])
    else .wait s
/-- `tladd`. -/
def execTladd (a b : BitVec 4) (s : State) : Host.Outcome State Fault Refusal := s.finish (s.tladdForm a b false)
/-- `tladd.set`. -/
def execTladdSet (a b : BitVec 4) (s : State) : Host.Outcome State Fault Refusal := s.finish (s.tladdForm a b true)

end Sys2Proof.Machine
end

