-- ==== Sys2Proof/Machine/Maps.lean ====
section
/-! DEFINITION. What describes engine work: tensor maps (spec/11 R257-R260), the addresses an engine reaches (R263, R267), and
ring descriptors (R271-R274). -/
namespace Sys2Proof.Machine

/-! ### Tensor maps (Table 11-1) -/

/-- The fields of a map's eight words. -/
structure TMap where
  base : Nat
  id : Nat
  fmt : Nat
  rank : Nat
  checked : Bool
  own : Bool
  ext : List Nat
  str : List Int
  deriving DecidableEq, Repr
def parseMap (ws : List Word) : TMap :=
  let w (i : Nat) : Word := ws.getD i 0
  let e (i k : Nat) : Nat := fieldOf (w i) (16 * k + 15) (16 * k)
  let r (i k : Nat) : Int := (BitVec.ofNat 32 (fieldOf (w i) (32 * k + 31) (32 * k))).toInt
  { base := (w 0).toNat, id := fieldOf (w 1) 63 32, fmt := fieldOf (w 1) 23 16, rank := fieldOf (w 1) 15 13,
    checked := (w 1).getLsbD 12, own := (w 1).getLsbD 11, ext := [e 2 0, e 2 1, e 2 2, e 2 3, e 3 0],
    str := [r 4 0, r 4 1, r 5 0, r 5 1, r 6 0] }
def Core.tmap (k : Core) (n : Nat) : List Word := mget [] k.tmaps n
/-- The map register as eight words. -/
def mapWords (ws : List Word) : List Word := (List.range 8).map fun i => ws.getD i 0
/-- The extents and strides in use. -/
def TMap.dims (m : TMap) : List (Nat × Int) := (m.ext.zip m.str).take m.rank
def TMap.units (m : TMap) : Nat := m.dims.foldl (fun n d => n * d.1) 1
def TMap.unit (m : TMap) : Nat := unitBytes m.fmt
/-- Σ xd * STRd for unit n, x0 varying fastest (R259). -/
def TMap.offset : List (Nat × Int) → Nat → Int
  | [], _ => 0
  | (e, r) :: ds, n => (n % e : Nat) * r + TMap.offset ds (n / e)
/-- The address of unit n with an instruction's offset. -/
def TMap.unitAt (m : TMap) (off : Word) (n : Nat) : Word :=
  BitVec.ofInt 64 ((m.base : Int) + off.toNat + TMap.offset m.dims n)
/-- The address of the unit at a pair of indices of a RANK 2 map. -/
def TMap.at2 (m : TMap) (off : Word) (x y : Nat) : Word :=
  BitVec.ofInt 64 ((m.base : Int) + off.toNat + x * m.str.getD 0 0 + y * m.str.getD 1 0)
/-- The trailer address of chunk c of a CHECKED map (spec/18 R408). -/
def TMap.trailerAt (m : TMap) (off : Word) (c : Nat) : Word := w64 m.base + off - w64 (16 * (c + 1))
/-- The exact first and last byte of a box. -/
def TMap.box (m : TMap) (off : Word) : Int × Int :=
  let b : Int := m.base + off.toNat
  let lo := m.dims.foldl (fun (s : Int) (d : Nat × Int) => s + min 0 (((d.1 - 1 : Nat) : Int) * d.2)) b
  let hi := m.dims.foldl (fun (s : Int) (d : Nat × Int) => s + max 0 (((d.1 - 1 : Nat) : Int) * d.2)) b
  (lo, hi + m.unit - 1)
/-- Item 4 of R263 at the two ends of the bytes lo to hi. -/
def State.endsOk (s : State) (m : TMap) (lo hi : Int) : Bool :=
  if m.own then 0 ≤ lo && hi < localEnd
  else if lo < 0 ∨ 2 ^ 64 ≤ hi then false
  else
    let a : Word := w64 lo.toNat
    let b : Word := w64 hi.toNat
    inCoreSpace a = inCoreSpace b && !badForm a && !badForm b &&
      (!inCoreSpace a || (s.sees (coreOf a) && s.sees (coreOf b) && coreOffset a < localEnd && coreOffset b < localEnd))
/-- The bytes lo to hi lie outside core space, or in one core's local memory with their ends. -/
def TMap.oneCore (m : TMap) (lo hi : Int) : Bool :=
  m.own || !inCoreSpace (w64 lo.toNat) || coreOf (w64 lo.toNat) = coreOf (w64 hi.toNat)
/-- Every unit of a box in core space lies below OFFSET 0x1_8000 of one core. -/
def TMap.unitsInside (m : TMap) (off : Word) : Bool :=
  (List.range m.units).all fun n =>
    let a := m.unitAt off n
    coreOffset a + m.unit ≤ localEnd
/-- Item 4 of R263 for all the bytes lo to hi. -/
def State.boxOk (s : State) (m : TMap) (lo hi : Int) : Bool := s.endsOk m lo hi && m.oneCore lo hi
/-- Items 4 and 5 of R263: the box, whose units may lie in several cores (log 14), and the alignment of BASE + off and of every stride. -/
def State.mapOk (s : State) (m : TMap) (off : Word) : Bool :=
  let al := unitAlign m.fmt
  let (lo, hi) := m.box off
  s.endsOk m lo hi && (m.oneCore lo hi || m.unitsInside off) && (m.base + off.toNat) % al = 0 && m.dims.all fun d => d.2 % al = 0
/-- The status of `tmset` (R260). -/
def tmapStatus (ws : List Word) : Nat :=
  let w (i : Nat) : Word := ws.getD i 0
  let m := parseMap ws
  let rest := (m.ext.zip m.str).drop m.rank
  if fieldOf (w 1) 31 24 ≠ 0 ∨ fieldOf (w 1) 10 0 ≠ 0 ∨ fieldOf (w 3) 63 16 ≠ 0 ∨ fieldOf (w 6) 63 32 ≠ 0 ∨ w 7 ≠ 0 ∨
      (unitBytes m.fmt = 0 ∧ ¬(m.rank = 0 ∧ m.fmt = 0)) then 1
  else if 5 < m.rank ∨ m.dims.any (·.1 = 0) ∨ rest.any fun d => d.1 ≠ 0 ∨ d.2 ≠ 0 then 2
  else if (m.own ∧ localEnd ≤ m.base) ∨ (!m.own ∧ badForm (w 0)) then 3
  else 0

/-- An image at local offset `gA` (R262): its registers, its checks, then what is done at the offset. -/
def State.imageForm (s : State) (a : BitVec 4) (all : List (BitVec 4)) (align : Nat) (body : Nat → Out) : Out :=
  let v := s.readG a
  s.gateAddr [a] [] all v <|
    if s.me.acquiring then .wait s
    else match checkLocal v align 3 with
      | some (code, sub) => s.addrTrap code sub v
      | none => body v.toNat
/-- Words of local memory. -/
def Memory.wordsAt (m : Memory) (a n : Nat) : List Word := (List.range n).map fun i => w64 (m.load (a + 8 * i) 8)
/-- An image of n words that is read. -/
def State.readImage (s : State) (off n : Nat) (body : State → List Word → Out) : Out :=
  let t := s.scanLocal s.cur off (8 * n)
  t.onImage off (8 * n) (body t (t.me.mem.wordsAt off n))
/-- Words stored as a local image. -/
def State.storeImage (s : State) (off : Nat) (ws : List Word) : Out :=
  if s.me.fenced then .wait s else .next (s.storeLocal (ws.mapIdx fun i w => ⟨off + 8 * i, 8, w, false⟩))

/-- `tmset`. -/
def execTmset (a b : BitVec 4) (n : BitVec 3) (s : State) : Host.Outcome State Fault Refusal :=
  s.finish (s.imageForm a [a, b] 64 fun off => s.readImage off 8 fun t ws =>
    let st := tmapStatus ws
    .next ((if st = 0 then t.modMe fun k => { k with tmaps := mput k.tmaps n.toNat ws } else t).writeG b (w64 st)))
/-- `tmget`. -/
def execTmget (a : BitVec 4) (n : BitVec 3) (s : State) : Host.Outcome State Fault Refusal :=
  s.finish (s.imageForm a [a] 64 fun off => s.storeImage off (mapWords (s.me.tmap n.toNat)))

/-! ### The bytes an engine reads and writes -/

/-- The bytes from an address cut at 8-byte boundaries: addresses and sizes. -/
def pieces : Nat → Nat → Nat → List (Nat × Nat)
  | 0, _, _ => []
  | fuel + 1, a, n =>
    if n = 0 then [] else let k := min n (8 - a % 8); (a, k) :: pieces fuel (a + k) (n - k)
/-- Where a byte address of an engine's access lies, or why it stops (R263, R267). -/
def State.engineAt (s : State) (c : Nat) (own : Bool) (a : Nat) (write : Bool) : Chk :=
  let w := w64 a
  if own then .core c a
  else if badForm w then .fail 0x04 0
  else if inCoreSpace w then
    if !s.hasCore (coreOf w) || s.partOf c ≠ s.ctx.part.toNat then .fail 0x07 0
    else if localEnd ≤ coreOffset w then .fail 0x06 (bnat write) else .core (coreOf w) (coreOffset w)
  else match s.buffered c (pageOf w) with
    | some e =>
      if permitted write e then .phys (e.phys w) e
      else match s.walk (s.partOf c) (pageOf w) with
        | some x => if permitted write x then .phys (x.phys w) x else .fail 0x06 (bnat write)
        | none => .fault
    | none => match s.walk (s.partOf c) (pageOf w) with
      | some x => if permitted write x then .phys (x.phys w) x else .fail 0x06 (bnat write)
      | none => .fault
/-- A walk for a core: the slices of the anchors that it reads wake, and a chain of more than 64 links is recorded (R344, spec/22
R469). -/
def State.walked (s : State) (c page : Nat) : State :=
  let part := s.partOf c
  let t := s.wakeBlocks (([page, page / 32 * 32].filterMap fun v => s.anchorAt part v).map (· / 64))
  if s.walkTooLong part page then t.recordCore c 0x0B [w64 (page * 65536)] else t
/-- The buffers after an engine's access has been translated: a miss, and an entry without the permission, are walked (R343,
R345). -/
def State.engineFill (s : State) (c : Nat) (own : Bool) (a : Nat) (write : Bool) : State :=
  let w := w64 a
  if own || badForm w || inCoreSpace w || (s.buffered c (pageOf w)).any (permitted write) then s
  else
    let t := (s.walked c (pageOf w)).discardEntry c (pageOf w)
    match s.walk (s.partOf c) (pageOf w) with
    | some e => t.fillEntry c e
    | none => t
/-- The first stop among the bytes of an access: cause, subcode, address. -/
def State.engineStop (s : State) (c : Nat) (own : Bool) (a : Word) (n : Nat) (write : Bool) : Option (Nat × Nat × Word) :=
  ((pieces n a.toNat n).filterMap fun p => match s.engineAt c own p.1 write with
    | .fail code sub => some (code, sub, w64 p.1)
    | .fault => some (0x05, bnat write, w64 p.1)
    | _ => none).head?
/-- The home beyond core `c` that an engine's read goes to; none in its own memory. -/
def State.readHome (s : State) (c : Nat) (own : Bool) (a : Word) : Option Source :=
  match s.engineAt c own a.toNat false with
  | .core d _ => if d = c then none else some (.core d)
  | .phys pa _ => some (.slice (sliceOf pa))
  | _ => none
/-- What a read of n bytes costs: requests for up to 64 of them, and their replies (spec/17 R396). -/
def readCost (n : Nat) : Nat := (n + 63) / 64 + n / 64 * flitsFor 64 + if n % 64 = 0 then 0 else flitsFor (n % 64)
/-- The ports that a read crosses. -/
def State.readPorts (s : State) (c : Nat) (h : Source) : Option (List Nat) := s.route (s.dieOf c / 4) (s.packageOf h c)
/-- A read that is refused traffic (spec/17 R398, R405). -/
def State.readRefused (s : State) (c : Nat) (h : Source) : Bool :=
  (match h with
    | .core d => s.fenced d
    | _ => false) || (s.readPorts c h).all fun is => is.any s.linkDown
/-- The key of a partition's count at a port. -/
def linkKey (part i : Nat) : Nat := 65536 * part + i
/-- A read with its cost and number of requests that its source's quota and the ports on its way let go now (spec/17 R395, R396, R405): an engine waits before it. -/
def State.readGoes (s : State) (c : Nat) (own : Bool) (a : Word) (cost reqs : Nat) : Bool :=
  match s.readHome c own a with
  | none => true
  | some h =>
    let part := s.partOf c
    s.readRefused c h || (s.covers (.core c) part cost && (s.readPorts c h).all fun is => is.all fun i =>
      (mget {} s.ports i).state = 2 && (mget {} s.ports (s.farPort i)).state = 2 &&
        (s.linkq part = 0 || mget 0 s.linkUsed (linkKey part i) + 2 * reqs ≤ s.linkq part))
/-- A read of `n` bytes at an address is charged as it goes. -/
def State.chargeRead (s : State) (c : Nat) (own : Bool) (a : Word) (n : Nat) : State :=
  let part := s.partOf c
  match s.readHome c own a with
  | none => s
  | some h =>
    let ports := if s.linkq part = 0 then [] else (s.readPorts c h).getD []
    if s.readRefused c h then s
    else { s with
      quotas := s.afterCharge (.core c) part (readCost n),
      linkUsed := ports.foldl (fun m i => mset 0 m (linkKey part i) (mget 0 m (linkKey part i) + 2 * ((n + 63) / 64))) s.linkUsed }
/-- The bytes of an access as they stand at their homes, with the poison of their words; the arrays wake, and the read finds what stands
in them (spec/22 R462, R469). -/
def State.engineBytes (s : State) (c : Nat) (own : Bool) (a : Word) (n : Nat) : State × List (Byte × Bool) :=
  (pieces n a.toNat n).foldl (fun r p =>
    let t := r.1.engineFill c own p.1 false
    match t.engineAt c own p.1 false with
    | .core d off =>
      let t := (t.wakeCore d).scanLocal d off p.2
      let m := (t.core d).mem
      (t, r.2 ++ (m.image off p.2).map fun b => (b, m.poisoned off p.2))
    | .phys pa _ => let t := t.meetGlobal pa p.2; (t, r.2 ++ (t.mem.image pa p.2).map fun b => (b, t.mem.poisoned pa p.2))
    | _ => r) (s, [])
/-- The bytes that an engine's read of a unit brings: its request and the reply are one step (log 8). Those of one that is refused are
poisoned (spec/17 Table 17-5). -/
def State.engineRead (s : State) (c : Nat) (own : Bool) (a : Word) (n : Nat) : State × List (Byte × Bool) :=
  match s.readHome c own a with
  | none => s.engineBytes c own a n
  | some h =>
    if s.readRefused c h then
      ((s.engineFill c own a.toNat false).recordRefused (s.refuserOf (.core c) h) 0 (match h with
        | .core d => coreAddr d 0
        | _ => 0) (sourceWord (.core c)), List.replicate n (0, true))
    else s.engineBytes c own a n
/-- The buffers after the bytes of an access have been translated. -/
def State.engineFills (s : State) (c : Nat) (own : Bool) (a : Word) (n : Nat) (write : Bool := true) : State :=
  (pieces n a.toNat n).foldl (fun t p => t.engineFill c own p.1 write) s
/-- The writes that put bytes at an address, and their home: a core, or none for global memory. -/
def State.engineWrites (s : State) (c : Nat) (own : Bool) (a : Word) (bs : List (Byte × Bool)) : Option Nat × List Wr :=
  (pieces bs.length a.toNat bs.length).foldl (fun r p =>
    let part := (bs.drop (p.1 - a.toNat)).take p.2
    let w (x : Nat) : Wr := ⟨x, p.2, w64 (leNat (part.map (·.1))), part.any (·.2)⟩
    match s.engineAt c own p.1 true with
    | .core d off => (some d, r.2 ++ [w off])
    | .phys pa _ => (r.1, r.2 ++ [w pa])
    | _ => r) (none, [])

/-! ### Rings (R271-R274) -/

/-- The status of `rgset` (R272). -/
def RingDesc.status (old : RingDesc) (w0 w1 : Word) : Nat :=
  let r : RingDesc := { word0 := w0 }
  if r.base % 32 ≠ 0 ∨ r.slots = 0 ∨ 64 < r.slots ∨ r.tile < 512 ∨ 4096 < r.tile ∨ localEnd < r.base + r.slots * r.tile ∨
      r.slots < r.held then 1
  else if old.busy ≠ 0 then 2
  else if fieldOf w1 63 8 ≠ 0 then 3
  else 0
/-- `rgset`. -/
def execRgset (a b : BitVec 4) (n : BitVec 3) (s : State) : Host.Outcome State Fault Refusal :=
  s.finish (s.imageForm a [a, b] 16 fun off => s.readImage off 2 fun t ws =>
    let w0 := ws.getD 0 0
    let old := t.me.ring n.toNat
    let st := old.status w0 (ws.getD 1 0)
    .next ((if st = 0 then t.modMe (·.setRing n.toNat { old with word0 := w0, overrun := false, valid := true }) else t).writeG b (w64 st)))
/-- `rgget`. -/
def execRgget (a : BitVec 4) (n : BitVec 3) (s : State) : Host.Outcome State Fault Refusal :=
  s.finish (s.imageForm a [a] 16 fun off => s.storeImage off [(s.me.ring n.toNat).word0, (s.me.ring n.toNat).word1])
/-- `rgpush` and `rgpop`: the ring must be VALID. -/
def State.ringForm (s : State) (a b : BitVec 4) (n : BitVec 3) (body : RingDesc → Out) : Out :=
  s.gate [a] [a, b] <|
    let r := s.me.ring n.toNat
    if r.valid then body r else .trap ⟨0x06, 2, w64 n.toNat, s.allLanes⟩
/-- `rgpush` (R273). -/
def execRgpush (a b : BitVec 4) (n : BitVec 3) (s : State) : Host.Outcome State Fault Refusal :=
  s.finish (s.ringForm a b n fun r => s.whenPut <|
    match r.push (s.readG a).toNat with
    | some r' => .next ((s.modMe (·.setRing n.toNat r')).writeG b 1)
    | none => .next (s.writeG b 0))
/-- `rgpop` (R273). -/
def execRgpop (a b : BitVec 4) (n : BitVec 3) (s : State) : Host.Outcome State Fault Refusal :=
  s.finish (s.ringForm a b n fun r =>
    let c := (s.readG a).toNat
    if c ≤ r.held ∧ r.busy = 0 then .next ((s.modMe (·.setRing n.toNat (r.setHead (r.head + c)))).writeG b 1)
    else .next (s.writeG b 0))
/-- The acknowledgement of a store to a window. -/
def State.ackWindow (s : State) (ack : Option (Nat × List Nat)) : State :=
  match ack with
  | some (c, uids) => s.push (.storeAcknowledgement c uids)
  | none => s
/-- RING_WINDOW_PUSH: a store to w1 pushes, or sets OVERRUN (R274). -/
def execRingWindowPush (core ring : Nat) (count : Word) (ack : Option (Nat × List Nat)) (s : State) : Host.Outcome State Fault Refusal :=
  .next ((s.pushRing core ring count).ackWindow ack).wake

end Sys2Proof.Machine
end

