-- ==== Sys2Proof/Machine/Copy.lean ====
section
/-! DEFINITION. The copy engine (spec/11 R261-R270) with its checked copies (spec/18 R411-R421), opcodes 0xD0, 0xD1, 0xD8 and
0xDF. A unit is read and its write sent in one step; the next unit is read after that write has been acknowledged. -/
namespace Sys2Proof.Machine

/-! ### Queues -/

def Core.copyQ (k : Core) (q : Nat) : CopyQueue := mget {} k.copyQs q
def Core.setCopyQ (k : Core) (q : Nat) (c : CopyQueue) : Core := { k with copyQs := mset {} k.copyQs q c }
/-- The head entry of a queue changed. -/
def Core.modHead (k : Core) (q : Nat) (f : CopyEntry → CopyEntry) : Core :=
  let c := k.copyQ q
  k.setCopyQ q { c with entries := match c.entries with
    | [] => []
    | e :: es => f e :: es }
/-- The names of the entries in the queues of a mask: bits 0-3 copy queues, bit 4 the matrix queue (R261). -/
def Core.queued (k : Core) (mask : Nat) : List Nat :=
  ((List.range 4).flatMap fun q => if mask.testBit q then (k.copyQ q).entries.map (·.id) else []) ++
    (if mask.testBit 4 then k.matrixQ.entries.map (·.id) else [])
/-- Entries among these that have not completed. -/
def Core.unfinished (k : Core) (ids : List Nat) : Bool := ids.any fun i => (k.queued 31).contains i
/-- An engine command that is accepted: it waits for its queue, or traps in a message or change firing (R263), and waits
for release fences (spec/10 R252). -/
def State.accept (s : State) (full : Bool) (sub : Nat) (body : Out) : Out :=
  if full then (if s.gang.kind ≠ .carry then s.trapHere 0x09 sub else .wait s)
  else if s.me.fenced then .wait s else body
/-- The trap of a malformed engine command (R262). -/
def State.badCommand (s : State) (field : Nat) : Out := .trap ⟨0x0D, 0, w64 field, s.allLanes⟩
/-- An object that must be bound or VALID (R265). -/
def State.objectTrap (s : State) (n : Nat) : Out := .trap ⟨0x06, 2, w64 n, s.allLanes⟩
/-- The greatest PENDING of a barrier register (spec/10 R248). -/
def pendingTop : Nat := 2 ^ 28 - 1

/-! ### Validation (R263, spec/18 R420) -/

def TMap.bytes (m : TMap) : Nat := m.units * m.unit
/-- The trailer block of a CHECKED map passes the checks of a box. -/
def State.trailersOk (s : State) (m : TMap) (off : Word) (total : Nat) : Bool :=
  let b : Int := m.base + off.toNat
  !m.checked || (b % 16 = 0 && s.boxOk m (b - 16 * (total / 256 : Nat)) (b - 1))
/-- A copy between two maps. -/
def State.copyOk (s : State) (a b : TMap) (ao bo : Word) : Bool :=
  1 ≤ a.rank && a.rank ≤ 5 && 1 ≤ b.rank && b.rank ≤ 5 && a.units = b.units && a.unit = b.unit && a.unit ≠ 0 &&
    a.bytes ≤ pendingTop && s.mapOk a ao && s.mapOk b bo &&
    (!(a.checked || b.checked) ||
      ((!a.checked || a.fmt ≤ 0x0E) && (!b.checked || b.fmt ≤ 0x0E) && (!(a.checked && b.checked) || a.fmt = b.fmt) &&
        a.bytes % 256 = 0 && s.trailersOk a ao a.bytes && s.trailersOk b bo a.bytes))
/-- A copy into a stream. -/
def State.streamOk (s : State) (a : TMap) (ao : Word) : Bool :=
  1 ≤ a.rank && a.rank ≤ 5 && a.unit = 8 && a.bytes ≤ pendingTop && s.mapOk a ao && !a.checked

/-- An entry put into a queue. -/
def State.pushCopy (s : State) (q : Nat) (job : CopyJob) : State :=
  (s.modMe fun k => let c := k.copyQ q; k.setCopyQ q { c with entries := c.entries ++ [{ id := s.nextTag, job }] }).fresh
/-- `ccopy`: BIND 0 none, 1 barrier, 2 stream, 3 ring (R265). -/
def execCcopy (a b : BitVec 4) (x y : BitVec 3) (w : BitVec 1) (j : BitVec 3) (k : BitVec 2) (q : BitVec 2) (s : State) :
    Host.Outcome State Fault Refusal :=
  let ao := s.readG a
  let bo := s.readG b
  let src := s.me.tmap x.toNat
  let dst := if k = 2 then [] else s.me.tmap y.toNat
  let ma := parseMap src
  let mb := parseMap dst
  let ok := if k = 2 then s.streamOk ma ao else s.copyOk ma mb ao bo
  s.finish (s.gate [a, b] [a, b] <|
    if s.me.acquiring then .wait s
    else if !ok then s.badCommand 0xFF
    else if (k = 3 ∧ !(s.me.ring j.toNat).valid) ∨ (k = 1 ∧ (s.me.barrier j.toNat).scope = 0) then s.objectTrap j.toNat
    else s.accept (16 ≤ (s.me.copyQ q.toNat).entries.length) 2 <|
      let total := ma.bytes
      if k = 1 ∧ pendingTop < (s.me.barrier j.toNat).pending + total then .wait s
      else
        let t := if k = 1 then s.setPending s.cur j.toNat (· + total) else s
        .next (t.pushCopy q.toNat (.copy src dst ao bo k.toNat j.toNat (w = 1) total)))
/-- `cfence` (R268). -/
def execCfence (q : BitVec 2) (m : BitVec 5) (s : State) : Host.Outcome State Fault Refusal :=
  s.finish (if s.me.acquiring then .wait s
    else s.accept (16 ≤ (s.me.copyQ q.toNat).entries.length) 2 <|
      .next (s.pushCopy q.toNat (.fence (s.me.queued (m.toNat - if m.toNat.testBit q.toNat then 2 ^ q.toNat else 0)))))
/-- `cwait` (R269): the entries that stand in the named queues when it issues. -/
def execCwait (m : BitVec 5) (s : State) : Host.Outcome State Fault Refusal :=
  s.finish (match s.gang.phase with
    | .queues ids => if s.me.unfinished ids then .wait s.closing else .next s
    | _ => s.blocking <|
      let ids := s.me.queued m.toNat
      if s.me.acquiring then .wait s
      else if ids.isEmpty then .next s else .wait (s.modGang fun g => { g with phase := .queues ids }).closing)

/-! ### The engine (R264, R267) -/

def CopyEntry.total (e : CopyEntry) : Nat :=
  match e.job with
  | .copy _ _ _ _ _ _ _ n => n
  | .fence _ => 0
/-- Either map CHECKED: whole chunks move. -/
def CopyEntry.checked (e : CopyEntry) : Bool :=
  match e.job with
  | .copy a b _ _ _ _ _ _ => (parseMap a).checked || (parseMap b).checked
  | .fence _ => false
/-- The queue stops at its head (R267): a translation fault posts a notice, another cause traps at the core. -/
def State.stopCopy (s : State) (c q : Nat) (stop : Nat × Nat × Word) : State :=
  let (code, sub, a) := stop
  let t := s.modCore c fun k => (k.setCopyQ q { k.copyQ q with cause := code, addr := a }).modHead q fun e => { e with active := true }
  if code = 0x05 then
    let w0 := w64 (0x05 + 256 * sub + (if s.hasCore c then s.ctx.id.toNat * 65536 else 0) + s.partOf c * 2 ^ 32)
    t.push (.noticePost ⟨.core c, ⟨w0, a, w64 (2 ^ 63 + q * 2 ^ 20 + c), 0⟩, false⟩)
  else (t.modCore c fun k => { k with causes := k.causes ++ [⟨code, sub, a, 0⟩] })
/-- A unit or chunk is written: the bytes leave PENDING (R265, spec/18 R421). -/
def State.copyAdvance (s : State) (c q : Nat) : State :=
  match (s.core c).copyQ q |>.entries with
  | [] => s
  | e :: _ =>
    match e.job with
    | .copy a _ _ _ bind obj _ _ =>
      let n := if e.checked then 256 else (parseMap a).unit
      let t := s.modCore c (·.modHead q fun e => { e with done := e.done + n, out := false, chunk := none })
      (if bind = 1 then t.setPending c obj (· - n) else t).wake
    | .fence _ => s
/-- The write of a unit: at once in the core's own memory, else on its way to its home. -/
def State.engineSend (s : State) (c q : Nat) (home : Option Nat) (ws : List Wr) : State :=
  if home = some c then ((s.wakeCore c).modCore c fun k => (k.writes ws).modHead q fun e => { e with active := true }).copyAdvance c q
  else
    let r : Req := { src := .core c, tag := s.nextTag, uids := [], home, op := .store ws }
    let e : LoadEntry := { tag := s.nextTag, slot := 8, dest := .copy q, usc := false, uids := [], req := r, since := s.clock,
                           held := none, forward := none, orphan := false, late := false }
    let t := (s.modCore c fun k =>
      let k := k.modHead q fun e => { e with active := true, out := true }
      { k with loads := k.loads ++ [e] }).fresh
    (reqEvents r).foldl State.push t
/-- A poisoned word of a chunk's image, by number. -/
def badImage (bs : List (Byte × Bool)) : List Nat :=
  (List.range ((bs.length + 7) / 8)).filter fun i => ((bs.drop (8 * i)).take 8).any (·.2)
/-- The bytes of a chunk's units, in order. -/
def State.readChunk (s : State) (c : Nat) (m : TMap) (off : Word) (n0 k : Nat) : State × List (Byte × Bool) :=
  (List.range k).foldl (fun r i =>
    let a := m.unitAt off (n0 + i)
    let x := (r.1.chargeRead c m.own a m.unit).engineRead c m.own a m.unit
    (x.1, r.2 ++ x.2)) (s, [])
/-- The first stop among the units of a chunk and its trailer. -/
def State.chunkStop (s : State) (c : Nat) (m : TMap) (off : Word) (chunk : Nat) (write : Bool) : Option (Nat × Nat × Word) :=
  let k := 256 / m.unit
  let stops := ((List.range k).filterMap fun i => s.engineStop c m.own (m.unitAt off (chunk * k + i)) m.unit write) ++
    (if m.checked then (s.engineStop c m.own (m.trailerAt off chunk) 16 write).toList else [])
  stops.head?
/-- The buffers after the accesses of a chunk have been translated as far as the first that stops. -/
def State.chunkFills (s : State) (c : Nat) (m : TMap) (off : Word) (chunk : Nat) (write : Bool) : State :=
  let k := 256 / m.unit
  let t := (List.range k).foldl (fun t i => t.engineFills c m.own (m.unitAt off (chunk * k + i)) m.unit write) s
  if m.checked then t.engineFills c m.own (m.trailerAt off chunk) 16 write else t
/-- Where an address lies, as FROM and TO name it (Table 18-5). -/
def State.agentOf (s : State) (c : Nat) (own : Bool) (a : Word) : Word :=
  match s.engineAt c own a.toNat false with
  | .core d _ => agentCore d
  | .phys pa _ => agentSlice (sliceOf pa)
  | _ => 0
/-- The home of a chunk at its destination: that of its trailer, or of its first unit (R415). -/
def TMap.chunkAddr (m : TMap) (off : Word) (chunk : Nat) : Word :=
  if m.checked then m.trailerAt off chunk else m.unitAt off (chunk * (256 / m.unit))
/-- The words of a copy's record (R411, Table 18-5); of a port (HOP 3) the SOURCE is 2. -/
def copyRecord (ma mb : TMap) (bo : Word) (mode chunk hop : Nat) (from' to' : Word) (img : List Byte) (found : Word) :
    List Word :=
  [w64 ((if ma.checked then ma.id else mb.id) * 2 ^ 32 + chunk), recordWord (chunkStep img) false hop (mode = 2) (if hop = 3 then 2 else 0), from', to',
   w64 (imageAt img 0 4), found, mb.chunkAddr bo chunk]
/-- The next checked chunk that leaves core `c` for another home takes an armed transport flip with it (R428, spec/12 R306). -/
def State.flipOut (s : State) (c : Nat) (home : Chk) (img : List Byte) : List Byte × State :=
  if home.home = some c then (img, s)
  else match (s.core c).inject.find? (·.1 = 0) with
    | some e => (flipImage img (e.2.toNat % 2048), s.modCore c fun k => { k with inject := k.inject.filter (· ≠ e) })
    | none => (img, s)
/-- One chunk read, verified and sent (R421); `worn`: the entry carries poison. One with a poisoned word fails its check, and keeps the poison (spec/22 Table 22-6). -/
def State.sendChunk (s : State) (c q : Nat) (ma mb : TMap) (ao bo : Word) (chunk : Nat) (worn : Bool) : State :=
  match (s.chunkStop c ma ao chunk false).or (s.chunkStop c mb bo chunk true) with
  | some stop => ((s.chunkFills c ma ao chunk false).chunkFills c mb bo chunk true).stopCopy c q stop
  | none =>
    let k := 256 / ma.unit
    let (t, data) := s.readChunk c ma ao (chunk * k) k
    let (t, head) := if ma.checked then (t.chargeRead c ma.own (ma.trailerAt ao chunk) 16).engineRead c ma.own (ma.trailerAt ao chunk) 16
      else (t, (makeImage mb.fmt 0 false (data.map (·.1))).take 16 |>.map fun b => (b, false))
    let img := (head ++ data).map (·.1)
    let mode := t.ctx.check
    let src := t.agentOf c ma.own (ma.chunkAddr ao chunk)
    let bad := if worn then List.range 34 else badImage (head ++ data)
    let fails := mode ≠ 0 && ma.checked && !(residueOk img && bad.isEmpty)
    let home := t.engineAt c mb.own (mb.chunkAddr bo chunk).toNat true
    let (img', t) := t.flipOut c home img
    let r : Req := { src := .core c, tag := t.nextTag, uids := [], home := home.home, op := .store [] }
    let e : LoadEntry := { tag := t.nextTag, slot := 8, dest := .copy q, usc := false, uids := [], req := r, since := t.clock,
                           held := none, forward := none, orphan := false, late := false }
    let t := (t.modCore c fun k =>
      let k := k.modHead q fun e => { e with active := true, out := true, chunk := some ⟨img', bad, fails⟩ }
      { k with loads := k.loads ++ [e] }).fresh
    if home.home = some c && !fails then t.pushAs (some t.frame) (.checkedChunkVerify c q)
    else t.sendRecords (.core c) c (if fails then [copyRecord ma mb bo mode chunk 0 src src img (t.residueFound img !bad.isEmpty)] else []) [.checkedChunkVerify c q]
/-- COPY_UNIT: one unit, stream element or chunk of the head copy. -/
def State.copyStep (s : State) (c q : Nat) : State :=
  let k := s.core c
  match (k.copyQ q).entries with
  | [] => s
  | e :: _ =>
    match e.job with
    | .fence _ => s
    | .copy a b ao bo bind obj _ total =>
      let ma := parseMap a
      let mb := parseMap b
      if e.out ∨ total ≤ e.done ∨ (k.copyQ q).cause ≠ 0 then s
      else if e.checked then s.sendChunk c q ma mb ao bo (e.done / 256) e.bad
      else
        let n := e.done / ma.unit
        let from' := ma.unitAt ao n
        if bind = 2 then
          let x : Stream := mget {} k.streams obj
          if x.bound.any (· ≠ q) ∨ (16 ≤ x.elems.length ∧ !x.drop) then s
          else
            let s := s.modCore c fun k => { k with streams := mput k.streams obj { x with bound := some q } }
            match s.engineStop c ma.own from' 8 false with
            | some stop => (s.engineFills c ma.own from' 8 false).stopCopy c q stop
            | none =>
              let (t, bs) := (s.chargeRead c ma.own from' 8).engineRead c ma.own from' 8
              let d : Datum := ⟨w64 (leNat (bs.map (·.1))), bs.any (·.2) || e.bad⟩
              let y : Stream := { x with bound := some q, elems := if x.drop then x.elems else x.elems ++ [d] }
              let t := t.modCore c fun k => { k with streams := mput k.streams obj y }
              (t.modCore c (·.modHead q fun e => { e with active := true })).copyAdvance c q
        else
          let to' := mb.unitAt bo n
          match (s.engineStop c ma.own from' ma.unit false).or (s.engineStop c mb.own to' mb.unit true) with
          | some stop => ((s.engineFills c ma.own from' ma.unit false).engineFills c mb.own to' ma.unit).stopCopy c q stop
          | none =>
            let (t, bs) := ((s.engineFills c mb.own to' ma.unit).chargeRead c ma.own from' ma.unit).engineRead c ma.own from' ma.unit
            let (home, ws) := t.engineWrites c mb.own to' (bs.map fun b => (b.1, b.2 || e.bad))
            t.engineSend c q home ws
def execCopyUnit (core q : Nat) (s : State) : Host.Outcome State Fault Refusal := .next (s.copyStep core q)

/-- The bytes of an image with their poison. -/
def ChunkOut.bytes (x : ChunkOut) (img : List Byte) : List (Byte × Bool) := img.mapIdx fun i b => (b, x.bad.contains (i / 8))
/-- Writes made at their homes at once: the arrays wake, launch queue headers keep what is not CONTROL (spec/16 R366). -/
def State.performWrites (s : State) (w : Option Nat × List Wr) : State :=
  match w.1 with
  | some d => (s.wakeCore d).modCore d (·.writes w.2)
  | none => ((s.wakeBlocks (w.2.flatMap fun x => blocksAt x.addr x.size)).overBlocks w.2).writeGlobal w.2
/-- A chunk written at its destination: its units, and its trailer when the map is CHECKED. -/
def State.writeChunk (s : State) (c : Nat) (m : TMap) (off : Word) (chunk : Nat) (bs : List (Byte × Bool)) : State :=
  let k := 256 / m.unit
  let t := (List.range k).foldl (fun t i =>
    (t.engineFills c m.own (m.unitAt off (chunk * k + i)) m.unit).performWrites (t.engineWrites c m.own (m.unitAt off (chunk * k + i)) ((bs.drop (16 + i * m.unit)).take m.unit))) s
  if m.checked then
    let t := t.engineFills c m.own (m.trailerAt off chunk) 16
    t.performWrites (t.engineWrites c m.own (m.trailerAt off chunk) (bs.take 16))
  else t
/-- The package of a home. -/
def State.homePackage (s : State) (c : Nat) : Chk → Nat
  | .phys pa _ => sliceOf pa / 256
  | .core d _ => s.dieOf d / 4
  | _ => s.dieOf c / 4
/-- Who meets a failing chunk first at destination address `dest`, with the hop and its ends (Table 18-3): the receiving port of
the first link that it crosses (R403), else its home. -/
def State.verifier (s : State) (c : Nat) (own : Bool) (dest : Word) : Source × Nat × Word × Word :=
  let home := s.engineAt c own dest.toNat true
  match s.chunkLink c (s.homePackage c home) with
  | some l => (.port l.2, 3, agentPort l.1, agentPort l.2)
  | none => match home with
    | .phys pa _ => (.slice (sliceOf pa), 2, agentCore c, s.agentOf c own dest)
    | .core d _ => (.core d, 1, agentCore c, s.agentOf c own dest)
    | _ => (.core c, 1, agentCore c, s.agentOf c own dest)
/-- CHECKED_CHUNK_VERIFY (R413-R416): the home, or a port on the way, verifies the chunk before any byte of it is written; the
record is delivered before the acknowledgement. -/
def State.verifyChunk (s : State) (c q : Nat) : State :=
  match ((s.core c).copyQ q).entries with
  | [] => s
  | e :: _ =>
    match e.job, e.chunk, (s.core c).loads.find? (·.dest = .copy q) with
    | .copy a b ao bo _ _ _ _, some x, some l =>
      let ma := parseMap a
      let mb := parseMap b
      let chunk := e.done / 256
      match s.chunkStop c mb bo chunk true with
      | some stop =>
        ((s.chunkFills c mb bo chunk true).modCore c fun k =>
          let k := k.modHead q fun e => { e with out := false, chunk := none }
          { k with loads := k.loads.filter (·.tag ≠ l.tag) }).stopCopy c q stop
      | none =>
        let mode := s.ctx.check
        let fails := mode ≠ 0 && !(residueOk x.image && x.bad.isEmpty)
        let dest := mb.chunkAddr bo chunk
        let stored := s.agentOf c ma.own (ma.chunkAddr ao chunk)
        let v := if x.bad.isEmpty then s.verifier c mb.own dest else ((s.verifier c mb.own dest).1, 0, stored, stored)
        let t := if (fails || x.reported) && mode = 2 then s
          else s.writeChunk c mb bo chunk (x.bytes (if fails || x.reported then markSuspect x.image else x.image))
        t.sendRecords v.1 c (if fails && !x.reported then [copyRecord ma mb bo mode chunk v.2.1 v.2.2.1 v.2.2.2 x.image (s.residueFound x.image !x.bad.isEmpty)] else [])
          [.loadReply c l.tag [⟨1, false⟩]]
    | _, _, _ => s
def execCheckedChunkVerify (core q : Nat) (s : State) : Host.Outcome State Fault Refusal := .next (s.verifyChunk core q).wake
/-- Where the chunk that a queue has sent is bound. -/
def State.chunkHome (s : State) (c q : Nat) : Option Source :=
  match ((s.core c).copyQ q).entries with
  | e :: _ => (match e.job with
    | .copy _ b _ bo _ _ _ _ =>
      let mb := parseMap b
      match s.engineAt c mb.own (mb.chunkAddr bo (e.done / 256)).toNat true with
      | .core d _ => some (.core d)
      | .phys pa _ => some (.slice (sliceOf pa))
      | _ => none
    | .fence _ => none)
  | [] => none
/-- The verifier of the chunk that a queue has sent has room for a record (R426). -/
def State.verifierRoom (s : State) (c q : Nat) : Bool :=
  match ((s.core c).copyQ q).entries with
  | e :: _ => match e.job with
    | .copy _ b _ bo _ _ _ _ =>
      let mb := parseMap b
      s.recordRoom (s.verifier c mb.own (mb.chunkAddr bo (e.done / 256))).1 0 1
    | .fence _ => true
  | [] => true

/-- A head entry whose completion may be made: every write performed and room in its ring, or a fence's entries done. -/
def State.copyEnds (s : State) (c q : Nat) : Bool :=
  let k := s.core c
  match (k.copyQ q).entries with
  | [] => false
  | e :: _ => (k.copyQ q).cause = 0 && (match e.job with
    | .fence ids => !k.unfinished ids
    | .copy _ _ _ _ bind obj _ total => !e.out && total ≤ e.done && (bind ≠ 3 || ((k.ring obj).push 1).isSome))
/-- The read of a copy's next unit, or of its next chunk and its trailer, goes now. -/
def State.unitGoes (s : State) (c : Nat) (e : CopyEntry) : Bool :=
  match e.job with
  | .fence _ => true
  | .copy a _ ao _ _ _ _ _ =>
    let m := parseMap a
    let k := 256 / m.unit
    if e.checked then s.readGoes c m.own (m.unitAt ao (e.done / 256 * k)) (k * readCost m.unit + readCost 16) (k + 1)
    else s.readGoes c m.own (m.unitAt ao (e.done / m.unit)) (readCost m.unit) 1
/-- A head copy that can move on. -/
def State.copyMoves (s : State) (c q : Nat) : Bool :=
  let k := s.core c
  match (k.copyQ q).entries with
  | [] => false
  | e :: _ => (k.copyQ q).cause = 0 && !s.stalls (.core c) && (match e.job with
    | .fence _ => false
    | .copy _ _ _ _ bind obj _ total =>
      let x : Stream := mget {} k.streams obj
      !e.out && e.done < total && (!e.checked || s.recordRoom (.core c) 0 1) && s.unitGoes c e &&
        (bind ≠ 2 || (x.bound.all (· = q) && (x.elems.length < 16 || x.drop))))
/-- The head entry leaves its queue. -/
def Core.popCopy (k : Core) (q : Nat) : Core := let c := k.copyQ q; k.setCopyQ q { c with entries := c.entries.drop 1, cause := 0, addr := 0 }
/-- The binding of a stream to queue `q` ends. -/
def Core.unbindStream (k : Core) (q bind obj : Nat) : Core :=
  let x : Stream := mget {} k.streams obj
  if bind = 2 ∧ x.bound = some q then { k with streams := mput k.streams obj { x with bound := none, drop := false } } else k
/-- COPY_COMPLETION: the report that BIND selects (R265), or a fence passed. -/
def execCopyCompletion (core q : Nat) (s : State) : Host.Outcome State Fault Refusal :=
  let k := s.core core
  .next (if !s.copyEnds core q then s
    else match (k.copyQ q).entries with
      | [] => s
      | e :: _ => match e.job with
        | .fence _ => (s.setCore core (k.popCopy q)).wake
        | .copy _ _ _ _ bind obj arr _ =>
          let k' := (k.popCopy q).unbindStream q bind obj
          let k' := match if bind = 3 then (k.ring obj).push 1 else none with
            | some r => k'.setRing obj r
            | none => k'
          let t := s.setCore core k'
          (if bind = 1 ∧ arr then t.arriveBarrier core obj 1 none else t).wake)

/-! ### Status (R270) -/

/-- The word of Table 11-4. -/
def Core.copyStatus (k : Core) (q : Nat) : Word :=
  let c := k.copyQ q
  let (rest, active) := match c.entries with
    | [] => (0, false)
    | e :: _ => (e.total - e.done, e.active || (match e.job with
      | .fence _ => true
      | _ => false))
  w64 (c.cause * 2 ^ 56 + c.entries.length * 2 ^ 48 + 4 * rest + 2 * bnat (c.cause ≠ 0) + bnat active)
/-- `cstat`. -/
def execCstat (a : BitVec 4) (q : BitVec 2) (s : State) : Host.Outcome State Fault Refusal :=
  s.finish (s.gate [] [a] (.next (s.writeG a (s.me.copyStatus q.toNat))))
/-- The head of a stopped queue is discarded: its unwritten bytes leave PENDING. -/
def State.dropCopy (s : State) (q : Nat) : State :=
  let c := s.me.copyQ q
  match c.entries with
  | e :: _ =>
    if c.cause = 0 then s
    else match e.job with
      | .copy _ _ _ _ bind obj _ total =>
        let t := s.modMe fun k => (k.popCopy q).unbindStream q bind obj
        if bind = 1 then t.setPending t.cur obj (· - (total - e.done)) else t
      | .fence _ => s
  | [] => s
/-- `cstat.drop`. -/
def execCstatDrop (a : BitVec 4) (q : BitVec 2) (s : State) : Host.Outcome State Fault Refusal :=
  s.finish (s.gate [] [a] (let t := s.dropCopy q.toNat; .next (t.writeG a (t.me.copyStatus q.toNat))))
/-- CHUNK_RECORD_DROP (spec/18 R426): a record that found no grant is dropped into the event recorder; what waited for its
delivery goes on. -/
def execChunkRecordDrop (src : Source) (id : Nat) (s : State) : Host.Outcome State Fault Refusal :=
  .next (match (s.outsOf src).find? fun o => o.msg.id = id && o.fault && !o.granted && !o.sent with
    | none => s
    | some o =>
      let ws := match o.msg.body with
        | .data ws => ((ws.drop 1).take 2).map (·.val)
        | _ => []
      let t := ((s.dropOut src id).withdraw o.ask).recordVerifier src 0x0E ws
      ((o.after.foldl (State.pushAs · o.stamp) (t.setLost src o.verifier true))).wake)

end Sys2Proof.Machine
end

