-- ==== Sys2Proof/Machine/Replies.lean ====
section
/-! DEFINITION. The events of memory: requests performed at their homes, replies and acknowledgements, retries, walks,
fault frames, notices, and the ends of change firings (spec/04 R108, spec/10, spec/12 R312-R322, spec/14 R344, spec/20 R449). -/
namespace Sys2Proof.Machine

/-! ### At the homes -/

/-- The blocks of an operation of a machine: an append those of its queue's header and entry, a write of an anchor its own, an
arrangement its header and every entry (R349, R357). -/
def State.opBlocks (s : State) (src : Source) (op : MemOp) : List Nat :=
  match op with
  | .append q img =>
    let p := s.ctx.part.toNat
    let tail := ((s.readV p (s.queueBase q)).getD 0).toNat
    ([(s.queueBase q, 24), (s.queueEntry q tail, img.length), (s.queueEntry q tail + 0xF8, 8)].flatMap fun x =>
      ((s.resolve p x.1 true).map fun pa => blocksAt pa x.2).getD []).eraseDups
  | .anchor i _ => ((mfind s.sup.partitions (s.partFor src)).map fun p => [(p.anchors + 8 * i) / 64]).getD []
  | .arrange a _ _ => blocksAt a (64 + 32 * ((s.mem.caplog a 10).map (2 ^ ·)).getD 0)
  | op => blocksTouched op
/-- The slices that an operation goes to. -/
def State.opSlices (s : State) (src : Source) (op : MemOp) : List Nat := ((s.opBlocks src op).map fun b => sliceOf (64 * b)).eraseDups
/-- The standing errors that a request at the slices meets. -/
def State.scanReq (s : State) (r : Req) : State :=
  if s.upsets.isEmpty then s
  else match r.op with
    | .store ws => s.overBlocks ws
    | op => s.scanBlocks (s.opBlocks r.src op)
/-- The slices that a request reaches wake. -/
def State.rouseSlices (s : State) (r : Req) : State := s.wakeBlocks (s.opBlocks r.src r.op)
/-- A request at the slices: they wake, what stands in the words it reads is found, it is performed, and they count an access. -/
def State.atSlices (s : State) (r : Req) : State :=
  (((s.rouseSlices r).scanReq r).performSlice r).wake
/-- REMOTE_ACCESS: the local-memory unit of the home performs it (spec/14 R332). -/
def execRemoteAccess (r : Req) (s : State) : Host.Outcome State Fault Refusal :=
  .next (match r.home with
    | some c => let x := (s.wakeCore c).performCore c r.op; (x.1.answer r x.2).wake
    | none => s)
/-- SLICE_OPERATION: the slice performs it (spec/14 R336). -/
def execSliceOperation (r : Req) (s : State) : Host.Outcome State Fault Refusal := .next (s.atSlices r)
/-- TIMELINE_WRITE (spec/10 R254, R255). -/
def execTimelineWrite (r : Req) (s : State) : Host.Outcome State Fault Refusal := .next (s.atSlices r)
/-- CHAINED_PACKET (spec/10 R240): a second packet at a slice, or a put into a future, which waits while it is full. -/
def execChainedPacket (r : Req) (s : State) : Host.Outcome State Fault Refusal :=
  .next (match r.home with
    | none => s.atSlices r
    | some c =>
      match (s.wakeCore c).performCore c r.op with
      | (t, .reply (v :: _)) => if v.val = 0 then s.push (.chainedPacket r) else (t.answer r .ack).wake
      | (t, _) => (t.answer r .ack).wake)

/-! ### At the issuer -/

/-- The value that a part of a reply writes: its bytes, extended. -/
def LanePart.value (p : LanePart) (v : Datum) : Word :=
  if p.sx then sext64 (8 * p.size) v.val.toNat else w64 (v.val.toNat % 2 ^ (8 * p.size))
/-- A lane in which a part of a reply is written: the register and its pending mark, and `lt` with the part that latches
(R230); `lt` stops waiting with the last of the lane's registers. -/
def Lane.reply (l : Lane) (part : LanePart) (v : Datum) : Lane :=
  let reg := part.reg
  let l' := if 40 ≤ reg then l.setSidecar (reg - 40) (v.val.setWidth 16) v.poison else l.put reg (part.value v) v.poison
  let l' := if part.latch then l'.put ltNum (part.value v) v.poison else l'
  let p := bput l'.pend reg false
  { l' with pend := if p &&& 0xFFEFFFFFFFFF#48 = 0 then 0 else p, arrPend := if reg < 32 then bput l'.arrPend reg false else l'.arrPend }
/-- As `Lane.reply` for a register that travelled pending: only the register is written (spec/06 R139). -/
def Lane.forwarded (l : Lane) (reg : Nat) (v : Datum) : Lane :=
  let l' := l.put reg v.val v.poison
  let p := bput l'.pend reg false
  { l' with pend := if p &&& 0xFFEFFFFFFFFF#48 = 0 then 0 else p, arrPend := bput l'.arrPend reg false }

/-- Where a strand stands on a core. -/
inductive Stand where
  | message | gang (slot i : Nat) | frame (f i : Nat) | slot | gone
  deriving DecidableEq, Repr
/-- The strand that a carry message holds. -/
def bodyUid : Body → Option Nat
  | .carry m => if m.frame.isSome then none else some m.uid
  | _ => none
/-- Looks for a strand among the packed messages, the gangs, the frames in progress and the receive slots of a core. -/
def Core.standing (k : Core) (uid : Nat) : Stand :=
  if k.outbox.any fun o => bodyUid o.msg.body = some uid then .message
  else match k.gangs.find? fun e => e.2.lanes.any fun l => l.uid = uid && !l.packed with
    | some e => .gang e.1 (e.2.lanes.findIdx fun l => l.uid = uid)
    | none => match k.faults.find? fun f => f.lanes.any (·.uid = uid) with
      | some f => .frame f.frame (f.lanes.findIdx (·.uid = uid))
      | none => if k.arrivals.any fun a => bodyUid a.msg.body = some uid then .slot else .gone
/-- A carry message of a strand changed. -/
def fillBody (uid reg : Nat) (v : Datum) : Body → Body
  | .carry m => if m.uid = uid ∧ m.pend.getLsbD reg then .carry (carryFill m reg v) else .carry m
  | b => b
/-- One part of a reply written where its strand stands on core `c`, or forwarded, or discarded (spec/15 R359). `own`: the
load was issued on this core. -/
def State.writePart (s : State) (c : Nat) (part : LanePart) (own : Bool) (v : Datum) : State :=
  let k := s.core c
  let uid := part.uid
  let reg := part.reg
  let x : Datum := ⟨part.value v, v.poison⟩
  let put (l : Lane) : Lane := if own && !l.arrPend.getLsbD reg then l.reply part v else l.forwarded reg x
  let clear (t : State) : State :=
    { t with cores := t.cores.map fun (e : Nat × Core) => (e.1, { e.2 with forwards := e.2.forwards.filter (·.key ≠ uid * 64 + reg) }) }
  match k.standing uid with
  | .message => clear (s.setCore c { k with outbox := k.outbox.map fun (o : Outbound) => { o with msg := { o.msg with body := fillBody uid reg x o.msg.body } } })
  | .gang slot i => clear (s.setCore c (k.setAt slot ((k.at slot).mapLanes [i] fun _ l => put l)))
  | .frame f i =>
    clear (s.setCore c { k with faults := k.faults.map fun (y : FaultSave) =>
      if y.frame = f then { y with lanes := y.lanes.mapIdx fun j l => if j = i then put l else l } else y })
  | .slot => clear (s.setCore c { k with arrivals := k.arrivals.map fun (a : Arrival) => ⟨{ a.msg with body := fillBody uid reg x a.msg.body }⟩ })
  | .gone =>
    match k.forwards.find? (·.key = uid * 64 + reg) with
    | some f =>
      (s.setCore c { k with forwards := k.forwards.filter (·.key ≠ uid * 64 + reg) }).push (.forwardedReply f.dst uid reg x)
    | none => s
/-- The parts of a lane reply, one value each; those whose strand has left without them are discarded. -/
def State.writeParts (s : State) (c : Nat) : List LanePart → List Datum → State
  | p :: ps, v :: vs => (if p.gone then s else s.writePart c p true v).writeParts c ps vs
  | _, _ => s

/-- A gang register written by a reply: of a gang, of the trap bank, or of a gang saved to a frame. -/
def Core.replyG (k : Core) (slot reg : Nat) (bank : Bool) (v : Word) (p : Bool) : Core :=
  let put (g : Gang) : Gang :=
    { g with g := mset 0 g.g reg v, gPoison := bput g.gPoison reg p, gPend := bput g.gPend reg false }
  if reg = 0 then k
  else if bank then
    { k with trapBank := mset 0 k.trapBank reg v, bankPoison := bput k.bankPoison reg p, bankPend := bput k.bankPend reg false }
  else if 16 ≤ slot then
    { k with faults := k.faults.map fun (f : FaultSave) => if f.frame = slot - 16 then { f with gang := put f.gang } else f }
  else if k.gangs.any (·.1 = slot) then k.setAt slot (put (k.at slot))
  else k
/-- Lanes with one unacknowledged store less each (spec/06 R139). -/
def Core.lessStores (k : Core) (uids : List Nat) : Core :=
  let less (l : Lane) : Lane := if uids.contains l.uid then { l with unacked := l.unacked - 1 } else l
  { k with gangs := k.gangs.map fun (e : Nat × Gang) => (e.1, { e.2 with lanes := e.2.lanes.map less }),
           faults := k.faults.map fun (f : FaultSave) => { f with lanes := f.lanes.map less } }
/-- An entry of the outstanding-load table is freed; its count in USC falls. -/
def Core.freeLoad (k : Core) (e : LoadEntry) : Core :=
  let k' := { k with loads := k.loads.filter (·.tag ≠ e.tag) }
  if e.usc then { k'.lessStores e.uids with usc := k.usc - 1 } else k'
/-- A blocking form answered "no" (spec/10 R243). -/
def blockedAnswer (op : MemOp) (vals : List Datum) : Bool :=
  match op, vals with
  | .future _ .put _, v :: _ => v.val = 0
  | .future _ .take _, v :: _ => v.val = 0
  | _, _ => false
/-- The value of a reply: the last of its words; a blocking answer's first says whether it succeeded. -/
def valueOf (vals : List Datum) : Datum := vals.getLastD ⟨0, false⟩
def okOf (vals : List Datum) : Datum := vals.headD ⟨0, false⟩

/-- A reply written where its entry says. -/
def State.deliver (s : State) (c : Nat) (e : LoadEntry) (vals : List Datum) : State :=
  let k := s.core c
  match e.dest with
  | .gang slot reg size sx bank =>
    let v := match e.req.op with
      | .future _ .putnb _ => okOf vals
      | _ => valueOf vals
    let x : Word := if sx then sext64 (8 * size) v.val.toNat else w64 (v.val.toNat % 2 ^ (8 * size))
    s.setCore c ((k.replyG slot reg bank x v.poison).freeLoad e)
  | .gangs slot rd rb bank =>
    let v := valueOf vals
    let o := okOf vals
    s.setCore c (((k.replyG slot rd bank v.val v.poison).replyG slot rb bank o.val false).freeLoad e)
  | .lanes ps => (s.setCore c (k.freeLoad e)).writeParts c ps vals
  | .phase slot =>
    let v := valueOf vals
    let g := k.at slot
    let done (p : Phase) : Phase := if p = .asked e.tag then .answered e.tag v (decide ((okOf vals).val ≠ 0)) else p
    s.setCore c ((if k.gangs.any (·.1 = slot) then k.setAt slot { g with phase := done g.phase } else k).freeLoad e)
  | .future off =>
    let v := valueOf vals
    if mget false k.full (off / 8) then
      let k := if e.usc then { k.lessStores e.uids with usc := k.usc - 1 } else k
      s.setCore c { k with loads := k.loads.map fun (x : LoadEntry) => if x.tag = e.tag then { x with held := some v, usc := false, uids := [] } else x }
    else
      let k' := (k.future off .putnb v).1
      s.setCore c (k'.freeLoad e)
  | .copy q => (s.setCore c (k.freeLoad e)).copyAdvance c q
  | .update | .discard => s.setCore c (k.freeLoad e)
/-- LOAD_REPLY: a reply reaches its issuer (spec/04 R108). A request refused for a full queue, and a blocking form answered
"no", keep their entries for the repetition; the latter's count in USC falls until then. -/
def execLoadReply (core tag : Nat) (vals : List Datum) (s : State) : Host.Outcome State Fault Refusal :=
  .next (match (s.core core).loads.find? (·.tag = tag) with
    | none => s
    | some e =>
      let hold (k : Core) : Core :=
        { k with loads := k.loads.map fun (x : LoadEntry) => if x.tag = tag then { x with held := some ⟨0, false⟩, since := s.clock } else x }
      (if vals.isEmpty then s.modCore core hold
        else if blockedAnswer e.req.op vals then
          s.modCore core fun k => if e.usc then { (hold k).lessStores e.uids with usc := k.usc - 1 } else hold k
        else s.deliver core e vals).wake)
/-- FORWARDED_REPLY: a reply that follows a strand (spec/15 R359). -/
def execForwardedReply (core uid reg : Nat) (v : Datum) (s : State) : Host.Outcome State Fault Refusal :=
  .next (s.writePart core { uid, reg, size := 8, sx := false, latch := false } false v).wake
/-- FORWARDING_ENTRY_TIMEOUT: recorded once, and it still waits (spec/15 R359). -/
def execForwardingEntryTimeout (core tag : Nat) (s : State) : Host.Outcome State Fault Refusal :=
  let k := s.core core
  let note (t : State) (reg dst : Nat) : State := t.recordCore core 0x0A [w64 reg, w64 (s.rankOf dst)]
  .next (match k.loads.find? (fun e => e.tag = tag && !e.late), k.forwards.find? fun f => f.tag = tag && !f.own && !f.late with
    | some e, _ =>
      let reg := match e.dest with
        | .lanes ps => ((ps.find? fun p => !p.gone && k.forwards.any (·.key = p.uid * 64 + p.reg)).map (·.reg)).getD 0
        | _ => 0
      note (s.setCore core { k with loads := k.loads.map fun (x : LoadEntry) => if x.tag = tag then { x with late := true } else x })
        reg (e.forward.getD 0)
    | none, some f =>
      note (s.setCore core { k with forwards := k.forwards.map fun (x : Forward) => if x.tag = tag then { x with late := true } else x })
        (f.key % 64) f.dst
    | none, none => s)
/-- STORE_ACKNOWLEDGEMENT: USC and the lanes' counts fall (spec/04 R109). -/
def execStoreAcknowledgement (core : Nat) (uids : List Nat) (s : State) : Host.Outcome State Fault Refusal :=
  .next (s.modCore core fun k => if k.usc = 0 then k else { k.lessStores uids with usc := k.usc - 1 }).wake
/-- TIMELINE_RELEASE: the waiter's instruction is answered (spec/10 R255). -/
def execTimelineRelease (core tag : Nat) (s : State) : Host.Outcome State Fault Refusal := execLoadReply core tag [⟨1, false⟩] s
/-- QUIESCENCE_WATCH (spec/20 R453). -/
def execQuiescenceWatch (core tag : Nat) (v : Word) (s : State) : Host.Outcome State Fault Refusal := execLoadReply core tag [⟨v, false⟩] s

/-- A kept request sent again; it counts in USC again if the reply had lowered it. -/
def State.resend (s : State) (core tag : Nat) (count : Bool) : State :=
  match (s.core core).loads.find? fun e => e.tag = tag && e.held.isSome with
  | none => s
  | some e =>
    let add (k : Core) : Core :=
      let k' := { k with gangs := k.gangs.map fun (g : Nat × Gang) => (g.1, g.2.addStores e.uids) }
      { k' with usc := k.usc + 1 }
    let t := s.modCore core fun k =>
      let k' := if count && e.usc then add k else k
      { k' with loads := k'.loads.map fun (x : LoadEntry) => if x.tag = tag then { x with held := none } else x }
    { ({ t with cur := core } : State).dispatch e.usc e.req with cur := s.cur }
/-- FUTURE_RETRY (spec/10 R243). -/
def execFutureRetry (core tag : Nat) (s : State) : Host.Outcome State Fault Refusal := .next (s.resend core tag true)
/-- COUNTER_UPDATE_RETRY (spec/10 R246). -/
def execCounterUpdateRetry (core tag : Nat) (s : State) : Host.Outcome State Fault Refusal := .next (s.resend core tag false)
/-- CHANGE_PUT_RETRY (spec/20 R445). -/
def execChangePutRetry (core tag : Nat) (s : State) : Host.Outcome State Fault Refusal := .next (s.resend core tag false)

/-! ### Walks (spec/14 R343-R345) -/

/-- A walk's result as the gang that asked for it learns it: the page has been walked, or is not there. -/
def Gang.walkDone (g : Gang) (p : Nat) (found : Bool) : Gang :=
  if !g.walking.contains p then g
  else
    let less (ps : List Nat) : List Nat := ps.filter (· ≠ p)
    { g with walking := less g.walking, missed := if found then less g.missed else p :: less g.missed,
             walked := if found then p :: less g.walked else less g.walked }
/-- TRANSLATION_WALK: the result fills both buffers, and the gangs that asked for it learn it. -/
def execTranslationWalk (core : Nat) (va : Word) (s : State) : Host.Outcome State Fault Refusal :=
  let p := pageOf va
  let part := s.partOf core
  let mark (found : Bool) (k : Core) : Core := { k with gangs := k.gangs.map fun (e : Nat × Gang) => (e.1, e.2.walkDone p found) }
  let t := s.walked core p
  .next (match t.walk part p with
    | some e =>
      (t.fillEntry core e).modCore core (mark true)
    | none => t.modCore core (mark false)).wake
/-- INVALIDATION_ACK: a gang that awaits acknowledgements has one less to await (spec/12 R314). -/
def execInvalidationAck (_core tag : Nat) (s : State) : Host.Outcome State Fault Refusal :=
  .next (s.lessAcks tag).wake

/-! ### Fault frames and notices (spec/12 R311-R313, R322) -/

/-- The address of a core's frame. -/
def State.frameAt (s : State) (c f : Nat) : Nat := s.ctx.frameBase + s.rankOf c * 0x40000 + f * 0x4000
/-- The layout of a lane in Table 12-3, 0x180 bytes. -/
def Lane.image (l : Lane) : List Byte :=
  ((List.range 32).flatMap fun j => bytesOf (l.read j).toNat 8) ++ ((List.range 4).flatMap fun j => bytesOf (l.read (32 + j)).toNat 8) ++
    bytesOf (l.read ltNum).toNat 8 ++ ((List.range 8).flatMap fun q => bytesOf (l.sidecar q).toNat 2) ++
    bytesOf l.strand.toNat 3 ++ bytesOf (l.preds.toNat / 2) 1 ++ bytesOf l.draw.toNat 4 ++ bytesOf 0 0x40
/-- The offsets in that layout of the 8-byte words that carry poison. -/
def Lane.badWords (l : Lane) : List Nat :=
  ((List.range 37).filter fun j => l.poison.getLsbD j).map (· * 8) ++
    ((List.range 8).filter fun q => l.poison.getLsbD (40 + q)).map (fun q => 0x128 + 2 * q / 8 * 8) ++
    (if (List.range 8).any fun p => l.poison.getLsbD (48 + p) then [0x138] else [])
/-- The bytes of a frame (Table 12-3). -/
def FaultSave.image (f : FaultSave) (c : Nat) : List Byte :=
  bytesOf f.gang.q0.toNat 4 ++ bytesOf f.gang.q1.toNat 4 ++ bytesOf f.gang.q2.toNat 4 ++ bytesOf f.lanes.length 1 ++
    bytesOf (bnat f.gangFault) 1 ++ bytesOf f.gang.channel 1 ++ bytesOf 0 1 ++ bytesOf f.addr.toNat 8 ++ bytesOf c 4 ++ bytesOf 0 4 ++
    ((List.range 16).flatMap fun n => bytesOf (mget 0 f.gang.g n).toNat 8) ++ bytesOf 0 0x60 ++ f.lanes.flatMap Lane.image
/-- A frame's lanes have no store unacknowledged and no load pending (R312). -/
def FaultSave.quiet (f : FaultSave) : Bool :=
  f.gang.gPend = 0 && f.lanes.all fun l => l.unacked = 0 && l.pend = 0
/-- TRANSLATION_FAULT: the frame is written and the notice posted. -/
def execTranslationFault (core frame : Nat) (s : State) : Host.Outcome State Fault Refusal :=
  .next (match (s.core core).faults.find? fun f => f.frame = frame && !f.written with
    | none => s
    | some f =>
      let a := s.frameAt core frame
      let t := s.writeSeen s.ctx.part.toNat a (f.image core)
      let bad := ((List.range 16).filter fun n => f.gang.gPoison.getLsbD n).map (fun n => 0x20 + 8 * n) ++
        f.lanes.zipIdx.flatMap fun p => p.1.badWords.map fun o => 0x100 + 0x180 * p.2 + o
      let t := match t.resolve t.ctx.part.toNat a true with
        | some pa => { t with mem := bad.foldl (fun m o => m.setBad ((pa + o) / 8) true) t.mem }
        | none => t
      let t := t.modCore core fun k =>
        { k with faults := k.faults.map fun (x : FaultSave) => if x.frame = frame then { x with written := true } else x }
      let w0 := w64 (0x05 + 256 * bnat f.write + s.ctx.id.toNat * 65536 + s.ctx.part.toNat * 2 ^ 32)
      t.push (.noticePost ⟨.core core, ⟨w0, f.addr, w64 a, f.gang.q0.setWidth 64⟩, false⟩))
/-- FRAME_RELEASE: the frame is free (R313). -/
def execFrameRelease (core frame : Nat) (s : State) : Host.Outcome State Fault Refusal :=
  .next (s.modCore core fun k =>
    { k with frames := bput k.frames frame false, faults := k.faults.filter (·.frame ≠ frame) }).wake

/-- The partition whose queue takes a source's notices: of a system core its own. -/
def State.noticePart (s : State) (src : Source) : Nat :=
  match src with
  | .core c => s.partOf c
  | _ => s.ctx.part.toNat
/-- Room in a partition's notice queue: the queue's address and TAIL when there is. -/
def State.noticeRoom (s : State) (part : Nat) : Option (Nat × Nat) :=
  match (mfind s.sup.partitions part).map (·.noticeBase) with
  | none => none
  | some q =>
    match s.readV part q, s.readV part (q + 8) with
    | some t, some h => if (t - h).toNat < 1024 then some (q, t.toNat) else none
    | _, _ => none
/-- An entry written, then TAIL raised (R322); the partition's system cores leave `idle`. -/
def State.writeNotice (s : State) (part q tail : Nat) (n : Notice) : State :=
  let t := s.writeV part (q + 0x40 + 32 * (tail % 1024)) (bytesOf n.w0.toNat 8 ++ bytesOf n.w1.toNat 8 ++ bytesOf n.w2.toNat 8 ++ bytesOf n.w3.toNat 8)
  (t.writeSeen part q (bytesOf (tail + 1) 8)).rouse part
/-- The oldest notice that a source holds. -/
def State.oldestNotice (s : State) (src : Source) : Option HeldNotice := s.heldNotices.find? (·.src = src)
/-- A notice held by its source. -/
def State.holdNotice (s : State) (src : Source) (n : Notice) : State :=
  { s with heldNotices := s.heldNotices ++ [⟨src, s.noticePart src, n, s.clock⟩] }
/-- A held notice is written, when its queue has room. -/
def State.retryNotice (s : State) (h : HeldNotice) : State :=
  match s.noticeRoom h.part with
  | some (q, tail) => ({ s with heldNotices := s.heldNotices.erase h }).writeNotice h.part q tail h.notice
  | none => s
/-- NOTICE_POST: written when the queue has room and its source holds nothing older, else held by its source; a retry takes
the oldest held one. -/
def execNoticePost (p : Post) (s : State) : Host.Outcome State Fault Refusal :=
  .next (if p.again then
      match s.oldestNotice p.src with
      | some h => if h.notice = p.notice then s.retryNotice h else s
      | none => s
    else match s.noticeRoom (s.noticePart p.src) with
      | some (q, tail) => if (s.oldestNotice p.src).isSome then s.holdNotice p.src p.notice else s.writeNotice (s.noticePart p.src) q tail p.notice
      | none => s.holdNotice p.src p.notice)

/-! ### Ends of change firings (spec/20 R447, R449) -/

/-- CHANGE_FIRING_END: the decrement for the held record is sent, counted in USC, and the slot is free. -/
def execChangeFiringEnd (core slot : Nat) (s : State) : Host.Outcome State Fault Refusal :=
  let k := s.core core
  let g := k.at slot
  .next (match g.held with
    | some (desc, w) =>
      if !g.ending then s
      else
        let t := s.setCore core { k with gangs := mdel k.gangs slot }
        (match s.resolve s.ctx.part.toNat desc false with
          | some pa =>
            let t := t.modCore core fun k => { k with usc := k.usc + 1 }
            { ({ t with cur := core } : State).dispatch true
                { src := .core core, tag := 0, uids := [], home := none, op := .release pa w 1 } with cur := s.cur }
          | none => t).wake
    | none => s)
/-- CHANGE_RECORD_LOST: COUNT falls, LOST is set, the loss is recorded and posted (R447). -/
def execChangeRecordLost (desc : Nat) (wave : BitVec 32) (s : State) : Host.Outcome State Fault Refusal :=
  .next (match s.resolve s.ctx.part.toNat desc false with
    | some pa =>
      let t := { s with mem := (s.mem.recount pa wave (-1)).setLost pa wave }
      let n := sliceOf pa
      ((t.evalWatches).record (n / 256 * 4 + n % 256 / 64) 0x0F 3 (n % 256) [w64 desc, wave.setWidth 64]).push
        (.noticePost ⟨.slice n, ⟨w64 (0x4C + t.ctx.id.toNat * 65536), w64 desc, wave.setWidth 64, 0⟩, false⟩)
    | none => s).wake

end Sys2Proof.Machine
end

