-- ==== Sys2Proof/Machine/Scheduler.lean ====
section
/-! DEFINITION. From launch to issue (spec/16): the derrick, the selector and the forming of gangs (spec/06 R153-R166,
spec/12 R313, spec/20 R448), traps taken at a boundary (spec/12 R295-R298), timers, the watchdog, and annulled entries. -/
namespace Sys2Proof.Machine

/-! ### The selector and formation -/

/-- The effective priority of a channel (R372). -/
def Channel.effective (c : Channel) : Nat := min 7 (c.prio + c.age / 65536)
/-- Free gang slots, ascending. -/
def Core.freeSlots (k : Core) : List Nat := (List.range 4).filter fun i => !k.gangs.any (·.1 = i)
/-- Eligibility of a channel (R372). -/
def Core.eligible (k : Core) (ch : Nat) : Bool :=
  k.isReady ch && !k.resident ch && !k.freeSlots.isEmpty && k.priv = 0 && !k.stopped && !k.preempting
/-- The channel the selector chooses: the highest effective priority, then the lowest number above the last fired. -/
def Core.selected (k : Core) : Option Nat :=
  leastBy (fun ch => (7 - (k.channel ch).effective) * 64 + (ch + 63 - k.lastFired) % 64)
    ((k.channels.map (·.1)).filter k.eligible)

/-- A gang formed in the lowest free slot: the channel has fired, its age is 0, the pool has given its lanes. -/
def State.form (s : State) (c ch : Nat) (kind : Firing) (g : Gang) (taken : List Msg) : State :=
  let k := s.core c
  let h := k.channel ch
  let slot := k.freeSlots.headD 0
  let k' := ((k.dropArrivals taken).setChannel ch { h with age := 0 }).bump 0x0102
  let k' := { k' with lastFired := ch, pair := { k'.pair with closing := k'.pair.on } }
  let t := s.setCore c (k'.setAt slot { g with channel := ch, kind, prio := h.effective, grant := g.lanes.length })
  ((t.modCluster (t.clusterOf c) fun u => { u with sharedTaken := u.sharedTaken + (g.lanes.length - 1) }).regrant c ch).wake

/-- Strands in ascending number (R154). -/
def insertLane (l : Lane) : List Lane → List Lane
  | [] => [l]
  | m :: ms => if l.strand.toNat < m.strand.toNat then l :: m :: ms else m :: insertLane l ms
def sortLanes : List Lane → List Lane
  | [] => []
  | l :: ls => insertLane l (sortLanes ls)
/-- A carry firing from the waiting arrivals of one code address (R153). -/
def State.formCarry (s : State) (c ch : Nat) (code : BitVec 32) : State :=
  let k := s.core c
  let n := min (k.channel ch).claim (1 + s.sharedFree c)
  let ms := (k.arrivalsAt ch).filterMap fun a => match a.msg.body with
    | .carry m => if m.code = code ∧ m.frame = none then some (a.msg, carryLane m) else none
    | _ => none
  let ms := ms.take n
  s.form c ch .carry (({ lanes := sortLanes (ms.map (·.2)) } : Gang).startAt k code) (ms.map (·.1))

/-- A lane as a frame's bytes hold it (Table 12-3). -/
def State.frameLane (s : State) (pa uid : Nat) : Lane :=
  let w (i : Nat) : Word := w64 (s.mem.load (pa + 8 * i) 8)
  let bad (o : Nat) : Bool := s.mem.poisoned (pa + o) 1
  { regs := ((List.range 37).map fun j => (j, w j)).filter (·.2 ≠ 0),
    side := ((List.range 8).map fun q => (q, BitVec.ofNat 16 (s.mem.load (pa + 0x128 + 2 * q) 2))).filter (·.2 ≠ 0x7F7F),
    preds := BitVec.ofNat 8 (2 * (s.mem.load (pa + 0x13B) 1 % 128) + 1), strand := BitVec.ofNat 24 (s.mem.load (pa + 0x138) 3),
    draw := BitVec.ofNat 32 (s.mem.load (pa + 0x13C) 4), uid,
    poison := (List.range 56).foldl (fun m j =>
      bput m j (if j < 37 then bad (8 * j) else if 40 ≤ j ∧ j < 48 then bad (0x128 + 2 * (j - 40)) else 48 < j && bad 0x138)) 0 }
/-- The lanes of a frame. -/
def State.frameLanes (s : State) (a : Nat) : Nat := ((s.resolve s.ctx.part.toNat a false).map fun pa => s.mem.load (pa + 0xC) 1).getD 0
/-- A frame return forms a gang of exactly the frame's lanes and releases the frame (spec/12 R313). A transfer elsewhere that was
under way when a gang fault in one of its slots saved the gang is dropped: Table 12-3 has no place for it (DESIGN CHOICE, log 59). -/
def State.formFrame (s : State) (c ch a : Nat) (msg : Msg) : State :=
  match s.resolve s.ctx.part.toNat a false with
  | none => s
  | some pa =>
    let n := s.mem.load (pa + 0xC) 1
    let lanes := (List.range n).map fun j => s.frameLane (pa + 0x100 + 0x180 * j) (s.nextTag + j)
    let q (o : Nat) : BitVec 32 := BitVec.ofNat 32 (s.mem.load (pa + o) 4)
    let saver := s.mem.load (pa + 0x18) 4 % 2 ^ 20
    let f := (a - s.ctx.frameBase) / 0x4000 % 16
    let g : Gang := { lanes, held := s.frameHold a, q0 := q 0, q1 := q 4, q2 := q 8,
                      g := ((List.range 16).map fun i => (i, w64 (s.mem.load (pa + 0x20 + 8 * i) 8))).filter (·.2 ≠ 0),
                      gPoison := (List.range 16).foldl (fun m i => bput m i (s.mem.poisoned (pa + 0x20 + 8 * i) 8)) 0 }
    let t := { s.dropFrameHold a with nextTag := s.nextTag + n }
    (t.form c ch .carry g [msg]).pushFrom (.core c) (.frameRelease saver f)

/-- A codelet's code address is that of a routine placed on the core and passes the checks of R136 (R166). -/
def State.codeletOk (s : State) (c : Nat) (w : Word) : Bool :=
  let r := fieldOf w 31 16
  fieldOf w 63 32 = 0 && r ≠ 0 && r ≠ trapRoutine && (s.core c).placed.any (·.id = r) &&
    (match s.entry c r with
      | some (e, _) => checkTarget (w.setWidth 32) e = none
      | none => false)
/-- The core's directory cache after those checks. -/
def State.readCodelet (s : State) (c : Nat) (w : Word) : State := ((s.entry c (fieldOf w 31 16)).map (·.2)).getD s
/-- A message firing; on a ready channel it takes the next message (R165, R166). TRAP_INFO of a codelet's address-form trap holds the code
address word (DESIGN CHOICE, log 67). -/
def State.formMessage (s : State) (c ch : Nat) : State :=
  let k := s.core c
  let h := k.channel ch
  let lane : Lane := { uid := s.nextTag }
  let t := s.fresh
  if !h.start then t.form c ch .message (({ lanes := [lane] } : Gang).startAt k (codeAddr h.routine h.offset)) []
  else match k.arrivalsAt ch with
    | [] => s
    | a :: _ =>
      let ws : List Datum := match a.msg.body with
        | .data ws => ws
        | _ => []
      let code := (ws.getD 1 ⟨0, false⟩)
      let arg := ws.getD 2 ⟨0, false⟩
      let g : Gang := ({ lanes := [lane], g := mset 0 [] 1 arg.val, gPoison := bput 0 1 arg.poison } : Gang).startAt k (code.val.setWidth 32)
      let t := (t.form c ch .message g [a.msg]).readCodelet c code.val
      let here : State := ({ t with cur := c } : State).modMe fun k' => { k' with slot := k.freeSlots.headD 0 }
      if ws.length = 3 ∧ code.poison then here.takeTrap ⟨0x0E, 1, (code.val.setWidth 32).setWidth 64, 1⟩
      else if ws.length = 3 ∧ s.codeletOk c code.val then t
      else
        here.enterTrap (some (k.freeSlots.headD 0)) ⟨0x04, 1, (code.val.setWidth 32).setWidth 64, 1⟩
/-- A change firing takes the oldest waiting record (spec/20 R448). -/
def State.formChange (s : State) (c ch : Nat) : State :=
  let k := s.core c
  let h := k.channel ch
  match (k.arrivalsAt ch).filterMap fun a => match a.msg.body with
    | .change d r => some (a.msg, d, r)
    | _ => none with
  | [] => s
  | (m, d, r) :: _ =>
    let g : Gang := { lanes := [{ uid := s.nextTag }], held := some (d, r.wave),
                      g := [(1, r.key), (2, r.valLo), (3, r.valHi), (4, r.mult.signExtend 64), (5, r.wave.setWidth 64), (6, w64 d)].filter (·.2 ≠ 0) }
    s.fresh.form c ch .change (g.startAt k (codeAddr h.routine h.offset)) [m]
/-- Whether the pool has the lanes that a frame return needs, and its frame can be read. -/
def State.frameFits (s : State) (c ch : Nat) : Bool :=
  match (((s.core c).arrivalsAt ch).filterMap fun a => match a.msg.body with
    | .carry m => some m
    | _ => none).head? with
  | some m => match m.frame with
    | some f => (s.resolve s.ctx.part.toNat f false).isSome && s.frameLanes f ≤ 1 + s.sharedFree c
    | none => true
  | none => true
/-- The arrivals of a channel hold what a firing of its KIND takes. -/
def Core.hasKind (k : Core) (ch : Nat) : Bool :=
  match (k.channel ch).kind with
  | 0 => (k.arrivalsAt ch).any fun a => match a.msg.body with
    | .carry _ => true
    | _ => false
  | 1 => !(k.channel ch).start || !(k.arrivalsAt ch).isEmpty
  | _ => (k.arrivalsAt ch).any fun a => match a.msg.body with
    | .change _ _ => true
    | _ => false
/-- The channel that fires on a core at this boundary: at once, so that R46 holds (DEDUCED, log 63). -/
def State.fires (s : State) (c : Nat) : Option Nat := (s.core c).selected.filter fun ch => s.frameFits c ch && (s.core c).hasKind ch
/-- FIRING: the selector's channel forms a gang. -/
def execFiring (core ch : Nat) (s : State) : Host.Outcome State Fault Refusal :=
  let k := s.core core
  .next (if !k.eligible ch then s
    else match (k.channel ch).kind with
      | 0 =>
        match (k.arrivalsAt ch).filterMap fun a => match a.msg.body with
          | .carry m => some (a.msg, m)
          | _ => none with
        | [] => s
        | (msg, m) :: _ => match m.frame with
          | some f => if s.frameFits core ch then s.formFrame core ch f msg else s
          | none => s.formCarry core ch m.code
      | 1 => s.formMessage core ch
      | _ => s.formChange core ch)

/-! ### The choice of a gang (R373) and of a trap (spec/12 R298) -/

/-- The resident gangs that could issue; `pass` passes over those that wait. -/
def Core.runnable (k : Core) (pass : Bool) : List Nat :=
  match k.owner with
  | .gang i => if pass && (k.at i).waiting then [] else [i]
  | .system => if pass && (k.at 4).waiting then [] else [4]
  | .none =>
    (k.gangs.filter fun e => e.1 < 4 && !e.2.halted && !e.2.ending && !(pass && e.2.waiting)).map (·.1)
/-- The gang of some slots that comes first: by priority, `yield`, and the slot issued from last. -/
def Core.firstGang (k : Core) (is : List Nat) : Option Nat :=
  leastBy (fun i => (7 - (k.at i).prio) * 16 + 8 * bnat (k.at i).yielded + (i + 3 - k.lastSlot) % 4) is
/-- The gang the core issues from. -/
def Core.nextGang (k : Core) (pass : Bool) : Option Nat := k.firstGang (k.runnable pass)

/-- A gang at a boundary where a pre-emption may find it: no annulled entry in Q0 (spec/04 R116), no lane packed (spec/06
R136). -/
def Gang.givesWay (g : Gang) : Bool := !g.ann0 && !g.ending && !(g.lanes.any (·.packed))
/-- As `givesWay`, where a trap or a halt may be taken: not before a transfer elsewhere whose slots are over has been
performed (R508, spec/23 R483). -/
def Gang.interruptible (g : Gang) : Bool := g.givesWay && g.xfer.all (·.left ≠ 0)
/-- The wait of this request is one that can be broken off: it is held for its repetition, or a watch stands for it. -/
def State.heldOff (s : State) (c t : Nat) : Bool :=
  ((s.core c).loads.any fun e => e.tag = t && e.held.isSome) || s.watches.any fun w => w.core = c && w.tag = t
/-- The instruction in a gang's Q0 has begun what cannot be begun again: a request of it is under way or answered, messages that it
has made are not sent yet, records or acknowledgements are awaited. It completes; every other wait is a boundary (spec/03 R95;
DEDUCED, log 35). -/
def State.underWay (s : State) (c slot : Nat) : Bool :=
  match ((s.core c).at slot).phase with
  | .none | .queues _ => false
  | .asked t => !s.heldOff c t
  | _ => true
/-- As `underWay`, for a pre-emption: it does not await `spawn`'s messages, which are packed like lanes and saved (spec/12 R316). -/
def State.midway (s : State) (c slot : Nat) : Bool :=
  s.underWay c slot && (match ((s.core c).at slot).phase with
    | .spawned _ => false
    | _ => true)
/-- A wait that is broken off: its watch is withdrawn, its repetition abandoned (spec/10 R243, R255), and the instruction is executed
again from its beginning (spec/03 R95). -/
def State.abandon (s : State) (c slot : Nat) : State :=
  let drop (k : Core) : Core := k.setAt slot { k.at slot with phase := .none }
  match ((s.core c).at slot).phase with
  | .asked t =>
    if s.heldOff c t then
      let u := s.modCore c fun k => drop { k with loads := k.loads.filter (·.tag ≠ t) }
      { u with watches := u.watches.filter fun w => !(w.core = c && w.tag = t) }
    else s
  | .queues _ => s.modCore c drop
  | _ => s
/-- The trap that a core takes at this boundary: its slot, none for the system slot. -/
def State.pendingTrap (s : State) (c : Nat) : Option (Option Nat × Cause) :=
  let k := s.core c
  if k.priv ≠ 0 ∨ k.stopped then none
  else
    let fit (i : Nat) : Bool := (k.at i).interruptible && !(k.at i).halted && !s.underWay c i
    match k.gangs.find? fun e => e.1 < 4 && !e.2.causes.isEmpty && fit e.1 with
    | some e => e.2.causes.head?.map fun x => (some e.1, { x with lanes := if x.code < 0x0F || x.code = 0x10 then x.lanes else e.2.mask })
    | none =>
      let timer : Option (Option Nat × Cause) :=
        if !k.timerPending then none
        else match k.nextGang false with
          | some i => if fit i then some (some i, ⟨0x12, 0, 0, (k.at i).mask⟩) else none
          | none => if k.gangs.any (·.1 < 4) then none else some (none, ⟨0x12, 0, 0, 0⟩)
      (k.causes.head?.map fun x => (none, x)).or timer
/-- TRAP_ENTRY: the pending trap is taken at the boundary. -/
def execTrapEntry (core : Nat) (s : State) : Host.Outcome State Fault Refusal :=
  .next (match s.pendingTrap core with
    | none => s
    | some (slot, c) =>
      let t := { s with cur := core }
      let timer := c.code = 0x12
      let drop (t : State) : State := t.modMe fun k => if timer then { k with timerPending := false } else k
      match slot with
      | some i =>
        let t := t.abandon core i
        let t := t.modMe fun k => { k with slot := i }
        let t := if timer then t else t.modMe fun k => k.modGang fun g => { g with causes := g.causes.drop 1 }
        (drop t).takeTrap c
      | none =>
        let t := if timer then t else t.modMe fun k => { k with causes := k.causes.drop 1 }
        if c.code = 0x13 then ((drop t).modMe fun k => { k with answer := none }).levelTwo 3 c else (drop t).enterTrap none c)

/-! ### Timers, idle, watchdog, annulled entries -/

/-- TIMER after the decrement of this cycle: the first falls in the cycle after the write (spec/01 R36). -/
def State.timerOf (s : State) (c : Nat) : Nat := (s.core c).timer.toNat - (s.clock - (s.core c).timerAt)
/-- TIMER as `sget` reads it: the value from before this cycle's decrement (spec/01 R35). -/
def State.timerRead (s : State) (c : Nat) : Nat := (s.core c).timer.toNat - (s.clock - (s.core c).timerAt - 1)
/-- TIMER_EXPIRY: the trap becomes pending. -/
def execTimerExpiry (core : Nat) (s : State) : Host.Outcome State Fault Refusal :=
  .next (s.modCore core fun k => { k with timer := 0, timerAt := s.clock, timerPending := true, idle := none }).wake
/-- IDLE_EXPIRY: the core issues again (spec/12 R307). -/
def execIdleExpiry (core : Nat) (s : State) : Host.Outcome State Fault Refusal :=
  .next (s.modCore core fun k => { k with idle := none })
/-- WATCHDOG_EXPIRY (R378): a notice, a record, and the die's recorder frozen. -/
def execWatchdogExpiry (core : Nat) (s : State) : Host.Outcome State Fault Refusal :=
  let k := s.core core
  .next ((((s.setCore core { k with barked := true }).recordCore core 0x09 [w64 core, w64 k.stall]).freeze (s.dieOf core) 2).push
    (.noticePost ⟨.core core, ⟨w64 (0x57 + s.ctx.id.toNat * 65536 + core * 2 ^ 32), 0, 0, 0⟩, false⟩))
/-- DELAY_SLOT_ANNUL: an annulled entry passes and performs nothing (spec/04 R115). -/
def execDelaySlotAnnul (s : State) : Host.Outcome State Fault Refusal :=
  .next (s.modMe fun k => { k.modGang (fun g =>
    { g.retire (k.succ g.q2) (k.priv = 1) with skipBreak := g.skipBreak }) with lastSlot := k.slot })

/-! ### The derrick (R369-R371) -/

/-- A queue's accepted control value; PRIO q where none has been accepted. -/
def State.control (s : State) (q : Nat) : BitVec 8 := mget (BitVec.ofNat 8 q) s.ctx.controls q
def State.queuePrio (s : State) (q : Nat) : Nat := (s.control q).toNat % 16
def State.queueWord (s : State) (q off : Nat) : Nat := ((s.readV s.ctx.part.toNat (s.queueBase q + off)).map (·.toNat)).getD 0
/-- The record at a queue's head: its image, if its SEQ is present. -/
def State.headRecord (s : State) (q : Nat) : Option (List Byte) :=
  let h := s.queueWord q 8
  if s.queueWord q 0 = h then none
  else match s.resolve s.ctx.part.toNat (s.queueEntry q h) false with
    | some pa => if s.mem.load (pa + 0xF8) 8 = h + 1 then some (s.mem.image pa 0xF8) else none
    | none => none
/-- A head whose WAIT is absent, released once, or released now. -/
def State.headReleased (s : State) (q : Nat) (b : List Byte) : Bool :=
  imageAt b 3 1 % 2 = 0 || s.ctx.released.contains q ||
    (match s.readV s.ctx.part.toNat (imageAt b 0x10 8) with
      | some v => released v (w64 (imageAt b 0x18 8))
      | none => false)
/-- Whether a head's record is invalid, by its own entry. -/
def State.headInvalid (s : State) (b : List Byte) : Bool :=
  let r := imageAt b 0 2
  if r = 0 ∨ r = trapRoutine then true
  else match s.readDir r with
    | some e => !launchValid b e
    | none => false
/-- The runnable head of a queue (R369): invalid ones are discarded by the same selection. -/
def State.runnableHead (s : State) (q : Nat) : Bool :=
  !(s.control q).getLsbD 5 && (match s.headRecord q with
    | none => false
    | some b =>
      s.headInvalid b ||
        (s.headReleased q b && s.ctx.launches.length < 256 &&
          (s.ctx.headLeft.all fun e => e.1 ≠ q || e.2.1 < imageAt b 4 4) && s.ctx.derrickOut.length < 64 && s.ctx.strandsLive.length < 2 ^ 24 - 1 &&
          (s.readDir (imageAt b 0 2)).isSome))
/-- The queue of the next selection. -/
def State.derrickQueue (s : State) : Option Nat :=
  if !s.ctx.started || s.ctx.derrickHalt || s.ctx.saved || s.ctx.ended then none
  else leastBy (fun q => (15 - s.queuePrio q) * 16 + (q + 15 - s.ctx.queueLast) % 16) ((List.range 16).filter s.runnableHead)
/-- HEAD rises. -/
def State.raiseHead (s : State) (q : Nat) : State :=
  let t := s.writeSeen s.ctx.part.toNat (s.queueBase q + 8) (bytesOf (s.queueWord q 8 + 1) 8)
  { t with ctx := { t.ctx with released := t.ctx.released.filter (· ≠ q), headLeft := t.ctx.headLeft.filter (·.1 ≠ q) } }
/-- The carry message of strand i of a record (R367). -/
def launchStrand (b : List Byte) (e : DirEntry) (i strand uid : Nat) : CarryMsg :=
  let carry := BitVec.ofNat 32 (imageAt b 8 4)
  let js := (List.range 32).filter fun j => carry.getLsbD j
  let vals := js.mapIdx fun n j => (j, w64 (imageAt b (0x38 + 8 * n) 8))
  let regs := vals.foldl (fun m p => mset 0 m p.1 p.2) []
  let regs := if imageAt b 3 1 / 8 % 2 = 1 then mset 0 regs (imageAt b 0xC 1) (w64 i) else regs
  { code := codeAddr e.id 0, strand := BitVec.ofNat 24 strand, preds := 1, draw := 0, pend := 0, side := [], regs, poison := 0,
    uid, frame := none }
/-- Up to `n` strands distributed, from index i of COUNT; the index reached (R370). -/
def State.distribute (s : State) (b : List Byte) (e : DirEntry) (launch count : Nat) : Nat → Nat → State × Nat
  | 0, i => (s, i)
  | n + 1, i =>
    if count ≤ i ∨ 64 ≤ s.ctx.derrickOut.length then (s, i)
    else match s.drawStrand launch with
      | none => (s, i)
      | some (num, t) =>
        let cs := t.choices e (imageAt b 3 1 / 4 % 2 = 1)
        let d := t.rotateFrom (mget 0 t.ctx.derrickRotate e.id) cs
        let o : Outbound :=
          { msg := { src := .derrick, id := t.nextTag, dst := d, ch := e.channel, slots := carrySlots e.count,
                     body := .carry (launchStrand b e i num t.nextTag) },
            kind := .carry, slot := 4, laneUid := 0, since := t.clock, asked := false, granted := false, refused := false }
        let x := { t.ctx with derrickOut := t.ctx.derrickOut ++ [o], derrickRotate := mput t.ctx.derrickRotate e.id (t.rankOf d + 1),
                              launches := t.ctx.launches.map fun (l : OpenLaunch) => if l.id = launch then { l with live := l.live + 1, left := l.left - 1 } else l }
        ({ t with ctx := x }.fresh).distribute b e launch count n (i + 1)
/-- DERRICK_SELECTION. -/
def execDerrickSelection (s : State) : Host.Outcome State Fault Refusal :=
  .next (match s.derrickQueue with
    | none => s
    | some q =>
      let s := { s with ctx := { s.ctx with queueLast := q } }
      match s.headRecord q with
      | none => s
      | some b =>
        let die := s.dieOf ((s.ctx.cores.map (·.1)).headD 0)
        let entry := s.queueWord q 8
        if s.headInvalid b then
          ((s.raiseHead q).record die 0x0D 7 0 [w64 q, w64 entry]).push
            (.noticePost ⟨.derrick, ⟨w64 (0x44 + s.ctx.id.toNat * 65536), w64 q, w64 entry, 0⟩, false⟩)
        else match s.readDir (imageAt b 0 2) with
          | none => s
          | some e =>
            let count := imageAt b 4 4
            let (launch, i, s) := match s.ctx.headLeft.find? (·.1 = q) with
              | some (_, i, l) => (l, i, s)
              | none =>
                let l := s.ctx.launchNext
                let o : OpenLaunch := { id := l, queue := q, done := if imageAt b 3 1 / 2 % 2 = 1 then some (imageAt b 0x20 8) else none,
                                        live := 0, left := count, routine := e.id }
                (l, 0, { s with ctx := { s.ctx with launchNext := l + 1, launches := s.ctx.launches ++ [o] } })
            let (t, j) := s.distribute b e launch count 32 i
            { t with ctx := { t.ctx with headLeft := t.ctx.headLeft.filter (·.1 ≠ q) ++ [(q, j, launch)] } })
/-- A strand of a launch that the derrick has packed and not yet sent or spilled. -/
def State.unsent (s : State) (launch : Nat) : Bool :=
  s.ctx.derrickOut.any fun o => !o.sent && (match o.msg.body with
    | .carry m => s.launchOf m.strand.toNat = launch
    | _ => false)
/-- HEAD rises over a record whose last strand has been sent or spilled (R369); a part of the passing of a cycle. -/
def State.settleHeads (s : State) : State :=
  (s.ctx.headLeft.filter fun e => s.ctx.launches.all (fun l => l.id ≠ e.2.2 || l.left = 0) && !s.unsent e.2.2).foldl
    (fun t e => (t.raiseHead e.1).countLaunch e.2.2 0) s
/-- LAUNCH_DONE: the done timeline advances by 1 (R370). -/
def execLaunchDone (_q idx : Nat) (s : State) : Host.Outcome State Fault Refusal :=
  .next (match s.ctx.launches.find? (·.id = idx) with
    | none => s
    | some l =>
      let t := { s with ctx := { s.ctx with launches := s.ctx.launches.filter (·.id ≠ idx) } }
      match l.done.bind fun a => t.resolve t.ctx.part.toNat a true with
      | some pa => (({ t with mem := (t.mem.atomic pa 0x01 8 1).1 } : State).evalWatches).wake
      | none => t)
/-- LAUNCH_QUEUE_CONTROL (R366, R371): REPRIO is cleared in the word that set it; a later store stands. -/
def execLaunchQueueControl (q : Nat) (v : Word) (s : State) : Host.Outcome State Fault Refusal :=
  let die := s.dieOf ((s.ctx.cores.map (·.1)).headD 0)
  .next (if fieldOf v 63 6 ≠ 0 then s.record die 0x0C 7 0 [w64 (s.queueBase q + 16), v]
    else
      let t := { s with ctx := { s.ctx with controls := mput s.ctx.controls q (BitVec.ofNat 8 (v.toNat % 64)) } }
      if !v.getLsbD 4 then t
      else
        let prio := v.toNat % 16 / 2
        let rs := ((t.ctx.launches.filter (·.queue = q)).map (·.routine)).eraseDups
        let t := rs.foldl (fun t r => match t.readDir r with
          | some e => if e.channel = 0xFF then t
              else e.places.foldl (fun t c => t.modCore c fun k => k.setChannel e.channel ((k.channel e.channel).setPrio prio)) t
          | none => t) t
        let t := { t with ctx := { t.ctx with controls := mput t.ctx.controls q (BitVec.ofNat 8 (v.toNat % 16 + v.toNat / 32 % 2 * 32)) } }
        if t.queueWord q 16 ≠ v.toNat then t
        else t.writeSeen t.ctx.part.toNat (t.queueBase q + 16) (bytesOf (v.toNat % 16 + v.toNat / 32 % 2 * 32) 8))

end Sys2Proof.Machine
end

