-- ==== Sys2Proof/Machine/Loader.lean ====
section
/-! DEFINITION. The loader: an image read and checked (spec/02 R74-R76), a context placed and started (R77, spec/16 R365). -/
namespace Sys2Proof.Machine

/-! ### Mapping (spec/14 R341, R342) -/

/-- The HBM frames of a partition, as runs (R337). -/
def State.runs (s : State) (part : Nat) : List (Nat × Nat) := ((mfind s.sup.partitions part).map (·.frames)).getD []
/-- A frame of a partition that holds no mapping. -/
def State.unused (s : State) (part f : Nat) : Bool := let e := s.iptAt f; !iptValid e && !iptCont e && iptPart e = part
/-- The first unused frame of a partition's runs. -/
def State.freeFrame (s : State) (part : Nat) : Option Nat :=
  ((s.runs part).flatMap fun r => (List.range (min r.2 (s.ipt.length + 1))).map (r.1 + ·)).find? (s.unused part)
/-- How many unused frames a partition has. -/
def State.freeFrames (s : State) (part : Nat) : Nat :=
  ((s.runs part).map (·.2)).sum -
    (s.ipt.filter fun e => (iptValid e.2 || iptCont e.2) && (s.runs part).any fun r => r.1 ≤ e.1 && e.1 < r.1 + r.2).length
/-- A 64 KiB page of a partition mapped for reading and writing, if it is not yet: the entry, then its link, the anchor (R341).
Which frame the partition's image takes is its own choice: the first unused one (DESIGN CHOICE, log 30). -/
def State.mapPage (s : State) (part page : Nat) : State :=
  if (s.walk part page).isSome then s
  else match s.freeFrame part, s.anchorAt part page with
    | some f, some a =>
      let next := match s.anchor part page with
        | some g => 2 ^ 95 + g * 2 ^ 96
        | none => 0
      { s with ipt := mput s.ipt f (BitVec.ofNat 128 (2 ^ 63 + 2 ^ 60 + 2 ^ 59 + part * 2 ^ 41 + page + next)),
               mem := s.mem.store a 8 (w64 (2 ^ 63 + f)) false }
    | _, _ => s
/-- Pages that a range touches. -/
def pagesOf (a n : Nat) : List Nat := if n = 0 then [] else (List.range ((a + n - 1) / 65536 + 1 - a / 65536)).map (· + a / 65536)
def State.mapRange (s : State) (part a n : Nat) : State := (pagesOf a n).foldl (fun t p => t.mapPage part p) s
/-- A range of memory reads zero, without poison. -/
def Memory.wipe (m : Memory) (a n : Nat) : Memory :=
  { bytes := m.bytes.filter fun e => !(a ≤ e.1 && e.1 < a + n), bad := m.bad.filter fun e => !(a ≤ e.1 * 8 && e.1 * 8 < a + n) }
/-- The part of a range that lies in a page: its start and length. -/
def inPage (a n page : Nat) : Nat × Nat :=
  let lo := max a (page * 65536)
  (lo, min (a + n) (page * 65536 + 65536) - lo)
/-- An area mapped resident and zeroed (R77). -/
def State.clearArea (s : State) (part a n : Nat) : State :=
  (pagesOf a n).foldl (fun t p =>
    let r := inPage a n p
    match t.resolve part r.1 true with
    | some pa => { t with mem := t.mem.wipe pa r.2 }
    | none => t) (s.mapRange part a n)
/-- Bytes written over several pages. -/
def State.writeRange (s : State) (part a : Nat) (bs : List Byte) : State :=
  (pagesOf a bs.length).foldl (fun t p =>
    let r := inPage a bs.length p
    t.writeV part r.1 ((bs.drop (r.1 - a)).take r.2)) s

/-! ### The image (R74-R76) -/

/-- A record: its type and its payload. -/
abbrev ImageRecord := Nat × List Byte
/-- The records of an image from an offset; none when a LENGTH or a TYPE is refused. -/
def imageRecords (b : List Byte) (total : Nat) : Nat → Nat → Option (List ImageRecord)
  | 0, _ => some []
  | n + 1, off =>
    let type := imageAt b off 2
    let len := imageAt b (off + 4) 4
    if type = 0 ∨ 5 < type ∨ imageAt b (off + 2) 2 ≠ 0 ∨ len < 8 ∨ len % 8 ≠ 0 ∨ total < off + len then none
    else (imageRecords b total n (off + len)).map ((type, (b.drop (off + 8)).take (len - 8)) :: ·)
/-- A routine of an image. -/
structure ImageRoutine where
  id : Nat
  len : Nat
  carry : BitVec 32
  places : List Nat
  code : List (BitVec 16)
  deriving DecidableEq, Repr
def parseRoutine (p : List Byte) : ImageRoutine :=
  let len := imageAt p 2 2
  { id := imageAt p 0 2, len, carry := BitVec.ofNat 32 (imageAt p 4 4),
    places := (List.range (imageAt p 8 1)).map fun j => imageAt p (12 + 4 * j) 4,
    code := (List.range len).map fun j => BitVec.ofNat 16 (imageAt p (44 + 2 * j) 2) }
def imgRoutines (rs : List ImageRecord) : List ImageRoutine := (rs.filter (·.1 = 1)).map fun r => parseRoutine r.2
/-- A channel of an image: routine, channel, kind, priority, consolidate, slots, fire count. -/
structure ImageChannel where
  routine : Nat
  ch : Nat
  kind : Nat
  prio : Nat
  cons : Nat
  slots : Nat
  fire : Nat
  deriving DecidableEq, Repr
def channelsOf (rs : List ImageRecord) : List ImageChannel :=
  (rs.filter (·.1 = 2)).map fun r =>
    ⟨imageAt r.2 0 2, imageAt r.2 2 1, imageAt r.2 3 1, imageAt r.2 4 1, imageAt r.2 5 1, imageAt r.2 6 1, imageAt r.2 8 4⟩
/-- Word 0 of the handler entry that a channel record gives (R77): OFFSET 0, LT 31, START 0. -/
def ImageChannel.word0 (x : ImageChannel) : Word :=
  w64 (x.routine * 2 ^ 48 + x.kind * 2 ^ 30 + x.prio * 2 ^ 27 + x.slots * 2 ^ 20 + x.fire * 2 ^ 10 + 31 * 32 + x.cons * 16)
/-- The launch record of spec/16 Table 16-3 that a launch record of an image becomes, with INDEX 0. -/
def launchImage (p : List Byte) : List Byte :=
  let carry := BitVec.ofNat 32 (imageAt p 32 4)
  let flags := bnat (imageAt p 8 8 ≠ 0) + 2 * bnat (imageAt p 24 8 ≠ 0)
  let b := bytesOf (imageAt p 2 2) 2 ++ bytesOf (imageAt p 0 1) 1 ++ bytesOf flags 1 ++ bytesOf (imageAt p 4 4) 4 ++
    bytesOf carry.toNat 4 ++ bytesOf 0 4 ++ bytesOf (imageAt p 8 8) 8 ++ bytesOf (imageAt p 16 8) 8 ++ bytesOf (imageAt p 24 8) 8 ++
    bytesOf 0 16 ++ (p.drop 40).take (8 * oneBits carry)
  b ++ List.replicate (0xF8 - b.length) 0
/-- The directory entry of a routine, as the loader writes it: every placement eligible, none retiring. -/
def ImageRoutine.entry (r : ImageRoutine) (xs : List ImageChannel) : DirEntry :=
  { id := r.id, length := r.len, carry := r.carry,
    channel := ((xs.find? fun x => x.routine = r.id && x.kind = 0).map (·.ch)).getD 0xFF,
    eligible := BitVec.ofNat 8 (2 ^ r.places.length - 1), retiring := 0, places := r.places, known := true }
/-- What each record must satisfy, on the cores `cs` of the context. -/
def recordOk (rs : List ImageRecord) (cs : List Nat) (r : ImageRecord) : Bool :=
  let p := r.2
  let routines := imgRoutines rs
  match r.1 with
  | 1 =>
    let x := parseRoutine p
    x.id ≠ 0 && x.id ≠ trapRoutine && 1 ≤ x.len && x.len ≤ 7680 && 1 ≤ x.places.length && x.places.length ≤ 8 &&
      imageAt p 9 3 = 0 && oneBits x.carry ≤ 24 && x.places.all (cs.contains ·) && x.places.eraseDups.length = x.places.length &&
      (routines.filter (·.id = x.id)).length = 1 && 44 + 2 * x.len ≤ p.length &&
      ((List.range 8).all fun j => j < x.places.length || imageAt p (12 + 4 * j) 4 = 0)
  | 2 =>
    let kind := imageAt p 3 1
    imageAt p 2 1 < 64 && kind < 3 && imageAt p 4 1 < 8 && imageAt p 5 1 < 2 && imageAt p 6 1 ≤ 64 && imageAt p 7 1 = 0 &&
      1 ≤ imageAt p 8 4 && imageAt p 8 4 ≤ (if kind = 2 then 1 else 512) && (imageAt p 5 1 = 0 || kind = 2) &&
      routines.any (·.id = imageAt p 0 2)
  | 3 =>
    let n := imageAt p 0 4
    imageAt p 12 4 = 0 && imageAt p 4 4 + imageAt p 8 4 ≤ localEnd && 16 + 4 * n + imageAt p 8 4 ≤ p.length &&
      (List.range n).all fun j => cs.contains (imageAt p (16 + 4 * j) 4)
  | 4 => imageAt p 0 8 + imageAt p 8 8 ≤ 2 ^ 57 && 16 + imageAt p 8 8 ≤ p.length
  | _ =>
    imageAt p 1 1 = 0 && imageAt p 36 4 = 0 && 40 + 8 * oneBits (BitVec.ofNat 32 (imageAt p 32 4)) ≤ p.length &&
      (match routines.find? (·.id = imageAt p 2 2) with
        | some x => launchValid (launchImage p) (x.entry (channelsOf rs))
        | none => false)
/-- The halfwords placed on a core, and the slots its channels have. -/
def placedLen (rs : List ImageRecord) (c : Nat) : Nat := (((imgRoutines rs).filter (·.places.contains c)).map (·.len)).sum
def placedSlots (rs : List ImageRecord) (c : Nat) : Nat :=
  (((channelsOf rs).filter fun x => (imgRoutines rs).any fun r => r.id = x.routine && r.places.contains c).map (·.slots)).sum
/-- One carry channel at most to a routine, and one routine at most on a channel number of a core (R68). -/
def channelsApart (rs : List ImageRecord) (c : Nat) : Bool :=
  let here := (channelsOf rs).filter fun x => (imgRoutines rs).any fun r => r.id = x.routine && r.places.contains c
  (here.map (·.ch)).eraseDups.length = here.length &&
    ((here.filter (·.kind = 0)).map (·.routine)).eraseDups.length = (here.filter (·.kind = 0)).length
/-- A context name: 1 to 16 bytes, padded with zero bytes (R66, Table 2-4); a name with a zero byte before its end is refused (DESIGN
CHOICE, log 56). -/
def nameOk (n : List Byte) : Bool := n.headD 0 ≠ 0 && (n.dropWhile (· ≠ 0)).all (· = 0)
/-- The header of an image (Table 2-4). -/
def headerOk (b : List Byte) : Bool :=
  let flags := imageAt b 6 2
  let w := imageAt b 0x10 2
  let h := imageAt b 0x12 2
  imageAt b 0 4 = 0x494D594D && imageAt b 4 2 = 1 && flags < 8 && flags / 2 ≠ 3 && w % 4 = 0 && 4 ≤ w && w ≤ 160 && h % 2 = 0 && 2 ≤ h &&
    h ≤ 160 && 1 ≤ imageAt b 0x14 1 && imageAt b 0x14 1 ≤ 16 && imageAt b 0x15 1 = 0 && imageAt b 0x18 8 % 8 = 0 && 64 ≤ imageAt b 0x18 8 &&
    imageAt b 0x20 8 = b.length && nameOk ((b.drop 0x28).take 16) && imageAt b 0x38 8 = 0
/-- Rectangles of the size and number that an image asks for (R66; DESIGN CHOICE for a grant of another size, log 56). -/
def sizeOk (b : List Byte) (rs : List Rect) : Bool :=
  rs.length = imageAt b 0x14 1 && rs.all fun r => r.cols = imageAt b 0x10 2 && r.rows = imageAt b 0x12 2
/-- The records of an image that the loader accepts (R76). -/
def imageOk (b : List Byte) (cs : List Nat) : Option (List ImageRecord) :=
  if !headerOk b then none
  else match imageRecords b b.length (imageAt b 0x16 2) (imageAt b 0x18 8) with
    | none => none
    | some rs =>
      if rs.all (recordOk rs cs) ∧ cs.all fun c => placedLen rs c ≤ 7680 && placedSlots rs c ≤ 64 && channelsApart rs c then some rs
      else none

/-! ### The control block (spec/16 R365) -/

/-- A base that the control block may hold. -/
def baseOk (w : Word) (align : Nat) : Bool := w ≠ 0 && w.toNat % align = 0 && !w.getLsbD 63
/-- A channel word of the context (R162), or 0. -/
def chanOk (w : Word) (cs : List Nat) : Bool :=
  w = 0 || (w.getLsbD 63 && fieldOf w 42 6 = 0 && cs.contains (fieldOf w 62 59 * 65536 + fieldOf w 58 43))
/-- What R365 asks of a start request; the flags come from the image. -/
def blockOk (r : StartReq) (cs : List Nat) : Bool :=
  baseOk r.ccb 128 && baseOk r.dir 64 && baseOk r.map 64 && baseOk r.rings 65536 && baseOk r.frames 262144 && baseOk r.launchq 262144 &&
    baseOk r.coreSave 131072 && baseOk r.clusterSave 262144 && chanOk r.chunkChan cs && r.debug < 32

/-! ### Starting (R77) -/

/-- A routine written into the code stores of its placements, each packed behind those already there. -/
def State.placeRoutine (s : State) (r : ImageRoutine) : State :=
  r.places.foldl (fun t c => t.modCore c fun k =>
    let base := (k.placed.map (·.len)).sum
    { k with placed := k.placed ++ [⟨r.id, base, r.len⟩], code := (r.code.zipIdx).foldl (fun m e => mset 0 m (base + e.2) e.1) k.code }) s
/-- Routines in ascending order of their identifiers. -/
def insertRoutine (r : ImageRoutine) : List ImageRoutine → List ImageRoutine
  | [] => [r]
  | x :: xs => if r.id ≤ x.id then r :: x :: xs else x :: insertRoutine r xs
def byId (rs : List ImageRoutine) : List ImageRoutine := rs.foldr insertRoutine []
/-- Channels bound on every core that their routine is placed on, ENABLE 1, HOLD 0, STATE 1. -/
def State.bindChannel (s : State) (rs : List ImageRoutine) (x : ImageChannel) : State :=
  (((rs.find? (·.id = x.routine)).map (·.places)).getD []).foldl (fun t c =>
    t.modCore c (·.setChannel x.ch { word0 := x.word0, enable := true, state := 1 })) s
/-- A directory entry of the loader. -/
def State.enterRoutine (s : State) (part : Nat) (xs : List ImageChannel) (r : ImageRoutine) : State :=
  let e := r.entry xs
  s.writeRange part (s.dirAddr r.id) (bytesOf e.id 2 ++ bytesOf e.length 2 ++ bytesOf e.carry.toNat 4 ++ bytesOf e.channel 1 ++
    bytesOf e.places.length 1 ++ bytesOf e.eligible.toNat 1 ++ bytesOf 0 5 ++ (e.places.flatMap fun p => bytesOf p 4))
/-- Local and global sections copied. -/
def State.copySection (s : State) (part : Nat) (cs : List Nat) (r : ImageRecord) : State :=
  let p := r.2
  if r.1 = 3 then
    let n := imageAt p 0 4
    let on := if n = 0 then cs else (List.range n).map fun j => imageAt p (16 + 4 * j) 4
    let data := (p.drop (16 + 4 * n)).take (imageAt p 8 4)
    on.foldl (fun t c => t.modCore c fun k => { k with mem := k.mem.write (imageAt p 4 4) data false }) s
  else if r.1 = 4 then (s.mapRange part (imageAt p 0 8) (imageAt p 8 8)).writeRange part (imageAt p 0 8) ((p.drop 16).take (imageAt p 8 8))
  else s
/-- The 128 bytes of the control block (Table 16-1). -/
def blockImage (r : StartReq) (seed : Word) (flags : Nat) : List Byte :=
  bytesOf seed.toNat 8 ++ bytesOf flags 8 ++ bytesOf r.dir.toNat 8 ++ bytesOf r.map.toNat 8 ++ bytesOf r.rings.toNat 8 ++
    bytesOf r.frames.toNat 8 ++ bytesOf r.launchq.toNat 8 ++ bytesOf r.coreSave.toNat 8 ++ bytesOf r.clusterSave.toNat 8 ++
    bytesOf r.chunkChan.toNat 8 ++ bytesOf r.watchdog.toNat 8 ++ bytesOf r.debug 1 ++ List.replicate 0x27 0
/-- The areas of step 2: directory, core map, rings of routines with a carry channel, frames, launch queues, save areas. -/
def areasOf (r : StartReq) (rs : List ImageRecord) (cores clusters : Nat) : List (Nat × Nat) :=
  [(r.dir.toNat, 64 * 65536), (r.map.toNat, 8 * cores)] ++
    ((imgRoutines rs).filter (fun x => (x.entry (channelsOf rs)).channel ≠ 0xFF)).map (fun x => (r.rings.toNat + 65536 * x.id, 65536)) ++
    [(r.frames.toNat, 262144 * cores), (r.launchq.toNat, 16 * 262144), (r.coreSave.toNat, 131072 * cores),
     (r.clusterSave.toNat, 262144 * clusters), (r.ccb.toNat, 128)]
/-- A position as an entry of the core map holds it: the row, the column, the package, and bit 31 (DESIGN CHOICE, log 31). -/
def seatWord (p : Nat × Nat × Nat) : Nat := p.2.1 + 256 * p.2.2 + 65536 * p.1 + 2 ^ 31
/-- An entry of the core map: the position of a core, and above it that of its follower in a paired context, else 0 (R19). -/
def mapEntry (paired : Bool) (p : Nat × Nat × Nat) : Word := w64 (seatWord p + if paired then seatWord (followerAt p) * 2 ^ 32 else 0)
/-- A core as it begins the life of a context: what belongs to the part at its position stays; the partition's trap routine stands
in its code store (R24). -/
def PartCore.begin (p : PartCore) (n rank clock : Nat) (paired : Bool) (trap : List (BitVec 16)) : Core :=
  ({ logicalId := BitVec.ofNat 20 n, rank := BitVec.ofNat 20 rank, priv := 0, trapLen := trap.length, lastAccess := clock,
     code := (trap.zipIdx).foldl (fun m e => mset 0 m (0x1E00 + e.2) e.1) [], pair := { on := paired, start := p.retired } } : Core).standsAt p
/-- A request that changes memory. -/
def opChanges : MemOp → Bool
  | .load _ | .tableRead _ | .writeBack _ => false
  | _ => true
/-- What a start leaves of a packet that is under way: of the system cores, the host and the supervisor all, and inputs (R77). Requests
of the ended context that have left for the slices are performed and answered to nobody; `same`: for the same partition, so are the
records that it has lost. What else its cores had under way ends with them (DESIGN CHOICE, log 64). -/
def Packet.outlives (same : Bool) (p : Packet) : Option Packet :=
  let core (c : Nat) : Bool := sysBase ≤ c
  let src : Source → Bool
    | .core c => core c
    | .slice _ | .derrick | .port _ | .node _ => false
    | .host => true
  let keep (b : Bool) : Option Packet := if b then some p else none
  match p.event with
  | .sliceOperation r | .timelineWrite r =>
    if src r.src then some p
    else if p.stamp.isSome && opChanges r.op then some { p with event := .sliceOperation { r with quiet := true } } else none
  | .chainedPacket r =>
    if src r.src then some p
    else if r.home.isNone && opChanges r.op then some { p with event := .chainedPacket { r with quiet := true } } else none
  | .remoteAccess r => keep (src r.src)
  | .loadReply c _ _ | .storeAcknowledgement c _ | .forwardedReply c _ _ _ | .timelineRelease c _ | .quiescenceWatch c _ _
  | .invalidationAck c _ | .translationWalk c _ => keep (core c)
  | .carryArrival _ | .dataMessageArrival _ | .changeMessageArrival _ | .grantRequest _ | .grant _ | .revocation _ | .refusal _
  | .barrierArrival _ _ _ _ | .barrierCompletion _ _ | .directoryInvalidationAck _ _ | .frameRelease _ _ | .checkedChunkVerify _ _
  | .launchQueueControl _ _ | .multicastFork _ => none
  | .changeRecordLost _ _ | .launchDone _ _ => keep same
  | .noticePost p => keep (p.again || same)
  | .ringWindowPush _ _ _ a => keep (a.any fun x => core x.1)
  | .matrixWindowPush _ _ _ w => keep (w.ack.any fun x => core x.1)
  | _ => some p
/-- The pages that a start maps: those of the areas, and of the global sections. -/
def startPages (r : StartReq) (rs : List ImageRecord) (cores clusters : Nat) : List Nat :=
  (((areasOf r rs cores clusters).flatMap fun a => pagesOf a.1 a.2) ++
    (rs.filter (·.1 = 4)).flatMap fun e => pagesOf (imageAt e.2 0 8) (imageAt e.2 8 8)).eraseDups
/-- The memory of the partition suffices for a start; one that it does not suffice for is refused as R15 refuses (DESIGN CHOICE, log
56: R77 does not say what happens then). -/
def State.startFits (s : State) (r : StartReq) (rs : List ImageRecord) (cores clusters : Nat) : Bool :=
  ((startPages r rs cores clusters).filter fun p => (s.walk r.part p).isNone).length ≤ s.freeFrames r.part
/-- A start whose image and control block are accepted. A launch record that finds its queue full is dropped: the spec is silent
on an image with more records for one queue than it holds (DESIGN CHOICE, log 57). -/
def State.start (s : State) (r : StartReq) (rs : List ImageRecord) : State :=
  let flags := imageAt r.image 6 2
  let paired := flags % 2 = 1
  let cores := s.numbered paired r.rects
  let ns := cores.map (·.1)
  let us := areaClusters r.rects
  let seed := r.seed.getD (w64 (imageAt r.image 8 8))
  let trap := ((mfind s.sup.partitions r.part).map (·.trap)).getD []
  let x : Context :=
    { part := BitVec.ofNat 8 r.part, id := BitVec.ofNat 16 r.ctx, ccb := r.ccb, seed, paired, check := flags / 2,
      dirBase := r.dir.toNat, mapBase := r.map.toNat, ringBase := r.rings.toNat, frameBase := r.frames.toNat,
      launchBase := r.launchq.toNat, coreSave := r.coreSave.toNat, clusterSave := r.clusterSave.toNat, chunkChan := r.chunkChan,
      watchdog := r.watchdog.toNat, debug := BitVec.ofNat 8 r.debug, rects := r.rects, cores }
  let lifted (n : Nat) : Bool := s.sup.rects.any fun q => q.1 = n && q.2.any us.contains
  let s := s.vacate
  let posts : List HeldNotice := if s.ctx.part.toNat = r.part then []
    else s.events.filterMap fun e => match e with
      | .noticePost p => if p.again then none else some ⟨p.src, s.noticePart p.src, p.notice, s.clock⟩
      | _ => none
  let t : State := { s with
    heldNotices := s.heldNotices ++ posts,
    ctx := x, nodes := [], watches := s.watches.filter (sysBase ≤ ·.core), trees := [], residuals := [],
    agenda := s.agenda.filterMap (·.outlives (s.ctx.part.toNat = r.part)), changes := [], sliceOut := [], sliceGrants := [],
    parts := s.parts.filter fun e => !cores.any fun c => positionAt c.2 = e.1,
    sup := { s.sup with fences := s.sup.fences.filter (fun f => !lifted f.1),
                        rects := s.sup.rects.filter fun q => !(2 ^ 15 ≤ q.1 && lifted q.1) },
    twins := [],
    cores := cores.zipIdx.foldl (fun m e => mput m e.1.1 ((s.partAt e.1.2).begin e.1.1 e.2 s.clock paired trap)) (s.cores.filter fun e => sysBase ≤ e.1),
    clusters := us.foldl (fun m u => mput m u { bank := (s.cluster u).bank }) s.clusters }
  let t := (areasOf r rs ns.length us.length).foldl (fun t a => t.clearArea r.part a.1 a.2) t
  let t := (List.range 16).foldl (fun t q => t.writeV r.part (t.queueBase q + 16) (bytesOf q 8)) t
  let t := t.writeRange r.part r.map.toNat (cores.flatMap fun e => bytesOf (mapEntry paired e.2).toNat 8)
  let t := (byId (imgRoutines rs)).foldl State.placeRoutine t
  let t := (imgRoutines rs).foldl (fun t x => t.enterRoutine r.part (channelsOf rs) x) t
  let t := (channelsOf rs).foldl (fun t x => t.bindChannel (imgRoutines rs) x) t
  let t := rs.foldl (fun t e => t.copySection r.part ns e) t
  let t := t.writeRange r.part r.ccb.toNat (blockImage r seed flags)
  let t := (rs.filter (·.1 = 5)).foldl (fun t e => (t.append (imageAt e.2 0 1) (launchImage e.2)).1) t
  { t with ctx := { t.ctx with started := true } }
/-- The rectangles of a start lie inside those of a partition whose image has started (R14, spec/24 R500). -/
def State.areaFree (s : State) (r : StartReq) : Bool :=
  areaOk r.rects && ((mfind s.sup.partitions r.part).any fun p => insideArea r.rects p.area && p.image.isSome)
/-- A start refused: the partition system image is told (6, the context), and answered on its ring with status 7 (R15, R76, spec/24
R496). -/
def State.refuseStart (s : State) (r : StartReq) : State :=
  let t := (s.tell 6 0 (w64 r.ctx)).rouse r.part
  { t with sup := { t.sup with responses := t.sup.responses ++ [(0x100 + r.part, 7, [w64 r.ctx])] } }
/-- CONTEXT_START: refused while another context runs, before the partition's image has started (spec/24 R500), for rectangles
that are not the partition's, and for a refused image or control block. -/
def execContextStart (r : StartReq) (s : State) : Host.Outcome State Fault Refusal :=
  let ns := (s.numbered (imageAt r.image 6 2 % 2 = 1) r.rects).map (·.1)
  .next (if (s.ctx.started ∧ !s.ctx.ended) ∨ !s.areaFree r ∨ !sizeOk r.image r.rects ∨ !blockOk r ns ∨ ns.isEmpty then s.refuseStart r
    else match imageOk r.image ns with
      | some rs => if s.startFits r rs ns.length (areaClusters r.rects).length then s.start r rs else s.refuseStart r
      | none => s.refuseStart r)

end Sys2Proof.Machine
end

