-- ==== Sys2Proof/Machine/Fabric.lean ====
section
/-! DEFINITION. Frames and quotas, multicasts, refused traffic and the Wyal link layer (spec/17 R389-R406, spec/24 R497-R499).
What a packet does travels in the agenda; over a link it goes as flits, and stands at the other port when its last flit has been
accepted. -/
namespace Sys2Proof.Machine

/-! ### Frames and quotas (R394-R397) -/

/-- PACKET_ADMISSION (R396): the oldest packet that waits at its source is charged to the earliest of four frames that covers
its cost, and takes its stamp; when none does, it waits on. -/
def execPacketAdmission (src : Source) (cost : Nat) (s : State) : Host.Outcome State Fault Refusal :=
  let i := s.agenda.findIdx fun p => p.stamp.isNone && payerOf p.event = some src
  let part := ((s.agenda[i]?).map fun p => s.sourcePart src p.event).getD s.ctx.part.toNat
  .next (match s.charge src part cost with
    | some x => { s with agenda := s.agenda.modify i fun p => { p with stamp := some x.1 }, quotas := x.2 }
    | none => s)
/-- The frame count of the cycle (R394). -/
def frameAtCycle (clock : Nat) : BitVec 4 := BitVec.ofNat 4 (clock / 8192)
/-- Counter 0x0105 is that of the frame that ends (spec/16 Table 16-4). -/
def Core.endFrame (k : Core) : Core := { k with counters := mset 0 k.counters 0x0105 (w64 k.refusals), refusals := 0 }
/-- A stamp that a frame boundary would bring to age 13 is rewritten to stay at age 12; `f` is the frame that ends (R396). -/
def ageStamp (f x : BitVec 4) : BitVec 4 := if f - x = 12 then x + 1 else x
/-- The frame count moves to the cycle's, and every source's counts with it; held packets keep an age of at most 12. -/
def State.newFrame (s : State) : State :=
  { s with frame := frameAtCycle s.clock, linkUsed := [],
           cores := s.cores.map fun (e : Nat × Core) => (e.1, e.2.endFrame),
           agenda := s.agenda.map fun (p : Packet) => { p with stamp := p.stamp.map (ageStamp s.frame) },
           watches := s.watches.map fun (w : Watch) => { w with stamp := ageStamp s.frame w.stamp },
           sliceOut := s.sliceOut.map fun (o : Outbound) => { o with stamp := o.stamp.map (ageStamp s.frame) },
           quotas := s.quotas.map fun (q : Quota) => { q with left := q.left.drop 1 ++ [s.flits q.part] } }
/-- A package sends the frame mark on each of its ports that is up; it arrives at their peers (R402). -/
def State.passMark (s : State) (pkg : Nat) : State :=
  let ups := (s.ports.filter fun e => e.1 / 18 = pkg && e.2.state = 2).map (·.1)
  ups.foldl (fun t p => t.push (.frameMark (s.farPort p))) { s with marked := s.marked ++ [pkg] }
/-- A new frame, whose mark no package has passed on. -/
def State.startFrame (s : State) : State := { s.newFrame with marked := [] }
/-- FRAME_BOUNDARY: the pod's count rises; the package with the lowest pod number sends the mark (R394, R402). -/
def execFrameBoundary (s : State) : Host.Outcome State Fault Refusal :=
  .next (s.startFrame.passMark ((leastBy id s.sup.packages).getD 0))
/-- FRAME_MARK: a mark arrives at a port: the boundary is taken, if it has not been, and the package passes the mark on, once. -/
def execFrameMark (port : Nat) (s : State) : Host.Outcome State Fault Refusal :=
  let t := if s.frame = frameAtCycle s.clock then s else s.startFrame
  .next (if t.marked.contains (port / 18) then t else t.passMark (port / 18))

/-! ### Multicast (R389, R390) -/

/-- The copy of a multicast for one destination. -/
def copyFor (e : Instr) (c : Nat) : Instr :=
  match e with
  | .barrierCompletion _ n => .barrierCompletion c n
  | e => e
/-- The destinations of a copy with their positions. -/
def State.treeSeats (s : State) (x : Tree) : List (Nat × Nat × Nat × Nat) := x.dests.map fun c => (c, (s.place c).getD (0, 0, 0))
/-- The copy that goes on with some of the destinations to a router of the same die. -/
def Tree.on (x : Tree) (row col : Nat) (way : Way) (ds : List (Nat × Nat × Nat × Nat)) : Tree :=
  { x with at' := x.at' / 25600 * 25600 + 160 * row + col, way, dests := ds.map (·.1) }
/-- The branches along a column: the nearest rows above and below that hold destinations. -/
def Tree.alongColumn (x : Tree) (row col : Nat) (ds : List (Nat × Nat × Nat × Nat)) : List Tree :=
  let up := ds.filter (·.2.2.1 < row)
  let down := ds.filter (row < ·.2.2.1)
  (if up.isEmpty then [] else [x.on ((up.map (·.2.2.1)).foldl max 0) col .north up]) ++
    (if down.isEmpty then [] else [x.on ((down.map (·.2.2.1)).foldl min 159) col .south down])
/-- The branches of a copy at its router: here, along the row to the next columns that hold destinations, along its own column,
and, where the tree begins, to the attachments of other dies by way of the memory network (R389). -/
def State.branches (s : State) (x : Tree) : List Tree :=
  let row := x.at' % 25600 / 160
  let col := x.at' % 160
  let die := dieAt (x.at' / 25600, row, col)
  let ds := s.treeSeats x
  let own := ds.filter (dieAt ·.2 = die)
  let inRow := x.way = .start || x.way = .east || x.way = .west
  let here := own.filter fun d => d.2.2.2 = col
  let east := if x.way = .west then [] else own.filter fun d => inRow && col < d.2.2.2
  let west := if x.way = .east then [] else own.filter fun d => inRow && d.2.2.2 < col
  let dies := ((ds.map (dieAt ·.2)).filter (· ≠ die)).eraseDups
  ((here.filter (·.2.2.1 = row)).map fun d => x.on row col .here [d]) ++
    x.alongColumn row col here ++
    (if east.isEmpty then [] else [x.on row ((east.map (·.2.2.2)).foldl min 159) .east east]) ++
    (if west.isEmpty then [] else [x.on row ((west.map (·.2.2.2)).foldl max 0) .west west]) ++
    dies.map fun d => { x with at' := attachment d, way := .start, dests := (ds.filter (dieAt ·.2 = d)).map (·.1) }
/-- Whether a branch has a free flit now: its input holds fewer than 4 copies, and takes no more of them while its residual buffer is
full; what else stands in it is left open (log 1). A branch toward another package waits at the ports that it crosses. -/
def State.freeBranch (s : State) (x b : Tree) : Bool :=
  (b.way = .here || b.at' / 25600 ≠ x.at' / 25600 ||
    ((s.trees.filter fun y => y.at' = b.at' && y.way = b.way).length < 4 && (s.residuals.filter (·.1 = b.input)).length < 4)) &&
    Config.sense 7 (s.clock * 2 ^ 24 + 8 * b.at' + b.way.code) % 2 = 0
/-- The ports that a copy crosses to the package of a branch, as the tables stood when the multicast was admitted (R405). -/
def State.treePath (s : State) (x b : Tree) : Path :=
  ((x.ways.find? fun e => e.1 = b.at' / 25600).map (·.2)).getD (match s.route (x.at' / 25600) (b.at' / 25600) with
    | some is => .ports is
    | none => .refused)
/-- A copy sent on a branch: delivered here, on to the next router, on its way to another package, or dropped at a fence (Table
17-5). -/
def State.sendBranch (s : State) (x b : Tree) : State :=
  if b.way = .here then
    b.dests.foldl (fun t c => if t.fenced c then t.recordRefused (.core c) 3 (w64 c) (w64 x.id)
      else if copyWanted t b.event c then t.push (copyFor b.event c) else t) s
  else if b.at' / 25600 = x.at' / 25600 then { s with trees := s.trees ++ [b] }
  else { s with agenda := s.agenda ++ [{ event := .multicastFork (b.id, b.input), stamp := some s.frame, home := none, path := s.treePath x b,
                                         tree := some (x.at', b) }] }
/-- A copy that a port refuses is dropped, and recorded (Table 17-5). -/
def State.dropCopyOf (s : State) (from' : Nat) (b : Tree) : State :=
  s.recordRefused (s.refuserOf (.node from') (.node b.at')) 3 (w64 (b.dests.headD 0)) (w64 b.id)
/-- A branch that an earlier copy in the same residual buffer still needs (R390). -/
def State.taken (s : State) (k : Nat) (id : Nat) (b : Tree) : Bool :=
  (s.residuals.takeWhile fun e => !(e.1 = k && e.2.id = id)).any fun e =>
    e.1 = k && (s.branches e.2).any fun y => y.at' = b.at' && y.way = b.way && (y.way ≠ .here || y.dests = b.dests)
/-- The copies of one input of one router are looked at in their order: the first of them, if the residual buffer has room. -/
def State.forks (s : State) (x : Tree) : Bool :=
  (s.trees.find? fun y => y.at' = x.at' && y.way = x.way) = some x && (s.residuals.filter (·.1 = x.input)).length < 4
/-- MULTICAST_FORK: copies leave on the free branches, one copy stays in the residual buffer of the input for the others; while
that buffer is full the fork waits (R389). -/
def execMulticastFork (tree : Nat × Nat) (s : State) : Host.Outcome State Fault Refusal :=
  .next (match s.trees.find? fun x => x.id = tree.1 && x.input = tree.2 with
    | none => s
    | some x =>
      if !s.forks x then s
      else
        let go := (s.branches x).filter fun b => s.freeBranch x b && !s.taken x.input x.id b
        let rest := x.dests.filter fun c => !go.any (·.dests.contains c)
        let t := go.foldl (fun t b => t.sendBranch x b) { s with trees := s.trees.erase x }
        if rest.isEmpty then t else { t with residuals := t.residuals ++ [(x.input, { x with dests := rest })] })
/-- The sends that a residual buffer can make: a copy of it and a branch that no earlier copy needs and that is free. -/
def State.residualSends (s : State) (router : Nat) : List (Tree × Tree) :=
  (s.residuals.filter (·.1 = router)).flatMap fun e =>
    ((s.branches e.2).filter fun b => s.freeBranch e.2 b && !s.taken router e.2.id b).map fun b => (e.2, b)
/-- MULTICAST_RESIDUAL_SEND: a copy is sent on a branch that has freed; after its last branch it leaves the buffer. -/
def execMulticastResidualSend (router : Nat) (s : State) : Host.Outcome State Fault Refusal :=
  let xs := s.residualSends router
  .next (match xs[Config.pick s.clock % xs.length]? with
    | none => s
    | some (x, b) =>
      let rest := x.dests.filter fun c => !b.dests.contains c
      let t := s.sendBranch x b
      { t with residuals := if rest.isEmpty then t.residuals.erase (router, x)
          else t.residuals.map fun e => if e = (router, x) then (router, { x with dests := rest }) else e })

/-! ### Refused traffic (R398, Table 17-5) -/

/-- The answer to a refused request that has an entry: poisoned values for what reads, an acknowledgement for what only
writes. -/
def refusedValues : MemOp → List Datum
  | .load ps => List.replicate ps.length ⟨0, true⟩
  | .future _ .put _ | .counter _ _ _ | .store _ | .timeline _ _ _ => [⟨1, false⟩]
  | _ => [⟨0, true⟩]
/-- A refused request that writes and returns nothing: it posts a notice. -/
def refusedWrite (r : Req) : Bool :=
  r.tag = 0 || (match r.op with
    | .future _ .put _ | .counter _ _ _ | .store _ | .timeline _ _ _ => true
    | _ => false)
/-- Where a refused request was bound. -/
def reqTarget (r : Req) : Word :=
  match r.home with
  | some c => coreAddr c 0
  | none => 0
/-- The end a refused request was bound for: the core, else the slice it names, else its own source. -/
def reqEnd (r : Req) : Source :=
  match r.home with
  | some c => .core c
  | none => ((blocksTouched r.op).head?.map fun b => Source.slice (sliceOf (64 * b))).getD r.src
/-- REFUSED_TRAFFIC: the outcome of Table 17-5, a record, and for a write of a core a notice to its partition. -/
def execRefusedTraffic (r : Req) (s : State) : Host.Outcome State Fault Refusal :=
  let t := if r.quiet then s else s.answer r (.reply (refusedValues r.op))
  let t := t.recordRefused (s.refuserOf r.src (reqEnd r)) 0 (reqTarget r) (sourceWord r.src)
  .next (match r.src with
    | .core c => if refusedWrite r then t.push (.noticePost ⟨.core c, t.noticeOf 0x4E (c * 2 ^ 32) 0 0 0, false⟩) else t
    | _ => t)

/-! ### The Wyal link layer (R399-R406) -/

def State.port (s : State) (p : Nat) : Port := mget {} s.ports p
def State.setPort (s : State) (p : Nat) (x : Port) : State := { s with ports := mput s.ports p x }
/-- A port's state changes: 0 DOWN, 1 TRAIN, 2 UP. Vector 2 is signalled, and the change recorded, with a TYPE that the spec does
not give: a free value (R499; log 29). -/
def State.portState (s : State) (p : Nat) (x : Port) : State :=
  if (s.port p).state = x.state then s.setPort p x
  else
    let t := s.setPort p { x with since := s.clock }
    let t := t.record (p / 18 * 4 + p % 4) ((Config.freeValue 13 s.clock).toNat % 256) 6 (p % 18) [w64 (s.port p).state, w64 x.state]
    { t with host := { t.host with vectors := t.host.vectors ||| 4 } }
/-- One bit of the CRC of IEEE 802.3: bytes enter least significant bit first. -/
def crcBit (c : BitVec 32) (b : Bool) : BitVec 32 :=
  if c.getLsbD 0 != b then (c >>> 1) ^^^ 0xEDB88320#32 else c >>> 1
/-- The CRC-32 of bytes in ascending order: initial value all ones, final inversion (R399). -/
def crc32 (bs : List Byte) : BitVec 32 :=
  ~~~ (bs.foldl (fun c b => (List.range 8).foldl (fun c i => crcBit c (b.getLsbD i)) c) 0xFFFFFFFF#32)
/-- Fields of a flit (Table 17-6). -/
def flitField (f : BitVec 512) (hi lo : Nat) : Nat := f.toNat / 2 ^ lo % 2 ^ (hi + 1 - lo)
def flitCrcOk (f : BitVec 512) : Bool := flitField f 511 480 = (crc32 (bytesOf f.toNat 60)).toNat
/-- Bits 479:0 of a flit under their CRC. -/
def sealFlit (low : Nat) : BitVec 512 := BitVec.ofNat 512 (low + (crc32 (bytesOf low 60)).toNat * 2 ^ 480)
/-- A flit of a packet (Table 17-6), with an acknowledgement of what has been received in order. -/
def flitOf (vn : Nat) (frame : BitVec 4) (seq ack : BitVec 11) (sop eop : Bool) (payload : BitVec 448) : BitVec 512 :=
  sealFlit (bnat eop + 2 * bnat sop + 4 + 8 * ack.toNat + 2 ^ 14 * seq.toNat + 2 ^ 25 * frame.toNat + 2 ^ 29 * vn + 2 ^ 32 * payload.toNat)
/-- A flit under another SEQ. -/
def renumbered (f : BitVec 512) (seq : Nat) : BitVec 512 :=
  sealFlit (f.toNat % 2 ^ 14 + 2 ^ 14 * (seq % 2048) + f.toNat / 2 ^ 25 % 2 ^ 455 * 2 ^ 25)
/-- The bytes of a packet in a flit: the spec gives its fields, not their places (log 8). -/
def State.payload (s : State) (k : Nat) : BitVec 448 :=
  BitVec.ofNat 448 ((List.range 7).foldl (fun n j => n * 2 ^ 64 + (Config.freeValue (20 + j) (s.clock * 64 + k)).toNat) 0)
/-- A flit as it comes over the link: its CRC may no longer match (log 4). -/
def State.wire (s : State) (f : BitVec 512) : BitVec 512 :=
  f ^^^ BitVec.ofNat 512 ((Config.freeValue 12 (s.clock * 2048 + flitField f 24 14)).toNat % 2 ^ 32 * 2 ^ 480)
/-- Flits sent to a port, in their order. -/
def State.sendFlits (s : State) (far : Nat) (fs : List (BitVec 512)) : State :=
  fs.foldl (fun t f => t.push (.flitReceive far (t.wire f))) s
/-- The replay buffer without the flits that an ACK covers: it holds the flits before the next SEQ, oldest first. A SEQ that is
acknowledged needs no retry any more. -/
def Port.covered (x : Port) (ack : Nat) : Port :=
  let oldest := x.seqOut.toNat + 2048 - x.replay.length
  let n := (ack + 2048 + 1 - oldest % 2048) % 2048
  if n ≤ x.replay.length ∧ 0 < n then { x with replay := x.replay.drop n, resend := none, retries := 0 } else x
/-- The packet whose last flit a port has accepted stands at that port (R399). -/
def landOn (port : Nat) (seq : BitVec 11) (p : Packet) : Packet :=
  match p.link with
  | some (_, far, q) => if far = port ∧ q = seq then
      { p with link := none, port := some port, hops := p.hops + 1, path := match p.path with
          | .ports is => .ports (is.drop 1)
          | x => x } else p
  | none => p
/-- A flit taken in by a port; the packet that it ends is complete (R399, R400). -/
def State.acceptFlit (s : State) (port : Nat) (f : BitVec 512) : State :=
  let x := s.port port
  let vn := flitField f 31 29
  let pkt := (if flitField f 1 1 = 1 then [] else mget [] x.partialPkt vn) ++ [f]
  let eop := flitField f 0 0 = 1
  let y : Port := { x with seqIn := x.seqIn + 1, nakDue := false, partialPkt := mput x.partialPkt vn (if eop then [] else pkt) }
  let t := s.setPort port (if flitField f 2 2 = 1 then y.covered (flitField f 13 3) else y)
  if eop then { t with agenda := t.agenda.map (landOn port x.seqIn) } else t
/-- A flit discarded: its sender is told the SEQ that is expected, once for what is on its way. -/
def State.discardFlit (s : State) (port : Nat) : State :=
  if (s.port port).nakDue then s
  else (s.setPort port { s.port port with nakDue := true }).push (.negativeAcknowledgement (s.farPort port) (s.port port).seqIn.toNat)
/-- A flit that acknowledges a SEQ (Table 17-6), by its ACK or a later one. -/
def acknowledges (f : BitVec 512) (seq : Nat) : Bool :=
  flitCrcOk f && flitField f 2 2 = 1 && (flitField f 13 3 + 2048 - seq % 2048) % 2048 < 1024
/-- A flit whose acknowledgement is left aside. -/
def withoutAck (f : BitVec 512) : BitVec 512 := sealFlit (f.toNat % 2 ^ 480 - f.toNat / 4 % 2 * 4)
/-- FLIT_RECEIVE (R400, R401): accepted when its CRC matches and its SEQ is the next; else discarded, with a negative
acknowledgement. Link management flits consume no SEQ. -/
def execFlitReceive (port : Nat) (flit : BitVec 512) (s : State) : Host.Outcome State Fault Refusal :=
  let x := s.port port
  .next (if x.state ≠ 2 then s
    else if flitField flit 31 29 = 4 then
      s.setPort port (if !flitCrcOk flit then { x with badMgmt := true }
        else if flitField flit 2 2 = 1 then x.covered (flitField flit 13 3) else x)
    else if flitCrcOk flit ∧ flitField flit 31 29 < 4 ∧ flitField flit 24 14 = x.seqIn.toNat then s.acceptFlit port flit
    else s.discardFlit port)
/-- Flits of packets on their way to a port. -/
def flitTo (port : Nat) : Instr → Bool
  | .flitReceive p f => p = port && flitField f 31 29 ≠ 4
  | _ => false
/-- The flits of a replay buffer from a SEQ on. -/
def Port.fromSeq (x : Port) (seq : Nat) : List (BitVec 512) := x.replay.dropWhile fun f => flitField f 24 14 ≠ seq % 2048
/-- A port sends again from a SEQ, in order; what of the first sending is still on its way is out of order and is discarded. -/
def State.sendAgain (s : State) (port seq : Nat) : State :=
  let far := s.farPort port
  ((s.setPort far { s.port far with nakDue := false }).keepEvents fun e => !flitTo far e).sendFlits far ((s.port port).fromSeq seq)
/-- NEGATIVE_ACKNOWLEDGEMENT: the sender sends again from the named SEQ; an episode is recorded once; when eight retries of one
SEQ have failed the port retrains (R400, R405). -/
def execNegativeAcknowledgement (port seq : Nat) (s : State) : Host.Outcome State Fault Refusal :=
  let x := s.port port
  let again := x.resend = some (BitVec.ofNat 11 seq)
  let n := if again then x.retries + 1 else 1
  let t := s.setPort port { x with resend := some (BitVec.ofNat 11 seq), retries := n }
  let t := if again then t else t.record (port / 18 * 4 + port % 4) 0x07 6 (port % 18) [w64 seq, w64 n]
  .next (if x.state ≠ 2 then s else if 8 < n then t.push (.portRetrain port) else t.sendAgain port seq)
/-- CREDIT_RETURN: at most the 64 flits of the receiver's buffer (R401). -/
def execCreditReturn (port vn n : Nat) (s : State) : Host.Outcome State Fault Refusal :=
  let x := s.port port
  .next (s.setPort port { x with credits := mput x.credits vn (min 64 (mget 64 x.credits vn + n)) })
/-- A port sends its link management contents: an acknowledgement and the credits owed (R401). -/
def State.sendManagement (s : State) (port : Nat) : State :=
  let x := s.port port
  let far := s.farPort port
  x.owed.foldl (fun t e => t.push (.creditReturn far e.1 e.2)) (s.sendFlits far [flitOf 4 s.frame 0 (x.seqIn - 1) true true (s.payload 0)])
/-- LINK_MANAGEMENT_INTERVAL: the contents go out; those of the peer that were discarded come again (R401). -/
def execLinkManagementInterval (port : Nat) (s : State) : Host.Outcome State Fault Refusal :=
  let t := if (s.port port).state = 2 then s.sendManagement port else s
  .next (t.setPort port { s.port port with owed := [], badMgmt := false, managed := s.clock / 256 })
/-- A port trains, and keeps its replay buffer. -/
def State.train (s : State) (port : Nat) : State := s.portState port { s.port port with state := 1, retries := 0, resend := none }
/-- The two ports of a link, each the other's. -/
def State.joined (s : State) (port far : Nat) : Bool :=
  (s.port port).linked && (s.port far).linked && s.farPort port = far && s.farPort far = port
/-- The other end of a link trains too. -/
def State.trainFar (s : State) (port : Nat) : State :=
  if s.joined port (s.farPort port) && (s.port (s.farPort port)).state = 2 then s.train (s.farPort port) else s
/-- PORT_RETRAIN: the link trains again at both ends, which keep their replay buffers; traffic waits (R405, R499). -/
def execPortRetrain (port : Nat) (s : State) : Host.Outcome State Fault Refusal := .next ((s.train port).trainFar port)
/-- A port is DOWN: the packets of the flits that its replay buffer holds are refused (R406). -/
def State.takeDown (s : State) (port : Nat) : State := s.portState port { s.port port with state := 0, replay := [], resend := none }
/-- The SEQ that a packet's last flit has once `n` is the oldest of its port. -/
def countFrom (port : Nat) (n : BitVec 11) (p : Packet) : Packet :=
  { p with link := p.link.map fun l => if l.1 = port then (l.1, l.2.1, l.2.2 - n) else l }
/-- A port comes UP with SEQ 0: what its peer has received in order is acknowledged, the rest of its replay buffer is numbered
from 0 and sent first (R499, R400). -/
def State.comeUp (s : State) (port far : Nat) (got : BitVec 11) (peer : Nat) : State :=
  let x := (s.port port).covered (got.toNat + 2047)
  let fs := x.replay.zipIdx.map fun e => renumbered e.1 e.2
  let t := s.portState port { x with
    state := 2, peer, linked := true, seqIn := 0, seqOut := BitVec.ofNat 11 fs.length, replay := fs, credits := [], owed := [],
    badMgmt := false, nakDue := false, resend := none, retries := 0 }
  let t : State := { t with agenda := t.agenda.map (countFrom port (x.seqOut - BitVec.ofNat 11 x.replay.length)) }
  (t.keepEvents fun e => !flitTo far e).sendFlits far fs
/-- PORT_TRAINING (R499): of a port in TRAIN; the same pod number at both ends goes back to DOWN; else the port is UP with SEQ 0, and with it the other
end of a link that trains again. -/
def execPortTraining (port peer : Nat) (s : State) : Host.Outcome State Fault Refusal :=
  let far := s.farPort port
  .next (if (s.port port).state ≠ 1 then s
    else if peer = port / 18 then s.takeDown port
    else if s.joined port far && (s.port far).state = 1 && (s.port port).peer = peer then
      (s.comeUp port far (s.port far).seqIn peer).comeUp far port (s.port port).seqIn (port / 18)
    else s.comeUp port far 0 peer)
/-- PORT_TRAINING_TIMEOUT: not UP within 50 ms, 9 × 10^7 cycles of the reference clock (R499). -/
def execPortTrainingTimeout (port : Nat) (s : State) : Host.Outcome State Fault Refusal :=
  .next (if (s.port port).state = 1 then s.takeDown port else s)

end Sys2Proof.Machine
end

