-- ==== Sys2Proof/Machine/Paired.lean ====
section
/-! DEFINITION. Paired execution (spec/22 R470-R474): the follower of each leader, fingerprints, the close of an interval, the roll
back. What a member does in a step is in Machine/Perform.lean. -/
namespace Sys2Proof.Machine

/-! ### Fingerprints (R471) -/

/-- One record of a fingerprint: a write of a register, its number, lane, value and mark (kind 0 gang register, 1 lane register, 2
predicates, 3 sidecar, 4 DRAW_COUNT); a local store, its offset, size and data; an entry of the gate. -/
inductive PairRecord where
  | write (kind number lane : Nat) (value : Word) (mark : Bool)
  | store (offset size : Nat) (data : Word)
  | effect (e : Instr)
  | message (m : Msg)
  | copy (queue : Nat) (e : CopyEntry)
  | matrix (e : MatrixEntry)
  deriving DecidableEq, Repr
end Sys2Proof.Machine
namespace Sys2Proof
/-- The bits of a record: the spec does not lay them out (log 26). -/
opaque Config.recordBits : Machine.PairRecord → List Bool
end Sys2Proof
namespace Sys2Proof.Machine
/-- CRC-64 under the polynomial of R471, one more bit. -/
def crc64Bit (c : Word) (b : Bool) : Word := (c <<< 1) ^^^ (if c.msb ≠ b then 0x42F0E1EBA9EA3693#64 else 0#64)
def crc64 (c : Word) (bs : List Bool) : Word := bs.foldl crc64Bit c
/-- A fingerprint with one more record. -/
def printed (c : Word) (r : PairRecord) : Word := crc64 c (Config.recordBits r)
/-- Writes of a lane's registers, predicates, sidecars and DRAW_COUNT: those that change a value or a mark. -/
def laneWrites (i : Nat) (l l' : Lane) : List PairRecord :=
  ((List.range 37).filterMap fun r =>
    if mget 0 l.regs r = mget 0 l'.regs r ∧ l.poison.getLsbD r = l'.poison.getLsbD r then none
    else some (.write 1 r i (mget 0 l'.regs r) (l'.poison.getLsbD r))) ++
  ((List.range 8).filterMap fun r =>
    if l.preds.getLsbD r = l'.preds.getLsbD r ∧ l.poison.getLsbD (48 + r) = l'.poison.getLsbD (48 + r) then none
    else some (.write 2 r i (flag (l'.preds.getLsbD r)) (l'.poison.getLsbD (48 + r)))) ++
  ((List.range 8).filterMap fun r =>
    if mget 0x7F7F#16 l.side r = mget 0x7F7F#16 l'.side r ∧ l.poison.getLsbD (40 + r) = l'.poison.getLsbD (40 + r) then none
    else some (.write 3 r i ((mget 0x7F7F#16 l'.side r).setWidth 64) (l'.poison.getLsbD (40 + r)))) ++
  (if l.draw = l'.draw then [] else [.write 4 0 i (l'.draw.setWidth 64) false])
/-- Writes of a gang's registers, and of the trap bank. -/
def gangWrites (m m' : List (Nat × Word)) (p p' : BitVec 16) : List PairRecord :=
  (List.range 16).filterMap fun r =>
    if mget 0 m r = mget 0 m' r ∧ p.getLsbD r = p'.getLsbD r then none else some (.write 0 r 0 (mget 0 m' r) (p'.getLsbD r))
def registerWrites (k k' : Core) : List PairRecord :=
  ((List.range 5).flatMap fun i =>
    let g := k.at i
    let g' := k'.at i
    gangWrites g.g g'.g g.gPoison g'.gPoison ++
      (g'.lanes.zipIdx.flatMap fun e => laneWrites e.2 ((g.lanes[e.2]?).getD {}) e.1)) ++
    gangWrites k.trapBank k'.trapBank k.bankPoison k'.bankPoison
/-- The 8-byte words in which two local memories differ. -/
def changedWords (a b : Memory) : List Nat :=
  (((a.bytes.filter fun e => b.byte e.1 ≠ e.2) ++ b.bytes.filter fun e => a.byte e.1 ≠ e.2).map fun e => e.1 / 8).eraseDups
def storeWrites (m m' : Memory) : List PairRecord :=
  (changedWords m m').map fun w => .store (8 * w) 8 (w64 (m'.load (8 * w) 8))
/-- What a core's release gate holds (R472): effects, messages, engine commands of the open interval. -/
def Core.gated (k : Core) : List PairRecord :=
  k.pair.gate.map PairRecord.effect ++
    ((k.outs.filter fun o => k.pair.mark ≤ o.msg.id).map fun o => PairRecord.message o.msg) ++
    (k.copyQs.flatMap fun e => (e.2.entries.filter fun x => k.pair.mark ≤ x.id).map (PairRecord.copy e.1)) ++
    ((k.matrixQ.entries.filter fun x => k.pair.mark ≤ x.id).map PairRecord.matrix)
/-- The records of what changed a member from `k` to `k'`; the local stores are those of its own instructions. -/
def pairRecords (own : Bool) (k k' : Core) : List PairRecord :=
  registerWrites k k' ++ (if own then storeWrites k.mem k'.mem else []) ++ k'.gated.filter fun r => !k.gated.contains r

/-! ### The follower (R470) -/

/-- The position of a leader's follower (spec/01 R17). -/
def State.followerPosition (s : State) (c : Nat) : Nat := ((s.place c).map fun p => positionAt (followerAt p)).getD 0
/-- The pair of a leader: until something acts on it both members are alike. The error bank of a follower is its part's. -/
def State.twin (s : State) (c : Nat) : Twin :=
  match mfind s.twins c with
  | some w => { w with follower := { w.follower with bank := (mget {} s.parts (s.followerPosition c)).bank } }
  | none =>
    let f := { s.core c with bank := (mget {} s.parts (s.followerPosition c)).bank }
    { follower := f, base := s.core c, otherBase := f }
def State.setTwin (s : State) (c : Nat) (w : Twin) : State := { s with twins := mput s.twins c w }
/-- A follower's new state: what belongs to its part, the error bank and RETIRED, is kept there. -/
def State.setFollower (s : State) (c : Nat) (f : Core) : State :=
  let w := s.twin c
  let x := mget {} s.parts (s.followerPosition c)
  let t := s.setTwin c { w with follower := f }
  { t with parts := mput t.parts (s.followerPosition c) { x with bank := f.bank, retired := x.retired + (f.retired - w.follower.retired) } }
/-- The core whose array an array is, among the cores `cs`. -/
def ownerOfArray (cs : List Nat) (a : ArrayRef) (addr : Nat) : Option Nat :=
  match a with
  | .localMem c | .codeStore c | .arrivals c | .buffer c | .gangRegs c => if cs.contains c then some c else none
  | .pool _ => if addr < 2 ^ 20 then none else let c := (addr - 2 ^ 20) / 64 / 256; if cs.contains c then some c else none
  | _ => none
/-- The cores of the context that lead a pair. -/
def State.pairsOn (s : State) : List Nat := if s.ctx.paired then (s.cores.filter fun e => e.2.pair.on).map (·.1) else []
/-- An error stands in an array of a follower from here on. -/
def State.strikeFollower (s : State) (c : Nat) (a : ArrayRef) (addr : Nat) (ue : Bool) : State :=
  let w := s.twin c
  s.setTwin c (match a with
    | .localMem _ => if localEnd ≤ addr then w else { w with follower := { w.follower with upsets := w.follower.upsets ++ [(addr, ue)] } }
    | _ => { w with upsets := w.upsets ++ [(a, addr, ue)] })
/-- The machine with the follower in its leader's place: its own arrays, and errors of its own in them. -/
def State.asFollower (s : State) (c : Nat) : State :=
  let w := s.twin c
  { s with cores := mput s.cores c w.follower, upsets := (s.upsets.filter fun u => (ownerOfArray [c] u.1 u.2.1).isNone) ++ w.upsets }
/-- Engine work: what an engine writes into a local memory passes from the leader to the follower. -/
def engineWork : Agent → Bool
  | .own (.copyUnit _ _) | .own (.copyCompletion _ _) | .own (.matrixKStep _) | .own (.matrixDrain _) => true
  | _ => false
/-- The close of an interval is no part of one. -/
def closesInterval : Agent → Bool
  | .own (.pairIntervalClose _) => true
  | _ => false
/-- The words that changed from one local memory to another, with their marks. -/
def wordsPassed (m m' : Memory) : List (Nat × Word × Bool) :=
  let marks := ((m.bad ++ m'.bad).map (·.1)).filter fun w => mget false m.bad w ≠ mget false m'.bad w
  (changedWords m m' ++ marks).eraseDups.map fun w => (w, w64 (m'.load (8 * w) 8), mget false m'.bad w)
def Memory.takeWords (m : Memory) (ws : List (Nat × Word × Bool)) : Memory :=
  ws.foldl (fun m e => (m.store (8 * e.1) 8 e.2.1 false).setBad e.1 e.2.2) m
/-- What the leader decides as a cycle passes, given to the follower: fences met, halts, ages, crossings, the timer, retention. -/
def Core.told (f k : Core) : Core :=
  { f with
    gangs := f.gangs.map fun (e : Nat × Gang) =>
      let g := k.at e.1
      (e.1, { e.2 with rel := g.rel, haltAsked := g.haltAsked, stepped := g.stepped, halted := g.halted, waiting := g.waiting }),
    channels := k.channels, bindings := k.bindings, timerPending := k.timerPending, preempting := k.preempting,
    stall := k.stall, barked := k.barked, lastAccess := k.lastAccess, retention := k.retention }
def State.tellFollower (s : State) (c : Nat) : State :=
  match mfind s.twins c with
  | some w => s.setTwin c { w with follower := w.follower.told (s.core c) }
  | none => s

/-! ### Intervals (R471-R474) -/

/-- An interval closes: the 1,024th instruction, a full gate, a full undo log, or an event that must close it (R471). -/
def Core.intervalEnds (k : Core) : Bool :=
  k.pair.on && (k.pair.closing || k.pair.rerun || k.pair.start + 1024 ≤ k.retired || 64 ≤ k.gated.length || 128 ≤ k.pair.undo)
/-- Nothing has been done since the last agreement: a pair event may take effect (R474). -/
def State.agreed (s : State) (c : Nat) : Bool := !(s.core c).pair.on || (s.twin c).log.isEmpty
/-- The open interval closes first. -/
def State.closeFirst (s : State) (c : Nat) : State := s.modCore c fun k => { k with pair := { k.pair with closing := true } }
/-- A pair event of a core (R474): a trap, a stop at level 2, the save of a fault frame. -/
def pairEvent (k k' : Core) : Bool :=
  let saved (x : Core) : Nat := x.faults.length + (x.faults.filter (·.written)).length
  k.priv < k'.priv || (k'.stopped && !k.stopped) || saved k < saved k'
/-- The open interval of a pair: its undo log, and whether a firing's start or end, a packed transfer or a pre-emption closes it; `before` is
the core before the step. -/
def Core.settlePair (k before : Core) : Core :=
  if !k.pair.on then k
  else
    let shape (x : Core) : List (Nat × Bool) := x.gangs.map fun g => (g.1, g.2.xfer.any (·.packed))
    { k with pair := { k.pair with undo := (changedWords k.mem k.pair.base).length,
                                   closing := k.pair.closing || shape k ≠ shape before || (k.preempting && !before.preempting) } }
/-- A message of the interval leaves the gate: its wait for a grant counts from here (Table 22-6). -/
def leavesGate (mark clock : Nat) (o : Outbound) : Outbound := if mark ≤ o.msg.id then { o with since := clock } else o
/-- A member at the beginning of an interval. -/
def Core.freshInterval (k : Core) (mark clock : Nat) : Core :=
  { (k.mapOuts (leavesGate k.pair.mark clock)) with
    pair := { on := true, start := k.retired, base := k.mem, mark, last := k.pair.last } }
/-- A member rolled back to its checkpoint (R473): what does not belong to the interval's results stays, CYCLE among it, and the counters but
0x0101. -/
def Core.rolledBack (k base : Core) : Core :=
  { base with
    counters := mset 0 k.counters 0x0101 (mget 0 base.counters 0x0101), bank := k.bank, inject := k.inject, upsets := k.upsets,
    stall := k.stall, barked := k.barked, retention := k.retention, lastAccess := k.lastAccess,
    pair := { base.pair with rerun := true, last := k.pair.last } }
/-- The injection of a mismatch that is armed (spec/12 R306). -/
def Core.mismatch (k : Core) : Option (Nat × Word) := k.inject.find? (·.1 = 3)
def Core.disarm (k : Core) : Core := { k with inject := k.inject.filter (·.1 ≠ 3) }
/-- The follower's fingerprint as the leader receives it: one that an injection disturbs is a free value (log 2). -/
def State.printReceived (s : State) (c : Nat) : Word :=
  if (s.core c).mismatch.isSome then Config.freeValue 11 s.clock else (s.twin c).otherPrint
/-- The fingerprints of an interval disagree (R471, R306). -/
def State.disagrees (s : State) (c : Nat) : Bool := (s.core c).mismatch.isSome || (s.twin c).print ≠ (s.twin c).otherPrint
/-- A disagreement recorded in the leader's bank and by the event recorder (R473). -/
def State.recordMismatch (s : State) (c : Nat) (ue : Bool) : State :=
  let k := s.core c
  let w := s.twin c
  let b := k.bank.add ue 7 0 (if ue then 0xFFFF else 0) k.pair.start.toNat (w.print ^^^ s.printReceived c) (s.cycleOf c)
  let t := s.setCore c { k with bank := b }
  let t := if k.bank.holds then t else t.recordCore c 0x02 b.words
  t.recordCore c 0x10 [k.pair.start, w.print, s.printReceived c, flag ue]
/-- Both members go back to S; what was done since is run again. -/
def State.rollBack (s : State) (c : Nat) : State :=
  let w := s.twin c
  let t := (s.setCore c ((s.core c).disarm.rolledBack w.base)).setFollower c (w.follower.disarm.rolledBack w.otherBase)
  t.setTwin c { t.twin c with again := w.log, print := BitVec.allOnes 64, otherPrint := BitVec.allOnes 64 }
/-- Both members go on from here: the leader's entries leave the gate in order, the follower's are discarded. -/
def State.agree (s : State) (c : Nat) : State :=
  let k := (s.core c).freshInterval s.nextTag s.clock
  let f := (s.twin c).follower.freshInterval s.nextTag s.clock
  let t := (s.setCore c k).setTwin c { follower := f, base := k, otherBase := f, upsets := (s.twin c).upsets }
  ((s.core c).pair.gate.foldl State.push t).wake
/-- PAIR_INTERVAL_CLOSE: the members exchange fingerprints. When they agree the gate's entries leave and the next interval begins; a
first disagreement at S rolls both back, and a second contains (R471, R473). -/
def execPairIntervalClose (core : Nat) (s : State) : Host.Outcome State Fault Refusal :=
  .next (if !(s.core core).pair.on || !(s.twin core).again.isEmpty then s
    else if !s.disagrees core then s.agree core
    else
      let ue := (s.core core).pair.rerun
      let t := s.recordMismatch core ue
      if ue then (t.modCore core Core.disarm).push (.containment (t.rectOf core) 2) else t.rollBack core)

end Sys2Proof.Machine
end

