-- ==== Sys2Proof/Machine/Reliability.lean ====
section
/-! DEFINITION. Scrubbing, retention, paired execution, containment, fatal errors, event recorders, throttling (spec/22,
spec/24 R505, R506). -/
namespace Sys2Proof.Machine

/-! ### Scrubbing (R463) and retention (R468, R469) -/

/-- SCRUB: a word of an awake array is read and corrected; what is found is recorded and does not contain. Errors come from
armed injections of local memory and from what stands in the arrays (log 4). -/
def execScrub (a : ArrayRef) (addr : Nat) (s : State) : Host.Outcome State Fault Refusal :=
  .next (if s.sleeps a then s
    else match a with
      | .localMem c => s.scanLocal c addr 8
      | _ => s.findUpsets 0 fun b x => b = a && x / 8 = addr / 8)
/-- The arrays that the scrubber reads. -/
def scrubbed : ArrayRef → Bool
  | .localMem _ | .codeStore _ | .slice _ | .stack _ => true
  | _ => false
/-- At the end of each 2^32 cycles the scrubber has met every word of every awake array (R463). -/
def State.scrubRound (s : State) (clock : Nat) : State :=
  if clock % 2 ^ 32 ≠ 2 ^ 32 - 1 then s
  else
    let t := s.cores.foldl (fun t e => if t.sleeps (.localMem e.1) then t else
      ((e.2.inject.filter fun x => (x.1 = 1 || x.1 = 2) && x.2.toNat < localEnd).foldl (fun t x => t.findError e.1 x) t)) s
    t.findUpsets 0 fun a _ => scrubbed a && !s.sleeps a
/-- RETIDLE of the running partition: 65,536 unless the supervisor has set it; 0 disables retention. -/
def State.retIdle (s : State) : Nat := ((mfind s.sup.partitions s.ctx.part.toNat).map (·.retIdle)).getD 65536
/-- The conditions of R468 on a core, but for the time. -/
def Core.quietMemory (k : Core) : Bool :=
  k.gangs.isEmpty && k.arrivals.isEmpty && k.copyQs.all (fun e => e.2.entries.isEmpty) && k.matrixQ.entries.isEmpty
/-- A core's memory may enter retention. -/
def State.coreSleeps (s : State) (c : Nat) : Bool :=
  let k := s.core c
  k.retention = .awake && s.retIdle ≠ 0 && k.quietMemory && k.lastAccess + s.retIdle ≤ s.clock
/-- RETIDLE of a slice: the largest of the partitions that have ways of it, 0 when one of them is 0; without any, that of the running
partition. -/
def State.sliceIdle (s : State) (n : Nat) : Nat :=
  let vs := (s.sup.partitions.filter fun e => e.2.ways.any fun w => w.1 / 16 = n).map (·.2.retIdle)
  if vs.isEmpty then s.retIdle else if vs.contains 0 then 0 else vs.foldl max 0
/-- Work waits in a slice: records in its change queue, messages of its own, requests that stand at it, watches. -/
def State.sliceBusy (s : State) (n : Nat) : Bool :=
  !(mget [] s.changes n).isEmpty || s.sliceOut.any (fun o => o.msg.src = .slice n) || s.watches.any (fun w => sliceOf w.addr = n) ||
    s.agenda.any fun p => match p.event with
      | .sliceOperation r | .timelineWrite r => (s.opSlices r.src r.op).contains n
      | .chainedPacket r => r.home.isNone && (s.opSlices r.src r.op).contains n
      | _ => false
/-- When a slice was last accessed, or last had work waiting: since the package was reset where never. -/
def State.sliceSince (s : State) (n : Nat) : Retention × Nat := mget (.awake, s.epoch) s.sliceRet n
/-- A slice may enter retention: it is awake, nothing waits in it, and neither has changed for RETIDLE cycles. -/
def State.sliceSleeps (s : State) (n : Nat) : Bool :=
  let x := s.sliceSince n
  x.1 = .awake && s.sliceIdle n ≠ 0 && x.2 + s.sliceIdle n ≤ s.clock && !s.sliceBusy n
/-- The slices that are in use: all of each package that has booted. -/
def State.slicesOf (s : State) : List Nat := s.sup.packages.flatMap fun p => (List.range 256).map (256 * p + ·)
/-- The time of slices in which work waits counts from here; those that may sleep enter retention (R468). -/
def State.settleSlices (s : State) : State :=
  if s.sup.packages.isEmpty then s
  else
    let busy := s.slicesOf.filter s.sliceBusy
    let quiet := s.slicesOf.filter s.sliceSleeps
    let t : State := { s with sliceRet := busy.foldl (fun m n => mput m n (.awake, s.clock)) s.sliceRet }
    { t with sliceRet := quiet.foldl (fun m n => mput m n (.asleep, s.clock)) t.sliceRet }
/-- RETENTION_ENTRY: values, full/empty states and poison stay as they are. -/
def execRetentionEntry (a : ArrayRef) (s : State) : Host.Outcome State Fault Refusal :=
  .next (match a with
    | .localMem c => if s.coreSleeps c then s.modCore c fun k => { k with retention := .asleep } else s
    | .slice n => if s.sliceSleeps n then { s with sliceRet := mput s.sliceRet n (.asleep, s.clock) } else s
    | _ => s)
/-- RETENTION_EXIT: the array is awake, every word as it was; errors that stand in it are recorded with CODE 1 (R469). -/
def execRetentionExit (a : ArrayRef) (s : State) : Host.Outcome State Fault Refusal :=
  .next (match a with
    | .localMem c => (s.rouseArray a).touchCore c
    | .slice n => (s.rouseArray a).touchSlice n
    | _ => s)

/-! ### Containment (R475-R477) -/

/-- The cores of the context inside a rectangle. -/
def State.inside (s : State) (rect : Nat) : List Nat :=
  if s.ctx.saved then [] else (s.ctx.cores.map (·.1)).filter fun c => s.rectOf c = rect
/-- What becomes of a packet in flight when the cores `cs` are contained: what they would receive back is lost, and so is
traffic among them; requests from outside are refused when they come. -/
def staysOutside (cs : List Nat) : Instr → Bool
  | .loadReply c _ _ | .forwardedReply c _ _ _ | .storeAcknowledgement c _ | .timelineRelease c _ | .quiescenceWatch c _ _
  | .barrierCompletion c _ | .frameRelease c _ | .invalidationAck c _ | .directoryInvalidationAck c _ | .translationWalk c _ => !cs.contains c
  | .grant q | .revocation q | .refusal q => match q.src with
    | .core c => !cs.contains c
    | _ => true
  | .grantRequest q => (match q.src with
    | .core c => !cs.contains c
    | _ => true)
  | .remoteAccess r => (match r.src, r.home with
    | .core c, some d => !(cs.contains c && cs.contains d)
    | _, _ => true)
  | .carryArrival m | .dataMessageArrival m => (match m.src with
    | .core c => !(cs.contains c && cs.contains m.dst)
    | _ => true)
  | .chainedPacket r => (match r.src, r.home with
    | .core c, some d => !(cs.contains c && cs.contains d)
    | _, _ => true)
  | .ringWindowPush d _ _ (some (c, _)) | .matrixWindowPush d _ _ ⟨some (c, _), none⟩ => !(cs.contains c && cs.contains d)
  | .matrixWindowPush c _ _ ⟨_, some _⟩ => !cs.contains c
  | _ => true
/-- A grant on a channel inside lapses; its message waits where it is (R144). -/
def lapse (cs : List Nat) (o : Outbound) : Outbound := if cs.contains o.msg.dst && !o.sent then { o with granted := false } else o
/-- Standing grants on channels inside lapse. -/
def holdOutside (cs : List Nat) (hs : List HeldGrant) : List HeldGrant := hs.filter fun h => !cs.contains h.ask.dst
/-- A core inside is stopped and its traffic discarded; its error bank and what it reports stay. -/
def Core.contained (k : Core) : Core :=
  { k with stopped := true, gangs := [], arrivals := [], granted := [], asks := [], sendReq := [], sendRep := [], ready := [],
           outbox := [], records := [], loads := [], forwards := [], copyQs := [], matrixQ := {}, faults := [], grants := [],
           causes := [], timerPending := false, timer := 0, idle := none, usc := 0, pair := {}, bindings := [] }
/-- A core outside, of whose grants and messages those for the inside lapse. -/
def Core.besides (k : Core) (cs : List Nat) : Core :=
  { k.mapOuts (lapse cs) with grants := holdOutside cs k.grants,
                              granted := k.granted.filter fun g => match g.ask.src with
                                | .core c => !cs.contains c
                                | _ => true,
                              asks := k.asks.filter fun q => match q.src with
                                | .core c => !cs.contains c
                                | _ => true }
/-- The messages that a core loses as it is contained: arrived, or not sent. -/
def Core.messagesInside (k : Core) : List Msg := k.arrivals.map (·.msg) ++ (k.outbox.filter fun o => !o.sent).map (·.msg)
/-- The change records that fault frames of the cores `cs` hold as these are contained (spec/20 R449): those whose return goes on
outside, and those that are lost; `back` are the frames whose return is lost, wherever they were saved. -/
def State.holdsInside (s : State) (cs back : List Nat) : List (Nat × Nat × BitVec 32) × List (Nat × BitVec 32) :=
  let saved := cs.flatMap fun c => (s.core c).faults.filterMap fun f => f.gang.held.map fun h => (f.returned, s.frameAt c f.frame, h)
  let rest := saved.filter fun e => !back.contains e.2.1
  ((rest.filter (·.1)).map (·.2), back.filterMap s.frameHold ++ (rest.filter fun e => !e.1).map fun e => e.2.2)
/-- Change records held by firings or waiting inside. -/
def Core.changesInside (k : Core) : List (Nat × BitVec 32) :=
  (k.gangs.filterMap fun e => e.2.held) ++ k.arrivals.filterMap fun a => match a.msg.body with
    | .change d r => some (d, r.wave)
    | _ => none
/-- The strand that a message carries. -/
def strandIn (m : Msg) : Option (BitVec 24) :=
  match m.body with
  | .carry x => some x.strand
  | _ => none
/-- The strands that stand inside: lanes, arrived carry messages and those not yet sent, lanes being saved to a frame. -/
def Core.strandsInside (k : Core) : List (BitVec 24) :=
  (k.gangs.flatMap fun e => (e.2.lanes.filter fun l => !l.packed).map (·.strand)) ++ k.arrivals.filterMap (strandIn ·.msg) ++
    (k.outbox.filter fun o => !o.sent).filterMap (strandIn ·.msg) ++
    (k.faults.filter fun f => !f.written).flatMap fun f => f.lanes.map (·.strand)
/-- The clusters of a rectangle; those of a context's own are the ones of its package that no other rectangle holds. -/
def State.clustersIn (s : State) (rect : Nat) : List Nat :=
  match s.sup.rects.find? (·.1 = rect) with
  | some r => r.2
  | none => (areaClusters (s.ctx.rects.filter fun r => s.sup.ownRect r.pkg = rect)).filter fun u => !s.sup.rects.any fun r => r.2.contains u
/-- The rectangle of a context on a package takes its place among the numbered ones. -/
def State.numberRect (s : State) (rect : Nat) : State :=
  if s.sup.rects.any (·.1 = rect) then s else { s with sup := { s.sup with rects := s.sup.rects ++ [(rect, s.clustersIn rect)] } }
/-- The bounds of some clusters: least and greatest row and column, 16 bits each. -/
def boundsOf (us : List Nat) : Word :=
  let row (u : Nat) : Nat := u % 3200 / 40 * 2
  let col (u : Nat) : Nat := u % 40 * 4
  let lo (f : Nat → Nat) : Nat := (leastBy id (us.map f)).getD 0
  let hi (f : Nat → Nat) : Nat := (us.map f).foldl max 0
  w64 (lo row + (hi row + 1) * 2 ^ 16 + lo col * 2 ^ 32 + (hi col + 3) * 2 ^ 48)
/-- A packet that goes on when the cores `cs` are contained: none that still waits inside to leave (R475). -/
def goesOn (cs : List Nat) (p : Packet) : Bool :=
  staysOutside cs p.event && !(p.stamp.isNone && (payerOf p.event).any fun src => cs.any fun c => src = .core c)
/-- The strand of a packet. -/
def strandOf (p : Packet) : Option (BitVec 24) :=
  match p.event with
  | .carryArrival m => strandIn m
  | _ => none
/-- The pre-emption under way is abandoned: its save areas are marked invalid, the supervisor is told (Table 22-6). -/
def State.abandonSave (s : State) : State :=
  if s.cores.any (·.2.preempting) then
    let t := s.writeSeen s.ctx.part.toNat s.ctx.clusterSave (bytesOf 0 8)
    let t := { t with cores := t.cores.map fun (e : Nat × Core) => (e.1, { e.2 with preempting := false }) }
    ({ t with ctx := { t.ctx with savedValid := false } } : State).tell 5 0 (t.ctx.id.setWidth 64)
  else s
/-- The routers of the cores of some clusters. -/
def routersIn (us : List Nat) (r : Nat) : Bool := us.any fun u => (clusterPositions u).contains r
/-- Fence, stop and discard, notice; a rectangle already contained absorbs it (R477). What the supervisor is told: 4 and the
notice word. Halted gangs inside are reported to the debugger (Table 22-6). -/
def State.contain (s : State) (rect trigger : Nat) : State :=
  let cs := s.inside rect
  if s.sup.fences.any (·.1 = rect) then s
    else
      let s := s.abandonSave.numberRect rect
      let s := cs.foldl (fun t c => ((t.core c).gangs.filter fun e => e.2.halted).foldl (fun t e => t.tellHalt c e.1) t) s
      let back := ((cs.flatMap fun c => (s.core c).messagesInside) ++ (s.agenda.filter fun p => !goesOn cs p).filterMap fun p => match p.event with
        | .carryArrival m => some m
        | _ => none).filterMap returnedFrame
      let holds := s.holdsInside cs back
      let lost := (cs.flatMap fun c => (s.core c).changesInside) ++ holds.2
      let strands := (cs.flatMap fun c => (s.core c).strandsInside) ++ (s.agenda.filter fun p => !goesOn cs p).filterMap strandOf
      let w0 := w64 (0x43 + s.ctx.id.toNat * 2 ^ 16 + rect * 2 ^ 32 + trigger * 2 ^ 48)
      let us := (s.clustersIn rect ++ cs.map s.clusterOf).eraseDups
      let dies := (us.map dieOfCluster).eraseDups
      let bounds := boundsOf us
      let t := { s with
        agenda := s.agenda.filter (goesOn cs),
        twins := s.twins.filter fun e => !cs.contains e.1,
        cores := s.cores.map fun (e : Nat × Core) => (e.1, if cs.contains e.1 then e.2.contained else e.2.besides cs),
        watches := s.watches.filter fun w => !cs.contains w.core,
        trees := s.trees.filter fun x => !routersIn us x.at',
        residuals := s.residuals.filter fun e => !routersIn us e.2.at',
        sliceGrants := holdOutside cs s.sliceGrants,
        sliceOut := s.sliceOut.map (lapse cs),
        changes := s.changes.map fun (e : Nat × List QueuedChange) =>
          (e.1, e.2.map fun (q : QueuedChange) => if cs.contains q.dst then { q with granted := false } else q),
        nodes := (s.nodes.map fun (b : BarrierNode) => { b with members := b.members.filter fun c => !cs.contains c }).filter
          fun (b : BarrierNode) => !b.members.isEmpty,
        sup := { s.sup with fences := s.sup.fences ++ [(rect, trigger)] } }
      let t := back.foldl State.dropFrameHold t
      let x := { t.ctx with frameHolds := t.ctx.frameHolds ++ holds.1, derrickGrants := holdOutside cs t.ctx.derrickGrants, derrickOut := t.ctx.derrickOut.map (lapse cs) }
      let t := { t with ctx := { x with ended := x.ended || x.cores.all fun e => cs.contains e.1 } }
      let t := strands.foldl (fun t n => t.recordRefused (.core (cs.headD 0)) 2 (n.setWidth 64) w0) t
      let t := dies.foldl (fun t d => (t.record d 0x03 8 0 [w0, bounds]).freeze d 1) t
      let t := lost.foldl (fun t e => t.push (.changeRecordLost e.1 e.2)) t
      (((t.tell 4 0 w0).push (.noticePost ⟨.host, ⟨w0, 0, 0, 0⟩, false⟩)).push (.containmentReset rect)).wake
/-- CONTAINMENT. -/
def execContainment (rect trigger : Nat) (s : State) : Host.Outcome State Fault Refusal := .next (s.contain rect trigger)
/-- An array of one of some cores or clusters. -/
def arrayWithin (cs us : List Nat) : ArrayRef → Bool
  | .localMem c | .codeStore c | .arrivals c | .buffer c | .gangRegs c => cs.contains c
  | .clusterBuffer n | .pool n => us.contains n
  | _ => false
/-- The cores inside take their reset values, of the context's registers too, their arrays are zeroed and awake, the matrix units
and pools are reset, the error banks empty (R10, R475). -/
def State.resetInside (s : State) (rect : Nat) : State :=
  let cs := s.inside rect
  let us := (s.clustersIn rect ++ cs.map s.clusterOf).eraseDups
  let fresh : Core := { cycle := 0 - s.sinceReset, lastAccess := s.clock, member := false }
  let here := (cs.filterMap s.place).map positionAt
  { s with cores := s.cores.map fun (e : Nat × Core) => (e.1, if cs.contains e.1 then fresh else e.2),
           twins := s.twins.filter fun e => !cs.contains e.1,
           clusters := s.clusters.map fun (e : Nat × Cluster) => (e.1, if us.contains e.1 then {} else e.2),
           parts := ((us.flatMap clusterPositions).filter fun p => !here.contains p).foldl (fun m p => mput m p fresh.physical) s.parts,
           upsets := s.upsets.filter fun u => !arrayWithin cs us u.1 }
/-- CONTAINMENT_RESET. -/
def execContainmentReset (rect : Nat) (s : State) : Host.Outcome State Fault Refusal :=
  .next (if s.sup.fences.any (·.1 = rect) then s.resetInside rect else s)

/-! ### Fatal errors and recorders (R478) -/

/-- A fatal error: recorded, every recorder of its package freezes, every core of the package stops, and the host of a package, of
which the model has that of package 0, is told by vector 1; the first of a package stands. -/
def State.fatal (s : State) (x : FatalAt) (array addr : Nat) : State :=
  let pkg := x.die / 4
  if s.sup.stopped.contains pkg then s
  else
    let t := s.record x.die 0x11 x.source x.index [w64 array, w64 addr]
    let t := (List.range 4).foldl (fun t i => t.freeze (4 * pkg + i) 3) t
    let t := { t with sup := { t.sup with stopped := t.sup.stopped ++ [pkg] } }
    if pkg = 0 then { t with host := { t.host with fatal := true, fcause := x.cause, vectors := t.host.vectors ||| 2 } } else t
/-- FATAL_ERROR: an uncorrectable error in a system core that runs the supervisor (1), a derrick (2), a recorder (3). -/
def execFatalError (cause : FatalAt) (array addr : Nat) (s : State) : Host.Outcome State Fault Refusal := .next (s.fatal cause array addr)
/-- THERMAL_TRIP: a die at 115 °C or more: a fatal error of its package with FCAUSE 4 (R506). SOURCE of its record is the supervisor's
(DESIGN CHOICE, log 29). -/
def execThermalTrip (die : Nat) (s : State) : Host.Outcome State Fault Refusal :=
  let t := s.fatal ⟨4, 8, 0, die⟩ 0 die
  .next { t with sup := { t.sup with tripped := t.sup.tripped ++ [die / 4] } }
/-- RECORDER_FREEZE: on a supervisor request. -/
def execRecorderFreeze (die : Nat) (s : State) : Host.Outcome State Fault Refusal := .next (s.freeze die 4)
/-- RECORDER_UNFREEZE: writing goes on at NEXT; MISSED is cleared with FROZEN (Table 22-3). -/
def execRecorderUnfreeze (die : Nat) (s : State) : Host.Outcome State Fault Refusal :=
  let r : Recorder := mget {} s.recorders die
  .next { s with recorders := mput s.recorders die { r with frozen := false, cause := 0, missed := 0 } }
/-- POWER_LOSS: all state of the package ends, the recorders with it; time goes on, and CYCLE counts from here. -/
def execPowerLoss (s : State) : Host.Outcome State Fault Refusal :=
  .next { State.reset with clock := s.clock, epoch := s.clock, nextTag := s.nextTag }

/-! ### Throttling (spec/24 R505) -/

/-- The die of a block: clusters below 2^20, slices from 2^20, stacks from 2^21, ports from 2^22. -/
def dieOfBlock (b : Nat) : Nat :=
  if b < 2 ^ 20 then dieOfCluster b
  else if b < 2 ^ 21 then (b - 2 ^ 20) / 64
  else if b < 2 ^ 22 then (b - 2 ^ 21) / 8 * 4 + (b - 2 ^ 21) % 8 / 2
  else (b - 2 ^ 22) / 18 * 4 + b % 4
/-- The KIND and INDEX that name a block in an event record. -/
def blockSource (b : Nat) : Nat × Nat :=
  if b < 2 ^ 20 then (5, b % 3200)
  else if b < 2 ^ 21 then (3, (b - 2 ^ 20) % 256)
  else if b < 2 ^ 22 then (4, (b - 2 ^ 21) % 8)
  else (6, (b - 2 ^ 22) % 18)
/-- The level that a block at level `l` takes: temperature, in units of 1/8 °C (spec/16 Table 16-4), and draw are readings
(log 4); TLIMIT is in °C. -/
def nextLevel (l temp draw tlimit cap : Nat) : Nat :=
  if 8 * tlimit < temp ∨ cap < draw then min 7 (l + 1)
  else if temp + 40 ≤ 8 * tlimit ∧ draw * 100 ≤ cap * 95 then l - 1
  else l
/-- The period in which a block may change its level once. -/
def throttlePeriod (clock : Nat) : Nat := clock / 1800000
/-- THROTTLE_UPDATE: once per 1.8 × 10^6 reference cycles; a change is recorded. -/
def execThrottleUpdate (block : Nat) (s : State) : Host.Outcome State Fault Refusal :=
  let die := dieOfBlock block
  let l := mget 0 s.sup.throttle block
  let n := nextLevel l (Config.sense (256 + die) s.clock) (Config.sense (400 + die / 4) s.clock) s.sup.tlimit s.sup.cap
  let src := blockSource block
  .next (if n = l then s
    else
      let x := { s.sup with throttle := mset 0 s.sup.throttle block n, looked := mset 0 s.sup.looked block (throttlePeriod s.clock) }
      ({ s with sup := x } : State).record die 0x06 src.1 src.2 [w64 l, w64 n])

end Sys2Proof.Machine
end

