-- ==== Sys2Proof/Machine/SaveArea.lean ====
section
/-! DEFINITION. The save areas of a context (spec/16 R379-R381): what a save writes to them and what a restore reads back. What
Tables 16-5 and 16-6 name without a byte layout stands in an order of the model's own, and what they do not name, or have no bytes
for, a saved core keeps beside them (log 22). -/
namespace Sys2Proof.Machine

/-! ### The save areas (Tables 16-5, 16-6) -/

/-- Full/empty states: the word at offset 8n is bit n mod 8 of byte n div 8. -/
def Core.fullImage (k : Core) : List (Nat × List Byte) :=
  ((k.full.filter (·.2)).map fun e => e.1 / 8).eraseDups.map fun b =>
    (b, bytesOf ((List.range 8).foldl (fun n i => n + bnat (mget false k.full (8 * b + i)) * 2 ^ i) 0) 1)
/-- A barrier register (Table 10-7). -/
def Barrier.image (b : Barrier) : List Byte :=
  bytesOf (b.scope * 2 ^ 61 + b.count * 2 ^ 40 + b.arrived * 2 ^ 24 + b.gen) 8 ++ bytesOf b.pending 8
/-- A stream register: 16 elements, count, binding (1 and the queue in [15:8], or 0). -/
def Stream.image (x : Stream) : List Byte :=
  ((List.range 16).flatMap fun i => bytesOf ((x.elems.getD i ⟨0, false⟩).val.toNat) 8) ++ bytesOf x.elems.length 8 ++
    bytesOf ((x.bound.map fun q => 1 + 256 * q).getD 0) 8 ++ List.replicate 48 0
/-- The registers that READCORE returns, in their places of the save area: maps, rings, barriers, streams. -/
def Core.engineParts (k : Core) : List (Nat × List Byte) :=
  (k.tmaps.map fun e => (0x18C00 + 64 * e.1, e.2.flatMap fun w => bytesOf w.toNat 8)) ++
    (k.rings.map fun e => (0x18E00 + 16 * e.1, bytesOf e.2.word0.toNat 8 ++ bytesOf e.2.word1.toNat 8)) ++
    (k.barriers.map fun e => (0x18E80 + 16 * e.1, e.2.image)) ++
    (k.streams.map fun e => (0x18F00 + 0xC0 * e.1, e.2.image))
/-- The words of an arrival, as its slots hold them (Tables 6-1, 6-8, 20-1): a carry message with its routine's carry set. -/
def State.arrivalImage (s : State) (a : Arrival) : List Byte :=
  match a.msg.body with
  | .carry m => carryImage m (s.carryOf (routineOf m.code))
  | .data ws => ws.flatMap fun d => bytesOf d.val.toNat 8
  | .change d r => bytesOf d 8 ++ bytesOf r.key.toNat 8 ++ bytesOf r.valLo.toNat 8 ++ bytesOf r.valHi.toNat 8 ++ bytesOf r.mult.toNat 4 ++ bytesOf r.wave.toNat 4
/-- Arrivals with the slots they stand in: in order of arrival, each taking its slots from the lowest. -/
def slotted : Nat → List Arrival → List (Nat × Arrival)
  | _, [] => []
  | n, a :: as => (n, a) :: slotted (n + a.msg.slots) as
/-- What an arrival is: 0 a carry message, 1 a data message of some words, 2 a change record. -/
def bodyTag : Body → Nat × Nat
  | .carry _ => (0, 0)
  | .data ws => (1, ws.length)
  | .change _ _ => (2, 0)
/-- What READARRIVALS returns: the arrival buffer, 64 bytes a slot, and the slot map, 8 bytes a slot: channel, state
(0 free, 1 granted, 2 occupied), order of arrival, what stands there. -/
def State.arrivalParts (s : State) (c : Nat) : List (Nat × List Byte) :=
  let xs := slotted 0 (s.core c).arrivals
  (xs.map fun e => (0x1C000 + 64 * e.1, (s.arrivalImage e.2).take (64 * e.2.msg.slots))) ++
    (xs.zipIdx.flatMap fun e => (List.range e.1.2.msg.slots).map fun j =>
      (0x1D000 + 8 * (e.1.1 + j), bytesOf e.1.2.msg.ch 1 ++ bytesOf 2 1 ++ bytesOf e.2 2 ++ bytesOf (bodyTag e.1.2.msg.body).1 1 ++
        bytesOf (bodyTag e.1.2.msg.body).2 1 ++ bytesOf 0 2))
/-- The poisoned words of a message in its slots. -/
def State.bodyMarks (s : State) : Body → List Nat
  | .carry m => carryMarks m (s.carryOf (routineOf m.code))
  | .data ws => (ws.zipIdx.filter (·.1.poison)).map (8 * ·.2)
  | .change _ _ => []
/-- A gang header: `g0`-`g15`, Q0-Q2, GANG_SIZE, LANE_GRANT, channel, level. -/
def Gang.header (g : Gang) (level : Nat) : List Byte :=
  ((List.range 16).flatMap fun n => bytesOf (mget 0 g.g n).toNat 8) ++ bytesOf g.q0.toNat 4 ++ bytesOf g.q1.toNat 4 ++
    bytesOf g.q2.toNat 4 ++ bytesOf g.lanes.length 1 ++ bytesOf g.grant 1 ++ bytesOf g.channel 1 ++ bytesOf level 1
/-- A pending cause with where it stands: its slot (5: of no gang, 6: the timer), and whether a transfer holds it: 1 one of the gang,
2 one of the trap routine (spec/12 R508). -/
structure Standing where
  slot : Nat
  held : Nat
  cause : Cause
def Standing.image (x : Standing) : List Byte :=
  bytesOf x.cause.code 1 ++ bytesOf x.cause.sub 1 ++ bytesOf x.slot 1 ++ bytesOf x.held 1 ++ bytesOf x.cause.lanes.toNat 4 ++ bytesOf x.cause.info.toNat 8
/-- Every cause that is pending on a core (spec/12 R318). -/
def Core.causesHeld (k : Core) : List Standing :=
  (k.gangs.flatMap fun e => e.2.causes.map (⟨e.1, 0, ·⟩) ++ ((e.2.xfer.map (·.held)).getD []).map (⟨e.1, 1, ·⟩) ++
    ((e.2.xferIn.map (·.held)).getD []).map (⟨e.1, 2, ·⟩)) ++ k.causes.map (⟨5, 0, ·⟩) ++ if k.timerPending then [⟨6, 0, ⟨0x12, 0, 0, 0⟩⟩] else []
/-- A counter binding: the selector, the channel with what is armed and remembered, the threshold, the remembered value. -/
def Binding.image (b : Binding) : List Byte :=
  bytesOf b.sel 3 ++ bytesOf (b.ch % 64 + 64 * bnat b.armed + 128 * bnat b.remembered.isSome) 1 ++
    bytesOf b.threshold.toNat 8 ++ bytesOf (b.remembered.getD 0).toNat 8
/-- The counters of Table 16-4 that are not kept elsewhere. -/
def savedCounters : List Nat := [0x0101, 0x0102, 0x0104, 0x0105]
/-- The row of the trap bank, from 0x1_8600 on: the bank, the registers of the trap, the selector and issue pointers, the counters,
the bindings, the armed injections by their kind, the pending causes with the timer's. Eight causes have room in it. -/
def State.trapRow (s : State) (c : Nat) : List (Nat × List Byte) :=
  let k := s.core c
  [(0x18600, (List.range 16).flatMap fun n => bytesOf (mget 0 k.trapBank n).toNat 8),
   (0x18680, bytesOf k.priv.toNat 4 ++ bytesOf k.xpc0.toNat 4 ++ bytesOf k.xpc1.toNat 4 ++ bytesOf k.xpc2.toNat 4 ++
     bytesOf k.trapCause.toNat 4 ++ bytesOf k.trapLanes.toNat 4 ++ bytesOf (BitVec.ofNat 32 (s.timerOf c)).toNat 4 ++
     bytesOf k.frames.toNat 2 ++ bytesOf k.lastFired 1 ++ bytesOf k.lastSlot 1 ++ bytesOf k.trapInfo.toNat 8),
   (0x186A8, (savedCounters.flatMap fun n => bytesOf (mget 0 k.counters n).toNat 8) ++ bytesOf k.stall 8),
   (0x186D0, (k.bindings.take 8).flatMap Binding.image),
   (0x18770, (List.range 4).flatMap fun i => bytesOf (match mfind k.inject i with
      | some v => 2 ^ 31 + v.toNat % 2 ^ 31
      | none => 0) 4),
   (0x18780, (k.causesHeld.take 8).flatMap Standing.image)]
/-- An entry of a copy queue in 64 bytes, with REMAIN. -/
def CopyEntry.image (e : CopyEntry) : List Byte :=
  match e.job with
  | .copy src dst aoff boff bind obj arr total =>
    bytesOf 1 1 ++ bytesOf bind 1 ++ bytesOf obj 1 ++ bytesOf (bnat arr) 1 ++ bytesOf 0 4 ++ bytesOf (total - e.done) 8 ++ bytesOf total 8 ++
      bytesOf aoff.toNat 8 ++ bytesOf boff.toNat 8 ++ bytesOf (src.headD 0).toNat 8 ++ bytesOf (dst.headD 0).toNat 8 ++ bytesOf 0 8
  | .fence waits => bytesOf 2 1 ++ bytesOf 0 7 ++ bytesOf waits.length 8 ++ List.replicate 48 0
/-- The bytes of a waiting data message. -/
def Outbound.image (o : Outbound) (n : Nat) : List Byte :=
  match o.msg.body with
  | .data ws => (ws.flatMap fun d => bytesOf d.val.toNat 8).take n
  | _ => []
/-- The queues of the engines and of messages: copies, matrix commands, the format context with MPROG and the queue's status, the
send queues, the ready queue. -/
def State.queueParts (s : State) (c : Nat) : List (Nat × List Byte) :=
  let k := s.core c
  let x : FormatCtx := mget {} (s.cluster (s.clusterOf c)).contexts c
  (k.copyQs.flatMap fun q => (q.2.entries.take 16).zipIdx.map fun e => (0x19200 + 0x400 * q.1 + 64 * e.2, e.1.image)) ++
    ((k.matrixQ.entries.take 8).zipIdx.map fun e => (0x1A200 + 64 * e.2, e.1.image.take 64)) ++
    [(0x1A400, bytesOf x.fmtA 1 ++ bytesOf x.fmtB 1 ++ bytesOf (bnat x.rsr) 2 ++ bytesOf x.mdraw.toNat 4 ++ bytesOf k.mprog.toNat 8 ++
      bytesOf k.matrixStatus.toNat 8)] ++
    ((k.sendReq.take 8).zipIdx.map fun e => (0x1AD00 + 64 * e.2, e.1.image 64)) ++
    ((k.sendRep.take 8).zipIdx.map fun e => (0x1AF00 + 64 * e.2, e.1.image 64)) ++
    ((k.ready.take 16).zipIdx.map fun e => (0x1B100 + 32 * e.2, e.1.image 32))
/-- The laid-out parts of a core's area, after its local memory. -/
def State.areaParts (s : State) (c : Nat) : List (Nat × List Byte) :=
  let k := s.core c
  (k.fullImage.map fun e => (0x18000 + e.1, e.2)) ++
    s.trapRow c ++
    ((List.range 64).map fun ch => (0x18800 + 16 * ch, bytesOf (k.channel ch).word0.toNat 8 ++ bytesOf (k.channelStatus ch).toNat 8)) ++
    k.engineParts ++ s.queueParts c ++
    ((List.range 64).map fun ch => (0x1A440 + 4 * ch, bytesOf (k.channel ch).age 4)) ++
    (k.gangs.map fun e => (0x1A800 + 0x100 * e.1, e.2.header (match k.owner with
      | .gang i => bnat (e.1 = i)
      | .system => bnat (e.1 = 4)
      | .none => 0))) ++
    s.arrivalParts c ++
    (match mfind k.gangs 4 with
      | some g => [(0x1D200, ((g.lanes.headD {}).image).take 0x180)]
      | none => [])
/-- The offsets in a core's area of the words that carry poison (spec/22 R465): of its local memory, the trap bank, streams, copy entries,
messages, gang registers, arrivals, the lane of the system slot. -/
def State.areaMarks (s : State) (c : Nat) : List Nat :=
  let k := s.core c
  let bits {n : Nat} (p : BitVec n) : List Nat := (List.range 16).filter fun i => p.getLsbD i
  let queue (base size : Nat) (os : List Outbound) : List Nat :=
    os.zipIdx.flatMap fun e => ((s.bodyMarks e.1.msg.body).filter (· < size)).map (base + size * e.2 + ·)
  ((k.mem.bad.filter (·.2)).map (8 * ·.1)) ++ (bits k.bankPoison).map (0x18600 + 8 * ·) ++
    (k.streams.flatMap fun e => (e.2.elems.zipIdx.filter (·.1.poison)).map fun x => 0x18F00 + 0xC0 * e.1 + 8 * x.2) ++
    (k.copyQs.flatMap fun q => ((q.2.entries.take 16).zipIdx.filter (·.1.bad)).map fun e => 0x19200 + 0x400 * q.1 + 64 * e.2) ++
    queue 0x1AD00 64 (k.sendReq.take 8) ++ queue 0x1AF00 64 (k.sendRep.take 8) ++ queue 0x1B100 32 (k.ready.take 16) ++
    (k.gangs.flatMap fun e => (bits e.2.gPoison).map (0x1A800 + 0x100 * e.1 + 8 * ·)) ++
    ((slotted 0 k.arrivals).flatMap fun e => (s.bodyMarks e.2.msg.body).map (0x1C000 + 64 * e.1 + ·)) ++
    (match mfind k.gangs 4 with
      | some g => ((g.lanes.headD {}).badWords).map (0x1D200 + ·)
      | none => [])
/-- The lanes of a cluster in the order of their records: core, gang slot, lane index. -/
def State.laneSeats (s : State) (u : Nat) : List (Nat × Nat × Nat) :=
  (s.ctx.cores.filter fun e => clusterAt e.2 = u).flatMap fun e =>
    ((s.core e.1).gangs.filter (·.1 < 4)).flatMap fun g => (List.range g.2.lanes.length).map fun i => (e.1, g.1, i)
def State.laneAt (s : State) (x : Nat × Nat × Nat) : Lane := (((s.core x.1).at x.2.1).lanes[x.2.2]?).getD {}
/-- The outbound records of a cluster: the carry messages of its cores that have not left (spec/06 R142). -/
def State.outSeats (s : State) (u : Nat) : List (Nat × Outbound) :=
  ((s.ctx.cores.filter fun e => clusterAt e.2 = u).flatMap fun e => ((s.core e.1).outbox.filter fun o => !o.sent).map fun o => (e.1, o)).take 384
/-- The laid-out parts of a cluster's area: lane records, outbound records, accumulators, the pool's division with the arbitration
pointer and the cores held by a ganged command, predictions and budgets. -/
def State.clusterParts (s : State) (u : Nat) : List (Nat × List Byte) :=
  let lane (x : Nat × Nat × Nat) : List Byte :=
    ((s.laneAt x).image).take 0x140 ++ bytesOf (s.rankOf x.1) 4 ++ bytesOf x.2.1 1 ++ bytesOf x.2.2 1
  let k := s.cluster u
  let held := ((s.ctx.cores.filter fun e => clusterAt e.2 = u && (s.core e.1).matrixQ.held).map fun e => 2 ^ seatAt e.2).sum
  ((s.laneSeats u).zipIdx.map fun e => (0x180 * e.2, lane e.1)) ++ ((s.outSeats u).zipIdx.map fun e => (0xC000 + 256 * e.2, s.recordImage e.1.1 e.1.2)) ++
    (k.acc.map fun e => (0x24000 + 4 * e.1, bytesOf e.2.toNat 4)) ++
    [(0x2C000, bytesOf k.sharedTaken 8 ++ bytesOf k.pointer 8 ++ bytesOf held 8)] ++
    (k.predict.map fun e => (0x2C080 + 16 * e.1, bytesOf e.2.toNat 8)) ++ (k.budget.map fun e => (0x2C088 + 16 * e.1, bytesOf e.2.toNat 8))
/-- The offsets in a cluster's area of the words that carry poison. -/
def State.clusterMarks (s : State) (u : Nat) : List Nat :=
  ((s.laneSeats u).zipIdx.flatMap fun e => (s.laneAt e.1).badWords.map (0x180 * e.2 + ·)) ++
    ((s.outSeats u).zipIdx.flatMap fun e => (s.bodyMarks e.1.2.msg.body).map (0xC000 + 256 * e.2 + ·)) ++
    (((s.cluster u).accBad.filter (·.2)).map fun e => 0x24000 + 4 * e.1)
/-- Parts written at their offsets from a base, and words of them marked. -/
def State.writeParts' (s : State) (part base : Nat) (ps : List (Nat × List Byte)) (marks : List Nat) : State :=
  let t := ps.foldl (fun t p => t.writeRange part (base + p.1) p.2) s
  marks.foldl (fun t o => match t.resolve part (base + o) true with
    | some pa => { t with mem := t.mem.setBad (pa / 8) true }
    | none => t) t
/-- A core's area: its local memory with its poison, and the rest. -/
def State.writeCoreArea (s : State) (c : Nat) : State :=
  let part := s.ctx.part.toNat
  let base := s.ctx.coreSave + s.rankOf c * 0x20000
  let t := (s.core c).mem.bytes.foldl (fun t e => t.writeV part (base + e.1) [e.2]) (s.clearArea part base 0x20000)
  t.writeParts' part base (t.areaParts c) (t.areaMarks c)
def State.writeClusterArea (s : State) (u i : Nat) : State :=
  let base := s.ctx.clusterSave + i * 0x40000
  (s.clearArea s.ctx.part.toNat base 0x40000).writeParts' s.ctx.part.toNat base (s.clusterParts u) (s.clusterMarks u)

/-! ### What a restore reads back (R317, R379) -/

/-- The bytes of an area in memory with their poison: what is listed in the frames of its pages. -/
def State.areaMemory (s : State) (base n : Nat) : Memory :=
  (pagesOf base n).foldl (fun m p =>
    let r := inPage base n p
    match s.resolve s.ctx.part.toNat r.1 false with
    | none => m
    | some pa =>
      let off (a : Nat) : Nat := a - pa + (r.1 - base)
      let m := (s.mem.bytes.filter fun e => pa ≤ e.1 && e.1 < pa + r.2).foldl (fun m e => m.setByte (off e.1) e.2) m
      (s.mem.bad.filter fun e => pa ≤ 8 * e.1 && 8 * e.1 < pa + r.2 && e.2).foldl (fun m e => m.setBad (off (8 * e.1) / 8) true) m) {}
/-- The slices of an area wake and its errors are found, before it is read (spec/22 R462, R469). -/
def State.meetArea (s : State) (base n : Nat) : State :=
  (pagesOf base n).foldl (fun t p =>
    let r := inPage base n p
    match t.resolve s.ctx.part.toNat r.1 false with
    | some pa => t.meetGlobal pa r.2
    | none => t) s
/-- Words, doublewords, bytes and bits of an area. -/
def Memory.w (m : Memory) (o : Nat) : Word := w64 (m.load o 8)
def Memory.w32 (m : Memory) (o : Nat) : BitVec 32 := BitVec.ofNat 32 (m.load o 4)
/-- Marks of things that share a word: none where the word carries no poison; those that were marked, or all of them, where it does. -/
def sharedMarks {n : Nat} (bad : Bool) (is : List Nat) (p : BitVec n) : BitVec n :=
  if !bad then is.foldl (fun p i => bput p i false) p else if is.any p.getLsbD then p else is.foldl (fun p i => bput p i true) p
/-- A lane with its record read back. -/
def Lane.readBack (m : Memory) (a : Nat) (l : Lane) : Lane :=
  let bad (o : Nat) : Bool := m.poisoned (a + o) 8
  { l with regs := (List.range 37).foldl (fun x j => mset 0 x j (m.w (a + 8 * j))) [],
           side := (List.range 8).foldl (fun x q => mset 0x7F7F#16 x q (BitVec.ofNat 16 (m.load (a + 0x128 + 2 * q) 2))) [],
           strand := BitVec.ofNat 24 (m.load (a + 0x138) 3), preds := BitVec.ofNat 8 (2 * (m.load (a + 0x13B) 1 % 128) + 1),
           draw := m.w32 (a + 0x13C),
           poison := sharedMarks (bad 0x138) ((List.range 8).map (48 + ·)) <| sharedMarks (bad 0x130) [44, 45, 46, 47] <|
             sharedMarks (bad 0x128) [40, 41, 42, 43] <| (List.range 37).foldl (fun p j => bput p j (bad (8 * j))) l.poison }
/-- A carry message with the marks of one that stood beside its bytes, where they share a word. -/
def keepMarks (m k : CarryMsg) : CarryMsg :=
  let keep (p : BitVec 56) (is : List Nat) : BitVec 56 :=
    if is.any p.getLsbD && is.any k.poison.getLsbD then is.foldl (fun p i => bput p i (k.poison.getLsbD i)) p else p
  { m with poison := keep (keep (keep m.poison [40, 41, 42, 43]) [44, 45, 46, 47]) ((List.range 8).map (48 + ·)), uid := k.uid }
/-- A carry message read from an area, over the one kept beside it. -/
def State.loadCarry (s : State) (m : Memory) (a : Nat) (kept : Option CarryMsg) (uid : Nat) : CarryMsg :=
  let x := parseCarry (m.image a 0xE0) (s.carryOf (routineOf (m.w32 a))) uid fun o => m.poisoned (a + o) 8
  match kept with
  | some k => keepMarks x k
  | none => x
/-- Words of a data message read back. -/
def loadWords (m : Memory) (a n : Nat) : List Datum := (List.range n).map fun i => m.datum (a + 8 * i) 8
/-- Arrivals read back by the slot map: those of one order of arrival are the slots of one. -/
def State.loadArrivals (s : State) (m : Memory) (c : Nat) (kept : List Arrival) : List Arrival :=
  let slot (i o n : Nat) : Nat := m.load (0x1D000 + 8 * i + o) n
  let mine (j : Nat) : List Nat := (List.range 64).filter fun i => slot i 1 1 = 2 && slot i 2 2 = j
  (List.range 64).filterMap fun j => match mine j with
    | [] => none
    | i :: is =>
      let a := 0x1C000 + 64 * i
      let old : Msg := ((kept[j]?).map (·.msg)).getD { src := .core c, id := 0, dst := c, ch := 0, slots := 0, body := .data [] }
      let body : Body := if slot i 4 1 = 0 then .carry (s.loadCarry m a (match old.body with
          | .carry x => some x
          | _ => none) 0)
        else if slot i 4 1 = 1 then .data (loadWords m a (slot i 5 1))
        else .change (m.load a 8) ⟨m.w (a + 8), m.w (a + 16), m.w (a + 24), m.w32 (a + 32), m.w32 (a + 36)⟩
      some ⟨{ old with dst := c, ch := slot i 0 1, slots := is.length + 1, body }⟩
/-- A gang with its header read back. -/
def Gang.readBack (m : Memory) (a : Nat) (g : Gang) : Gang :=
  { g with g := (List.range 16).foldl (fun x n => mset 0 x n (m.w (a + 8 * n))) [],
           gPoison := (List.range 16).foldl (fun p n => bput p n (m.poisoned (a + 8 * n) 8)) g.gPoison,
           q0 := m.w32 (a + 0x80), q1 := m.w32 (a + 0x84), q2 := m.w32 (a + 0x88),
           lanes := (List.range (m.load (a + 0x8C) 1)).map fun i => (g.lanes[i]?).getD {},
           grant := m.load (a + 0x8D) 1, channel := m.load (a + 0x8E) 1 }
/-- The causes in the row of the trap bank; those without room in it stand beside. -/
def loadStanding (m : Memory) (kept : List Standing) : List Standing :=
  ((List.range 8).filterMap fun i =>
    let a := 0x18780 + 16 * i
    if m.load a 1 = 0 then none
    else some ⟨m.load (a + 2) 1, m.load (a + 3) 1, ⟨m.load a 1, m.load (a + 1) 1, m.w (a + 8), m.w32 (a + 4)⟩⟩) ++ kept.drop 8
/-- The causes that stand at a place. -/
def standingAt (xs : List Standing) (slot held : Nat) : List Cause := (xs.filter fun x => x.slot = slot && x.held = held).map (·.cause)
def loadBinding (m : Memory) (i : Nat) : Option Binding :=
  let a := 0x186D0 + 20 * i
  if m.load a 3 = 0 then none
  else
    let f := m.load (a + 3) 1
    some ⟨m.load a 3, f % 64, m.w (a + 4), f.testBit 6, if f.testBit 7 then some (m.w (a + 12)) else none⟩
/-- Channel `n` with its words read back. -/
def loadChannel (m : Memory) (n : Nat) (c : Channel) : Channel :=
  let w := m.w (0x18808 + 16 * n)
  { c with word0 := m.w (0x18800 + 16 * n), enable := w.getLsbD 0, hold := w.getLsbD 2, state := fieldOf w 5 4, age := m.load (0x1A440 + 4 * n) 4 }
def loadRing (m : Memory) (n : Nat) : RingDesc :=
  let w := m.w (0x18E08 + 16 * n)
  { word0 := m.w (0x18E00 + 16 * n), busy := fieldOf w 63 2, overrun := w.getLsbD 1, valid := w.getLsbD 0 }
def loadBarrier (m : Memory) (n : Nat) : Barrier :=
  let w := m.w (0x18E80 + 16 * n)
  { scope := fieldOf w 63 61, count := fieldOf w 60 40, arrived := fieldOf w 39 24, gen := fieldOf w 15 0, pending := (m.w (0x18E88 + 16 * n)).toNat }
def loadStream (m : Memory) (n : Nat) (x : Stream) : Stream :=
  let a := 0x18F00 + 0xC0 * n
  { x with elems := loadWords m a (min 16 (m.load (a + 0x80) 8)), bound := if m.load (a + 0x88) 1 = 1 then some (m.load (a + 0x89) 1) else none }
/-- An entry of a copy queue read back, over the kept one, which has the rest of its maps. -/
def loadCopy (m : Memory) (a : Nat) (kept : Option CopyEntry) : Option CopyEntry :=
  let bad := m.poisoned a 8
  if m.load a 1 = 1 then
    let total := m.load (a + 0x10) 8
    let maps := match kept.map (·.job) with
      | some (CopyJob.copy src dst _ _ _ _ _ _) => (src.drop 1, dst.drop 1)
      | _ => ([], [])
    let e := kept.getD { id := 0, job := CopyJob.fence [] }
    some { e with job := .copy (m.w (a + 0x28) :: maps.1) (m.w (a + 0x30) :: maps.2) (m.w (a + 0x18)) (m.w (a + 0x20)) (m.load (a + 1) 1) (m.load (a + 2) 1)
                    (m.load (a + 3) 1 = 1) total, done := total - m.load (a + 8) 8, bad := bad }
  else if m.load a 1 = 2 then (match kept.map (·.job) with
    | some (CopyJob.fence _) => kept.map fun e => { e with bad := bad }
    | _ => some { id := 0, job := CopyJob.fence [], bad := bad })
  else none
/-- A command of the matrix queue read back, over the kept one, which has the maps it took. -/
def loadMatrix (m : Memory) (i : Nat) (kept : Option MatrixEntry) : MatrixEntry :=
  let e := kept.getD { id := 0, image := [], mapA := [], mapB := [], mapO := [], fmtA := 0x0B, fmtB := 0x0B }
  { e with image := m.image (0x1A200 + 64 * i) 64 ++ e.image.drop 64 }
def loadCopyQ (m : Memory) (q : Nat) (old : CopyQueue) : CopyQueue :=
  let es := (List.range 16).filterMap fun i => loadCopy m (0x19200 + 0x400 * q + 64 * i) (old.entries[i]?)
  { old with entries := es ++ old.entries.drop 16 }
def loadMatrixQ (m : Memory) (old : MatrixQueue) : MatrixQueue :=
  let es := (List.range (min 8 (m.load 0x1A411 1))).map fun i => loadMatrix m i (old.entries[i]?)
  { old with entries := es ++ old.entries.drop 8 }
/-- Waiting data messages with their words read back. -/
def loadQueue (m : Memory) (base size : Nat) (os : List Outbound) : List Outbound :=
  os.mapIdx fun i o => match o.msg.body with
    | .data ws => if (i + 1) * size ≤ 0x200 then
        { o with msg := { o.msg with body := .data (loadWords m (base + size * i) (min ws.length (size / 8)) ++ ws.drop (size / 8)) } } else o
    | _ => o
/-- The format context in a core's area. -/
def loadFormat (m : Memory) : FormatCtx :=
  { fmtA := m.load 0x1A400 1, fmtB := m.load 0x1A401 1, rsr := m.load 0x1A402 2 ≠ 0, mdraw := m.w32 0x1A404 }
/-- A core with its area read back, over what the area does not hold. -/
def State.loadCore (s : State) (c : Nat) (m : Memory) (k : Core) : Core :=
  let xs := loadStanding m k.causesHeld
  let gang (i : Nat) : Option (Nat × Gang) :=
    let g := (k.at i).readBack m (0x1A800 + 0x100 * i)
    if g.lanes.isEmpty then none
    else
      let hold (h : Nat) (x : Option Xfer) : Option Xfer := x.map fun x => { x with held := standingAt xs i h }
      some (i, { g with causes := standingAt xs i 0, xfer := hold 1 g.xfer, xferIn := hold 2 g.xferIn,
                        lanes := if i = 4 then g.lanes.map (·.readBack m 0x1D200) else g.lanes })
  let level (i : Nat) : Bool := m.load (0x1A88F + 0x100 * i) 1 = 1
  { k with
    mem := { bytes := m.bytes.filter (·.1 < localEnd), bad := m.bad.filter (8 * ·.1 < localEnd) },
    full := (List.range 0x3000).foldl (fun x i => mset false x i ((m.load (0x18000 + i / 8) 1).testBit (i % 8))) [],
    trapBank := (List.range 16).foldl (fun x n => mset 0 x n (m.w (0x18600 + 8 * n))) [],
    bankPoison := (List.range 16).foldl (fun p n => bput p n (m.poisoned (0x18600 + 8 * n) 8)) k.bankPoison,
    priv := (m.w32 0x18680).setWidth 2, xpc0 := m.w32 0x18684, xpc1 := m.w32 0x18688, xpc2 := m.w32 0x1868C,
    trapCause := (m.w32 0x18690).setWidth 16, trapLanes := m.w32 0x18694, timer := m.w32 0x18698, frames := BitVec.ofNat 16 (m.load 0x1869C 2),
    lastFired := m.load 0x1869E 1, lastSlot := m.load 0x1869F 1, trapInfo := m.w 0x186A0,
    counters := savedCounters.zipIdx.foldl (fun x e => mset 0 x e.1 (m.w (0x186A8 + 8 * e.2))) k.counters, stall := m.load 0x186C8 8,
    bindings := (List.range 8).filterMap (loadBinding m) ++ k.bindings.drop 8,
    inject := (List.range 4).filterMap fun i =>
      let v := m.load (0x18770 + 4 * i) 4
      if v.testBit 31 then some (i, w64 (v % 2 ^ 31)) else none,
    causes := standingAt xs 5 0, timerPending := !(standingAt xs 6 0).isEmpty,
    channels := (List.range 64).foldl (fun x n => mset {} x n (loadChannel m n (k.channel n))) k.channels,
    tmaps := (List.range 8).foldl (fun x n =>
      let ws := (List.range 8).map fun i => m.w (0x18C00 + 64 * n + 8 * i)
      if ws.all (· = 0) && (mfind x n).isNone then x else mput x n ws) k.tmaps,
    rings := (List.range 8).foldl (fun x n => mset {} x n (loadRing m n)) k.rings,
    barriers := (List.range 8).foldl (fun x n => mset {} x n (loadBarrier m n)) k.barriers,
    streams := (List.range 4).foldl (fun x n => mset {} x n (loadStream m n (mget {} x n))) k.streams,
    copyQs := (List.range 4).foldl (fun x q => mset {} x q (loadCopyQ m q (mget {} x q))) k.copyQs,
    matrixQ := loadMatrixQ m k.matrixQ,
    mprog := BitVec.ofNat 16 (m.load 0x1A408 8),
    gangs := (List.range 5).filterMap gang,
    owner := if level 4 then .system else (((List.range 4).find? level).map .gang).getD .none,
    sendReq := loadQueue m 0x1AD00 64 k.sendReq, sendRep := loadQueue m 0x1AF00 64 k.sendRep, ready := loadQueue m 0x1B100 32 k.ready,
    arrivals := s.loadArrivals m c k.arrivals }
/-- The outbound records of a core in its cluster's area, over those kept beside; `id` names one that nothing was kept for. -/
def State.loadOuts (s : State) (m : Memory) (c id : Nat) (kept : List Outbound) : List Outbound :=
  let old := kept.filter fun o => !o.sent
  let is := (List.range 384).filter fun i => m.w (0xC0F8 + 256 * i) = 1 && m.load (0xC0E8 + 256 * i) 8 = s.rankOf c
  kept.filter (·.sent) ++ is.mapIdx fun j i =>
    let a := 0xC000 + 256 * i
    let d := m.load (a + 0xE4) 4
    match old[j]? with
    | some o => { o with msg := { o.msg with dst := d, body := .carry (s.loadCarry m a (match o.msg.body with
        | .carry x => some x
        | _ => none) (id + i)) } }
    | none =>
      let x := s.loadCarry m a none (id + i)
      let e : DirEntry := (s.readDir (m.load (a + 0xE0) 4)).getD ⟨0, 0, 0, 0xFF, 0, 0, [], false⟩
      let o := carryOut c (id + i) d 5 s.clock e x
      if x.frame.isSome then { o with msg := { o.msg with slots := carrySlots 0 }, laneUid := 0 } else o
/-- A cluster's unit with its area read back. -/
def loadCluster (m : Memory) (u : Cluster) (bank : ErrorBank) : Cluster :=
  let words := (((m.bytes.map (·.1)).filter fun a => 0x24000 ≤ a && a < 0x2C000).map fun a => (a - 0x24000) / 4).eraseDups
  let bads := (m.bad.filter fun e => 0x24000 ≤ 8 * e.1 && 8 * e.1 < 0x2C000 && e.2).map fun e => (8 * e.1 - 0x24000) / 4
  { u with bank, acc := words.foldl (fun x i => mset 0 x i (m.w32 (0x24000 + 4 * i))) [],
           accBad := bads.foldl (fun x i =>
             if mget false u.accBad i || mget false u.accBad (i + 1) then mset false (mset false x i (mget false u.accBad i)) (i + 1) (mget false u.accBad (i + 1))
             else mset false (mset false x i true) (i + 1) true) [],
           predict := (List.range 8).foldl (fun x t => mset 0 x t (m.w (0x2C080 + 16 * t))) [],
           budget := (List.range 8).foldl (fun x t => mset 0 x t (m.w (0x2C088 + 16 * t))) [],
           pointer := m.load 0x2C008 8 % 8, sharedTaken := m.load 0x2C000 8 }

end Sys2Proof.Machine
end

