-- ==== Sys2Proof/Machine/Preempt.lean ====
section
/-! DEFINITION. Pre-emption and restore of a context (spec/12 R316-R318, spec/16 R379, R382). -/
namespace Sys2Proof.Machine

/-! ### Pre-emption (R316) -/

/-- The supervisor begins a pre-emption: the derrick distributes no more, no core packs, asks, fires or issues beyond its
next boundary. -/
def State.beginSave (s : State) : State :=
  { s with cores := s.cores.map fun (e : Nat × Core) => (e.1, { e.2 with preempting := s.hasCore e.1 || e.2.preempting }) }
/-- Waits that a pre-emption breaks off: watches are withdrawn, remote retries abandoned. -/
def State.abandonAll (s : State) : State :=
  s.cores.foldl (fun t e => (e.2.gangs.map (·.1)).foldl (fun t i =>
    (t.abandon e.1 i).modCore e.1 fun k => k.setAt i { k.at i with waiting := false }) t) s
/-- Messages and grants of the context still on their way; a matrix command that stands by at a full queue is saved with it. -/
def onItsWay : Instr → Bool
  | .grant _ | .barrierCompletion _ _ | .carryArrival _ | .dataMessageArrival _ | .changeMessageArrival _ | .forwardedReply _ _ _ _ | .barrierArrival _ _ _ _
  | .loadReply _ _ _ | .storeAcknowledgement _ _ | .invalidationAck _ _ | .directoryInvalidationAck _ _ | .remoteAccess _
  | .multicastFork _ | .ringWindowPush _ _ _ _ | .matrixWindowPush _ _ _ ⟨_, none⟩ | .sliceOperation _ | .timelineWrite _ | .chainedPacket _ => true
  | _ => false
/-- Stores of a core whose commands stand by at a full matrix queue: a save does not wait for their acknowledgements, since the
engines have stopped (DEDUCED, log 22). -/
def State.standingStores (s : State) (c : Nat) : Nat :=
  (s.events.filter fun e => match e with
    | .matrixWindowPush _ _ _ ⟨some (i, _), some _⟩ => i = c
    | _ => false).length
/-- A core has nothing left that the save must wait for (R316, step 3). -/
def State.coreSavable (s : State) (c : Nat) : Bool :=
  let k := s.core c
  k.usc.toNat = s.standingStores c && k.loads.isEmpty && k.forwards.isEmpty && k.faults.all (·.written) && k.records.isEmpty && !k.outs.any (fun o => o.granted && !o.sent) &&
    k.gangs.all (fun e => (e.2.givesWay || (e.2.lanes.any (·.packed) && !e.2.ann0)) && !s.midway c e.1) && k.copyQs.all (fun q => q.2.entries.all fun e => !e.out) &&
    s.agreed c && k.channels.all fun e => !s.rebinds c e.1
/-- The context can be saved: every boundary is reached, nothing is on its way, no matrix turn is open. -/
def State.savable (s : State) : Bool :=
  let t := s.abandonAll
  s.cores.any (·.2.preempting) && s.ctx.rrepling.isNone && (t.ctx.cores.map (·.1)).all t.coreSavable && !t.events.any onItsWay &&
    s.trees.isEmpty && s.residuals.isEmpty &&
    (s.clustersOf.all fun u => (s.cluster u).turn = .idle) && !(s.ctx.derrickOut ++ s.sliceOut).any (fun o => (o.granted && !o.sent) || o.fault) &&
    !s.changes.any fun e => e.2.any (·.granted)
/-- A message that waits becomes an outbound record: it asks again after restore, with a fresh count (R317). -/
def Outbound.recorded (o : Outbound) (clock : Nat) : Outbound := if o.sent then o else { o with asked := false, since := clock }
/-- A core as it is saved: TIMER as it reads, its grants withdrawn, its messages recorded; what its engines were stopped by is
forgotten, for they go on from REMAIN and MPROG (R317, spec/13 R328). -/
def State.savedCore (s : State) (c : Nat) : Core :=
  let k := s.core c
  { k.mapOuts (·.recorded s.clock) with timer := BitVec.ofNat 32 (s.timerOf c), preempting := false, asks := [], granted := [], grants := [],
                                        gangs := k.gangs.map fun (e : Nat × Gang) => (e.1, { e.2 with skipBreak := false, breakDue := none }),
                                        tlb := [], dir := [], matrixQ := { k.matrixQ with cause := 0 },
                                        copyQs := k.copyQs.map fun (e : Nat × CopyQueue) => (e.1, { e.2 with cause := 0, addr := 0 }) }
/-- PREEMPTION: the cores' areas are written, then the clusters', and the rectangle is free; the supervisor is told (7). -/
def execPreemption (s : State) : Host.Outcome State Fault Refusal :=
  .next (if !s.savable then s
    else
      let t := s.abandonAll.vacate
      let t := (t.ctx.cores.map (·.1)).foldl State.writeCoreArea t
      let t := (t.clustersOf.zipIdx).foldl (fun t e => t.writeClusterArea e.1 e.2) t
      let saved := t.ctx.cores.map fun e => (e.1, t.savedCore e.1)
      let us := t.clustersOf
      let x : Context := { t.ctx with
        saved := true, savedValid := true, target := t.ctx.rects, savedCores := saved.foldl (fun m e => mput m e.1 e.2) [],
        savedClusters := us.foldl (fun m u => mput m u { t.cluster u with tlb := [] }) [],
        derrickOut := t.ctx.derrickOut.map (·.recorded t.clock), derrickGrants := [] }
      ({ t.keepEvents (fun e => match e with
          | .grantRequest _ | .revocation _ | .refusal _ => false
          | _ => true) with
        ctx := x, cores := t.cores.filter fun (e : Nat × Core) => !t.hasCore e.1, sliceGrants := [],
        sliceOut := t.sliceOut.map (·.recorded t.clock),
        changes := t.changes.map fun (e : Nat × List QueuedChange) => (e.1, e.2.map fun q => { q with asked := false }) } : State).tell 7 0 (t.ctx.id.setWidth 64))
/-- PREEMPT: the mailbox command; status 3 when there is no such running context (R495). -/
def execPreempt (ctx : Nat) (s : State) : Host.Outcome State Fault Refusal :=
  let ok := s.ctx.started ∧ !s.ctx.saved ∧ !s.ctx.ended ∧ s.ctx.id.toNat = ctx
  let t := s.respond 0x06 (if ok then 0 else 3) s.ctx.part.toNat []
  .next (if ok then t.beginSave else t)

/-! ### Restore (R317, R382) -/

/-- The cores that a restore on some rectangles would give the context. -/
def State.restored (s : State) (rects : List Rect) : List (Nat × Nat × Nat × Nat) := s.numbered s.ctx.paired rects
/-- The cluster that each saved cluster comes to, by the first of its cores. -/
def State.newCluster (s : State) (cores : List (Nat × Nat × Nat × Nat)) (u : Nat) : Nat :=
  match s.ctx.cores.find? fun e => clusterAt e.2 = u with
  | some e => ((cores.find? (·.1 = e.1)).map fun x => clusterAt x.2).getD 0
  | none => 0
/-- Rectangles that a restore accepts: the partition's, not fenced, with the same count of cores for every logical package (R317), and
two cores share a cluster just when they shared one (R382; that no two saved clusters may share one is DEDUCED, log 22). -/
def State.restoreFits (s : State) (rects : List Rect) : Bool :=
  let cores := s.restored rects
  let us := s.clustersOf
  areaOk rects && ((mfind s.sup.partitions s.ctx.part.toNat).any fun p => insideArea rects p.area) &&
    cores.map (·.1) = s.ctx.cores.map (·.1) &&
    ((s.ctx.cores.zip cores).all fun e => s.newCluster cores (clusterAt e.1.2) = clusterAt e.2.2) &&
    (us.map (s.newCluster cores)).eraseDups.length = us.length &&
    !cores.any fun e => ({ s with ctx := { s.ctx with cores } } : State).fenced e.1
/-- The lanes, the outbound records and the cores held by a ganged command, of one cluster's area. -/
def State.loadSeats (s : State) (m : Memory) (id : Nat) (cores : List (Nat × Nat × Nat × Nat)) (k : List (Nat × Core)) : List (Nat × Core) :=
  let record (r slot i : Nat) : Option Nat := (List.range 128).find? fun j =>
    m.load (0x180 * j + 0x140) 4 = r && m.load (0x180 * j + 0x144) 1 = slot && m.load (0x180 * j + 0x145) 1 = i
  let lane (c slot i : Nat) (l : Lane) : Lane :=
    match record (s.rankOf c) slot i with
    | some j => l.readBack m (0x180 * j)
    | none => l
  let load (c : Nat) (at' : Nat × Nat × Nat) (k : Core) : Core :=
    { k with
      gangs := k.gangs.map fun g => if g.1 = 4 then g else (g.1, { g.2 with lanes := g.2.lanes.mapIdx (lane c g.1) }),
      outbox := s.loadOuts m c id k.outbox,
      matrixQ := { k.matrixQ with held := (m.load 0x2C010 8).testBit (seatAt at') } }
  cores.foldl (fun x e => mput x e.1 (load e.1 e.2 (mget {} x e.1))) k
/-- The context put on the rectangles: cluster areas are read back first, then the cores' in reverse order of rank; outbound records ask
again, and the derrick last (R379). Barriers keep their participants, in the extents where these now stand. -/
def State.putBack (s : State) (rects : List Rect) : State :=
  let cores := s.restored rects
  let us := s.clustersOf.zipIdx
  let part := s.ctx.part.toNat
  let clusterArea (i : Nat) : Nat := s.ctx.clusterSave + i * 0x40000
  let coreArea (c : Nat) : Nat := s.ctx.coreSave + s.rankOf c * 0x20000
  let s := us.foldl (fun t e => t.meetArea (clusterArea e.2) 0x40000) s
  let s := s.ctx.cores.foldl (fun t e => t.meetArea (coreArea e.1) 0x20000) s
  let pair (p : PartCore) (k : Core) : Pair :=
    { on := k.pair.on, start := p.retired, base := k.mem, mark := s.nextTag + 384 * us.length, last := s.clock }
  let start (p : PartCore) (k : Core) : Core :=
    ({ k.mapOuts (·.recorded s.clock) with timerAt := s.clock, lastAccess := s.clock, pair := pair p k } : Core).standsAt p
  let unit (i u : Nat) : Cluster := loadCluster (s.areaMemory (clusterArea i) 0x40000) (mget {} s.ctx.savedClusters u) (s.cluster (s.newCluster cores u)).bank
  let units := us.foldl (fun m e => mput m (s.newCluster cores e.1) (unit e.2 e.1)) s.clusters
  let ks := s.ctx.cores.reverse.foldl (fun m e => mput m e.1 (s.loadCore e.1 (s.areaMemory (coreArea e.1) 0x20000) (mget {} s.ctx.savedCores e.1))) s.cores
  let ks := us.foldl (fun m e => s.loadSeats (s.areaMemory (clusterArea e.2) 0x40000) (s.nextTag + 384 * e.2)
    (s.ctx.cores.filter fun c => clusterAt c.2 = e.1) m) ks
  let ks := s.ctx.cores.foldl (fun m e => mput m e.1 (start (s.partAt ((cores.find? (·.1 = e.1)).map (·.2) |>.getD e.2)) (mget {} m e.1))) ks
  let t : State := { s with
    clusters := s.ctx.cores.foldl (fun m e =>
      let u := s.newCluster cores (clusterAt e.2)
      let k := mget {} m u
      mput m u { k with contexts := mset {} k.contexts e.1 (loadFormat (s.areaMemory (coreArea e.1) 0x20000)) }) units,
    cores := ks, twins := [], parts := s.parts.filter fun e => !cores.any fun c => positionAt c.2 = e.1, nextTag := s.nextTag + 384 * us.length,
    ctx := { s.ctx with saved := false, savedCores := [], savedClusters := [], rects, cores, derrickHeld := true } }
  let t := { t with nodes := t.nodes.map fun (b : BarrierNode) => { b with extent := t.extent (b.members.headD 0) b.scope } }
  t.writeRange part s.ctx.mapBase (cores.flatMap fun e => bytesOf (mapEntry s.ctx.paired e.2).toNat 8)
/-- CONTEXT_RESTORE on the rectangles that the supervisor has picked: those of the save, where it has not said otherwise. Refused, and the supervisor told (8), when the save is invalid or the
rectangles do not serve; the context stays saved. -/
def execContextRestore (s : State) : Host.Outcome State Fault Refusal :=
  .next (if !s.ctx.saved then s
    else if !s.ctx.savedValid ∨ !s.restoreFits s.ctx.target then s.tell 8 0 (s.ctx.id.setWidth 64)
    else s.putBack s.ctx.target)
/-- RESTORE: the mailbox command. -/
def execRestore (r : RestoreReq) (s : State) : Host.Outcome State Fault Refusal :=
  let ok := s.ctx.saved ∧ s.ctx.id.toNat = r.ctx
  let t := s.respond 0x07 (if ok then 0 else 3) s.ctx.part.toNat []
  .next (if ok then ({ t with ctx := { t.ctx with target := r.rects } } : State).push .contextRestore else t)

end Sys2Proof.Machine
end

