-- ==== Sys2Proof/Machine/HostPort.lean ====
section
/-! DEFINITION. The host port, doorbells, memory windows, the mailbox commands, boot, identity (spec/24 R489-R507). BAR0 is
named by its offsets, BAR2 by 2^32 + its offsets. -/
namespace Sys2Proof.Machine

/-- The port answers: boot has not failed (R501). -/
def HostPort.answers (h : HostPort) : Bool := h.stage < 0xF0
def State.modHost (s : State) (f : HostPort → HostPort) : State := { s with host := f s.host }
def State.doorbell (s : State) (page : Nat) : Doorbell := mget {} s.host.doorbells page
def State.setDoorbell (s : State) (page : Nat) (d : Doorbell) : State := s.modHost fun h => { h with doorbells := mput h.doorbells page d }

/-! ### Boot (R501-R503) -/

/-- A position that self-test disables: what it finds is left open (log 4), and the image's repair section mends what it names. -/
def failsTest (clock pkg i : Nat) : Bool :=
  Config.sense (2 ^ 20 + 25600 * pkg + i) clock % 2 = 0 && !((Config.flash pkg).any fun x => x.repair.contains i)
/-- The positions of a package that fail, as routers are numbered; and how many pass. -/
def failing (clock pkg : Nat) : List Nat := ((List.range 25600).filter (failsTest clock pkg)).map (25600 * pkg + ·)
def passing (clock pkg : Nat) : Nat := 25600 - (failing clock pkg).length
/-- The bytes that a configuration image begins with (R502). -/
def configMagic : List Byte := [0x53, 0x58, 0x43, 0x49]
/-- The failure code of a boot stage, if it fails (Table 24-5): what keys and the identity function give is left open (log 5). -/
def bootFailure (clock pkg stage : Nat) : Option Nat :=
  match Config.flash pkg with
  | none => some 0xF1
  | some x =>
    if stage = 1 then if x.magic = configMagic then none else some 0xF1
    else if stage = 2 then if x.signature.length = 384 ∧ Config.crypto 1 pkg % 2 = 1 then none else some 0xF2
    else if stage = 3 then if 25000 ≤ passing clock pkg then none else some 0xF3
    else if Config.crypto 2 (clock * 16 + pkg) % 2 = 0 then some 0xF4
    else if Config.crypto 3 pkg % 2 = 0 then some 0xF5
    else none
/-- The ports of a package, which train from a cycle on; a port that has found no peer yet names its own package. -/
def trainingPorts (clock pkg : Nat) : List (Nat × Port) :=
  (List.range 18).map fun i => (18 * pkg + i, { state := 1, peer := pkg, since := clock })
/-- A system core as it starts an image: its code where the trap routine of a compute core stands, one lane (spec/01 R42; the place is
the model's own, log 51). -/
def startedCore (level : BitVec 2) (code : List (BitVec 16)) (clock : Nat) : Core :=
  let k : Core := { priv := level, owner := .system, slot := 4, trapLen := code.length, lastAccess := clock, member := false,
                    code := (code.zipIdx).foldl (fun m e => mset 0 m (0x1E00 + e.2) e.1) [] }
  { k with gangs := [(4, ({ lanes := [{}], grant := 1 } : Gang).startAt k (codeAddr trapRoutine 0))] }
/-- A partition system image runs at level 1, the supervisor at level 2 on system core 0 of each package (log 51). -/
def systemCore (code : List (BitVec 16)) (clock : Nat) : Core := startedCore 1 code clock
def supervisorCore (pkg clock : Nat) : Core := startedCore 2 (((Config.flash pkg).map (·.supervisor)).getD []) clock
/-- The boot stage of a package: the host port is that of package 0. -/
def State.setStage (s : State) (pkg n : Nat) : State :=
  if pkg = 0 then s.modHost fun h => { h with stage := n } else { s with sup := { s.sup with stages := mput s.sup.stages pkg n } }
def State.stageOf (s : State) (pkg : Nat) : Nat := if pkg = 0 then s.host.stage else mget 0 s.sup.stages pkg
/-- A boot stage of a package is done: its failure code, or the next stage. Self-test, stage 3, gives the map of disabled positions;
stage 4 starts the supervisor; at stage 5 the Wyal ports train. -/
def State.bootNext (s : State) (pkg : Nat) : State :=
  let n := s.stageOf pkg
  match bootFailure s.clock pkg n with
  | some f => s.setStage pkg f
  | none =>
    let t := s.setStage pkg (n + 1)
    if n = 3 then { t with disabled := t.disabled ++ failing s.clock pkg }
    else if n = 4 then
      { t.setCore (sysBase + 64 * pkg) (supervisorCore pkg s.clock) with
        ports := (trainingPorts s.clock pkg).foldl (fun m e => mput m e.1 e.2) t.ports,
        sup := { t.sup with packages := t.sup.packages ++ [pkg] } }
    else t
/-- POWER_ON of the pod: everything is as after reset but for the recorders, CYCLE counts from here, and each package begins at stage 1. -/
def State.boot (s : State) : State :=
  let r := State.reset
  { r with clock := s.clock, epoch := s.clock, nextTag := s.nextTag, recorders := s.recorders, frame := s.frame,
           host := { r.host with stage := 1 }, sup := { r.sup with stages := (List.range 15).map fun i => (i + 1, 1) } }
/-- POWER_ON: runs the boot stages. -/
def execPowerOn (s : State) : Host.Outcome State Fault Refusal := .next s.boot

/-! ### Mailbox commands (Table 24-4) -/

/-- RETIDLE values that the supervisor may set (spec/22 R468). -/
def retIdleOk (n : Nat) : Bool := n = 0 || (4096 ≤ n && n ≤ 2 ^ 24)
def State.partition (s : State) (p : Nat) : Option Partition := mfind s.sup.partitions p
def State.setPartition (s : State) (n : Nat) (p : Partition) : State := { s with sup := { s.sup with partitions := mput s.sup.partitions n p } }
/-- Lists without a common element, pairwise. -/
def apart : List (List Nat) → Bool
  | [] => true
  | r :: rs => rs.all (fun q => q.all fun x => !r.contains x) && apart rs
/-- Containment rectangles numbered above those in use. -/
def numberRects (used : List (Nat × List Nat)) (rs : List (List Nat)) : List (Nat × List Nat) :=
  let base := ((used.map (·.1)).filter (· < 2 ^ 15)).foldl max 0 + 1
  rs.zipIdx.map fun e => (base + e.2, e.1)
/-- A run of HBM frames: in one stack of a package that has booted, outside the stack's page table (R337, spec/14 R340). -/
def State.runOk (s : State) (r : Nat × Nat) : Bool :=
  0 < r.2 && r.1 / 2 ^ 20 % 2 = 0 && (r.1 + r.2 - 1) / 2 ^ 20 = r.1 / 2 ^ 20 &&
    (r.1 + r.2 - 1) % 2 ^ 20 < 2 ^ 20 - tableFrames && s.sup.packages.contains (r.1 / 2 ^ 24)
/-- Runs without a common frame. -/
def runsApart : List (Nat × Nat) → Bool
  | [] => true
  | r :: rs => rs.all (fun q => r.1 + r.2 ≤ q.1 || q.1 + q.2 ≤ r.1) && runsApart rs
/-- What a partition asks for, in its form: one rectangle of whole clusters on each of 1 to 16 packages, at least one system core,
an anchor array of 2^10 to 2^24 anchors in slice memory (R13, R342). -/
def partitionAsk (p : PartitionReq) : Bool :=
  fieldOf p.fabric 63 40 = 0 && retIdleOk p.retIdle && 1 ≤ p.part && p.part < 256 && areaOk p.area && p.contain.all rectOk &&
    !p.sysCores.isEmpty && 10 ≤ p.anchorLog && p.anchorLog ≤ 24 && p.anchors % 8 = 0 && sliceFrame p.anchors &&
    frameNamed ((p.anchors + 8 * 2 ^ p.anchorLog - 1) / 65536)
/-- The containment rectangles lie inside the partition's and do not meet (spec/22 R475). -/
def containOk (p : PartitionReq) : Bool := insideArea p.contain p.area && apart (p.contain.map rectClusters)
/-- What a partition asks for is free: on packages that have booted, owned by no other partition; system core 0 of each package runs
the supervisor (log 51). -/
def State.partitionFree (s : State) (p : PartitionReq) : Bool :=
  let qs := s.sup.partitions.map (·.2)
  p.area.all (fun r => s.sup.packages.contains r.pkg) && apart (areaClusters p.area :: qs.map fun q => areaClusters q.area) &&
    p.frames.all s.runOk && runsApart (p.frames ++ qs.flatMap (·.frames)) &&
    p.ways.all (fun w => s.sup.packages.contains (w.1 / 4096)) &&
    apart (p.ways.map (fun w => [w.1]) ++ qs.map fun q => q.ways.map (·.1)) &&
    p.sysCores.all (fun c => c % 64 ≠ 0 && s.sup.packages.contains (c / 64)) && apart (p.sysCores.map (fun c => [c]) ++ qs.map (·.sysCores))
/-- The physical memory of frames and near-memory ways, as ranges of frames. -/
def Partition.memory (p : Partition) : List (Nat × Nat) := p.frames ++ (p.ways.filter (·.2)).map fun w => ((wayFrames w.1).headD 0, 2)
/-- Frames whose PART changes, and ways whose use changes, are zeroed; their entries hold no mapping (R333, R337). -/
def State.changeHands (s : State) (p : Partition) : State :=
  { s with mem := p.memory.foldl (fun m r => m.wipe (r.1 * 65536) (r.2 * 65536)) s.mem,
           ipt := s.ipt.filter fun e => !p.memory.any fun r => r.1 ≤ e.1 && e.1 < r.1 + r.2 }
/-- PARTITION_CREATE (R500): 8 when resources are not free, 7 when a rectangle leaves the partition's clusters or meets
another, 5 for a request out of form. The frames and ways it receives are zeroed, and its anchors. -/
def execPartitionCreate (p : PartitionReq) (s : State) : Host.Outcome State Fault Refusal :=
  let x := s.sup
  let st : Nat := if !partitionAsk p then 5 else if (s.partition p.part).isSome || !containOk p then 7 else if !s.partitionFree p then 8 else 0
  let q : Partition := { area := p.area, frames := p.frames, ways := p.ways, sysCores := p.sysCores, fabric := p.fabric,
                         retIdle := p.retIdle, contain := p.contain, owner := p.ownerKey, image := none, noticeBase := 0,
                         anchors := p.anchors, anchorLog := p.anchorLog }
  let t := s.changeHands q
  let made : State := { t with
    mem := t.mem.wipe p.anchors (8 * 2 ^ p.anchorLog),
    sup := { x with partitions := mput x.partitions p.part q, rects := x.rects ++ numberRects x.rects (p.contain.map rectClusters) } }
  .next ((if st = 0 then made else s).respond 0x01 st p.part [])
/-- The numbers of the containment rectangles in some clusters, and those of a context's own. -/
def Supervisor.rectsOf (x : Supervisor) (us : List Nat) : List Nat := (x.rects.filter fun r => r.2.any us.contains).map (·.1)
/-- A partition taken away: its system cores, its rectangles and their fences, its memory. -/
def State.dropPartition (s : State) (part : Nat) (p : Partition) (lifted : List Nat) : State :=
  let gone := s.sup.rectsOf (areaClusters p.area) ++ lifted
  let t := s.changeHands p
  { t with cores := t.cores.filter fun e => !(sysBase ≤ e.1 && p.sysCores.contains (e.1 - sysBase)),
           sup := { t.sup with partitions := mdel t.sup.partitions part,
                               rects := t.sup.rects.filter fun r => !gone.contains r.1,
                               fences := t.sup.fences.filter fun f => !gone.contains f.1 } }
/-- PARTITION_DESTROY: its context is contained and reset first; its resources are free again, its fences lifted. -/
def execPartitionDestroy (part : Nat) (s : State) : Host.Outcome State Fault Refusal :=
  match s.partition part with
  | none => .next (s.respond 0x02 3 part [])
  | some p =>
    let mine := s.ctx.started && s.ctx.part.toNat = part
    let rs := if mine && !s.ctx.saved then ((s.ctx.cores.map fun e => s.rectOf e.1)).eraseDups else []
    let t := rs.foldl (fun t r => (t.contain r 4).resetInside r) s
    let ctx : Context := if mine then { t.ctx with ended := true, saved := false, savedCores := [], savedClusters := [] } else t.ctx
    .next (({ t.dropPartition part p rs with ctx } : State).respond 0x02 0 part [])
/-- Where the supervisor places a partition's notice queue (R322): an address of its own choice (log 24). -/
def noticePlace : Nat := 2 ^ 57 - 2 ^ 20
/-- IMAGE_LOAD (R500, R502): verified against the owner key, measured, started on the partition's first system core; the notice
queue and the pair of rings are placed, the queue's address is reported in the response ring (spec/12 R322; in an entry of NOTICE with
SEQ 0: DESIGN CHOICE, log 23), and the trap routine of the partition's compute cores is the image's (spec/01 R24). 7 when the signature does not
match, 5 when the trap routine is longer than its place. -/
def execImageLoad (part : Nat) (image : SystemImage) (s : State) : Host.Outcome State Fault Refusal :=
  match s.partition part with
  | none => .next (s.respond 0x03 3 part [])
  | some p =>
    if Config.crypto 4 (image.id * 2 ^ 64 + p.owner) % 2 = 0 then .next (s.respond 0x03 7 part [])
    else if 512 < image.trap.length then .next (s.respond 0x03 5 part [])
    else
      let t := ((s.clearArea part noticePlace 0x8040).clearArea part ringPlace 0x3000).setPartition part
        { p with image := some image.id, noticeBase := noticePlace, trap := image.trap }
      let t := t.putPartitionRing part (mailImage 0x0A 0 0 part (bytesOf noticePlace 8))
      .next ((t.setCore (sysBase + p.sysCores.headD 0) (systemCore image.code s.clock)).respond 0x03 0 part [])
/-- DOORBELL_ASSIGN: a page to a context of a partition. -/
def execDoorbellAssign (page : Nat) (ctx : ContextName) (s : State) : Host.Outcome State Fault Refusal :=
  if 4096 ≤ page ∨ (s.partition ctx.part).isNone then .next (s.respond 0x04 3 ctx.part [])
  else .next ((s.setDoorbell page { assigned := true, ctx }).respond 0x04 0 ctx.part [])
/-- WINDOW_SET (R493): windows 0-63, a host offset that is a multiple of 2 MiB, inside BAR4. -/
def execWindowSet (win : Nat) (w : WindowReq) (s : State) : Host.Outcome State Fault Refusal :=
  let st : Nat := if 64 ≤ win ∨ (s.partition w.part).isNone then 3
    else if w.off % 2 ^ 21 ≠ 0 ∨ 2 ^ 40 < w.off + w.size then 5 else 0
  let t := if st = 0 then s.modHost fun h => { h with windows := mput h.windows win w } else s
  .next (t.respond 0x05 st w.part [])
/-- NOTICE: up to 8 entries of a partition's queue from its HEAD, four words each. -/
def execNotice (part : Nat) (s : State) : Host.Outcome State Fault Refusal :=
  match s.partition part with
  | none => .next (s.respond 0x0A 3 part [])
  | some p =>
    let word (a : Nat) : Word := (s.readV part a).getD 0
    let tail := (word p.noticeBase).toNat
    let head := (word (p.noticeBase + 8)).toNat
    let js := (List.range (min 8 (tail - head))).map (· + head)
    .next (s.respond 0x0A 0 part (js.flatMap fun j => (List.range 4).map fun i => word (p.noticeBase + 0x40 + 32 * (j % 1024) + 8 * i)))
/-- PORT: 0 restarts a port, which trains, 1 stops it, and its peer trains in both cases; the route table of its package is set (R498, R405). -/
def execPort (port action : Nat) (routes : List Nat) (s : State) : Host.Outcome State Fault Refusal :=
  let st : Nat := if 18 * 16 ≤ port then 3 else if 1 < action ∨ (routes ≠ [] ∧ routes.length ≠ 16) ∨ routes.any (fun e => e % 128 ≥ 18 ∨ 256 ≤ e) then 5 else 0
  let t := (if action = 0 then s.train port else s.takeDown port).trainFar port
  let y := (routes.zipIdx).foldl (fun m e => mput m (16 * (port / 18) + e.2) (BitVec.ofNat 8 e.1)) t.sup.routes
  .next ((if st = 0 then ({ t with sup := { t.sup with routes := y } } : State) else s).respond 0x0B st s.ctx.part.toNat [])
/-- POWER (R505): the cap, TLIMIT, and a partition's RETIDLE. -/
def execPower (cap tlimit part retidle : Nat) (s : State) : Host.Outcome State Fault Refusal :=
  match s.partition part with
  | none => .next (s.respond 0x0C 3 part [])
  | some p =>
    if cap < 1000 ∨ 3000 < cap ∨ tlimit < 85 ∨ 105 < tlimit ∨ !retIdleOk retidle then .next (s.respond 0x0C 5 part [])
    else
      let t := s.setPartition part { p with retIdle := retidle }
      .next (({ t with sup := { t.sup with cap, tlimit } } : State).respond 0x0C 0 part [])
/-- SUPERVISOR_RESPONSE (R496): `gD` of the calling gang is written, if the gang is still there, and the core released. -/
def execSupervisorResponse (core : Nat) (v : Word) (s : State) : Host.Outcome State Fault Refusal :=
  let k := s.core core
  .next (match k.answer with
    | some n => if !k.stopped then s
        else ((s.setCore core { k.replyG k.slot (n % 16) (16 ≤ n) v false with stopped := false, answer := none })).wake
    | none => if k.stopped ∧ k.gangs.isEmpty then s.setCore core { k with stopped := false } else s)

/-! ### Package reset (R501) -/

/-- The package of a physical address: of a frame, or of an entry of the table assists. -/
def packageOfAddr (a : Nat) : Nat := if tableBase ≤ a then (a - tableBase) / 16 / 2 ^ 24 else a / 65536 / 2 ^ 24
/-- The package of an array. -/
def State.arrayPackage (s : State) (a : ArrayRef) : Nat :=
  match a with
  | .localMem c | .codeStore c | .arrivals c | .buffer c | .gangRegs c => s.dieOf c / 4
  | .slice n => n / 256
  | .stack n => n / 8
  | .clusterBuffer n => n / 3200
  | .pool n => n / 3200
/-- A partition that has anything on a package. -/
def Partition.uses (p : Partition) (pkg : Nat) : Bool :=
  p.area.any (·.pkg = pkg) || p.frames.any (fun r => r.1 / 2 ^ 24 = pkg) || p.ways.any (fun w => w.1 / 4096 = pkg) || p.sysCores.any (· / 64 = pkg)
/-- The partitions that have anything on a package end with its reset, and the context of one of them with it (DESIGN CHOICE, log 21). -/
def State.endPartitions (s : State) (pkg : Nat) : State :=
  (s.sup.partitions.filter fun e => e.2.uses pkg).foldl (fun t e =>
    let mine := t.ctx.started && t.ctx.part.toNat = e.1
    let rs := if mine && !t.ctx.saved then ((t.ctx.cores.map fun x => t.rectOf x.1)).eraseDups else []
    let u := rs.foldl (fun t r => (t.contain r 4).resetInside r) t
    let ctx : Context := if mine then { u.ctx with ended := true, saved := false, savedCores := [], savedClusters := [] } else u.ctx
    ({ u.dropPartition e.1 e.2 rs with ctx } : State)) s
/-- A package reset: all of the package is as after reset but its recorders, CYCLE of its cores counts from here, and it begins at
stage 1. -/
def State.resetPackage (s : State) (pkg : Nat) : State :=
  let t := s.endPartitions pkg
  let fresh : PartCore := { cycle := 0 - s.sinceReset }
  let at' (a : Nat) : Bool := packageOfAddr a = pkg
  let x := t.sup
  { t with
    cores := t.cores.filter fun e => t.dieOf e.1 / 4 ≠ pkg, twins := t.twins.filter fun e => t.dieOf e.1 / 4 ≠ pkg,
    clusters := t.clusters.filter fun e => e.1 / 3200 ≠ pkg,
    parts := (List.range 25600).foldl (fun m i => mput m (25600 * pkg + i) fresh) t.parts,
    disabled := t.disabled.filter fun p => p / 25600 ≠ pkg,
    upsets := t.upsets.filter fun u => t.arrayPackage u.1 ≠ pkg,
    mem := { bytes := t.mem.bytes.filter fun e => !at' e.1, bad := t.mem.bad.filter fun e => !at' (8 * e.1) },
    ipt := t.ipt.filter fun e => e.1 / 2 ^ 24 ≠ pkg,
    changes := t.changes.filter fun e => e.1 / 256 ≠ pkg,
    ports := t.ports.filter fun e => e.1 / 18 ≠ pkg,
    sliceBanks := t.sliceBanks.filter fun e => e.1 / 256 ≠ pkg, stackBanks := t.stackBanks.filter fun e => e.1 / 8 ≠ pkg,
    sliceRet := t.sliceRet.filter fun e => e.1 / 256 ≠ pkg, sliceLost := t.sliceLost.filter fun e => e.1 / 256 ≠ pkg,
    host := if pkg = 0 then { State.reset.host with stage := 1 } else t.host,
    sup := { x with
      packages := x.packages.filter (· ≠ pkg), stopped := x.stopped.filter (· ≠ pkg), tripped := x.tripped.filter (· ≠ pkg),
      throttle := x.throttle.filter fun e => dieOfBlock e.1 / 4 ≠ pkg, looked := x.looked.filter fun e => dieOfBlock e.1 / 4 ≠ pkg,
      routes := x.routes.filter fun e => e.1 / 16 ≠ pkg,
      stages := if pkg = 0 then x.stages else mput x.stages pkg 1 } }
/-- PCIE_RESET: a conventional reset of the host port's package. -/
def execPcieReset (s : State) : Host.Outcome State Fault Refusal := .next (s.resetPackage 0)
/-- RESET: a package reset by DEVCTL. -/
def execReset (s : State) : Host.Outcome State Fault Refusal := .next (s.resetPackage 0)

/-! ### Registers and doorbells (R490-R494) -/

/-- A write of 8 bytes at an offset of BAR0: a register, or an entry of the request ring. -/
def HostPort.writeBar0 (h : HostPort) (off : Nat) (v : Word) : HostPort :=
  if off = 0x10 then { h with reqTail := v.setWidth 6 }
  else if off = 0x28 then { h with rspHead := v.setWidth 6 }
  else if 0x1000 ≤ off ∧ off < 0x2000 then { h with reqRing := putRing h.reqRing (off - 0x1000) (bytesOf v.toNat 8) }
  else h
/-- RING: with BUSY clear and no reserved bit set, RECORD is copied in one step and an append begins. -/
def execRing (page : Nat) (v : Word) (s : State) : Host.Outcome State Fault Refusal :=
  let d := s.doorbell page
  .next (if !s.host.answers ∨ !d.assigned ∨ d.busy ∨ v ≠ 1 then s
    else s.setDoorbell page { d with busy := true, copy := (List.range 0xF8).map fun i => mget 0 d.record i })
/-- DOORBELL_APPEND_DONE: the copy is appended as `launch` does: 0 appended, 1 queue full, 2 invalid. -/
def execDoorbellAppendDone (page : Nat) (s : State) : Host.Outcome State Fault Refusal :=
  let d := s.doorbell page
  let valid : Bool := s.ctx.started && !s.ctx.ended && s.ctx.id.toNat = d.ctx.id && s.ctx.part.toNat = d.ctx.part && (match s.readDir (imageAt d.copy 0 2) with
    | some e => launchValid d.copy e && imageAt d.copy 0 2 ≠ 0 && imageAt d.copy 0 2 ≠ trapRoutine
    | none => false)
  .next (if !d.busy then s
    else
      let (t, r) := if valid then s.append (imageAt d.copy 2 1) d.copy else (s, 2)
      t.setDoorbell page { d with busy := false, copy := [], done := d.done + 1, result := r })
/-- CONTROL: a store of 8 bytes to a queue's CONTROL, performed at its home. -/
def execControl (page q : Nat) (v : Word) (s : State) : Host.Outcome State Fault Refusal :=
  let d := s.doorbell page
  .next (if !s.host.answers ∨ !d.assigned ∨ s.ctx.id.toNat ≠ d.ctx.id ∨ s.ctx.part.toNat ≠ d.ctx.part ∨ !s.ctx.started ∨ 16 ≤ q then s
    else match s.resolve s.ctx.part.toNat (s.queueBase q + 16) true with
      | some pa => s.push (.sliceOperation { src := .host, tag := 0, uids := [], home := none, op := .store [{ addr := pa, size := 8, val := v }] })
      | none => s)
/-- DEVSTAT as it reads (Table 24-2). -/
def HostPort.devstat (h : HostPort) : Word := w64 (bnat h.fatal * 2 ^ 63 + h.fcause * 2 ^ 48 + h.stage)
/-- The control word of a recorder (spec/22 Table 22-3). -/
def Recorder.control (r : Recorder) : Word :=
  w64 (bnat r.frozen * 2 ^ 63 + r.cause * 2 ^ 48 + r.wraps * 2 ^ 32 + r.missed * 2 ^ 16 + r.next)
/-- The 64 bytes of an event record (spec/22 Table 22-4). -/
def Event.image (e : Event) : List Byte :=
  let b := bytesOf e.stamp 8 ++ bytesOf e.type 1 ++ bytesOf e.source 1 ++ bytesOf e.index 2 ++ bytesOf e.pkg 1 ++ bytesOf e.part 1 ++
    bytesOf e.ctx 2 ++ (e.detail.take 6).flatMap fun w => bytesOf w.toNat 8
  b ++ List.replicate (64 - b.length) 0
/-- STATUS of a doorbell page (Table 24-3). -/
def Doorbell.status (d : Doorbell) : Word := w64 (d.done.toNat * 2 ^ 32 + 4 * bnat d.busy + d.result)
/-- A record of a die's recorder as its window shows it. -/
def State.recorded (s : State) (die n : Nat) : List Byte :=
  ((mfind (mget ({} : Recorder) s.recorders die).records n).map Event.image).getD (List.replicate 64 0)
/-- The 8 bytes that a host read of the device registers, the rings, the recorder windows or a doorbell page returns (Tables 24-1
to 24-3). Outside them, in a reserved or a WO field (spec/00 R8), and where nothing answers, it reads zero. -/
def State.hostRead (s : State) (off : Nat) : Word :=
  let h := s.host
  let at8 (bs : List Byte) (i : Nat) : Word := w64 (imageAt bs i 8)
  if off = 0 then h.devstat
  else if 0x200000 ≤ off ∧ off < 0x400000 then
    if h.fatal then at8 (s.recorded ((off - 0x200000) / 0x80000) ((off - 0x200000) % 0x80000 / 64)) (off % 64) else 0
  else if !h.answers then 0
  else if off = 0x10 then h.reqTail.setWidth 64
  else if off = 0x18 then h.reqHead.setWidth 64
  else if off = 0x20 then h.rspTail.setWidth 64
  else if off = 0x28 then h.rspHead.setWidth 64
  else if 0x40 ≤ off ∧ off < 0x60 then if h.fatal then (mget ({} : Recorder) s.recorders ((off - 0x40) / 8)).control else 0
  else if 0x1000 ≤ off ∧ off < 0x2000 then at8 (ringBytes h.reqRing (off - 0x1000) 8) 0
  else if 0x2000 ≤ off ∧ off < 0x3000 then at8 (ringBytes h.rspRing (off - 0x2000) 8) 0
  else if 2 ^ 32 ≤ off then
    let d := s.doorbell ((off - 2 ^ 32) / 0x1000)
    let o := (off - 2 ^ 32) % 0x1000
    if !d.assigned then 0
    else if o < 0xF8 then at8 ((List.range 8).map fun i => mget 0 d.record (o + i)) 0
    else if o = 0x108 then d.status else 0
  else 0
/-- A read of the host answered with the 8 bytes at an offset (R494). -/
def State.answerRead (s : State) (off : Nat) : State := s.modHost fun h => { h with reads := h.reads ++ [(s.hostRead off, 0)] }
/-- DEVSTAT_READ: by then every earlier write of the host has been performed (R494). -/
def execDevstatRead (s : State) : Host.Outcome State Fault Refusal := .next (s.answerRead 0)
/-- A write of the host to a register: outside Table 24-1 it is discarded; DEVCTL resets under its ARM value alone (Table 24-2); a
doorbell's RECORD is staged. Of a reserved field only the write to it is ignored (spec/00 R9). -/
def State.hostWrites (s : State) (off : Nat) (v : Word) : State :=
  if !s.host.answers then s
    else if off = 0x08 then if fieldOf v 15 8 = 0xA5 ∧ v.getLsbD 0 then s.resetPackage 0 else s
    else if 2 ^ 32 ≤ off then
      let page := (off - 2 ^ 32) / 0x1000
      let o := (off - 2 ^ 32) % 0x1000
      let d := s.doorbell page
      if page < 4096 ∧ d.assigned ∧ o + 8 ≤ 0xF8 then
        s.setDoorbell page { d with record := ((bytesOf v.toNat 8).zipIdx).foldl (fun r e => mset 0 r (o + e.2) e.1) d.record }
      else s
    else s.modHost (·.writeBar0 off v)
/-- HOST_REGISTER_WRITE: a write, or a read of a register that has no row of its own. -/
def execHostRegisterWrite (off : Nat) (a : HostAccess) (s : State) : Host.Outcome State Fault Refusal :=
  .next (match a with
    | .write v => s.hostWrites off v
    | .read => s.answerRead off)
/-- MEMORY_WINDOW_ACCESS (R493): translated by the walk for the window's partition; a miss or a permission failure is an
Unsupported Request for a read and discards a write, and is recorded. -/
def execMemoryWindowAccess (off size : Nat) (write : Bool) (v : Word) (s : State) : Host.Outcome State Fault Refusal :=
  let outside (t : State) : State := if write then t else t.modHost fun h => { h with reads := h.reads ++ [(0, 0)] }
  let failed (t : State) (a : Nat) : State :=
    let t := if write then t else t.modHost fun h => { h with reads := h.reads ++ [(0, 2)] }
    t.recordRefused .host 0 (w64 a) (sourceWord .host)
  .next (if !s.host.answers then s
    else match s.host.windows.find? fun w => w.2.off ≤ off && off + size ≤ w.2.off + w.2.size with
      | none => outside s
      | some w =>
        let a := w.2.vbase + (off - w.2.off)
        if !(if write then w.2.wr else w.2.rd) then failed s a
        else match s.resolve w.2.part a write with
          | none => failed s a
          | some pa =>
            let op : MemOp := if write then .store [{ addr := pa, size, val := v }] else .load [(pa, size)]
            s.push (.sliceOperation { src := .host, tag := 0, uids := [], home := none, op }))

/-! ### Identity and measurement (R503, R504) -/

/-- Words that cryptography makes, left open (log 5): which, from what, how many. -/
def cryptoWords (which input n : Nat) : List Word := (List.range n).map fun i => w64 (Config.crypto which (input * 64 + i))
/-- A signature by the identity key, over P-384: 96 bytes. -/
def signed (input : Nat) : List Word := cryptoWords 15 input 12
/-- An answer in SPDM form, in its session. -/
def State.spdmAnswer (s : State) (session status : Nat) (payload : List Word) : State := s.respond 0x09 status session payload
/-- GET_VERSION: SPDM 1.2. -/
def execGetVersion (session : Nat) (s : State) : Host.Outcome State Fault Refusal := .next (s.spdmAnswer session 0 [0x1200])
/-- GET_CAPABILITIES. -/
def execGetCapabilities (session : Nat) (s : State) : Host.Outcome State Fault Refusal :=
  .next (s.spdmAnswer session 0 (cryptoWords 10 session 1))
/-- NEGOTIATE_ALGORITHMS: ECDSA over P-384 with SHA-384, measurements by SHA-256; their codes are left open. -/
def execNegotiateAlgorithms (session : Nat) (s : State) : Host.Outcome State Fault Refusal :=
  .next (s.spdmAnswer session 0 (cryptoWords 11 session 1))
/-- The certificate chain of the configuration image of the host port's package (R502). -/
def certificateChain : List Byte := ((Config.flash 0).map (·.chain)).getD []
/-- GET_DIGESTS: of the certificate chain, 48 bytes by SHA-384. -/
def execGetDigests (session : Nat) (s : State) : Host.Outcome State Fault Refusal :=
  .next (s.spdmAnswer session 0 (cryptoWords 12 (imageAt certificateChain 0 certificateChain.length) 6))
/-- GET_CERTIFICATE: part of the chain in the configuration image. -/
def execGetCertificate (session off len : Nat) (s : State) : Host.Outcome State Fault Refusal :=
  let bs := (certificateChain.drop off).take len
  .next (s.spdmAnswer session 0 ((List.range ((bs.length + 7) / 8)).map fun i => w64 (imageAt bs (8 * i) 8)))
/-- CHALLENGE: signed with the identity key. -/
def execChallenge (session nonce : Nat) (s : State) : Host.Outcome State Fault Refusal :=
  .next (s.spdmAnswer session 0 (signed nonce))
/-- A measurement, a digest of 32 bytes by SHA-256: index 2 comes with the security version (R504). -/
def measurement (index input : Nat) : List Word :=
  cryptoWords (20 + index) input 4 ++ if index = 2 then [w64 (((Config.flash 0).map (·.security)).getD 0)] else []
/-- GET_MEASUREMENTS: indices 1 to 3, and 16 + p for a partition's own session or an operator's, 0. -/
def execGetMeasurements (session index : Nat) (s : State) : Host.Outcome State Fault Refusal :=
  .next (if 1 ≤ index ∧ index ≤ 3 then s.spdmAnswer session 0 (measurement index 0)
    else match s.partition (index - 16) with
      | none => s.spdmAnswer session 3 []
      | some p =>
        if index < 16 then s.spdmAnswer session 3 []
        else if session ≠ 0 ∧ session ≠ index - 16 then s.spdmAnswer session 1 []
        else match p.image with
          | some i => s.spdmAnswer session 0 (measurement 16 i)
          | none => s.spdmAnswer session 3 [])
/-- SPDM: one message of a session, told apart by the request codes of DMTF SPDM 1.2 (log 5). -/
def execSpdm (session : Nat) (msg : SpdmReq) (s : State) : Host.Outcome State Fault Refusal :=
  .next (match msg.code with
    | 0x84 => s.push (.getVersion session)
    | 0xE1 => s.push (.getCapabilities session)
    | 0xE3 => s.push (.negotiateAlgorithms session)
    | 0x81 => s.push (.getDigests session)
    | 0x82 => s.push (.getCertificate session msg.off msg.len)
    | 0x83 => s.push (.challenge session msg.nonce)
    | 0xE0 => s.push (.getMeasurements session msg.index)
    | _ => s.spdmAnswer session 5 [])

end Sys2Proof.Machine
end

