-- ==== Sys2Proof/Machine/System.lean ====
section
/-! DEFINITION. System and privileged instructions (spec/12 R299-R307, R314, R321), opcodes 0xF0 to 0xFF: special registers,
calls with the partition services, the return from a trap, debug points, invalidations, handler-table entries, error banks. -/
namespace Sys2Proof.Machine

/-- An instruction that runs at these levels; at any other it raises the privileged trap (R299). -/
def State.atLevels (s : State) (levels : List Nat) (body : Out) : Out :=
  if levels.contains s.me.priv.toNat then body else s.trapHere 0x02 0

/-! ### Special registers (spec/01 Table 1-4, R300) -/

/-- What a level may do with a register. -/
inductive Right where
  | privileged | readOnly | readWrite
  deriving DecidableEq, Repr
/-- The Access column of Table 1-4 (spec/01 R34). -/
def rightOf (n priv : Nat) : Right :=
  if n = 0x0A then .readWrite
  else if n = 0x0C then (if priv = 0 then .readOnly else .readWrite)
  else if n = 0x0D ∨ n = 0x0E then (if priv = 2 then .readWrite else .readOnly)
  else if 0x10 ≤ n ∧ n ≤ 0x16 then (if priv = 0 then .privileged else .readWrite)
  else if n = 0x18 then (if priv = 0 then .privileged else if priv = 2 then .readWrite else .readOnly)
  else .readOnly
/-- Registers that hold one value per lane. -/
def laneSpecial (n : Nat) : Bool := n = 0x05 || n = 0x06 || n = 0x0A
/-- A lane register's value in lane i. -/
def Lane.special (l : Lane) (n i : Nat) : Word :=
  if n = 0x05 then l.strand.setWidth 64 else if n = 0x06 then w64 i else l.draw.setWidth 64
/-- The context of the acting core; a core that a containment has reset, and a system core, belong to none (R34, R475). -/
def State.ofContext (s : State) (x : Word) : Word := if s.me.member then x else 0
/-- A register of the core, its gang or its context, zero-extended (spec/01 R33). -/
def State.special (s : State) (n : Nat) : Word :=
  let k := s.me
  match n with
  | 0x00 => k.logicalId.setWidth 64
  | 0x01 => k.rank.setWidth 64
  | 0x02 => s.ofContext (w64 s.ctx.cores.length)
  | 0x03 => s.ofContext (s.ctx.id.setWidth 64)
  | 0x04 => if sysBase ≤ s.cur then w64 (s.partOf s.cur) else s.ofContext (s.ctx.part.setWidth 64)
  | 0x07 => w64 k.gang.lanes.length
  | 0x08 => w64 k.gang.grant
  | 0x09 => w64 k.gang.channel
  | 0x0B => k.usc.setWidth 64
  | 0x0C => k.mprog.setWidth 64
  | 0x0D => s.cycleOf s.cur
  | 0x0E => k.retired
  | 0x0F => k.priv.setWidth 64
  | 0x10 => k.xpc0.setWidth 64
  | 0x11 => k.xpc1.setWidth 64
  | 0x12 => k.xpc2.setWidth 64
  | 0x13 => k.trapCause.setWidth 64
  | 0x14 => k.trapInfo
  | 0x15 => k.trapLanes.setWidth 64
  | 0x16 => w64 (s.timerRead s.cur)
  | 0x17 => s.ofContext s.ctx.seed
  | 0x18 => s.ofContext s.ctx.ccb
  | _ => 0
/-- TIMER written: a new count, or disarmed; a pending trap stays (spec/01 R36). -/
def Core.setTimer (k : Core) (v : BitVec 32) (clock : Nat) : Core := { k with timer := v, timerAt := clock }
/-- A register written; MPROG moves only while the core's command is stopped (spec/11 R284). -/
def State.setSpecial (s : State) (n : Nat) (v : Word) : State :=
  match n with
  | 0x0C => s.modMe fun k => if k.matrixQ.cause = 0 then k else { k with mprog := v.setWidth 16 }
  | 0x0D => s.modMe fun k => { k with cycle := v - s.sinceReset }
  | 0x0E => s.modMe fun k => { k with retired := v }
  | 0x10 => s.modMe fun k => { k with xpc0 := v.setWidth 32 }
  | 0x11 => s.modMe fun k => { k with xpc1 := v.setWidth 32 }
  | 0x12 => s.modMe fun k => { k with xpc2 := v.setWidth 32 }
  | 0x13 => s.modMe fun k => { k with trapCause := v.setWidth 16 }
  | 0x14 => s.modMe fun k => { k with trapInfo := v }
  | 0x15 => s.modMe fun k => { k with trapLanes := v.setWidth 32 }
  | 0x16 => s.modMe (·.setTimer (v.setWidth 32) s.clock)
  | 0x18 => { s with ctx := { s.ctx with ccb := v } }
  | _ => s
/-- `sget`: a lane register goes to `wD` and `lt` in every lane, any other to `gD`. -/
def execSget (d : BitVec 4) (n : BitVec 8) (s : State) : Host.Outcome State Fault Refusal :=
  let r := n.toNat
  s.finish (if rightOf r s.me.priv.toNat = .privileged then s.trapHere 0x02 0
    else if laneSpecial r then
      let is := s.gang.active
      s.laneGate 0 is [] [ltNum, d.toNat] (.next (s.modGang (·.mapLanes is fun i l => l.write d.toNat (l.special r i) false)))
    else s.gate [] [d] (.next (s.writeG d (s.special r))))
/-- `sset`: a register that is RO at the level stays as it is. -/
def execSset (a : BitVec 4) (n : BitVec 8) (s : State) : Host.Outcome State Fault Refusal :=
  let r := n.toNat
  let right := rightOf r s.me.priv.toNat
  s.finish (if right = .privileged then s.trapHere 0x02 0
    else if laneSpecial r then
      let is := s.gang.active
      s.laneGate 0 is [a.toNat] [a.toNat] (if right = .readOnly then .next s
        else .next (s.modGang (·.mapLanes is fun _ l => { l with draw := (l.read a.toNat).setWidth 32 })))
    else s.gate [a] [a] (.next (if right = .readOnly then s else s.setSpecial r (s.readG a))))

/-! ### Calls and partition services (R301, R312) -/

/-- A core of the context, running or saved (R317). -/
def State.modOwn (s : State) (c : Nat) (f : Core → Core) : State :=
  if s.ctx.saved then { s with ctx := { s.ctx with savedCores := mput s.ctx.savedCores c (f (mget {} s.ctx.savedCores c)) } }
  else s.modCore c f
def State.ownCore (s : State) (c : Nat) : Core := if s.ctx.saved then mget {} s.ctx.savedCores c else s.core c
/-- The message of a frame return: the header of Table 6-1 with the frame's address. -/
def frameReturn (f : FaultSave) (a uid : Nat) : CarryMsg :=
  { code := f.gang.q0, strand := (f.lanes.head?.map (·.strand)).getD 0, preds := 1, draw := 0, pend := 0, side := [], regs := [],
    poison := 0, uid, frame := some a }
/-- The frame in use that a token names: its core and its save. -/
def State.frameOf (s : State) (a : Nat) : Option (Nat × FaultSave) :=
  (s.ctx.cores.filterMap fun e =>
    ((s.ownCore e.1).faults.find? fun f => f.written && s.frameAt e.1 f.frame = a &&
      !(s.ownCore e.1).outbox.any fun o => match o.msg.body with
        | .carry m => m.frame = some a
        | _ => false).map fun f => (e.1, f)).head?
/-- Fault done (R312): a frame's return is queued at its saving core, or a stopped copy tries again; the status. -/
def State.faultDone (s : State) (tok : Word) : State × Nat :=
  if tok.getLsbD 63 then
    let c := fieldOf tok 19 0
    let q := fieldOf tok 21 20
    if !s.hasCore c then (s, 1)
    else if !s.reachesCtx then (s, 2)
    else if ((s.ownCore c).copyQ q).cause = 0x05 then
      ((s.modOwn c fun k => k.setCopyQ q { k.copyQ q with cause := 0, addr := 0 }).wake, 0)
    else (s, 1)
  else match s.frameOf tok.toNat with
    | none => (s, 1)
    | some (c, f) =>
      if !s.reachesCtx then (s, 2)
      else match s.readDir (routineOf f.gang.q0) with
      | none => (s, 1)
      | some e =>
        if !e.known ∨ e.channel = 0xFF then (s, 1)
        else
          let (d, t) := s.chooseReplica c e false
          let o := carryOut c t.nextTag d 5 t.clock e (frameReturn f tok.toNat t.nextTag)
          let o := { o with msg := { o.msg with slots := carrySlots 0 }, laneUid := 0 }
          let t := (t.modOwn c fun k => { k with
            outbox := k.outbox ++ [o], faults := k.faults.map fun (x : FaultSave) => if x.frame = f.frame then { x with returned := true } else x }).fresh
          (if t.ctx.saved then t.recordSaved c o else t, 0)
/-- The services of `pcall` at levels 1 and 2: the status. A post of a core that holds an older notice stands behind it (spec/12
R322). -/
def State.service (s : State) (sel : Nat) (v : Word) : State × Nat :=
  if sel = 0 then
    let own := s.hasCore s.cur
    let n : Notice := ⟨w64 (0x50 + (if own then s.ctx.id.toNat * 65536 else 0) + s.me.logicalId.toNat * 2 ^ 32), v, 0, 0⟩
    match s.noticeRoom (s.partOf s.cur), s.oldestNotice (.core s.cur) with
    | none, _ => (s, 1)
    | some _, some _ => (s.holdNotice (.core s.cur) n, 0)
    | some (q, tail), none => (s.writeNotice (s.partOf s.cur) q tail n, 0)
  else if sel = 1 then s.faultDone v
  else if sel = 2 then
    let c := fieldOf v 19 0
    if s.ctx.started ∧ fieldOf v 35 20 = s.ctx.id.toNat ∧ s.sees c then
      (s.modOwn c (·.setTimer (BitVec.ofNat 32 (fieldOf v 63 36)) s.clock), 0)
    else (s, 1)
  else (s, 2)
/-- `pcall`: the partition call at level 0, a service above it. -/
def execPcall (d a : BitVec 4) (sel : BitVec 8) (s : State) : Host.Outcome State Fault Refusal :=
  let v := s.readG a
  s.finish (s.gate [a] [d, a] <|
    if s.me.priv = 0 then .next s [⟨0x14, sel.toNat, v, s.allLanes⟩]
    else
      let r := s.service sel.toNat v
      .next (r.1.writeG d (w64 r.2)))
/-- `scall`: the supervisor call, taken at level 2; the response writes `gD`. -/
def execScall (d a : BitVec 4) (sel : BitVec 8) (s : State) : Host.Outcome State Fault Refusal :=
  s.finish (s.atLevels [0, 1] <| s.gate [a] [d, a] <|
    .next (s.modMe fun k => { k with answer := some (d.toNat + if k.priv = 1 then 16 else 0) })
      [⟨0x13, sel.toNat, s.readG a, s.allLanes⟩])
/-- `tret` (R296). -/
def execTret (s : State) : Host.Outcome State Fault Refusal :=
  let t := s.setMe s.me.leave
  let halts : Bool := match s.me.owner with
    | .gang i => (t.me.at i).halted
    | _ => false
  s.finish (s.atLevels [1] (.stay (if halts then t.tellHalt s.cur s.me.slot else t)))
/-- `brk`. -/
def execBrk (sel : BitVec 8) (s : State) : Host.Outcome State Fault Refusal :=
  s.finish (.next s [⟨0x0F, 0, sel.setWidth 64, s.allLanes⟩])

/-! ### Debug points (R305; spec/23 R480-R482) -/

/-- Bits of the context's DEBUG byte (Table 23-1). -/
def Context.debugs (x : Context) (i : Nat) : Bool := BitVec.getLsbD x.debug i
/-- The status of a point's image: a reserved bit, then the enables. -/
def State.pointStatus (s : State) (code : Bool) (w0 w1 : Word) : Nat :=
  if code then
    if fieldOf w0 63 32 ≠ 0 ∨ fieldOf w1 63 1 ≠ 0 then 1 else if s.ctx.debugs 0 then 0 else 2
  else if fieldOf w1 61 48 ≠ 0 then 1 else if s.ctx.debugs 1 then 0 else 2
/-- A point set on a core. -/
def Core.setPoint (k : Core) (code : Bool) (n : Nat) (w0 w1 : Word) : Core :=
  if code then { k with breaks := if w1.getLsbD 0 then mput k.breaks n (w0.setWidth 32) else mdel k.breaks n }
  else
    let off : Bool := fieldOf w1 63 62 = 0
    { k with watches := if off then mdel k.watches n else mput k.watches n (w0.toNat, fieldOf w1 47 0, fieldOf w1 63 62) }
/-- Every core of the context takes a point, the saved ones of a pre-empted context too (spec/23 R481). -/
def State.setPoint (s : State) (code : Bool) (n : Nat) (w0 w1 : Word) : State :=
  { s with cores := s.cores.map fun e => if s.hasCore e.1 then (e.1, e.2.setPoint code n w0 w1) else e,
           ctx := { s.ctx with savedCores := s.ctx.savedCores.map fun (e : Nat × Core) => (e.1, e.2.setPoint code n w0 w1) } }
/-- `wpset`. -/
def execWpset (d a : BitVec 4) (k : BitVec 1) (n : BitVec 3) (s : State) : Host.Outcome State Fault Refusal :=
  s.finish (s.atLevels [1] <| s.imageForm a [d, a] 16 fun off => s.readImage off 2 fun t ws =>
    let w0 := ws.getD 0 0
    let w1 := ws.getD 1 0
    let st := t.pointStatus (k = 1) w0 w1
    .next ((if st = 0 ∧ t.reachesCtx then t.setPoint (k = 1) n.toNat w0 w1 else t).writeG d (w64 st)))
/-- The interrupted gang changed, when there is one and STEP is enabled (spec/23 R480). -/
def State.onInterrupted (s : State) (f : Gang → Gang) : State :=
  match s.me.owner with
  | .gang i => if s.ctx.debugs 2 then s.modMe fun k => k.setAt i (f (k.at i)) else s
  | _ => s
/-- `halt`: the `tret` that follows leaves the gang in debug halt. -/
def execHalt (s : State) : Host.Outcome State Fault Refusal :=
  s.finish (s.atLevels [1] (.next (s.onInterrupted fun g => { g with haltAtTret := true })))
/-- `sstep`: after `tret` one instruction, then the single-step trap. -/
def execSstep (_a : BitVec 4) (s : State) : Host.Outcome State Fault Refusal :=
  s.finish (s.atLevels [1] (.next (s.onInterrupted fun g => { g with stepArmed := .gang })))
/-- `sstep.ln`: the same in one lane. -/
def execSstepLn (a : BitVec 4) (s : State) : Host.Outcome State Fault Refusal :=
  s.finish (s.atLevels [1] <| s.gate [a] [a] <|
    .next (s.onInterrupted fun g => { g with stepArmed := .lane (fieldOf (s.readG a) 4 0) }))

/-! ### Invalidations (R314, R315) -/

/-- Which entries an invalidation drops: a 64 KiB page, a 2 MiB page, or all. -/
inductive Drop where
  | small (page : Nat) | large (page : Nat) | all
  deriving DecidableEq, Repr
def Drop.keeps (d : Drop) (e : TlbEntry) : Bool :=
  match d with
  | .small p => e.large || e.vpn ≠ p
  | .large p => !e.large || e.vpn / 32 ≠ p / 32
  | .all => false
/-- A core within a scope of the acting core (spec/01 Table 1-7); a system core has a die, and stands in no quad and no cluster. -/
def State.inScope (s : State) (scope c : Nat) : Bool :=
  c = s.cur || (if sysBase ≤ c || sysBase ≤ s.cur then
      (if scope = 4 then s.dieOf c = s.dieOf s.cur else if scope = 5 then s.dieOf c / 4 = s.dieOf s.cur / 4 else 6 ≤ scope)
    else s.extent c scope = s.extent s.cur scope)
/-- The cores of the context within a scope around the acting core. -/
def State.within (s : State) (scope : Nat) : List Nat :=
  let part := s.partOf s.cur
  let mine := if part = s.ctx.part.toNat then s.ctx.cores.map (·.1) else []
  let system := ((mfind s.sup.partitions part).map (·.sysCores)).getD [] |>.map (sysBase + ·)
  (mine ++ system).filter fun c => (mfind s.cores c).isSome && s.inScope scope c
/-- Entries dropped in the buffers of the scope's cores and of their clusters; each core's acknowledgement on its way. -/
def State.invalidate (s : State) (scope : Nat) (d : Drop) : State :=
  let cs := s.within scope
  let tag := s.nextTag
  let t := cs.foldl (fun t c =>
    (t.modCore c fun k => { k with tlb := k.tlb.filter d.keeps }).modCluster (t.clusterOf c) fun u =>
      { u with tlb := u.tlb.filter d.keeps }) s
  let t := cs.foldl (fun t c => t.push (.invalidationAck c tag)) t.fresh
  t.modGang fun g => { g with phase := .acks tag cs.length 0 }
/-- What the forms share: the release, the broadcast, the acknowledgements. -/
def State.invalidateForm (s : State) (scope : BitVec 3) (gated : Out → Out) (d : Drop) : Out :=
  s.atLevels [1, 2] <|
    match s.gang.phase with
    | .acks _ 0 _ => .next s
    | .acks _ _ _ => .wait s
    | _ => gated (s.whenPut (.wait (s.invalidate (scope.toNat + 1) d)))
/-- `xlinv`. -/
def execXlinv (a : BitVec 4) (sc : BitVec 3) (s : State) : Host.Outcome State Fault Refusal :=
  s.finish (s.invalidateForm sc (s.gateAddr [a] [] [a] (s.readG a)) (.small (pageOf (s.readG a))))
/-- `xlinv.lg`. -/
def execXlinvLg (a : BitVec 4) (sc : BitVec 3) (s : State) : Host.Outcome State Fault Refusal :=
  s.finish (s.invalidateForm sc (s.gateAddr [a] [] [a] (s.readG a)) (.large (pageOf (s.readG a))))
/-- `xlinv.all`. -/
def execXlinvAll (sc : BitVec 3) (s : State) : Host.Outcome State Fault Refusal :=
  s.finish (s.invalidateForm sc id .all)

/-! ### The interrupted gang's registers, and the handler table (R302, R303) -/

/-- The gang that the trap routine has interrupted; none in the system slot. -/
def Core.interrupted (k : Core) : Option Nat :=
  match k.owner with
  | .gang i => some i
  | _ => none
/-- A gang's own register, `g0` reading zero. -/
def Gang.own (g : Gang) (n : Nat) : Word := if n = 0 then 0 else mget 0 g.g n
def Gang.ownBad (g : Gang) (n : Nat) : Bool := n ≠ 0 && g.gPoison.getLsbD n
def Gang.ownPend (g : Gang) (n : Nat) : Bool := n ≠ 0 && g.gPend.getLsbD n
/-- `cldw`: poison is copied (spec/22 R465). -/
def execCldw (d n : BitVec 4) (s : State) : Host.Outcome State Fault Refusal :=
  s.finish (s.atLevels [1] <| s.gate [] [d] <|
    match s.me.interrupted with
    | none => .next (s.writeG d 0)
    | some i =>
      let g := s.me.at i
      if g.ownPend n.toNat then .wait s else .next (s.writeG d (g.own n.toNat) (g.ownBad n.toNat)))
/-- `cldw.w`. -/
def execCldwW (a n : BitVec 4) (s : State) : Host.Outcome State Fault Refusal :=
  s.finish (s.atLevels [1] <| s.gate [] [a] <|
    match s.me.interrupted with
    | none => .next s
    | some i =>
      let g := s.me.at i
      if n = 0 then .next s
      else if g.ownPend n.toNat then .wait s
      else .next (s.modMe fun k => k.setAt i
        { g with g := mset 0 g.g n.toNat (s.readG a), gPoison := bput g.gPoison n.toNat (s.me.poisonG a.toNat) }))
/-- `chrd`. -/
def execChrd (a : BitVec 4) (c : BitVec 6) (s : State) : Host.Outcome State Fault Refusal :=
  s.finish (s.atLevels [1] <| s.imageForm a [a] 16 fun off =>
    s.storeImage off [(s.me.channel c.toNat).word0, s.me.channelStatus c.toNat])
/-- The entry that `chwr` writes: STATE follows ROUTINE, with no rebinding. -/
def Channel.written (h : Channel) (w0 w1 : Word) : Channel :=
  let c := { h with word0 := w0, enable := w1.getLsbD 0, hold := w1.getLsbD 2, next := none }
  let st := if c.routine = 0 then 0 else 1
  { c with state := st, told := h.told && h.state = 0 && st = 0 }
/-- `chwr`. -/
def execChwr (d a : BitVec 4) (c : BitVec 6) (s : State) : Host.Outcome State Fault Refusal :=
  let ch := c.toNat
  s.finish (s.atLevels [1] <| s.imageForm a [d, a] 16 fun off => s.readImage off 2 fun t ws =>
    let k := t.me
    let h := k.channel ch
    let x := h.written (ws.getD 0 0) (ws.getD 1 0)
    let st := if k.bindStatus ch x ≠ 0 then k.bindStatus ch x else if k.resident ch ∨ h.state = 2 then 4 else 0
    if st ≠ 0 then .next (t.writeG d (w64 st))
    else .next ((((t.modMe (·.setChannel ch x)).bindRing t.cur ch).regrant t.cur ch).writeG d 0))

/-! ### Error banks, injections, idle (R306, R307, R321; spec/22 R464) -/

/-- Where a bank is. -/
inductive BankAt where
  | core (c : Nat) | part (n : Nat) | cluster (n : Nat) | slice (n : Nat) | stack (n : Nat) | none
  deriving DecidableEq, Repr
/-- The bank that a selector names (Table 22-2): of a position at which no core of the context stands, the part's. -/
def State.bankNamed (s : State) (v : Word) : BankAt :=
  let kind := fieldOf v 63 60
  let pkg := fieldOf v 59 56
  let i := fieldOf v 15 0
  if fieldOf v 55 16 ≠ 0 then .none
  else if kind = 0 then (if v = 0 then .core s.cur else .none)
  else if kind = 1 then
    if 25600 ≤ i then .none
    else match (if s.ctx.saved then [] else s.ctx.cores).find? fun e => e.2.1 = pkg && coreIndexAt e.2 = i with
      | some e => .core e.1
      | Option.none => .part (25600 * pkg + i)
  else if kind = 2 ∧ i < 64 then .core (sysBase + 64 * pkg + i)
  else if kind = 3 ∧ i < 256 then .slice (256 * pkg + i)
  else if kind = 4 ∧ i < 8 then .stack (8 * pkg + i)
  else if kind = 5 ∧ i < 3200 then .cluster (3200 * pkg + i)
  else .none
def State.bank (s : State) : BankAt → Option ErrorBank
  | .core c => some (s.core c).bank
  | .part n => some (mget {} s.parts n).bank
  | .cluster n => some (s.cluster n).bank
  | .slice n => some (mget {} s.sliceBanks n)
  | .stack n => some (mget {} s.stackBanks n)
  | .none => Option.none
def State.setBank (s : State) (b : ErrorBank) : BankAt → State
  | .core c => s.modCore c fun k => { k with bank := b }
  | .part n => { s with parts := mput s.parts n { mget {} s.parts n with bank := b } }
  | .cluster n => s.modCluster n fun u => { u with bank := b }
  | .slice n => { s with sliceBanks := mput s.sliceBanks n b }
  | .stack n => { s with stackBanks := mput s.stackBanks n b }
  | .none => s
/-- VALID, UE, OVF, LOST and CECOUNT cleared. -/
def ErrorBank.clear (b : ErrorBank) : ErrorBank :=
  { b with words := (b.words.getD 0 0 &&& 0x1F000000FFFFFFFF#64) :: b.words.drop 1 }
/-- A read of word w: word 0 takes the snapshot that the others read. -/
def ErrorBank.read (b : ErrorBank) (w : Nat) : Word × ErrorBank :=
  if w = 0 then (b.words.getD 0 0, { b with snap := b.words }) else (b.snap.getD w 0, b)
/-- `ebrd` and `ebrd.clr`. -/
def State.bankForm (s : State) (d a : BitVec 4) (w : BitVec 2) (clear : Bool) : Out :=
  s.atLevels [1, 2] <| s.gate [a] [d, a] <|
    let v := s.readG a
    if s.me.priv = 1 ∧ v ≠ 0 then s.trapHere 0x02 0
    else match s.bank (s.bankNamed v) with
      | Option.none => .next (s.writeG d 0)
      | some b =>
        let r := b.read w.toNat
        .next ((s.setBank (if clear then r.2.clear else r.2) (s.bankNamed v)).writeG d r.1)
/-- `ebrd`. -/
def execEbrd (d a : BitVec 4) (w : BitVec 2) (s : State) : Host.Outcome State Fault Refusal := s.finish (s.bankForm d a w false)
/-- `ebrd.clr`. -/
def execEbrdClr (d a : BitVec 4) (w : BitVec 2) (s : State) : Host.Outcome State Fault Refusal := s.finish (s.bankForm d a w true)
/-- `inj`: one injected error of a kind is armed, if none of it is. -/
def execInj (d a : BitVec 4) (sel : BitVec 8) (s : State) : Host.Outcome State Fault Refusal :=
  s.finish (s.atLevels [1, 2] <| s.gate [a] [d, a] <|
    if s.me.inject.any (·.1 = sel.toNat) then .next (s.writeG d 1)
    else .next ((s.modMe fun k => { k with inject := k.inject ++ [(sel.toNat, s.readG a)] }).writeG d 0))
/-- `idle`: the core issues nothing until the cycles pass, an arrival comes, or its timer reaches zero. -/
def execIdle (a : BitVec 4) (s : State) : Host.Outcome State Fault Refusal :=
  s.finish (s.atLevels [1, 2] <| s.gate [a] [a] <|
    .next (s.modMe fun k => { k with idle := some (s.clock, (s.readG a).toNat) }))

end Sys2Proof.Machine
end

