-- ==== Sys2Proof/Machine/Debugger.lean ====
section
/-! DEFINITION. The Ikitik debug protocol (spec/23 R480-R488). A request carries the fields of Table 23-2 and its payload;
for SETPOINT `num` is the selector byte, for WRITEREG `kind` the register's kind and `num` its number, for READMEM `val` the
address and `len` the bytes, for READRECORDER `num` the die, `val` the first record and `len` their count (log 25). -/
namespace Sys2Proof.Machine

/-! ### Requests and responses (R486) -/

/-- A response through mailbox command 0x08: the 16-byte header of Table 23-2, and `len` bytes of payload. -/
def State.ikitik (s : State) (opc : Nat) (q : IkitikReq) (status : Nat) (payload : List Word := []) (len : Nat := 8 * payload.length) : State :=
  s.respond 0x08 0 q.part (w64 (opc + status * 256 + q.seq * 65536 + q.part * 2 ^ 32 + q.ctx * 2 ^ 48) ::
    w64 (q.core % 2 ^ 32 + q.slot % 256 * 2 ^ 32 + q.lane % 256 * 2 ^ 40 + len % 65536 * 2 ^ 48) :: payload)
/-- The whole context. -/
def everyCore : Nat := 0xFFFFFFFF
/-- The cores and slots that a request names, those with a gang. -/
def State.named (s : State) (q : IkitikReq) : List (Nat × Nat) :=
  s.cores.flatMap fun e =>
    if (q.core = everyCore ∨ q.core = e.1) ∧ s.hasCore e.1 then
      (e.2.gangs.filter fun g => g.1 < 4 && (q.slot = 0xFF || q.slot = g.1)).map fun g => (e.1, g.1)
    else []
/-- Whether a request names a core of the context. -/
def State.knows (s : State) (q : IkitikReq) : Bool := q.core = everyCore || s.hasCore q.core
/-- Why a request is refused before its effect: 1 not owner, 2 not enabled, 3 no such target. -/
def State.refusal (s : State) (q : IkitikReq) (enable : Nat) : Nat :=
  if s.sup.session ≠ 0 ∧ q.part ≠ s.sup.session then 1
  else if !s.ctx.started ∨ q.ctx ≠ s.ctx.id.toNat ∨ q.part ≠ s.ctx.part.toNat then 3
  else if !s.ctx.debugs enable then 2
  else if !s.knows q then 3
  else 0
/-- A request that is not refused goes on. -/
def State.serve (s : State) (opc enable : Nat) (q : IkitikReq) (body : State) : State :=
  if s.refusal q enable ≠ 0 then s.ikitik opc q (s.refusal q enable) else body
/-- A gang that a request changes. -/
def State.modGangAt (s : State) (t : Nat × Nat) (f : Gang → Gang) : State := s.modCore t.1 fun k => k.setAt t.2 (f (k.at t.2))
def State.gangAt (s : State) (t : Nat × Nat) : Gang := (s.core t.1).at t.2
/-- A request on the gangs it names, which must be halted (4) when it says so. -/
def State.onGangs (s : State) (opc : Nat) (q : IkitikReq) (halted : Bool) (body : List (Nat × Nat) → State) : State :=
  if (s.named q).isEmpty then s.ikitik opc q 3
  else if halted && (s.named q).any fun t => !(s.gangAt t).halted then s.ikitik opc q 4
  else body (s.named q)
/-- Each of some gangs changed. -/
def State.modGangsAt (s : State) (ts : List (Nat × Nat)) (f : Gang → Gang) : State := ts.foldl (fun s t => s.modGangAt t f) s

/-! ### Halt, resume, step (R483-R485, R487) -/

/-- IKITIK_HALT: each named gang halts at the next boundary that allows it; a halt of the whole context stops the derrick. -/
def execIkitikHalt (q : IkitikReq) (s : State) : Host.Outcome State Fault Refusal :=
  .next (s.serve 0x01 2 q <|
    let ts := s.named q
    if ts.isEmpty ∧ q.core ≠ everyCore then s.ikitik 0x01 q 3
    else
      let t := ts.foldl (fun t x => t.modGangAt x fun g => if g.halted then g else { g with haltAsked := true }) s
      let t := if q.core = everyCore then { t with ctx := { t.ctx with derrickHalt := true } } else t
      t.ikitik 0x01 q 0)
/-- IKITIK_RESUME: debug halt is cleared; a code breakpoint does not match the first execution. -/
def execIkitikResume (q : IkitikReq) (s : State) : Host.Outcome State Fault Refusal :=
  .next (s.serve 0x02 2 q <|
    let ts := s.named q
    if ts.isEmpty ∧ q.core ≠ everyCore then s.ikitik 0x02 q 3
    else
      let t := ts.foldl (fun t x => t.modGangAt x fun g =>
        { g with halted := false, haltAsked := false, skipBreak := g.halted || g.skipBreak, waiting := false }) s
      ({ t with ctx := { t.ctx with derrickHalt := false } } : State).ikitik 0x02 q 0)
/-- A halted gang executes one instruction and halts again. -/
def Gang.debugStep (g : Gang) (how : Stepping) : Gang :=
  { g with halted := false, step := how, stepDebug := true, skipBreak := true, waiting := false }
/-- IKITIK_STEP. -/
def execIkitikStep (q : IkitikReq) (s : State) : Host.Outcome State Fault Refusal :=
  .next (s.serve 0x03 2 q <| s.onGangs 0x03 q true fun ts => (s.modGangsAt ts (·.debugStep .gang)).ikitik 0x03 q 0)
/-- STEPLANE: status 3 for a lane at or beyond GANG_SIZE. -/
def execSteplane (q : IkitikReq) (s : State) : Host.Outcome State Fault Refusal :=
  .next (s.serve 0x04 2 q <| s.onGangs 0x04 q true fun ts =>
    if ts.any fun t => (s.gangAt t).lanes.length ≤ q.lane then s.ikitik 0x04 q 3
    else (s.modGangsAt ts (·.debugStep (.lane q.lane))).ikitik 0x04 q 0)
/-- SETPOINT: as `wpset`, under BREAK or WATCH; a reserved bit is malformed. -/
def execSetpoint (q : IkitikReq) (s : State) : Host.Outcome State Fault Refusal :=
  let code : Bool := q.num / 8 % 2 = 1
  .next (s.serve 0x05 (if code then 0 else 1) { q with core := everyCore } <|
    if 16 ≤ q.num ∨ (!code ∧ 4 ≤ q.num) ∨ s.pointStatus code q.val q.val2 = 1 then s.ikitik 0x05 q 5
    else (s.setPoint code (q.num % 8) q.val q.val2).ikitik 0x05 q 0)

/-! ### Reading (R486, R488) -/

/-- Bytes as words of 8, the last padded with zeros. -/
def packWords (bs : List Byte) : List Word := (List.range ((bs.length + 7) / 8)).map fun i => w64 (imageAt bs (8 * i) 8)
/-- Parts laid over zeros from a base. -/
def overlay (base len : Nat) (ps : List (Nat × List Byte)) : List Byte :=
  let m := ps.foldl (fun m p => (p.2.zipIdx).foldl (fun m e => mset 0 m (p.1 + e.2) e.1) m) ([] : List (Nat × Byte))
  (List.range len).map fun i => mget 0 m (base + i)
/-- A lane of a gang image: a frame's lane with the mask of main registers that await replies. -/
def Lane.debugImage (l : Lane) : List Byte := l.image.take 0x140 ++ bytesOf (l.pend.toNat % 2 ^ 32) 4 ++ List.replicate 0x3C 0
/-- The gang image of READGANG (R488). -/
def State.gangImage (s : State) (t : Nat × Nat) : List Byte :=
  let g := s.gangAt t
  let f : FaultSave := { frame := 0, lanes := [], gang := g, gangFault := false, addr := 0, write := false }
  let h := f.image t.1
  h.take 0x0C ++ bytesOf g.lanes.length 1 ++ bytesOf 2 1 ++ bytesOf g.channel 1 ++ bytesOf t.2 1 ++ (h.drop 0x10).take 0x0C ++
    bytesOf (s.carryOf (routineOf g.q0)).toNat 4 ++ (h.drop 0x20).take 0x80 ++ bytesOf g.grant 2 ++
    List.replicate 0x5E 0 ++ g.lanes.flatMap Lane.debugImage
/-- READGANG: the images of the gangs it names, one behind the other (DESIGN CHOICE for several, log 25). -/
def execReadgang (q : IkitikReq) (s : State) : Host.Outcome State Fault Refusal :=
  .next (s.serve 0x06 3 q <| s.onGangs 0x06 q true fun ts => s.ikitik 0x06 q 0 (packWords (ts.flatMap s.gangImage)))
/-- READCORE: maps, rings, barriers and streams as offsets 0x18C00 to 0x191FF of the save area hold them. -/
def execReadcore (q : IkitikReq) (s : State) : Host.Outcome State Fault Refusal :=
  .next (s.serve 0x07 3 q <| if q.core = everyCore then s.ikitik 0x07 q 3
    else s.ikitik 0x07 q 0 (packWords (overlay 0x18C00 0x600 (s.core q.core).engineParts)))
/-- READARRIVALS: the arrival buffer and the slot map, offsets 0x1C000 to 0x1D1FF. -/
def execReadarrivals (q : IkitikReq) (s : State) : Host.Outcome State Fault Refusal :=
  .next (s.serve 0x09 3 q <| if q.core = everyCore then s.ikitik 0x09 q 3
    else s.ikitik 0x09 q 0 (packWords (overlay 0x1C000 0x1200 (s.arrivalParts q.core))))
/-- One byte of the context's memory as a debugger reads it: none outside it; a poisoned word reads zero. -/
def State.debugByte (s : State) (a : Nat) : Option (Byte × Bool) :=
  let w := w64 a
  if inCoreSpace w then
    if badForm w ∨ !s.hasCore (coreOf w) then none
    else
      let d := s.coreDatum (coreOf w) (coreOffset w) 1
      some (if d.poison then 0 else d.val.setWidth 8, d.poison)
  else if badForm w then none
  else (s.resolve s.ctx.part.toNat a false).map fun pa => (if s.mem.poisoned pa 1 then 0 else s.mem.byte pa, s.mem.poisoned pa 1)
/-- A debugger's read wakes the array and finds the errors of the word it touches (spec/12 R306, spec/22 R462, R469). -/
def State.debugRead (s : State) (a : Nat) : State :=
  let w := w64 a
  if badForm w then s
  else if inCoreSpace w then
    if s.hasCore (coreOf w) && coreOffset w < localEnd then (s.wakeCore (coreOf w)).scanLocal (coreOf w) (coreOffset w) 1 else s
  else match s.resolve s.ctx.part.toNat a false with
    | some pa => s.meetGlobal pa 1
    | none => s
/-- READMEM: status 6 when a word is poisoned, 3 and no data for a byte outside the context; the read wakes the array. -/
def execReadmem (q : IkitikReq) (s : State) : Host.Outcome State Fault Refusal :=
  .next (s.serve 0x0A 3 { q with core := everyCore } <|
    if 4096 < q.len then s.ikitik 0x0A q 5
    else
      let s := (List.range q.len).foldl (fun t i => t.debugRead (q.val.toNat + i)) s
      let bs := (List.range q.len).map fun i => s.debugByte (q.val.toNat + i)
      if bs.any (·.isNone) then s.ikitik 0x0A q 3
      else
        let xs := bs.filterMap id
        s.ikitik 0x0A q (if xs.any (·.2) then 6 else 0) (packWords (xs.map (·.1))) xs.length)
/-- An event record's words (Table 22-4). -/
def Event.words (e : Event) : List Word :=
  [w64 e.stamp, w64 (e.type + e.source * 2 ^ 8 + e.index * 2 ^ 16 + e.pkg * 2 ^ 32 + e.part * 2 ^ 40 + e.ctx * 2 ^ 48)] ++
    (List.range 6).map fun i => e.detail.getD i 0
/-- READRECORDER: records of the session's partition alone, unless the session is an operator's. -/
def execReadrecorder (q : IkitikReq) (s : State) : Host.Outcome State Fault Refusal :=
  let r : Recorder := mget {} s.recorders q.num
  let es := ((r.records.filter fun e => q.val.toNat ≤ e.1 && e.1 < q.val.toNat + q.len).map (·.2)).filter fun e =>
    s.sup.session = 0 || e.part = s.sup.session
  .next (s.serve 0x0B 3 { q with core := everyCore } <| s.ikitik 0x0B q 0 (es.flatMap Event.words))

/-! ### Writing (R487) -/

/-- A register of a halted gang written; none where its number does not exist. -/
def Gang.poke (g : Gang) (kind num lane : Nat) (v : Word) : Option Gang :=
  let onLane (f : Lane → Lane) : Option Gang := if g.lanes.length ≤ lane then none else some (g.mapLanes [lane] fun _ l => f l)
  match kind with
  | 0 => if 16 ≤ num then none
      else some (if num = 0 then g else { g with g := mset 0 g.g num v, gPoison := bput g.gPoison num false })
  | 1 => if 37 ≤ num then none else onLane fun l => l.put num v false
  | 2 => if 8 ≤ num then none
      else onLane fun l => if num = 0 then l else
        { l with preds := bput l.preds num (v.getLsbD 0), poison := bput l.poison (48 + num) false }
  | 3 => if 8 ≤ num then none else onLane fun l => l.setSidecar num (v.setWidth 16) false
  | _ => none
/-- A register that awaits a reply: of the gang, or of any lane. -/
def Gang.pokePends (g : Gang) (kind num : Nat) : Bool :=
  match kind with
  | 0 => g.gPend.getLsbD num
  | 1 => g.lanes.any fun l => l.pend.getLsbD num
  | 3 => g.lanes.any fun l => l.pend.getLsbD (40 + num)
  | _ => false
/-- WRITEREG: status 4 unless the gang is halted, and where the register is pending, 3 for a lane that the gang does not have; `g0`
and `p0` are ignored. -/
def execWritereg (q : IkitikReq) (s : State) : Host.Outcome State Fault Refusal :=
  .next (s.serve 0x08 4 q <| s.onGangs 0x08 q true fun ts =>
    let gs := ts.map fun t => (t, s.gangAt t)
    if gs.any fun e => e.2.pokePends q.kind q.num then s.ikitik 0x08 q 4
    else if q.kind ≠ 0 ∧ gs.any fun e => e.2.lanes.length ≤ q.lane then s.ikitik 0x08 q 3
    else if gs.any fun e => (e.2.poke q.kind q.num q.lane q.val).isNone then s.ikitik 0x08 q 5
    else (s.modGangsAt ts fun g => (g.poke q.kind q.num q.lane q.val).getD g).ikitik 0x08 q 0)

/-- DEBUG: the mailbox carries one message; `kind` names its command in [7:0], and above it the kind of a WRITEREG. -/
def execDebug (q : IkitikReq) (s : State) : Host.Outcome State Fault Refusal :=
  let p := { q with kind := q.kind / 256 }
  match q.kind % 256 with
  | 0x01 => .next (s.push (.ikitikHalt p))
  | 0x02 => .next (s.push (.ikitikResume p))
  | 0x03 => .next (s.push (.ikitikStep p))
  | 0x04 => .next (s.push (.steplane p))
  | 0x05 => .next (s.push (.setpoint p))
  | 0x06 => .next (s.push (.readgang p))
  | 0x07 => .next (s.push (.readcore p))
  | 0x08 => .next (s.push (.writereg p))
  | 0x09 => .next (s.push (.readarrivals p))
  | 0x0A => .next (s.push (.readmem p))
  | 0x0B => .next (s.push (.readrecorder p))
  | opc => .next (s.ikitik opc q 5)

end Sys2Proof.Machine
end

