-- ==== Sys2Proof/Machine/Links.lean ====
section
/-! DEFINITION. Packets between their ends: the header, the streams whose order the fabric keeps (spec/17 R386, R387), and the Wyal
links that a packet crosses on its way (spec/17 R392, R395, R399-R406). -/
namespace Sys2Proof.Machine

/-! ### Packets on their way -/

/-- Where a packet comes from and where it goes; `home` is the source of a packet that does not name it. None for an event that
is no packet, and for one to the slices, whose destinations follow from the blocks it touches. -/
def endsOf (home : Option Source) : Instr → Option (Source × Source)
  | .remoteAccess r => r.home.map fun c => (r.src, .core c)
  | .ringWindowPush c _ _ (some (i, _)) | .matrixWindowPush c _ _ ⟨some (i, _), none⟩ => some (.core i, .core c)
  | .carryArrival m | .dataMessageArrival m | .changeMessageArrival m => some (m.src, .core m.dst)
  | .chainedPacket r => r.home.map fun c => (home.getD r.src, .core c)
  | .loadReply c _ _ | .storeAcknowledgement c _ | .forwardedReply c _ _ _ | .timelineRelease c _ | .quiescenceWatch c _ _ | .frameRelease c _ =>
    home.map fun h => (h, .core c)
  | .grantRequest q => some (q.src, .core q.dst)
  | .grant q | .revocation q | .refusal q => some (.core q.dst, q.src)
  | _ => none
/-- The core whose gang awaits acknowledgements under a name. -/
def State.awaiting (s : State) (tag : Nat) : Option Nat :=
  (s.cores.find? fun e => e.2.gangs.any fun g => match g.2.phase with
    | .acks x _ _ => x = tag
    | _ => false).map (·.1)
/-- The slice that holds the queue of a source's notices. -/
def State.noticeSlice (s : State) (src : Source) : Option Nat :=
  let part := s.noticePart src
  ((mfind s.sup.partitions part).bind fun p => s.resolve part p.noticeBase true).map sliceOf
/-- The ends of a packet: one to each slice that a request to the slices touches. -/
def State.ends (s : State) (p : Packet) : List (Source × Source) :=
  let node (c n : Nat) : Source := .node (s.nodeRouter c ((s.core c).barrier n).scope)
  match p.tree, p.event with
  | some x, _ => [(.node x.1, .node x.2.at')]
  | none, .sliceOperation r | none, .timelineWrite r => (s.opSlices r.src r.op).map fun n => (r.src, .slice n)
  | none, .chainedPacket r => (match endsOf p.home p.event with
    | some x => [x]
    | none => (s.opSlices r.src r.op).map fun n => (p.home.getD r.src, .slice n))
  | none, .barrierArrival c n _ _ => [(.core c, node c n)]
  | none, .barrierCompletion c n => [(node c n, .core c)]
  | none, .noticePost x => if x.again then [] else (s.noticeSlice x.src).toList.map fun n => (x.src, .slice n)
  | none, .invalidationAck c tag => (s.awaiting tag).toList.map fun d => (.core c, .core d)
  | none, .directoryInvalidationAck c id => (s.awaiting (dirTag id)).toList.map fun d => (.core c, .core d)
  | none, .checkedChunkVerify c q => (s.chunkHome c q).toList.map fun h => (.core c, h)
  | none, e => (endsOf p.home e).toList
/-- The rank by which a header names a source (spec/01 R18). -/
def State.rankIn (s : State) : Source → Nat
  | .core c => s.rankOf c
  | _ => 0
/-- What an access, a message, a reply or an answer to a grant request is, as its header says. -/
inductive PacketKind where
  | access | message | reply | grant | other
  deriving DecidableEq, Repr
/-- The header of a packet's first flit (R386): the spec gives its fields and their 8 bytes, not their places or codes (log 8). -/
structure Header where
  dst : Source
  rank : Nat
  net : Net
  stamp : BitVec 4
  /-- The checked-chunk bit: the packet brings a chunk, which the ports on its way verify (R403). -/
  checked : Bool
  kind : PacketKind
  deriving DecidableEq, Repr
def kindOf : Instr → PacketKind
  | .remoteAccess _ | .sliceOperation _ | .timelineWrite _ | .chainedPacket _ | .ringWindowPush _ _ _ _ | .matrixWindowPush _ _ _ _ => .access
  | .carryArrival _ | .dataMessageArrival _ | .changeMessageArrival _ => .message
  | .loadReply _ _ _ | .storeAcknowledgement _ _ | .forwardedReply _ _ _ _ | .timelineRelease _ _ | .quiescenceWatch _ _ _ => .reply
  | .grantRequest _ | .grant _ | .revocation _ | .refusal _ => .grant
  | _ => .other
/-- A packet that brings a checked chunk: the source image of a chunk reduction; that of a copy is verified by its own event. -/
def bringsChunk : Instr → Bool
  | .sliceOperation r => (match r.op with
    | .reduce _ _ _ _ _ => true
    | _ => false)
  | .checkedChunkVerify _ _ => true
  | _ => false
/-- The header of a packet that has been admitted. -/
def State.headerOf (s : State) (p : Packet) : Option Header :=
  match s.ends p, netOf p.event, p.stamp with
  | x :: _, some net, some stamp =>
    some { dst := x.2, rank := s.rankIn x.1, net, stamp, checked := bringsChunk p.event, kind := kindOf p.event }
  | _, _, _ => none
/-- Events that are no packets of these ends but keep an order of their own: commands that stand by at a matrix queue, barrier
arrivals and completions, notices of one source, what the host does, the flits of a port, CONTROL words of a launch queue, commands that
the supervisor serves. -/
def lineOf : Instr → Option (Nat × Source × Source × Nat)
  | .matrixWindowPush c _ _ ⟨_, some _⟩ => some (14, .core c, .core c, 0)
  | .barrierArrival c n _ _ => some (10, .core c, .core c, n)
  | .barrierCompletion c n => some (9, .core c, .core c, n)
  | .noticePost p => some (11, p.src, p.src, 0)
  | .hostRegisterWrite _ _ | .ring _ _ | .control _ _ _ | .memoryWindowAccess _ _ _ _ | .devstatRead => some (12, .host, .host, 0)
  | .flitReceive p _ => some (13, .host, .host, p)
  | .launchQueueControl q _ => some (15, .derrick, .derrick, q)
  | .debug _ | .ikitikHalt _ | .ikitikResume _ | .ikitikStep _ | .steplane _ | .setpoint _ | .readgang _ | .readcore _ | .writereg _
  | .readarrivals _ | .readmem _ | .readrecorder _ | .spdm _ _ | .getVersion _ | .getCapabilities _ | .negotiateAlgorithms _ | .getDigests _
  | .getCertificate _ _ _ | .challenge _ _ | .getMeasurements _ _ | .partitionCreate _ | .partitionDestroy _ | .imageLoad _ _
  | .doorbellAssign _ _ | .windowSet _ _ | .preempt _ | .restore _ | .notice _ | .port _ _ _ | .power _ _ _ _ => some (16, .host, .host, 0)
  | _ => none
/-- The streams of a packet: packets of one source on one network to one destination arrive in the order they left (R387, R349,
R163, R390). -/
def State.streams (s : State) (p : Packet) : List (Nat × Source × Source × Nat) :=
  (lineOf p.event).toList ++ (s.ends p).map fun x => (vnOf p.event, x.1, x.2, 0)

/-! ### Links (R392, R395, R399, R401, R405) -/

/-- The ports that a packet crosses, by the packages of its source and of its destination as the tables stand; none where some
destination of it cannot be reached. Parts for several packages go by way of the first. -/
def State.wayNow (s : State) (p : Packet) : Option (List Nat) :=
  let c (y : Source) : Nat := match y with
    | .core c => c
    | _ => (s.ctx.cores.headD (0, 0, 0, 0)).1
  let ways := (s.ends p).map fun x => s.route (s.packageOf x.1 (c x.2)) (s.packageOf x.2 (c x.1))
  if ways.any (·.isNone) then none else some ((ways.headD (some [])).getD [])
/-- What a packet has yet to cross. -/
def State.wayOf (s : State) (p : Packet) : Option (List Nat) :=
  match p.path with
  | .unset => s.wayNow p
  | .refused => none
  | .ports is => some is
/-- Packets that have been admitted take their way from the tables of that time (R405). -/
def State.routeAll (s : State) : State :=
  if s.ports.isEmpty then s
  else { s with agenda := s.agenda.map fun p => if p.stamp.isSome && p.path = .unset then
    { p with path := match s.wayNow p with
        | some is => .ports is
        | none => .refused } else p }
/-- Refused traffic: no table leads on, or a port that is down holds or receives it (R398, R405, R406). -/
def State.turnedBack (s : State) (p : Packet) : Bool :=
  match p.link, s.wayOf p with
  | some l, _ => s.linkDown l.1
  | none, some (i :: _) => s.linkDown i
  | none, some [] => false
  | none, none => true
/-- A packet that has come to its destination. -/
def State.isHere (s : State) (p : Packet) : Bool := p.link.isNone && s.wayOf p = some []
/-- What a packet counts against LINKQ at a port: 2 for each Wyal flit (R395). -/
def State.linkCost (s : State) (e : Instr) : Nat := 2 * s.wyalFlits e
/-- LINKQ bounds what is subject to quotas. -/
def linkCounted (e : Instr) : Bool := netOf e = some .request || netOf e = some .carry
/-- The partition whose traffic a packet is. -/
def State.packetPart (s : State) (p : Packet) : Nat := s.sourcePart (((s.ends p).head?.map (·.1)).getD .host) p.event
/-- A packet that a port can send: the link is UP, its replay buffer, the credits and its partition's LINKQ for the frame have room. -/
def State.canSend (s : State) (i : Nat) (p : Packet) : Bool :=
  let x := s.port i
  let n := s.wyalFlits p.event
  let part := s.packetPart p
  x.state = 2 && (s.port (s.farPort i)).state = 2 && x.replay.length + n ≤ 512 && n ≤ mget 64 x.credits (vnOf p.event) &&
    (s.linkq part = 0 || !linkCounted p.event || mget 0 s.linkUsed (linkKey part i) + s.linkCost p.event ≤ s.linkq part)
/-- A packet leaves the buffer of the port by which it came: its credits are owed. -/
def State.leavesPort (s : State) (p : Packet) : State :=
  match p.port with
  | none => s
  | some j =>
    let x := s.port j
    s.setPort j { x with owed := mput x.owed (vnOf p.event) (mget 0 x.owed (vnOf p.event) + s.wyalFlits p.event) }
/-- A packet is sent over its next link: its flits, all but the header's bytes left open, go out in order and stay in the replay
buffer (R399, R400). -/
def State.cross (s : State) (p : Packet) : State :=
  match s.wayOf p with
  | some (i :: _) =>
    let t := s.leavesPort p
    let x := t.port i
    let far := t.farPort i
    let n := s.wyalFlits p.event
    let part := s.packetPart p
    let fs := (List.range n).map fun k =>
      flitOf (vnOf p.event) (p.stamp.getD 0) (x.seqOut + BitVec.ofNat 11 k) (x.seqIn - 1) (k = 0) (k + 1 = n) (t.payload k)
    let y := { x with seqOut := x.seqOut + BitVec.ofNat 11 n, replay := x.replay ++ fs,
                      credits := mput x.credits (vnOf p.event) (mget 64 x.credits (vnOf p.event) - n), served := (s.ends p).head?.map (·.1) }
    let on (q : Packet) : Packet := if q = p then { q with port := none, queued := false, link := some (i, far, x.seqOut + BitVec.ofNat 11 n - 1) } else q
    let used := if s.linkq part = 0 || !linkCounted p.event then t.linkUsed
      else mset 0 t.linkUsed (linkKey part i) (mget 0 t.linkUsed (linkKey part i) + s.linkCost p.event)
    ({ t.setPort i y with agenda := t.agenda.map on, linkUsed := used } : State).sendFlits far fs
  | _ => s
/-- How far a packet has come: two for each link, and one in the queue of the port that it goes out by. -/
def Packet.progress (p : Packet) : Nat := 2 * (p.hops + if p.link.isSome then 1 else 0) + if p.queued then 1 else 0
/-- The streams whose order a port keeps: one source, one network, one package of destination (R404). -/
def State.portStreams (s : State) (p : Packet) : List (Nat × Source × Nat) :=
  let here (x : Source) : Nat := match x with
    | .core c => c
    | _ => (s.ctx.cores.headD (0, 0, 0, 0)).1
  (s.ends p).map fun x => (vnOf p.event, x.1, s.packageOf x.2 (here x.1))
/-- The packets of a kind that no earlier one of a stream of theirs at the ports is behind, or level with. -/
def State.inOrder (s : State) (f : Packet → Bool) : List Packet → List ((Nat × Source × Nat) × Nat) → List Packet
  | [], _ => []
  | p :: ps, seen =>
    let keys := s.portStreams p
    let rest := s.inOrder f ps (keys.map (·, p.progress) ++ seen)
    if f p && !seen.any (fun e => keys.contains e.1 && e.2 ≤ p.progress) then p :: rest else rest
/-- The port that a packet goes out by next. -/
def State.nextPort (s : State) (p : Packet) : Option Nat :=
  match s.wayOf p with
  | some (i :: _) => if p.stamp.isSome && p.link.isNone then some i else none
  | _ => none
/-- Packets that may come to the queue of their next port. -/
def State.reaching (s : State) : List Packet := s.inOrder (fun p => !p.queued && (s.nextPort p).any fun i => !s.linkDown i) s.agenda []
/-- The packets in a port's queue that it can send. -/
def State.standingAt (s : State) (i : Nat) : List Packet := s.inOrder (fun p => p.queued && s.nextPort p = some i && s.canSend i p) s.agenda []
/-- The rank of a stamp at an arbiter: ages 12 to 0, then the frames ahead, the nearest first (R394, R396). -/
def ageRank (frame stamp : BitVec 4) : Nat := (frame - stamp + 3).toNat
/-- A source's turn in the round from the one that was served last on. -/
def State.turnAfter (s : State) (last : Option Source) (src : Source) : Nat :=
  match last with
  | none => s.order src
  | some l => (s.order src + 2 ^ 24 - s.order l - 1) % 2 ^ 24
/-- The packet that a port's arbiter serves next: the oldest age first, sources of equal age in turn (R396). -/
def State.serves (s : State) (i : Nat) : Option Packet :=
  let ps := s.standingAt i
  let rank (p : Packet) : Nat := ageRank s.frame (p.stamp.getD s.frame)
  let top := (ps.map rank).foldl max 0
  let old := ps.filter fun p => rank p = top
  let turn (p : Packet) : Nat := s.turnAfter (s.port i).served (((s.ends p).head?.map (·.1)).getD .host)
  (leastBy id (old.map turn)).bind fun n => old.find? fun p => turn p = n
/-- A packet comes to the queue of its next port. -/
def State.reach (s : State) (p : Packet) : State := { s with agenda := s.agenda.map fun q => if q = p then { q with queued := true } else q }

end Sys2Proof.Machine
end

