-- ==== Sys2Proof/Machine/LaneBlock.lean ====
section
/-! DEFINITION. Block-scaled and shared-exponent lane instructions (spec/09 R220-R224), opcodes 0xA0 to 0xAF. -/
namespace Sys2Proof.Machine

/-- The 256 bits of a quad, `w(4q)` lowest. -/
def Lane.quad (l : Lane) (q : Nat) : Nat :=
  ((List.range 4).map fun i => (l.read (4 * q + i)).toNat * 2 ^ (64 * i)).sum
/-- A quad written, with `lt` taking its first register (R220). -/
def Lane.setQuad (l : Lane) (q : Nat) (v : Nat) : Lane :=
  let l := (List.range 4).foldl (fun l i => l.put (4 * q + i) (w64 (v / 2 ^ (64 * i) % 2 ^ 64)) false) l
  l.put ltNum (w64 (v % 2 ^ 64)) false
/-- The operand numbers of a quad, and of its sidecar. -/
def quadRegs (q : BitVec 3) : List Nat := (List.range 4).map (4 * q.toNat + ·)
def sideReg (q : BitVec 3) : Nat := 40 + q.toNat
/-- The format code F (spec/03 R84). -/
def formatCode (f m : BitVec 2) : Nat := 4 * f.toNat + m.toNat
/-- Whether a format uses sidecars. -/
def isMx (f : Nat) : Bool := f < 6
/-- Blocks in a quad (R220). -/
def blocksOf (f : Nat) : Nat := match f with | 4 => 2 | 6 => 4 | 7 => 2 | _ => 1
/-- The registers that a source quad supplies: their poison is consumed, of all four where the instruction reads a part of the quad (DESIGN
CHOICE, log 69). -/
def sourceRegs (f : Nat) (q : BitVec 3) : List Nat := if isMx f then quadRegs q ++ [sideReg q] else quadRegs q

/-- Element patterns of MX block `k` of a quad (spec/08 R194). -/
def mxElements (f k quad : Nat) : List Nat :=
  if f = 4 then (List.range 32).map fun j => quad / 2 ^ (128 * k + 4 * j) % 16
  else (List.range 32).map fun j => quad / 2 ^ (8 * j) % 256
/-- The values of block `k`. -/
def blockValues (f k quad : Nat) (side : BitVec 16) : List Num :=
  if isMx f then (mxElements f k quad).map (mxDecode f (side.toNat / 2 ^ (8 * k) % 256))
  else sxDecode f (quad / 2 ^ (sxBlock f * k) % 2 ^ sxBlock f)
def Lane.block (l : Lane) (f k : Nat) (q : BitVec 3) : List Num := blockValues f k (l.quad q.toNat) (l.sidecar q.toNat)
/-- The element bits of an encoded MX block. -/
def packMx (f : Nat) (es : List Nat) : Nat :=
  (es.mapIdx fun j e => e * 2 ^ ((if f = 4 then 4 else 8) * j)).sum
/-- A quad and its sidecar from the values of its blocks, each encoded once under `rne` (R220). -/
def encodeQuad (f : Nat) (blocks : List (List Num)) (side : BitVec 16) : Nat × BitVec 16 :=
  if isMx f then
    let enc := blocks.map (mxEncode f .rne (fun _ => 0))
    ((enc.mapIdx fun k b => packMx f b.2 * 2 ^ (128 * k)).sum,
     (enc.mapIdx fun k b => (k, b.1)).foldl (fun s p =>
        if p.1 = 0 then (s &&& 0xFF00#16) ||| BitVec.ofNat 16 p.2 else (s &&& 0x00FF#16) ||| BitVec.ofNat 16 (p.2 * 256)) side)
  else ((blocks.mapIdx fun k b => sxEncode f .rne (fun _ => 0) b * 2 ^ (sxBlock f * k)).sum, side)
/-- A result quad written, the sidecar with it for an MX format; its mark is cleared also where only half of it is written (DESIGN CHOICE,
log 69). -/
def Lane.writeBlocks (l : Lane) (f : Nat) (d : BitVec 3) (blocks : List (List Num)) : Lane :=
  let r := encodeQuad f blocks (l.sidecar d.toNat)
  let l := if isMx f then l.setSidecar d.toNat r.2 false else l
  l.setQuad d.toNat r.1

/-- The gate of a block instruction: it reads the operands `uses` and waits for `all` as well, what it writes (quad D with `lt`). -/
def State.blockGate (s : State) (g : BitVec 3) (uses all : List Nat) (f : Lane → Lane) : Out :=
  let is := s.gang.guard g
  s.laneGate g is uses (uses ++ all) (.next (s.modGang (·.mapLanes is fun _ l => f l)))
/-- An element-wise block instruction: a value from block `k` and position of each source. -/
def State.blockOp (s : State) (g : BitVec 3) (m : BitVec 2) (d : BitVec 3) (f : BitVec 2) (srcs : List (BitVec 3))
    (extra : List Nat) (v : Lane → Nat → List Num) : Out :=
  let F := formatCode f m
  s.blockGate g ((srcs.flatMap (sourceRegs F)) ++ extra) (ltNum :: sourceRegs F d) fun l =>
    l.writeBlocks F d ((List.range (blocksOf F)).map (v l))
/-- A two-operand form. -/
def State.blockOp2 (s : State) (g : BitVec 3) (m : BitVec 2) (d : BitVec 3) (f : BitVec 2) (a b : BitVec 3)
    (op : Num → Num → Num) : Out :=
  s.blockOp g m d f [a, b] [] fun l k =>
    ((l.block (formatCode f m) k a).zip (l.block (formatCode f m) k b)).map fun p => op p.1 p.2

/-- `vbadd` (R221). -/
def execVbadd (g : BitVec 3) (m : BitVec 2) (d : BitVec 3) (f : BitVec 2) (a b : BitVec 3) (s : State) : Host.Outcome State Fault Refusal :=
  s.finish (s.blockOp2 g m d f a b Num.add)
/-- `vbsub`. -/
def execVbsub (g : BitVec 3) (m : BitVec 2) (d : BitVec 3) (f : BitVec 2) (a b : BitVec 3) (s : State) : Host.Outcome State Fault Refusal :=
  s.finish (s.blockOp2 g m d f a b fun x y => x.add y.neg)
/-- `vbmul`. -/
def execVbmul (g : BitVec 3) (m : BitVec 2) (d : BitVec 3) (f : BitVec 2) (a b : BitVec 3) (s : State) : Host.Outcome State Fault Refusal :=
  s.finish (s.blockOp2 g m d f a b Num.mul)
/-- `vbfma`: A * B + D, one rounding. -/
def execVbfma (g : BitVec 3) (m : BitVec 2) (d : BitVec 3) (f : BitVec 2) (a b : BitVec 3) (s : State) : Host.Outcome State Fault Refusal :=
  s.finish (s.blockOp g m d f [a, b, d] [] fun l k =>
    let F := formatCode f m
    (((l.block F k a).zip (l.block F k b)).zip (l.block F k d)).map fun p => (p.1.1.mul p.1.2).add p.2)
/-- The greater and the lesser of two values, -0 below +0. -/
def Num.max (a b : Num) : Num := if a.isNan || b.isNan then .nan else if a.below b then b else a
def Num.min (a b : Num) : Num := if a.isNan || b.isNan then .nan else if b.below a then b else a
/-- `vbmax`. -/
def execVbmax (g : BitVec 3) (m : BitVec 2) (d : BitVec 3) (f : BitVec 2) (a b : BitVec 3) (s : State) : Host.Outcome State Fault Refusal :=
  s.finish (s.blockOp2 g m d f a b Num.max)
/-- `vbmin`. -/
def execVbmin (g : BitVec 3) (m : BitVec 2) (d : BitVec 3) (f : BitVec 2) (a b : BitVec 3) (s : State) : Host.Outcome State Fault Refusal :=
  s.finish (s.blockOp2 g m d f a b Num.min)
/-- `vbscale`: times 2^t, t a byte of `kB` taken as signed. -/
def execVbscale (g : BitVec 3) (m : BitVec 2) (d : BitVec 3) (f : BitVec 2) (a b : BitVec 3) (s : State) : Host.Outcome State Fault Refusal :=
  s.finish (s.blockOp g m d f [a] [sideReg b] fun l k =>
    let F := formatCode f m
    let t := (BitVec.ofNat 8 ((l.sidecar b.toNat).toNat / 2 ^ (if isMx F then 8 * k else 0))).toInt
    (l.block F k a).map (Num.scale t))
/-- `vbnorm`. -/
def execVbnorm (g : BitVec 3) (m : BitVec 2) (d : BitVec 3) (f : BitVec 2) (a : BitVec 3) (s : State) : Host.Outcome State Fault Refusal :=
  s.finish (s.blockOp g m d f [a] [] fun l k => l.block (formatCode f m) k a)

/-- The 16 BF16 values of a quad (R222). -/
def Lane.bfloats (l : Lane) (q : BitVec 3) : List Num :=
  (List.range 16).map fun e => decodeFloat .bf16 (l.quad q.toNat / 2 ^ (16 * e) % 65536)
/-- `vbpack` (R222): under FP4 the old block 0 becomes block 1. D is then a source, with the poison of its whole quad (DESIGN CHOICE, log
69). -/
def execVbpack (g : BitVec 3) (m : BitVec 2) (d : BitVec 3) (f : BitVec 2) (a b : BitVec 3) (s : State) : Host.Outcome State Fault Refusal :=
  let F := formatCode f m
  s.finish (s.blockGate g (quadRegs a ++ quadRegs b ++ if F = 4 then quadRegs d ++ [sideReg d] else [])
    (ltNum :: (quadRegs d ++ [sideReg d])) fun l =>
      let e := mxEncode F .rne (fun _ => 0) (l.bfloats a ++ l.bfloats b)
      let old := l.quad d.toNat
      let side := l.sidecar d.toNat
      if F = 4 then
        (l.setSidecar d.toNat (side <<< 8 ||| BitVec.ofNat 16 e.1) false).setQuad d.toNat (old % 2 ^ 128 * 2 ^ 128 + packMx F e.2)
      else (l.setSidecar d.toNat ((side &&& 0xFF00#16) ||| BitVec.ofNat 16 e.1) false).setQuad d.toNat (packMx F e.2))
/-- Sixteen values as BF16 in the layout of R222. -/
def packBf16 (vs : List Num) : Nat := (vs.mapIdx fun e v => roundFloat .bf16 .rne 0 v * 2 ^ (16 * e)).sum
/-- `vbunpack` (R223). -/
def execVbunpack (g : BitVec 3) (m : BitVec 2) (d : BitVec 3) (f : BitVec 2) (a c : BitVec 3) (s : State) : Host.Outcome State Fault Refusal :=
  let F := formatCode f m
  s.finish (s.blockGate g (sourceRegs F a) (ltNum :: quadRegs d) fun l =>
    let vs := (List.range (blocksOf F)).flatMap fun k => l.block F k a
    l.setQuad d.toNat (packBf16 ((vs.drop (16 * c.toNat)).take 16)))
/-- `vsxpack` (R222): the blocks of D move up by one place; D is a source, with the poison of its whole quad (DESIGN CHOICE, log 69). -/
def execVsxpack (g : BitVec 3) (m : BitVec 2) (d : BitVec 3) (f : BitVec 2) (a : BitVec 3) (s : State) : Host.Outcome State Fault Refusal :=
  let F := formatCode f m
  s.finish (s.blockGate g (quadRegs a ++ if F = 8 then [] else quadRegs d) (ltNum :: quadRegs d) fun l =>
    let new := sxEncode F .rne (fun _ => 0) (l.bfloats a)
    l.setQuad d.toNat ((new + l.quad d.toNat * 2 ^ sxBlock F) % 2 ^ (sxBlock F * blocksOf F)))
/-- `vsxunpack` (R223). -/
def execVsxunpack (g : BitVec 3) (m : BitVec 2) (d : BitVec 3) (f : BitVec 2) (a c : BitVec 3) (s : State) : Host.Outcome State Fault Refusal :=
  let F := formatCode f m
  s.finish (s.blockGate g (quadRegs a) (ltNum :: quadRegs d) fun l => l.setQuad d.toNat (packBf16 (l.block F c.toNat a)))
/-- `vkget`. -/
def execVkget (g : BitVec 3) (d a : BitVec 3) (s : State) : Host.Outcome State Fault Refusal :=
  s.finish (s.blockGate g [sideReg a] [ltNum, 4 * d.toNat] fun l => l.write (4 * d.toNat) ((l.sidecar a.toNat).setWidth 64) false)
/-- `vkset`: no lane register and no `lt`. -/
def execVkset (g : BitVec 3) (d a : BitVec 3) (s : State) : Host.Outcome State Fault Refusal :=
  s.finish (s.blockGate g [4 * a.toNat] [sideReg d] fun l => l.setSidecar d.toNat ((l.read (4 * a.toNat)).setWidth 16) false)
/-- `vbdot`: every element of the quads into the binary32 in `w(4q)` (R221, spec/08 R199). -/
def execVbdot (g : BitVec 3) (m : BitVec 2) (d : BitVec 3) (f : BitVec 2) (a b : BitVec 3) (s : State) : Host.Outcome State Fault Refusal :=
  let F := formatCode f m
  s.finish (s.blockGate g (sourceRegs F a ++ sourceRegs F b ++ [4 * d.toNat]) [ltNum] fun l =>
    let values (q : BitVec 3) : List Num := (List.range (blocksOf F)).flatMap fun k => l.block F k q
    let acc := decodeFloat .f32 (element 32 0 (l.read (4 * d.toNat)))
    let sum := (((values a).zip (values b)).map fun p => p.1.mul p.2).foldl Num.add acc
    l.write (4 * d.toNat) (w64 (roundFloat .f32 .rne 0 sum)) false)
/-- `vbcvt`: the block of A, read in the format that field B names, encoded in the instruction's. -/
def execVbcvt (g : BitVec 3) (m : BitVec 2) (d : BitVec 3) (f : BitVec 2) (a c : BitVec 3) (s : State) : Host.Outcome State Fault Refusal :=
  s.finish (s.blockOp g m d f [a] [] fun l k => l.block c.toNat k a)

end Sys2Proof.Machine
end

