-- ==== Sys2Proof/Machine/Tiles.lean ====
section
/-! DEFINITION. The numbers of the matrix unit: ring tiles (spec/11 R277, Table 11-7), k-steps (spec/08 R200), the units that a
drain writes (spec/08 R201) and the prediction and error budget of its check (spec/18 R418). -/
namespace Sys2Proof.Machine

/-! ### Ring tiles -/

/-- The format code F of a block format's FMT (Tables 8-5, 8-6, 11-2). -/
def blockCode (fmt : Nat) : Nat := if fmt < 0x18 then fmt - 0x10 else fmt - 0x18 + 6
/-- Line bytes of Table 11-7. -/
def lineBytes (fmt : Nat) : Nat :=
  match fmt with
  | 0x12 | 0x13 | 0x19 => 24
  | 0x1A => 18
  | _ => 16
/-- Whether the lines are followed by their scale bytes. -/
def hasScales (fmt : Nat) : Bool := 0x10 ≤ fmt && fmt ≤ 0x15
def tileBytes (fmt : Nat) : Nat := 32 * lineBytes fmt + if hasScales fmt then 32 else 0
/-- The values of line `l` of a tile, ascending in k. -/
def tileLine (fmt : Nat) (tile : List Byte) (l : Nat) : List Num :=
  let line := (tile.drop (l * lineBytes fmt)).take (lineBytes fmt)
  let d := matrixDepth fmt
  let f := blockCode fmt
  if fmt < 0x10 then (elemsOf (unitBytes fmt) d line).map (elementOf fmt)
  else if hasScales fmt then
    let n := if f = 5 then 8 else (mxFmt f).bits
    let scale := imageAt tile (32 * lineBytes fmt + l) 1
    (List.range d).map fun k => mxDecode f scale (leNat line / 2 ^ (n * k) % 2 ^ n)
  else (List.range (d / 16)).flatMap fun k => sxDecode f (leNat line / 2 ^ (sxBlock f * k) % 2 ^ sxBlock f)

/-! ### k-steps -/

/-- The dot product of a row and a column added to an accumulator, exact (R199, R200). -/
def dotInto (acc : Num) (row col : List Num) : Num := ((row.zip col).map fun p => p.1.mul p.2).foldl Num.add acc
/-- The exact sum over k of (column sums of A) times (row sums of B) added to P (R418). -/
def predictStep (p : Num) (as bs : List (List Num)) (d : Nat) : Num :=
  let colSum (m : List (List Num)) (k : Nat) : Num := exactSum (m.map fun r => r.getD k (.fin false 0 0))
  exactSum ([p] ++ (List.range d).map fun k => (colSum as k).mul (colSum bs k))
/-- E after a k-step; free where a term has no unit (R418, log 2). -/
def budgetStep (e : Num) (outs : List Num) (pnew : Num) (rsr : Bool) (free : Nat) : Nat :=
  if outs.any (fun o => !o.isFin) || !pnew.isFin || !e.isFin then free
  else roundFloat .f64 .rpi 0 (exactSum ([e, .fin false 1 (unitExp .f64 pnew - 1)] ++
    outs.map fun o => .fin false 1 (unitExp .f32 o - if rsr then 0 else 1)))

/-! ### Drains -/

/-- One element that a drain has rounded: its decoded value, the exponent of its unit, whether it is saturated. -/
structure OutEl where
  val : Num
  unit : Int
  sat : Bool
  deriving DecidableEq, Repr
/-- A rounding that exceeds the largest finite value of a format without infinities (R184). -/
def saturates (f : Fmt) (mode : Mode) (g : Nat) (v : Num) : Bool :=
  v.isFin && f.top ≠ .ieee &&
    f.largest < roundFloat { f with eb := f.eb + 6, top := .finite } mode g v % 2 ^ (f.eb + 6 + f.fb)
/-- Elements of a unit: 1 for a scalar, 32 for MX, 16 for SX. -/
def unitElems (fmt : Nat) : Nat := if fmt < 0x10 then 1 else if fmt < 0x18 then 32 else 16
/-- A unit from the exact results of its elements: its bytes (R194, R196) and its elements. `g` gives the generator's output
for element k. -/
def outUnit (fmt : Nat) (mode : Mode) (g : Nat → Nat) (vs : List Num) : List Byte × List OutEl :=
  match floatOf fmt with
  | some f =>
    let v := vs.headD .nan
    let x := roundFloat f mode (g 0) v
    (bytesOf x (unitBytes fmt), [⟨decodeFloat f x, unitExp f (decodeFloat f x), saturates f mode (g 0) v⟩])
  | none =>
    let c := blockCode fmt
    if fmt < 0x18 then
      let (scale, es) := mxEncode c mode g vs
      let ex : Int := (scale : Int) - 127
      let n := if c = 5 then 8 else (mxFmt c).bits
      let packed := (es.mapIdx fun k e => e * 2 ^ (n * k)).sum
      (bytesOf packed (4 * n) ++ bytesOf scale 1,
       (es.zip vs).mapIdx fun k p =>
        let v := p.2.scale (-ex)
        if c = 5 then
          let sat := match v with
            | .fin s m e => let q := signedOf s (roundUnits mode s (g k) 8 m e (-6)); decide (127 < q ∨ q < -128)
            | _ => false
          ⟨mxDecode c scale p.1, ex - 6, sat⟩
        else ⟨mxDecode c scale p.1, unitExp (mxFmt c) (decodeFloat (mxFmt c) p.1) + ex, saturates (mxFmt c) mode (g k) v⟩)
    else
      let blk := sxEncode c mode g vs
      let ex : Int := ((blk / 2 ^ (sxW c + 8) : Nat) : Int) - 127
      (bytesOf blk (sxBlock c / 8),
       ((sxDecode c blk).zip vs).mapIdx fun k p =>
        let u : Int := ex - ((blk / 2 ^ (sxW c + 2 * (k / 4)) % 4 : Nat) : Int) - sxM c
        let sat := match p.2 with
          | .fin s m e => decide (2 ^ sxM c ≤ roundUnits mode s (g k) 8 m e u)
          | _ => false
        ⟨p.1, u, sat⟩)
/-- The check of a drain (R418): none where it is not made. The scale product, P, E, the accumulators and the outputs. -/
def drainCheck (rsr : Bool) (scale p e : Num) (accs : List Num) (outs : List OutEl) : Option Bool :=
  if !(scale.isFin && p.isFin && e.isFin && accs.all Num.isFin && outs.all fun o => o.val.isFin && !o.sat) then none
  else
    let s := exactSum (outs.map (·.val))
    let q := scale.mul p
    let bound := exactSum ([scale.abs.mul e, .fin false 1 (unitTop [q, s] + 1)] ++
      outs.map fun o => .fin false 1 (o.unit - if rsr then 0 else 1))
    some ((s.add q.neg).abs.le bound)

end Sys2Proof.Machine
end

