-- ==== Sys2Proof/Machine/Matrix.lean ====
section
/-! DEFINITION. The matrix unit (spec/11 R275-R290) with its checked drains (spec/18 R418, R419), opcodes 0xD2 to 0xD7. A request
is taken by the arbitration of R281 and performed in the next step of the unit. -/
namespace Sys2Proof.Machine

/-! ### Commands (Table 11-6) -/

def MatrixEntry.at (e : MatrixEntry) (off n : Nat) : Nat := imageAt e.image off n
def MatrixEntry.op (e : MatrixEntry) : Nat := e.at 0 1
/-- FLAGS: 0 ZERO, 1 DRAIN, 2 SIGNAL, 3 MODE, 4 ASRC, 5 BSRC. -/
def MatrixEntry.flag (e : MatrixEntry) (i : Nat) : Bool := (e.at 1 1).testBit i
def MatrixEntry.rows (e : MatrixEntry) : Nat := e.at 8 1
def MatrixEntry.cols (e : MatrixEntry) : Nat := e.at 9 1
def MatrixEntry.bar (e : MatrixEntry) : Nat := e.at 7 1
def MatrixEntry.ganged (e : MatrixEntry) : Bool := e.at 0x30 1 ≠ 0
def MatrixEntry.mode (e : MatrixEntry) : Mode := if e.flag 3 then .rsr else .rne
/-- It ends with a drain. -/
def MatrixEntry.drains (e : MatrixEntry) : Bool := e.op = 1 || (e.op = 0 && e.flag 1)
/-- It signals a barrier. -/
def MatrixEntry.signals (e : MatrixEntry) : Bool := e.op < 2 && e.flag 2
/-- The partners with their tiles, partner 0 first; the issuer alone when it is not ganged. -/
def MatrixEntry.parts (e : MatrixEntry) (c : Nat) : List (Nat × Nat) :=
  if e.ganged then
    (List.range (e.at 0x30 1)).map fun j =>
      (c / 65536 * 65536 + e.at (0x34 + 2 * j) 2, e.at (0x31 + j / 2) 1 / 16 ^ (j % 2) % 8)
  else [(c, e.at 6 1)]
/-- The rings it reads: core and number, each once. -/
def MatrixEntry.rings (e : MatrixEntry) (c : Nat) : List (Nat × Nat) :=
  if e.op ≠ 0 then []
  else ((if e.flag 4 then [] else (e.parts c).map fun p => (p.1, e.at 4 1)) ++ (if e.flag 5 then [] else [(c, e.at 5 1)])).eraseDups
/-- The bytes it puts into PENDING (R278). -/
def MatrixEntry.owed (e : MatrixEntry) : Nat := if e.drains then 32 * e.rows * e.cols else 64

/-- Bits of each byte that an OP uses (R275). -/
def usedBits (op i : Nat) : Nat :=
  if i = 0 then 0xFF
  else match op with
    | 0 =>
      if i = 1 then 0x3F else if i < 4 then 0xFF else if i < 8 then 7 else if i < 10 then 0xFF else if i = 10 then 1
      else if i = 11 then 7 else if i < 0x31 then 0xFF else if i < 0x33 then 0x77 else if 0x34 ≤ i ∧ i < 0x3C then 0xFF else 0
    | 1 =>
      if i = 1 then 0x0C else if i = 6 ∨ i = 7 ∨ i = 11 then 7 else if i = 8 ∨ i = 9 then 0xFF else if i = 10 then 1
      else if (0x10 ≤ i ∧ i < 0x18) ∨ (0x28 ≤ i ∧ i < 0x30) then 0xFF else 0
    | 2 => if i = 1 then 0x09 else if i = 2 ∨ i = 3 then 0xFF else if 0x0C ≤ i ∧ i < 0x10 then 0xFF else 0
    | _ => if i = 8 then 0x0F else 0
/-- Where the field begins that a byte of a command belongs to (Table 11-6); each core number of PART counts as a field (DESIGN CHOICE, log
15). -/
def fieldStart (i : Nat) : Nat :=
  if 0x0C ≤ i ∧ i < 0x18 then i / 4 * 4 else if 0x18 ≤ i ∧ i < 0x30 then i / 8 * 8 else if 0x34 ≤ i ∧ i < 0x3C then i / 2 * 2
  else if 0x3C ≤ i then 0x3C else i
/-- Fields with a bit set that the OP does not use. -/
def unusedFields (img : List Byte) : List Nat :=
  (((List.range 64).filter fun i =>
    (BitVec.ofNat 8 (imageAt img i 1) &&& ~~~BitVec.ofNat 8 (usedBits (imageAt img 0 1) i)) ≠ 0).map fieldStart).eraseDups

/-! ### Format contexts (R280) -/

def State.formatCtx (s : State) (c : Nat) : FormatCtx := mget {} (s.cluster (s.clusterOf c)).contexts c
def State.setFormatCtx (s : State) (c : Nat) (x : FormatCtx) : State :=
  s.modCluster (s.clusterOf c) fun u => { u with contexts := mset {} u.contexts c x }
/-- A set-context command applied: a format of 0 leaves its field; MDRAW is loaded under ZERO. -/
def FormatCtx.apply (x : FormatCtx) (e : MatrixEntry) : FormatCtx :=
  { fmtA := if e.at 2 1 = 0 then x.fmtA else e.at 2 1, fmtB := if e.at 3 1 = 0 then x.fmtB else e.at 3 1, rsr := e.flag 3,
    mdraw := if e.flag 0 then BitVec.ofNat 32 (e.at 0x0C 4) else x.mdraw }
/-- The context that will stand when a command queued now reaches the head. -/
def State.ctxAhead (s : State) (c : Nat) : FormatCtx :=
  ((s.core c).matrixQ.entries.filter (·.op = 2)).foldl FormatCtx.apply (s.formatCtx c)

/-! ### Validation (R276, R278, R288) -/

/-- A command as it will stand in the queue of core `c`. -/
def State.matrixEntry (s : State) (c : Nat) (img : List Byte) : MatrixEntry :=
  let k := s.core c
  let x := s.ctxAhead c
  let f (i d : Nat) : Nat := if imageAt img i 1 = 0 then d else imageAt img i 1
  let op := imageAt img 0 1
  { id := s.nextTag, image := img, mapA := k.tmap (imageAt img 4 1 % 8), mapB := k.tmap (imageAt img 5 1 % 8),
    mapO := k.tmap (imageAt img 11 1 % 8), fmtA := if op = 0 then f 2 x.fmtA else 0, fmtB := if op = 0 then f 3 x.fmtB else 0,
    waits := if op = 3 then k.queued (imageAt img 8 1 % 16) else [] }
/-- A map of rank 2 with these extents that passes the checks of its box. -/
def State.map2Ok (s : State) (m : TMap) (e0 e1 : Nat) (off : Word) : Bool :=
  m.rank = 2 && e0 ≤ m.ext.getD 0 0 && e1 ≤ m.ext.getD 1 0 && s.mapOk m off
/-- A ring that may serve a format. -/
def Core.ringServes (k : Core) (n fmt : Nat) : Bool := (k.ring n).valid && tileBytes fmt ≤ (k.ring n).tile
/-- Bad fields of the drain part of a command that writes `rows` rows (R276, R419). -/
def State.badDrain (s : State) (e : MatrixEntry) (rows : Nat) : List Nat :=
  let m := parseMap e.mapO
  let off := w64 (e.at 0x28 8)
  let n := unitElems m.fmt
  let fits := m.fmt < 0x10 || (e.cols % n = 0 && e.cols ≠ 0)
  let ok := drainFormat m.fmt && s.map2Ok m ((e.cols + n - 1) / n) rows off
  (if drainFormat m.fmt && !fits then [9] else []) ++ (if ok then [] else [0xFF]) ++
    (if m.checked then
      (if m.bytes % 256 ≠ 0 || !(0x09 ≤ m.fmt && m.fmt ≤ 0x0E) then [0x0B] else if s.trailersOk m off m.bytes then [] else [0xFF])
     else [])
/-- Bad fields of the partners (R278, R288). -/
def State.badParts (s : State) (c : Nat) (e : MatrixEntry) (gang : Bool) : List Nat :=
  let pc := e.at 0x30 1
  let tile (j : Nat) : Nat := e.at (0x31 + j / 2) 1 / 16 ^ (j % 2) % 8
  let spare (n : Nat) : List Nat := ((List.range 4).filter fun j => n ≤ j).flatMap fun j =>
    (if tile j ≠ 0 then [0x31 + j / 2] else []) ++ (if e.at (0x34 + 2 * j) 2 ≠ 0 then [0x34 + 2 * j] else [])
  if !gang then (if pc ≠ 0 then [0x30] else []) ++ spare 0
  else if pc < 2 ∨ 4 < pc then [0x30]
  else
    let ps := e.parts c
    (if e.at 6 1 ≠ 0 then [6] else []) ++ spare pc ++
      (ps.zipIdx.flatMap fun p =>
        let before := ps.take p.2
        (if (p.2 = 0 && p.1.1 ≠ c) || !s.hasCore p.1.1 || s.clusterOf p.1.1 ≠ s.clusterOf c || before.any (·.1 = p.1.1)
          then [0x34 + 2 * p.2] else []) ++
        (if before.any (·.2 = p.1.2) then [0x31 + p.2 / 2] else []))
/-- Bad fields of a product's operands (R276). -/
def State.badProduct (s : State) (c : Nat) (e : MatrixEntry) (gang : Bool) : List Nat :=
  let da := matrixDepth e.fmtA
  let db := matrixDepth e.fmtB
  let known := da ≠ 0 && db ≠ 0
  let alike := da = db && (e.fmtA = 1 ↔ e.fmtB = 1)
  let k := e.at 0x0C 4
  let ma := parseMap e.mapA
  let mb := parseMap e.mapB
  let fok := known && alike
  (if da = 0 then [2] else []) ++ (if db = 0 then [3] else []) ++ (if known && !alike then [3] else []) ++
    (if fok && (k % da ≠ 0 || k / da = 0 || 65535 < k / da) then [0x0C] else []) ++
    (if e.flag 4 then
      (if gang then [4]
       else if fok && !(ma.fmt = e.fmtA && ma.fmt < 0x10 && s.map2Ok ma k e.rows (w64 (e.at 0x20 8))) then [0xFF] else [])
     else if ((e.parts c).filter fun p => s.hasCore p.1).all fun p => (s.core p.1).ringServes (e.at 4 1) e.fmtA then [] else [4]) ++
    (if e.flag 5 then
      (if fok && !(mb.fmt = e.fmtB && mb.fmt < 0x10 && s.map2Ok mb e.cols k (w64 (e.at 0x18 8))) then [0xFF] else [])
     else if (s.core c).ringServes (e.at 5 1) e.fmtB then [] else [5])
/-- The bad fields of a command, each by its byte offset; 0xFF for a map. -/
def State.badFields (s : State) (c : Nat) (e : MatrixEntry) (gang : Bool) : List Nat :=
  let op := e.op
  if 3 < op ∨ (gang ∧ op ≠ 0) then [0]
  else
    let size := (if e.rows = 0 || 32 < e.rows then [8] else []) ++ (if e.cols = 0 || 32 < e.cols then [9] else [])
    unusedFields e.image ++ (match op with
      | 0 => size ++ s.badParts c e gang ++ s.badProduct c e gang ++
          (if e.flag 1 then s.badDrain e (if gang then 32 * e.at 0x30 1 else e.rows) else [])
      | 1 => size ++ s.badDrain e e.rows
      | 2 =>
        let code (i : Nat) : List Nat := if e.at i 1 ≠ 0 && unitBytes (e.at i 1) = 0 then [i] else []
        code 2 ++ code 3 ++ (if e.flag 0 ∨ e.at 0x0C 4 = 0 then [] else [0x0C])
      | _ => [])
/-- The first bad field, if any. -/
def State.badField (s : State) (c : Nat) (e : MatrixEntry) (gang : Bool) : Option Nat := leastBy id (s.badFields c e gang)

/-! ### Acceptance (R278, R289) -/

/-- A signalling command on a barrier that is not bound. -/
def State.unboundFor (s : State) (c : Nat) (e : MatrixEntry) : Bool :=
  e.signals && (e.parts c).any fun p => ((s.core p.1).barrier e.bar).scope = 0
/-- PENDING would pass its greatest value (spec/10 R248). -/
def State.pendingFull (s : State) (c : Nat) (e : MatrixEntry) : Bool :=
  e.signals && (e.parts c).any fun p => pendingTop < ((s.core p.1).barrier e.bar).pending + e.owed
/-- BUSY of the rings a command reads changed. -/
def State.busyRings (s : State) (c : Nat) (e : MatrixEntry) (f : Nat → Nat) : State :=
  (e.rings c).foldl (fun t r => t.modCore r.1 fun k => let x := k.ring r.2; k.setRing r.2 { x with busy := f x.busy }) s
/-- PENDING of the barriers a command signals changed by what it owes. -/
def State.owePending (s : State) (c : Nat) (e : MatrixEntry) (f : Nat → Nat) : State :=
  if e.signals then (e.parts c).foldl (fun t p => t.setPending p.1 e.bar f) s else s
/-- A command put into the queue of core `c`. -/
def State.pushMatrix (s : State) (c : Nat) (e : MatrixEntry) : State :=
  let t := s.modCore c fun k => { k with matrixQ := { k.matrixQ with entries := k.matrixQ.entries ++ [e] } }
  ((t.busyRings c e (· + 1)).owePending c e (· + e.owed)).fresh
/-- An instruction's command: its trap, its wait, or its acceptance. -/
def State.submit (s : State) (e : MatrixEntry) (bad : Option Nat) : Out :=
  match bad with
  | some f => s.badCommand f
  | none =>
    if s.unboundFor s.cur e then s.objectTrap e.bar
    else s.accept (8 ≤ s.me.matrixQ.entries.length) 3 <|
      if s.pendingFull s.cur e then .wait s else .next (s.pushMatrix s.cur e)
/-- `mcmd` and `mgang`. -/
def State.commandForm (s : State) (a : BitVec 4) (gang : Bool) : Out :=
  s.imageForm a [a] 64 fun off => s.readImage off 8 fun t ws =>
    let e := t.matrixEntry t.cur (ws.flatMap fun w => bytesOf w.toNat 8)
    let body : Out := t.submit e (t.badField t.cur e gang)
    if gang then t.whenPut body else body
/-- `mcmd` (R278). -/
def execMcmd (a : BitVec 4) (s : State) : Host.Outcome State Fault Refusal := s.finish (s.commandForm a false)
/-- `mgang` (R288): the partners are read after every earlier access of the gang has been performed (spec/13 R326). -/
def execMgang (a : BitVec 4) (s : State) : Host.Outcome State Fault Refusal := s.finish (s.commandForm a true)
/-- `mfence` (R286). -/
def execMfence (m : BitVec 4) (s : State) : Host.Outcome State Fault Refusal :=
  let img := bytesOf 3 8 ++ bytesOf m.toNat 8 ++ bytesOf 0 48
  s.finish (if s.me.acquiring then .wait s else s.submit (s.matrixEntry s.cur img) none)
/-- The image of `mdrain` (R285): tile, barrier, map, `.rsr` and `.sig` as FLAGS, `.ck`, the two scales. -/
def drainImage (tile bar out flags ck : Nat) (scales : Word) : List Byte :=
  [1, BitVec.ofNat 8 flags, 0, 0, 0, 0, BitVec.ofNat 8 tile, BitVec.ofNat 8 bar, 32, 32, BitVec.ofNat 8 ck, BitVec.ofNat 8 out] ++
    bytesOf 0 4 ++ bytesOf scales.toNat 8 ++ bytesOf 0 40
/-- `mdrain`: every malformed one reports 0xFF (R262). -/
def execMdrain (a b : BitVec 4) (o t : BitVec 3) (c : BitVec 3) (s : State) : Host.Outcome State Fault Refusal :=
  let v := s.readG a
  s.finish (s.gate [a, b] [a, b] <|
    if s.me.acquiring then .wait s
    else if fieldOf v 63 3 ≠ 0 then s.badCommand 0xFF
    else
      let img := drainImage (fieldOf v 2 0) t.toNat o.toNat (8 * bnat (c.getLsbD 0) + 4 * bnat (c.getLsbD 1)) (bnat (c.getLsbD 2)) (s.readG b)
      let e := s.matrixEntry s.cur img
      s.submit e (let bad := s.badFields s.cur e false; if bad.contains 0x0B then some 0x0B else bad.head?.map fun _ => 0xFF))
/-- `mstat` (R287). -/
def execMstat (a : BitVec 4) (s : State) : Host.Outcome State Fault Refusal :=
  s.finish (s.gate [] [a] (.next (s.writeG a s.me.matrixStatus)))
/-- `mstat.ctx` (R287). -/
def execMstatCtx (a : BitVec 4) (s : State) : Host.Outcome State Fault Refusal :=
  let x := s.formatCtx s.cur
  s.finish (s.gate [] [a] (.next (s.writeG a (w64 (x.mdraw.toNat * 2 ^ 32 + x.fmtB * 65536 + x.fmtA * 256 + bnat x.rsr)))))

/-- A command that the window brings must wait for the queue or for room in PENDING. -/
def State.pushWaits (s : State) (core : Nat) (e : MatrixEntry) : Bool :=
  8 ≤ (s.core core).matrixQ.entries.length || s.pendingFull core e
/-- Commands of the window stand by at a core. -/
def State.pushStands (s : State) (core : Nat) : Bool :=
  s.events.any fun e => match e with
    | .matrixWindowPush c _ _ ⟨_, some _⟩ => c = core
    | _ => false
/-- MATRIX_WINDOW_PUSH (R279): the slot's contents, its last word just stored, pushed as `mcmd` would push them; an invalid
command is discarded and traps at the target core. A command that must wait, for the queue or behind an earlier one, stands
by with the contents it was taken with. -/
def execMatrixWindowPush (core slot : Nat) (v : Word) (p : WindowPush) (s : State) : Host.Outcome State Fault Refusal :=
  let k := s.core core
  let x := p.taken.getD (k.staging.image (64 * slot) 56 ++ bytesOf v.toNat 8, k.staging.poisoned (64 * slot) 56)
  let s := if p.taken.isSome then s else s.modCore core fun k => { k with staging := k.staging.store (64 * slot + 56) 8 v false }
  let e := s.matrixEntry core x.1
  let reject (c : Cause) : State := (s.modCore core fun k => { k with causes := k.causes ++ [c] }).ackWindow p.ack
  .next (if x.2 then reject ⟨0x0D, 0, 0, 0⟩
    else match s.badField core e false with
      | some f => reject ⟨0x0D, 0, w64 f, 0⟩
      | none =>
        if s.unboundFor core e then reject ⟨0x06, 2, w64 e.bar, 0⟩
        else if s.pushWaits core e || (p.taken.isNone && s.pushStands core) then s.push (.matrixWindowPush core slot v { p with taken := some x })
        else (s.pushMatrix core e).ackWindow p.ack).wake

/-! ### The queue -/

/-- The head command changed. -/
def Core.modMatrix (k : Core) (f : MatrixEntry → MatrixEntry) : Core :=
  { k with matrixQ := { k.matrixQ with entries := match k.matrixQ.entries with
    | [] => []
    | e :: es => f e :: es } }
def State.setMprog (s : State) (cs : List Nat) (n : Nat) : State :=
  cs.foldl (fun t c => t.modCore c fun k => { k with mprog := BitVec.ofNat 16 n }) s
/-- What a command holds is given back: BUSY, PENDING that no drain has taken, HELD. -/
def State.giveBack (s : State) (c : Nat) (e : MatrixEntry) : State :=
  let t := s.busyRings c e (· - 1)
  let t := if e.drained then t else t.owePending c e (· - e.owed)
  if e.ganged && e.active then
    (e.parts c).foldl (fun t p => t.modCore p.1 fun k => { k with matrixQ := { k.matrixQ with held := false } }) t
  else t
/-- The head leaves the queue. -/
def State.popMatrix (s : State) (c : Nat) : State :=
  (s.modCore c fun k => { k with matrixQ := { k.matrixQ with entries := k.matrixQ.entries.drop 1, cause := 0 } }).wake
/-- `mresume` (R284). -/
def execMresume (s : State) : Host.Outcome State Fault Refusal :=
  let q := s.me.matrixQ
  s.finish (match q.entries with
    | [] => .next s
    | e :: _ =>
      if q.cause = 0 then .next s
      else if e.op = 0 ∧ e.steps < s.me.mprog.toNat then s.badCommand 0x0C
      else .next (s.modMe fun k =>
        let k := k.modMatrix fun e => { e with fresh := true }
        { k with matrixQ := { k.matrixQ with cause := 0 } }))
/-- `mresume.abort` (R284). -/
def execMresumeAbort (s : State) : Host.Outcome State Fault Refusal :=
  let q := s.me.matrixQ
  s.finish (match q.entries with
    | [] => .next s
    | e :: _ => if q.cause = 0 then .next s else .next ((s.giveBack s.cur e).popMatrix s.cur))

/-! ### Arbitration (R281, R289) -/

/-- The cores of a cluster with their positions. -/
def State.seats (s : State) (n : Nat) : List (Nat × Nat) :=
  (s.ctx.cores.filter fun e => clusterAt e.2 = n).map fun e => (seatAt e.2, e.1)
/-- A head that is neither stopped, nor held back by a ganged command or by a pair's open interval. -/
def Core.matrixHead (k : Core) : Option MatrixEntry :=
  match k.matrixQ.entries with
  | [] => none
  | e :: _ =>
    if k.matrixQ.cause ≠ 0 ∨ (k.matrixQ.held ∧ !(e.ganged && e.active)) ∨ (k.pair.on ∧ k.pair.mark ≤ e.id) then none else some e
/-- A head that starts, or goes on after `mresume`. -/
def State.starts (s : State) (c : Nat) : Option MatrixEntry :=
  match (s.core c).matrixHead with
  | none => none
  | some e =>
    let free := e.active || !e.ganged || (e.parts c).all fun p =>
      p.1 = c || (!(s.core p.1).matrixQ.held && !((s.core p.1).matrixQ.entries.head?.any (·.active)))
    if e.op < 2 && e.fresh && free then some e else none
/-- A tile cleared, with its prediction and budget (R282, spec/18 R418). -/
def Cluster.clearTile (u : Cluster) (t : Nat) : Cluster :=
  { u with acc := u.acc.filter fun e => e.1 / 1024 ≠ t, accBad := u.accBad.filter fun e => e.1 / 1024 ≠ t,
           predict := mdel u.predict t, budget := mdel u.budget t }
/-- A head starts: MPROG is 0, HELD is set at the partners; ZERO at MPROG 0 clears the tiles. -/
def State.startMatrix (s : State) (c : Nat) : State :=
  match s.starts c with
  | none => s
  | some e =>
    let ps := e.parts c
    let t := s.modCore c (·.modMatrix fun e => { e with active := true, fresh := false })
    let t := if e.active then t else t.setMprog (ps.map (·.1)) 0
    let t := if e.ganged then ps.foldl (fun t p => t.modCore p.1 fun k => { k with matrixQ := { k.matrixQ with held := true } }) t else t
    if e.op = 0 && e.flag 0 && (t.core c).mprog = 0 then
      t.modCluster (t.clusterOf c) fun u => ps.foldl (fun u p => u.clearTile p.2) u
    else t
/-- Chunk fault records among these that are not yet delivered or dropped. -/
def State.recordsOut (s : State) (ids : List Nat) : Bool :=
  (s.cores.any fun e => e.2.records.any fun o => ids.contains o.seq) || s.sliceOut.any fun o => ids.contains o.seq
/-- The first lines that a k-step reads through a map go now (spec/17 R396). -/
def State.kstepGoes (s : State) (c : Nat) (e : MatrixEntry) : Bool :=
  let k := (s.core c).mprog.toNat
  let goes (m : TMap) (a : Word) (n : Nat) : Bool := s.readGoes c m.own a (readCost (n * m.unit)) ((n * m.unit + 63) / 64)
  let a := parseMap e.mapA
  let b := parseMap e.mapB
  (!e.flag 4 || goes a (a.at2 (w64 (e.at 0x20 8)) (matrixDepth e.fmtA * k) 0) (matrixDepth e.fmtA)) &&
    (!e.flag 5 || goes b (b.at2 (w64 (e.at 0x18 8)) 0 (matrixDepth e.fmtB * k)) e.cols)
/-- The request that a core's head makes, if it can proceed. -/
def State.requests (s : State) (c : Nat) : Option Turn :=
  let k := s.core c
  match k.matrixHead with
  | none => none
  | some e =>
    match e.op with
    | 2 => some (.setCtx c)
    | 3 => if k.unfinished e.waits then none else some (.fence c)
    | _ =>
      if !e.active || e.fresh then none
      else if e.op = 0 && k.mprog.toNat < e.steps then
        if ((e.rings c).all fun r => 0 < ((s.core r.1).ring r.2).held) && s.kstepGoes c e then some (.kstep c) else none
      else if e.drains && !e.drained then (if e.at 0x0A 1 = 0 || s.recordRoom (.core c) 3 1 then some (.drain c) else none)
      else if s.recordsOut e.waits then none
      else some (.complete c)
/-- The unit of a cluster has something to take. -/
def State.arbitrates (s : State) (n : Nat) : Bool :=
  (s.cluster n).turn = .idle && (s.seats n).any fun p => (s.starts p.2).isSome || (s.requests p.2).isSome
/-- MATRIX_ARBITRATION: heads start, and the next request in round-robin is taken. -/
def execMatrixArbitration (cluster : Nat) (s : State) : Host.Outcome State Fault Refusal :=
  .next (if !s.arbitrates cluster then s
    else
      let seats := s.seats cluster
      let t := seats.foldl (fun t p => t.startMatrix p.2) s
      let next := leastBy (fun x => (x + 7 - (t.cluster cluster).pointer) % 8) ((seats.filter fun p => (t.requests p.2).isSome).map (·.1))
      match next.bind fun x => seats.find? (·.1 = x) with
      | some (x, c) => t.modCluster cluster fun u => { u with pointer := x, turn := (t.requests c).getD .idle }
      | none => t)

/-! ### k-steps (R282, R283) -/

/-- The unit's turn ends, or goes on to a completion. -/
def State.endTurn (s : State) (n : Nat) (turn : Turn := .idle) : State := s.modCluster n fun u => { u with turn }
/-- The head stops (R283, R285): the cause is raised at the issuing core's trap routine. -/
def State.stopMatrix (s : State) (c : Nat) (stop : Nat × Nat × Word) : State :=
  (s.modCore c fun k => { k with matrixQ := { k.matrixQ with cause := stop.1 }, causes := k.causes ++ [⟨stop.1, stop.2.1, stop.2.2, 0⟩] }).wake
/-- Matrix data read: values by line, or why the command stops. -/
abbrev ReadOut := State × Except (Nat × Nat × Word) (List (List Num))
/-- One unit of a map. -/
def State.readUnit (s : State) (c : Nat) (m : TMap) (a : Word) : State × Except (Nat × Nat × Word) Num :=
  match s.engineStop c m.own a m.unit false with
  | some stop => (s.engineFills c m.own a m.unit false, .error stop)
  | none =>
    let (t, bs) := s.engineRead c m.own a m.unit
    if bs.any (·.2) then (t, .error (0x0E, 1, if m.own then coreAddr c a.toNat else a))
    else (t, .ok (elementOf m.fmt (leNat (bs.map (·.1)))))
/-- Units of a map in order, as far as the first that stops. -/
def State.readUnits (s : State) (c : Nat) (m : TMap) : List Word → State × Except (Nat × Nat × Word) (List Num)
  | [] => (s, .ok [])
  | a :: as =>
    match s.readUnit c m a with
    | (t, .error e) => (t, .error e)
    | (t, .ok v) => match t.readUnits c m as with
      | (u, .ok vs) => (u, .ok (v :: vs))
      | (u, .error e) => (u, .error e)
/-- Lines of units. -/
def State.readLines (s : State) (c : Nat) (m : TMap) : List (List Word) → ReadOut
  | [] => (s, .ok [])
  | l :: ls =>
    match (s.chargeRead c m.own (l.headD 0) (l.length * m.unit)).readUnits c m l with
    | (t, .error e) => (t, .error e)
    | (t, .ok v) => match t.readLines c m ls with
      | (u, .ok vs) => (u, .ok (v :: vs))
      | (u, .error e) => (u, .error e)
/-- The head tile of a ring: its first `n` lines. Every line is read. -/
def State.readTile (s : State) (c ring fmt n : Nat) : ReadOut :=
  let r := (s.core c).ring ring
  let a := r.base + r.head % r.slots * r.tile
  let t := s.scanLocal c a (tileBytes fmt)
  let m := (t.core c).mem
  match (wordsOf a (tileBytes fmt)).find? fun w => mget false m.bad w with
  | some w => (t, .error (0x0E, 1, coreAddr c (8 * w)))
  | none => let img := m.image a (tileBytes fmt); (t, .ok ((List.range n).map (tileLine fmt img)))
/-- The A lines of partner `tc`, and the B columns, of k-step `k`. -/
def State.readA (s : State) (c tc : Nat) (e : MatrixEntry) (k : Nat) : ReadOut :=
  let d := matrixDepth e.fmtA
  let m := parseMap e.mapA
  if e.flag 4 then
    s.readLines c m ((List.range e.rows).map fun i => (List.range d).map fun j => m.at2 (w64 (e.at 0x20 8)) (d * k + j) i)
  else s.readTile tc (e.at 4 1) e.fmtA e.rows
def State.readB (s : State) (c : Nat) (e : MatrixEntry) (k : Nat) : ReadOut :=
  let d := matrixDepth e.fmtB
  let m := parseMap e.mapB
  if e.flag 5 then
    let (t, r) := s.readLines c m ((List.range d).map fun j => (List.range e.cols).map fun i => m.at2 (w64 (e.at 0x18 8)) i (d * k + j))
    (t, r.map fun rows => (List.range e.cols).map fun i => rows.map fun row => row.getD i .nan)
  else s.readTile c (e.at 5 1) e.fmtB e.cols
/-- The A lines of every partner. -/
def State.readBands (s : State) (c : Nat) (e : MatrixEntry) (k : Nat) :
    List (Nat × Nat) → State × Except (Nat × Nat × Word) (List (List (List Num)))
  | [] => (s, .ok [])
  | p :: ps =>
    match s.readA c p.1 e k with
    | (t, .error x) => (t, .error x)
    | (t, .ok v) => match t.readBands c e k ps with
      | (u, .ok vs) => (u, .ok (v :: vs))
      | (u, .error x) => (u, .error x)
def Cluster.accAt (u : Cluster) (tile x : Nat) : BitVec 32 := mget 0 u.acc (tile * 1024 + x)
/-- One band updated: each element's only rounding, the prediction and the budget. -/
def State.updateBand (s : State) (tc tile : Nat) (e : MatrixEntry) (k : Nat) (as bs : List (List Num)) : State :=
  let n := s.clusterOf tc
  let u := s.cluster n
  let draw := ((s.formatCtx tc).mdraw.toNat + k) % 2 ^ 32
  let g (x : Nat) : Nat := generator s.ctx.seed (matrixCounter (s.core tc).rank.toNat false x draw)
  let outs : List (Nat × Nat) := as.zipIdx.flatMap fun a => bs.zipIdx.map fun b =>
    let x := 32 * a.2 + b.2
    (x, roundFloat .f32 e.mode (g x) (dotInto (decodeFloat .f32 (u.accAt tile x).toNat) a.1 b.1))
  let p := decodeFloat .f64 (mget 0 u.predict tile).toNat
  let pnew := roundFloat .f64 .rne 0 (predictStep p as bs (matrixDepth e.fmtA))
  let enew := budgetStep (decodeFloat .f64 (mget 0 u.budget tile).toNat) (outs.map fun o => decodeFloat .f32 o.2)
    (decodeFloat .f64 pnew) (e.flag 3) (Config.freeValue 3 s.clock).toNat
  s.modCluster n fun u =>
    { u with acc := outs.foldl (fun m o => mset 0 m (tile * 1024 + o.1) (BitVec.ofNat 32 o.2)) u.acc,
             predict := mset 0 u.predict tile (w64 pnew), budget := mset 0 u.budget tile (w64 enew) }
/-- MATRIX_K_STEP. -/
def execMatrixKStep (cluster : Nat) (s : State) : Host.Outcome State Fault Refusal :=
  .next (match (s.cluster cluster).turn with
    | .kstep c =>
      match (s.core c).matrixHead with
      | none => s.endTurn cluster
      | some e =>
        let k := (s.core c).mprog.toNat
        let ps := e.parts c
        match s.readBands c e k ps with
        | (t, .error stop) => (t.stopMatrix c stop).endTurn cluster
        | (t, .ok bands) =>
          match t.readB c e k with
          | (t, .error stop) => (t.stopMatrix c stop).endTurn cluster
          | (t, .ok bs) =>
            let t := (ps.zip bands).foldl (fun t p => t.updateBand p.1.1 p.1.2 e k p.2 bs) t
            let t := (e.rings c).foldl (fun t r => t.modCore r.1 fun x => let y := x.ring r.2; x.setRing r.2 (y.setHead (y.head + 1))) t
            let t := t.setMprog (ps.map (·.1)) (k + 1)
            (t.endTurn cluster (if k + 1 = e.steps && !e.drains then .complete c else .idle)).wake
    | _ => s)

/-! ### Drains (R285, spec/18 R418, R419) -/

/-- A band's drain: its units with their places (column unit, row of OUT), the poison of their accumulators, and the outcome
of its check. -/
structure Band where
  units : List (Nat × Nat × List Byte × Bool)
  ok : Option Bool
  q : Nat
  sum : Nat
  deriving DecidableEq, Repr
/-- The band of partner j. -/
def State.bandOf (s : State) (e : MatrixEntry) (tc tile j : Nat) : Band :=
  let u := s.cluster (s.clusterOf tc)
  let m := parseMap e.mapO
  let n := unitElems m.fmt
  let scale := (decodeFloat .f32 (e.at 0x10 4)).mul (decodeFloat .f32 (e.at 0x14 4))
  let draw := (s.formatCtx tc).mdraw.toNat
  let g (x : Nat) : Nat := generator s.ctx.seed (matrixCounter (s.core tc).rank.toNat true x draw)
  let acc (x : Nat) : Num := decodeFloat .f32 (u.accAt tile x).toNat
  let made := (List.range e.rows).flatMap fun i => (List.range (e.cols / n)).map fun x =>
    let base := 32 * i + n * x
    let r := outUnit m.fmt e.mode (fun k => g (base + k)) ((List.range n).map fun k => scale.mul (acc (base + k)))
    let bad := (List.range n).any fun k => mget false u.accBad (tile * 1024 + base + k)
    ((x, 32 * j + i, r.1, bad), r.2)
  let p := decodeFloat .f64 (mget 0 u.predict tile).toNat
  let accs := (List.range e.rows).flatMap fun i => (List.range e.cols).map fun x => acc (32 * i + x)
  let outs := made.flatMap (·.2)
  { units := made.map (·.1),
    ok := if e.at 0x0A 1 = 1 && s.ctx.check ≠ 0 then
        drainCheck (e.flag 3) scale p (decodeFloat .f64 (mget 0 u.budget tile).toNat) accs outs
      else none,
    q := roundFloat .f64 .rne 0 (scale.mul p), sum := roundFloat .f64 .rne 0 (exactSum (outs.map (·.val))) }
/-- The chunk of a unit's bytes in a map (spec/18 R411). -/
def TMap.chunkOf (m : TMap) (x y : Nat) : Nat := (x + m.ext.getD 0 0 * y) * m.unit / 256
/-- The first stop that a drain's accesses meet: its writes, the trailers of a CHECKED map, and the units of its chunks
that it does not write. -/
def State.drainStop (s : State) (c : Nat) (m : TMap) (off : Word) (units : List (Nat × Nat × List Byte × Bool)) : Option (Nat × Nat × Word) :=
  let write := units.filterMap fun u => s.engineStop c m.own (m.at2 off u.1 u.2.1) m.unit true
  let rest := if !m.checked then [] else
    ((List.range (m.bytes / 256)).filterMap fun k => s.engineStop c m.own (m.trailerAt off k) 16 true) ++
      (List.range m.units).filterMap fun n =>
        if units.any fun u => u.1 + m.ext.getD 0 0 * u.2.1 = n then none else s.engineStop c m.own (m.unitAt off n) m.unit false
  (write ++ rest).head?
/-- The buffers after a drain's accesses have been translated. -/
def State.drainFills (s : State) (c : Nat) (m : TMap) (off : Word) (units : List (Nat × Nat × List Byte × Bool)) : State :=
  let t := units.foldl (fun t u => t.engineFills c m.own (m.at2 off u.1 u.2.1) m.unit) s
  if m.checked then (List.range (m.bytes / 256)).foldl (fun t k => t.engineFills c m.own (m.trailerAt off k) 16) t else t
/-- A chunk of a CHECKED map as a drain leaves it: its units drained or as they stand, with a fresh trailer (R419). It is verified by
its home, or by a port on the way, when it leaves the core (R413), and written as Table 18-2 has it; then what remains to be
reported. -/
def State.drainChunk (s : State) (c : Nat) (m : TMap) (off : Word) (chunk : Nat) (units : List (Nat × Nat × List Byte × Bool)) (suspect : Bool) :
    State × List (Source × List Word) :=
  let k := 256 / m.unit
  let (t, data) := (List.range k).foldl (fun (r : State × List (Byte × Bool)) i =>
    match units.find? fun u => u.1 + m.ext.getD 0 0 * u.2.1 = chunk * k + i with
    | some u => (r.1, r.2 ++ u.2.2.1.map fun b => (b, u.2.2.2))
    | none => let x := r.1.engineRead c m.own (m.unitAt off (chunk * k + i)) m.unit; (x.1, r.2 ++ x.2)) (s, [])
  let head := (makeImage m.fmt 0 suspect (data.map (·.1))).take 16 |>.map fun b => (b, data.any (·.2))
  let dest := m.chunkAddr off chunk
  let home := t.engineAt c m.own dest.toNat true
  let (img, t) := t.flipOut c home ((head ++ data).map (·.1))
  let bad := badImage (head ++ data)
  let x : ChunkOut := ⟨img, bad, false⟩
  let fails := t.ctx.check ≠ 0 && home.home ≠ some c && !(residueOk img && bad.isEmpty)
  let pkg := ((t.place c).map (·.1)).getD 0
  let v := if bad.isEmpty then t.verifier c m.own dest else ((t.verifier c m.own dest).1, 0, agentMatrix pkg, agentMatrix pkg)
  let word : List Word := [w64 (m.id * 2 ^ 32 + chunk), recordWord (chunkStep img) false v.2.1 (t.ctx.check = 2) (if v.2.1 = 3 then 2 else 3), v.2.2.1, v.2.2.2,
    w64 (imageAt img 0 4), t.residueFound img !bad.isEmpty, dest]
  (if fails && t.ctx.check = 2 then t else t.writeChunk c m off chunk (x.bytes (if fails then markSuspect img else img)),
   if fails then [(v.1, word)] else [])
/-- The chunks of a drain, one after the other. -/
def State.drainChunks (s : State) (c : Nat) (m : TMap) (off : Word) (units : List (Nat × Nat × List Byte × Bool)) (marked : List Nat) :
    List Nat → State × List (Source × List Word)
  | [] => (s, [])
  | k :: ks =>
    let x := s.drainChunk c m off k units (marked.contains k)
    let y := x.1.drainChunks c m off units marked ks
    (y.1, x.2 ++ y.2)
/-- MATRIX_DRAIN. -/
def execMatrixDrain (cluster : Nat) (s : State) : Host.Outcome State Fault Refusal :=
  .next (match (s.cluster cluster).turn with
    | .drain c =>
      match (s.core c).matrixHead with
      | none => s.endTurn cluster
      | some e =>
        let m := parseMap e.mapO
        let off := w64 (e.at 0x28 8)
        let bands := (e.parts c).mapIdx fun j p => s.bandOf e p.1 p.2 j
        match s.drainStop c m off (bands.flatMap (·.units)) with
        | some stop => ((s.drainFills c m off (bands.flatMap (·.units))).stopMatrix c stop).endTurn cluster
        | none =>
          let hold := s.ctx.check = 2
          let failed := bands.filter (·.ok = some false)
          let marked := failed.flatMap fun b => b.units.map fun u => m.chunkOf u.1 u.2.1
          let keep (u : Nat × Nat × List Byte × Bool) (b : Band) : Bool :=
            !(hold && (b.ok = some false || (m.checked && marked.contains (m.chunkOf u.1 u.2.1))))
          let units := bands.flatMap fun b => b.units.filter (keep · b)
          let (t, faults) := if m.checked then
              s.drainChunks c m off units marked ((List.range (m.bytes / 256)).filter fun k => !(hold && marked.contains k))
            else (units.foldl (fun t u =>
              (t.engineFills c m.own (m.at2 off u.1 u.2.1) u.2.2.1.length).performWrites (t.engineWrites c m.own (m.at2 off u.1 u.2.1) (u.2.2.1.map fun x => (x, u.2.2.2)))) s, [])
          let pkg := ((s.place c).map (·.1)).getD 0
          let recs := failed.map fun b =>
            let u := b.units.headD (0, 0, [], false)
            [w64 (m.id * 2 ^ 32 + m.chunkOf u.1 u.2.1), recordWord 0 true 4 hold 3, agentMatrix pkg, agentMatrix pkg, w64 b.q, w64 b.sum,
             m.at2 off u.1 u.2.1]
          let first := t.nextTag
          let t := faults.foldl (fun t f => t.sendRecords f.1 c [f.2] []) (t.sendRecords (.core c) c recs [])
          let t := t.owePending c e (· - e.owed)
          let t := t.modCore c (·.modMatrix fun e => { e with drained := true, waits := (List.range (recs.length + faults.length)).map (first + ·) })
          (t.endTurn cluster (if recs.isEmpty && faults.isEmpty then .complete c else .idle)).wake
    | _ => s)

/-! ### Set-context, fences and completion (R280, R286) -/

/-- MATRIX_SET_CONTEXT. -/
def execMatrixSetContext (cluster : Nat) (s : State) : Host.Outcome State Fault Refusal :=
  .next (match (s.cluster cluster).turn with
    | .setCtx c =>
      match (s.core c).matrixHead with
      | none => s.endTurn cluster
      | some e => ((s.setFormatCtx c ((s.formatCtx c).apply e)).popMatrix c).endTurn cluster
    | _ => s)
/-- MATRIX_FENCE. -/
def execMatrixFence (cluster : Nat) (s : State) : Host.Outcome State Fault Refusal :=
  .next (match (s.cluster cluster).turn with
    | .fence c => (s.popMatrix c).endTurn cluster
    | _ => s)
/-- MATRIX_COMPLETION: MDRAW rises by KS, BUSY falls, PENDING reaches zero for the command and one arrival is counted. -/
def execMatrixCompletion (cluster : Nat) (s : State) : Host.Outcome State Fault Refusal :=
  .next (match (s.cluster cluster).turn with
    | .complete c =>
      match (s.core c).matrixHead with
      | none => s.endTurn cluster
      | some e =>
        let ps := e.parts c
        let t := ps.foldl (fun t p => let x := t.formatCtx p.1
          t.setFormatCtx p.1 { x with mdraw := x.mdraw + BitVec.ofNat 32 e.steps }) s
        let t := t.giveBack c e
        let t := if e.signals then ps.foldl (fun t p => t.arriveBarrier p.1 e.bar 1 none) t else t
        (t.popMatrix c).endTurn cluster
    | _ => s)

end Sys2Proof.Machine
end

