-- ==== Sys2Proof/Machine/Agents.lean ====
section
/-! DEFINITION. What may happen next: the packets that may be delivered (spec/17 R387), what the hardware may do on its own,
and the cores that may issue (spec/16 R373); the fetch of an instruction (spec/03 R78-R80); and the passing of a cycle. -/
namespace Sys2Proof.Machine

/-! ### Delivery -/

/-- A write of the host that has not been performed at its home (spec/24 R494). -/
def hostWrite : Instr → Bool
  | .sliceOperation r => r.src = .host && (match r.op with
    | .store _ => true
    | _ => false)
  | _ => false
/-- The request of a packet that is refused traffic (spec/17 Table 17-5). -/
def State.refusedReq (s : State) (e : Instr) : Option Req :=
  let made (home : Option Nat) (c : Nat) (ack : Option (Nat × List Nat)) : Req :=
    { src := (ack.map fun a => Source.core a.1).getD (.core c), tag := 0, uids := (ack.map (·.2)).getD [], home, op := .store [], quiet := ack.isNone }
  match e with
  | .remoteAccess r | .sliceOperation r | .timelineWrite r | .chainedPacket r => some r
  | .ringWindowPush c _ _ ack | .matrixWindowPush c _ _ ⟨ack, none⟩ => some (made (some c) c ack)
  | .barrierArrival c _ _ ack => some (made none c (ack.map fun uids => (c, uids)))
  | .checkedChunkVerify c q => ((s.core c).loads.find? (·.dest = .copy q)).map (·.req)
  | _ => none
/-- A router inside a contained rectangle whose fence stands. -/
def State.fencedRouter (s : State) (r : Nat) : Bool := s.sup.fences.any fun f => routersIn (s.clustersIn f.1) r
/-- A fence stands at the destination of a packet (spec/22 R475). -/
def State.fencedOff (s : State) (e : Instr) : Bool :=
  ((s.refusedReq e).bind (·.home)).any s.fenced || (match e with
    | .barrierArrival c n _ _ => s.fencedRouter (s.nodeRouter c ((s.core c).barrier n).scope)
    | _ => false)
/-- A packet that is refused traffic where it stands or at its destination. -/
def State.refuses (s : State) (p : Packet) : Bool := s.turnedBack p || s.fencedOff p.event
/-- What becomes of a packet that comes as far as it can: it acts, or it is refused traffic; of refused replies the values are
poisoned (DEDUCED, log 61). -/
def State.arriving (s : State) (p : Packet) : Instr :=
  if s.refuses p then
    match s.refusedReq p.event, p.event with
    | some r, _ => .refusedTraffic r
    | none, .loadReply c tag vs => .loadReply c tag (vs.map fun v => { v with poison := true })
    | none, .forwardedReply c uid reg v => .forwardedReply c uid reg { v with poison := true }
    | none, e => e
  else p.event
/-- A refused arrival stands forwarded no longer. -/
def State.notCounted (s : State) (e : Instr) : State :=
  match e with
  | .barrierArrival c n count _ => s.modCore c fun k => let r := k.barrier n; k.setBarrier n { r with arrived := r.arrived - count }
  | _ => s
/-- A message, a grant or a copy of a multicast that a port refuses is lost, and recorded (Table 17-5); none for what acts all the same. -/
def State.loseMessage (s : State) (p : Packet) : Option State :=
  match p.tree, p.event with
  | some x, _ => some (s.dropCopyOf x.1 x.2)
  | none, .carryArrival m | none, .dataMessageArrival m => some (s.discardMsg m)
  | none, .changeMessageArrival m => (match m.body with
    | .change desc r => some (s.push (.changeRecordLost desc r.wave))
    | _ => some (s.discardMsg m))
  | none, .grantRequest q => some (s.recordRefused (s.refuserOf q.src (.core q.dst)) 3 (channelWord q.dst q.ch) (sourceWord q.src))
  | none, .grant q | none, .revocation q | none, .refusal q =>
    some (s.recordRefused (s.refuserOf (.core q.dst) q.src) 3 (channelWord q.dst q.ch) (sourceWord q.src))
  | none, _ => none
/-- A packet that its destination can take now; `before` is what left earlier. -/
def State.takes (s : State) (before : List Instr) : Instr → Bool
  | .chainedPacket r =>
    match r.home, r.op with
    | some c, .future off _ _ => !mget false (s.core c).full (off / 8)
    | _, _ => true
  | .sliceOperation r => match r.op with
    | .reduce pa op img bad _ => s.reduceRoom r.src pa op img bad
    | _ => true
  | .checkedChunkVerify c q => s.verifierRoom c q
  | .matrixWindowPush c _ _ ⟨_, some x⟩ => !s.ctx.saved && !s.pushWaits c (s.matrixEntry c x.1)
  | .ring _ _ | .control _ _ _ | .devstatRead | .hostRegisterWrite _ .read => !s.events.any hostWrite
  | .negativeAcknowledgement p _ | .creditReturn p _ _ => !(s.port p).badMgmt
  | .forwardedReply c uid _ _ =>
    (s.core c).standing uid ≠ .gone || !s.events.any fun e => match e with
      | .carryArrival m => m.dst = c && bodyUid m.body = some uid
      | _ => false
  | .invalidationAck c _ => !before.any fun e => match e with
      | .sliceOperation r | .timelineWrite r | .chainedPacket r => r.src = .core c
      | _ => false
  | _ => true
/-- The packets that may be delivered: admitted, the first of each of its streams, come to a destination that can take it, or
refused where they stand. -/
def State.deliverable (s : State) : List Instr → List Packet → List (Nat × Source × Source × Nat) → List Packet
  | _, [], _ => []
  | before, p :: ps, seen =>
    let keys := s.streams p
    let rest := s.deliverable (before ++ [p.event]) ps (keys ++ seen)
    if p.stamp.isSome && !keys.any seen.contains && (s.turnedBack p || (s.isHere p && s.takes before p.event)) then p :: rest else rest
/-- Where a packet is performed: the home of what it brings about (R397). -/
def State.placeOf (s : State) (p : Packet) : Source :=
  match s.ends p with
  | x :: _ => x.2
  | [] => .host
/-- The sources whose oldest waiting packet a frame can now cover (R396). -/
def State.admissionEvents (s : State) : List Instr :=
  let waiting := s.agenda.filter (·.stamp.isNone)
  (waiting.filterMap fun p => payerOf p.event).eraseDups.filterMap fun src =>
    match waiting.find? fun p => payerOf p.event = some src with
    | some p => if (s.charge src (s.sourcePart src p.event) (costOf p.event)).isSome then some (.packetAdmission src (costOf p.event)) else none
    | none => none

/-! ### What the hardware does on its own -/

/-- A carry message that may be spilled: it has waited 4,096 cycles without a grant, and nothing of it is pending. -/
def Outbound.spills (o : Outbound) (clock : Nat) : Bool :=
  o.kind = .carry && !o.granted && !o.sent && o.since + 4096 ≤ clock && (match o.msg.body with
    | .carry m => m.frame.isSome || m.pend = 0
    | _ => false)
/-- Messages that may leave a core: granted, and covered by a frame (spec/17 R396). -/
def State.sendEvents (s : State) (c : Nat) : List Instr :=
  let k := s.core c
  let lists := [k.outbox, k.sendRep]
  let here (o : Outbound) : Bool := k.ready.any (·.msg.id = o.msg.id)
  let may (o : Outbound) : Bool := o.stamp.isSome || s.admits (arrivalEvent o.msg)
  ((((lists.flatMap fun l => firstGranted l []) ++ k.requestReady.filter (!here ·)).filter may).map fun o => Instr.carryMessageSend (.core c) o.msg.id) ++
    (if k.requestReady.any fun o => here o && may o then [.readyQueueSend c] else []) ++
    ((k.records.filter fun o => !o.granted && !o.sent && o.since + 4096 ≤ s.clock).map fun o => Instr.chunkRecordDrop (.core c) o.msg.id)
/-- A ring whose oldest entry can be taken, or that is empty. -/
def State.drains (s : State) (c ch : Nat) : Bool :=
  let k := s.core c
  let h := k.channel ch
  h.drains && (match s.ringHeld h.routine with
    | none => false
    | some 0 => true
    | some _ =>
      let j := ((s.readV s.ctx.part.toNat (s.ringAt h.routine + 8)).getD 0).toNat
      match s.readDir h.routine, s.resolve s.ctx.part.toNat (s.ringSlot h.routine j) false with
      | some e, some pa => s.mem.load (pa + 0xF8) 8 = j + 1 && carrySlots e.count ≤ k.slotsFree ch
      | _, _ => false)
/-- Ring entries that a core can take. -/
def State.channelEvents (s : State) (c : Nat) : List Instr :=
  let k := s.core c
  ((k.channels.map (·.1)).filter fun ch => !k.preempting && s.drains c ch).map fun ch => Instr.ringDrain c ch
/-- A core of a package that a fatal error has stopped (spec/22 R478). -/
def State.coreDead (s : State) (c : Nat) : Bool := !s.sup.stopped.isEmpty && s.sup.stopped.contains (s.dieOf c / 4)
/-- What takes effect at once on a core's channels: rebindings with no gang resident, which a pre-emption lets complete (spec/06 R159,
spec/12 R318), and its next firing, except in a package that a fatal error has stopped. -/
def State.channelsDue (s : State) (c : Nat) : List Instr :=
  (((s.core c).channels.map (·.1)).filter (s.rebinds c)).map (fun ch => Instr.rebindingTakesEffect c ch) ++
    (if s.coreDead c then [] else (s.fires c).toList.map fun ch => Instr.firing c ch)
/-- Requests of a core that are to be sent again, and late forwarding entries. -/
def State.retryEvents (s : State) (c : Nat) : List Instr :=
  let k := s.core c
  let due := k.loads.filter fun e => e.held.isSome && e.since + 256 ≤ s.clock
  (due.filterMap fun e => match e.dest, e.req.op with
    | .future _, _ => none
    | _, .future _ _ _ => some (Instr.futureRetry c e.tag)
    | _, .counter _ _ _ => some (Instr.counterUpdateRetry c e.tag)
    | _, .put _ _ _ _ _ => some (Instr.changePutRetry c e.tag)
    | _, _ => none) ++
  (k.loads.filterMap fun e => match e.dest, e.held with
    | .future off, some v => if mget false k.full (off / 8) then none else some (Instr.loadReply c e.tag [v])
    | _, _ => none) ++
  ((k.loads.filter fun e => e.forward.isSome && !e.late && e.since + 2048 ≤ s.clock).map fun e => Instr.forwardingEntryTimeout c e.tag) ++
  ((k.forwards.filter fun f => !f.own && !f.late && f.since + 2048 ≤ s.clock).map fun f => Instr.forwardingEntryTimeout c f.tag)
/-- The other events of a core: counters, fault frames, ends of change firings. -/
def State.ownEvents (s : State) (c : Nat) : List Instr :=
  let k := s.core c
  (match leastBy id ((k.bindings.filter (·.remembered.isSome)).map (·.sel)) with
    | some sel => if k.ready.length < 16 then [.counterEvent c sel] else []
    | none => []) ++
  ((k.faults.filter fun f => !f.written && f.quiet).map fun f => Instr.translationFault c f.frame) ++
  ((k.gangs.filter fun e => e.2.ending && !k.loads.any (·.slot = e.1)).map fun e => Instr.changeFiringEnd c e.1)
/-- The engines of a core: the next unit or the completion of each copy queue (spec/11 R264, R265). Work of a pair's open
interval waits in the gate; a pre-emption stops the queues at a unit boundary. -/
def State.copyEvents (s : State) (c : Nat) : List Instr :=
  let k := s.core c
  if k.preempting ∨ k.stopped then []
  else (k.copyQs.filter fun e => !(k.pair.on && e.2.entries.head?.any fun x => k.pair.mark ≤ x.id)).flatMap fun e =>
    (if s.copyMoves c e.1 then [Instr.copyUnit c e.1] else []) ++ (if s.copyEnds c e.1 then [Instr.copyCompletion c e.1] else [])
/-- The matrix units: the turn that has been given, else the next arbitration (spec/11 R281). -/
def State.matrixEvents (s : State) : List Instr :=
  s.clustersOf.flatMap fun u =>
    match (s.cluster u).turn with
    | .kstep _ => [.matrixKStep u]
    | .drain _ => [.matrixDrain u]
    | .setCtx _ => [.matrixSetContext u]
    | .fence _ => [.matrixFence u]
    | .complete _ => [.matrixCompletion u]
    | .idle => if !s.cores.any (·.2.preempting) && s.arbitrates u then [.matrixArbitration u] else []
/-- The multicasts: the first copy at each input of each router, and the sends that residual buffers can make (spec/17 R389,
R390). -/
def State.treeEvents (s : State) : List Instr :=
  ((s.trees.filter s.forks).map fun x => Instr.multicastFork (x.id, x.input)) ++
    (((s.residuals.map (·.1)).eraseDups.filter fun r => !(s.residualSends r).isEmpty).map Instr.multicastResidualSend)
/-- The host port and the supervisor: appends of doorbells, requests in the mailbox, a save that can be completed. -/
def State.hostEvents (s : State) : List Instr :=
  ((s.host.doorbells.filter (·.2.busy)).map fun e => Instr.doorbellAppendDone e.1) ++
    (if s.host.stage = 5 ∧ !s.host.fatal ∧ s.host.serving.isNone ∧ s.mailEntry.isSome then [.mailboxRequest] else []) ++
    (if s.cores.any (·.2.preempting) && s.savable then [.preemption] else [])
/-- Events of the derrick and the slices. -/
def State.deviceEvents (s : State) : List Instr :=
  (if s.restoring then [] else ((firstGranted s.ctx.derrickOut []).filter fun o => s.admits (arrivalEvent o.msg)).map fun o =>
      Instr.carryMessageSend .derrick o.msg.id) ++
    (if !s.restoring && !s.cores.any (·.2.preempting) && s.derrickQueue.isSome then [.derrickSelection] else []) ++
    ((s.changes.filter fun e => !(sliceReady e.1 e.2).isEmpty).map fun e => Instr.changeSliceQueueSend e.1) ++
    ((((s.sliceOut.map (·.msg.src)).eraseDups.flatMap fun x => firstGranted (s.sliceOut.filter (·.msg.src = x)) []).map fun o =>
      Instr.carryMessageSend o.msg.src o.msg.id)) ++
    ((s.sliceOut.filter fun o => o.fault && !o.granted && !o.sent && o.since + 4096 ≤ s.clock).map fun o =>
      Instr.chunkRecordDrop o.msg.src o.msg.id)
/-- Held notices that are tried again at this cycle, 256 after they were last tried, and find room (spec/12 R322). -/
def State.noticesDue (s : State) : List Instr :=
  (s.heldNotices.filter fun h => s.oldestNotice h.src = some h && h.since + 256 ≤ s.clock && (s.noticeRoom h.part).isSome).map fun h =>
    Instr.noticePost ⟨h.src, h.notice, true⟩

/-- Links that train again: both ends know each other (spec/24 R499). What is at the other end of a port that has never trained
comes from outside. -/
def State.trainingEvents (s : State) : List Instr :=
  (s.ports.filter fun e => e.2.state = 1 && s.joined e.1 (s.farPort e.1) && (s.port (s.farPort e.1)).state = 1).map fun e =>
    Instr.portTraining e.1 e.2.peer
/-- A port has link management contents to send or to receive again: credits owed, flits of its peer to acknowledge. -/
def State.managementDue (s : State) (e : Nat × Port) : Bool :=
  e.2.managed ≠ s.clock / 256 && (e.2.badMgmt || !e.2.owed.isEmpty || (e.2.state = 2 && !(s.port (s.farPort e.1)).replay.isEmpty))
/-- The blocks that throttle themselves: clusters, slices, stacks, ports. -/
def State.blocks (s : State) : List Nat :=
  s.sup.packages.flatMap fun p => (List.range 3200).map (3200 * p + ·) ++ (List.range 256).map (2 ^ 20 + 256 * p + ·) ++ (List.range 8).map (2 ^ 21 + 8 * p + ·) ++
    (List.range 18).map (2 ^ 22 + 18 * p + ·)
/-- A block that changes its level in this period and has not yet. -/
def State.throttles (s : State) (b : Nat) : Bool :=
  let l := mget 0 s.sup.throttle b
  mget 0 s.sup.looked b ≠ throttlePeriod s.clock &&
    nextLevel l (Config.sense (256 + dieOfBlock b) s.clock) (Config.sense (400 + dieOfBlock b / 4) s.clock) s.sup.tlimit s.sup.cap ≠ l
/-- What is due at a cycle for the package: the frame boundary, the ports' intervals and timeouts, the blocks' throttling and
the trip of a die (spec/17 R394, R401, spec/24 R499, R505, R506), retention of slices. -/
def State.duePackage (s : State) : List Instr :=
  ((s.sup.packages.filter fun p => !s.sup.tripped.contains p).flatMap fun p =>
      ((List.range 4).map (4 * p + ·)).filter fun d => 8 * 115 ≤ Config.sense (256 + d) s.clock).map Instr.thermalTrip ++
    (if s.frame ≠ frameAtCycle s.clock then [.frameBoundary] else []) ++
    ((s.ports.filter s.managementDue).map fun e => Instr.linkManagementInterval e.1) ++
    ((s.ports.filter fun e => e.2.state = 1 && e.2.since + 90000000 ≤ s.clock).map fun e => Instr.portTrainingTimeout e.1) ++
    (if throttlePeriod s.clock = 0 then [] else (s.blocks.filter fun b => !s.sup.tripped.contains (dieOfBlock b / 4) && s.throttles b).map Instr.throttleUpdate)
/-- Whether the grant that a message awaits arrives in the cycle in which its wait ends: left open (log 1). -/
def State.grantNow (s : State) (o : Outbound) : Option Packet :=
  ((s.deliverable [] s.agenda []).find? fun p => p.event = .grant o.ask).filter fun _ => Config.sense 8 (s.clock * 2 ^ 20 + o.msg.id) % 2 = 0
/-- The end of a carry message's wait for a grant (spec/06 R147): its spill, or the grant of the same cycle (R152). -/
def State.waitEnds (s : State) (o : Outbound) : Agent :=
  match s.grantNow o with
  | some p => .packet p
  | none => .own (.spill o.msg.src o.msg.id)
/-- The carry messages whose wait ends and whose ring write a frame covers (spec/17 R397): those of the cores, not of an open interval of a pair (spec/22 R472), and the
derrick's; none while the context is being or has been saved. -/
def State.waited (s : State) : List Outbound :=
  if s.ctx.saved || s.cores.any (·.2.preempting) then []
  else ((s.cores.flatMap fun e => e.2.outbox.filter fun o => o.spills s.clock && !(e.2.pair.on && e.2.pair.mark ≤ o.msg.id)) ++
    s.ctx.derrickOut.filter (·.spills s.clock)).filter fun o => s.covers o.msg.src (s.sourcePart o.msg.src (arrivalEvent o.msg)) spillCost
/-- Words in which the scrubber may find an error now (spec/22 R463). -/
def State.scrubEvents (s : State) : List Instr :=
  (s.allUpsets.filter fun u => scrubbed u.1 && !s.sleeps u.1).map (fun u => Instr.scrub u.1 u.2.1) ++
    s.cores.flatMap fun e => (e.2.inject.filter fun x => (x.1 = 1 || x.1 = 2) && x.2.toNat < localEnd).map fun x => Instr.scrub (.localMem e.1) (x.2.toNat / 8 * 8)
/-- Events that fall due at a cycle: they come before anything else of their step. -/
def State.due (s : State) : List Instr :=
  s.duePackage ++ s.noticesDue ++ s.cores.flatMap fun e =>
    let c := e.1
    let k := e.2
    (if k.intervalEnds ∧ k.pair.last + 64 ≤ s.clock then [Instr.pairIntervalClose c] else []) ++ s.channelsDue c ++
    (if k.retention = .asleep ∧ !k.quietMemory then [Instr.retentionExit (.localMem c)] else []) ++
    (if s.coreSleeps c then [Instr.retentionEntry (.localMem c)] else []) ++
    (if k.timer ≠ 0 ∧ s.timerOf c = 0 then [Instr.timerExpiry c] else []) ++
    (match k.idle with
      | some (since, n) => if n ≠ 0 ∧ since + n ≤ s.clock then [Instr.idleExpiry c] else []
      | none => []) ++
    (if s.hasCore c ∧ s.ctx.watchdog ≠ 0 ∧ s.ctx.watchdog ≤ k.stall ∧ !k.barked then [Instr.watchdogExpiry c] else [])

/-! ### Fetch (spec/03 R78-R80) -/

/-- The instruction in Q0 of the acting gang, or the trap of its fetch; a transfer's boundary and an annulled entry stand in
its place. -/
noncomputable def State.fetch (s : State) : Except Cause Instr :=
  let k := s.me
  let g := s.gang
  let a := g.q0
  let lanes := g.mask
  if (k.xfer.map (·.left)) = some 0 then .ok .transferPacking
  else if g.ann0 then .ok .delaySlotAnnul
  else if k.halfBad a || (k.lenAt a = 2 && k.halfBad (a + 1)) then .error ⟨0x0E, 0, 0x100, lanes⟩
  else match (if k.priv = 0 ∧ !g.skipBreak ∧ g.phase = .none then k.breaks.find? fun b => b.2 = a else none) with
    | some b => .error ⟨0x0F, 1, w64 b.1, lanes⟩
    | none =>
      if k.lengthOf a ≤ offsetOf a then .error ⟨0x04, 1, a.setWidth 64, lanes⟩
      else if k.lenAt a = 2 ∧ k.lengthOf a ≤ offsetOf a + 1 then .error ⟨0x01, 0x07, k.shown a, lanes⟩
      else match (decode (k.half a) (k.half (a + 1))).1 with
        | .ok i => .ok i
        | .error sub => .error ⟨0x01, sub, k.shown a, lanes⟩

/-! ### Who acts -/

/-- What a pre-emption awaits in the gangs that issue nothing because another gang is at level 1 or the core has stopped: annulled
entries pass, and an instruction under way completes (spec/04 R116, spec/12 R316). -/
def State.endings (s : State) (c : Nat) : List Agent :=
  let k := s.core c
  if k.owner = .none && !k.stopped then []
  else
    match k.firstGang ((k.gangs.filter fun e => e.1 < 4 && k.owner ≠ .gang e.1 && (e.2.ann0 || s.midway c e.1) && !e.2.waiting && !e.2.ending &&
        !e.2.halted && !e.2.lanes.any (·.packed)).map (·.1)) with
    | some i => [.ending c i]
    | none => []
/-- What a core may do: take a pending trap, or issue. -/
def State.coreAgents (s : State) (c : Nat) : List Agent :=
  let k := s.core c
  if s.coreDead c || k.intervalEnds then []
  else if k.stopped then (if k.preempting then s.endings c else [])
  else if k.preempting then
    match k.firstGang ((k.runnable true).filter fun i => (!(k.at i).givesWay || s.midway c i) && !(k.at i).lanes.any (·.packed)) with
    | some i => [.issue c i]
    | none => s.endings c
  else if (s.pendingTrap c).isSome then [.own (.trapEntry c)]
  else if k.idle.isSome then []
  else match k.nextGang true with
    | some i => [.issue c i]
    | none => []
/-- An error that stands where an issuing gang reads: its code, its registers, its lanes, the translations of its core and its
cluster (spec/22 Table 22-1; that a read of any of them finds it is DEDUCED, log 4). -/
def State.reads (s : State) (a : ArrayRef) (x : Nat) : Bool :=
  let k := s.me
  match a with
  | .codeStore c => c = s.cur && ((k.placedAt (routineOf k.gang.q0)).any fun p =>
      x / 4 = (p.1 + offsetOf k.gang.q0) / 4 || x / 4 = (p.1 + offsetOf k.gang.q0 + k.lenAt k.gang.q0 - 1) / 4)
  | .gangRegs c => c = s.cur && (x / 16 = k.slot || (5 ≤ x / 16 && x < 4096 && k.priv ≠ 0))
  | .buffer c => c = s.cur
  | .clusterBuffer n => n = s.clusterOf s.cur
  | .pool n => n = s.clusterOf s.cur && (x < 2 ^ 20 || (x - 2 ^ 20) / 64 / 32 = 8 * s.cur + k.slot)
  | _ => false
/-- What stands where the acting gang reads is found. -/
def State.looked (s : State) : State := if s.sound then s else s.findUpsets 0 s.reads
/-- The acting core chosen: its gang; `yield` counts for one choice only. -/
def State.choose (s : State) (c slot : Nat) : State :=
  (({ s with cur := c } : State).modMe fun k =>
    { k with slot, gangs := k.gangs.map fun (e : Nat × Gang) =>
      (e.1, { e.2 with yielded := false }) }).looked
/-- The acting core as a gang that waits behind level 1 sees it, at level 0 itself; and the level it had given back. -/
def State.atLevelZero (s : State) : State := s.modMe fun k => { k with priv := 0, owner := .none }
def State.levelBack (s : State) (c : Nat) (before : Core) : State :=
  s.modCore c fun k => { k with priv := before.priv, owner := before.owner, slot := before.slot }
/-- What stands in a core's arrival buffer is found when a firing takes its messages, what stands in its send queues when a message
leaves them. -/
def State.beforeOwn (s : State) : Instr → State
  | .firing c _ => if s.upsets.isEmpty then s else s.findUpsets 0 fun a _ => a = .arrivals c
  | .carryMessageSend (.core c) _ => if s.upsets.isEmpty then s else s.findUpsets 0 fun a x => a = .gangRegs c && 4096 ≤ x
  | _ => s

/-- The destination at which a packet can coincide with another, and its source: requests for grants, arrivals, and requests
at a local-memory unit (spec/06 R146). -/
def meeting : Instr → Option (Nat × Nat × Nat × Source)
  | .grantRequest q => some (0, q.dst, q.ch, q.src)
  | .carryArrival m | .dataMessageArrival m | .changeMessageArrival m => some (1, m.dst, m.ch, m.src)
  | .remoteAccess r => r.home.map fun c => (2, c, 0, r.src)
  | _ => none
/-- Two packets that meet, in the source order of R146. -/
def State.meets (s : State) (p q : Packet) : Bool :=
  match meeting p.event, meeting q.event with
  | some (k, c, ch, a), some (k', c', ch', b) => k = k' && c = c' && ch = ch' && s.order a < s.order b
  | _, _ => false
/-- A negative acknowledgement and an ACK that cover the same SEQ (spec/17 R406). -/
def denies (e : Instr) (q : Packet) : Bool :=
  match e, q.event with
  | .negativeAcknowledgement p seq, .flitReceive p' f => p = p' && acknowledges f seq
  | _, _ => false
/-- Events that coincide at a destination (spec/06 R146, R152): packets in the source order, a drained ring entry before an
arrival. -/
def State.coincidences (s : State) (ps : List Packet) : List Agent :=
  (ps.flatMap fun i => (ps.filter (s.meets i)).map (Agent.both i)) ++ (ps.flatMap fun i => (ps.filter (denies i.event)).map (Agent.denied i)) ++
    ps.filterMap fun j => match meeting j.event with
      | some (1, c, ch, _) => if s.drains c ch then some (.ahead (.ringDrain c ch) j) else none
      | _ => none
/-- An access of a core to its own windows that takes its turn there: it is local, and comes before the core's next instruction
(spec/04 R107, spec/01 R41). -/
def ownAccess : Instr → Bool
  | .remoteAccess r => r.home.any fun c => r.src = .core c
  | .ringWindowPush d _ _ (some (c, _)) | .matrixWindowPush d _ _ ⟨some (c, _), none⟩ => c = d
  | _ => false
/-- The accesses of cores to themselves that are under way. -/
def State.localFirst (s : State) : List Agent :=
  if s.agenda.any fun p => ownAccess p.event then ((s.deliverable [] s.agenda []).filter fun p => ownAccess p.event).map .packet else []
/-- Everything that may happen next, but for what is due. -/
def State.candidates (s : State) : List Agent :=
  let cs := s.cores.map (·.1)
  let ps := s.deliverable [] s.agenda []
  ps.map Agent.packet ++ s.coincidences ps ++ s.reaching.map Agent.reach ++ ((s.ports.map (·.1)).filterMap s.serves).map Agent.cross ++
    ((cs.flatMap fun c => s.sendEvents c ++ s.channelEvents c ++ s.retryEvents c ++ s.ownEvents c ++ s.copyEvents c) ++ s.matrixEvents ++
      s.treeEvents ++ s.scrubEvents ++ s.hostEvents ++ s.deviceEvents ++ s.trainingEvents ++ s.admissionEvents).map Agent.own ++
    cs.flatMap s.coreAgents
/-- The boot stages that are under way (spec/24 R501). -/
def State.bootsNow (s : State) : List Agent :=
  (((0, s.host.stage) :: s.sup.stages).filter fun e => 1 ≤ e.2 && e.2 ≤ 4).map fun e => .boot e.1
/-- The pairs that run an interval again (spec/22 R473). -/
def State.runsAgain (s : State) : List Agent := (s.twins.filter fun e => !e.2.again.isEmpty).map fun e => .again e.1
/-- What happens in this step: the rerun of a pair and what is due first, then the accesses of cores to themselves, else the free choice of log 1; none when
nothing can. -/
def State.agent (s : State) : Option Agent :=
  match s.bootsNow ++ s.runsAgain ++ s.due.map Agent.own ++ s.waited.map s.waitEnds ++ s.localFirst with
  | a :: _ => some a
  | [] =>
    match s.candidates with
    | [] => none
    | [a] => some a
    | as => as[Config.pick s.clock % as.length]?

/-! ### The passing of a cycle -/

/-- Ages of the READY channels that have not fired in this step rise (spec/16 R372). -/
def Core.older (k before : Core) : Core :=
  let fired (ch : Nat) : Bool := mget 0 k.counters 0x0102 ≠ mget 0 before.counters 0x0102 && k.lastFired = ch
  if k.channels.isEmpty then k
  else { k with channels := k.channels.map fun (e : Nat × Channel) =>
    (e.1, { e.2 with age := if k.isReady e.1 && !fired e.1 then e.2.age + 1 else 0 }) }
/-- The stall count (spec/16 R378); `before` is the core before the step. -/
def Core.stalls (k before : Core) : Core :=
  if k.retired ≠ before.retired then k
  else if k.gangs.isEmpty && k.arrivals.isEmpty then { k with stall := 0, barked := false }
  else { k with stall := k.stall + 1 }
/-- A gang whose halt falls at this boundary: one that was asked for (spec/23 R483), or that of a debugger's step, which
the slots of a transfer elsewhere hold back when it is made in them (spec/12 R508). -/
def Gang.haltsNow (g : Gang) : Bool := g.interruptible && (g.haltAsked || (g.stepped && g.xfer.all (·.left = 2)))
/-- Halts fall at the boundary (spec/23 R483, R484), in a pair when the open interval has agreed (spec/22 R474); that of a step is told with the trap of the step, 0x11. -/
def State.settleHalts (s : State) (c : Nat) : State :=
  let hs := (s.core c).gangs.filter fun e => e.1 < 4 && e.2.haltsNow && !s.underWay c e.1 && (s.core c).owner ≠ .gang e.1
  if !hs.isEmpty && !s.agreed c then s.closeFirst c
  else hs.foldl (fun t e =>
    let t := t.abandon c e.1
    (if e.2.stepped then t.tellGang 0x1100 c e.1 else t.tellHalt c e.1).modCore c fun k =>
      k.setAt e.1 { k.at e.1 with haltAsked := false, stepped := false, halted := true, waiting := false }) s
/-- A release fence holds later stores back until its conditions have held once (spec/10 R252). -/
def Core.settleFences (k : Core) : Core :=
  let met (ts : List Nat) : Bool := k.usc = 0 && !ts.any fun t => k.loads.any fun e => e.tag = t && !e.orphan
  if k.gangs.any fun e => e.2.rel.any met then
    { k with gangs := k.gangs.map fun (e : Nat × Gang) => (e.1, if e.2.rel.any met then { e.2 with rel := none } else e.2) }
  else k
/-- When a core falls quiet, retention counts from here (spec/22 R468). -/
def Core.settleQuiet (k before : Core) (clock : Nat) : Core :=
  if k.quietMemory && !before.quietMemory then { k with lastAccess := clock } else k
/-- One core's cycle passes. -/
def State.coreTick (s : State) (before : State) (c : Nat) : State :=
  let t := (s.settleHalts c).modCore c fun k =>
    (((k.settleFences.older (before.core c)).stalls (before.core c)).settlePair (before.core c)).settleQuiet (before.core c) before.clock
  let t := if (t.core c).preempting && !t.agreed c then t.closeFirst c else t
  (t.modCore c fun k => { k with bindings := k.bindings.map fun (b : Binding) => b.look (t.counterValue c b.sel) }).tellFollower c
/-- A head whose threshold has been reached once stays released (spec/10 R255). -/
def State.noteReleases (s : State) : State :=
  if !s.ctx.started then s
  else
    let now := (List.range 16).filter fun q => !s.ctx.released.contains q && (match s.headRecord q with
      | some b => s.headReleased q b
      | none => false)
    if now.isEmpty then s else { s with ctx := { s.ctx with released := s.ctx.released ++ now } }
/-- An array that an error may strike, from a kind, a number and a place: a slice or a stack is the one that holds the place. -/
def struckArray (kind which addr : Nat) : ArrayRef :=
  match kind with
  | 0 => .localMem which
  | 1 => .codeStore which
  | 2 => .arrivals which
  | 3 => .slice (sliceOf addr)
  | 4 => .stack (addr / 65536 / 2 ^ 24 * 8 + addr / 65536 / 2 ^ 21 % 8)
  | 5 => .buffer which
  | 6 => .clusterBuffer which
  | 7 => .gangRegs which
  | _ => .pool which
/-- An error stands in an array from here on. -/
def State.strike (s : State) (a : ArrayRef) (addr : Nat) (ue : Bool) : State :=
  match a with
  | .localMem c => if localEnd ≤ addr then s else s.modCore c fun k => { k with upsets := k.upsets ++ [(addr, ue)] }
  | a => { s with upsets := s.upsets ++ [(a, addr, ue)] }
/-- Bits may flip in any array of a machine that has booted, at any cycle (spec/22 R462): when, where and how many is left open
(log 4). HBM holds no slice frame. -/
def State.struck (s : State) : State :=
  let addr := Config.sense 14 s.clock
  let kind := Config.sense 12 s.clock % 9
  if s.sup.packages.isEmpty || Config.sense 11 s.clock % 2 = 0 || (kind = 4 && sliceFrame addr) || tableBase ≤ addr then s
  else
    let a := struckArray kind (Config.sense 13 s.clock) addr
    let ue := decide (Config.sense 15 s.clock % 2 = 0)
    match ownerOfArray s.pairsOn a addr with
    | some c => if Config.sense 16 s.clock % 2 = 0 then s.strike a addr ue else s.strikeFollower c a addr ue
    | none => s.strike a addr ue
/-- A held notice that is tried again and finds its queue full still waits (spec/12 R322). -/
def State.settleNotices (s : State) (clock : Nat) : State :=
  if s.heldNotices.isEmpty then s
  else { s with heldNotices := s.heldNotices.map fun (h : HeldNotice) =>
    if h.since + 256 ≤ clock && (s.noticeRoom h.part).isNone then { h with since := clock } else h }
/-- The cycle of a step passes: `before` is the state the step began in. -/
def State.tick (s : State) (before : State) : State :=
  let t := (s.cores.map (·.1)).foldl (fun t c => t.coreTick before c) s
  let t := ((t.settleHeads.noteReleases.askAll.routeAll.struck.settleNotices before.clock).settleSlices).scrubRound before.clock
  let t := t.sendEventsOf
  { t with clock := before.clock + 1, carried := none, recorders := t.recorders.map fun (e : Nat × Recorder) => (e.1, e.2.settle before.clock) }

/-! ### An instruction placed where the next fetch finds it -/

/-- A machine in which one gang of one lane, at level 0 on the acting core, stands at offset 0 of routine 1, and nothing
else can happen. -/
def State.standing (s : State) (len : Nat) : State :=
  let k := s.me
  let lane : Lane := k.gang.lanes.headD {}
  let g : Gang := { g := k.gang.g, lanes := [lane], grant := 1, q0 := codeAddr 1 0, q1 := codeAddr 1 len, q2 := codeAddr 1 (len + 1) }
  let k' : Core := { k with
    gangs := [(0, g)], slot := 0, owner := .none, priv := 0, stopped := false, preempting := false, idle := none, causes := [],
    timerPending := false, timer := 0, placed := [⟨1, 0, 8⟩], code := [], codeBad := [], breaks := [], loads := [], bindings := [],
    channels := [], outbox := [], sendReq := [], sendRep := [], ready := [], records := [], faults := [], copyQs := [], matrixQ := {},
    inject := [], pair := {}, retention := .awake }
  let ctx := { s.ctx with cores := if s.hasCore s.cur then s.ctx.cores else [(s.cur, 0, 0, 0)], started := false, saved := false, watchdog := 0, derrickOut := [] }
  { s with cores := [(s.cur, k')], agenda := [], carried := none, upsets := [], changes := [], sliceOut := [], heldNotices := [], clusters := [], twins := [], trees := [], residuals := [],
           ports := [], sliceRet := [], frame := frameAtCycle s.clock, ctx,
           host := { s.host with doorbells := [], stage := 0 }, sup := { s.sup with stopped := [], tripped := s.sup.packages, stages := [], fences := [] } }
/-- The halfwords of an instruction's bits, stored at offset 0 of routine 1 in their order (spec/03 R78). -/
def State.store (s : State) (nbits w : Nat) : State :=
  if nbits ≤ 16 then s.modMe fun k => { k with code := mset 0 [] 0 (BitVec.ofNat 16 w) }
  else s.modMe fun k => { k with code := mset 0 (mset 0 [] 0 (BitVec.ofNat 16 (w / 65536))) 1 (BitVec.ofNat 16 w) }

end Sys2Proof.Machine
end

