-- ==== Sys2Proof/Machine/Changes.lean ====
section
/-! DEFINITION. Change-queue instructions (spec/20 R444-R454), opcodes 0xEB to 0xEF. -/
namespace Sys2Proof.Machine

/-- The checks of a descriptor address: aligned to 64, those of R39, wholly in one slice frame (R445, items 4 and 5). -/
def State.checkDescriptor (s : State) (a : Word) : Chk :=
  if a.toNat % 64 ≠ 0 then .fail 0x03 3
  else match s.check a 8 8 true 3 with
    | .core _ _ => .fail 0x06 1
    | .phys pa e => if sliceFrame pa && pa % 65536 + 1088 ≤ 65536 then .phys pa e else .fail 0x06 1
    | x => x
/-- A record of Table 20-1 in local memory. -/
def Memory.recordAt (m : Memory) (a : Nat) : ChangeRec :=
  { key := w64 (m.load a 8), valLo := w64 (m.load (a + 8) 8), valHi := w64 (m.load (a + 16) 8),
    mult := BitVec.ofNat 32 (m.load (a + 24) 4), wave := BitVec.ofNat 32 (m.load (a + 28) 4) }
/-- The checks of a local image of `n` bytes aligned to 8: alignment first (R445, R451). -/
def State.localImage8 (s : State) (v : Word) (n : Nat) (body : Out) : Out :=
  if v.toNat % 8 ≠ 0 then s.addrTrap 0x03 3 v else if localEnd < v.toNat + n then s.addrTrap 0x04 0 v else body
/-- A request of this chapter that is answered into `gD`: it takes an entry and counts in USC (R445, R451, R452). -/
def State.sendChange (s : State) (d : BitVec 4) (op : MemOp) : Out :=
  if s.me.loadRoom 1 then
    .next ((s.pendG d).sendLoad (.gang s.me.slot d.toNat 8 false (s.me.priv = 1)) s.gang.uids true none op)
  else .wait s

/-- `dqput` (R445). -/
def execDqput (d a b : BitVec 4) (c : BitVec 1) (s : State) : Host.Outcome State Fault Refusal :=
  let va := s.readG a
  let vb := s.readG b
  s.finish (s.gateAddr [b] [a] [d, a, b] vb <|
    if s.me.acquiring then .wait s
    else s.checkChannel va <| s.localImage8 vb 40 <|
      let t := s.scanLocal s.cur vb.toNat 40
      t.onImage vb.toNat 40 <|
        let df := w64 (t.me.mem.load (vb.toNat + 32) 8)
        let r := t.me.mem.recordAt vb.toNat
        s.checked df true (s.checkDescriptor df) fun k =>
          if r.mult = 0 then .next (t.writeG d 0)
          else if !s.mayLeave then .wait s
          else t.sendChange d (.put df.toNat k.at va (c = 1) r))

/-- A local arrangement: its header, its extent, its poison, then the search (R451). -/
def State.arrangeLocal (s : State) (d : BitVec 4) (va : Word) (kind : Nat) (r : ChangeRec) : Out :=
  if localEnd < va.toNat + 64 then s.addrTrap 0x04 0 va
  else (s.scanLocal s.cur va.toNat 64).onImage va.toNat 64 <|
    let s := s.scanLocal s.cur va.toNat 64
    match s.me.mem.caplog va.toNat 11 with
    | none => .next (s.writeG d 0x8000000000000002#64)
    | some cl =>
      if localEnd < va.toNat + 64 + 32 * 2 ^ cl then s.addrTrap 0x04 0 va
      else if kind = 2 && s.me.fenced then .wait s
      else
        let s := s.scanEntries s.cur va.toNat cl kind r
        if s.me.mem.arrangeBad va.toNat 11 kind r then .trap ⟨0x0E, 1, va, s.allLanes⟩
        else
          let x := s.me.mem.arrange va.toNat 11 kind r
          .next ((s.modMe fun k => { k with mem := x.1 }).writeG d x.2)
/-- A store, packet or put of the acting core that may reach the slice frame of `pa` has not been performed yet. -/
def State.slicePending (s : State) (pa : Nat) : Bool :=
  let hits (r : Req) : Bool := r.src = .core s.cur && r.home.isNone && ((match r.op with
    | .packet _ _ _ _ (.packet a _ _) => a / 64 :: blocksTouched r.op
    | op => blocksTouched op).any fun b => b / 1024 = pa / 65536)
  (s.events ++ s.me.pair.gate).any fun e => match e with
    | .sliceOperation r | .timelineWrite r | .chainedPacket r => hits r
    | _ => false
/-- A `.sl` arrangement: the checks of R39, the header as the core's own accesses leave it (spec/15 R349), the extent, then the
request. -/
def State.arrangeSlice (s : State) (d : BitVec 4) (va : Word) (kind : Nat) (r : ChangeRec) : Out :=
  let c := match s.check va 8 64 (kind = 2) (bnat (kind = 2)) with
    | .core _ _ => .fail 0x06 (bnat (kind = 2))
    | x => x
  s.checked va (kind = 2) c fun x =>
    if s.slicePending x.at then .wait s.closing
    else match s.mem.caplog x.at 10 with
    | some cl =>
      if sliceFrame x.at && inSliceFrame x.at cl then
        if s.mayLeave then s.sendChange d (.arrange x.at kind r) else .wait s
      else s.addrTrap 0x06 1 va
    | none => if s.mayLeave then s.sendChange d (.arrange x.at kind r) else .wait s
/-- `dxlook` (kind 0), `dxlook.k` (1) and `dxadd` (2). -/
def State.arrangeForm (s : State) (d a b : BitVec 4) (slice : Bool) (kind : Nat) : Out :=
  let va := s.readG a
  let vb := s.readG b
  s.gateAddr [a] [] [d, a, b] va <|
    if s.me.poisonG b.toNat then .trap ⟨0x0E, 1, vb, s.allLanes⟩
    else if s.me.acquiring then .wait s
    else if va.toNat % 64 ≠ 0 then s.addrTrap 0x03 (bnat (kind = 2)) va
    else if !slice && localEnd < va.toNat + 64 && vb.toNat % 8 = 0 then s.addrTrap 0x04 0 va
    else s.localImage8 vb 32 <|
      let t := s.scanLocal s.cur vb.toNat 32
      t.onImage vb.toNat 32 <|
        let r := t.me.mem.recordAt vb.toNat
        if slice then t.arrangeSlice d va kind r else t.arrangeLocal d va kind r
/-- `dxlook`. -/
def execDxlook (d a b : BitVec 4) (l k : BitVec 1) (s : State) : Host.Outcome State Fault Refusal :=
  s.finish (s.arrangeForm d a b (l = 1) k.toNat)
/-- `dxadd`. -/
def execDxadd (d a b : BitVec 4) (l : BitVec 1) (s : State) : Host.Outcome State Fault Refusal :=
  s.finish (s.arrangeForm d a b (l = 1) 2)

/-- An operation on the wave `gB`[31:0] of the descriptor `gA`. -/
def State.waveForm (s : State) (d a b : BitVec 4) (body : Chk → BitVec 32 → Out) : Out :=
  let va := s.readG a
  s.gateAddr [a] [b] [d, a, b] va <|
    if s.me.acquiring then .wait s
    else s.checked va true (s.checkDescriptor va) fun c =>
      if s.gang.arrivedPending s.gang.indices then .wait s else body c ((s.readG b).setWidth 32)
/-- `dxseal`: a release (R452). -/
def execDxseal (d a b : BitVec 4) (s : State) : Host.Outcome State Fault Refusal :=
  s.finish (s.waveForm d a b fun c w => s.whenReleased <|
    if s.me.storeRoom 1 then s.sendChange d (.seal c.at w) else .wait s)
/-- Whether the firing holds a record of a descriptor and wave (R453). -/
def State.holds (s : State) (desc : Word) (w : BitVec 32) : Bool := s.gang.held = some (desc.toNat, w)
/-- `dxquiet`: it waits until the wave is quiescent. -/
def execDxquiet (d a b : BitVec 4) (s : State) : Host.Outcome State Fault Refusal :=
  s.finish (s.twoPart (fun v _ => .next (s.writeG d v.val v.poison)) <|
    s.waveForm d a b fun c w => s.askPhase false none (.quiet c.at w true (s.holds (s.readG a) w)))
/-- `dxquietnb`. -/
def execDxquietnb (d a b : BitVec 4) (s : State) : Host.Outcome State Fault Refusal :=
  s.finish (s.waveForm d a b fun c w => s.withEntry <|
    .next (((s.pendG d).acquires).sendLoad (.gang s.me.slot d.toNat 8 false (s.me.priv = 1)) [] false none
      (.quiet c.at w false (s.holds (s.readG a) w))))

end Sys2Proof.Machine
end

