-- ==== Sys2Proof/Machine/LaneFloat.lean ====
section
/-! DEFINITION. Lane floating-point instructions, conversions, dot products and reductions (spec/09 R213-R219), opcodes 0x80
to 0x9F. -/
namespace Sys2Proof.Machine

/-- Elements of a format in a lane register (Table 9-1). -/
def Fmt.count (f : Fmt) : Nat := if f.bits = 64 then 1 else 32 / f.bits
/-- Rounding of the arithmetic forms by MOD (Table 3-5). -/
def arithMode (m : BitVec 2) : Mode :=
  match m.toNat with
  | 0 => .rne | 1 => .rz | 2 => .rsr | _ => .rodd
/-- Rounding of `vcvt`, `vcvti` and `vcvtf`. -/
def convertMode (m : BitVec 2) : Mode :=
  match m.toNat with
  | 0 => .rne | 1 => .rz | 2 => .rpi | _ => .rni
/-- The format of the format-selecting forms. -/
def selectFmt (m : BitVec 2) : Fmt :=
  match m.toNat with
  | 0 => .f64 | 1 => .f32 | 2 => .bf16 | _ => .f16
/-- Draws of one lane instruction that rounds `n` elements (spec/08 R187). -/
def drawsOf (mode : Mode) (n : Nat) : Nat := if mode = .rsr then n else 0
/-- The generator's output for draw `k` of a lane in this instruction. -/
def State.drawAt (s : State) (i : Nat) (l : Lane) (k : Nat) : Nat :=
  generator s.ctx.seed (laneCounter s.me.rank.toNat i ((l.draw.toNat + k) % 2 ^ 32))

/-- A lane instruction that rounds `n` elements: `f` has the generator's output for each draw. -/
def State.laneRound (s : State) (p : BitVec 3) (mode : Mode) (n : Nat) (d : BitVec 6) (srcs : List (BitVec 6))
    (f : (Nat → Nat) → Lane → Word) : Out :=
  let is := s.gang.guard p
  let ns := srcs.map (·.toNat)
  s.laneGate p is ns (ltNum :: d.toNat :: ns) (.next (s.modGang (·.mapLanes is fun i l =>
    { l.write d.toNat (f (s.drawAt i l) l) false with draw := l.draw + BitVec.ofNat 32 (drawsOf mode n) })))

/-- An element of an operand as a value. -/
def Lane.num (l : Lane) (f : Fmt) (a : BitVec 6) (j : Nat) : Num := decodeFloat f (element f.bits j (l.read a.toNat))
/-- An arithmetic form: the exact value of each element, rounded once (R213). -/
def State.floatOp (s : State) (g : BitVec 3) (m : BitVec 2) (f : Fmt) (d : BitVec 6) (srcs : List (BitVec 6))
    (v : Lane → Nat → Num) : Out :=
  let mode := arithMode m
  s.laneRound g mode f.count d srcs fun draw l =>
    fromElements f.bits ((List.range f.count).map fun j => roundFloat f mode (draw j) (v l j))
/-- A + B, A - B, A * B and A * B + D. -/
def State.floatAdd (s : State) (f : Fmt) (g : BitVec 3) (m : BitVec 2) (d a b : BitVec 6) : Out :=
  s.floatOp g m f d [a, b] fun l j => (l.num f a j).add (l.num f b j)
def State.floatSub (s : State) (f : Fmt) (g : BitVec 3) (m : BitVec 2) (d a b : BitVec 6) : Out :=
  s.floatOp g m f d [a, b] fun l j => (l.num f a j).add (l.num f b j).neg
def State.floatMul (s : State) (f : Fmt) (g : BitVec 3) (m : BitVec 2) (d a b : BitVec 6) : Out :=
  s.floatOp g m f d [a, b] fun l j => (l.num f a j).mul (l.num f b j)
def State.floatFma (s : State) (f : Fmt) (g : BitVec 3) (m : BitVec 2) (d a b : BitVec 6) : Out :=
  s.floatOp g m f d [a, b, d] fun l j => ((l.num f a j).mul (l.num f b j)).add (l.num f d j)


/-- `vfadd.f64` (R213). -/
def execVfaddF64 (g : BitVec 3) (m : BitVec 2) (d a b : BitVec 6) (s : State) : Host.Outcome State Fault Refusal :=
  s.finish (s.floatAdd .f64 g m d a b)

/-- `vfsub.f64` (R213). -/
def execVfsubF64 (g : BitVec 3) (m : BitVec 2) (d a b : BitVec 6) (s : State) : Host.Outcome State Fault Refusal :=
  s.finish (s.floatSub .f64 g m d a b)

/-- `vfmul.f64` (R213). -/
def execVfmulF64 (g : BitVec 3) (m : BitVec 2) (d a b : BitVec 6) (s : State) : Host.Outcome State Fault Refusal :=
  s.finish (s.floatMul .f64 g m d a b)

/-- `vfma.f64` (R213). -/
def execVfmaF64 (g : BitVec 3) (m : BitVec 2) (d a b : BitVec 6) (s : State) : Host.Outcome State Fault Refusal :=
  s.finish (s.floatFma .f64 g m d a b)

/-- `vfadd.f32` (R213). -/
def execVfaddF32 (g : BitVec 3) (m : BitVec 2) (d a b : BitVec 6) (s : State) : Host.Outcome State Fault Refusal :=
  s.finish (s.floatAdd .f32 g m d a b)

/-- `vfsub.f32` (R213). -/
def execVfsubF32 (g : BitVec 3) (m : BitVec 2) (d a b : BitVec 6) (s : State) : Host.Outcome State Fault Refusal :=
  s.finish (s.floatSub .f32 g m d a b)

/-- `vfmul.f32` (R213). -/
def execVfmulF32 (g : BitVec 3) (m : BitVec 2) (d a b : BitVec 6) (s : State) : Host.Outcome State Fault Refusal :=
  s.finish (s.floatMul .f32 g m d a b)

/-- `vfma.f32` (R213). -/
def execVfmaF32 (g : BitVec 3) (m : BitVec 2) (d a b : BitVec 6) (s : State) : Host.Outcome State Fault Refusal :=
  s.finish (s.floatFma .f32 g m d a b)

/-- `vfadd.bf16` (R213). -/
def execVfaddBf16 (g : BitVec 3) (m : BitVec 2) (d a b : BitVec 6) (s : State) : Host.Outcome State Fault Refusal :=
  s.finish (s.floatAdd .bf16 g m d a b)

/-- `vfmul.bf16` (R213). -/
def execVfmulBf16 (g : BitVec 3) (m : BitVec 2) (d a b : BitVec 6) (s : State) : Host.Outcome State Fault Refusal :=
  s.finish (s.floatMul .bf16 g m d a b)

/-- `vfma.bf16` (R213). -/
def execVfmaBf16 (g : BitVec 3) (m : BitVec 2) (d a b : BitVec 6) (s : State) : Host.Outcome State Fault Refusal :=
  s.finish (s.floatFma .bf16 g m d a b)

/-- `vfadd.f16` (R213). -/
def execVfaddF16 (g : BitVec 3) (m : BitVec 2) (d a b : BitVec 6) (s : State) : Host.Outcome State Fault Refusal :=
  s.finish (s.floatAdd .f16 g m d a b)

/-- `vfmul.f16` (R213). -/
def execVfmulF16 (g : BitVec 3) (m : BitVec 2) (d a b : BitVec 6) (s : State) : Host.Outcome State Fault Refusal :=
  s.finish (s.floatMul .f16 g m d a b)

/-- `vfma.f16` (R213). -/
def execVfmaF16 (g : BitVec 3) (m : BitVec 2) (d a b : BitVec 6) (s : State) : Host.Outcome State Fault Refusal :=
  s.finish (s.floatFma .f16 g m d a b)


/-- A form that maps each pair of elements of a selected format to a bit pattern. -/
def State.floatMap (s : State) (g : BitVec 3) (m : BitVec 2) (d a b : BitVec 6) (v : Fmt → Nat → Nat → Nat) : Out :=
  let f := selectFmt m
  s.laneOp g d [a, b] fun _ l =>
    fromElements f.bits ((List.range f.count).map fun j => v f (element f.bits j (l.read a.toNat)) (element f.bits j (l.read b.toNat)))
/-- A form that maps each element. -/
def State.floatEach (s : State) (g : BitVec 3) (m : BitVec 2) (d a : BitVec 6) (v : Fmt → Nat → Nat) : Out :=
  let f := selectFmt m
  s.laneOp g d [a] fun _ l =>
    fromElements f.bits ((List.range f.count).map fun j => v f (element f.bits j (l.read a.toNat)))
/-- `vfmin` (R213). -/
def execVfmin (g : BitVec 3) (m : BitVec 2) (d a b : BitVec 6) (s : State) : Host.Outcome State Fault Refusal :=
  s.finish (s.floatMap g m d a b minFloat)
/-- `vfmax`. -/
def execVfmax (g : BitVec 3) (m : BitVec 2) (d a b : BitVec 6) (s : State) : Host.Outcome State Fault Refusal :=
  s.finish (s.floatMap g m d a b maxFloat)
/-- A floating-point compare: the relation in every element; a NaN compares false. -/
def State.floatCompare (s : State) (g : BitVec 3) (m : BitVec 2) (d a b : BitVec 6) (rel : Ordering → Bool) : Out :=
  let f := selectFmt m
  s.lanePred g d [a, b] fun l => (List.range f.count).all fun j =>
    match (l.num f a j).cmp (l.num f b j) with
    | some o => rel o
    | none => false
/-- `vfcmpeq`. -/
def execVfcmpeq (g : BitVec 3) (m : BitVec 2) (d a b : BitVec 6) (s : State) : Host.Outcome State Fault Refusal :=
  s.finish (s.floatCompare g m d a b fun o => o = .eq)
/-- `vfcmplt`. -/
def execVfcmplt (g : BitVec 3) (m : BitVec 2) (d a b : BitVec 6) (s : State) : Host.Outcome State Fault Refusal :=
  s.finish (s.floatCompare g m d a b fun o => o = .lt)
/-- `vfcmple`. -/
def execVfcmple (g : BitVec 3) (m : BitVec 2) (d a b : BitVec 6) (s : State) : Host.Outcome State Fault Refusal :=
  s.finish (s.floatCompare g m d a b fun o => o ≠ .gt)
/-- `vfdiv`, to nearest even. -/
def execVfdiv (g : BitVec 3) (m : BitVec 2) (d a b : BitVec 6) (s : State) : Host.Outcome State Fault Refusal :=
  s.finish (s.floatMap g m d a b fun f x y => roundFloat f .rne 0 ((decodeFloat f x).div (decodeFloat f y)))
/-- `vfsqrt`, to nearest even. -/
def execVfsqrt (g : BitVec 3) (m : BitVec 2) (d a : BitVec 6) (s : State) : Host.Outcome State Fault Refusal :=
  s.finish (s.floatEach g m d a fun f x => roundFloat f .rne 0 (decodeFloat f x).sqrt)
/-- `vfneg`: the sign bit inverted, NaN bits kept. -/
def execVfneg (g : BitVec 3) (m : BitVec 2) (d a : BitVec 6) (s : State) : Host.Outcome State Fault Refusal :=
  s.finish (s.floatEach g m d a fun f x => x ^^^ 2 ^ (f.bits - 1))
/-- `vfabs`: the sign bit cleared. -/
def execVfabs (g : BitVec 3) (m : BitVec 2) (d a : BitVec 6) (s : State) : Host.Outcome State Fault Refusal :=
  s.finish (s.floatEach g m d a fun f x => x % 2 ^ (f.bits - 1))
/-- The class mask of an element (R214). -/
def classMask (f : Fmt) (x : Nat) : Nat :=
  let normal : Bool := x / 2 ^ f.fb % 2 ^ f.eb ≠ 0
  match decodeFloat f x with
  | .nan => 256
  | .inf s => if s then 1 else 128
  | .fin s m _ =>
    if m = 0 then (if s then 8 else 16)
    else match s, normal with
      | true, true => 2 | true, false => 4 | false, false => 32 | false, true => 64
/-- `vfclass`: the masks stand 16 bits apart. -/
def execVfclass (g : BitVec 3) (m : BitVec 2) (d a : BitVec 6) (s : State) : Host.Outcome State Fault Refusal :=
  let f := selectFmt m
  s.finish (s.laneOp g d [a] fun _ l =>
    fromElements 16 ((List.range f.count).map fun j => classMask f (element f.bits j (l.read a.toNat))))

/-! ### Conversions (R215-R217) -/

/-- A conversion between floating-point formats, the elements that both have (R216). -/
def State.convert (s : State) (g : BitVec 3) (mode : Mode) (d a : BitVec 6) (t c : BitVec 3) : Out :=
  let src := fmtOf c.toNat
  let dst := fmtOf t.toNat
  let n := min src.count dst.count
  s.laneRound g mode n d [a] fun draw l =>
    fromElements dst.bits ((List.range n).map fun j => roundFloat dst mode (draw j) (l.num src a j))
/-- `vcvt`. -/
def execVcvt (g : BitVec 3) (m : BitVec 2) (d a : BitVec 6) (t c : BitVec 3) (s : State) : Host.Outcome State Fault Refusal :=
  s.finish (s.convert g (convertMode m) d a t c)
/-- `vcvtx`: `rodd` or `rsr`. -/
def execVcvtx (g : BitVec 3) (m : BitVec 2) (d a : BitVec 6) (t c : BitVec 3) (s : State) : Host.Outcome State Fault Refusal :=
  s.finish (s.convert g (if m = 0 then .rodd else .rsr) d a t c)
/-- `vcvti`: element 0 to an integer type, saturated, extended to 64 bits (R217). -/
def execVcvti (g : BitVec 3) (m : BitVec 2) (d a : BitVec 6) (t c : BitVec 3) (s : State) : Host.Outcome State Fault Refusal :=
  s.finish (s.laneOp g d [a] fun _ l =>
    BitVec.ofInt 64 (toIntTy (intTyOf t.toNat) (convertMode m) (l.num (fmtOf c.toNat) a 0)))
/-- `vcvtf`: an integer to element 0 (R217). -/
def execVcvtf (g : BitVec 3) (m : BitVec 2) (d a : BitVec 6) (t c : BitVec 3) (s : State) : Host.Outcome State Fault Refusal :=
  let f := fmtOf t.toNat
  s.finish (s.laneOp g d [a] fun _ l =>
    fromElements f.bits [roundFloat f (convertMode m) 0 (Num.ofInt (ofIntTy (intTyOf c.toNat) (l.read a.toNat)) 0)])

/-! ### Dot products (R218) -/

/-- The exact sum of the products of elements with an accumulator (spec/08 R199). -/
def dotSum (acc : Num) (xs ys : List Num) : Num := ((xs.zip ys).map fun p => p.1.mul p.2).foldl Num.add acc
/-- `vdot2` and `vdot4`: packed elements into a binary32 in D. -/
def State.dotFloat (s : State) (g : BitVec 3) (m : BitVec 2) (f : Fmt) (d a b : BitVec 6) : Out :=
  let mode : Mode := if m.getLsbD 1 then .rsr else .rne
  s.laneRound g mode 1 d [a, b, d] fun draw l =>
    let xs := (List.range f.count).map (l.num f a)
    let ys := (List.range f.count).map (l.num f b)
    w64 (roundFloat .f32 mode (draw 0) (dotSum (l.num .f32 d 0) xs ys))
/-- `vdot2`. -/
def execVdot2 (g : BitVec 3) (m : BitVec 2) (d a b : BitVec 6) (s : State) : Host.Outcome State Fault Refusal :=
  s.finish (s.dotFloat g m (if m.getLsbD 0 then .f16 else .bf16) d a b)
/-- `vdot4`. -/
def execVdot4 (g : BitVec 3) (m : BitVec 2) (d a b : BitVec 6) (s : State) : Host.Outcome State Fault Refusal :=
  s.finish (s.dotFloat g m (if m.getLsbD 0 then .e5m2 else .e4m3) d a b)
/-- A byte as a signed or an unsigned number. -/
def byteInt (signed : Bool) (x : Nat) : Int := if signed then (BitVec.ofNat 8 x).toInt else (x : Int)
/-- `vdot8`: eight byte products into 32 bits, wrapping, sign-extended. -/
def execVdot8 (g : BitVec 3) (m : BitVec 2) (d a b : BitVec 6) (s : State) : Host.Outcome State Fault Refusal :=
  s.finish (s.laneOp g d [a, b, d] fun _ l =>
    let xs := (elements 8 8 (l.read a.toNat)).map (byteInt (m ≠ 1))
    let ys := (elements 8 8 (l.read b.toNat)).map (byteInt (m = 0))
    let sum := ((xs.zip ys).map fun p => p.1 * p.2).sum
    (BitVec.ofInt 32 ((element 32 0 (l.read d.toNat) : Int) + sum)).signExtend 64)

/-! ### Reduction across lanes (R219, spec/08 R202) -/

/-- A value at a node of the tree: the element patterns, and the lane at the node's lower position. -/
structure RedNode where
  vals : List Nat
  low : Nat
  deriving DecidableEq, Repr
/-- Draw counts of the lanes as a reduction advances them. -/
abbrev Draws := List Nat
/-- One level of the tree, the lower lane drawing for each element of a node with two values. A single value passes on bit for bit, a NaN
as it is (DESIGN CHOICE between R202 and R181, log 68). -/
def redLevel (n : Nat) (f : (Nat → Nat) → List Nat → List Nat → List Nat) (gen : Nat → Nat → Nat) (draws : Bool) :
    List (Option RedNode) → Draws → List (Option RedNode) × Draws
  | [], dr => ([], dr)
  | [x], dr => ([x], dr)
  | some x :: some y :: rest, dr =>
    let v := f (fun j => gen x.low (dr.getD x.low 0 + j)) x.vals y.vals
    let dr' := if draws then dr.set x.low (dr.getD x.low 0 + n) else dr
    let r := redLevel n f gen draws rest dr'
    (some ⟨v, x.low⟩ :: r.1, r.2)
  | some x :: none :: rest, dr =>
    let r := redLevel n f gen draws rest dr
    (some x :: r.1, r.2)
  | none :: y :: rest, dr =>
    let r := redLevel n f gen draws rest dr
    (y :: r.1, r.2)
/-- Five levels. -/
def redTree (n : Nat) (f : (Nat → Nat) → List Nat → List Nat → List Nat) (gen : Nat → Nat → Nat) (draws : Bool) :
    Nat → List (Option RedNode) → Draws → List (Option RedNode) × Draws
  | 0, xs, dr => (xs, dr)
  | k + 1, xs, dr =>
    let r := redLevel n f gen draws xs dr
    redTree n f gen draws k r.1 r.2
/-- Rounding of the nodes (R219). -/
def nodeMode (r : BitVec 2) : Mode :=
  match r.toNat with
  | 0 => .rne | 1 => .rz | 2 => .rsr | _ => .rodd
/-- `vfred`: the root in every lane and in `lt`; +0 for an empty root. -/
def execVfred (g : BitVec 3) (m : BitVec 2) (d a : BitVec 6) (o r : BitVec 2) (s : State) : Host.Outcome State Fault Refusal :=
  let f := selectFmt m
  let n := f.count
  let mode := nodeMode r
  let is := s.gang.guard g
  let all := s.gang.active
  let step (draw : Nat → Nat) (x y : List Nat) : List Nat := (x.zip y).mapIdx fun j p =>
    match o.toNat with
    | 0 => roundFloat f mode (draw j) ((decodeFloat f p.1).add (decodeFloat f p.2))
    | 1 => minFloat f p.1 p.2
    | _ => maxFloat f p.1 p.2
  let gen (i k : Nat) : Nat := generator s.ctx.seed (laneCounter s.me.rank.toNat i (k % 2 ^ 32))
  let draws : Bool := o = 0 && mode = .rsr
  let xs := (List.range 32).map fun i =>
    if is.contains i then some (RedNode.mk (elements f.bits n ((s.gang.lane i).read a.toNat)) i) else none
  let res := redTree n step gen draws 5 xs (s.gang.lanes.map (·.draw.toNat))
  let v := match res.1.head?.join with
    | some x => fromElements f.bits x.vals
    | none => 0
  s.finish (s.laneGate g is [a.toNat] [a.toNat] <| s.laneGate g all [] [ltNum, d.toNat] <|
    .next (s.modGang fun gg =>
      ({ gg with lanes := gg.lanes.mapIdx fun i l => { l with draw := BitVec.ofNat 32 (res.2.getD i 0) } } : Gang).mapLanes all
        fun _ l => l.write d.toNat v false))

end Sys2Proof.Machine
end

