-- ==== Sys2Proof/Machine/LaneInt.lean ====
section
/-! DEFINITION. Lane integer, bitwise and movement instructions (spec/09 R208-R212), opcodes 0x60 to 0x7F. -/
namespace Sys2Proof.Machine

/-- A two-operand instruction on packed elements (R208). -/
def State.packedOp (s : State) (g : BitVec 3) (m : BitVec 2) (d a b : BitVec 6)
    (f : (w : Nat) → BitVec w → BitVec w → BitVec w) : Out :=
  s.laneOp g d [a, b] fun _ l => packed m f (l.read a.toNat) (l.read b.toNat)
/-- A count of the low log2(w) bits of an element. -/
def elementShift {w : Nat} (b : BitVec w) : Nat := b.toNat % w

/-- `vadd`. -/
def execVadd (g : BitVec 3) (m : BitVec 2) (d a b : BitVec 6) (s : State) : Host.Outcome State Fault Refusal :=
  s.finish (s.packedOp g m d a b fun _ x y => x + y)
/-- `vsub`. -/
def execVsub (g : BitVec 3) (m : BitVec 2) (d a b : BitVec 6) (s : State) : Host.Outcome State Fault Refusal :=
  s.finish (s.packedOp g m d a b fun _ x y => x - y)
/-- `vmul`: the low half of the product. -/
def execVmul (g : BitVec 3) (m : BitVec 2) (d a b : BitVec 6) (s : State) : Host.Outcome State Fault Refusal :=
  s.finish (s.packedOp g m d a b fun _ x y => x * y)
/-- `vmulh.s`. -/
def execVmulhS (g : BitVec 3) (m : BitVec 2) (d a b : BitVec 6) (s : State) : Host.Outcome State Fault Refusal :=
  s.finish (s.packedOp g m d a b fun _ x y => mulHighS x y)
/-- `vmulh.n`. -/
def execVmulhN (g : BitVec 3) (m : BitVec 2) (d a b : BitVec 6) (s : State) : Host.Outcome State Fault Refusal :=
  s.finish (s.packedOp g m d a b fun _ x y => mulHighN x y)
/-- `vdiv.s` (spec/04 R101 per element). -/
def execVdivS (g : BitVec 3) (m : BitVec 2) (d a b : BitVec 6) (s : State) : Host.Outcome State Fault Refusal :=
  s.finish (s.packedOp g m d a b fun _ x y => quotS x y)
/-- `vdiv.n`. -/
def execVdivN (g : BitVec 3) (m : BitVec 2) (d a b : BitVec 6) (s : State) : Host.Outcome State Fault Refusal :=
  s.finish (s.packedOp g m d a b fun _ x y => quotN x y)
/-- `vrem.s`. -/
def execVremS (g : BitVec 3) (m : BitVec 2) (d a b : BitVec 6) (s : State) : Host.Outcome State Fault Refusal :=
  s.finish (s.packedOp g m d a b fun _ x y => remS x y)
/-- `vrem.n`. -/
def execVremN (g : BitVec 3) (m : BitVec 2) (d a b : BitVec 6) (s : State) : Host.Outcome State Fault Refusal :=
  s.finish (s.packedOp g m d a b fun _ x y => remN x y)
/-- A two-operand instruction on whole registers. -/
def State.wholeOp (s : State) (g : BitVec 3) (d a b : BitVec 6) (f : Word → Word → Word) : Out :=
  s.laneOp g d [a, b] fun _ l => f (l.read a.toNat) (l.read b.toNat)
/-- `vand`. -/
def execVand (g : BitVec 3) (d a b : BitVec 6) (s : State) : Host.Outcome State Fault Refusal :=
  s.finish (s.wholeOp g d a b fun x y => x &&& y)
/-- `vor`. -/
def execVor (g : BitVec 3) (d a b : BitVec 6) (s : State) : Host.Outcome State Fault Refusal :=
  s.finish (s.wholeOp g d a b fun x y => x ||| y)
/-- `vxor`. -/
def execVxor (g : BitVec 3) (d a b : BitVec 6) (s : State) : Host.Outcome State Fault Refusal :=
  s.finish (s.wholeOp g d a b fun x y => x ^^^ y)
/-- `vandn`. -/
def execVandn (g : BitVec 3) (d a b : BitVec 6) (s : State) : Host.Outcome State Fault Refusal :=
  s.finish (s.wholeOp g d a b fun x y => x &&& ~~~y)
/-- `vshl`. -/
def execVshl (g : BitVec 3) (m : BitVec 2) (d a b : BitVec 6) (s : State) : Host.Outcome State Fault Refusal :=
  s.finish (s.packedOp g m d a b fun _ x y => x <<< elementShift y)
/-- `vshr`. -/
def execVshr (g : BitVec 3) (m : BitVec 2) (d a b : BitVec 6) (s : State) : Host.Outcome State Fault Refusal :=
  s.finish (s.packedOp g m d a b fun _ x y => x >>> elementShift y)
/-- `vsra`. -/
def execVsra (g : BitVec 3) (m : BitVec 2) (d a b : BitVec 6) (s : State) : Host.Outcome State Fault Refusal :=
  s.finish (s.packedOp g m d a b fun _ x y => x.sshiftRight (elementShift y))
/-- `vmin.s`. -/
def execVminS (g : BitVec 3) (m : BitVec 2) (d a b : BitVec 6) (s : State) : Host.Outcome State Fault Refusal :=
  s.finish (s.packedOp g m d a b fun _ x y => minS x y)
/-- `vmin.n`. -/
def execVminN (g : BitVec 3) (m : BitVec 2) (d a b : BitVec 6) (s : State) : Host.Outcome State Fault Refusal :=
  s.finish (s.packedOp g m d a b fun _ x y => minN x y)
/-- `vmax.s`. -/
def execVmaxS (g : BitVec 3) (m : BitVec 2) (d a b : BitVec 6) (s : State) : Host.Outcome State Fault Refusal :=
  s.finish (s.packedOp g m d a b fun _ x y => maxS x y)
/-- `vmax.n`. -/
def execVmaxN (g : BitVec 3) (m : BitVec 2) (d a b : BitVec 6) (s : State) : Host.Outcome State Fault Refusal :=
  s.finish (s.packedOp g m d a b fun _ x y => maxN x y)
/-- A compare of packed elements into a predicate (R209). -/
def State.packedCompare (s : State) (g : BitVec 3) (m : BitVec 2) (d a b : BitVec 6)
    (f : (w : Nat) → BitVec w → BitVec w → Bool) : Out :=
  s.lanePred g d [a, b] fun l => packedAll m f (l.read a.toNat) (l.read b.toNat)
/-- `vcmpeq`. -/
def execVcmpeq (g : BitVec 3) (m : BitVec 2) (d a b : BitVec 6) (s : State) : Host.Outcome State Fault Refusal :=
  s.finish (s.packedCompare g m d a b fun _ x y => x = y)
/-- `vcmplt.s`. -/
def execVcmpltS (g : BitVec 3) (m : BitVec 2) (d a b : BitVec 6) (s : State) : Host.Outcome State Fault Refusal :=
  s.finish (s.packedCompare g m d a b fun _ x y => lessS x y)
/-- `vcmplt.n`. -/
def execVcmpltN (g : BitVec 3) (m : BitVec 2) (d a b : BitVec 6) (s : State) : Host.Outcome State Fault Refusal :=
  s.finish (s.packedCompare g m d a b fun _ x y => lessN x y)
/-- `vsel`: every lane, A where the guard predicate is 1 and B where it is 0; it copies poison (R210, spec/22 R465). -/
def execVsel (g : BitVec 3) (d a b : BitVec 6) (s : State) : Host.Outcome State Fault Refusal :=
  let is := s.gang.active
  let pick (i : Nat) : Nat := if s.gang.guards g.toNat i then a.toNat else b.toNat
  s.finish (s.laneGate g is [] [ltNum, d.toNat, a.toNat, b.toNat] <|
    .next (s.modGang (·.mapLanes is fun i l => l.write d.toNat (l.read (pick i)) (l.bad (pick i)))))
/-- A one-operand count of packed elements. -/
def State.packedCount (s : State) (g : BitVec 3) (m : BitVec 2) (d a : BitVec 6) (f : (w : Nat) → BitVec w → Nat) : Out :=
  s.laneOp g d [a] fun _ l =>
    let w := widthOf m
    fromElements w ((elements w (64 / w) (l.read a.toNat)).map fun x => f w (BitVec.ofNat w x))
/-- `vclz`. -/
def execVclz (g : BitVec 3) (m : BitVec 2) (d a : BitVec 6) (s : State) : Host.Outcome State Fault Refusal :=
  s.finish (s.packedCount g m d a fun _ x => leadingZeros x)
/-- `vpopc`. -/
def execVpopc (g : BitVec 3) (m : BitVec 2) (d a : BitVec 6) (s : State) : Host.Outcome State Fault Refusal :=
  s.finish (s.packedCount g m d a fun _ x => oneBits x)
/-- `vlea`: A + LANE_INDEX * B. -/
def execVlea (g : BitVec 3) (d a b : BitVec 6) (s : State) : Host.Outcome State Fault Refusal :=
  s.finish (s.laneOp g d [a, b] fun i l => l.read a.toNat + w64 i * l.read b.toNat)
/-- `vmov`: copies an operand with its poison (R211). -/
def execVmov (g : BitVec 3) (d a : BitVec 6) (s : State) : Host.Outcome State Fault Refusal :=
  let is := s.gang.guard g
  s.finish (s.laneGate g is [] [ltNum, d.toNat, a.toNat] <|
    .next (s.modGang (·.mapLanes is fun _ l => l.write d.toNat (l.read a.toNat) (l.bad a.toNat))))
/-- `vbcast`: the lowest guarded lane's operand to every lane; nothing when no guard is true (R211). -/
def execVbcast (g : BitVec 3) (d a : BitVec 6) (s : State) : Host.Outcome State Fault Refusal :=
  let is := s.gang.active
  s.finish <| match (List.range s.gang.lanes.length).find? (s.gang.guards g.toNat) with
    | none => s.laneGate g [] [] [] (.next s)
    | some k =>
      let src := s.gang.lane k
      if src.pending a.toNat then .wait s
      else s.laneGate g is [] [ltNum, d.toNat] <|
        .next (s.modGang (·.mapLanes is fun _ l => l.write d.toNat (src.read a.toNat) (src.bad a.toNat)))
/-- `vshuf`: each guarded lane reads A in the lane that B names; every lane supplies its value (R211). -/
def execVshuf (g : BitVec 3) (d a b : BitVec 6) (s : State) : Host.Outcome State Fault Refusal :=
  let is := s.gang.guard g
  let from_ (l : Lane) : Nat := (l.read b.toNat).toNat % 32
  let ready : Bool := is.all fun i => !(s.gang.lane (from_ (s.gang.lane i))).pending a.toNat
  s.finish (s.laneGate g is [b.toNat] [ltNum, d.toNat, b.toNat] <|
    if !ready then .wait s
    else .next (s.modGang (·.mapLanes is fun _ l =>
      match s.gang.lanes[from_ l]? with
      | some x => l.write d.toNat (x.read a.toNat) (x.bad a.toNat)
      | none => l.write d.toNat 0 false)))
/-- `vgext`: a gang register into lanes (R211). -/
def execVgext (g : BitVec 3) (d : BitVec 6) (a : BitVec 4) (s : State) : Host.Outcome State Fault Refusal :=
  let is := s.gang.guard g
  s.finish (if s.anyPendG [a] then .wait s
    else s.laneGate g is [] [ltNum, d.toNat] <|
      .next (s.modGang (·.mapLanes is fun _ l => l.write d.toNat (s.readG a) (s.me.poisonG a.toNat))))

/-- A reduction of two values of width w (R212): 0 add, 1 min, 2 max, 3 and, 4 or, 5 xor. -/
def reduceStep (op : Nat) (signed : Bool) {w : Nat} (x y : BitVec w) : BitVec w :=
  match op with
  | 0 => x + y
  | 1 => if signed then minS x y else minN x y
  | 2 => if signed then maxS x y else maxN x y
  | 3 => x &&& y
  | 4 => x ||| y
  | _ => x ^^^ y
/-- `vredi` (R212). -/
def execVredi (g : BitVec 3) (d : BitVec 4) (a b : BitVec 6) (s : State) : Host.Outcome State Fault Refusal :=
  let is := s.gang.guard g
  let w := 64 / 2 ^ (b.toNat % 4)
  let signed : Bool := b.getLsbD 2
  let xs := (List.range 32).map fun i =>
    if is.contains i then some (BitVec.ofNat w ((s.gang.lane i).read a.toNat).toNat) else none
  let v := ((treeRoot (reduceStep (b.toNat / 8) signed) xs).getD 0).toNat
  s.finish (if s.anyPendG [d] then .wait s
    else s.laneGate g is [a.toNat] [a.toNat] (.next (s.writeG d (if signed then sext64 w v else w64 v))))

end Sys2Proof.Machine
end

