-- ==== Sys2Proof/Machine/Compact.lean ====
section
/-! DEFINITION. The compact instructions (spec/03 R88): each is exactly its 32-bit alias of Table 3-7. -/
namespace Sys2Proof.Machine

/-- `g0`-`g7` of a compact field as a gang register number. -/
def cg (r : BitVec 3) : BitVec 4 := r.setWidth 4
/-- `w0`-`w7` of a compact field as a lane operand number. -/
def cw (r : BitVec 3) : BitVec 6 := r.setWidth 6
/-- The B field of layout CV: with C = 1 the constant 0-7 (operands 48-55), else a register. -/
def cb (b : BitVec 3) (c : BitVec 1) : BitVec 6 := if c = 1 then 48 + b.setWidth 6 else b.setWidth 6
/-- OFF4 × 8 bytes. -/
def coff (f : BitVec 4) : BitVec 11 := f.setWidth 11 <<< 3

/-- Compact opcode 0x00. -/
def execBrkCompact (i : BitVec 8) (s : State) : Host.Outcome State Fault Refusal := execBrk i s
/-- Compact opcode 0x01. -/
def execAddCompact (d a b : BitVec 3) (s : State) : Host.Outcome State Fault Refusal := execAdd (cg d) (cg a) (cg b) s
/-- Compact opcode 0x02. -/
def execSubCompact (d a b : BitVec 3) (s : State) : Host.Outcome State Fault Refusal := execSub (cg d) (cg a) (cg b) s
/-- Compact opcode 0x03. -/
def execAndCompact (d a b : BitVec 3) (s : State) : Host.Outcome State Fault Refusal := execAnd (cg d) (cg a) (cg b) s
/-- Compact opcode 0x04. -/
def execOrCompact (d a b : BitVec 3) (s : State) : Host.Outcome State Fault Refusal := execOr (cg d) (cg a) (cg b) s
/-- Compact opcode 0x05. -/
def execXorCompact (d a b : BitVec 3) (s : State) : Host.Outcome State Fault Refusal := execXor (cg d) (cg a) (cg b) s
/-- Compact opcode 0x06: IMM7 sign-extended. -/
def execAddiCompact (d : BitVec 3) (i : BitVec 7) (s : State) : Host.Outcome State Fault Refusal := execAddi (cg d) (cg d) (i.signExtend 15) s
/-- Compact opcode 0x07. -/
def execShliCompact (d : BitVec 3) (i : BitVec 6) (s : State) : Host.Outcome State Fault Refusal := execShli (cg d) (cg d) i s
/-- Compact opcode 0x08. -/
def execShriCompact (d : BitVec 3) (i : BitVec 6) (s : State) : Host.Outcome State Fault Refusal := execShri (cg d) (cg d) i s
/-- Compact opcode 0x09. -/
def execSraiCompact (d : BitVec 3) (i : BitVec 6) (s : State) : Host.Outcome State Fault Refusal := execSrai (cg d) (cg d) i s
/-- Compact opcode 0x0A: IMM7 zero-extended. -/
def execAndiCompact (d : BitVec 3) (i : BitVec 7) (s : State) : Host.Outcome State Fault Refusal := execAndi (cg d) (cg d) (i.setWidth 15) s
/-- Compact opcode 0x0B: SIZE 3. -/
def execLdlCompact (d a : BitVec 3) (f : BitVec 4) (s : State) : Host.Outcome State Fault Refusal := execLdl (cg d) (cg a) 3 0 0 (coff f) s
/-- Compact opcode 0x0C: SIZE 3. -/
def execStlCompact (d a : BitVec 3) (f : BitVec 4) (s : State) : Host.Outcome State Fault Refusal := execStl (cg d) (cg a) 3 0 (coff f) s
/-- Compact opcode 0x0D: SIZE 3. -/
def execLdCompact (d a : BitVec 3) (f : BitVec 4) (s : State) : Host.Outcome State Fault Refusal := execLd (cg d) (cg a) 3 0 0 (coff f) s
/-- Compact opcode 0x0E: SIZE 3. -/
def execStCompact (d a : BitVec 3) (f : BitVec 4) (s : State) : Host.Outcome State Fault Refusal := execSt (cg d) (cg a) 3 0 (coff f) s
/-- Compact opcode 0x0F: COND 0. -/
def execBCompact (p : BitVec 10) (s : State) : Host.Outcome State Fault Refusal := execB 0 0 (p.signExtend 16) s
/-- Compact opcode 0x10: COND 1. -/
def execBZCompact (a : BitVec 3) (p : BitVec 7) (s : State) : Host.Outcome State Fault Refusal := execB (cg a) 1 (p.signExtend 16) s
/-- Compact opcode 0x11: COND 2. -/
def execBNzCompact (a : BitVec 3) (p : BitVec 7) (s : State) : Host.Outcome State Fault Refusal := execB (cg a) 2 (p.signExtend 16) s
/-- Compact opcode 0x12. -/
def execLoopCompact (a : BitVec 3) (p : BitVec 7) (s : State) : Host.Outcome State Fault Refusal := execLoop (cg a) (p.signExtend 16) s
/-- Compact opcode 0x13: GUARD 0, MOD 0. -/
def execVaddCompact (d a b : BitVec 3) (c : BitVec 1) (s : State) : Host.Outcome State Fault Refusal := execVadd 0 0 (cw d) (cw a) (cb b c) s
/-- Compact opcode 0x14: GUARD 0, MOD 0. -/
def execVsubCompact (d a b : BitVec 3) (c : BitVec 1) (s : State) : Host.Outcome State Fault Refusal := execVsub 0 0 (cw d) (cw a) (cb b c) s
/-- Compact opcode 0x15: GUARD 0, MOD 0. -/
def execVmulCompact (d a b : BitVec 3) (c : BitVec 1) (s : State) : Host.Outcome State Fault Refusal := execVmul 0 0 (cw d) (cw a) (cb b c) s
/-- Compact opcode 0x16: GUARD 0. -/
def execVandCompact (d a b : BitVec 3) (c : BitVec 1) (s : State) : Host.Outcome State Fault Refusal := execVand 0 (cw d) (cw a) (cb b c) s
/-- Compact opcode 0x17: GUARD 0. -/
def execVorCompact (d a b : BitVec 3) (c : BitVec 1) (s : State) : Host.Outcome State Fault Refusal := execVor 0 (cw d) (cw a) (cb b c) s
/-- Compact opcode 0x18: GUARD 0. -/
def execVxorCompact (d a b : BitVec 3) (c : BitVec 1) (s : State) : Host.Outcome State Fault Refusal := execVxor 0 (cw d) (cw a) (cb b c) s
/-- Compact opcode 0x19. -/
def execVmovCompact (d a : BitVec 3) (s : State) : Host.Outcome State Fault Refusal := execVmov 0 (cw d) (cw a) s
/-- Compact opcode 0x1A: GUARD 0, MOD 0. -/
def execVfaddF32Compact (d a b : BitVec 3) (c : BitVec 1) (s : State) : Host.Outcome State Fault Refusal := execVfaddF32 0 0 (cw d) (cw a) (cb b c) s
/-- Compact opcode 0x1B: GUARD 0, MOD 0. -/
def execVfmulF32Compact (d a b : BitVec 3) (c : BitVec 1) (s : State) : Host.Outcome State Fault Refusal := execVfmulF32 0 0 (cw d) (cw a) (cb b c) s
/-- Compact opcode 0x1C: GUARD 0, MOD 0. -/
def execVfmaF32Compact (d a b : BitVec 3) (c : BitVec 1) (s : State) : Host.Outcome State Fault Refusal := execVfmaF32 0 0 (cw d) (cw a) (cb b c) s
/-- Compact opcode 0x1D: D names a predicate. -/
def execVcmpeqCompact (d a b : BitVec 3) (c : BitVec 1) (s : State) : Host.Outcome State Fault Refusal := execVcmpeq 0 0 (cw d) (cw a) (cb b c) s
/-- Compact opcode 0x1E. -/
def execXendCompact (s : State) : Host.Outcome State Fault Refusal := execXend 0 s
/-- Compact opcode 0x1F. -/
def execXretCompact (s : State) : Host.Outcome State Fault Refusal := execXret 0 0 s

end Sys2Proof.Machine
end

