-- ==== Sys2Proof/Machine/LaneMem.lean ====
section
/-! DEFINITION. Lane memory and stream instructions (spec/10 R225-R235), opcodes 0xB0 to 0xBF. -/
namespace Sys2Proof.Machine

/-! ### Shapes -/

/-- One piece of a lane's access: the register moved (40 to 47 for a sidecar), its offset from `ea`, its bytes. -/
structure Piece where
  reg : Nat
  off : Nat
  size : Nat
  deriving DecidableEq, Repr

/-- A register of `size` bytes. -/
def onePiece (d : BitVec 6) (size : Nat) : List Piece := [⟨d.toNat, 0, size⟩]
/-- A quad, under `.sc` with its sidecar (R230); `w(4q)` stands last, so that a load leaves `lt` with it. -/
def quadPieces (q : BitVec 3) (sc : BitVec 1) : List Piece :=
  (if sc = 1 then [⟨40 + q.toNat, 32, 2⟩] else []) ++
    [⟨4 * q.toNat + 3, 24, 8⟩, ⟨4 * q.toNat + 2, 16, 8⟩, ⟨4 * q.toNat + 1, 8, 8⟩, ⟨4 * q.toNat, 0, 8⟩]
/-- The bytes of a quad access. -/
def quadSize (sc : BitVec 1) : Nat := if sc = 1 then 34 else 32
/-- The effective address of a lane: `A + c * size` (R226). -/
def Lane.ea (l : Lane) (a : BitVec 6) (c : BitVec 4) (size : Nat) : Word := l.read a.toNat + w64 (c.toNat * size)
/-- A piece written by a load: a sidecar, or a register with `lt`. -/
def Lane.load (l : Lane) (reg size : Nat) (sx : Bool) (v : Datum) : Lane :=
  if 40 ≤ reg then l.setSidecar (reg - 40) (v.val.setWidth 16) v.poison else l.write reg (extend size sx v.val) v.poison
/-- What a store writes from a piece's register. -/
def Lane.datum (l : Lane) (reg : Nat) : Datum :=
  if 40 ≤ reg then ⟨(l.sidecar (reg - 40)).setWidth 64, l.bad reg⟩ else ⟨l.read reg, l.bad reg⟩

/-- A lane access: guard, address register, pieces, whether a store. -/
structure LaneAcc where
  p : BitVec 3
  a : BitVec 6
  pieces : List Piece
  ea : Lane → Word
  total : Nat
  align : Nat
  write : Bool
  sx : Bool
  /-- A local form, which writes `lt` at once. -/
  here : Bool := false

/-- The register whose new value a load leaves in `lt`: `w(4q)` of a quad (R230). -/
def LaneAcc.latch (x : LaneAcc) : Nat := (x.pieces.getLast?.map (·.reg)).getD ltNum
/-- It waits on its registers, a load from local memory on `lt` too (R205), and consumes the poison of its guard and of its addresses (spec/22 R466). -/
def State.laneAddrs (s : State) (x : LaneAcc) (body : Out) : Out :=
  let g := s.gang
  let is := g.guard x.p
  s.laneGate x.p is [] (x.a.toNat :: x.pieces.map (·.reg) ++ if x.here && !x.write then [ltNum] else []) <|
    match g.poisonedLanes is [x.a.toNat] with
    | [] => body
    | i :: r => .trap ⟨0x0E, 1, x.ea (g.lane i), laneMask (i :: r)⟩

/-! ### Local forms (R226) -/

/-- The check of a lane's local access: its offset (R226), for a quad of every byte (R230), then its alignment. -/
def LaneAcc.local (x : LaneAcc) (l : Lane) : Option (Nat × Nat) :=
  let ea := x.ea l
  if x.align < x.total ∧ localEnd ≤ ea.toNat + x.total - 1 then some (0x04, 0) else checkLocal ea x.align (bnat x.write)
/-- A local lane access: its checks in every lane of the guard before anything is done. -/
def State.laneLocal (s : State) (x : LaneAcc) (body : List Nat → Out) : Out :=
  s.laneAddrs x <|
    let g := s.gang
    let is := g.guard x.p
    let bad := is.filter fun i => (x.local (g.lane i)).isSome
    if s.me.acquiring then .wait s
    else match bad with
      | i :: _ =>
        let c := (x.local (g.lane i)).getD (0, 0)
        .trap ⟨c.1, c.2, x.ea (g.lane i), laneMask bad⟩
      | [] => body is
/-- The accesses of lanes as a watchpoint compares them. -/
def LaneAcc.seen (x : LaneAcc) (g : Gang) (is : List Nat) (base : Word → Word) : List Seen :=
  is.map fun i => ⟨i, base (x.ea (g.lane i)), x.total, !x.write, x.write⟩
/-- A local load of one lane. -/
def State.laneLoadLocal (s : State) (x : LaneAcc) (i : Nat) : State :=
  let ea := (x.ea (s.gang.lane i)).toNat
  let t := s.scanLocal s.cur ea x.total
  t.modGang (·.mapLanes [i] fun _ l => x.pieces.foldl (fun l q => l.load q.reg q.size x.sx (t.me.mem.datum (ea + q.off) q.size)) l)
/-- The writes of one lane's store at an address. -/
def Lane.stores (l : Lane) (base : Nat) (ps : List Piece) : List Wr :=
  ps.map fun q => let d := l.datum q.reg; ⟨base + q.off, q.size, d.val, d.poison⟩
/-- `vldl` and `vldlq`. -/
def State.laneLdl (s : State) (x : LaneAcc) : Out :=
  s.laneLocal x fun is =>
    .next (is.foldl (fun t i => t.laneLoadLocal x i) s) (s.watch false (x.seen s.gang is fun a => coreAddr s.cur a.toNat))
/-- `vstl` and `vstlq`: lanes ascending (R228). -/
def State.laneStl (s : State) (x : LaneAcc) : Out :=
  s.laneLocal x fun is =>
    if s.me.fenced then .wait s
    else .next (is.foldl (fun t i => t.storeLocal ((t.gang.lane i).stores (x.ea (t.gang.lane i)).toNat x.pieces)) s)
      (s.watch false (x.seen s.gang is fun a => coreAddr s.cur a.toNat))

/-! ### Global and core-space forms (R227) -/

/-- The check of one piece: each is aligned, so it lies in one page and one block. -/
def State.checkPiece (s : State) (x : LaneAcc) (l : Lane) (q : Piece) : Chk :=
  let a := x.ea l + w64 q.off
  if badForm a then .fail 0x04 0 else s.check a x.total x.align x.write (bnat x.write)
/-- Where a failed check stands in the order of R39. -/
def Chk.rank : Chk → Nat
  | .fail 0x04 _ => 1
  | .fail 0x07 _ => 2
  | .fail 0x03 _ => 3
  | .fail _ _ => 4
  | _ => 5
/-- The first failure, in the order of R39, among the pieces of a lane. -/
def firstFail : List Chk → Option (Nat × Nat)
  | [] => none
  | c :: cs =>
    match c, firstFail cs with
    | .fail a b, none => some (a, b)
    | .fail a b, some (a', b') => if (Chk.fail a' b').rank < (Chk.fail a b).rank then some (a', b') else some (a, b)
    | _, r => r
/-- The checks of a lane, piece by piece. -/
def State.laneChecks (s : State) (x : LaneAcc) (i : Nat) : List Chk := x.pieces.map (s.checkPiece x (s.gang.lane i))
/-- The address of the first piece of a lane that meets a translation fault. -/
def State.laneFaultAddr (s : State) (x : LaneAcc) (i : Nat) : Word :=
  let l := s.gang.lane i
  x.ea l + w64 ((((x.pieces.filter fun q => s.checkPiece x l q = .fault).map (·.off)).min?).getD 0)
/-- Pages that must be walked before the checks of a lane are known. -/
def State.lanePages (s : State) (x : LaneAcc) (i : Nat) : List Nat :=
  let l := s.gang.lane i
  (x.pieces.filter fun q => s.checkPiece x l q = .walk).map fun q => pageOf (x.ea l + w64 q.off)

/-- One lane's piece with its home and its address there. -/
structure Placed1 where
  lane : Nat
  piece : Piece
  home : Option Nat
  addr : Nat
  deriving DecidableEq, Repr
/-- The pieces of the lanes `is`, lanes ascending. -/
def State.placePieces (s : State) (x : LaneAcc) (is : List Nat) : List Placed1 :=
  is.flatMap fun i => x.pieces.map fun q =>
    let c := s.checkPiece x (s.gang.lane i) q
    ⟨i, q, c.home, c.at⟩
/-- The distinct 64-byte blocks of some pieces, in the order of their first use. -/
def blockKeys (ps : List Placed1) : List (Option Nat × Nat) := (ps.map fun p => (p.home, p.addr / 64)).eraseDups
def inBlock (b : Option Nat × Nat) (ps : List Placed1) : List Placed1 := ps.filter fun p => p.home = b.1 && p.addr / 64 = b.2

/-- R227: the checks of every lane of the guard; the lanes that fault leave; `body` performs the access in the others on
the state that it is given, with the pieces as placed before anything was changed. -/
def State.laneAccess (s : State) (x : LaneAcc) (body : List Nat → Out) (perform : State → List Placed1 → List Nat → Out) : Out :=
  s.laneAddrs x <|
    let g := s.gang
    let is := g.guard x.p
    let pages := is.flatMap (s.lanePages x)
    let bad := is.filter fun i => (firstFail (s.laneChecks x i)).isSome
    let gone := is.filter fun i => (s.laneChecks x i).contains .fault
    if s.me.acquiring then .wait s
    else if pages ≠ [] then .wait (s.askWalks pages)
    else match bad with
      | i :: _ =>
        let c := (firstFail (s.laneChecks x i)).getD (0, 0)
        .trap ⟨c.1, c.2, x.ea (g.lane i), laneMask bad⟩
      | [] =>
        let rest := is.filter fun i => !gone.contains i
        let ps := s.placePieces x rest
        if s.gang.arrivedPending is then .wait s
        else match body rest with
          | .wait t => .wait t
          | _ =>
            match gone with
            | [] => perform s ps rest
            | i :: _ => s.laneFault gone (s.laneFaultAddr x i) x.write fun t =>
              match perform t ps rest with
              | .next u after => .next (u.modGang (·.without gone)) after
              | o => o

/-- A lane that awaits replies for some registers; `lt` awaits with them (spec/01 R31). -/
def Lane.await (l : Lane) (regs : List Nat) : Lane :=
  { l with pend := regs.foldl (fun m r => bput m r true) (if regs.any (· < 40) then bput l.pend ltNum true else l.pend) }
/-- The loads of some pieces: an entry for each block (R227). -/
def State.sendBlocks (s : State) (x : LaneAcc) (acq : Bool) (ps : List Placed1) : State :=
  (blockKeys ps).foldl (fun t b =>
    let qs := inBlock b ps
    let t' := if acq then t.modGang fun g => { g with acq := g.acq ++ [t.nextTag] } else t
    t'.sendLoad (.lanes (qs.map fun q => ⟨(t.gang.lane q.lane).uid, q.piece.reg, q.piece.size, x.sx, q.piece.reg = x.latch, false⟩)) [] false b.1
      (.load (qs.map fun q => (q.addr, q.piece.size)))) s
/-- A lane load: it waits for an entry for each block, at most the whole table (log 20). -/
def State.laneLd (s : State) (x : LaneAcc) (acq : Bool) : Out :=
  s.laneAccess x
    (fun rest => if s.me.loadRoom (min 32 (blockKeys (s.placePieces x rest)).length) then .next s else .wait s)
    fun t ps rest =>
      let t' := t.modGang (·.mapLanes rest fun _ l => l.await (x.pieces.map (·.reg)))
      .next (t'.sendBlocks x acq ps) (s.watch false (x.seen s.gang rest id))
/-- The stores of some pieces: one request for each block, its lanes ascending (R228). -/
def State.storeBlocks (s : State) (ps : List Placed1) : State :=
  (blockKeys ps).foldl (fun t b =>
    let qs := inBlock b ps
    t.sendStore ((qs.map fun q => (s.gang.lane q.lane).uid).eraseDups) b.1
      (.store (qs.map fun q => let d := (s.gang.lane q.lane).datum q.piece.reg; ⟨q.addr, q.piece.size, d.val, d.poison⟩))) s
/-- A lane store; `rel` for the release form (R229). -/
def State.laneSt (s : State) (x : LaneAcc) (rel : Bool) : Out :=
  s.laneAccess x
    (fun rest =>
      let n := (blockKeys (s.placePieces x rest)).length
      let room : Out := if s.me.fenced || !s.me.storeRoom n then .wait s else s.whenQueued (.next s)
      if rel then s.whenReleased room else room)
    fun t ps rest => .next (t.storeBlocks ps) (s.watch false (x.seen s.gang rest id))

/-- A lane load or store of a size from `[wA + c * size]`. -/
def lanePlain (p : BitVec 3) (m : BitVec 2) (d a : BitVec 6) (c : BitVec 4) (write sx : Bool) : LaneAcc :=
  let n := accessSize m
  { p, a, pieces := onePiece d n, ea := fun l => l.ea a c n, total := n, align := n, write, sx }
/-- A lane quad load or store. -/
def laneQuad (p : BitVec 3) (d : BitVec 3) (a : BitVec 6) (sc : BitVec 1) (write : Bool) : LaneAcc :=
  { p, a, pieces := quadPieces d sc, ea := fun l => l.read a.toNat, total := quadSize sc, align := 8, write, sx := false }

/-- `vldl`. -/
def execVldl (p : BitVec 3) (m : BitVec 2) (d a : BitVec 6) (e : BitVec 1) (c : BitVec 4) (s : State) : Host.Outcome State Fault Refusal :=
  s.finish (s.laneLdl { lanePlain p m d a c false (e = 1) with here := true })
/-- `vstl`. -/
def execVstl (p : BitVec 3) (m : BitVec 2) (d a : BitVec 6) (c : BitVec 4) (s : State) : Host.Outcome State Fault Refusal :=
  s.finish (s.laneStl (lanePlain p m d a c true false))
/-- `vld`. -/
def execVld (p : BitVec 3) (m : BitVec 2) (d a : BitVec 6) (e : BitVec 1) (c : BitVec 4) (s : State) : Host.Outcome State Fault Refusal :=
  s.finish (s.laneLd (lanePlain p m d a c false (e = 1)) false)
/-- `vst`. -/
def execVst (p : BitVec 3) (m : BitVec 2) (d a : BitVec 6) (c : BitVec 4) (s : State) : Host.Outcome State Fault Refusal :=
  s.finish (s.laneSt (lanePlain p m d a c true false) false)
/-- `vld.acq`: no later access of the gang before every lane's data (R229). -/
def execVldAcq (p : BitVec 3) (m : BitVec 2) (d a : BitVec 6) (e : BitVec 1) (_k : BitVec 3) (s : State) : Host.Outcome State Fault Refusal :=
  s.finish (s.laneLd (lanePlain p m d a 0 false (e = 1)) true)
/-- `vst.rel` (R229). -/
def execVstRel (p : BitVec 3) (m : BitVec 2) (d a : BitVec 6) (_k : BitVec 3) (s : State) : Host.Outcome State Fault Refusal :=
  s.finish (s.laneSt (lanePlain p m d a 0 true false) true)
/-- `vldlq`. -/
def execVldlq (p d : BitVec 3) (a : BitVec 6) (sc : BitVec 1) (s : State) : Host.Outcome State Fault Refusal :=
  s.finish (s.laneLdl { laneQuad p d a sc false with here := true })
/-- `vstlq`. -/
def execVstlq (p d : BitVec 3) (a : BitVec 6) (sc : BitVec 1) (s : State) : Host.Outcome State Fault Refusal :=
  s.finish (s.laneStl (laneQuad p d a sc true))
/-- `vldq`. -/
def execVldq (p d : BitVec 3) (a : BitVec 6) (sc : BitVec 1) (s : State) : Host.Outcome State Fault Refusal :=
  s.finish (s.laneLd (laneQuad p d a sc false) false)
/-- `vstq`. -/
def execVstq (p d : BitVec 3) (a : BitVec 6) (sc : BitVec 1) (s : State) : Host.Outcome State Fault Refusal :=
  s.finish (s.laneSt (laneQuad p d a sc true) false)
/-- `vpf`: it never traps and changes nothing that a program can tell (R231, log 9). -/
def execVpf (p : BitVec 3) (a : BitVec 6) (s : State) : Host.Outcome State Fault Refusal :=
  s.finish (if (s.gang.guard p).any fun i => (s.gang.lane i).pending a.toNat then .wait s else .next s)

/-! ### Stream registers (R232-R234) -/

def Core.stream (k : Core) (n : Nat) : Stream := mget {} k.streams n
def Core.setStream (k : Core) (n : Nat) (x : Stream) : Core := { k with streams := mput k.streams n x }
/-- Lanes that take the oldest elements in their order; `empty` says what a lane that finds none becomes. -/
def State.takeElems (s : State) (n d : Nat) (took empty : Lane → Lane) : List Nat → State
  | [] => s
  | i :: is =>
    let x := s.me.stream n
    match x.elems with
    | e :: es =>
      ((s.modMe (·.setStream n { x with elems := es })).modGang
        (·.mapLanes [i] fun _ l => took (l.write d e.val e.poison))).takeElems n d took empty is
    | [] => (s.modGang (·.mapLanes [i] fun _ l => empty l)).takeElems n d took empty is

/-- `srd` (R233). One with no guard lane waits behind an earlier waiting reader too (DESIGN CHOICE, log 70). -/
def execSrd (p : BitVec 3) (d : BitVec 6) (n : BitVec 2) (s : State) : Host.Outcome State Fault Refusal :=
  let is := s.gang.guard p
  let x := s.me.stream n.toNat
  let mine := x.readers.filter (· ≠ s.me.slot)
  s.finish (s.blocking <| s.laneGate p is [] [ltNum, d.toNat] <|
    if 16 < is.length then .trap ⟨0x0C, 0, w64 is.length, s.allLanes⟩
    else
      let ahead := x.readers.takeWhile (· ≠ s.me.slot)
      if ahead ≠ [] ∨ (x.elems.length < is.length ∧ x.bound.isSome) then
        .wait (if x.readers.contains s.me.slot then s
          else s.modMe (·.setStream n.toNat { x with readers := x.readers ++ [s.me.slot] }))
      else
        let t := s.modMe (·.setStream n.toNat { x with readers := mine })
        .next (t.takeElems n.toNat d.toNat id (fun l => l.write d.toNat 0 false) is))
/-- `srdnb` (Table 10-2): it and `sdrop` wait for no reader and take elements before one that waits (DESIGN CHOICE, log 70). -/
def execSrdnb (p : BitVec 3) (d : BitVec 6) (q : BitVec 3) (n : BitVec 2) (s : State) : Host.Outcome State Fault Refusal :=
  let is := s.gang.guard p
  s.finish (s.laneGate p is [] [ltNum, d.toNat] <|
    .next (s.takeElems n.toNat d.toNat (·.setPred q.toNat true) (·.setPred q.toNat false) is))
/-- `scnt`. -/
def execScnt (p : BitVec 3) (d : BitVec 6) (n : BitVec 2) (s : State) : Host.Outcome State Fault Refusal :=
  let v := w64 (s.me.stream n.toNat).elems.length
  s.finish (s.laneOp p d [] fun _ _ => v)
/-- `sdrop`. -/
def execSdrop (p : BitVec 3) (a : BitVec 6) (n : BitVec 2) (s : State) : Host.Outcome State Fault Refusal :=
  let is := (s.gang.guard p).take 1
  let x := s.me.stream n.toNat
  s.finish (s.laneGate p is [a.toNat] [a.toNat] <|
    match is with
    | [] => .next s
    | i :: _ => .next (s.modMe (·.setStream n.toNat { x with elems := x.elems.drop ((s.gang.lane i).read a.toNat).toNat })))
/-- `sreset`: what the bound copy still delivers is discarded, and the binding ends with the copy. -/
def execSreset (p : BitVec 3) (n : BitVec 2) (s : State) : Host.Outcome State Fault Refusal :=
  let x := s.me.stream n.toNat
  s.finish (s.laneGate p [] [] [] <|
    if s.gang.guard p = [] then .next s
    else .next (s.modMe (·.setStream n.toNat { x with elems := [], drop := x.bound.isSome })))

end Sys2Proof.Machine
end

