-- ==== Sys2Proof/Machine/LaneChunk.lean ====
section
/-! DEFINITION. Lane chunk instructions (spec/18 R423, R424), opcodes 0xE8 to 0xEA. -/
namespace Sys2Proof.Machine

/-- The check of a lane's image offset (R423). -/
def chunkCheck (a : Word) : Option (Nat × Nat) :=
  if localEnd < a.toNat + imageBytes then some (0x04, 0) else if a.toNat % 16 ≠ 0 then some (0x03, 3) else none
/-- The first of a lane's image addresses that fails, with its cause. -/
def Lane.chunkFail (l : Lane) (as : List (BitVec 6)) : Option (Nat × Nat × Word) :=
  (as.filterMap fun a => (chunkCheck (l.read a.toNat)).map fun c => (c.1, c.2, l.read a.toNat)).head?
/-- A lane's first image that carries poison in what is read of it: from byte `skip` on. -/
def State.chunkBad (s : State) (l : Lane) (as : List (BitVec 6)) (skip : Nat) : Option Word :=
  (as.map fun a => l.read a.toNat).find? fun v => s.me.mem.poisoned (v.toNat + skip) (imageBytes - skip)
/-- A lane chunk instruction on the images at the registers `as`: waits, consumption of poison (guard, addresses, `uses`,
images from byte `skip` on) and checks in every lane of the guard, before anything is written. -/
def State.chunkForm (s : State) (p : BitVec 3) (as : List (BitVec 6)) (uses all : List Nat) (skip : Nat) (body : List Nat → State → Out) : Out :=
  let g := s.gang
  let is := g.guard p
  let ns := as.map (·.toNat)
  s.laneGate p is uses (ns ++ uses ++ all) <|
    match g.poisonedLanes is ns with
    | i :: r =>
      let l := g.lane i
      .trap ⟨0x0E, 1, ((as.find? fun a => l.bad a.toNat).map fun a => l.read a.toNat).getD 0, laneMask (i :: r)⟩
    | [] =>
      if s.me.acquiring then .wait s
      else match is.filter fun i => ((g.lane i).chunkFail as).isSome with
        | i :: r =>
          let c := ((g.lane i).chunkFail as).getD (0, 0, 0)
          .trap ⟨c.1, c.2.1, c.2.2, laneMask (i :: r)⟩
        | [] =>
          let t := is.foldl (fun t i => as.foldl (fun t a => t.scanLocal s.cur (((g.lane i).read a.toNat).toNat + skip) (imageBytes - skip)) t) s
          match is.filter fun i => (t.chunkBad (g.lane i) as skip).isSome with
          | i :: r => .trap ⟨0x0E, 1, (t.chunkBad (g.lane i) as skip).getD 0, laneMask (i :: r)⟩
          | [] => body is t
def State.chunkAt (s : State) (a : Nat) : List Byte := s.me.mem.image a imageBytes
/-- Bytes written into the core's own memory. -/
def State.writeLocal (s : State) (a : Nat) (bs : List Byte) : State :=
  s.modMe fun k => { k.overwrite a bs.length with mem := k.mem.write a bs false }
/-- An image access as a watchpoint sees it. -/
def State.seenChunk (s : State) (i : Nat) (a size : Nat) (load store : Bool) : Seen := ⟨i, coreAddr s.cur a, size, load, store⟩

/-- `ckgen`: a trailer for the image's data. -/
def execCkgen (g : BitVec 3) (d a b : BitVec 6) (s : State) : Host.Outcome State Fault Refusal :=
  let at' (i : Nat) : Nat := ((s.gang.lane i).read a.toNat).toNat
  s.finish (s.chunkForm g [a] [b.toNat] [] 16 fun is t =>
    if s.me.fenced then .wait s
    else .next (is.foldl (fun t i =>
        let step := ((s.gang.lane i).read b.toNat).toNat % 256
        t.writeLocal (at' i) ((makeImage d.toNat step false (chunkData (t.chunkAt (at' i)))).take 16)) t)
      (s.watch false (is.flatMap fun i => [s.seenChunk i (at' i) 16 false true, s.seenChunk i (at' i + 16) 256 true false])))
/-- Both checks of `ckver`. -/
def chunkVerified (fmt : Nat) (img : List Byte) : Bool := residueOk img && chunkVsum img = valueSum fmt (chunkData img)
/-- `ckver`. -/
def execCkver (g : BitVec 3) (d a b : BitVec 6) (s : State) : Host.Outcome State Fault Refusal :=
  let at' (l : Lane) : Nat := (l.read a.toNat).toNat
  s.finish (s.chunkForm g [a] [] [] 0 fun is t =>
    .next (t.modGang (·.mapLanes is fun _ l => l.setPred d.toNat (chunkVerified b.toNat (t.chunkAt (at' l)))))
      (s.watch false (is.map fun i => s.seenChunk i (at' (s.gang.lane i)) imageBytes true false)))

/-- What `ckfold` makes of two images under a mode: the status, the image to write, and the fault word pair of a record. -/
structure FoldOut where
  status : Nat
  image : Option (List Byte)
  step : Nat
  expected : Nat
  found : Nat
  deriving DecidableEq, Repr
def foldOut (fmt mode : Nat) (dst src : List Byte) : FoldOut :=
  if !residueOk src then ⟨2, none, chunkStep src, imageAt src 0 4, residueOf src⟩
  else if !residueOk dst then ⟨1, none, chunkStep dst, imageAt dst 0 4, residueOf dst⟩
  else
    let suspect := mode ≠ 0 && (chunkSuspect dst || chunkSuspect src)
    let f := foldImages fmt dst src (chunkSuspect dst || chunkSuspect src)
    let img := if mode = 0 then sealImage (chunkVsum f.image) (chunkStep f.image) false (chunkData f.image) else f.image
    let img := if suspect then markSuspect img else img
    if f.ok = some false then
      ⟨3, if mode = 2 then none else some (if mode = 1 then markSuspect img else img), chunkStep img, f.expected, f.found⟩
    else ⟨0, some img, chunkStep img, 0, 0⟩
/-- One lane of `ckfold`: its write, its record under modes 1 and 2, its status in `lt`. -/
def State.foldLane (s : State) (fmt i a b : Nat) : State :=
  let mode := s.ctx.check
  let o := foldOut fmt mode (s.chunkAt a) (s.chunkAt b)
  let t := match o.image with
    | some img => s.writeLocal a img
    | none => s
  let me := agentCore s.cur
  let rec' : List (List Word) := if o.status = 0 || mode = 0 then [] else
    [[0, recordWord o.step (o.status = 3) (if o.status = 3 then 4 else 0) (mode = 2) 4, me, me, w64 o.expected, w64 o.found, w64 a]]
  let t := t.sendRecords (.core s.cur) s.cur rec' []
  t.modGang (·.mapLanes [i] fun _ l => l.put ltNum (w64 (o.status + 256 * bnat (o.status ≠ 0 && mode = 2))) false)
/-- The lanes of `ckfold` from `next` on, as far as room for records lasts (R426): where it stops. -/
def State.foldLanes (s : State) (fmt : Nat) (a b : BitVec 6) : List Nat → State × Nat
  | [] => (s, 32)
  | i :: is =>
    let l := s.gang.lane i
    let x := (l.read a.toNat).toNat
    let y := (l.read b.toNat).toNat
    let fails := s.ctx.check ≠ 0 && (foldOut fmt s.ctx.check (s.chunkAt x) (s.chunkAt y)).status ≠ 0
    if fails && !s.recordRoom (.core s.cur) 4 1 then (s, i) else (s.foldLane fmt i x y).foldLanes fmt a b is
/-- The instruction goes on, and is over when every record has been delivered or dropped. -/
def State.foldOn (s : State) (fmt : Nat) (a b : BitVec 6) (is : List Nat) (next : Nat) (ids : List Nat) (after : List Cause) : Out :=
  let first := s.nextTag
  let (t, n) := s.foldLanes fmt a b (is.filter fun i => next ≤ i)
  let ids := ids ++ (List.range (t.nextTag - first)).map (first + ·)
  if n < 32 ∨ t.me.records.any (fun o => ids.contains o.seq) then .wait (t.modGang fun g => { g with phase := .fold n ids })
  else .next t after
/-- The accesses of `ckfold` as a watchpoint sees them. -/
def State.seenFold (s : State) (a b : BitVec 6) (is : List Nat) : List Seen :=
  is.flatMap fun i =>
    let l := s.gang.lane i
    [s.seenChunk i (l.read a.toNat).toNat imageBytes true true, s.seenChunk i (l.read b.toNat).toNat imageBytes true false]
/-- `ckfold` (R424). -/
def execCkfold (g : BitVec 3) (d a b : BitVec 6) (s : State) : Host.Outcome State Fault Refusal :=
  s.finish (match s.gang.phase with
    | .fold next ids => s.foldOn d.toNat a b (s.gang.guard g) next ids (s.watch false (s.seenFold a b (s.gang.guard g)))
    | _ => s.chunkForm g [a, b] [] [ltNum] 0 fun is t =>
      if s.me.fenced then .wait s else t.foldOn d.toNat a b is 0 [] (s.watch false (s.seenFold a b is)))

end Sys2Proof.Machine
end

