-- ==== Sys2Proof/Machine/Requests.lean ====
section
/-! DEFINITION. The requests of the mailbox rings (spec/24 R495, R496): what an entry asks for. The header's layout is R495's, that of an
Ikitik message Table 23-2's; the other payloads have no layout in the spec: what they ask for is left open as a function of their
bytes (log 23). -/
namespace Sys2Proof
/-- PARTITION CREATE, IMAGE LOAD, DOORBELL ASSIGN, WINDOW SET, SPDM, PORT, POWER (cap, TLIMIT, RETIDLE): none for a payload out of form. -/
opaque Config.createPayload : List Byte → Option PartitionReq
opaque Config.imagePayload : List Byte → Option SystemImage
opaque Config.doorbellPayload : List Byte → Option (Nat × Nat)
opaque Config.windowPayload : List Byte → Option (Nat × WindowReq)
opaque Config.spdmPayload : List Byte → Option SpdmReq
opaque Config.portPayload : List Byte → Option (Nat × Nat × List Nat)
opaque Config.powerPayload : List Byte → Option (Nat × Nat × Nat)
end Sys2Proof
namespace Sys2Proof.Machine

/-- An Ikitik message: the header of Table 23-2, then the payload of Table 23-3. Behind the selector byte of a SETPOINT stands its image;
a WRITEREG has a byte each for kind and number, then the value; a READMEM 8 bytes of address, then the length; a READRECORDER 8 bytes
each for the die, the first record and their count (DESIGN CHOICE where the table gives no widths, log 25). -/
def ikitikOf (p : List Byte) : IkitikReq :=
  let opc := imageAt p 0 1
  let b := p.drop 16
  let n := imageAt p 14 2
  { seq := imageAt p 2 2, part := imageAt p 4 1, ctx := imageAt p 6 2, core := imageAt p 8 4, slot := imageAt p 12 1, lane := imageAt p 13 1,
    kind := opc + (if opc = 0x08 then 256 * imageAt b 0 1 else 0),
    num := if opc = 0x08 then imageAt b 1 1 else if opc = 0x0B then imageAt b 0 8 else imageAt b 0 1,
    len := if opc = 0x0A then imageAt b 8 (n - 8) else imageAt b 16 8,
    val := w64 (if opc = 0x05 then imageAt b 1 8 else if opc = 0x08 then imageAt b 2 8 else if opc = 0x0B then imageAt b 8 8 else imageAt b 0 8),
    val2 := w64 (imageAt b 9 8) }
/-- What a request asks for: a command, or the status that refuses it. PREEMPT and RESTORE name their context in the first two payload
bytes, PARTITION DESTROY its partition in the first, NOTICE in the header; the supervisor restores a context where it stood (logs 22, 23). -/
def State.mailCommand (s : State) (e : List Byte) : Nat ⊕ Instr :=
  let opc := imageAt e 0 1
  let part := imageAt e 4 1
  let pay := (e.drop 0x10).take (imageAt e 6 2)
  let form (i : Option Instr) : Nat ⊕ Instr := match i with
    | some i => .inr i
    | none => .inl 5
  if opc = 0x01 then form ((Config.createPayload pay).map Instr.partitionCreate)
  else if opc = 0x02 then .inr (.partitionDestroy (imageAt pay 0 1))
  else if opc = 0x03 then form ((Config.imagePayload pay).map (Instr.imageLoad part))
  else if opc = 0x04 then form ((Config.doorbellPayload pay).map fun x => Instr.doorbellAssign x.1 ⟨part, x.2⟩)
  else if opc = 0x05 then form ((Config.windowPayload pay).map fun x => Instr.windowSet x.1 x.2)
  else if opc = 0x06 then .inr (.preempt (imageAt pay 0 2))
  else if opc = 0x07 then .inr (.restore ⟨imageAt pay 0 2, s.ctx.rects⟩)
  else if opc = 0x08 then .inr (.debug (ikitikOf pay))
  else if opc = 0x09 then form ((Config.spdmPayload pay).map (Instr.spdm part))
  else if opc = 0x0A then .inr (.notice part)
  else if opc = 0x0B then form ((Config.portPayload pay).map fun x => Instr.port x.1 x.2.1 x.2.2)
  else form ((Config.powerPayload pay).map fun x => Instr.power x.1 x.2.1 part x.2.2)
/-- The partition that a command acts on; the ports and the power of the device are no partition's. -/
def State.commandPart (s : State) (part : Nat) : Instr → Nat
  | .partitionCreate p => p.part
  | .partitionDestroy p => p
  | .windowSet _ w => w.part
  | .preempt c => if s.ctx.id.toNat = c then s.ctx.part.toNat else part
  | .restore r => if s.ctx.id.toNat = r.ctx then s.ctx.part.toNat else part
  | .debug q => q.part
  | _ => part
/-- A header out of form: a reserved byte, a STATUS, a LENGTH over 4,096, an OPC that Table 24-4 does not have. -/
def mailBad (e : List Byte) : Bool :=
  imageAt e 1 1 ≠ 0 || imageAt e 5 1 ≠ 0 || imageAt e 8 8 ≠ 0 || 4096 < imageAt e 6 2 || imageAt e 0 1 = 0 || 0x0C < imageAt e 0 1
/-- MAILBOX_REQUEST: at stage 5 the next request is taken once the one before it has been answered (R495). A header out of form is
answered with 5, a partition's request that names another partition with 1 (R496). The header's PART is that of the debug or SPDM
session, 0 an operator's (DESIGN CHOICE, log 25). -/
def execMailboxRequest (s : State) : Host.Outcome State Fault Refusal :=
  .next (if s.host.stage ≠ 5 ∨ s.host.fatal ∨ s.host.serving.isSome then s
    else match s.mailEntry with
      | none => s
      | some (origin, e) =>
        let t := s.takeMail origin e
        let opc := imageAt e 0 1
        let part := imageAt e 4 1
        if mailBad e then t.respond opc 5 part []
        else match s.mailCommand e with
          | .inl st => t.respond opc st part []
          | .inr i =>
            if origin ≠ 0 ∧ (part ≠ origin ∨ s.commandPart part i ≠ origin) then t.respond opc 1 part []
            else ({ t with sup := { t.sup with session := if opc = 0x08 then part else t.sup.session } } : State).push i)

end Sys2Proof.Machine
end

