-- ==== Sys2Proof/Machine/Dispatch.lean ====
section
/-! DEFINITION. The dispatch: one arm per constructor of Instr, each a call of that instruction's meaning. -/
namespace Sys2Proof.Machine

def exec (i : Instr) (s : State) : Host.Outcome State Fault Refusal :=
  match i with
  | .delaySlotAnnul => Sys2Proof.Machine.execDelaySlotAnnul s
  | .timerExpiry core => Sys2Proof.Machine.execTimerExpiry core s
  | .trapEntry core => Sys2Proof.Machine.execTrapEntry core s
  | .transferPacking => Sys2Proof.Machine.execTransferPacking s
  | .carryMessageSend src id => Sys2Proof.Machine.execCarryMessageSend src id s
  | .spill src id => Sys2Proof.Machine.execSpill src id s
  | .grantRequest q => Sys2Proof.Machine.execGrantRequest q s
  | .grant q => Sys2Proof.Machine.execGrant q s
  | .revocation q => Sys2Proof.Machine.execRevocation q s
  | .refusal q => Sys2Proof.Machine.execRefusal q s
  | .carryArrival m => Sys2Proof.Machine.execCarryArrival m s
  | .dataMessageArrival m => Sys2Proof.Machine.execDataMessageArrival m s
  | .changeMessageArrival m => Sys2Proof.Machine.execChangeMessageArrival m s
  | .ringDrain core ch => Sys2Proof.Machine.execRingDrain core ch s
  | .rebindingTakesEffect core ch => Sys2Proof.Machine.execRebindingTakesEffect core ch s
  | .firing core ch => Sys2Proof.Machine.execFiring core ch s
  | .frameRelease core frame => Sys2Proof.Machine.execFrameRelease core frame s
  | .loadReply core tag vals => Sys2Proof.Machine.execLoadReply core tag vals s
  | .forwardedReply core uid reg v => Sys2Proof.Machine.execForwardedReply core uid reg v s
  | .forwardingEntryTimeout core tag => Sys2Proof.Machine.execForwardingEntryTimeout core tag s
  | .storeAcknowledgement core uids => Sys2Proof.Machine.execStoreAcknowledgement core uids s
  | .remoteAccess r => Sys2Proof.Machine.execRemoteAccess r s
  | .sliceOperation r => Sys2Proof.Machine.execSliceOperation r s
  | .chainedPacket r => Sys2Proof.Machine.execChainedPacket r s
  | .futureRetry core tag => Sys2Proof.Machine.execFutureRetry core tag s
  | .counterUpdateRetry core tag => Sys2Proof.Machine.execCounterUpdateRetry core tag s
  | .readyQueueSend core => Sys2Proof.Machine.execReadyQueueSend core s
  | .counterEvent core sel => Sys2Proof.Machine.execCounterEvent core sel s
  | .barrierArrival core n count ack => Sys2Proof.Machine.execBarrierArrival core n count ack s
  | .barrierCompletion core n => Sys2Proof.Machine.execBarrierCompletion core n s
  | .timelineWrite r => Sys2Proof.Machine.execTimelineWrite r s
  | .timelineRelease core tag => Sys2Proof.Machine.execTimelineRelease core tag s
  | .copyUnit core q => Sys2Proof.Machine.execCopyUnit core q s
  | .copyCompletion core q => Sys2Proof.Machine.execCopyCompletion core q s
  | .checkedChunkVerify core q => Sys2Proof.Machine.execCheckedChunkVerify core q s
  | .chunkRecordDrop src id => Sys2Proof.Machine.execChunkRecordDrop src id s
  | .matrixArbitration cluster => Sys2Proof.Machine.execMatrixArbitration cluster s
  | .matrixKStep cluster => Sys2Proof.Machine.execMatrixKStep cluster s
  | .matrixDrain cluster => Sys2Proof.Machine.execMatrixDrain cluster s
  | .matrixSetContext cluster => Sys2Proof.Machine.execMatrixSetContext cluster s
  | .matrixFence cluster => Sys2Proof.Machine.execMatrixFence cluster s
  | .matrixCompletion cluster => Sys2Proof.Machine.execMatrixCompletion cluster s
  | .matrixWindowPush core slot v p => Sys2Proof.Machine.execMatrixWindowPush core slot v p s
  | .ringWindowPush core ring count ack => Sys2Proof.Machine.execRingWindowPush core ring count ack s
  | .translationWalk core va => Sys2Proof.Machine.execTranslationWalk core va s
  | .translationFault core frame => Sys2Proof.Machine.execTranslationFault core frame s
  | .invalidationAck core tag => Sys2Proof.Machine.execInvalidationAck core tag s
  | .noticePost n => Sys2Proof.Machine.execNoticePost n s
  | .watchdogExpiry core => Sys2Proof.Machine.execWatchdogExpiry core s
  | .derrickSelection => Sys2Proof.Machine.execDerrickSelection s
  | .launchDone q idx => Sys2Proof.Machine.execLaunchDone q idx s
  | .launchQueueControl q v => Sys2Proof.Machine.execLaunchQueueControl q v s
  | .contextStart r => Sys2Proof.Machine.execContextStart r s
  | .preemption => Sys2Proof.Machine.execPreemption s
  | .contextRestore => Sys2Proof.Machine.execContextRestore s
  | .outboundRecordSend src id => Sys2Proof.Machine.execOutboundRecordSend src id s
  | .changeSliceQueueSend slice => Sys2Proof.Machine.execChangeSliceQueueSend slice s
  | .changeFiringEnd core tag => Sys2Proof.Machine.execChangeFiringEnd core tag s
  | .changeRecordLost desc wave => Sys2Proof.Machine.execChangeRecordLost desc wave s
  | .quiescenceWatch core tag v => Sys2Proof.Machine.execQuiescenceWatch core tag v s
  | .scrub a addr => Sys2Proof.Machine.execScrub a addr s
  | .retentionEntry a => Sys2Proof.Machine.execRetentionEntry a s
  | .retentionExit a => Sys2Proof.Machine.execRetentionExit a s
  | .pairIntervalClose core => Sys2Proof.Machine.execPairIntervalClose core s
  | .containment rect trigger => Sys2Proof.Machine.execContainment rect trigger s
  | .containmentReset rect => Sys2Proof.Machine.execContainmentReset rect s
  | .fatalError cause array addr => Sys2Proof.Machine.execFatalError cause array addr s
  | .recorderUnfreeze die => Sys2Proof.Machine.execRecorderUnfreeze die s
  | .frameBoundary => Sys2Proof.Machine.execFrameBoundary s
  | .packetAdmission src cost => Sys2Proof.Machine.execPacketAdmission src cost s
  | .multicastFork tree => Sys2Proof.Machine.execMulticastFork tree s
  | .multicastResidualSend router => Sys2Proof.Machine.execMulticastResidualSend router s
  | .refusedTraffic r => Sys2Proof.Machine.execRefusedTraffic r s
  | .flitReceive port flit => Sys2Proof.Machine.execFlitReceive port flit s
  | .negativeAcknowledgement port seq => Sys2Proof.Machine.execNegativeAcknowledgement port seq s
  | .creditReturn port vn n => Sys2Proof.Machine.execCreditReturn port vn n s
  | .frameMark port => Sys2Proof.Machine.execFrameMark port s
  | .portRetrain port => Sys2Proof.Machine.execPortRetrain port s
  | .portTraining port peer => Sys2Proof.Machine.execPortTraining port peer s
  | .portTrainingTimeout port => Sys2Proof.Machine.execPortTrainingTimeout port s
  | .throttleUpdate block => Sys2Proof.Machine.execThrottleUpdate block s
  | .thermalTrip die => Sys2Proof.Machine.execThermalTrip die s
  | .powerOn => Sys2Proof.Machine.execPowerOn s
  | .pcieReset => Sys2Proof.Machine.execPcieReset s
  | .reset => Sys2Proof.Machine.execReset s
  | .hostRegisterWrite off a => Sys2Proof.Machine.execHostRegisterWrite off a s
  | .ring page v => Sys2Proof.Machine.execRing page v s
  | .doorbellAppendDone page => Sys2Proof.Machine.execDoorbellAppendDone page s
  | .control page q v => Sys2Proof.Machine.execControl page q v s
  | .memoryWindowAccess off size write v => Sys2Proof.Machine.execMemoryWindowAccess off size write v s
  | .mailboxRequest => Sys2Proof.Machine.execMailboxRequest s
  | .partitionCreate p => Sys2Proof.Machine.execPartitionCreate p s
  | .partitionDestroy part => Sys2Proof.Machine.execPartitionDestroy part s
  | .imageLoad part image => Sys2Proof.Machine.execImageLoad part image s
  | .doorbellAssign page ctx => Sys2Proof.Machine.execDoorbellAssign page ctx s
  | .windowSet win w => Sys2Proof.Machine.execWindowSet win w s
  | .preempt ctx => Sys2Proof.Machine.execPreempt ctx s
  | .restore r => Sys2Proof.Machine.execRestore r s
  | .debug q => Sys2Proof.Machine.execDebug q s
  | .spdm session code => Sys2Proof.Machine.execSpdm session code s
  | .notice part => Sys2Proof.Machine.execNotice part s
  | .port port action routes => Sys2Proof.Machine.execPort port action routes s
  | .power cap tlimit part retidle => Sys2Proof.Machine.execPower cap tlimit part retidle s
  | .supervisorResponse core v => Sys2Proof.Machine.execSupervisorResponse core v s
  | .getVersion session => Sys2Proof.Machine.execGetVersion session s
  | .getCapabilities session => Sys2Proof.Machine.execGetCapabilities session s
  | .negotiateAlgorithms session => Sys2Proof.Machine.execNegotiateAlgorithms session s
  | .getDigests session => Sys2Proof.Machine.execGetDigests session s
  | .getCertificate session off len => Sys2Proof.Machine.execGetCertificate session off len s
  | .challenge session nonce => Sys2Proof.Machine.execChallenge session nonce s
  | .getMeasurements session index => Sys2Proof.Machine.execGetMeasurements session index s
  | .ikitikHalt q => Sys2Proof.Machine.execIkitikHalt q s
  | .ikitikResume q => Sys2Proof.Machine.execIkitikResume q s
  | .ikitikStep q => Sys2Proof.Machine.execIkitikStep q s
  | .steplane q => Sys2Proof.Machine.execSteplane q s
  | .setpoint q => Sys2Proof.Machine.execSetpoint q s
  | .readgang q => Sys2Proof.Machine.execReadgang q s
  | .readcore q => Sys2Proof.Machine.execReadcore q s
  | .writereg q => Sys2Proof.Machine.execWritereg q s
  | .readarrivals q => Sys2Proof.Machine.execReadarrivals q s
  | .readmem q => Sys2Proof.Machine.execReadmem q s
  | .readrecorder q => Sys2Proof.Machine.execReadrecorder q s
  | .powerLoss => Sys2Proof.Machine.execPowerLoss s
  | .idleExpiry core => Sys2Proof.Machine.execIdleExpiry core s
  | .changePutRetry core tag => Sys2Proof.Machine.execChangePutRetry core tag s
  | .linkManagementInterval port => Sys2Proof.Machine.execLinkManagementInterval port s
  | .devstatRead => Sys2Proof.Machine.execDevstatRead s
  | .directoryInvalidationAck core id => Sys2Proof.Machine.execDirectoryInvalidationAck core id s
  | .recorderFreeze die => Sys2Proof.Machine.execRecorderFreeze die s
  | .add d a b => Sys2Proof.Machine.execAdd d a b s
  | .sub d a b => Sys2Proof.Machine.execSub d a b s
  | .mul d a b => Sys2Proof.Machine.execMul d a b s
  | .mulhS64 d a b => Sys2Proof.Machine.execMulhS64 d a b s
  | .mulhN64 d a b => Sys2Proof.Machine.execMulhN64 d a b s
  | .divS64 d a b => Sys2Proof.Machine.execDivS64 d a b s
  | .divN64 d a b => Sys2Proof.Machine.execDivN64 d a b s
  | .remS64 d a b => Sys2Proof.Machine.execRemS64 d a b s
  | .remN64 d a b => Sys2Proof.Machine.execRemN64 d a b s
  | .and d a b => Sys2Proof.Machine.execAnd d a b s
  | .or d a b => Sys2Proof.Machine.execOr d a b s
  | .xor d a b => Sys2Proof.Machine.execXor d a b s
  | .andn d a b => Sys2Proof.Machine.execAndn d a b s
  | .shl d a b => Sys2Proof.Machine.execShl d a b s
  | .shr d a b => Sys2Proof.Machine.execShr d a b s
  | .sra d a b => Sys2Proof.Machine.execSra d a b s
  | .rol d a b => Sys2Proof.Machine.execRol d a b s
  | .minS64 d a b => Sys2Proof.Machine.execMinS64 d a b s
  | .maxS64 d a b => Sys2Proof.Machine.execMaxS64 d a b s
  | .minN64 d a b => Sys2Proof.Machine.execMinN64 d a b s
  | .maxN64 d a b => Sys2Proof.Machine.execMaxN64 d a b s
  | .seq d a b => Sys2Proof.Machine.execSeq d a b s
  | .sltS64 d a b => Sys2Proof.Machine.execSltS64 d a b s
  | .sltN64 d a b => Sys2Proof.Machine.execSltN64 d a b s
  | .clz d a => Sys2Proof.Machine.execClz d a s
  | .ctz d a => Sys2Proof.Machine.execCtz d a s
  | .popc d a => Sys2Proof.Machine.execPopc d a s
  | .sext d a n => Sys2Proof.Machine.execSext d a n s
  | .zext d a n => Sys2Proof.Machine.execZext d a n s
  | .bfx d a b n => Sys2Proof.Machine.execBfx d a b n s
  | .bfi d a b n => Sys2Proof.Machine.execBfi d a b n s
  | .lea d a b x_s => Sys2Proof.Machine.execLea d a b x_s s
  | .addi d a x_i => Sys2Proof.Machine.execAddi d a x_i s
  | .muli d a x_i => Sys2Proof.Machine.execMuli d a x_i s
  | .andi d a x_i => Sys2Proof.Machine.execAndi d a x_i s
  | .ori d a x_i => Sys2Proof.Machine.execOri d a x_i s
  | .xori d a x_i => Sys2Proof.Machine.execXori d a x_i s
  | .shli d a x_i => Sys2Proof.Machine.execShli d a x_i s
  | .shri d a x_i => Sys2Proof.Machine.execShri d a x_i s
  | .srai d a x_i => Sys2Proof.Machine.execSrai d a x_i s
  | .seqi d a x_i => Sys2Proof.Machine.execSeqi d a x_i s
  | .sltiS64 d a x_i => Sys2Proof.Machine.execSltiS64 d a x_i s
  | .sltiN64 d a x_i => Sys2Proof.Machine.execSltiN64 d a x_i s
  | .rsbi d a x_i => Sys2Proof.Machine.execRsbi d a x_i s
  | .miniS64 d a x_i => Sys2Proof.Machine.execMiniS64 d a x_i s
  | .maxiS64 d a x_i => Sys2Proof.Machine.execMaxiS64 d a x_i s
  | .movw d h x_i => Sys2Proof.Machine.execMovw d h x_i s
  | .movk d h x_i => Sys2Proof.Machine.execMovk d h x_i s
  | .ldl d a x_s e n f => Sys2Proof.Machine.execLdl d a x_s e n f s
  | .stl d a x_s n f => Sys2Proof.Machine.execStl d a x_s n f s
  | .ld d a x_s e n f => Sys2Proof.Machine.execLd d a x_s e n f s
  | .st d a x_s n f => Sys2Proof.Machine.execSt d a x_s n f s
  | .ldAcq d a x_s e c => Sys2Proof.Machine.execLdAcq d a x_s e c s
  | .stRel d a x_s c => Sys2Proof.Machine.execStRel d a x_s c s
  | .ldlPr d a n f => Sys2Proof.Machine.execLdlPr d a n f s
  | .stlPr d a n f => Sys2Proof.Machine.execStlPr d a n f s
  | .ldNc d a x_s e n f => Sys2Proof.Machine.execLdNc d a x_s e n f s
  | .stNc d a x_s n f => Sys2Proof.Machine.execStNc d a x_s n f s
  | .pf a n f => Sys2Proof.Machine.execPf a n f s
  | .wbk a n f => Sys2Proof.Machine.execWbk a n f s
  | .xlq d a n f => Sys2Proof.Machine.execXlq d a n f s
  | .stz a n f => Sys2Proof.Machine.execStz a n f s
  | .chka d a x_s e n f => Sys2Proof.Machine.execChka d a x_s e n f s
  | .stzl a n f => Sys2Proof.Machine.execStzl a n f s
  | .b a c p => Sys2Proof.Machine.execB a c p s
  | .bN a c p => Sys2Proof.Machine.execBN a c p s
  | .call a c p => Sys2Proof.Machine.execCall a c p s
  | .ret a => Sys2Proof.Machine.execRet a s
  | .jr a b => Sys2Proof.Machine.execJr a b s
  | .loop a p => Sys2Proof.Machine.execLoop a p s
  | .loopN a p => Sys2Proof.Machine.execLoopN a p s
  | .bEq a b p => Sys2Proof.Machine.execBEq a b p s
  | .bNe a b p => Sys2Proof.Machine.execBNe a b p s
  | .bLtS64 a b p => Sys2Proof.Machine.execBLtS64 a b p s
  | .bLtN64 a b p => Sys2Proof.Machine.execBLtN64 a b p s
  | .bGeS64 a b p => Sys2Proof.Machine.execBGeS64 a b p s
  | .bGeN64 a b p => Sys2Proof.Machine.execBGeN64 a b p s
  | .yield => Sys2Proof.Machine.execYield s
  | .nop => Sys2Proof.Machine.execNop s
  | .callr d a => Sys2Proof.Machine.execCallr d a s
  | .jx r q h => Sys2Proof.Machine.execJx r q h s
  | .cx r q h => Sys2Proof.Machine.execCx r q h s
  | .jxr a h q => Sys2Proof.Machine.execJxr a h q s
  | .xret q h => Sys2Proof.Machine.execXret q h s
  | .xend q => Sys2Proof.Machine.execXend q s
  | .send a b p n => Sys2Proof.Machine.execSend a b p n s
  | .sendnb d a b p n => Sys2Proof.Machine.execSendnb d a b p n s
  | .recv d a => Sys2Proof.Machine.execRecv d a s
  | .recvnb d a b => Sys2Proof.Machine.execRecvnb d a b s
  | .chbind d a b => Sys2Proof.Machine.execChbind d a b s
  | .launch d a => Sys2Proof.Machine.execLaunch d a s
  | .spawn d a h q => Sys2Proof.Machine.execSpawn d a h q s
  | .rrepl r g => Sys2Proof.Machine.execRrepl r g s
  | .rreplRet r g => Sys2Proof.Machine.execRreplRet r g s
  | .evbind d a b => Sys2Proof.Machine.execEvbind d a b s
  | .evbindOff d a => Sys2Proof.Machine.execEvbindOff d a s
  | .vclaim d a => Sys2Proof.Machine.execVclaim d a s
  | .vrenew d => Sys2Proof.Machine.execVrenew d s
  | .vadd g m d a b => Sys2Proof.Machine.execVadd g m d a b s
  | .vsub g m d a b => Sys2Proof.Machine.execVsub g m d a b s
  | .vmul g m d a b => Sys2Proof.Machine.execVmul g m d a b s
  | .vmulhS g m d a b => Sys2Proof.Machine.execVmulhS g m d a b s
  | .vmulhN g m d a b => Sys2Proof.Machine.execVmulhN g m d a b s
  | .vdivS g m d a b => Sys2Proof.Machine.execVdivS g m d a b s
  | .vdivN g m d a b => Sys2Proof.Machine.execVdivN g m d a b s
  | .vremS g m d a b => Sys2Proof.Machine.execVremS g m d a b s
  | .vremN g m d a b => Sys2Proof.Machine.execVremN g m d a b s
  | .vand g d a b => Sys2Proof.Machine.execVand g d a b s
  | .vor g d a b => Sys2Proof.Machine.execVor g d a b s
  | .vxor g d a b => Sys2Proof.Machine.execVxor g d a b s
  | .vandn g d a b => Sys2Proof.Machine.execVandn g d a b s
  | .vshl g m d a b => Sys2Proof.Machine.execVshl g m d a b s
  | .vshr g m d a b => Sys2Proof.Machine.execVshr g m d a b s
  | .vsra g m d a b => Sys2Proof.Machine.execVsra g m d a b s
  | .vminS g m d a b => Sys2Proof.Machine.execVminS g m d a b s
  | .vminN g m d a b => Sys2Proof.Machine.execVminN g m d a b s
  | .vmaxS g m d a b => Sys2Proof.Machine.execVmaxS g m d a b s
  | .vmaxN g m d a b => Sys2Proof.Machine.execVmaxN g m d a b s
  | .vcmpeq g m d a b => Sys2Proof.Machine.execVcmpeq g m d a b s
  | .vcmpltS g m d a b => Sys2Proof.Machine.execVcmpltS g m d a b s
  | .vcmpltN g m d a b => Sys2Proof.Machine.execVcmpltN g m d a b s
  | .vsel g d a b => Sys2Proof.Machine.execVsel g d a b s
  | .vclz g m d a => Sys2Proof.Machine.execVclz g m d a s
  | .vpopc g m d a => Sys2Proof.Machine.execVpopc g m d a s
  | .vlea g d a b => Sys2Proof.Machine.execVlea g d a b s
  | .vmov g d a => Sys2Proof.Machine.execVmov g d a s
  | .vbcast g d a => Sys2Proof.Machine.execVbcast g d a s
  | .vredi g d a b => Sys2Proof.Machine.execVredi g d a b s
  | .vshuf g d a b => Sys2Proof.Machine.execVshuf g d a b s
  | .vgext g d a => Sys2Proof.Machine.execVgext g d a s
  | .vfaddF64 g m d a b => Sys2Proof.Machine.execVfaddF64 g m d a b s
  | .vfsubF64 g m d a b => Sys2Proof.Machine.execVfsubF64 g m d a b s
  | .vfmulF64 g m d a b => Sys2Proof.Machine.execVfmulF64 g m d a b s
  | .vfmaF64 g m d a b => Sys2Proof.Machine.execVfmaF64 g m d a b s
  | .vfaddF32 g m d a b => Sys2Proof.Machine.execVfaddF32 g m d a b s
  | .vfsubF32 g m d a b => Sys2Proof.Machine.execVfsubF32 g m d a b s
  | .vfmulF32 g m d a b => Sys2Proof.Machine.execVfmulF32 g m d a b s
  | .vfmaF32 g m d a b => Sys2Proof.Machine.execVfmaF32 g m d a b s
  | .vfaddBf16 g m d a b => Sys2Proof.Machine.execVfaddBf16 g m d a b s
  | .vfmulBf16 g m d a b => Sys2Proof.Machine.execVfmulBf16 g m d a b s
  | .vfmaBf16 g m d a b => Sys2Proof.Machine.execVfmaBf16 g m d a b s
  | .vfaddF16 g m d a b => Sys2Proof.Machine.execVfaddF16 g m d a b s
  | .vfmulF16 g m d a b => Sys2Proof.Machine.execVfmulF16 g m d a b s
  | .vfmaF16 g m d a b => Sys2Proof.Machine.execVfmaF16 g m d a b s
  | .vfmin g m d a b => Sys2Proof.Machine.execVfmin g m d a b s
  | .vfmax g m d a b => Sys2Proof.Machine.execVfmax g m d a b s
  | .vfcmpeq g m d a b => Sys2Proof.Machine.execVfcmpeq g m d a b s
  | .vfcmplt g m d a b => Sys2Proof.Machine.execVfcmplt g m d a b s
  | .vfcmple g m d a b => Sys2Proof.Machine.execVfcmple g m d a b s
  | .vfdiv g m d a b => Sys2Proof.Machine.execVfdiv g m d a b s
  | .vfsqrt g m d a => Sys2Proof.Machine.execVfsqrt g m d a s
  | .vfneg g m d a => Sys2Proof.Machine.execVfneg g m d a s
  | .vfabs g m d a => Sys2Proof.Machine.execVfabs g m d a s
  | .vfclass g m d a => Sys2Proof.Machine.execVfclass g m d a s
  | .vcvt g m d a t x_s => Sys2Proof.Machine.execVcvt g m d a t x_s s
  | .vcvtx g m d a t x_s => Sys2Proof.Machine.execVcvtx g m d a t x_s s
  | .vcvti g m d a t x_s => Sys2Proof.Machine.execVcvti g m d a t x_s s
  | .vcvtf g m d a t x_s => Sys2Proof.Machine.execVcvtf g m d a t x_s s
  | .vdot2 g m d a b => Sys2Proof.Machine.execVdot2 g m d a b s
  | .vdot4 g m d a b => Sys2Proof.Machine.execVdot4 g m d a b s
  | .vdot8 g m d a b => Sys2Proof.Machine.execVdot8 g m d a b s
  | .vfred g m d a o r => Sys2Proof.Machine.execVfred g m d a o r s
  | .vbadd g m d f a b => Sys2Proof.Machine.execVbadd g m d f a b s
  | .vbsub g m d f a b => Sys2Proof.Machine.execVbsub g m d f a b s
  | .vbmul g m d f a b => Sys2Proof.Machine.execVbmul g m d f a b s
  | .vbfma g m d f a b => Sys2Proof.Machine.execVbfma g m d f a b s
  | .vbmax g m d f a b => Sys2Proof.Machine.execVbmax g m d f a b s
  | .vbmin g m d f a b => Sys2Proof.Machine.execVbmin g m d f a b s
  | .vbscale g m d f a b => Sys2Proof.Machine.execVbscale g m d f a b s
  | .vbnorm g m d f a => Sys2Proof.Machine.execVbnorm g m d f a s
  | .vbpack g m d f a b => Sys2Proof.Machine.execVbpack g m d f a b s
  | .vbunpack g m d f a c => Sys2Proof.Machine.execVbunpack g m d f a c s
  | .vsxpack g m d f a => Sys2Proof.Machine.execVsxpack g m d f a s
  | .vsxunpack g m d f a c => Sys2Proof.Machine.execVsxunpack g m d f a c s
  | .vkget g d a => Sys2Proof.Machine.execVkget g d a s
  | .vkset g d a => Sys2Proof.Machine.execVkset g d a s
  | .vbdot g m d f a b => Sys2Proof.Machine.execVbdot g m d f a b s
  | .vbcvt g m d f a x_s => Sys2Proof.Machine.execVbcvt g m d f a x_s s
  | .vldl g m d a e c => Sys2Proof.Machine.execVldl g m d a e c s
  | .vstl g m d a c => Sys2Proof.Machine.execVstl g m d a c s
  | .vld g m d a e c => Sys2Proof.Machine.execVld g m d a e c s
  | .vst g m d a c => Sys2Proof.Machine.execVst g m d a c s
  | .vldAcq g m d a e x_s => Sys2Proof.Machine.execVldAcq g m d a e x_s s
  | .vstRel g m d a x_s => Sys2Proof.Machine.execVstRel g m d a x_s s
  | .vldlq g d a x_s => Sys2Proof.Machine.execVldlq g d a x_s s
  | .vstlq g d a x_s => Sys2Proof.Machine.execVstlq g d a x_s s
  | .vldq g d a x_s => Sys2Proof.Machine.execVldq g d a x_s s
  | .vstq g d a x_s => Sys2Proof.Machine.execVstq g d a x_s s
  | .vpf g a => Sys2Proof.Machine.execVpf g a s
  | .srd g d n => Sys2Proof.Machine.execSrd g d n s
  | .srdnb g d p n => Sys2Proof.Machine.execSrdnb g d p n s
  | .scnt g d n => Sys2Proof.Machine.execScnt g d n s
  | .sdrop g a n => Sys2Proof.Machine.execSdrop g a n s
  | .sreset g n => Sys2Proof.Machine.execSreset g n s
  | .amo d a b z o => Sys2Proof.Machine.execAmo d a b z o s
  | .amocas d a b z => Sys2Proof.Machine.execAmocas d a b z s
  | .amol d a b z o => Sys2Proof.Machine.execAmol d a b z o s
  | .sop d a b z o => Sys2Proof.Machine.execSop d a b z o s
  | .sopCh a => Sys2Proof.Machine.execSopCh a s
  | .fput a b => Sys2Proof.Machine.execFput a b s
  | .fputnb d a b => Sys2Proof.Machine.execFputnb d a b s
  | .ftake d a => Sys2Proof.Machine.execFtake d a s
  | .ftakenb d a b => Sys2Proof.Machine.execFtakenb d a b s
  | .fpeek d a b => Sys2Proof.Machine.execFpeek d a b s
  | .dcset d a b o => Sys2Proof.Machine.execDcset d a b o s
  | .dcadd d a b o => Sys2Proof.Machine.execDcadd d a b o s
  | .dcdec d a b o => Sys2Proof.Machine.execDcdec d a b o s
  | .sopw a b z o => Sys2Proof.Machine.execSopw a b z o s
  | .amonr a b z o => Sys2Proof.Machine.execAmonr a b z o s
  | .sopq d a b z o => Sys2Proof.Machine.execSopq d a b z o s
  | .ccopy a b x_s t w j k q => Sys2Proof.Machine.execCcopy a b x_s t w j k q s
  | .cfence q m => Sys2Proof.Machine.execCfence q m s
  | .mcmd a => Sys2Proof.Machine.execMcmd a s
  | .mgang a => Sys2Proof.Machine.execMgang a s
  | .mresume => Sys2Proof.Machine.execMresume s
  | .mresumeAbort => Sys2Proof.Machine.execMresumeAbort s
  | .mfence m => Sys2Proof.Machine.execMfence m s
  | .mdrain a b o t c => Sys2Proof.Machine.execMdrain a b o t c s
  | .mstat a => Sys2Proof.Machine.execMstat a s
  | .mstatCtx a => Sys2Proof.Machine.execMstatCtx a s
  | .cstat a q => Sys2Proof.Machine.execCstat a q s
  | .cstatDrop a q => Sys2Proof.Machine.execCstatDrop a q s
  | .tmset a b n => Sys2Proof.Machine.execTmset a b n s
  | .tmget a n => Sys2Proof.Machine.execTmget a n s
  | .rgset a b n => Sys2Proof.Machine.execRgset a b n s
  | .rgget a n => Sys2Proof.Machine.execRgget a n s
  | .rgpush a b n => Sys2Proof.Machine.execRgpush a b n s
  | .rgpop a b n => Sys2Proof.Machine.execRgpop a b n s
  | .cwait m => Sys2Proof.Machine.execCwait m s
  | .barbind a b n x_s => Sys2Proof.Machine.execBarbind a b n x_s s
  | .bararr a b n => Sys2Proof.Machine.execBararr a b n s
  | .barwait a n => Sys2Proof.Machine.execBarwait a n s
  | .barwaitnb a b n => Sys2Proof.Machine.execBarwaitnb a b n s
  | .fence x_s => Sys2Proof.Machine.execFence x_s s
  | .fenceAcq x_s => Sys2Proof.Machine.execFenceAcq x_s s
  | .fenceRel x_s => Sys2Proof.Machine.execFenceRel x_s s
  | .tlwait a b => Sys2Proof.Machine.execTlwait a b s
  | .tlwaitnb a b => Sys2Proof.Machine.execTlwaitnb a b s
  | .tladd a b => Sys2Proof.Machine.execTladd a b s
  | .tladdSet a b => Sys2Proof.Machine.execTladdSet a b s
  | .ckgen g d a b => Sys2Proof.Machine.execCkgen g d a b s
  | .ckver g d a b => Sys2Proof.Machine.execCkver g d a b s
  | .ckfold g d a b => Sys2Proof.Machine.execCkfold g d a b s
  | .dqput d a b c => Sys2Proof.Machine.execDqput d a b c s
  | .dxlook d a b x_s k => Sys2Proof.Machine.execDxlook d a b x_s k s
  | .dxadd d a b x_s => Sys2Proof.Machine.execDxadd d a b x_s s
  | .dxseal d a b => Sys2Proof.Machine.execDxseal d a b s
  | .dxquiet d a b => Sys2Proof.Machine.execDxquiet d a b s
  | .dxquietnb d a b => Sys2Proof.Machine.execDxquietnb d a b s
  | .sget d x_s => Sys2Proof.Machine.execSget d x_s s
  | .sset a x_s => Sys2Proof.Machine.execSset a x_s s
  | .scall d a x_s => Sys2Proof.Machine.execScall d a x_s s
  | .pcall d a x_s => Sys2Proof.Machine.execPcall d a x_s s
  | .tret => Sys2Proof.Machine.execTret s
  | .brk x_s => Sys2Proof.Machine.execBrk x_s s
  | .wpset d a k n => Sys2Proof.Machine.execWpset d a k n s
  | .xlinv a x_s => Sys2Proof.Machine.execXlinv a x_s s
  | .xlinvLg a x_s => Sys2Proof.Machine.execXlinvLg a x_s s
  | .xlinvAll x_s => Sys2Proof.Machine.execXlinvAll x_s s
  | .cldw d n => Sys2Proof.Machine.execCldw d n s
  | .cldwW a n => Sys2Proof.Machine.execCldwW a n s
  | .chwr d a c => Sys2Proof.Machine.execChwr d a c s
  | .chrd a c => Sys2Proof.Machine.execChrd a c s
  | .ebrd d a w => Sys2Proof.Machine.execEbrd d a w s
  | .ebrdClr d a w => Sys2Proof.Machine.execEbrdClr d a w s
  | .inj d a x_s => Sys2Proof.Machine.execInj d a x_s s
  | .idle a => Sys2Proof.Machine.execIdle a s
  | .halt => Sys2Proof.Machine.execHalt s
  | .sstep a => Sys2Proof.Machine.execSstep a s
  | .sstepLn a => Sys2Proof.Machine.execSstepLn a s
  | .brkCompact x_i => Sys2Proof.Machine.execBrkCompact x_i s
  | .addCompact d a b => Sys2Proof.Machine.execAddCompact d a b s
  | .subCompact d a b => Sys2Proof.Machine.execSubCompact d a b s
  | .andCompact d a b => Sys2Proof.Machine.execAndCompact d a b s
  | .orCompact d a b => Sys2Proof.Machine.execOrCompact d a b s
  | .xorCompact d a b => Sys2Proof.Machine.execXorCompact d a b s
  | .addiCompact d x_i => Sys2Proof.Machine.execAddiCompact d x_i s
  | .shliCompact d x_i => Sys2Proof.Machine.execShliCompact d x_i s
  | .shriCompact d x_i => Sys2Proof.Machine.execShriCompact d x_i s
  | .sraiCompact d x_i => Sys2Proof.Machine.execSraiCompact d x_i s
  | .andiCompact d x_i => Sys2Proof.Machine.execAndiCompact d x_i s
  | .ldlCompact d a f => Sys2Proof.Machine.execLdlCompact d a f s
  | .stlCompact d a f => Sys2Proof.Machine.execStlCompact d a f s
  | .ldCompact d a f => Sys2Proof.Machine.execLdCompact d a f s
  | .stCompact d a f => Sys2Proof.Machine.execStCompact d a f s
  | .bCompact p => Sys2Proof.Machine.execBCompact p s
  | .bZCompact a p => Sys2Proof.Machine.execBZCompact a p s
  | .bNzCompact a p => Sys2Proof.Machine.execBNzCompact a p s
  | .loopCompact a p => Sys2Proof.Machine.execLoopCompact a p s
  | .vaddCompact d a b c => Sys2Proof.Machine.execVaddCompact d a b c s
  | .vsubCompact d a b c => Sys2Proof.Machine.execVsubCompact d a b c s
  | .vmulCompact d a b c => Sys2Proof.Machine.execVmulCompact d a b c s
  | .vandCompact d a b c => Sys2Proof.Machine.execVandCompact d a b c s
  | .vorCompact d a b c => Sys2Proof.Machine.execVorCompact d a b c s
  | .vxorCompact d a b c => Sys2Proof.Machine.execVxorCompact d a b c s
  | .vmovCompact d a => Sys2Proof.Machine.execVmovCompact d a s
  | .vfaddF32Compact d a b c => Sys2Proof.Machine.execVfaddF32Compact d a b c s
  | .vfmulF32Compact d a b c => Sys2Proof.Machine.execVfmulF32Compact d a b c s
  | .vfmaF32Compact d a b c => Sys2Proof.Machine.execVfmaF32Compact d a b c s
  | .vcmpeqCompact d a b c => Sys2Proof.Machine.execVcmpeqCompact d a b c s
  | .xendCompact => Sys2Proof.Machine.execXendCompact s
  | .xretCompact => Sys2Proof.Machine.execXretCompact s

end Sys2Proof.Machine
end

