-- ==== Sys2Proof/Machine/Perform.lean ====
section
/-! DEFINITION. What each agent does in a step, and what the followers of a paired context do with it (spec/22 R470-R474). -/
namespace Sys2Proof.Machine

/-- A packet is delivered, or refused where it stands; a copy of a multicast comes to its router. -/
noncomputable def State.receive (s : State) (p : Packet) : Host.Outcome State Fault Refusal :=
  let t : State := { s.leavesPort p with agenda := s.agenda.erase p, carried := p.stamp.map fun f => (f, s.placeOf p) }
  match (if s.turnedBack p then t.loseMessage p else none) with
  | some u => .next u
  | none => exec (s.arriving p) (if s.refuses p then t.notCounted p.event else { t with trees := t.trees ++ (p.tree.map (·.2)).toList })
/-- A packet delivered in the same cycle as something else, if it is still on its way. -/
noncomputable def thenReceive (o : Host.Outcome State Fault Refusal) (q : Packet) : Host.Outcome State Fault Refusal :=
  match o with
  | .next t => if t.agenda.contains q then t.receive q else .next t
  | o => o
/-- The flit of a packet comes with its acknowledgement left aside (spec/17 R406). -/
def State.setAckAside (s : State) (q : Packet) : State × Packet :=
  let r : Packet := { q with event := match q.event with
    | .flitReceive p f => .flitReceive p (withoutAck f)
    | e => e }
  ({ s with agenda := s.agenda.map fun x => if x = q then r else x }, r)
/-- What an agent does; the rerun of a pair is `repeatNext`. -/
noncomputable def State.perform (s : State) : Agent → Host.Outcome State Fault Refusal
  | .packet p => s.receive p
  | .reach p => .next (s.reach p)
  | .cross p => .next (s.cross p)
  | .denied p q => let x := s.setAckAside q; thenReceive (x.1.receive x.2) p
  | .own i => exec i (s.beforeOwn i)
  | .both p q => thenReceive (s.receive p) q
  | .ahead i q => thenReceive (exec i (s.beforeOwn i)) q
  | .issue c slot =>
    match (s.choose c slot).fetch with
    | .ok i => exec i (s.choose c slot)
    | .error e => .next ((s.choose c slot).takeTrap e)
  | .ending c slot =>
    let t := (s.choose c slot).atLevelZero
    match t.fetch with
    | .ok i =>
      match exec i t with
      | .next u => .next (u.levelBack c (s.core c))
      | o => o
    | .error e => .next ((t.takeTrap e).levelBack c (s.core c))
  | .again _ => .next s
  | .boot p => .next (s.bootNext p)

/-! ### Pairs (spec/22 R470-R474) -/

/-- The packets of an agent. -/
def Agent.packets : Agent → List Packet
  | .packet p | .reach p | .cross p | .ahead _ p => [p]
  | .both p q | .denied p q => [p, q]
  | _ => []
/-- An instruction that a core issues, as against what comes from outside. -/
def Agent.issues : Agent → Bool
  | .issue _ _ | .ending _ _ => true
  | _ => false
/-- What a member makes of something passed: the core it becomes. Nothing else of the step leaves the pair. -/
noncomputable def State.member (s : State) (c : Nat) (e : Passed) : Core × List (ArrayRef × Nat × Bool) :=
  let t : State := { s with nextTag := e.tag, agenda := s.agenda ++ e.agent.packets.filter fun p => !s.agenda.contains p }
  match t.perform e.agent with
  | .next u =>
    let k := u.core c
    (if engineWork e.agent then { k with mem := (s.core c).mem.takeWords e.words } else k, u.upsets.filter fun x => (ownerOfArray [c] x.1 x.2.1).isSome)
  | _ => (s.core c, [])
/-- The follower does what its leader has done from `k` to `k'`; both fingerprints go on. An error that the follower's bank records is
written by the recorder too. -/
noncomputable def State.follow (s : State) (before : State) (c : Nat) (e : Passed) (keep : Bool) : State :=
  let w := before.twin c
  let k := before.core c
  let (f, upsets) := (before.asFollower c).member c e
  let own := e.agent.issues
  let k' := s.core c
  let last := if own then before.clock else k.pair.last
  let t := (s.modCore c fun x => { x with pair := { x.pair with last } }).setFollower c f
  let x := t.twin c
  let t := t.setTwin c { x with
    upsets, log := if keep then w.log ++ [e] else w.log,
    print := (pairRecords own k k').foldl printed w.print, otherPrint := (pairRecords own w.follower f).foldl printed w.otherPrint }
  if f.bank = w.follower.bank then t else t.recordCore c 0x02 f.bank.words
/-- What a step does in a paired context: a pair event waits until the open interval has agreed (R474); everything else that changes a
leader is passed to its follower. -/
noncomputable def State.inPairs (s : State) (a : Agent) (t : State) : State :=
  let cs := s.pairsOn.filter fun c => (t.core c).pair.on && s.core c ≠ t.core c
  let open' := cs.filter fun c => !s.agreed c && pairEvent (s.core c) (t.core c)
  if !open'.isEmpty then open'.foldl State.closeFirst s
  else if closesInterval a then t
  else cs.foldl (fun u c => u.follow s c ⟨s.nextTag, a, if engineWork a then wordsPassed (s.core c).mem (t.core c).mem else []⟩ true) t
noncomputable def State.pairedOutcome (s : State) (a : Agent) : Host.Outcome State Fault Refusal → Host.Outcome State Fault Refusal
  | .next t => .next (if s.ctx.paired then s.inPairs a t else t)
  | o => o
/-- A pair runs the next step of its interval again: both members, from the leader's log (R473). Requests have left and replies have
come in the first run, so nothing leaves but what the new gate holds. -/
noncomputable def State.repeatNext (s : State) (c : Nat) : State :=
  let w := s.twin c
  match w.again with
  | [] => s
  | e :: rest =>
    let (k, _) := s.member c e
    let t := (s.setCore c k).follow s c e false
    t.setTwin c { t.twin c with again := rest }

end Sys2Proof.Machine
end

