-- ==== Sys2Proof/Machine/Step.lean ====
section
/-! DEFINITION. One step: what happens next (Machine/Agents.lean), its instruction performed, and the cycle's passing. -/
namespace Sys2Proof.Machine

/-- A step with the cycle's passing. -/
def passed (s : State) : Host.Outcome State Fault Refusal → Host.Outcome State Fault Refusal
  | .next t => .next (t.tick s)
  | o => o
/-- One step of the machine: one agent acts, or the cycle passes with nothing done. -/
noncomputable def step (s : State) : Host.Outcome State Fault Refusal :=
  match s.agent with
  | none => .next (s.tick s)
  | some (.again c) => passed s (.next (s.repeatNext c))
  | some a => passed s (s.pairedOutcome a (s.perform a))

/-- The instruction stored where the next step fetches it: one gang stands at it, and nothing else can happen (log 6). -/
def State.withFetchWord (s : State) (nbits w : Nat) : State := (s.standing (if nbits ≤ 16 then 1 else 2)).store nbits w

end Sys2Proof.Machine
end

