-- ==== Sys2Proof/Safety.lean ====
section
/-! DEFINITION. What counts as a safe step and a well-formed state, and the words that claims are stated in: when an
instruction is ready, and what the state is after it has completed. -/
namespace Sys2Proof

open Machine

/-- The memories of a state hold their canonical form: addresses strictly rising, no entry equal to what an unlisted
address reads as. Global memory, every core's local memory, those of the cores in a save area, and those of followers and of what a pair's
roll back restores. -/
def Machine.State.memWf (s : Machine.State) : Bool :=
  s.mem.wf && (s.cores.all fun e => e.2.mem.wf) && (s.ctx.savedCores.all fun e => e.2.mem.wf) &&
    (s.twins.all fun e => e.2.follower.mem.wf && e.2.base.mem.wf && e.2.otherBase.mem.wf)
/-- An outcome that is a next state. -/
def isNext {σ φ ρ : Type} : Host.Outcome σ φ ρ → Bool
  | .next _ => true
  | _ => false
/-- No step of the machine stops with a fault: the spec gives every case an outcome (spec/00 R12). -/
def Machine.neverFaults : Prop := ∀ s f, Machine.step s ≠ .fault f

namespace Spec

/-- The state after the instruction in Q0 has completed with its effects in `t`: the queue has advanced, RETIRED and its
counter have risen, a step request is used up, and the causes that come after the instruction are taken (spec/04 R114,
spec/12 R298, R307). -/
def retired (s t : State) (after : List Cause := []) : State := (t.retire none).clearStep.takeAfter (after ++ s.stepCause)
/-- The same after a taken local transfer: `target` enters the queue (spec/04 R114). -/
def jumped (s t : State) (target : BitVec 32) : State := (t.retire (some target)).clearStep.takeAfter s.stepCause
/-- The state after an Operation that leaves the queue as it is: the slot that issued is the core's last (spec/16 R373). -/
def stayed (s t : State) : State := t.modMe fun k => if s.me.slot < 4 then { k with lastSlot := s.me.slot } else k
/-- An instruction completes: its own effects are those of `t`. -/
def Completes (i : Instr) (s t : State) (after : List Cause := []) : Prop := Machine.exec i s = .next (retired s t after)
/-- A local transfer completes, taken. -/
def Jumps (i : Instr) (s t : State) (target : BitVec 32) : Prop := Machine.exec i s = .next (jumped s t target)

/-- An instruction asks, or does a first part of its work, and goes on later: its gang waits in the state `t` (spec/04 R98). An
instruction that waits for an answer whose request a pair's gate holds closes the open interval (spec/22 R471). -/
def Waits (i : Instr) (s t : State) : Prop :=
  Machine.exec i s = .next ((if t.waitsForGate then t.closing else t).modGang fun g => { g with waiting := true })

/-- An event of the table happens: its effect is `t`. -/
def Does (e : Instr) (s t : State) : Prop := Machine.exec e s = .next t

/-- The gang registers `all` await no reply, and those of `uses` carry no poison (spec/04 R98, spec/22 R466). -/
def Ready (s : State) (uses all : List (BitVec 4)) : Prop :=
  (∀ n ∈ all, s.me.pendG n.toNat = false) ∧ ∀ n ∈ uses, s.me.poisonG n.toNat = false
/-- In the lanes `is` the operands `all` await no reply and those of `uses` carry no poison, and no lane's predicate `p` is
poisoned (spec/09 R205, spec/22 R466). -/
def LanesReady (s : State) (p : BitVec 3) (is uses all : List Nat) : Prop :=
  (∀ i ∈ is, ∀ n ∈ all, (s.gang.lane i).pending n = false) ∧ s.gang.guardPoison p = false ∧
    ∀ i ∈ is, ∀ n ∈ uses, (s.gang.lane i).bad n = false
/-- The state with some lanes of the acting gang changed. -/
def inLanes (s : State) (is : List Nat) (f : Nat → Lane → Lane) : State := s.modGang (·.mapLanes is f)
/-- A destination and `lt` written in the lanes of a guard (spec/01 R31, spec/09 R204). -/
def perLane (s : State) (p : BitVec 3) (d : BitVec 6) (f : Nat → Lane → Word) : State :=
  inLanes s (s.gang.guard p) fun i l => l.write d.toNat (f i l) false
/-- An access of the acting gang may go ahead: no acquire is outstanding, no release fence holds stores back, no lane waits
for a register that arrived pending, and the core has room for one more load and one more store (spec/04 R108, R109;
spec/10 R252; spec/15 R358). -/
def Open (s : State) : Prop :=
  s.me.acquiring = false ∧ s.me.fenced = false ∧ s.gang.arrivedPending s.gang.indices = false ∧
    s.me.loadRoom 1 = true ∧ s.me.storeRoom 1 = true
/-- The core's request send queue has room for a store (spec/04 R109, spec/17 R396). -/
def Queued (s : State) : Prop := s.me.sendReq.length + s.heldBy (.core s.cur) < 8
/-- The gang holds nothing over from an earlier part of its instruction. -/
def Fresh (s : State) : Prop := s.gang.phase = .none
/-- No step request is pending for the acting gang. -/
def Unstepped (s : State) : Prop := s.gang.step = .off ∧ s.gang.stepDebug = false

end Spec

end Sys2Proof
end

