-- ==== Sys2Proof/Certificates/Slice0/Obligations.lean ====
section
/-! DEFINITION. What is stated of the model for the provers. The words of Sys2Proof/Safety.lean are used throughout; each
statement's docstring names the rules that it formalises. -/

section

open Sys2Proof Sys2Proof.Machine Sys2Proof.Spec


/-- Every three-register instruction of Table 4-2 (spec/04 R100) writes its result to `gD` and retires, from every state in
which its registers await no reply and its sources carry no poison; `add` with B = 0 is `mov`, which copies poison
(spec/22 R465).

`mov`, the two-register instructions of Table 4-2, and `bfi`, which also reads `gD` (spec/04 R100). -/
def Obligations.GangRegisterFormsComplete : Prop :=
  (∀ (s : State) (d a b : BitVec 4), Ready s [a, b] [d, a, b] →
     (b ≠ 0 → Completes (.add d a b) s (s.writeG d (s.readG a + s.readG b))) ∧
     Completes (.mul d a b) s (s.writeG d (s.readG a * s.readG b)) ∧
     Completes (.mulhS64 d a b) s (s.writeG d (mulHighS (s.readG a) (s.readG b))) ∧
     Completes (.mulhN64 d a b) s (s.writeG d (mulHighN (s.readG a) (s.readG b))) ∧
     Completes (.divS64 d a b) s (s.writeG d (quotS (s.readG a) (s.readG b))) ∧
     Completes (.divN64 d a b) s (s.writeG d (quotN (s.readG a) (s.readG b))) ∧
     Completes (.remS64 d a b) s (s.writeG d (remS (s.readG a) (s.readG b))) ∧
     Completes (.remN64 d a b) s (s.writeG d (remN (s.readG a) (s.readG b))) ∧
     Completes (.sub d a b) s (s.writeG d (s.readG a - s.readG b)) ∧
     Completes (.and d a b) s (s.writeG d (s.readG a &&& s.readG b)) ∧
     Completes (.or d a b) s (s.writeG d (s.readG a ||| s.readG b)) ∧
     Completes (.xor d a b) s (s.writeG d (s.readG a ^^^ s.readG b)) ∧
     Completes (.andn d a b) s (s.writeG d (s.readG a &&& ~~~s.readG b)) ∧
     Completes (.shl d a b) s (s.writeG d (s.readG a <<< ((s.readG b).toNat % 64))) ∧
     Completes (.shr d a b) s (s.writeG d (s.readG a >>> ((s.readG b).toNat % 64))) ∧
     Completes (.sra d a b) s (s.writeG d ((s.readG a).sshiftRight ((s.readG b).toNat % 64))) ∧
     Completes (.rol d a b) s (s.writeG d ((s.readG a).rotateLeft ((s.readG b).toNat % 64))) ∧
     Completes (.minS64 d a b) s (s.writeG d (if (s.readG b).toInt < (s.readG a).toInt then s.readG b else s.readG a)) ∧
     Completes (.maxS64 d a b) s (s.writeG d (if (s.readG a).toInt < (s.readG b).toInt then s.readG b else s.readG a)) ∧
     Completes (.minN64 d a b) s (s.writeG d (if (s.readG b).toNat < (s.readG a).toNat then s.readG b else s.readG a)) ∧
     Completes (.maxN64 d a b) s (s.writeG d (if (s.readG a).toNat < (s.readG b).toNat then s.readG b else s.readG a)) ∧
     Completes (.seq d a b) s (s.writeG d (if s.readG a = s.readG b then 1 else 0)) ∧
     Completes (.sltS64 d a b) s (s.writeG d (if (s.readG a).toInt < (s.readG b).toInt then 1 else 0)) ∧
     Completes (.sltN64 d a b) s (s.writeG d (if (s.readG a).toNat < (s.readG b).toNat then 1 else 0)) ∧
     (∀ k : BitVec 2, Completes (.lea d a b k) s (s.writeG d (s.readG a + s.readG b * BitVec.ofNat 64 (2 ^ k.toNat)))) ∧
     ∀ n : BitVec 6, Completes (.bfx d a b n) s
       (s.writeG d (w64 ((s.readG a).toNat / 2 ^ ((s.readG b).toNat % 64) % 2 ^ (n.toNat + 1))))) ∧
  (∀ (s : State) (d a : BitVec 4),
     (Ready s [] [d, a] → Completes (.add d a 0) s (s.writeG d (s.readG a) (s.me.poisonG a.toNat))) ∧
     (Ready s [a] [d, a] →
       Completes (.clz d a) s (s.writeG d (w64 (leadingZeros (s.readG a)))) ∧
       Completes (.ctz d a) s (s.writeG d (w64 (trailingZeros (s.readG a)))) ∧
       Completes (.popc d a) s (s.writeG d (w64 (oneBits (s.readG a)))) ∧
       ∀ n : BitVec 6,
         Completes (.sext d a n) s (s.writeG d ((BitVec.ofNat (n.toNat + 1) (s.readG a).toNat).signExtend 64)) ∧
         Completes (.zext d a n) s (s.writeG d (w64 ((s.readG a).toNat % 2 ^ (n.toNat + 1))))) ∧
     ∀ (b : BitVec 4) (n : BitVec 6), Ready s [a, b, d] [d, a, b, d] →
       Completes (.bfi d a b n) s
         (s.writeG d (insertBits (s.readG d) (s.readG a) ((s.readG b).toNat % 64) (n.toNat + 1))))


/-- The immediate instructions of Table 4-3 (spec/04 R102) and `movw` and `movk` (R103) write their result to `gD` and
retire.

The compact gang instructions of Table 3-7 (spec/03 R88) complete as their 32-bit aliases do: IMM7 is sign-extended in
`addi` and zero-extended in `andi`. -/
def Obligations.GangImmediateFormsComplete : Prop :=
  (∀ (s : State) (d a : BitVec 4),
     (Ready s [a] [d, a] →
       (∀ i : BitVec 15,
         Completes (.addi d a i) s (s.writeG d (s.readG a + i.signExtend 64)) ∧
         Completes (.muli d a i) s (s.writeG d (s.readG a * i.signExtend 64)) ∧
         Completes (.andi d a i) s (s.writeG d (s.readG a &&& i.setWidth 64)) ∧
         Completes (.ori d a i) s (s.writeG d (s.readG a ||| i.setWidth 64)) ∧
         Completes (.xori d a i) s (s.writeG d (s.readG a ^^^ i.setWidth 64)) ∧
         Completes (.seqi d a i) s (s.writeG d (if s.readG a = i.signExtend 64 then 1 else 0)) ∧
         Completes (.sltiS64 d a i) s (s.writeG d (if (s.readG a).toInt < (i.signExtend 64).toInt then 1 else 0)) ∧
         Completes (.sltiN64 d a i) s (s.writeG d (if (s.readG a).toNat < (i.signExtend 64).toNat then 1 else 0)) ∧
         Completes (.rsbi d a i) s (s.writeG d (i.signExtend 64 - s.readG a)) ∧
         Completes (.miniS64 d a i) s (s.writeG d (if (i.signExtend 64).toInt < (s.readG a).toInt then i.signExtend 64 else s.readG a)) ∧
         Completes (.maxiS64 d a i) s (s.writeG d (if (s.readG a).toInt < (i.signExtend 64).toInt then i.signExtend 64 else s.readG a))) ∧
       ∀ i : BitVec 6,
         Completes (.shli d a i) s (s.writeG d (s.readG a <<< i.toNat)) ∧
         Completes (.shri d a i) s (s.writeG d (s.readG a >>> i.toNat)) ∧
         Completes (.srai d a i) s (s.writeG d ((s.readG a).sshiftRight i.toNat))) ∧
     ∀ (h : BitVec 2) (i : BitVec 16),
       (Ready s [] [d] → Completes (.movw d h i) s (s.writeG d (i.setWidth 64 <<< (16 * h.toNat)))) ∧
       (Ready s [d] [d, d] → Completes (.movk d h i) s (s.writeG d
         ((s.readG d &&& ~~~(0xFFFF#64 <<< (16 * h.toNat))) ||| (i.setWidth 64 <<< (16 * h.toNat)))))) ∧
  (∀ (s : State) (d a b : BitVec 3),
     (Ready s [a.setWidth 4, b.setWidth 4] [d.setWidth 4, a.setWidth 4, b.setWidth 4] →
       (b ≠ 0 → Completes (.addCompact d a b) s
         (s.writeG (d.setWidth 4) (s.readG (a.setWidth 4) + s.readG (b.setWidth 4)))) ∧
       Completes (.subCompact d a b) s (s.writeG (d.setWidth 4) (s.readG (a.setWidth 4) - s.readG (b.setWidth 4))) ∧
       Completes (.andCompact d a b) s (s.writeG (d.setWidth 4) (s.readG (a.setWidth 4) &&& s.readG (b.setWidth 4))) ∧
       Completes (.orCompact d a b) s (s.writeG (d.setWidth 4) (s.readG (a.setWidth 4) ||| s.readG (b.setWidth 4))) ∧
       Completes (.xorCompact d a b) s (s.writeG (d.setWidth 4) (s.readG (a.setWidth 4) ^^^ s.readG (b.setWidth 4)))) ∧
     (Ready s [d.setWidth 4] [d.setWidth 4, d.setWidth 4] →
       (∀ i : BitVec 7,
         Completes (.addiCompact d i) s (s.writeG (d.setWidth 4) (s.readG (d.setWidth 4) + i.signExtend 64)) ∧
         Completes (.andiCompact d i) s (s.writeG (d.setWidth 4) (s.readG (d.setWidth 4) &&& i.setWidth 64))) ∧
       ∀ i : BitVec 6,
         Completes (.shliCompact d i) s (s.writeG (d.setWidth 4) (s.readG (d.setWidth 4) <<< i.toNat)) ∧
         Completes (.shriCompact d i) s (s.writeG (d.setWidth 4) (s.readG (d.setWidth 4) >>> i.toNat)) ∧
         Completes (.sraiCompact d i) s (s.writeG (d.setWidth 4) ((s.readG (d.setWidth 4)).sshiftRight i.toNat))))

/-- A conditional form that is ready: the register of conditions 1 to 4 awaits no reply and carries no poison, the predicate
of conditions 5 to 7 carries none. -/
def Sys2Proof.Spec.CondReady (s : State) (a : BitVec 4) (c : BitVec 3) : Prop :=
  Ready s (condReads c a) (condReads c a) ∧ s.condPoison c (a.toNat % 8) = false

/-- A target that lies in the current routine (spec/04 R121). -/
def Sys2Proof.Spec.InRoutine (s : State) (t : Int) : Prop := 0 ≤ t ∧ t < (s.me.lengthOf s.gang.q0 : Int)

/-- The code address of an offset in the current routine. -/
def Sys2Proof.Spec.hereAt (s : State) (t : Int) : BitVec 32 := codeAddr (routineOf s.gang.q0) t.toNat

/-- The link of a call: the address after the call and its two slots (spec/04 R120). -/
def Sys2Proof.Spec.linkOf (s : State) : Word := (s.me.succ (s.me.succ (s.me.succ s.gang.q0))).setWidth 64

/-- The conditional transfers of Table 4-5 (spec/04 R119, R120, R115): taken, the target enters the queue and `call` writes
the link to `g15`; not taken, they fall through, and `b.n` annuls both slots. -/
def Obligations.BranchesAndCallsComplete : Prop :=
  ∀ (s : State) (a : BitVec 4) (c : BitVec 3) (p : BitVec 16) (t : Int),
    Spec.CondReady s a c → t = (offsetOf s.gang.q0 : Int) + p.toInt →
    (condition c.toNat (s.readG a) s.gang (a.toNat % 8) = true → Spec.InRoutine s t →
      Jumps (.b a c p) s s (Spec.hereAt s t) ∧ Jumps (.bN a c p) s s (Spec.hereAt s t) ∧
      (s.me.pendG 15 = false → Jumps (.call a c p) s (s.writeG 15 (Spec.linkOf s)) (Spec.hereAt s t))) ∧
    (condition c.toNat (s.readG a) s.gang (a.toNat % 8) = false →
      Completes (.b a c p) s s ∧ Completes (.call a c p) s s ∧
      Completes (.bN a c p) s (s.modGang fun g => { g with ann1 := true, ann2 := true }))


/-- The transfers that always go, the loops, and the compare branches of Table 4-5, with `yield` and `nop` (spec/04
R119-R122).

The compact transfers of Table 3-7 (spec/03 R88): `b`, `b.z`, `b.nz` and `loop`, with their displacements
sign-extended. -/
def Obligations.JumpsLoopsComparesComplete : Prop :=
  ((∀ (s : State) (a : BitVec 4) (off : Nat), Ready s [a] [a] → off < 8192 → off < s.me.lengthOf s.gang.q0 →
     s.readG a = w64 (routineOf s.gang.q0 * 65536 + off) → Jumps (.ret a) s s (codeAddr (routineOf s.gang.q0) off)) ∧
   (∀ (s : State) (a b : BitVec 4), Ready s [a, b] [a, b] → Spec.InRoutine s ((s.readG a + s.readG b).toNat : Int) →
     Jumps (.jr a b) s s (Spec.hereAt s ((s.readG a + s.readG b).toNat : Int))) ∧
   (∀ (s : State) (d a : BitVec 4), Ready s [a] [d, a] → Spec.InRoutine s ((s.readG a).toNat : Int) →
     Jumps (.callr d a) s (s.writeG d (Spec.linkOf s)) (Spec.hereAt s ((s.readG a).toNat : Int))) ∧
   (∀ (s : State) (a : BitVec 4) (p : BitVec 16) (t : Int), Ready s [a] [a] → t = (offsetOf s.gang.q0 : Int) + p.toInt →
     (s.readG a - 1 ≠ 0 → Spec.InRoutine s t →
       Jumps (.loop a p) s (s.writeG a (s.readG a - 1)) (Spec.hereAt s t) ∧
       Jumps (.loopN a p) s (s.writeG a (s.readG a - 1)) (Spec.hereAt s t)) ∧
     (s.readG a - 1 = 0 →
       Completes (.loop a p) s (s.writeG a (s.readG a - 1)) ∧
       Completes (.loopN a p) s ((s.writeG a (s.readG a - 1)).modGang fun g => { g with ann1 := true, ann2 := true }))) ∧
   (∀ (s : State) (a b : BitVec 4) (p : BitVec 15) (t : Int), Ready s [a, b] [a, b] →
     t = (offsetOf s.gang.q0 : Int) + p.toInt →
     let go (i : Instr) (r : Prop) : Prop := (r → Spec.InRoutine s t → Jumps i s s (Spec.hereAt s t)) ∧ (¬r → Completes i s s)
     go (.bEq a b p) (s.readG a = s.readG b) ∧ go (.bNe a b p) (s.readG a ≠ s.readG b) ∧
     go (.bLtS64 a b p) ((s.readG a).toInt < (s.readG b).toInt) ∧ go (.bLtN64 a b p) ((s.readG a).toNat < (s.readG b).toNat) ∧
     go (.bGeS64 a b p) ((s.readG b).toInt ≤ (s.readG a).toInt) ∧ go (.bGeN64 a b p) ((s.readG b).toNat ≤ (s.readG a).toNat)) ∧
   ∀ s : State, Completes .nop s s ∧ Completes .yield s (s.modGang fun g => { g with yielded := true })) ∧
  ((∀ (s : State) (p : BitVec 10) (t : Int), t = (offsetOf s.gang.q0 : Int) + p.toInt → Spec.InRoutine s t →
     Jumps (.bCompact p) s s (Spec.hereAt s t)) ∧
   ∀ (s : State) (a : BitVec 3) (p : BitVec 7) (t : Int), Ready s [a.setWidth 4] [a.setWidth 4] →
     t = (offsetOf s.gang.q0 : Int) + p.toInt →
     let v := s.readG (a.setWidth 4)
     (v = 0 → Completes (.bNzCompact a p) s s ∧ (Spec.InRoutine s t → Jumps (.bZCompact a p) s s (Spec.hereAt s t))) ∧
     (v ≠ 0 → Completes (.bZCompact a p) s s ∧ (Spec.InRoutine s t → Jumps (.bNzCompact a p) s s (Spec.hereAt s t))) ∧
     (v - 1 ≠ 0 → Spec.InRoutine s t → Jumps (.loopCompact a p) s (s.writeG (a.setWidth 4) (v - 1)) (Spec.hereAt s t)) ∧
     (v - 1 = 0 → Completes (.loopCompact a p) s (s.writeG (a.setWidth 4) (v - 1))))

/-- Which lane a step request selects (spec/12 R307). -/
def Sys2Proof.Spec.stepLane (g : Gang) : Option Nat :=
  match g.step with
  | .lane i => some i
  | _ => none

/-- A transfer elsewhere under way from here: two slots follow it (spec/06 R135). -/
def Sys2Proof.Spec.setOff (s : State) (kind : XferKind) (p : BitVec 3) (home : Bool) : State :=
  s.modMe (·.setXfer (some { kind, pred := p, home, link := s.me.succ (s.me.succ (s.me.succ s.gang.q0)), left := 3,
                             packed := false, held := [], only := Spec.stepLane s.gang }))

/-- `jx`, `cx`, `jxr`, `xret` and `xend`, and the compact `xret` and `xend`, outside the slots of another of them, set off a
transfer elsewhere: the strands leave at the boundary after the two slots (spec/06 R135, R136).
(The model's choices in it: log 13.) -/
def Obligations.TransfersElsewhereComplete : Prop :=
  ∀ (s : State) (r : BitVec 16) (a : BitVec 4) (q : BitVec 3) (h : BitVec 1), s.me.xfer = none →
    Completes (.jx r q h) s (Spec.setOff s (.jx r) q (h = 1)) ∧
    Completes (.cx r q h) s (Spec.setOff s (.cx r) q (h = 1)) ∧
    Completes (.jxr a h q) s (Spec.setOff s (.jxr a) q (h = 1)) ∧
    Completes (.xret q h) s (Spec.setOff s .xret q (h = 1)) ∧
    Completes (.xend q) s (Spec.setOff s .xend q false) ∧
    Completes .xretCompact s (Spec.setOff s .xret 0 false) ∧
    Completes .xendCompact s (Spec.setOff s .xend 0 false)

/-- A check that lets the access go: it names a core's window or a physical address (spec/01 R39). -/
def Sys2Proof.Spec.Reaches (k : Chk) : Prop := (∃ c off, k = .core c off) ∨ ∃ pa e, k = .phys pa e

/-- Local loads and stores of a gang (spec/04 R104-R107) at an aligned offset inside local memory: the data, zero- or
sign-extended, reach the registers, and the low bytes of the registers reach memory, with their poison; the compact forms
are the 8-byte ones at OFF4 times 8. -/
def Obligations.LocalGangAccessesComplete : Prop :=
  ∀ (s : State) (d a : BitVec 4), s.me.acquiring = false → s.me.fenced = false →
    (∀ (z : BitVec 2) (e n : BitVec 1) (f : BitVec 11) (ea : Word) (size : Nat),
      ea = s.eaM a n f → size = 2 ^ z.toNat → Ready s (eaReads a n f) (d :: eaReads a n f) →
      ea.toNat < 0x18000 → ea.toNat % size = 0 →
      Completes (.ldl d a z e n f) s ((s.scanLocal s.cur ea.toNat size).loadLocal size (e = 1) [(d, ea.toNat)])
        (s.watch true (s.seenLocal ea size true)) ∧
      Completes (.stl d a z n f) s (s.storeLocal [⟨ea.toNat, size, s.readG d, s.me.poisonG d.toNat⟩])
        (s.watch true (s.seenLocal ea size false))) ∧
    (∀ (n : BitVec 1) (f : BitVec 11) (ea : Word), ea = s.eaM a n f →
      Ready s (eaReads a n f) (d :: (d + 1) :: eaReads a n f) → ea.toNat < 0x18000 → ea.toNat % 16 = 0 →
      Completes (.ldlPr d a n f) s
        ((s.scanLocal s.cur ea.toNat 16).loadLocal 8 false [(d, ea.toNat), (d + 1, ea.toNat + 8)])
        (s.watch true (s.seenLocal ea 16 true)) ∧
      Completes (.stlPr d a n f) s
        (s.storeLocal [⟨ea.toNat, 8, s.readG d, s.me.poisonG d.toNat⟩,
                       ⟨ea.toNat + 8, 8, s.readG (d + 1), s.me.poisonG (d + 1).toNat⟩])
        (s.watch true (s.seenLocal ea 16 false))) ∧
    (∀ (n : BitVec 1) (f : BitVec 11) (ea : Word), ea = s.eaM a n f → Ready s (eaReads a n f) (eaReads a n f) →
      ea.toNat < 0x18000 → ea.toNat % 64 = 0 →
      Completes (.stzl a n f) s (s.storeLocal ((List.range 8).map fun i => ⟨ea.toNat + 8 * i, 8, 0, false⟩))
        (s.watch true (s.seenLocal ea 64 false))) ∧
    ∀ (x y : BitVec 3) (o : BitVec 4) (ea : Word), ea = s.readG (y.setWidth 4) + w64 (8 * o.toNat) →
      Ready s [y.setWidth 4] [x.setWidth 4, y.setWidth 4] → ea.toNat < 0x18000 → ea.toNat % 8 = 0 →
      Completes (.ldlCompact x y o) s ((s.scanLocal s.cur ea.toNat 8).loadLocal 8 false [(x.setWidth 4, ea.toNat)])
        (s.watch true (s.seenLocal ea 8 true)) ∧
      Completes (.stlCompact x y o) s
        (s.storeLocal [⟨ea.toNat, 8, s.readG (x.setWidth 4), s.me.poisonG (x.setWidth 4).toNat⟩])
        (s.watch true (s.seenLocal ea 8 false))


/-- Loads and stores of a gang in global and core space (spec/04 R108-R110) whose checks pass: a load takes an entry of the
table and leaves `gD` pending; a store leaves and raises USC; `ld.acq` holds later accesses back, `st.rel` goes when every
earlier access is performed and USC is zero.

`pf` never traps; `wbk` of a block whose page grants RD or WR leaves for its home and counts in USC; `xlq` and `chka` write
what the checks find (spec/04 R111, R112). -/
def Obligations.GlobalGangAccessesComplete : Prop :=
  (∀ (s : State) (d a : BitVec 4), Open s →
     (∀ (z : BitVec 2) (e n : BitVec 1) (f : BitVec 11) (ea : Word) (size : Nat) (k : Chk),
       ea = s.eaM a n f → size = 2 ^ z.toNat → Ready s (eaReads a n f) (d :: eaReads a n f) → Spec.Reaches k →
       (s.check ea size size false 0 = k →
         Completes (.ld d a z e n f) s (s.startLoad d size (e = 1) false k) (s.watch true [⟨0, ea, size, true, false⟩]) ∧
         Completes (.ldNc d a z e n f) s (s.startLoad d size (e = 1) false k) (s.watch true [⟨0, ea, size, true, false⟩])) ∧
       (s.check ea size size true 1 = k → Queued s →
         let t := s.sendStore s.gang.uids k.home (.store [⟨k.at, size, s.readG d, s.me.poisonG d.toNat⟩])
         Completes (.st d a z n f) s t (s.watch true [⟨0, ea, size, false, true⟩]) ∧
         Completes (.stNc d a z n f) s t (s.watch true [⟨0, ea, size, false, true⟩]))) ∧
     (∀ (z : BitVec 2) (e : BitVec 1) (c : BitVec 3) (size : Nat) (k : Chk), size = 2 ^ z.toNat → Ready s [a] [d, a] →
       Spec.Reaches k →
       (s.check (s.readG a) size size false 0 = k → Completes (.ldAcq d a z e c) s (s.startLoad d size (e = 1) true k)
         (s.watch true [⟨0, s.readG a, size, true, false⟩])) ∧
       (s.check (s.readG a) size size true 1 = k → s.me.drained = true → Queued s →
         Completes (.stRel d a z c) s (s.sendStore s.gang.uids k.home (.store [⟨k.at, size, s.readG d, s.me.poisonG d.toNat⟩]))
           (s.watch true [⟨0, s.readG a, size, false, true⟩]))) ∧
     (∀ (n : BitVec 1) (f : BitVec 11) (ea : Word) (k : Chk), ea = s.eaM a n f →
       Ready s (eaReads a n f) (eaReads a n f) → s.check ea 64 64 true 1 = k → Spec.Reaches k → Queued s →
       Completes (.stz a n f) s
         (s.sendStore s.gang.uids k.home (.store ((List.range 8).map fun i => ⟨k.at + 8 * i, 8, 0, false⟩)))
         (s.watch true [⟨0, ea, 64, false, true⟩])) ∧
     ∀ (x y : BitVec 3) (o : BitVec 4) (ea : Word) (k : Chk), ea = s.readG (y.setWidth 4) + w64 (8 * o.toNat) →
       Ready s [y.setWidth 4] [x.setWidth 4, y.setWidth 4] → Spec.Reaches k →
       (s.check ea 8 8 false 0 = k → Completes (.ldCompact x y o) s (s.startLoad (x.setWidth 4) 8 false false k)
         (s.watch true [⟨0, ea, 8, true, false⟩])) ∧
       (s.check ea 8 8 true 1 = k → Queued s → Completes (.stCompact x y o) s
         (s.sendStore s.gang.uids k.home (.store [⟨k.at, 8, s.readG (x.setWidth 4), s.me.poisonG (x.setWidth 4).toNat⟩]))
         (s.watch true [⟨0, ea, 8, false, true⟩]))) ∧
  (∀ (s : State) (d a : BitVec 4) (n : BitVec 1) (f : BitVec 11) (ea : Word), ea = s.eaM a n f →
     (Ready s [] (eaReads a n f) → Completes (.pf a n f) s s) ∧
     (Ready s (eaReads a n f) (eaReads a n f) → Open s → badForm ea = false →
       (inCoreSpace ea = true → s.sees (coreOf ea) = true → Completes (.wbk a n f) s s) ∧
       ∀ pa e, inCoreSpace ea = false → s.translate s.cur s.gang ea (fun e => e.rd || e.wr) 0 = .phys pa e →
         Completes (.wbk a n f) s (s.sendStore s.gang.uids none (.writeBack pa))) ∧
     (Ready s (eaReads a n f) (d :: eaReads a n f) →
       (badForm ea = true → Completes (.xlq d a n f) s (s.writeG d 0)) ∧
       (badForm ea = false → inCoreSpace ea = true →
         Completes (.xlq d a n f) s (s.writeG d
           (if s.sees (coreOf ea) then
             w64 (1 + 2 * bnat (windowPermits (coreOffset ea) 8 false) + 4 * bnat (windowPermits (coreOffset ea) 8 true))
           else 0))) ∧
       (badForm ea = false → inCoreSpace ea = false →
         (∀ pa e, s.translate s.cur s.gang ea (fun _ => true) 0 = .phys pa e →
           Completes (.xlq d a n f) s (s.writeG d (w64 (1 + 2 * bnat e.rd + 4 * bnat e.wr + 8 * bnat e.large)))) ∧
         (s.translate s.cur s.gang ea (fun _ => true) 0 = .fault → Completes (.xlq d a n f) s (s.writeG d 0))) ∧
       ∀ (z : BitVec 2) (e : BitVec 1) (k : Chk), s.check ea (2 ^ z.toNat) (2 ^ z.toNat) (e = 1) 0 = k → k ≠ .walk →
         Completes (.chka d a z e n f) s (s.writeG d (w64 k.cause))))

/-- An arithmetic form in the lanes of a guard: the exact value of each element of a format, rounded once, with DRAW
advanced by the draws of the mode (spec/09 R213, spec/08 R187). -/
def Sys2Proof.Spec.rounded (s : State) (p : BitVec 3) (mode : Mode) (f : Fmt) (d : BitVec 6) (v : Lane → Nat → Machine.Num) : State :=
  inLanes s (s.gang.guard p) fun i l =>
    let r := fromElements f.bits ((List.range f.count).map fun j => roundFloat f mode (s.drawAt i l j) (v l j))
    { l.write d.toNat r false with draw := l.draw + BitVec.ofNat 32 (if mode = .rsr then f.count else 0) }

/-- The packed integer instructions of spec/09 R208: each element of A with the element of B, in every lane of the guard; the
result goes to D and to `lt`, and the instruction retires. -/
def Obligations.LanePackedFormsComplete : Prop :=
  ∀ (s : State) (g : BitVec 3) (m : BitVec 2) (d a b : BitVec 6),
    LanesReady s g (s.gang.guard g) [a.toNat, b.toNat] [ltNum, d.toNat, a.toNat, b.toNat] →
    Completes (.vadd g m d a b) s (perLane s g d fun _ l => packed m (fun _ x y => x + y) (l.read a.toNat) (l.read b.toNat)) ∧
    Completes (.vsub g m d a b) s (perLane s g d fun _ l => packed m (fun _ x y => x - y) (l.read a.toNat) (l.read b.toNat)) ∧
    Completes (.vmul g m d a b) s (perLane s g d fun _ l => packed m (fun _ x y => x * y) (l.read a.toNat) (l.read b.toNat)) ∧
    Completes (.vmulhS g m d a b) s (perLane s g d fun _ l => packed m (fun _ x y => mulHighS x y) (l.read a.toNat) (l.read b.toNat)) ∧
    Completes (.vmulhN g m d a b) s (perLane s g d fun _ l => packed m (fun _ x y => mulHighN x y) (l.read a.toNat) (l.read b.toNat)) ∧
    Completes (.vdivS g m d a b) s (perLane s g d fun _ l => packed m (fun _ x y => quotS x y) (l.read a.toNat) (l.read b.toNat)) ∧
    Completes (.vdivN g m d a b) s (perLane s g d fun _ l => packed m (fun _ x y => quotN x y) (l.read a.toNat) (l.read b.toNat)) ∧
    Completes (.vremS g m d a b) s (perLane s g d fun _ l => packed m (fun _ x y => remS x y) (l.read a.toNat) (l.read b.toNat)) ∧
    Completes (.vremN g m d a b) s (perLane s g d fun _ l => packed m (fun _ x y => remN x y) (l.read a.toNat) (l.read b.toNat)) ∧
    Completes (.vshl g m d a b) s (perLane s g d fun _ l => packed m (fun w x y => x <<< (y.toNat % w)) (l.read a.toNat) (l.read b.toNat)) ∧
    Completes (.vshr g m d a b) s (perLane s g d fun _ l => packed m (fun w x y => x >>> (y.toNat % w)) (l.read a.toNat) (l.read b.toNat)) ∧
    Completes (.vsra g m d a b) s (perLane s g d fun _ l => packed m (fun w x y => x.sshiftRight (y.toNat % w)) (l.read a.toNat) (l.read b.toNat)) ∧
    Completes (.vminS g m d a b) s (perLane s g d fun _ l => packed m (fun _ x y => if y.toInt < x.toInt then y else x) (l.read a.toNat) (l.read b.toNat)) ∧
    Completes (.vminN g m d a b) s (perLane s g d fun _ l => packed m (fun _ x y => if y.toNat < x.toNat then y else x) (l.read a.toNat) (l.read b.toNat)) ∧
    Completes (.vmaxS g m d a b) s (perLane s g d fun _ l => packed m (fun _ x y => if x.toInt < y.toInt then y else x) (l.read a.toNat) (l.read b.toNat)) ∧
    Completes (.vmaxN g m d a b) s (perLane s g d fun _ l => packed m (fun _ x y => if x.toNat < y.toNat then y else x) (l.read a.toNat) (l.read b.toNat))

/-- The bitwise instructions and `vlea` (spec/09 R208, R211), the compares into a predicate (R209), and the counts. -/
def Obligations.LaneBitwiseCompareCountComplete : Prop :=
  ∀ (s : State) (g : BitVec 3) (m : BitVec 2) (d a b : BitVec 6),
    (LanesReady s g (s.gang.guard g) [a.toNat, b.toNat] [ltNum, d.toNat, a.toNat, b.toNat] →
      Completes (.vand g d a b) s (perLane s g d fun _ l => l.read a.toNat &&& l.read b.toNat) ∧
      Completes (.vor g d a b) s (perLane s g d fun _ l => l.read a.toNat ||| l.read b.toNat) ∧
      Completes (.vxor g d a b) s (perLane s g d fun _ l => l.read a.toNat ^^^ l.read b.toNat) ∧
      Completes (.vandn g d a b) s (perLane s g d fun _ l => l.read a.toNat &&& ~~~l.read b.toNat) ∧
      Completes (.vlea g d a b) s (perLane s g d fun i l => l.read a.toNat + w64 i * l.read b.toNat)) ∧
    (LanesReady s g (s.gang.guard g) [a.toNat, b.toNat] [a.toNat, b.toNat] →
      Completes (.vcmpeq g m d a b) s (inLanes s (s.gang.guard g) fun _ l =>
        l.setPred d.toNat (packedAll m (fun _ x y => x = y) (l.read a.toNat) (l.read b.toNat))) ∧
      Completes (.vcmpltS g m d a b) s (inLanes s (s.gang.guard g) fun _ l =>
        l.setPred d.toNat (packedAll m (fun _ x y => decide (x.toInt < y.toInt)) (l.read a.toNat) (l.read b.toNat))) ∧
      Completes (.vcmpltN g m d a b) s (inLanes s (s.gang.guard g) fun _ l =>
        l.setPred d.toNat (packedAll m (fun _ x y => decide (x.toNat < y.toNat)) (l.read a.toNat) (l.read b.toNat)))) ∧
    (LanesReady s g (s.gang.guard g) [a.toNat] [ltNum, d.toNat, a.toNat] →
      Completes (.vclz g m d a) s (perLane s g d fun _ l => fromElements (widthOf m)
        ((elements (widthOf m) (64 / widthOf m) (l.read a.toNat)).map fun x => leadingZeros (BitVec.ofNat (widthOf m) x))) ∧
      Completes (.vpopc g m d a) s (perLane s g d fun _ l => fromElements (widthOf m)
        ((elements (widthOf m) (64 / widthOf m) (l.read a.toNat)).map fun x => oneBits (BitVec.ofNat (widthOf m) x))))

/-- The moves of spec/09 R210 and R211, which copy poison with the value (spec/22 R465), and `vredi` (R212): the tree of
spec/08 R202 over the lanes of the guard. -/
def Obligations.LaneMovesComplete : Prop :=
  ∀ (s : State) (g : BitVec 3) (d a b : BitVec 6) (x : BitVec 4),
    (LanesReady s g s.gang.active [] [ltNum, d.toNat, a.toNat, b.toNat] →
      Completes (.vsel g d a b) s (inLanes s s.gang.active fun i l =>
        if s.gang.guards g.toNat i then l.write d.toNat (l.read a.toNat) (l.bad a.toNat)
        else l.write d.toNat (l.read b.toNat) (l.bad b.toNat))) ∧
    (LanesReady s g (s.gang.guard g) [] [ltNum, d.toNat, a.toNat] →
      Completes (.vmov g d a) s (inLanes s (s.gang.guard g) fun _ l => l.write d.toNat (l.read a.toNat) (l.bad a.toNat))) ∧
    (∀ k, (List.range s.gang.lanes.length).find? (s.gang.guards g.toNat) = some k →
      (s.gang.lane k).pending a.toNat = false → LanesReady s g s.gang.active [] [ltNum, d.toNat] →
      Completes (.vbcast g d a) s (inLanes s s.gang.active fun _ l =>
        l.write d.toNat ((s.gang.lane k).read a.toNat) ((s.gang.lane k).bad a.toNat))) ∧
    ((List.range s.gang.lanes.length).find? (s.gang.guards g.toNat) = none → s.gang.guardPoison g = false →
      Completes (.vbcast g d a) s s) ∧
    (LanesReady s g (s.gang.guard g) [b.toNat] [ltNum, d.toNat, b.toNat] →
      (∀ i ∈ s.gang.guard g, (s.gang.lane (((s.gang.lane i).read b.toNat).toNat % 32)).pending a.toNat = false) →
      Completes (.vshuf g d a b) s (inLanes s (s.gang.guard g) fun _ l =>
        match s.gang.lanes[(l.read b.toNat).toNat % 32]? with
        | some src => l.write d.toNat (src.read a.toNat) (src.bad a.toNat)
        | none => l.write d.toNat 0 false)) ∧
    (LanesReady s g (s.gang.guard g) [] [ltNum, d.toNat] → s.me.pendG x.toNat = false →
      Completes (.vgext g d x) s (inLanes s (s.gang.guard g) fun _ l => l.write d.toNat (s.readG x) (s.me.poisonG x.toNat))) ∧
    (LanesReady s g (s.gang.guard g) [a.toNat] [a.toNat] → s.me.pendG x.toNat = false →
      let w := 64 / 2 ^ (b.toNat % 4)
      let r := ((treeRoot (reduceStep (b.toNat / 8) (b.getLsbD 2)) ((List.range 32).map fun i =>
        if (s.gang.guard g).contains i then some (BitVec.ofNat w ((s.gang.lane i).read a.toNat).toNat) else none)).getD 0).toNat
      Completes (.vredi g x a b) s (s.writeG x (if b.getLsbD 2 then sext64 w r else w64 r)))

/-- The compact lane instructions of Table 3-7 (spec/03 R88): guard 0, whole 64-bit elements, B a register or, with C = 1,
the constant of its number. -/
def Obligations.CompactLaneFormsComplete : Prop :=
  ∀ (s : State) (d a b : BitVec 3) (c : BitVec 1) (y : Nat) (D : BitVec 6), y = (if c = 1 then 48 + b.toNat else b.toNat) →
    D = d.setWidth 6 →
    (LanesReady s 0 (s.gang.guard 0) [a.toNat, y] [ltNum, d.toNat, a.toNat, y] →
      Completes (.vaddCompact d a b c) s (perLane s 0 D fun _ l => packed 0 (fun _ x z => x + z) (l.read a.toNat) (l.read y)) ∧
      Completes (.vsubCompact d a b c) s (perLane s 0 D fun _ l => packed 0 (fun _ x z => x - z) (l.read a.toNat) (l.read y)) ∧
      Completes (.vmulCompact d a b c) s (perLane s 0 D fun _ l => packed 0 (fun _ x z => x * z) (l.read a.toNat) (l.read y)) ∧
      Completes (.vandCompact d a b c) s (perLane s 0 D fun _ l => l.read a.toNat &&& l.read y) ∧
      Completes (.vorCompact d a b c) s (perLane s 0 D fun _ l => l.read a.toNat ||| l.read y) ∧
      Completes (.vxorCompact d a b c) s (perLane s 0 D fun _ l => l.read a.toNat ^^^ l.read y)) ∧
    (LanesReady s 0 (s.gang.guard 0) [a.toNat, y] [a.toNat, y] →
      Completes (.vcmpeqCompact d a b c) s (inLanes s (s.gang.guard 0) fun _ l =>
        l.setPred d.toNat (packedAll 0 (fun _ x z => x = z) (l.read a.toNat) (l.read y)))) ∧
    (LanesReady s 0 (s.gang.guard 0) [] [ltNum, d.toNat, a.toNat] →
      Completes (.vmovCompact d a) s (inLanes s (s.gang.guard 0) fun _ l => l.write d.toNat (l.read a.toNat) (l.bad a.toNat))) ∧
    (LanesReady s 0 (s.gang.guard 0) [a.toNat, y] [ltNum, d.toNat, a.toNat, y] →
      Completes (.vfaddF32Compact d a b c) s (Spec.rounded s 0 .rne .f32 D fun l _ =>
        (l.num .f32 (a.setWidth 6) 0).add (l.num .f32 (BitVec.ofNat 6 y) 0)) ∧
      Completes (.vfmulF32Compact d a b c) s (Spec.rounded s 0 .rne .f32 D fun l _ =>
        (l.num .f32 (a.setWidth 6) 0).mul (l.num .f32 (BitVec.ofNat 6 y) 0))) ∧
    (LanesReady s 0 (s.gang.guard 0) [a.toNat, y, d.toNat] [ltNum, d.toNat, a.toNat, y, d.toNat] →
      Completes (.vfmaF32Compact d a b c) s (Spec.rounded s 0 .rne .f32 D fun l _ =>
        ((l.num .f32 (a.setWidth 6) 0).mul (l.num .f32 (BitVec.ofNat 6 y) 0)).add (l.num .f32 D 0)))

/-- Floating-point addition, subtraction, multiplication and fused multiply-add of spec/09 R213 in binary64, binary32, BF16
and binary16: one rounding of the exact value of each element, by MOD. -/
def Obligations.LaneFloatArithmeticComplete : Prop :=
  ∀ (s : State) (g : BitVec 3) (m : BitVec 2) (d a b : BitVec 6),
    (LanesReady s g (s.gang.guard g) [a.toNat, b.toNat] [ltNum, d.toNat, a.toNat, b.toNat] →
      Completes (.vfaddF64 g m d a b) s (Spec.rounded s g (arithMode m) .f64 d fun l j => (l.num .f64 a j).add (l.num .f64 b j)) ∧
      Completes (.vfsubF64 g m d a b) s (Spec.rounded s g (arithMode m) .f64 d fun l j => (l.num .f64 a j).add (l.num .f64 b j).neg) ∧
      Completes (.vfmulF64 g m d a b) s (Spec.rounded s g (arithMode m) .f64 d fun l j => (l.num .f64 a j).mul (l.num .f64 b j)) ∧
      Completes (.vfaddF32 g m d a b) s (Spec.rounded s g (arithMode m) .f32 d fun l j => (l.num .f32 a j).add (l.num .f32 b j)) ∧
      Completes (.vfsubF32 g m d a b) s (Spec.rounded s g (arithMode m) .f32 d fun l j => (l.num .f32 a j).add (l.num .f32 b j).neg) ∧
      Completes (.vfmulF32 g m d a b) s (Spec.rounded s g (arithMode m) .f32 d fun l j => (l.num .f32 a j).mul (l.num .f32 b j)) ∧
      Completes (.vfaddBf16 g m d a b) s (Spec.rounded s g (arithMode m) .bf16 d fun l j => (l.num .bf16 a j).add (l.num .bf16 b j)) ∧
      Completes (.vfmulBf16 g m d a b) s (Spec.rounded s g (arithMode m) .bf16 d fun l j => (l.num .bf16 a j).mul (l.num .bf16 b j)) ∧
      Completes (.vfaddF16 g m d a b) s (Spec.rounded s g (arithMode m) .f16 d fun l j => (l.num .f16 a j).add (l.num .f16 b j)) ∧
      Completes (.vfmulF16 g m d a b) s (Spec.rounded s g (arithMode m) .f16 d fun l j => (l.num .f16 a j).mul (l.num .f16 b j))) ∧
    (LanesReady s g (s.gang.guard g) [a.toNat, b.toNat, d.toNat] [ltNum, d.toNat, a.toNat, b.toNat, d.toNat] →
      Completes (.vfmaF64 g m d a b) s (Spec.rounded s g (arithMode m) .f64 d fun l j =>
        ((l.num .f64 a j).mul (l.num .f64 b j)).add (l.num .f64 d j)) ∧
      Completes (.vfmaF32 g m d a b) s (Spec.rounded s g (arithMode m) .f32 d fun l j =>
        ((l.num .f32 a j).mul (l.num .f32 b j)).add (l.num .f32 d j)) ∧
      Completes (.vfmaBf16 g m d a b) s (Spec.rounded s g (arithMode m) .bf16 d fun l j =>
        ((l.num .bf16 a j).mul (l.num .bf16 b j)).add (l.num .bf16 d j)) ∧
      Completes (.vfmaF16 g m d a b) s (Spec.rounded s g (arithMode m) .f16 d fun l j =>
        ((l.num .f16 a j).mul (l.num .f16 b j)).add (l.num .f16 d j)))

/-- A map over the elements of the format that MOD selects. -/
def Sys2Proof.Spec.eachFloat (m : BitVec 2) (v : Fmt → Nat → Nat) : Word :=
  fromElements (selectFmt m).bits ((List.range (selectFmt m).count).map fun j => v (selectFmt m) j)

/-- The format-selecting forms of spec/09 R213 and R214: the lesser and the greater, the compares (a NaN compares false),
division and square root to nearest even, sign changes, and the class masks 16 bits apart. -/
def Obligations.LaneFloatSelectedFormsComplete : Prop :=
  ∀ (s : State) (g : BitVec 3) (m : BitVec 2) (d a b : BitVec 6) (x y : Lane → Fmt → Nat → Nat),
    (x = fun l f j => element f.bits j (l.read a.toNat)) → (y = fun l f j => element f.bits j (l.read b.toNat)) →
    (LanesReady s g (s.gang.guard g) [a.toNat, b.toNat] [ltNum, d.toNat, a.toNat, b.toNat] →
      Completes (.vfmin g m d a b) s (perLane s g d fun _ l => Spec.eachFloat m fun f j => minFloat f (x l f j) (y l f j)) ∧
      Completes (.vfmax g m d a b) s (perLane s g d fun _ l => Spec.eachFloat m fun f j => maxFloat f (x l f j) (y l f j)) ∧
      Completes (.vfdiv g m d a b) s (perLane s g d fun _ l => Spec.eachFloat m fun f j =>
        roundFloat f .rne 0 ((decodeFloat f (x l f j)).div (decodeFloat f (y l f j))))) ∧
    (LanesReady s g (s.gang.guard g) [a.toNat, b.toNat] [a.toNat, b.toNat] →
      let holds (rel : Ordering → Bool) (l : Lane) : Bool := (List.range (selectFmt m).count).all fun j =>
        match (l.num (selectFmt m) a j).cmp (l.num (selectFmt m) b j) with
        | some o => rel o
        | none => false
      Completes (.vfcmpeq g m d a b) s (inLanes s (s.gang.guard g) fun _ l => l.setPred d.toNat (holds (fun o => o = .eq) l)) ∧
      Completes (.vfcmplt g m d a b) s (inLanes s (s.gang.guard g) fun _ l => l.setPred d.toNat (holds (fun o => o = .lt) l)) ∧
      Completes (.vfcmple g m d a b) s (inLanes s (s.gang.guard g) fun _ l => l.setPred d.toNat (holds (fun o => o ≠ .gt) l))) ∧
    (LanesReady s g (s.gang.guard g) [a.toNat] [ltNum, d.toNat, a.toNat] →
      Completes (.vfsqrt g m d a) s (perLane s g d fun _ l => Spec.eachFloat m fun f j =>
        roundFloat f .rne 0 (decodeFloat f (x l f j)).sqrt) ∧
      Completes (.vfneg g m d a) s (perLane s g d fun _ l => Spec.eachFloat m fun f j => x l f j ^^^ 2 ^ (f.bits - 1)) ∧
      Completes (.vfabs g m d a) s (perLane s g d fun _ l => Spec.eachFloat m fun f j => x l f j % 2 ^ (f.bits - 1)) ∧
      Completes (.vfclass g m d a) s (perLane s g d fun _ l => fromElements 16
        ((List.range (selectFmt m).count).map fun j => classMask (selectFmt m) (x l (selectFmt m) j))))

/-- Conversions (spec/09 R215-R217), dot products (R218) and the reduction tree (R219). (Which lane draws at a node of `vfred` under
`.rsr`, the lowest that contributes to it, is the model's reading of spec/08 R187 and R202, log 43; a single value that
passes a node raw is log 68.) -/
def Obligations.LaneConversionsDotsComplete : Prop :=
  ∀ (s : State) (g : BitVec 3) (m : BitVec 2) (d a b : BitVec 6) (t c : BitVec 3),
    (LanesReady s g (s.gang.guard g) [a.toNat] [ltNum, d.toNat, a.toNat] →
      let n := min (fmtOf c.toNat).count (fmtOf t.toNat).count
      let conv (mode : Mode) : State := inLanes s (s.gang.guard g) fun i l =>
        { l.write d.toNat (fromElements (fmtOf t.toNat).bits ((List.range n).map fun j =>
            roundFloat (fmtOf t.toNat) mode (s.drawAt i l j) (l.num (fmtOf c.toNat) a j))) false with
          draw := l.draw + BitVec.ofNat 32 (if mode = .rsr then n else 0) }
      Completes (.vcvt g m d a t c) s (conv (convertMode m)) ∧
      Completes (.vcvtx g m d a t c) s (conv (if m = 0 then .rodd else .rsr)) ∧
      Completes (.vcvti g m d a t c) s (perLane s g d fun _ l =>
        BitVec.ofInt 64 (toIntTy (intTyOf t.toNat) (convertMode m) (l.num (fmtOf c.toNat) a 0))) ∧
      Completes (.vcvtf g m d a t c) s (perLane s g d fun _ l => fromElements (fmtOf t.toNat).bits
        [roundFloat (fmtOf t.toNat) (convertMode m) 0 (Machine.Num.ofInt (ofIntTy (intTyOf c.toNat) (l.read a.toNat)) 0)])) ∧
    (LanesReady s g (s.gang.guard g) [a.toNat, b.toNat, d.toNat] [ltNum, d.toNat, a.toNat, b.toNat, d.toNat] →
      let mode : Mode := if m.getLsbD 1 then .rsr else .rne
      let dot (f : Fmt) : State := inLanes s (s.gang.guard g) fun i l =>
        { l.write d.toNat (w64 (roundFloat .f32 mode (s.drawAt i l 0) (dotSum (l.num .f32 d 0)
            ((List.range f.count).map (l.num f a)) ((List.range f.count).map (l.num f b))))) false with
          draw := l.draw + BitVec.ofNat 32 (if mode = .rsr then 1 else 0) }
      Completes (.vdot2 g m d a b) s (dot (if m.getLsbD 0 then .f16 else .bf16)) ∧
      Completes (.vdot4 g m d a b) s (dot (if m.getLsbD 0 then .e5m2 else .e4m3)) ∧
      Completes (.vdot8 g m d a b) s (perLane s g d fun _ l =>
        (BitVec.ofInt 32 ((element 32 0 (l.read d.toNat) : Int) +
          (((elements 8 8 (l.read a.toNat)).map (byteInt (m ≠ 1))).zip
            ((elements 8 8 (l.read b.toNat)).map (byteInt (m = 0))) |>.map fun p => p.1 * p.2).sum)).signExtend 64)) ∧
    ∀ o r : BitVec 2, LanesReady s g (s.gang.guard g) [a.toNat] [a.toNat] → LanesReady s g s.gang.active [] [ltNum, d.toNat] →
      let F := selectFmt m
      let mode := nodeMode r
      let step (draw : Nat → Nat) (x y : List Nat) : List Nat := (x.zip y).mapIdx fun j p =>
        match o.toNat with
        | 0 => roundFloat F mode (draw j) ((decodeFloat F p.1).add (decodeFloat F p.2))
        | 1 => minFloat F p.1 p.2
        | _ => maxFloat F p.1 p.2
      let tree := redTree F.count step (fun i k => generator s.ctx.seed (laneCounter s.me.rank.toNat i (k % 2 ^ 32)))
        (o = 0 && mode = .rsr) 5
        ((List.range 32).map fun i => if (s.gang.guard g).contains i then
          some (RedNode.mk (elements F.bits F.count ((s.gang.lane i).read a.toNat)) i) else none)
        (s.gang.lanes.map (·.draw.toNat))
      Completes (.vfred g m d a o r) s (s.modGang fun gg =>
        ({ gg with lanes := gg.lanes.mapIdx fun i l => { l with draw := BitVec.ofNat 32 (tree.2.getD i 0) } } : Gang).mapLanes
          s.gang.active fun _ l => l.write d.toNat (match tree.1.head?.join with
            | some x => fromElements F.bits x.vals
            | none => 0) false)

/-- A block instruction in the lanes of a guard: the blocks of D from block numbers, each encoded once (spec/09 R220). -/
def Sys2Proof.Spec.blocks (s : State) (g : BitVec 3) (F : Nat) (d : BitVec 3) (v : Lane → Nat → List Machine.Num) : State :=
  inLanes s (s.gang.guard g) fun _ l => l.writeBlocks F d ((List.range (blocksOf F)).map (v l))


/-- The element-wise block instructions of spec/09 R221, in MX and shared-exponent formats.

Packing and unpacking of blocks (spec/09 R222, R223), the sidecar moves, and `vbdot` (R221). (How `sxEncode` shifts a quartet at the
capped exponent is the model's choice, log 45; poison in registers of a quad that a form only overwrites is log 69.) -/
def Obligations.LaneBlockFormsComplete : Prop :=
  (∀ (s : State) (g : BitVec 3) (m : BitVec 2) (d : BitVec 3) (f : BitVec 2) (a b : BitVec 3) (F : Nat), F = 4 * f.toNat + m.toNat →
     let two (op : Machine.Num → Machine.Num → Machine.Num) : State := Spec.blocks s g F d fun l k => ((l.block F k a).zip (l.block F k b)).map fun p => op p.1 p.2
     let from_ := sourceRegs F a ++ sourceRegs F b
     (LanesReady s g (s.gang.guard g) from_ (from_ ++ ltNum :: sourceRegs F d) →
       Completes (.vbadd g m d f a b) s (two Machine.Num.add) ∧ Completes (.vbsub g m d f a b) s (two fun x y => x.add y.neg) ∧
       Completes (.vbmul g m d f a b) s (two Machine.Num.mul) ∧ Completes (.vbmax g m d f a b) s (two Machine.Num.max) ∧
       Completes (.vbmin g m d f a b) s (two Machine.Num.min)) ∧
     (LanesReady s g (s.gang.guard g) (from_ ++ sourceRegs F d) (from_ ++ sourceRegs F d ++ ltNum :: sourceRegs F d) →
       Completes (.vbfma g m d f a b) s (Spec.blocks s g F d fun l k =>
         (((l.block F k a).zip (l.block F k b)).zip (l.block F k d)).map fun p => (p.1.1.mul p.1.2).add p.2)) ∧
     (LanesReady s g (s.gang.guard g) (sourceRegs F a) (sourceRegs F a ++ ltNum :: sourceRegs F d) →
       Completes (.vbnorm g m d f a) s (Spec.blocks s g F d fun l k => l.block F k a) ∧
       ∀ c : BitVec 3, F = 4 * f.toNat + m.toNat →
         Completes (.vbcvt g m d f a c) s (Spec.blocks s g F d fun l k => l.block c.toNat k a)) ∧
     (LanesReady s g (s.gang.guard g) (sourceRegs F a ++ [40 + b.toNat]) (sourceRegs F a ++ [40 + b.toNat] ++ ltNum :: sourceRegs F d) →
       Completes (.vbscale g m d f a b) s (Spec.blocks s g F d fun l k => (l.block F k a).map (Machine.Num.scale
         (BitVec.ofNat 8 ((l.sidecar b.toNat).toNat / 2 ^ (if isMx F then 8 * k else 0))).toInt)))) ∧
  (∀ (s : State) (g : BitVec 3) (m : BitVec 2) (d : BitVec 3) (f : BitVec 2) (a b c : BitVec 3) (F : Nat),
     F = 4 * f.toNat + m.toNat →
     (∀ use, use = quadRegs a ++ quadRegs b ++ (if F = 4 then quadRegs d ++ [40 + d.toNat] else []) →
       LanesReady s g (s.gang.guard g) use (use ++ ltNum :: (quadRegs d ++ [40 + d.toNat])) →
       Completes (.vbpack g m d f a b) s (inLanes s (s.gang.guard g) fun _ l =>
         let e := mxEncode F .rne (fun _ => 0) (l.bfloats a ++ l.bfloats b)
         if F = 4 then (l.setSidecar d.toNat ((l.sidecar d.toNat) <<< 8 ||| BitVec.ofNat 16 e.1) false).setQuad d.toNat
           (l.quad d.toNat % 2 ^ 128 * 2 ^ 128 + packMx F e.2)
         else (l.setSidecar d.toNat ((l.sidecar d.toNat &&& 0xFF00#16) ||| BitVec.ofNat 16 e.1) false).setQuad d.toNat (packMx F e.2))) ∧
     (LanesReady s g (s.gang.guard g) (sourceRegs F a) (sourceRegs F a ++ ltNum :: quadRegs d) →
       Completes (.vbunpack g m d f a c) s (inLanes s (s.gang.guard g) fun _ l => l.setQuad d.toNat
         (packBf16 ((((List.range (blocksOf F)).flatMap fun k => l.block F k a).drop (16 * c.toNat)).take 16)))) ∧
     (∀ use, use = quadRegs a ++ (if F = 8 then [] else quadRegs d) → LanesReady s g (s.gang.guard g) use (use ++ ltNum :: quadRegs d) →
       Completes (.vsxpack g m d f a) s (inLanes s (s.gang.guard g) fun _ l => l.setQuad d.toNat
         ((sxEncode F .rne (fun _ => 0) (l.bfloats a) + l.quad d.toNat * 2 ^ sxBlock F) % 2 ^ (sxBlock F * blocksOf F)))) ∧
     (LanesReady s g (s.gang.guard g) (quadRegs a) (quadRegs a ++ ltNum :: quadRegs d) →
       Completes (.vsxunpack g m d f a c) s (inLanes s (s.gang.guard g) fun _ l =>
         l.setQuad d.toNat (packBf16 (l.block F c.toNat a)))) ∧
     (LanesReady s g (s.gang.guard g) [40 + a.toNat] [40 + a.toNat, ltNum, 4 * d.toNat] →
       Completes (.vkget g d a) s (inLanes s (s.gang.guard g) fun _ l =>
         l.write (4 * d.toNat) ((l.sidecar a.toNat).setWidth 64) false)) ∧
     (LanesReady s g (s.gang.guard g) [4 * a.toNat] [4 * a.toNat, 40 + d.toNat] →
       Completes (.vkset g d a) s (inLanes s (s.gang.guard g) fun _ l =>
         l.setSidecar d.toNat ((l.read (4 * a.toNat)).setWidth 16) false)) ∧
     (∀ use, use = sourceRegs F a ++ sourceRegs F b ++ [4 * d.toNat] → LanesReady s g (s.gang.guard g) use (use ++ [ltNum]) →
       Completes (.vbdot g m d f a b) s (inLanes s (s.gang.guard g) fun _ l =>
         let vals (q : BitVec 3) : List Machine.Num := (List.range (blocksOf F)).flatMap fun k => l.block F k q
         l.write (4 * d.toNat) (w64 (roundFloat .f32 .rne 0
           ((((vals a).zip (vals b)).map fun p => p.1.mul p.2).foldl Machine.Num.add
             (decodeFloat .f32 (element 32 0 (l.read (4 * d.toNat))))))) false)))

/-- Messages (spec/06 R162-R164): `send` and `sendnb` queue the words of local memory for a channel of the context; `recv`
and `recvnb` take the next word of a bound message channel's queue. -/
def Obligations.SendReceiveComplete : Prop :=
  (∀ (s : State) (d a b : BitVec 4) (p : BitVec 1) (n : BitVec 3) (t : State), s.me.acquiring = false → s.me.fenced = false →
    channelWordOk (s.readG a) = true → s.sees (coreOf (s.readG a)) = true →
    (s.readG b).toNat % 8 = 0 → (s.readG b).toNat + 8 * (n.toNat + 1) ≤ 0x18000 →
    t = s.scanLocal s.cur (s.readG b).toNat (8 * (n.toNat + 1)) →
    ((s.me.sendQueue p).length + (if p = 1 then 0 else s.heldBy (.core s.cur)) < 8 →
      let u := (t.modMe (·.queueSend p (t.sendMessage (s.readG a) (s.readG b) (n.toNat + 1) (p = 1)))).fresh
      (Ready s [a, b] [a, b] → Completes (.send a b p n) s u) ∧
      (Ready s [a, b] [d, a, b] → Completes (.sendnb d a b p n) s (u.writeG d 1))) ∧
    (8 ≤ (s.me.sendQueue p).length + (if p = 1 then 0 else s.heldBy (.core s.cur)) → Ready s [a, b] [d, a, b] → Completes (.sendnb d a b p n) s (s.writeG d 0))) ∧
  ∀ (s : State) (d a b : BitVec 4) (ch : Nat), ch = fieldOf (s.readG a) 5 0 → s.me.messageChannel ch = true →
    (∀ w t, s.takeWord s.cur ch = some (w, t) →
      (s.gang.kind = .carry → s.me.priv = 0 → Ready s [a] [d, a] → Completes (.recv d a) s (t.writeG d w.val w.poison)) ∧
      (Ready s [a] [d, a, b] → Completes (.recvnb d a b) s ((t.writeG d w.val w.poison).writeG b 1))) ∧
    (s.takeWord s.cur ch = none → Ready s [a] [d, a, b] → Completes (.recvnb d a b) s ((s.writeG d 0).writeG b 0))

/-- `chbind` leaves a valid entry to take effect, and reports a status for any other; `evbind` and `evbind.off` report their
statuses or bind and unbind; `vclaim` and `vrenew` (spec/06 R155-R159, R172). (The model's choices in it: that a crossing
remembered by the binding goes to the ready queue first, and is dropped where that queue is full, is log 49, DESIGN CHOICE,
R172 being silent; how many slots chbind's status 2 sums is log 50; status 2 for a message channel that is unbound is log 67.) -/
def Obligations.BindingsAndClaimsComplete : Prop :=
  (∀ (s : State) (d a b : BitVec 4) (t : State) (ch st : Nat) (c : Channel), Ready s [b, a] [d, a, b] →
    fieldOf (s.readG a) 63 6 = 0 → (s.readG b).toNat % 16 = 0 → (s.readG b).toNat < 0x18000 → s.me.acquiring = false →
    t = s.scanLocal s.cur (s.readG b).toNat 16 → t.me.mem.poisoned (s.readG b).toNat 16 = false →
    ch = fieldOf (s.readG a) 5 0 → c = { word0 := w64 (t.me.mem.load (s.readG b).toNat 8) } →
    st = (if t.me.bindStatus ch c ≠ 0 then t.me.bindStatus ch c else if (t.me.channel ch).state = 2 then 4 else 0) →
    (st ≠ 0 → Completes (.chbind d a b) s (t.writeG d (w64 st))) ∧
    (st = 0 →
      let w1 := w64 (t.me.mem.load ((s.readG b).toNat + 8) 8)
      let u := t.modMe (·.setChannel ch
        { t.me.channel ch with state := 2, next := some (c.word0, w1.getLsbD 0, w1.getLsbD 2), age := 0 })
      Completes (.chbind d a b) s ((u.revokeGrants u.cur ch).writeG d 0))) ∧
  (∀ (s : State) (d a b : BitVec 4) (sel ch : Nat), sel = fieldOf (s.readG a) 31 0 → ch = fieldOf (s.readG a) 37 32 →
    (Ready s [a, b] [d, a, b] →
      (counterKnown sel s.me.priv.toNat = false → Completes (.evbind d a b) s (s.writeG d (w64 1))) ∧
      (counterKnown sel s.me.priv.toNat = true → s.me.messageChannel ch = false →
        Completes (.evbind d a b) s (s.writeG d (w64 2))) ∧
      (counterKnown sel s.me.priv.toNat = true → s.me.messageChannel ch = true → 8 ≤ s.me.bindings.length →
        s.me.bindings.any (·.sel = sel) = false → Completes (.evbind d a b) s (s.writeG d (w64 3)))) ∧
    (Ready s [a] [d, a] →
      (counterKnown sel s.me.priv.toNat = false → Completes (.evbindOff d a) s (s.writeG d (w64 1))) ∧
      (counterKnown sel s.me.priv.toNat = true → s.me.bindings.any (·.sel = sel) = false →
        Completes (.evbindOff d a) s (s.writeG d (w64 3)))) ∧
    (counterKnown sel s.me.priv.toNat = true →
    (Ready s [a, b] [d, a, b] → s.me.messageChannel ch = true →
      s.me.bindings.length < 8 ∨ s.me.bindings.any (·.sel = sel) = true →
      let t := s.queueCrossing s.cur sel
      Completes (.evbind d a b) s ((t.modMe fun k => { k with bindings := k.bindings.filter (·.sel ≠ sel) ++
        [⟨sel, ch, s.readG b, (t.counterValue t.cur sel).toNat < (s.readG b).toNat, none⟩] }).writeG d 0)) ∧
    (Ready s [a] [d, a] → s.me.bindings.any (·.sel = sel) = true →
      Completes (.evbindOff d a) s
        (((s.queueCrossing s.cur sel).modMe fun k => { k with bindings := k.bindings.filter (·.sel ≠ sel) }).writeG d 0)))) ∧
  ∀ (s : State) (d a : BitVec 4),
    (Ready s [a] [d, a] → 1 ≤ (s.readG a).toNat → (s.readG a).toNat ≤ 32 →
      Completes (.vclaim d a) s
        ((s.modMe fun k => k.setChannel s.gang.channel ((k.channel s.gang.channel).setClaim (s.readG a).toNat)).writeG d
          (w64 (min (s.readG a).toNat (1 + s.sharedFree s.cur))))) ∧
    (Ready s [] [d] → Completes (.vrenew d) s
      (((s.returnShared s.cur (s.gang.grant - s.gang.lanes.length)).modGang fun g => { g with grant := s.gang.lanes.length }).writeG
        d (w64 s.gang.lanes.length)))

/-- `launch` appends a valid record to its queue (spec/06 R168, spec/16 R367, R368) and reports 2 for another; `spawn` makes a
message for each lane of its guard, waits, and reports the strands it has made once their messages have left (R169); `rrepl`
copies the code and enters the place in the directory, `rrepl.ret` marks the place as retiring, and both send every core its
invalidation (R170, R171); they report 0 once every core has dropped its copy of the entry, and their status at once where it
is not 0. (The model's choices in it: logs 13, 37.) -/
def Obligations.LaunchSpawnReplicasComplete : Prop :=
  (∀ (s : State) (d a : BitVec 4) (img : List Byte) (n : Nat) (u t : State) (e : DirEntry), Ready s [a] [d, a] →
    img = s.me.mem.image (s.readG a).toNat 64 → n = recordLength img →
    (s.readG a).toNat % 64 = 0 → (s.readG a).toNat + n ≤ 0x18000 → s.me.acquiring = false →
    u = s.scanLocal s.cur (s.readG a).toNat n → u.me.mem.poisoned (s.readG a).toNat n = false →
    (imageAt img 0 2 = 0 ∨ imageAt img 0 2 = 0xFFFF ∨ u.reachesCtx = false → Completes (.launch d a) s (u.writeG d 2)) ∧
    (imageAt img 0 2 ≠ 0 → imageAt img 0 2 ≠ 0xFFFF → u.reachesCtx = true → u.entry u.cur (imageAt img 0 2) = some (e, t) →
    (launchValid img e = true → Open t → Completes (.launch d a) s
      ((t.pendG d).sendLoad (.gang t.me.slot d.toNat 8 false (t.me.priv = 1)) t.gang.uids true none
        (.append (imageAt img 2 1) (t.me.mem.image (s.readG a).toNat n)))) ∧
    (launchValid img e = false → Completes (.launch d a) s (t.writeG d 2)))) ∧
  (∀ (s : State) (d a : BitVec 4) (h : BitVec 1) (q : BitVec 3),
    (∀ n, s.gang.phase = .spawned n → s.me.outbox.any (·.slot = s.me.slot) = false →
      Completes (.spawn d a h q) s (s.writeG d (w64 n))) ∧
    (Fresh s → Ready s [a] [d, a] → s.gang.guardPoison q = false →
      (s.gang.guard q = [] → Completes (.spawn d a h q) s (s.writeG d 0)) ∧
      ∀ t e va, s.gang.guard q ≠ [] → va = w64 (fieldOf (s.readG a) 31 0) → s.readEntries (routinesOf [va]) = (t, none) →
        t.checkSource va = none → e = t.cached (fieldOf va 31 16) →
        (∀ i ∈ s.gang.guard q, ∀ j ∈ (List.range 32).filter (fun j => e.carry.getLsbD j) ++ (wholeQuads e.carry).map (40 + ·),
          (s.gang.lane i).pending j = false) →
        let made := t.spawnLanes (va.setWidth 32) e (h = 1) (s.gang.guard q) 0
        Waits (.spawn d a h q) s (made.1.modGang fun g => { g with phase := .spawned made.2 }))) ∧
  ∀ (s : State) (r : BitVec 16) (g : BitVec 3),
    (∀ t x, s.gang.phase = .acks t 0 x →
      Completes (.rrepl r g) s (s.writeG (g.setWidth 4) 0) ∧ Completes (.rreplRet r g) s (s.writeG (g.setWidth 4) 0)) ∧
    (Fresh s → Ready s [g.setWidth 4] [g.setWidth 4] → s.ctx.rrepling = none → r = 0 ∨ r = 0xFFFF ∨ s.reachesCtx = false →
      Completes (.rrepl r g) s (s.writeG (g.setWidth 4) 1) ∧ Completes (.rreplRet r g) s (s.writeG (g.setWidth 4) 1)) ∧
    ∀ e dst, Fresh s → Ready s [g.setWidth 4] [g.setWidth 4] → s.ctx.rrepling = none → r ≠ 0 → r ≠ 0xFFFF →
      s.reachesCtx = true → s.readDir r.toNat = some e → dst = fieldOf (s.readG (g.setWidth 4)) 19 0 →
      (s.replStatus e dst = 0 → Waits (.rrepl r g) s ((s.replicate e dst).invalidateDir r.toNat dst)) ∧
      (s.retStatus e dst = 0 →
        let t := s.writeDir { e with retiring := bput e.retiring (e.places.findIdx (· = dst)) true }
        let u := (t.modCore dst fun k => k.setChannel e.channel { k.channel e.channel with retire := true }).revokeGrants dst e.channel
        Waits (.rreplRet r g) s ((u.regrant dst e.channel).invalidateDir r.toNat dst)) ∧
      (s.replStatus e dst ≠ 0 → Completes (.rrepl r g) s (s.writeG (g.setWidth 4) (w64 (s.replStatus e dst)))) ∧
      (s.retStatus e dst ≠ 0 → Completes (.rreplRet r g) s (s.writeG (g.setWidth 4) (w64 (s.retStatus e dst))))

/-- A lane access is ready: its registers, and `lt` for a load from local memory, await no reply in the lanes of its guard, and neither the guard nor an address is
poisoned. -/
def Sys2Proof.Spec.AccReady (s : State) (x : LaneAcc) : Prop :=
  LanesReady s x.p (s.gang.guard x.p) [x.a.toNat] (x.a.toNat :: x.pieces.map (·.reg) ++ if x.here && !x.write then [ltNum] else [])


/-- Every piece of a lane access in the lanes of its guard passes its checks (spec/10 R227, spec/01 R39). -/
def Sys2Proof.Spec.LanesReach (s : State) (x : LaneAcc) : Prop :=
  ∀ i ∈ s.gang.guard x.p, ∀ q ∈ x.pieces, Spec.Reaches (s.checkPiece x (s.gang.lane i) q)

/-- Local lane accesses (spec/10 R226, R228, R230): with the checks passed in every lane of the guard, loads and stores are
performed lane by lane, ascending.

Lane loads and stores in global and core space (spec/10 R227-R230) whose checks pass in every lane: a request for each
64-byte block; a load's registers and `lt` await its replies. `vpf` changes nothing (R231).
(A load of more than 32 blocks: log 20.) -/
def Obligations.LaneAccessesComplete : Prop :=
  (∀ (s : State) (p : BitVec 3) (a : BitVec 6) (i : Instr) (x : LaneAcc),
     AccReady s x → s.me.acquiring = false → (∀ j ∈ s.gang.guard x.p, x.local (s.gang.lane j) = none) →
     let seen := s.watch false (x.seen s.gang (s.gang.guard x.p) fun v => coreAddr s.cur v.toNat)
     ((∃ m d e c, i = .vldl p m d a e c ∧ x = { lanePlain p m d a c false (e = 1) with here := true }) ∨
      (∃ d sc, i = .vldlq p d a sc ∧ x = { laneQuad p d a sc false with here := true }) →
       Completes i s ((s.gang.guard x.p).foldl (fun t j => t.laneLoadLocal x j) s) seen) ∧
     ((∃ m d c, i = .vstl p m d a c ∧ x = lanePlain p m d a c true false) ∨
      (∃ d sc, i = .vstlq p d a sc ∧ x = laneQuad p d a sc true) → s.me.fenced = false →
       Completes i s ((s.gang.guard x.p).foldl (fun t j =>
         t.storeLocal ((t.gang.lane j).stores (x.ea (t.gang.lane j)).toNat x.pieces)) s) seen)) ∧
  ((∀ (s : State) (p : BitVec 3) (a : BitVec 6) (i : Instr) (x : LaneAcc) (ps : List Placed1),
     AccReady s x → s.me.acquiring = false → s.gang.arrivedPending (s.gang.guard x.p) = false → LanesReach s x →
     ps = s.placePieces x (s.gang.guard x.p) →
     let seen := s.watch false (x.seen s.gang (s.gang.guard x.p) id)
     let waits := s.modGang (·.mapLanes (s.gang.guard x.p) fun _ l => l.await (x.pieces.map (·.reg)))
     (s.me.loadRoom (min 32 (blockKeys ps).length) = true →
       ((∃ m d e c, i = .vld p m d a e c ∧ x = lanePlain p m d a c false (e = 1)) ∨
        (∃ d sc, i = .vldq p d a sc ∧ x = laneQuad p d a sc false) → Completes i s (waits.sendBlocks x false ps) seen) ∧
       ((∃ m d e k, i = .vldAcq p m d a e k ∧ x = lanePlain p m d a 0 false (e = 1)) →
         Completes i s (waits.sendBlocks x true ps) seen)) ∧
     (s.me.fenced = false → s.me.storeRoom (blockKeys ps).length = true → Queued s →
       ((∃ m d c, i = .vst p m d a c ∧ x = lanePlain p m d a c true false) ∨
        (∃ d sc, i = .vstq p d a sc ∧ x = laneQuad p d a sc true) → Completes i s (s.storeBlocks ps) seen) ∧
       ((∃ m d k, i = .vstRel p m d a k ∧ x = lanePlain p m d a 0 true false) → s.me.drained = true →
         Completes i s (s.storeBlocks ps) seen))) ∧
   ∀ (s : State) (p : BitVec 3) (a : BitVec 6), (∀ i ∈ s.gang.guard p, (s.gang.lane i).pending a.toNat = false) →
     Completes (.vpf p a) s s)


/-- Lane chunk instructions (spec/18 R423, R424): the images of the lanes of the guard are aligned, inside local memory and
without poison from byte `skip` on (`ckgen` reads no trailer). -/
def Sys2Proof.Spec.ChunksReady (s t : State) (p : BitVec 3) (as : List (BitVec 6)) (uses all : List Nat) (skip : Nat) : Prop :=
  LanesReady s p (s.gang.guard p) (uses ++ as.map (·.toNat)) (as.map (·.toNat) ++ uses ++ all) ∧ s.me.acquiring = false ∧
    (∀ i ∈ s.gang.guard p, ∀ a ∈ as, ((s.gang.lane i).read a.toNat).toNat % 16 = 0 ∧
      ((s.gang.lane i).read a.toNat).toNat + 272 ≤ 0x18000 ∧
      t.me.mem.poisoned (((s.gang.lane i).read a.toNat).toNat + skip) (272 - skip) = false) ∧
    t = (s.gang.guard p).foldl (fun t i => as.foldl (fun t a =>
      t.scanLocal s.cur (((s.gang.lane i).read a.toNat).toNat + skip) (272 - skip)) t) s

/-- Streams (spec/10 R232-R234).

`ckgen` writes the trailer of each lane's image, `ckver` sets a predicate to the outcome of its two checks, `ckfold` folds
two images and is over when its records have been delivered. (The model's choices in it: log 16.) -/
def Obligations.StreamAndChunkFormsComplete : Prop :=
  (∀ (s : State) (p q : BitVec 3) (d a : BitVec 6) (n : BitVec 2) (x : Stream), x = s.me.stream n.toNat →
     (LanesReady s p (s.gang.guard p) [] [ltNum, d.toNat] →
       (s.gang.kind = .carry → s.me.priv = 0 → (s.gang.guard p).length ≤ 16 → x.readers.takeWhile (· ≠ s.me.slot) = [] →
         (s.gang.guard p).length ≤ x.elems.length ∨ x.bound = none →
         Completes (.srd p d n) s
           ((s.modMe (·.setStream n.toNat { x with readers := x.readers.filter (· ≠ s.me.slot) })).takeElems n.toNat d.toNat id
             (fun l => l.write d.toNat 0 false) (s.gang.guard p))) ∧
       Completes (.srdnb p d q n) s
         (s.takeElems n.toNat d.toNat (·.setPred q.toNat true) (·.setPred q.toNat false) (s.gang.guard p)) ∧
       Completes (.scnt p d n) s (perLane s p d fun _ _ => w64 x.elems.length)) ∧
     (LanesReady s p ((s.gang.guard p).take 1) [a.toNat] [a.toNat] →
       (s.gang.guard p = [] → Completes (.sdrop p a n) s s) ∧
       ∀ i r, s.gang.guard p = i :: r → Completes (.sdrop p a n) s
         (s.modMe (·.setStream n.toNat { x with elems := x.elems.drop ((s.gang.lane i).read a.toNat).toNat }))) ∧
     (s.gang.guardPoison p = false →
       (s.gang.guard p = [] → Completes (.sreset p n) s s) ∧
       (s.gang.guard p ≠ [] → Completes (.sreset p n) s
         (s.modMe (·.setStream n.toNat { x with elems := [], drop := x.bound.isSome }))))) ∧
  (∀ (s t : State) (g : BitVec 3) (d a b : BitVec 6),
     (ChunksReady s t g [a] [b.toNat] [] 16 → s.me.fenced = false → Completes (.ckgen g d a b) s
       ((s.gang.guard g).foldl (fun t i => t.writeLocal ((s.gang.lane i).read a.toNat).toNat
         ((makeImage d.toNat (((s.gang.lane i).read b.toNat).toNat % 256) false
           (chunkData (t.chunkAt ((s.gang.lane i).read a.toNat).toNat))).take 16)) t)
       (s.watch false ((s.gang.guard g).flatMap fun i =>
         [s.seenChunk i ((s.gang.lane i).read a.toNat).toNat 16 false true,
          s.seenChunk i (((s.gang.lane i).read a.toNat).toNat + 16) 256 true false]))) ∧
     (ChunksReady s t g [a] [] [] 0 → Completes (.ckver g d a b) s
       (t.modGang (·.mapLanes (s.gang.guard g) fun _ l => l.setPred d.toNat
         (residueOk (t.chunkAt (l.read a.toNat).toNat) &&
           chunkVsum (t.chunkAt (l.read a.toNat).toNat) = valueSum b.toNat (chunkData (t.chunkAt (l.read a.toNat).toNat)))))
       (s.watch false ((s.gang.guard g).map fun i => s.seenChunk i ((s.gang.lane i).read a.toNat).toNat 272 true false))) ∧
     ∀ u, ChunksReady s t g [a, b] [] [36] 0 → s.me.fenced = false → Fresh s →
       t.foldLanes d.toNat a b (s.gang.guard g) = (u, 32) → u.me.records.any (fun o => t.nextTag ≤ o.seq) = false →
       Completes (.ckfold g d a b) s u (s.watch false (s.seenFold a b (s.gang.guard g))))

/-- Atomics and packets (spec/10 R236-R240, spec/18 R422) whose checks pass: the request leaves with its operand, counts in USC,
and `gD`, where there is one, awaits the result; `amol` is performed at issue. (The model's readings in it: log 32.) -/
def Obligations.AtomicsComplete : Prop :=
  ∀ (s : State) (d a b : BitVec 4) (z : BitVec 2) (o : BitVec 8) (size : Nat), Open s → size = 2 ^ z.toNat →
    (∀ k, Spec.Reaches k →
      let seen := s.watchAtomic (s.readG a) size
      (s.checkAtomic (s.readG a) size true = k →
        (Ready s [a, b] [d, a, b] → Completes (.amo d a b z o) s (s.sendAtomic d size k (.amo k.at o.toNat z.toNat (s.readG b))) seen) ∧
        (Ready s [a, d, b] [d, a, b] →
          Completes (.amocas d a b z) s (s.sendAtomic d size k (.cas k.at z.toNat (s.readG d) (s.readG b))) seen) ∧
        (Ready s [a, b] [a, b] →
          Completes (.amonr a b z o) s (s.sendStore s.gang.uids k.home (.amo k.at o.toNat z.toNat (s.readG b))) seen)) ∧
      (s.checkAtomic (s.readG a) size false = k →
        (o.toNat < 0x20 → Ready s [a, b] [d, a, b] → Completes (.sop d a b z o) s
          (s.sendAtomic d size k (.packet k.at o.toNat z.toNat ⟨s.readG b, false⟩ .none)) seen) ∧
        (o.toNat < 0x20 → Ready s [a, d, b] [d, a, b] → (s.readG b).toNat < 0x18000 → (s.readG b).toNat % 8 = 0 →
          Completes (.sopq d a b z o) s (s.sendLoad (.future (s.readG b).toNat) s.gang.uids true none
            (.packet k.at o.toNat z.toNat ⟨s.readG d, false⟩ .none)) seen) ∧
        (Ready s [a, b] [a, b] → (s.readG b).toNat < 0x18000 → (s.readG b).toNat % 8 = 0 →
          let t := s.scanLocal s.cur (s.readG b).toNat 8
          t.me.mem.poisoned (s.readG b).toNat 8 = false →
          Completes (.sopw a b z o) s (t.sendStore s.gang.uids none
            (.packet k.at o.toNat z.toNat ⟨w64 (t.me.mem.load (s.readG b).toNat 8), false⟩ .none)) seen))) ∧
    (∀ k v, Spec.Reaches k → s.checkChunk (s.readG a) = k → 0x20 ≤ o.toNat → v.toNat + 272 ≤ 0x18000 → v.toNat % 16 = 0 →
      let t := s.scanLocal s.cur v.toNat 272
      let u := t.sendImage (t.me.mem.image v.toNat 272)
      let req : MemOp := .reduce k.at o.toNat u.1 (u.2.me.mem.poisonedWords v.toNat 272) (s.readG a)
      (Ready s [a, b] [d, a, b] → v = s.readG b → Completes (.sop d a b z o) s
        ((u.2.pendG d).sendLoad (.gang s.me.slot d.toNat 8 false (s.me.priv = 1)) s.gang.uids true none req)
        (s.watchAtomic (s.readG a) 272)) ∧
      (Ready s [a, d, b] [d, a, b] → v = s.readG d → (s.readG b).toNat < 0x18000 → (s.readG b).toNat % 8 = 0 →
        Completes (.sopq d a b z o) s (u.2.sendLoad (.future (s.readG b).toNat) s.gang.uids true none req)
          (s.watchAtomic (s.readG a) 272))) ∧
    (Ready s [a, b] [d, a, b] → (s.readG a).toNat < 0x18000 → (s.readG a).toNat % size = 0 →
      let t := s.scanLocal s.cur (s.readG a).toNat size
      let x := t.me.mem.atomic (s.readG a).toNat o.toNat size (s.readG b)
      Completes (.amol d a b z o) s ((t.modMe fun k => { k with mem := x.1 }).writeG d x.2.1.val x.2.1.poison)
        (s.watchAtomic (coreAddr s.cur (s.readG a).toNat) size)) ∧
    ∀ k c chain i, Ready s [a] [a] → (s.readG a).toNat < 0x18000 → (s.readG a).toNat % 32 = 0 →
      let t := s.scanLocal s.cur (s.readG a).toNat 32
      t.me.mem.poisoned (s.readG a).toNat 32 = false → i = parseChain (t.me.mem.image (s.readG a).toNat 32) →
      i.ok (t.me.mem.image (s.readG a).toNat 32) = true → s.checkAtomic i.addr (Machine.sizeOf i.sz) false = k → Spec.Reaches k →
      (i.kind = 0 ∧ chain = .none ∨
        i.kind = 1 ∧ s.checkAtomic i.dest (Machine.sizeOf i.sz2) false = c ∧ Spec.Reaches c ∧ chain = .packet c.at i.op2 i.sz2 ∨
        i.kind = 2 ∧ channelWordOk i.dest = true ∧ s.sees (coreOf i.dest) = true ∧ chain = .message i.dest ∨
        i.kind = 3 ∧ ∃ n off, s.target i.dest 8 = .ok (n, off) ∧ chain = .future n off) →
      Completes (.sopCh a) s (t.sendStore s.gang.uids none (.packet k.at i.op i.sz ⟨i.operand, false⟩ chain))
        (s.watch true (i.seen s.cur))

/-- Futures (spec/10 R241-R244) and dependence counters (R245, R246): on a word of the issuing core a future operation is
performed at issue; on another core's word the gang's first part asks and its second part takes the answer, or `gD` awaits
it; a counter update leaves for its core. (The model's readings in it: log 32.) -/
def Obligations.FuturesAndCountersComplete : Prop :=
  ∀ (s : State) (d a b : BitVec 4) (c off : Nat), s.me.acquiring = false →
    let put := s.watchTarget (s.readG a) 8 false true
    let take := s.watchTarget (s.readG a) 8 true false
    (s.target (s.readG a) 8 = .ok (c, off) → s.gang.arrivedPending s.gang.indices = false →
      (c = s.cur →
        (∀ t ok v, s.ownFuture off .put (s.datumG b) = (t, ok, v) → ok = true → Fresh s → s.gang.kind = .carry →
          s.me.priv = 0 → s.me.drained = true → Ready s [a] [a, b] → Completes (.fput a b) s t put) ∧
        (∀ t ok v, s.ownFuture off .putnb (s.datumG b) = (t, ok, v) → s.me.drained = true → Ready s [a] [d, a, b] →
          Completes (.fputnb d a b) s (t.writeG d (if ok then 1 else 0)) put) ∧
        (∀ t ok v, s.ownFuture off .take ⟨0, false⟩ = (t, ok, v) → ok = true → Fresh s → s.gang.kind = .carry →
          s.me.priv = 0 → Ready s [a] [d, a] → Completes (.ftake d a) s (t.writeG d v.val v.poison) take) ∧
        (∀ t ok v, s.ownFuture off .takenb ⟨0, false⟩ = (t, ok, v) → Ready s [a] [d, a, b] →
          Completes (.ftakenb d a b) s ((t.writeG d v.val v.poison).writeG b (if ok then 1 else 0)) take) ∧
        (∀ t ok v, s.ownFuture off .peek ⟨0, false⟩ = (t, ok, v) → Ready s [a] [d, a, b] →
          Completes (.fpeek d a b) s ((t.writeG d v.val v.poison).writeG b (if ok then 1 else 0)) take)) ∧
      (c ≠ s.cur → s.me.loadRoom 1 = true → s.me.storeRoom 1 = true → Ready s [a] [d, a, b] →
        (s.me.drained = true → Completes (.fputnb d a b) s
          ((s.pendG d).sendLoad (.gang s.me.slot d.toNat 8 false (s.me.priv = 1)) s.gang.uids true (some c)
            (.future off .putnb (s.datumG b))) put) ∧
        let acq := ((s.pendG d).pendG b).modGang fun g => { g with acq := g.acq ++ [((s.pendG d).pendG b).nextTag] }
        Completes (.ftakenb d a b) s (acq.sendLoad (.gangs s.me.slot d.toNat b.toNat (s.me.priv = 1)) s.gang.uids true (some c)
          (.future off .takenb ⟨0, false⟩)) take ∧
        Completes (.fpeek d a b) s (acq.sendLoad (.gangs s.me.slot d.toNat b.toNat (s.me.priv = 1)) s.gang.uids true (some c)
          (.future off .peek ⟨0, false⟩)) take)) ∧
    (∀ tag v ok, s.gang.phase = .answered tag v ok →
      Completes (.fput a b) s s put ∧ Completes (.ftake d a) s (s.writeG d v.val v.poison) take) ∧
    ∀ o : BitVec 1, s.target (s.readG a) 32 = .ok (c, off) → s.gang.arrivedPending s.gang.indices = false →
      s.me.drained = true → s.me.storeRoom 1 = true → (o = 1 → s.me.loadRoom 1 = true) →
      Ready s [a, b] (if o = 1 then [d, a, b] else [a, b]) →
      let t (k : CtrOp) : State := (if o = 1 then s.pendG d else s).sendLoad
        (if o = 1 then .gang s.me.slot d.toNat 8 false (s.me.priv = 1) else .update) s.gang.uids true (some c)
        (.counter off k (s.readG b))
      let seen := s.watchTarget (s.readG a) 4 (o = 1) true
      Completes (.dcset d a b o) s (t .set) seen ∧ Completes (.dcadd d a b o) s (t .add) seen ∧
        Completes (.dcdec d a b o) s (t .dec) seen

/-- Barriers (spec/10 R247-R251), fences (R252, R253) and timelines (R254, R255). (The model's readings in it: logs 34, 40.) -/
def Obligations.SynchronisationComplete : Prop :=
  (∀ (s : State) (a b : BitVec 4) (n sc : BitVec 3) (r : Barrier) (count st : Nat), r = s.me.barrier n.toNat →
    count = fieldOf (s.readG a) 15 0 → Ready s [a] [a, b] →
    (st = s.barbindStatus s.cur n.toNat (sc.toNat + 1) count →
      (st ≠ 0 → Completes (.barbind a b n sc) s (s.writeG b (w64 st))) ∧
      (st = 0 → count = 0 → Completes (.barbind a b n sc) s
        (((s.leaveBarrier s.cur n.toNat).modMe (·.setBarrier n.toNat { scope := 0, gen := r.gen })).writeG b 0)) ∧
      (st = 0 → count ≠ 0 → Completes (.barbind a b n sc) s
        (((if r.scope = sc.toNat + 1 then s else s.leaveBarrier s.cur n.toNat).joinBarrier s.cur n.toNat (sc.toNat + 1)
          count).writeG b 0))) ∧
    (r.scope ≠ 0 →
      (s.gang.arrivedPending s.gang.indices = false → s.me.drained = true → r.arrived + count ≤ 65535 →
        s.me.storeRoom 1 = true →
        Completes (.bararr a b n) s ((s.arriveBarrier s.cur n.toNat count (some s.gang.uids)).writeG b (w64 r.gen))) ∧
      (s.gang.kind = .carry → s.me.priv = 0 → r.gen ≠ count → Completes (.barwait a n) s s) ∧
      Completes (.barwaitnb a b n) s (s.writeG b (if r.gen = count then 0 else 1)))) ∧
  (∀ (s : State) (sc : BitVec 3), s.gang.arrivedPending s.gang.indices = false →
    (sc = 6 ∨ s.me.drained = true → Completes (.fence sc) s s) ∧
    (sc = 6 ∨ s.me.loads.any (fun e => e.slot = s.me.slot && !e.orphan && acquired e.req.op) = false →
      Completes (.fenceAcq sc) s s) ∧
    Completes (.fenceRel sc) s (if sc = 6 then s else (s.modGang fun g => { g with rel := some s.me.gangTags }).closing)) ∧
  ∀ (s : State) (a b : BitVec 4),
    (∀ tag v ok, s.gang.phase = .answered tag v ok →
      Completes (.tlwait a b) s s (s.watch true [⟨0, s.readG a, 8, true, false⟩])) ∧
    ∀ k, Open s → Ready s [a, b] [a, b] → Spec.Reaches k →
      (s.checkTimeline (s.readG a) false = k → Completes (.tlwaitnb a b) s
        (((s.pendG b).acquires).sendLoad (.gang s.me.slot b.toNat 8 false (s.me.priv = 1)) [] false none
          (.watch k.at (s.readG b) false)) (s.watch true [⟨0, s.readG a, 8, true, false⟩])) ∧
      (s.checkTimeline (s.readG a) true = k → s.me.drained = true →
        Completes (.tladd a b) s (s.sendStore s.gang.uids none (.timeline k.at false (s.readG b)))
          (s.watch true [⟨0, s.readG a, 8, true, true⟩]) ∧
        Completes (.tladdSet a b) s (s.sendStore s.gang.uids none (.timeline k.at true (s.readG b)))
          (s.watch true [⟨0, s.readG a, 8, false, true⟩]))

/-- A local image of `n` words that an instruction reads: its offset is aligned, inside local memory, and none of it is
poisoned; `t` is the state after the read (spec/11 R262). -/
def Sys2Proof.Spec.ImageAt (s t : State) (a : BitVec 4) (align n : Nat) : Prop :=
  s.me.acquiring = false ∧ (s.readG a).toNat < 0x18000 ∧ (s.readG a).toNat % align = 0 ∧
    t = s.scanLocal s.cur (s.readG a).toNat (8 * n) ∧ t.me.mem.poisoned (s.readG a).toNat (8 * n) = false

/-- Tensor maps and rings (spec/11 R257-R260, R271-R274): a set with status 0 takes effect, any other status is reported;
a get stores the words; `rgpush` and `rgpop` move the ring and report 1, or report 0. (The model's readings in it: log 33.) -/
def Obligations.MapsAndRingsComplete : Prop :=
  ∀ (s t : State) (a b : BitVec 4) (n : BitVec 3),
    (∀ ws st, ImageAt s t a 64 8 → Ready s [a] [a, b] → ws = t.me.mem.wordsAt (s.readG a).toNat 8 → st = tmapStatus ws →
      Completes (.tmset a b n) s
        ((if st = 0 then t.modMe fun k => { k with tmaps := mput k.tmaps n.toNat ws } else t).writeG b (w64 st))) ∧
    (∀ w0 w1 st, ImageAt s t a 16 2 → Ready s [a] [a, b] → w0 = w64 (t.me.mem.load (s.readG a).toNat 8) →
      w1 = w64 (t.me.mem.load ((s.readG a).toNat + 8) 8) → st = (t.me.ring n.toNat).status w0 w1 →
      Completes (.rgset a b n) s ((if st = 0 then t.modMe (·.setRing n.toNat
        { t.me.ring n.toNat with word0 := w0, overrun := false, valid := true }) else t).writeG b (w64 st))) ∧
    (s.me.acquiring = false → s.me.fenced = false → Ready s [a] [a] → (s.readG a).toNat < 0x18000 →
      ((s.readG a).toNat % 64 = 0 → Completes (.tmget a n) s (s.storeLocal
        ((mapWords (s.me.tmap n.toNat)).mapIdx fun i w => ⟨(s.readG a).toNat + 8 * i, 8, w, false⟩))) ∧
      ((s.readG a).toNat % 16 = 0 → Completes (.rgget a n) s (s.storeLocal
        [⟨(s.readG a).toNat, 8, (s.me.ring n.toNat).word0, false⟩, ⟨(s.readG a).toNat + 8, 8, (s.me.ring n.toNat).word1, false⟩]))) ∧
    ∀ r, Ready s [a] [a, b] → r = s.me.ring n.toNat → r.valid = true →
      (s.gang.arrivedPending s.gang.indices = false → s.me.drained = true →
        (∀ r', r.push (s.readG a).toNat = some r' → Completes (.rgpush a b n) s ((s.modMe (·.setRing n.toNat r')).writeG b 1)) ∧
        (r.push (s.readG a).toNat = none → Completes (.rgpush a b n) s (s.writeG b 0))) ∧
      ((s.readG a).toNat ≤ r.held ∧ r.busy = 0 →
        Completes (.rgpop a b n) s ((s.modMe (·.setRing n.toNat (r.setHead (r.head + (s.readG a).toNat)))).writeG b 1)) ∧
      (¬((s.readG a).toNat ≤ r.held ∧ r.busy = 0) → Completes (.rgpop a b n) s (s.writeG b 0))

/-- The copy engine's instructions (spec/11 R261-R270): a valid copy or fence enters its queue; `cwait` is over when the
entries it waits for are; the status word of Table 11-4. (The model's readings in it: log 33.) -/
def Obligations.CopyEngineFormsComplete : Prop :=
  (∀ (s : State) (a b : BitVec 4) (x y : BitVec 3) (w : BitVec 1) (j : BitVec 3) (k q : BitVec 2), Ready s [a, b] [a, b] →
    s.me.acquiring = false → s.me.fenced = false → (s.me.copyQ q.toNat).entries.length < 16 →
    let src := s.me.tmap x.toNat
    let dst := if k = 2 then [] else s.me.tmap y.toNat
    let total := (parseMap src).bytes
    let job : CopyJob := .copy src dst (s.readG a) (s.readG b) k.toNat j.toNat (w = 1) total
    (k ≠ 2 → s.copyOk (parseMap src) (parseMap dst) (s.readG a) (s.readG b) = true) →
    (k = 2 → s.streamOk (parseMap src) (s.readG a) = true) →
    (k = 3 → (s.me.ring j.toNat).valid = true) →
    (k ≠ 1 → Completes (.ccopy a b x y w j k q) s (s.pushCopy q.toNat job)) ∧
    (k = 1 → (s.me.barrier j.toNat).scope ≠ 0 → (s.me.barrier j.toNat).pending + total ≤ 2 ^ 28 - 1 →
      Completes (.ccopy a b x y w j k q) s ((s.setPending s.cur j.toNat (· + total)).pushCopy q.toNat job))) ∧
  (∀ (s : State) (q : BitVec 2) (m : BitVec 5), s.me.acquiring = false → s.me.fenced = false →
    (s.me.copyQ q.toNat).entries.length < 16 → Completes (.cfence q m) s
      (s.pushCopy q.toNat (.fence (s.me.queued (m.toNat - if m.toNat.testBit q.toNat then 2 ^ q.toNat else 0))))) ∧
  (∀ (s : State) (m : BitVec 5),
    (∀ ids, s.gang.phase = .queues ids → s.me.unfinished ids = false → Completes (.cwait m) s s) ∧
    (Fresh s → s.gang.kind = .carry → s.me.priv = 0 → s.me.acquiring = false → s.me.queued m.toNat = [] →
      Completes (.cwait m) s s)) ∧
  ∀ (s : State) (a : BitVec 4) (q : BitVec 2), Ready s [] [a] →
    Completes (.cstat a q) s (s.writeG a (s.me.copyStatus q.toNat)) ∧
    Completes (.cstatDrop a q) s ((s.dropCopy q.toNat).writeG a ((s.dropCopy q.toNat).me.copyStatus q.toNat))

/-- A matrix command that is accepted (spec/11 R278): no bad field, a bound barrier, room in the queue and in PENDING. -/
def Sys2Proof.Spec.Accepts (s : State) (e : MatrixEntry) (gang : Bool) : Prop :=
  s.badField s.cur e gang = none ∧ s.unboundFor s.cur e = false ∧ s.me.matrixQ.entries.length < 8 ∧ s.me.fenced = false ∧
    s.pendingFull s.cur e = false

/-- The matrix unit's instructions (spec/11 R275-R289): commands, fences and drains enter the queue; `mresume` lets a
stopped command go on, `mresume.abort` discards it; the status words. (The model's readings in it: log 15.) -/
def Obligations.MatrixFormsComplete : Prop :=
  (∀ (s t : State) (a : BitVec 4) (e : MatrixEntry), Ready s [a] [a] → ImageAt s t a 64 8 →
    e = t.matrixEntry t.cur ((t.me.mem.wordsAt (s.readG a).toNat 8).flatMap fun w => bytesOf w.toNat 8) →
    (Accepts t e false → Completes (.mcmd a) s (t.pushMatrix t.cur e)) ∧
    (Accepts t e true → t.gang.arrivedPending t.gang.indices = false → t.me.drained = true →
      Completes (.mgang a) s (t.pushMatrix t.cur e))) ∧
  (∀ (s : State) (m : BitVec 4) (e : MatrixEntry), s.me.acquiring = false → s.me.matrixQ.entries.length < 8 →
    s.me.fenced = false → e = s.matrixEntry s.cur (bytesOf 3 8 ++ bytesOf m.toNat 8 ++ bytesOf 0 48) →
    Completes (.mfence m) s (s.pushMatrix s.cur e)) ∧
  (∀ (s : State) (a b : BitVec 4) (o t c : BitVec 3) (e : MatrixEntry), Ready s [a, b] [a, b] → s.me.acquiring = false →
    fieldOf (s.readG a) 63 3 = 0 →
    e = s.matrixEntry s.cur (drainImage (fieldOf (s.readG a) 2 0) t.toNat o.toNat
      (8 * bnat (c.getLsbD 0) + 4 * bnat (c.getLsbD 1)) (bnat (c.getLsbD 2)) (s.readG b)) →
    Accepts s e false → Completes (.mdrain a b o t c) s (s.pushMatrix s.cur e)) ∧
  (∀ (s : State),
    (s.me.matrixQ.entries = [] ∨ s.me.matrixQ.cause = 0 → Completes .mresume s s ∧ Completes .mresumeAbort s s) ∧
    ∀ e es, s.me.matrixQ.entries = e :: es → s.me.matrixQ.cause ≠ 0 →
      (¬(e.op = 0 ∧ e.steps < s.me.mprog.toNat) → Completes .mresume s (s.modMe fun k =>
        let x := k.modMatrix fun e => { e with fresh := true }
        { x with matrixQ := { x.matrixQ with cause := 0 } })) ∧
      Completes .mresumeAbort s ((s.giveBack s.cur e).popMatrix s.cur)) ∧
  ∀ (s : State) (a : BitVec 4), Ready s [] [a] →
    Completes (.mstat a) s (s.writeG a s.me.matrixStatus) ∧
    Completes (.mstatCtx a) s (s.writeG a (w64 ((s.formatCtx s.cur).mdraw.toNat * 2 ^ 32 + (s.formatCtx s.cur).fmtB * 65536 +
      (s.formatCtx s.cur).fmtA * 256 + bnat (s.formatCtx s.cur).rsr)))

/-- Change queues and arrangements (spec/20 R444-R454): a put of multiplicity 0 changes nothing, any other travels to the
slice; a local arrangement is searched at issue, one in a slice at the slice; `dxseal`, `dxquiet` and `dxquietnb`.
(The model's readings in it: log 19.) -/
def Obligations.ChangeQueueFormsComplete : Prop :=
  (∀ (s t : State) (d a b : BitVec 4) (c : BitVec 1) (df : Word) (k : Chk) (r : ChangeRec), Ready s [b, a] [d, a, b] → Open s →
    channelWordOk (s.readG a) = true → s.sees (coreOf (s.readG a)) = true → (s.readG b).toNat % 8 = 0 →
    (s.readG b).toNat + 40 ≤ 0x18000 → t = s.scanLocal s.cur (s.readG b).toNat 40 →
    t.me.mem.poisoned (s.readG b).toNat 40 = false → df = w64 (t.me.mem.load ((s.readG b).toNat + 32) 8) →
    s.checkDescriptor df = k → Spec.Reaches k → r = t.me.mem.recordAt (s.readG b).toNat →
    (r.mult = 0 → Completes (.dqput d a b c) s (t.writeG d 0)) ∧
    (r.mult ≠ 0 → t.me.loadRoom 1 = true → Completes (.dqput d a b c) s
      ((t.pendG d).sendLoad (.gang t.me.slot d.toNat 8 false (t.me.priv = 1)) t.gang.uids true none
        (.put df.toNat k.at (s.readG a) (c = 1) r)))) ∧
  (∀ (s t : State) (d a b : BitVec 4) (i : Instr) (kind : Nat) (r : ChangeRec) (cl : Nat), Ready s [a, b] [d, a, b] →
    s.me.acquiring = false → (s.readG a).toNat % 64 = 0 → (s.readG b).toNat % 8 = 0 → (s.readG b).toNat + 32 ≤ 0x18000 →
    t = s.scanLocal s.cur (s.readG b).toNat 32 → t.me.mem.poisoned (s.readG b).toNat 32 = false →
    r = t.me.mem.recordAt (s.readG b).toNat →
    ((i = .dxlook d a b 0 0 ∧ kind = 0) ∨ (i = .dxlook d a b 0 1 ∧ kind = 1) ∨ (i = .dxadd d a b 0 ∧ kind = 2) →
      (s.readG a).toNat + 64 ≤ 0x18000 →
      let u := t.scanLocal t.cur (s.readG a).toNat 64
      u.me.mem.poisoned (s.readG a).toNat 64 = false →
      (u.me.mem.caplog (s.readG a).toNat 11 = none → Completes i s (u.writeG d 0x8000000000000002#64)) ∧
      (u.me.mem.caplog (s.readG a).toNat 11 = some cl → (s.readG a).toNat + 64 + 32 * 2 ^ cl ≤ 0x18000 →
        (kind = 2 → u.me.fenced = false) →
        let v := u.scanEntries u.cur (s.readG a).toNat cl kind r
        v.me.mem.arrangeBad (s.readG a).toNat 11 kind r = false →
        let x := v.me.mem.arrange (s.readG a).toNat 11 kind r
        Completes i s ((v.modMe fun k => { k with mem := x.1 }).writeG d x.2))) ∧
    ((i = .dxlook d a b 1 0 ∧ kind = 0) ∨ (i = .dxlook d a b 1 1 ∧ kind = 1) ∨ (i = .dxadd d a b 1 ∧ kind = 2) →
      ∀ pa e, t.check (s.readG a) 8 64 (kind = 2) (if kind = 2 then 1 else 0) = .phys pa e → Open t → t.slicePending pa = false →
        (∀ cl, t.mem.caplog pa 10 = some cl → sliceFrame pa = true ∧ pa % 65536 + 64 + 32 * 2 ^ cl ≤ 65536) →
        Completes i s ((t.pendG d).sendLoad (.gang t.me.slot d.toNat 8 false (t.me.priv = 1)) t.gang.uids true none
          (.arrange pa kind r)))) ∧
  ∀ (s : State) (d a b : BitVec 4) (k : Chk) (w : BitVec 32), w = (s.readG b).setWidth 32 →
    (∀ tag v ok, s.gang.phase = .answered tag v ok → Completes (.dxquiet d a b) s (s.writeG d v.val v.poison)) ∧
    (Ready s [a, b] [d, a, b] → Open s → s.checkDescriptor (s.readG a) = k → Spec.Reaches k →
      (s.me.drained = true → Completes (.dxseal d a b) s
        ((s.pendG d).sendLoad (.gang s.me.slot d.toNat 8 false (s.me.priv = 1)) s.gang.uids true none (.seal k.at w))) ∧
      Completes (.dxquietnb d a b) s
        (((s.pendG d).acquires).sendLoad (.gang s.me.slot d.toNat 8 false (s.me.priv = 1)) [] false none
          (.quiet k.at w false (s.holds (s.readG a) w))))

/-- Special registers (spec/12 R300, spec/01 R33, R34): a lane register is read into every lane and `lt` and written from
every lane; any other goes through a gang register; a register that may only be read stays as it is.
(That a write to a read-only register waits for its source is the model's reading, log 17.) -/
def Obligations.SpecialRegisterFormsComplete : Prop :=
  ∀ (s : State) (d : BitVec 4) (n : BitVec 8), rightOf n.toNat s.me.priv.toNat ≠ .privileged →
    (laneSpecial n.toNat = true →
      (LanesReady s 0 s.gang.active [] [ltNum, d.toNat] → Completes (.sget d n) s
        (inLanes s s.gang.active fun i l => l.write d.toNat (l.special n.toNat i) false)) ∧
      (LanesReady s 0 s.gang.active [d.toNat] [d.toNat] → Completes (.sset d n) s
        (if rightOf n.toNat s.me.priv.toNat = .readOnly then s
         else inLanes s s.gang.active fun _ l => { l with draw := (l.read d.toNat).setWidth 32 }))) ∧
    (laneSpecial n.toNat = false →
      (Ready s [] [d] → Completes (.sget d n) s (s.writeG d (s.special n.toNat))) ∧
      (Ready s [d] [d] → Completes (.sset d n) s
        (if rightOf n.toNat s.me.priv.toNat = .readOnly then s else s.setSpecial n.toNat (s.readG d))))

/-- Calls, breakpoints and the return from a trap (spec/12 R296, R301, R305): the call and the breakpoint are taken after
the instruction, with its number; at levels 1 and 2 `pcall` is a partition service; `tret` reloads the queue. -/
def Obligations.CallsAndReturnComplete : Prop :=
  ∀ (s : State) (d a : BitVec 4) (n : BitVec 8),
    (s.me.priv = 0 ∨ s.me.priv = 1 → Ready s [a] [d, a] → Completes (.scall d a n) s
      (s.modMe fun k => { k with answer := some (d.toNat + if k.priv = 1 then 16 else 0) })
      [⟨0x13, n.toNat, s.readG a, s.allLanes⟩]) ∧
    (Ready s [a] [d, a] →
      (s.me.priv = 0 → Completes (.pcall d a n) s s [⟨0x14, n.toNat, s.readG a, s.allLanes⟩]) ∧
      (s.me.priv ≠ 0 → Completes (.pcall d a n) s
        ((s.service n.toNat (s.readG a)).1.writeG d (w64 (s.service n.toNat (s.readG a)).2)))) ∧
    Completes (.brk n) s s [⟨0x0F, 0, n.setWidth 64, s.allLanes⟩] ∧
    Completes (.brkCompact n) s s [⟨0x0F, 0, n.setWidth 64, s.allLanes⟩] ∧
    (s.me.priv = 1 → ∀ t, t = s.setMe s.me.leave →
      let issued (t : State) : State := t.modMe fun k => if s.me.slot < 4 then { k with lastSlot := s.me.slot } else k
      (∀ i, s.me.owner = .gang i → Machine.exec .tret s =
        .next (issued (if (t.me.at i).halted then t.tellHalt s.cur s.me.slot else t))) ∧
      (s.me.owner = .system → Machine.exec .tret s = .next (issued t)))

/-- The instructions of the trap routine (spec/12 R302, R303, R305, R307; spec/23 R480, R482): debug points, halt and step
requests, the interrupted gang's registers, the handler table. (The model's readings in it: log 17.) -/
def Obligations.TrapRoutineFormsComplete : Prop :=
  ∀ (s t : State) (d a n : BitVec 4), s.me.priv = 1 →
    (∀ (k : BitVec 1) (i : BitVec 3) (w0 w1 : Word) (st : Nat), ImageAt s t a 16 2 → Ready s [a] [d, a] →
      w0 = w64 (t.me.mem.load (s.readG a).toNat 8) → w1 = w64 (t.me.mem.load ((s.readG a).toNat + 8) 8) →
      st = t.pointStatus (k = 1) w0 w1 →
      Completes (.wpset d a k i) s ((if st = 0 ∧ t.reachesCtx = true then t.setPoint (k = 1) i.toNat w0 w1 else t).writeG d (w64 st))) ∧
    Completes .halt s (s.onInterrupted fun g => { g with haltAtTret := true }) ∧
    Completes (.sstep a) s (s.onInterrupted fun g => { g with stepArmed := .gang }) ∧
    (Ready s [a] [a] → Completes (.sstepLn a) s
      (s.onInterrupted fun g => { g with stepArmed := .lane ((s.readG a).toNat % 32) })) ∧
    (Ready s [] [d] →
      (∀ i, s.me.owner = .gang i → (s.me.at i).ownPend n.toNat = false →
        Completes (.cldw d n) s (s.writeG d ((s.me.at i).own n.toNat) ((s.me.at i).ownBad n.toNat)) ∧
        (n ≠ 0 → Completes (.cldwW d n) s (s.modMe fun k => k.setAt i { s.me.at i with
          g := mset 0 (s.me.at i).g n.toNat (s.readG d),
          gPoison := bput (s.me.at i).gPoison n.toNat (s.me.poisonG d.toNat) })) ∧
        (n = 0 → Completes (.cldwW d n) s s)) ∧
      (s.me.owner = .system → Completes (.cldw d n) s (s.writeG d 0) ∧ Completes (.cldwW d n) s s)) ∧
    ∀ c : BitVec 6,
      (s.me.acquiring = false → s.me.fenced = false → Ready s [a] [a] → (s.readG a).toNat < 0x18000 →
        (s.readG a).toNat % 16 = 0 → Completes (.chrd a c) s (s.storeLocal
          [⟨(s.readG a).toNat, 8, (s.me.channel c.toNat).word0, false⟩,
           ⟨(s.readG a).toNat + 8, 8, s.me.channelStatus c.toNat, false⟩])) ∧
      ∀ x st, ImageAt s t a 16 2 → Ready s [a] [d, a] →
        x = (t.me.channel c.toNat).written (w64 (t.me.mem.load (s.readG a).toNat 8)) (w64 (t.me.mem.load ((s.readG a).toNat + 8) 8)) →
        st = (if t.me.bindStatus c.toNat x ≠ 0 then t.me.bindStatus c.toNat x
          else if t.me.resident c.toNat ∨ (t.me.channel c.toNat).state = 2 then 4 else 0) →
        (st ≠ 0 → Completes (.chwr d a c) s (t.writeG d (w64 st))) ∧
        (st = 0 → Completes (.chwr d a c) s
          ((((t.modMe (·.setChannel c.toNat x)).bindRing t.cur c.toNat).regrant t.cur c.toNat).writeG d 0))


/-- Error banks, injections, idle and invalidations at levels 1 and 2 (spec/12 R306, R307, R314, R321): an invalidation is
over when every core of its scope has acknowledged it.

The first part of an invalidation (spec/12 R314, R315): after the release, the entries of the scope's buffers are gone
and every core of the scope has an acknowledgement on its way; the gang waits for them. (The model's choices in it: log 18.) -/
def Obligations.MaintenanceFormsComplete : Prop :=
  (∀ (s : State) (d a : BitVec 4) (w : BitVec 2) (n : BitVec 8), s.me.priv = 1 ∨ s.me.priv = 2 →
     (Ready s [a] [d, a] →
       (s.me.priv = 2 ∨ s.readG a = 0 → ∀ b, s.bank (s.bankNamed (s.readG a)) = some b →
         Completes (.ebrd d a w) s ((s.setBank (b.read w.toNat).2 (s.bankNamed (s.readG a))).writeG d (b.read w.toNat).1) ∧
         Completes (.ebrdClr d a w) s
           ((s.setBank (b.read w.toNat).2.clear (s.bankNamed (s.readG a))).writeG d (b.read w.toNat).1)) ∧
       (s.me.priv = 2 → s.bank (s.bankNamed (s.readG a)) = none →
         Completes (.ebrd d a w) s (s.writeG d 0) ∧ Completes (.ebrdClr d a w) s (s.writeG d 0)) ∧
       (s.me.inject.any (·.1 = n.toNat) = true → Completes (.inj d a n) s (s.writeG d 1)) ∧
       (s.me.inject.any (·.1 = n.toNat) = false → Completes (.inj d a n) s
         ((s.modMe fun k => { k with inject := k.inject ++ [(n.toNat, s.readG a)] }).writeG d 0))) ∧
     (Ready s [a] [a] → Completes (.idle a) s (s.modMe fun k => { k with idle := some (s.clock, (s.readG a).toNat) })) ∧
     ∀ (sc : BitVec 3) tag x, s.gang.phase = .acks tag 0 x →
       Completes (.xlinv a sc) s s ∧ Completes (.xlinvLg a sc) s s ∧ Completes (.xlinvAll sc) s s) ∧
  (∀ (s : State) (a : BitVec 4) (sc : BitVec 3), s.me.priv = 1 ∨ s.me.priv = 2 → Fresh s →
     s.gang.arrivedPending s.gang.indices = false → s.me.drained = true →
     (Ready s [a] [a] →
       Waits (.xlinv a sc) s (s.invalidate (sc.toNat + 1) (.small (pageOf (s.readG a)))) ∧
       Waits (.xlinvLg a sc) s (s.invalidate (sc.toNat + 1) (.large (pageOf (s.readG a))))) ∧
     Waits (.xlinvAll sc) s (s.invalidate (sc.toNat + 1) .all))

/-- Messages on their way (spec/06 R136-R161, R169-R172; spec/10 R246; spec/12 R317; spec/20 R445, R446): a granted message
leaves its source; a request joins its channel; a grant, a revocation and a refusal reach the source; an arrival fills its
slots; a spilled message enters its ring; a ring drains; a rebinding takes effect; a directory copy is dropped; a counter's
crossing is queued; the strands of a transfer leave. (The model's choices in it: logs 29, 34; that the record of a refused message
names the core that refuses it is the model's reading, log 43.) -/
def Obligations.MessageEventsComplete : Prop :=
  ∀ (s : State) (src : Source) (id core ch : Nat) (q : GrantAsk) (m : Msg) (o : Outbound),
    Does (.carryMessageSend src id) s (s.leave src id) ∧ Does (.outboundRecordSend src id) s (s.leave src id) ∧
    ((s.core core).requestReady.find? (fun o => (s.core core).ready.any (·.msg.id = o.msg.id)) = some o →
      Does (.readyQueueSend core) s (s.leave (.core core) o.msg.id)) ∧
    (∀ e r, sliceReady core (mget [] s.changes core) = e :: r →
      Does (.changeSliceQueueSend core) s (s.leave (.slice core) e.msg.id)) ∧
    (s.fenced q.dst = false → Does (.grantRequest q) s
      ((s.modCore q.dst fun k => { k with asks := k.asks ++ [q] }).regrant q.dst q.ch)) ∧
    ((s.outsOf q.src).find? (fun o => o.msg.id = q.id && !o.sent && !o.granted) = some o →
      Does (.grant q) s (s.mapOut q.src q.id fun o => { o with granted := true })) ∧
    ((s.outsOf q.src).find? (fun o => o.msg.id = q.id && o.granted && !o.sent) = some o →
      Does (.revocation q) s (s.mapOut q.src q.id fun o => { o with granted := false, asked := false })) ∧
    (∀ c, q.src = .core core → (s.outsOf q.src).find? (fun o => o.msg.id = q.id && !o.sent) = some o →
      o.msg.body = .carry c → let t := s.mapOut q.src q.id fun o => { o with refused := true }
      Does (.refusal q) s ((t.recordCore q.dst 0x08 [w64 (kindCode q.kind), channelWord q.dst q.ch, sourceWord q.src]).push
        (.noticePost ⟨.core q.dst, t.noticeOf 0x4B 0 (channelWord q.dst q.ch) (sourceWord q.src) 0, false⟩))) ∧
    (s.fenced m.dst = false →
      Does (.carryArrival m) s (s.arrive m) ∧
      (((s.arrive m).outsOf m.src).find? (fun o => o.msg.id = m.id && o.sent) = none →
        Does (.dataMessageArrival m) s (s.arrive m)) ∧
      (∀ d r, m.body = .change d r → ((s.core m.dst).channel m.ch).cons = false →
        Does (.changeMessageArrival m) s (s.arrive m))) ∧
    (∀ c e n, (s.outsOf (.core core)).find? (fun o => o.msg.id = id && !o.granted && !o.sent) = some o → o.msg.body = .carry c →
      s.walk s.ctx.part.toNat (s.ringAt (routineOf c.code) / 65536) = some e → e.wr = true →
      s.ringHeld (routineOf c.code) = some n → n < 255 →
      let r := routineOf c.code
      let j := ((s.readV s.ctx.part.toNat (s.ringAt r)).getD 0).toNat
      let paid : State := { s with
        quotas := s.afterCharge (.core core) (s.sourcePart (.core core) (arrivalEvent o.msg)) spillCost }
      let t := (paid.writeRing r j c).modCore o.msg.dst fun k => k.setChannel o.msg.ch { k.channel o.msg.ch with ovf := true }
      let u := (((t.dropOut (.core core) id).withdraw o.ask).modCore core (·.bump 0x0104))
      Does (.spill (.core core) id) s (u.recordSource (.core core) 0x04 [w64 r, w64 j, w64 (s.rankOf o.msg.dst)]).wake) ∧
    (((s.core core).channel ch).drains = true →
      (s.ringHeld ((s.core core).channel ch).routine = some 0 → Does (.ringDrain core ch) s
        ((s.setCore core ((s.core core).setChannel ch { (s.core core).channel ch with ovf := false })).regrant core ch)) ∧
      ∀ j pa e n, s.ringHeld ((s.core core).channel ch).routine = some (n + 1) →
        j = ((s.readV s.ctx.part.toNat (s.ringAt ((s.core core).channel ch).routine + 8)).getD 0).toNat →
        s.readDir ((s.core core).channel ch).routine = some e →
        s.resolve s.ctx.part.toNat (s.ringSlot ((s.core core).channel ch).routine j) false = some pa →
        s.mem.load (pa + 0xF8) 8 = j + 1 → carrySlots e.count ≤ (s.core core).slotsFree ch →
        let m := parseCarry (s.mem.image pa 0xE0) e.carry s.nextTag fun i => s.mem.poisoned (pa + i) 8
        Does (.ringDrain core ch) s (((s.writeSeen s.ctx.part.toNat (s.ringAt ((s.core core).channel ch).routine + 8)
          (bytesOf (j + 1) 8)).fresh).arrive
            { src := .core core, id := s.nextTag, dst := core, ch, slots := carrySlots e.count, body := .carry m })) ∧
    (∀ w en ho c, ((s.core core).channel ch).next = some (w, en, ho) →
      c = ({ word0 := w, enable := en, hold := ho, ovf := ((s.core core).channel ch).ovf } : Channel) →
      Does (.rebindingTakesEffect core ch) s
        ((((s.setCore core ((s.core core).setChannel ch { c with state := if c.routine = 0 then 0 else 1 })).bindRing core
          ch).regrant core ch).wake)) ∧
    (∀ e, ((s.core core).channel ch).next = none → ((s.core core).channel ch).retire = true →
      let r := ((s.core core).channel ch).routine
      let t := s.setCore core ({ s.core core with placed := (s.core core).placed.filter (·.id ≠ r) }.setChannel ch {})
      t.readDir r = some e → Does (.rebindingTakesEffect core ch) s (t.writeDir (e.without (e.places.findIdx (· = core))))) ∧
    Does (.directoryInvalidationAck core id) s
      ((((s.modCore core fun k => { k with dir := k.dir.filter (·.id ≠ id) }).lessAcks (dirTag id)).lessChange id)).wake ∧
    (∀ b, (s.core core).bindings.find? (fun b => b.sel = id && b.remembered.isSome) = some b → (s.core core).ready.length < 16 →
      Does (.counterEvent core id) s ((s.setCore core { s.core core with
        ready := (s.core core).ready ++ [readyMessage core s.nextTag b.ch 2 s.clock (w64 id) (b.remembered.getD 0)],
        bindings := (s.core core).bindings.map fun x => if x.sel = id then { x with remembered := none } else x }).fresh)) ∧
    (∀ x, s.me.xfer = some x →
      (x.packed = false → Does .transferPacking s (s.pack x)) ∧
      (x.packed = true → s.me.outbox.any (·.slot = s.me.slot) = false → Does .transferPacking s
        (s.endXfer x ((List.range s.gang.lanes.length).filter fun i => (s.gang.lane i).packed))))

/-- Firings, traps and time at a core, and the derrick (spec/04 R115; spec/06 R152, R154; spec/12 R293-R298; spec/16 R366-R377):
what fires forms a gang, a pending cause is taken, a timer, an idle time and a watchdog run out, an annulled entry passes, a
launch is distributed or over, and a context starts. (The model's choices in it: logs 6, 29, 37.) -/
def Obligations.CoreAndDerrickEventsComplete : Prop :=
  ∀ (s : State) (core ch slot : Nat) (c : Cause) (v : Word),
    ((s.core core).eligible ch = true →
      (∀ m r x, ((s.core core).channel ch).kind = 0 → m.frame = none →
        ((s.core core).arrivalsAt ch).filterMap (fun a => match a.msg.body with
          | .carry m => some (a.msg, m)
          | _ => none) = (x, m) :: r → Does (.firing core ch) s (s.formCarry core ch m.code)) ∧
      (((s.core core).channel ch).kind = 1 → Does (.firing core ch) s (s.formMessage core ch)) ∧
      (((s.core core).channel ch).kind = 2 → Does (.firing core ch) s (s.formChange core ch))) ∧
    (s.pendingTrap core = some (none, c) → c.code = 0x12 → Does (.trapEntry core) s
      ((({ s with cur := core } : State).modMe fun k => { k with timerPending := false }).enterTrap none c)) ∧
    (s.pendingTrap core = some (some slot, c) → c.code = 0x12 → Does (.trapEntry core) s
      ((((({ s with cur := core } : State).abandon core slot).modMe fun k => { k with slot := slot }).modMe fun k =>
        { k with timerPending := false }).takeTrap c)) ∧
    Does (.timerExpiry core) s
      (s.modCore core fun k => { k with timer := 0, timerAt := s.clock, timerPending := true, idle := none }).wake ∧
    Does (.idleExpiry core) s (s.modCore core fun k => { k with idle := none }) ∧
    Does (.watchdogExpiry core) s
      ((((s.setCore core { s.core core with barked := true }).recordCore core 0x09 [w64 core, w64 (s.core core).stall]).freeze
        (s.dieOf core) 2).push (.noticePost ⟨.core core, ⟨w64 (0x57 + s.ctx.id.toNat * 65536 + core * 2 ^ 32), 0, 0, 0⟩, false⟩)) ∧
    Does .delaySlotAnnul s (s.modMe fun k => { k.modGang (fun g =>
      { g.retire (k.succ g.q2) (k.priv = 1) with skipBreak := g.skipBreak }) with lastSlot := k.slot }) ∧
    (∀ q b s', s.derrickQueue = some q → s' = ({ s with ctx := { s.ctx with queueLast := q } } : State) →
      s'.headRecord q = some b →
      (s'.headInvalid b = true → ∃ t, Does .derrickSelection s t ∧ t.events = (s'.raiseHead q).events ++
        [.noticePost ⟨.derrick, ⟨w64 (0x44 + s'.ctx.id.toNat * 65536), w64 q, w64 (s'.queueWord q 8), 0⟩, false⟩]) ∧
      ∀ e i l, s'.headInvalid b = false → s'.readDir (imageAt b 0 2) = some e →
        s'.ctx.headLeft.find? (·.1 = q) = some (q, i, l) → ∀ t j, s'.distribute b e l (imageAt b 4 4) 32 i = (t, j) →
        Does .derrickSelection s { t with ctx := { t.ctx with headLeft := t.ctx.headLeft.filter (·.1 ≠ q) ++ [(q, j, l)] } }) ∧
    (∀ l, s.ctx.launches.find? (·.id = slot) = some l → l.done = none → Does (.launchDone ch slot) s
      { s with ctx := { s.ctx with launches := s.ctx.launches.filter (·.id ≠ slot) } }) ∧
    (fieldOf v 63 6 = 0 → v.getLsbD 4 = false → Does (.launchQueueControl ch v) s
      { s with ctx := { s.ctx with controls := mput s.ctx.controls ch (BitVec.ofNat 8 (v.toNat % 64)) } }) ∧
    ∀ (r : StartReq) ns, ns = (s.numbered (imageAt r.image 6 2 % 2 = 1) r.rects).map (·.1) →
      (s.ctx.started = true → s.ctx.ended = true) → s.areaFree r = true → sizeOk r.image r.rects = true →
      blockOk r ns = true → ns ≠ [] →
      (imageOk r.image ns = none → Does (.contextStart r) s (s.refuseStart r)) ∧
      ∀ rs, imageOk r.image ns = some rs →
        (s.startFits r rs ns.length (areaClusters r.rects).length = true → Does (.contextStart r) s (s.start r rs)) ∧
        (s.startFits r rs ns.length (areaClusters r.rects).length = false → Does (.contextStart r) s (s.refuseStart r))

/-- Accesses at their homes and their replies (spec/04 R108, R109; spec/06 R139; spec/10 R239-R255; spec/12 R312, R314; spec/14
R344, R345; spec/15 R360; spec/20 R447-R454): a request is performed and answered, a reply reaches what waits for it, an
acknowledgement lowers USC, a walk fills the buffers, a fault is saved and told.
(The model's choices in it: logs 1, 12, 41.) -/
def Obligations.AccessEventsComplete : Prop :=
  ∀ (s : State) (core tag n count : Nat) (r : Req) (vals : List Datum) (uids : List Nat) (e : LoadEntry) (va : Word),
    (∀ c, r.home = some c → Does (.remoteAccess r) s
      (let x := (s.wakeCore c).performCore c r.op; (x.1.answer r x.2).wake)) ∧
    (let t := (((s.rouseSlices r).scanReq r).performSlice r).wake
     Does (.sliceOperation r) s t ∧ Does (.timelineWrite r) s t ∧ (r.home = none → Does (.chainedPacket r) s t)) ∧
    ((s.core core).loads.find? (·.tag = tag) = some e →
      (vals ≠ [] → blockedAnswer e.req.op vals = false → Does (.loadReply core tag vals) s (s.deliver core e vals).wake) ∧
      (blockedAnswer e.req.op [⟨1, false⟩] = false →
        Does (.timelineRelease core tag) s (s.deliver core e [⟨1, false⟩]).wake) ∧
      (blockedAnswer e.req.op [⟨va, false⟩] = false →
        Does (.quiescenceWatch core tag va) s (s.deliver core e [⟨va, false⟩]).wake)) ∧
    Does (.forwardedReply core tag n ⟨va, false⟩) s
      (s.writePart core { uid := tag, reg := n, size := 8, sx := false, latch := false } false ⟨va, false⟩).wake ∧
    ((s.core core).loads.find? (fun e => e.tag = tag && !e.late) = some e → ∃ t,
      Does (.forwardingEntryTimeout core tag) s t ∧ (t.core core).loads =
        (s.core core).loads.map fun x => if x.tag = tag then { x with late := true } else x) ∧
    ((s.core core).loads.find? (fun e => e.tag = tag && !e.late) = none →
      ∀ f, (s.core core).forwards.find? (fun f => f.tag = tag && !f.own && !f.late) = some f →
        Does (.forwardingEntryTimeout core tag) s ((s.setCore core { s.core core with
          forwards := (s.core core).forwards.map fun x => if x.tag = tag then { x with late := true } else x }).recordCore core 0x0A
            [w64 (f.key % 64), w64 ((s.setCore core { s.core core with
              forwards := (s.core core).forwards.map fun x => if x.tag = tag then { x with late := true } else x }).rankOf f.dst)])) ∧
    ((s.core core).usc ≠ 0 → Does (.storeAcknowledgement core uids) s
      (s.modCore core fun k => { k.lessStores uids with usc := k.usc - 1 }).wake) ∧
    Does (.futureRetry core tag) s (s.resend core tag true) ∧ Does (.counterUpdateRetry core tag) s (s.resend core tag false) ∧
    Does (.changePutRetry core tag) s (s.resend core tag false) ∧
    (let told (found : Bool) (k : Core) : Core := { k with gangs := k.gangs.map fun x => (x.1, x.2.walkDone (pageOf va) found) }
      let t := s.walked core (pageOf va)
      (∀ x, t.walk (s.partOf core) (pageOf va) = some x →
        Does (.translationWalk core va) s ((t.fillEntry core x).modCore core (told true)).wake) ∧
      (t.walk (s.partOf core) (pageOf va) = none → Does (.translationWalk core va) s (t.modCore core (told false)).wake)) ∧
    Does (.invalidationAck core tag) s (s.lessAcks tag).wake ∧
    (∀ f, (s.core core).faults.find? (fun f => f.frame = n && !f.written) = some f → ∃ t,
      Does (.translationFault core n) s t ∧ t.events = (s.writeSeen s.ctx.part.toNat (s.frameAt core n) (f.image core)).events ++
        [.noticePost ⟨.core core, ⟨w64 (0x05 + 256 * bnat f.write + s.ctx.id.toNat * 65536 + s.ctx.part.toNat * 2 ^ 32), f.addr,
          w64 (s.frameAt core n), f.gang.q0.setWidth 64⟩, false⟩]) ∧
    Does (.frameRelease core n) s (s.modCore core fun k =>
      { k with frames := bput k.frames n false, faults := k.faults.filter (·.frame ≠ n) }).wake ∧
    (∀ src x part, part = s.noticePart src →
      let held : State := { s with heldNotices := s.heldNotices ++ [⟨src, part, x, s.clock⟩] }
      (s.noticeRoom part = none → Does (.noticePost ⟨src, x, false⟩) s held) ∧
      (∀ q t, s.noticeRoom part = some (q, t) →
        (s.oldestNotice src = none → Does (.noticePost ⟨src, x, false⟩) s (s.writeNotice part q t x)) ∧
        (∀ y, s.oldestNotice src = some y → Does (.noticePost ⟨src, x, false⟩) s held)) ∧
      ∀ h, s.oldestNotice src = some h → h.notice = x →
        (s.noticeRoom h.part = none → Does (.noticePost ⟨src, x, true⟩) s s) ∧
        ∀ q t, s.noticeRoom h.part = some (q, t) → Does (.noticePost ⟨src, x, true⟩) s
          (({ s with heldNotices := s.heldNotices.erase h } : State).writeNotice h.part q t x)) ∧
    (∀ g pa d w, (s.core core).at n = g → g.held = some (d, w) → g.ending = true →
      s.resolve s.ctx.part.toNat d false = some pa → Does (.changeFiringEnd core n) s
        { (({ (s.setCore core { s.core core with gangs := mdel (s.core core).gangs n }).modCore core
              (fun k => { k with usc := k.usc + 1 }) with cur := core } : State).dispatch true
            { src := .core core, tag := 0, uids := [], home := none, op := .release pa w 1 }) with cur := s.cur }.wake) ∧
    (∀ d w, s.resolve s.ctx.part.toNat d false = none → Does (.changeRecordLost d w) s s.wake) ∧
    (∀ d w pa, s.resolve s.ctx.part.toNat d false = some pa →
      let t : State := { s with mem := (s.mem.recount pa w (-1)).setLost pa w }
      let i := sliceOf pa
      Does (.changeRecordLost d w) s (((t.evalWatches.record (i / 256 * 4 + i % 256 / 64) 0x0F 3 (i % 256)
        [w64 d, w.setWidth 64]).push (.noticePost ⟨.slice i, ⟨w64 (0x4C + s.ctx.id.toNat * 65536), w64 d, w.setWidth 64, 0⟩, false⟩)).wake)) ∧
    Does (.barrierArrival core n count (some uids)) s
      ((((s.modCore core fun k => k.setBarrier n { k.barrier n with arrived := (k.barrier n).arrived - count }).countArrivals core
        n count).push (.storeAcknowledgement core uids)).wake) ∧
    Does (.barrierCompletion core n) s (s.modCore core fun k =>
      k.setBarrier n { k.barrier n with gen := ((k.barrier n).gen + 1) % 65536 }).wake

/-- The engines at work (spec/11 R264-R289, spec/18 R411-R426): a unit is copied, a checked chunk verified, a copy or fence
completed, a record dropped; the matrix unit arbitrates, performs a k-step, drains, changes its context, passes a fence,
completes; windows take pushes. (The model's choices in it: logs 14, 15, 16.) -/
def Obligations.EngineEventsComplete : Prop :=
  ∀ (s : State) (core q n : Nat) (e : MatrixEntry) (v : Word) (ack : Option (Nat × List Nat)),
    Does (.copyUnit core q) s (s.copyStep core q) ∧ Does (.checkedChunkVerify core q) s (s.verifyChunk core q).wake ∧
    (∀ x es ids, s.copyEnds core q = true → ((s.core core).copyQ q).entries = x :: es → x.job = .fence ids →
      Does (.copyCompletion core q) s (s.setCore core ((s.core core).popCopy q)).wake) ∧
    (∀ x es src dst ao bo obj arr total, s.copyEnds core q = true → ((s.core core).copyQ q).entries = x :: es →
      x.job = .copy src dst ao bo 1 obj arr total → Does (.copyCompletion core q) s
        (if arr then ((s.setCore core ((s.core core).popCopy q)).arriveBarrier core obj 1 none)
         else s.setCore core ((s.core core).popCopy q)).wake) ∧
    (∀ src id o ws, (s.outsOf src).find? (fun o => o.msg.id = id && o.fault && !o.granted && !o.sent) = some o →
      o.msg.body = .data ws → Does (.chunkRecordDrop src id) s
        (o.after.foldl (State.pushAs · o.stamp) ((((s.dropOut src id).withdraw o.ask).recordVerifier src 0x0E
          (((ws.drop 1).take 2).map (·.val))).setLost src o.verifier true)).wake) ∧
    (s.arbitrates n = true → ∀ t x c, t = (s.seats n).foldl (fun t p => t.startMatrix p.2) s →
      leastBy (fun x => (x + 7 - (t.cluster n).pointer) % 8)
        (((s.seats n).filter fun p => (t.requests p.2).isSome).map (·.1)) = some x → (s.seats n).find? (·.1 = x) = some (x, c) →
      Does (.matrixArbitration n) s (t.modCluster n fun u => { u with pointer := x, turn := (t.requests c).getD .idle })) ∧
    (∀ c stop t, (s.cluster n).turn = .kstep c → (s.core c).matrixHead = some e →
      s.readBands c e (s.core c).mprog.toNat (e.parts c) = (t, .error stop) →
      Does (.matrixKStep n) s ((t.stopMatrix c stop).endTurn n)) ∧
    (∀ c t u bands bs, (s.cluster n).turn = .kstep c → (s.core c).matrixHead = some e →
      s.readBands c e (s.core c).mprog.toNat (e.parts c) = (t, .ok bands) →
      t.readB c e (s.core c).mprog.toNat = (u, .ok bs) →
      let k := (s.core c).mprog.toNat
      let t := ((e.parts c).zip bands).foldl (fun t p => t.updateBand p.1.1 p.1.2 e k p.2 bs) u
      let t := (e.rings c).foldl (fun t r => t.modCore r.1 fun x =>
        x.setRing r.2 ((x.ring r.2).setHead ((x.ring r.2).head + 1))) t
      Does (.matrixKStep n) s (((t.setMprog ((e.parts c).map (·.1)) (k + 1)).endTurn n
        (if k + 1 = e.steps && !e.drains then .complete c else .idle)).wake)) ∧
    (∀ c, (s.cluster n).turn = .drain c → (s.core c).matrixHead = some e →
      let m := parseMap e.mapO
      let off := w64 (e.at 0x28 8)
      let bands := (e.parts c).mapIdx fun j p => s.bandOf e p.1 p.2 j
      (∀ stop, s.drainStop c m off (bands.flatMap (·.units)) = some stop →
        Does (.matrixDrain n) s (((s.drainFills c m off (bands.flatMap (·.units))).stopMatrix c stop).endTurn n)) ∧
      (s.drainStop c m off (bands.flatMap (·.units)) = none → (∀ b ∈ bands, b.ok ≠ some false) →
        (m.checked = false →
          let t := (bands.flatMap (·.units)).foldl (fun t u =>
            (t.engineFills c m.own (m.at2 off u.1 u.2.1) u.2.2.1.length).performWrites
              (t.engineWrites c m.own (m.at2 off u.1 u.2.1) (u.2.2.1.map fun x => (x, u.2.2.2)))) s
          Does (.matrixDrain n) s (((t.owePending c e (· - e.owed)).modCore c
            (·.modMatrix fun e => { e with drained := true, waits := [] })).endTurn n (.complete c)).wake) ∧
        (m.checked = true →
          (s.drainChunks c m off (bands.flatMap (·.units)) [] (List.range (m.bytes / 256))).2 = [] →
          ∃ t, Does (.matrixDrain n) s t ∧ (t.cluster n).turn = .complete c))) ∧
    (∀ c, (s.cluster n).turn = .setCtx c → (s.core c).matrixHead = some e →
      Does (.matrixSetContext n) s (((s.setFormatCtx c ((s.formatCtx c).apply e)).popMatrix c).endTurn n)) ∧
    (∀ c, (s.cluster n).turn = .fence c → Does (.matrixFence n) s ((s.popMatrix c).endTurn n)) ∧
    (∀ c, (s.cluster n).turn = .complete c → (s.core c).matrixHead = some e → e.signals = false →
      Does (.matrixCompletion n) s (((((e.parts c).foldl (fun t p => t.setFormatCtx p.1
        { t.formatCtx p.1 with mdraw := (t.formatCtx p.1).mdraw + BitVec.ofNat 32 e.steps }) s).giveBack c e).popMatrix
          c).endTurn n)) ∧
    (∀ x t, (s.core core).staging.poisoned (64 * n) 56 = false →
      ∀ img, t = s.modCore core (fun k => { k with staging := k.staging.store (64 * n + 56) 8 v false }) →
      img = (s.core core).staging.image (64 * n) 56 ++ bytesOf v.toNat 8 → x = t.matrixEntry core img →
      t.badField core x false = none → t.unboundFor core x = false →
      (t.pushWaits core x = false → t.pushStands core = false →
        Does (.matrixWindowPush core n v ⟨ack, none⟩) s ((t.pushMatrix core x).ackWindow ack).wake) ∧
      (t.pushWaits core x = true → Does (.matrixWindowPush core n v ⟨ack, none⟩) s
        (t.push (.matrixWindowPush core n v ⟨ack, some (img, false)⟩)).wake)) ∧
    (∀ x img, x = s.matrixEntry core img → s.badField core x false = none → s.unboundFor core x = false →
      s.pushWaits core x = false →
      Does (.matrixWindowPush core n v ⟨ack, some (img, false)⟩) s ((s.pushMatrix core x).ackWindow ack).wake) ∧
    (∀ r, ((s.core core).ring n).valid = true → ((s.core core).ring n).push v.toNat = some r →
      Does (.ringWindowPush core n v ack) s (((s.modCore core (·.setRing n r)).ackWindow ack).wake))

/-- Reliability and power (spec/22 R461-R478, spec/24 R501, R505): scrubbing reads what is awake, arrays sleep and wake, a
pair's interval closes or disagrees, a rectangle is contained and reset, a fatal error and a thermal trip stop the machine,
recorders freeze and go on, power loss clears everything, throttling follows its sensors.
(The model's choices in it: logs 4, 26, 28, 29, 41.) -/
def Obligations.ReliabilityEventsComplete : Prop :=
  ∀ (s : State) (c n addr rect trigger array die block : Nat) (cause : FatalAt),
    ((s.core c).retention = .awake → Does (.scrub (.localMem c) addr) s (s.scanLocal c addr 8)) ∧
    (s.sleeps (.slice n) = false → Does (.scrub (.slice n) addr) s
      (s.findUpsets 0 fun b x => b = .slice n && x / 8 = addr / 8)) ∧
    (s.sleeps (.slice n) = true → Does (.scrub (.slice n) addr) s s) ∧
    (s.coreSleeps c = true → Does (.retentionEntry (.localMem c)) s (s.modCore c fun k => { k with retention := .asleep })) ∧
    (s.sliceSleeps n = true → Does (.retentionEntry (.slice n)) s { s with sliceRet := mput s.sliceRet n (.asleep, s.clock) }) ∧
    Does (.retentionExit (.localMem c)) s ((s.rouseArray (.localMem c)).touchCore c) ∧
    Does (.retentionExit (.slice n)) s ((s.rouseArray (.slice n)).touchSlice n) ∧
    ((s.core c).pair.on = true → (s.twin c).again = [] →
      (s.disagrees c = false → Does (.pairIntervalClose c) s ((s.core c).pair.gate.foldl State.push
        ((s.setCore c ((s.core c).freshInterval s.nextTag s.clock)).setTwin c
          { follower := (s.twin c).follower.freshInterval s.nextTag s.clock,
            base := (s.core c).freshInterval s.nextTag s.clock,
            otherBase := (s.twin c).follower.freshInterval s.nextTag s.clock, upsets := (s.twin c).upsets })).wake) ∧
      (s.disagrees c = true →
        ((s.core c).pair.rerun = false → Does (.pairIntervalClose c) s ((s.recordMismatch c false).rollBack c)) ∧
        ((s.core c).pair.rerun = true → Does (.pairIntervalClose c) s
          (((s.recordMismatch c true).modCore c Core.disarm).push
            (.containment (((s.recordMismatch c true).modCore c Core.disarm).rectOf c) 2))))) ∧
    (let t := s.rollBack c
     let w := s.twin c
     (t.core c).mem = w.base.mem ∧ (t.core c).gangs = w.base.gangs ∧ (t.core c).retired = w.base.retired ∧
       (t.core c).pair.rerun = true ∧ (t.twin c).follower.mem = w.otherBase.mem ∧ (t.twin c).again = w.log ∧
       ∀ d, d ≠ c → t.core d = s.core d) ∧
    Does (.containment rect trigger) s (s.contain rect trigger) ∧
    (s.sup.fences.any (·.1 = rect) = true → Does (.containmentReset rect) s (s.resetInside rect)) ∧
    Does (.fatalError cause array addr) s (s.fatal cause array addr) ∧
    (∀ t, t = s.fatal ⟨4, 8, 0, die⟩ 0 die →
      Does (.thermalTrip die) s { t with sup := { t.sup with tripped := t.sup.tripped ++ [die / 4] } }) ∧
    Does (.recorderFreeze die) s (s.freeze die 4) ∧
    (∀ r : Recorder, r = mget {} s.recorders die → Does (.recorderUnfreeze die) s
      { s with recorders := mput s.recorders die { r with frozen := false, cause := 0, missed := 0 } }) ∧
    Does .powerLoss s { State.reset with clock := s.clock, epoch := s.clock, nextTag := s.nextTag } ∧
    ∀ l m, l = mget 0 s.sup.throttle block →
      m = nextLevel l (Config.sense (256 + dieOfBlock block) s.clock) (Config.sense (400 + dieOfBlock block / 4) s.clock) s.sup.tlimit s.sup.cap →
      (m = l → Does (.throttleUpdate block) s s) ∧
      (m ≠ l → Does (.throttleUpdate block) s
        (({ s with sup := { s.sup with throttle := mset 0 s.sup.throttle block m,
                                       looked := mset 0 s.sup.looked block (throttlePeriod s.clock) } } : State).record (dieOfBlock block) 0x06
          (blockSource block).1 (blockSource block).2 [w64 l, w64 m]))

/-- The mesh and the Wyal links (spec/17 R387-R406): frames and their quotas, multicasts, refused traffic, flits, negative
acknowledgements, credits, training. (The model's choices in it: logs 4, 8, 27, 29, 58; the branches of a multicast at a
router, `State.branches` and `State.sendBranch`, are log 54; the choice among residual copies, `Config.pick`, is log 1; the partition that pays
for a request of the host port is log 66.) -/
def Obligations.FabricEventsComplete : Prop :=
  ∀ (s : State) (src : Source) (cost tree router port n peer : Nat) (r : Req) (flit : BitVec 512) (x : Tree),
    (∀ i left at' p part, at' = s.agenda.findIdx (fun p => p.stamp.isNone && payerOf p.event = some src) →
      s.agenda[at']? = some p → part = s.sourcePart src p.event → s.flits part ≠ 0 →
      chargeFirst cost (s.quota src part).left = some (i, left) → Does (.packetAdmission src cost) s
        { s with
          agenda := s.agenda.modify at' (fun p => { p with stamp := some (s.frame + BitVec.ofNat 4 i) }),
          quotas := s.quotas.filter (fun q => !(q.src = src && q.part = part)) ++ [⟨src, part, left⟩] }) ∧
    Does .frameBoundary s (s.startFrame.passMark ((leastBy id s.sup.packages).getD 0)) ∧
    (s.frame ≠ frameAtCycle s.clock → Does (.frameMark port) s (s.startFrame.passMark (port / 18))) ∧
    (s.frame = frameAtCycle s.clock → s.marked.contains (port / 18) = false → Does (.frameMark port) s (s.passMark (port / 18))) ∧
    (s.frame = frameAtCycle s.clock → s.marked.contains (port / 18) = true → Does (.frameMark port) s s) ∧
    (s.trees.find? (fun x => x.id = tree && x.input = router) = some x → s.forks x = true →
      let go := (s.branches x).filter fun b => s.freeBranch x b && !s.taken x.input x.id b
      let rest := x.dests.filter fun c => !go.any (·.dests.contains c)
      let t := go.foldl (fun t b => t.sendBranch x b) ({ s with trees := s.trees.erase x } : State)
      Does (.multicastFork (tree, router)) s (if rest.isEmpty then t
        else ({ t with residuals := t.residuals ++ [(x.input, { x with dests := rest })] } : State))) ∧
    (∀ b, (s.residualSends router)[Config.pick s.clock % (s.residualSends router).length]? = some (x, b) →
      let t := s.sendBranch x b
      let rest := x.dests.filter fun c => !b.dests.contains c
      let rs := if rest.isEmpty then t.residuals.erase (router, x)
        else t.residuals.map fun e => if e = (router, x) then (router, { x with dests := rest }) else e
      Does (.multicastResidualSend router) s { t with residuals := rs }) ∧
    (r.quiet = false → refusedWrite r = false → Does (.refusedTraffic r) s
      ((s.answer r (.reply (refusedValues r.op))).recordRefused (s.refuserOf r.src (reqEnd r)) 0 (reqTarget r)
        (sourceWord r.src))) ∧
    ((s.port port).state = 2 →
      (flitField flit 31 29 = 4 → flitCrcOk flit = false →
        Does (.flitReceive port flit) s (s.setPort port { s.port port with badMgmt := true })) ∧
      (flitField flit 31 29 ≠ 4 → flitCrcOk flit = false → (s.port port).nakDue = false → Does (.flitReceive port flit) s
        ((s.setPort port { s.port port with nakDue := true }).push
          (.negativeAcknowledgement (s.farPort port) (s.port port).seqIn.toNat))) ∧
      (flitField flit 31 29 ≠ 4 → flitCrcOk flit = false → (s.port port).nakDue = true → Does (.flitReceive port flit) s s) ∧
      (flitField flit 31 29 < 4 → flitCrcOk flit = true → flitField flit 24 14 = (s.port port).seqIn.toNat →
        Does (.flitReceive port flit) s (s.acceptFlit port flit)) ∧
      ((s.port port).resend = some (BitVec.ofNat 11 n) → (s.port port).retries + 1 ≤ 8 → Does (.negativeAcknowledgement port n) s
        ((s.setPort port { s.port port with
          resend := some (BitVec.ofNat 11 n), retries := (s.port port).retries + 1 }).sendAgain port n)) ∧
      ((s.port port).resend = some (BitVec.ofNat 11 n) → 8 ≤ (s.port port).retries → Does (.negativeAcknowledgement port n) s
        ((s.setPort port { s.port port with
          resend := some (BitVec.ofNat 11 n), retries := (s.port port).retries + 1 }).push (.portRetrain port))) ∧
      Does (.linkManagementInterval port) s ((s.sendManagement port).setPort port { s.port port with
        owed := [], badMgmt := false, managed := s.clock / 256 })) ∧
    Does (.creditReturn port peer n) s (s.setPort port { s.port port with
      credits := mput (s.port port).credits peer (min 64 (mget 64 (s.port port).credits peer + n)) }) ∧
    Does (.portRetrain port) s ((s.train port).trainFar port) ∧
    ((s.port port).state = 1 → peer = port / 18 → Does (.portTraining port peer) s (s.takeDown port)) ∧
    ((s.port port).state ≠ 1 → Does (.portTraining port peer) s s) ∧
    ((s.port port).state = 1 → peer ≠ port / 18 → s.joined port (s.farPort port) = false → Does (.portTraining port peer) s (s.comeUp port (s.farPort port) 0 peer)) ∧
    ((s.port port).state = 1 → peer ≠ port / 18 → s.joined port (s.farPort port) = true → (s.port (s.farPort port)).state = 1 → (s.port port).peer = peer →
      Does (.portTraining port peer) s ((s.comeUp port (s.farPort port) (s.port (s.farPort port)).seqIn peer).comeUp
        (s.farPort port) port (s.port port).seqIn (port / 18))) ∧
    ((s.port port).state = 1 → Does (.portTrainingTimeout port) s (s.takeDown port)) ∧
    ((s.acceptFlit port flit).port port).seqIn = (s.port port).seqIn + 1 ∧ ((s.acceptFlit port flit).port port).nakDue = false

/-- A packet that a port sends goes out as its flits, which stay in the replay buffer of 512 flits and take as many credits of its
network; the other ports keep theirs (spec/17 R399-R401). (The flits of a packet that Table 17-2 does not list: log 52.) -/
def Obligations.CrossingFillsReplayBuffer : Prop :=
  ∀ (s : State) (p : Packet) (i : Nat) (is : List Nat), s.wayOf p = some (i :: is) → s.canSend i p = true →
    ((s.cross p).port i).seqOut = (s.port i).seqOut + BitVec.ofNat 11 (s.wyalFlits p.event) ∧
    ((s.cross p).port i).replay.length = (s.port i).replay.length + s.wyalFlits p.event ∧
    ((s.cross p).port i).replay.length ≤ 512 ∧
    mget 64 ((s.cross p).port i).credits (vnOf p.event) + s.wyalFlits p.event = mget 64 (s.port i).credits (vnOf p.event) ∧
    ∀ j, j ≠ i → ((s.cross p).port j).replay = (s.port j).replay ∧ ((s.cross p).port j).seqOut = (s.port j).seqOut

/-- The host port: power-on boots the pod and a reset its package; registers, doorbells, memory windows and the mailbox answer the
host (spec/24 R489-R496, R501, Tables 24-1 to 24-4): a request is taken when the one before it has been answered, and refused when it
is out of form or when a partition names another. (The model's choices in it: logs 21, 23, 25, 30.) -/
def Obligations.HostPortEventsComplete : Prop :=
  ∀ (s : State) (off size page q : Nat) (v : Word),
    Does .powerOn s s.boot ∧ Does .pcieReset s (s.resetPackage 0) ∧ Does .reset s (s.resetPackage 0) ∧
    Does .devstatRead s (s.modHost fun h => { h with reads := h.reads ++ [(s.host.devstat, 0)] }) ∧
    Does (.hostRegisterWrite off .read) s (s.modHost fun h => { h with reads := h.reads ++ [(s.hostRead off, 0)] }) ∧
    s.hostRead 0 = s.host.devstat ∧
    (s.host.answers = true →
      (fieldOf v 15 8 = 0xA5 → v.getLsbD 0 = true → Does (.hostRegisterWrite 0x08 (.write v)) s (s.resetPackage 0)) ∧
      (v.getLsbD 0 = false → Does (.hostRegisterWrite 0x08 (.write v)) s s) ∧
      (off < 2 ^ 32 → off ≠ 0x08 → Does (.hostRegisterWrite off (.write v)) s (s.modHost (·.writeBar0 off v))) ∧
      ((s.doorbell page).assigned = true → s.ctx.id.toNat = (s.doorbell page).ctx.id →
        s.ctx.part.toNat = (s.doorbell page).ctx.part → s.ctx.started = true → q < 16 →
        ∀ pa, s.resolve s.ctx.part.toNat (s.queueBase q + 16) true = some pa → Does (.control page q v) s
          (s.push (.sliceOperation { src := .host, tag := 0, uids := [], home := none,
                                     op := .store [{ addr := pa, size := 8, val := v }] }))) ∧
      ∀ w pa write, s.host.windows.find? (fun w => w.2.off ≤ off && off + size ≤ w.2.off + w.2.size) = some w →
        (if write then w.2.wr else w.2.rd) = true →
        s.resolve w.2.part (w.2.vbase + (off - w.2.off)) write = some pa → Does (.memoryWindowAccess off size write v) s
          (s.push (.sliceOperation { src := .host, tag := 0, uids := [], home := none,
                                     op := if write then .store [{ addr := pa, size := size, val := v }]
                                         else .load [(pa, size)] }))) ∧
    (s.host.answers = true → (s.doorbell page).assigned = true → (s.doorbell page).busy = false → v = 1 →
      Does (.ring page v) s (s.setDoorbell page { s.doorbell page with
        busy := true, copy := (List.range 0xF8).map fun i => mget 0 (s.doorbell page).record i })) ∧
    ((s.doorbell page).busy = true →
      let d := s.doorbell page
      let settled (t : State) (r : Nat) : State := t.setDoorbell page { d with busy := false, copy := [], done := d.done + 1, result := r }
      (s.ctx.started = false ∨ s.ctx.id.toNat ≠ d.ctx.id ∨ s.ctx.part.toNat ≠ d.ctx.part →
        Does (.doorbellAppendDone page) s (settled s 2)) ∧
      ∀ e, s.ctx.started = true → s.ctx.ended = false → s.ctx.id.toNat = d.ctx.id → s.ctx.part.toNat = d.ctx.part →
        imageAt d.copy 0 2 ≠ 0 →
        imageAt d.copy 0 2 ≠ trapRoutine → s.readDir (imageAt d.copy 0 2) = some e →
        (launchValid d.copy e = true → Does (.doorbellAppendDone page) s
          (settled (s.append (imageAt d.copy 2 1) d.copy).1 (s.append (imageAt d.copy 2 1) d.copy).2)) ∧
        (launchValid d.copy e = false → Does (.doorbellAppendDone page) s (settled s 2))) ∧
    (∀ origin e, s.host.stage = 5 → s.host.fatal = false → s.host.serving = none → s.mailEntry = some (origin, e) →
      let t := s.takeMail origin e
      (mailBad e = true → Does .mailboxRequest s (t.respond (imageAt e 0 1) 5 (imageAt e 4 1) [])) ∧
      (mailBad e = false →
        (∀ st, s.mailCommand e = .inl st → Does .mailboxRequest s (t.respond (imageAt e 0 1) st (imageAt e 4 1) [])) ∧
        ∀ i, s.mailCommand e = .inr i →
          (origin ≠ 0 → imageAt e 4 1 ≠ origin ∨ s.commandPart (imageAt e 4 1) i ≠ origin →
            Does .mailboxRequest s (t.respond (imageAt e 0 1) 1 (imageAt e 4 1) [])) ∧
          (origin = 0 ∨ imageAt e 4 1 = origin ∧ s.commandPart (imageAt e 4 1) i = origin → Does .mailboxRequest s
            (({ t with sup := { t.sup with session := if imageAt e 0 1 = 0x08 then imageAt e 4 1 else t.sup.session } } :
              State).push i)))) ∧
    (s.host.reqHead ≠ s.host.reqTail →
      let e := ringBytes s.host.reqRing (s.host.reqHead.toNat * 64) 64
      s.mailEntry = some (0, ringBytes s.host.reqRing (s.host.reqHead.toNat * 64) (min 4112 (0x10 + imageAt e 6 2)))) ∧
    ∀ e, let pay := (e.drop 0x10).take (imageAt e 6 2)
      (imageAt e 0 1 = 0x02 → s.mailCommand e = .inr (.partitionDestroy (imageAt pay 0 1))) ∧
      (imageAt e 0 1 = 0x06 → s.mailCommand e = .inr (.preempt (imageAt pay 0 2))) ∧
      (imageAt e 0 1 = 0x07 → s.mailCommand e = .inr (.restore ⟨imageAt pay 0 2, s.ctx.rects⟩)) ∧
      (imageAt e 0 1 = 0x08 → s.mailCommand e = .inr (.debug (ikitikOf pay))) ∧
      (imageAt e 0 1 = 0x0A → s.mailCommand e = .inr (.notice (imageAt e 4 1)))

/-- The supervisor's commands (spec/24 R495-R500; spec/16 R379-R382; spec/12 R316, R317): partitions, images, doorbells,
windows, notices, ports, power limits, responses, pre-emption and restore. (The model's choices in it: logs 5, 22, 23, 24, 30; where a
partition's image starts, `systemCore` and `sysBase`, is log 51.) -/
def Obligations.SupervisorCommandsComplete : Prop :=
  ∀ (s : State) (part page win port cap tlimit retidle core ctx image : Nat) (v : Word) (w : WindowReq) (p : Partition)
      (name : ContextName) (rects : List Rect) (code trap : List (BitVec 16)),
    (∀ r : PartitionReq,
      (partitionAsk r = false → Does (.partitionCreate r) s (s.respond 0x01 5 r.part [])) ∧
      (partitionAsk r = true →
        ((s.partition r.part).isSome = true ∨ containOk r = false → Does (.partitionCreate r) s (s.respond 0x01 7 r.part [])) ∧
        (s.partition r.part = none → containOk r = true →
          (s.partitionFree r = false → Does (.partitionCreate r) s (s.respond 0x01 8 r.part [])) ∧
          (s.partitionFree r = true → ∀ q : Partition,
            q = { area := r.area, frames := r.frames, ways := r.ways, sysCores := r.sysCores, fabric := r.fabric,
                  retIdle := r.retIdle, contain := r.contain, owner := r.ownerKey, image := none, noticeBase := 0,
                  anchors := r.anchors, anchorLog := r.anchorLog } →
            Does (.partitionCreate r) s (({ s.changeHands q with
              mem := (s.changeHands q).mem.wipe r.anchors (8 * 2 ^ r.anchorLog),
              sup := { s.sup with partitions := mput s.sup.partitions r.part q,
                                  rects := s.sup.rects ++ numberRects s.sup.rects (r.contain.map rectClusters) } } :
              State).respond 0x01 0 r.part []))))) ∧
    (s.partition part = none → Does (.partitionDestroy part) s (s.respond 0x02 3 part []) ∧
      Does (.imageLoad part ⟨image, code, trap⟩) s (s.respond 0x03 3 part [])) ∧
    (s.partition part = some p →
      (s.ctx.started = false → Does (.partitionDestroy part) s ((s.dropPartition part p []).respond 0x02 0 part [])) ∧
      (Config.crypto 4 (image * 2 ^ 64 + p.owner) % 2 = 0 → Does (.imageLoad part ⟨image, code, trap⟩) s (s.respond 0x03 7 part [])) ∧
      (Config.crypto 4 (image * 2 ^ 64 + p.owner) % 2 ≠ 0 →
        (512 < trap.length → Does (.imageLoad part ⟨image, code, trap⟩) s (s.respond 0x03 5 part [])) ∧
        (trap.length ≤ 512 →
          let t := ((s.clearArea part noticePlace 0x8040).clearArea part ringPlace 0x3000).setPartition part
            { p with image := some image, noticeBase := noticePlace, trap }
          let u := t.putPartitionRing part (mailImage 0x0A 0 0 part (bytesOf noticePlace 8))
          Does (.imageLoad part ⟨image, code, trap⟩) s
            ((u.setCore (sysBase + p.sysCores.headD 0) (systemCore code s.clock)).respond 0x03 0 part []))) ∧
      (∃ ws : List Word, Does (.notice part) s (s.respond 0x0A 0 part ws)) ∧
      (1000 ≤ cap → cap ≤ 3000 → 85 ≤ tlimit → tlimit ≤ 105 → retIdleOk retidle = true →
        let t := s.setPartition part { p with retIdle := retidle }
        Does (.power cap tlimit part retidle) s (({ t with sup := { t.sup with cap, tlimit } } : State).respond 0x0C 0 part []))) ∧
    (page < 4096 → (s.partition name.part).isSome = true → Does (.doorbellAssign page name) s
      ((s.setDoorbell page { assigned := true, ctx := name }).respond 0x04 0 name.part [])) ∧
    (4096 ≤ page ∨ s.partition name.part = none → Does (.doorbellAssign page name) s (s.respond 0x04 3 name.part [])) ∧
    (win < 64 → (s.partition w.part).isSome = true → w.off % 2 ^ 21 = 0 → w.off + w.size ≤ 2 ^ 40 →
      Does (.windowSet win w) s ((s.modHost fun h => { h with windows := mput h.windows win w }).respond 0x05 0 w.part [])) ∧
    (port < 288 →
      Does (.port port 0 []) s (((s.train port).trainFar port).respond 0x0B 0 s.ctx.part.toNat []) ∧
      Does (.port port 1 []) s (((s.takeDown port).trainFar port).respond 0x0B 0 s.ctx.part.toNat []) ∧
      ((s.train port).port port).state = 1 ∧ ((s.takeDown port).port port).state = 0) ∧
    (∀ n, (s.core core).answer = some n → (s.core core).stopped = true → Does (.supervisorResponse core v) s
      ((s.setCore core { (s.core core).replyG (s.core core).slot (n % 16) (16 ≤ n) v false with
        stopped := false, answer := none })).wake) ∧
    (s.ctx.started = true → s.ctx.saved = false → s.ctx.ended = false → s.ctx.id.toNat = ctx →
      Does (.preempt ctx) s (s.respond 0x06 0 s.ctx.part.toNat []).beginSave) ∧
    (s.ctx.saved = true → s.ctx.id.toNat = ctx →
      let t := s.respond 0x07 0 s.ctx.part.toNat []
      Does (.restore ⟨ctx, rects⟩) s (({ t with ctx := { t.ctx with target := rects } } : State).push .contextRestore)) ∧
    (s.savable = true → ∃ t : State, Does .preemption s t ∧ t.ctx.saved = true ∧ t.ctx.savedValid = true ∧ t.sliceGrants = []) ∧
    (s.ctx.saved = true → s.ctx.target = rects →
      (s.ctx.savedValid = true → s.restoreFits rects = true → Does .contextRestore s (s.putBack rects)) ∧
      (s.ctx.savedValid = false ∨ s.restoreFits rects = false →
        Does .contextRestore s (s.tell 8 0 (s.ctx.id.setWidth 64))))

/-- Attestation (spec/24 R504) and the Ikitik debugger (spec/23 R483-R487, Tables 23-3 and 23-4): every request is
answered; a debug request that the session may make does what it names to the gangs it names.
(The model's choices in it: logs 5, 25, 30, 31.) -/
def Obligations.AttestationAndDebugComplete : Prop :=
  ∀ (s : State) (session off len nonce index : Nat) (q : IkitikReq),
    Does (.getVersion session) s (s.spdmAnswer session 0 [0x1200]) ∧
    Does (.getCapabilities session) s (s.spdmAnswer session 0 (cryptoWords 10 session 1)) ∧
    Does (.negotiateAlgorithms session) s (s.spdmAnswer session 0 (cryptoWords 11 session 1)) ∧
    Does (.getDigests session) s (s.spdmAnswer session 0 (cryptoWords 12 (imageAt certificateChain 0 certificateChain.length) 6)) ∧
    (∀ bs, bs = (certificateChain.drop off).take len → Does (.getCertificate session off len) s
      (s.spdmAnswer session 0 ((List.range ((bs.length + 7) / 8)).map fun i => w64 (imageAt bs (8 * i) 8)))) ∧
    Does (.challenge session nonce) s (s.spdmAnswer session 0 (signed nonce)) ∧
    (1 ≤ index → index ≤ 3 → Does (.getMeasurements session index) s (s.spdmAnswer session 0 (measurement index 0))) ∧
    (∀ p i, 16 ≤ index → s.partition (index - 16) = some p → p.image = some i →
      (session = 0 ∨ session = index - 16 → Does (.getMeasurements session index) s (s.spdmAnswer session 0 (measurement 16 i))) ∧
      (session ≠ 0 → session ≠ index - 16 → Does (.getMeasurements session index) s (s.spdmAnswer session 1 []))) ∧
    (∀ m : SpdmReq,
      (m.code = 0x84 → Does (.spdm session m) s (s.push (.getVersion session))) ∧
      (m.code = 0xE1 → Does (.spdm session m) s (s.push (.getCapabilities session))) ∧
      (m.code = 0xE3 → Does (.spdm session m) s (s.push (.negotiateAlgorithms session))) ∧
      (m.code = 0x81 → Does (.spdm session m) s (s.push (.getDigests session))) ∧
      (m.code = 0x82 → Does (.spdm session m) s (s.push (.getCertificate session m.off m.len))) ∧
      (m.code = 0x83 → Does (.spdm session m) s (s.push (.challenge session m.nonce))) ∧
      (m.code = 0xE0 → Does (.spdm session m) s (s.push (.getMeasurements session m.index)))) ∧
    (q.kind = 0x01 → Does (.debug q) s (s.push (.ikitikHalt { q with kind := 0 }))) ∧
    (q.kind = 0x0B → Does (.debug q) s (s.push (.readrecorder { q with kind := 0 }))) ∧
    Does (.ikitikHalt q) s (s.serve 0x01 2 q <| if (s.named q).isEmpty ∧ q.core ≠ everyCore then s.ikitik 0x01 q 3 else
      let t := (s.named q).foldl (fun t x => t.modGangAt x fun g => if g.halted then g else { g with haltAsked := true }) s
      (if q.core = everyCore then { t with ctx := { t.ctx with derrickHalt := true } } else t).ikitik 0x01 q 0) ∧
    Does (.ikitikResume q) s (s.serve 0x02 2 q <| if (s.named q).isEmpty ∧ q.core ≠ everyCore then s.ikitik 0x02 q 3 else
      let t := (s.named q).foldl (fun t x => t.modGangAt x fun g =>
        { g with halted := false, haltAsked := false, skipBreak := g.halted || g.skipBreak, waiting := false }) s
      ({ t with ctx := { t.ctx with derrickHalt := false } } : State).ikitik 0x02 q 0) ∧
    Does (.ikitikStep q) s (s.serve 0x03 2 q <| s.onGangs 0x03 q true fun ts =>
      (s.modGangsAt ts (·.debugStep .gang)).ikitik 0x03 q 0) ∧
    Does (.steplane q) s (s.serve 0x04 2 q <| s.onGangs 0x04 q true fun ts =>
      if ts.any fun t => (s.gangAt t).lanes.length ≤ q.lane then s.ikitik 0x04 q 3
      else (s.modGangsAt ts (·.debugStep (.lane q.lane))).ikitik 0x04 q 0) ∧
    (∀ code : Bool, code = decide (q.num / 8 % 2 = 1) → q.num < 16 → (code = false → q.num < 4) →
      s.pointStatus code q.val q.val2 ≠ 1 → Does (.setpoint q) s
        (s.serve 0x05 (if code then 0 else 1) { q with core := everyCore } <|
          (s.setPoint code (q.num % 8) q.val q.val2).ikitik 0x05 q 0)) ∧
    Does (.readgang q) s (s.serve 0x06 3 q <| s.onGangs 0x06 q true fun ts =>
      s.ikitik 0x06 q 0 (packWords (ts.flatMap s.gangImage))) ∧
    (q.core ≠ everyCore →
      Does (.readcore q) s (s.serve 0x07 3 q <|
        s.ikitik 0x07 q 0 (packWords (overlay 0x18C00 0x600 (s.core q.core).engineParts))) ∧
      Does (.readarrivals q) s (s.serve 0x09 3 q <|
        s.ikitik 0x09 q 0 (packWords (overlay 0x1C000 0x1200 (s.arrivalParts q.core))))) ∧
    Does (.writereg q) s (s.serve 0x08 4 q <| s.onGangs 0x08 q true fun ts =>
      if ts.any fun t => (s.gangAt t).pokePends q.kind q.num then s.ikitik 0x08 q 4
      else if q.kind ≠ 0 ∧ ts.any fun t => (s.gangAt t).lanes.length ≤ q.lane then s.ikitik 0x08 q 3
      else if ts.any fun t => ((s.gangAt t).poke q.kind q.num q.lane q.val).isNone then s.ikitik 0x08 q 5
      else (s.modGangsAt ts fun g => (g.poke q.kind q.num q.lane q.val).getD g).ikitik 0x08 q 0) ∧
    (∀ t, q.len ≤ 4096 → t = (List.range q.len).foldl (fun t i => t.debugRead (q.val.toNat + i)) s →
      ((List.range q.len).map fun i => t.debugByte (q.val.toNat + i)).any (·.isNone) = false →
      let xs := ((List.range q.len).map fun i => t.debugByte (q.val.toNat + i)).filterMap id
      Does (.readmem q) s (s.serve 0x0A 3 { q with core := everyCore } <|
        t.ikitik 0x0A q (if xs.any (·.2) then 6 else 0) (packWords (xs.map (·.1))) xs.length)) ∧
    Does (.readrecorder q) s (s.serve 0x0B 3 { q with core := everyCore } <| s.ikitik 0x0B q 0
      ((((((mget {} s.recorders q.num : Recorder).records.filter fun e => q.val.toNat ≤ e.1 && e.1 < q.val.toNat + q.len).map
        (·.2)).filter fun e => s.sup.session = 0 || e.part = s.sup.session)).flatMap Event.words))

/-! ### Frames -/

/-- Everything but the acting core is as it was. -/
def Sys2Proof.Spec.RestStays (s t : State) : Prop :=
  { t with cores := s.cores } = s ∧ ∀ c, c ≠ s.cur → t.core c = s.core c

/-- Every byte of global memory and of every core's local memory reads as before, with its poison. -/
def Sys2Proof.Spec.SameMemory (s t : State) : Prop :=
  ∀ a, t.mem.byte a = s.mem.byte a ∧ mget false t.mem.bad a = mget false s.mem.bad a ∧
    ∀ c, (t.core c).mem.byte a = (s.core c).mem.byte a ∧ mget false (t.core c).mem.bad a = mget false (s.core c).mem.bad a

/-- Of the acting core, only its gangs, its trap bank, the retirement counts and the stall count may have changed: every
special register, barrier, ring, stream, counter but 0x0101, engine, buffer and load entry is as it was. -/
def Sys2Proof.Spec.CoreStays (s t : State) : Prop :=
  { t.me with
      gangs := s.me.gangs, trapBank := s.me.trapBank, bankPoison := s.me.bankPoison, retired := s.me.retired,
      counters := s.me.counters, lastSlot := s.me.lastSlot, stall := s.me.stall, barked := s.me.barked } = s.me ∧
    (∀ n, n ≠ 0x0101 → mget 0 t.me.counters n = mget 0 s.me.counters n) ∧ t.me.retired = s.me.retired + 1 ∧
    (∀ n, n ≠ 0x0E → t.special n = s.special n) ∧
    ∀ j, j ≠ s.me.slot → t.me.at j = { s.me.at j with waiting := false }

/-- The gang has moved on by one instruction (spec/04 R114): `lanes` and `g` apart, nothing else of it has changed. -/
def Sys2Proof.Spec.MovesOn (s t : State) : Prop :=
  t.gang.q0 = s.gang.q1 ∧ t.gang.q1 = s.gang.q2 ∧ t.gang.q2 = s.me.succ s.gang.q2 ∧ t.gang.ann0 = s.gang.ann1 ∧
    t.gang.ann1 = s.gang.ann2 ∧ t.gang.ann2 = false ∧
    { t.gang with
        lanes := s.gang.lanes, g := s.gang.g, gPoison := s.gang.gPoison, q0 := s.gang.q0, q1 := s.gang.q1, q2 := s.gang.q2,
        ann0 := s.gang.ann0, ann1 := s.gang.ann1, ann2 := s.gang.ann2, phase := s.gang.phase, waiting := s.gang.waiting,
        walking := s.gang.walking, missed := s.gang.missed, walked := s.gang.walked, skipBreak := s.gang.skipBreak,
        breakDue := s.gang.breakDue, xfer := s.gang.xfer, xferIn := s.gang.xferIn } = s.gang

/-- The gang register instructions (spec/04 Tables 4-2 and 4-3, spec/03 Table 3-7): destination and sources. -/
def Sys2Proof.Spec.gangForm : Instr → Option (BitVec 4 × List (BitVec 4))
  | .add d a b | .sub d a b | .mul d a b | .mulhS64 d a b | .mulhN64 d a b | .divS64 d a b | .divN64 d a b | .remS64 d a b
  | .remN64 d a b | .and d a b | .or d a b | .xor d a b | .andn d a b | .shl d a b | .shr d a b | .sra d a b | .rol d a b
  | .minS64 d a b | .maxS64 d a b | .minN64 d a b | .maxN64 d a b | .seq d a b | .sltS64 d a b | .sltN64 d a b
  | .lea d a b _ | .bfx d a b _ => some (d, [a, b])
  | .bfi d a b _ => some (d, [a, b, d])
  | .clz d a | .ctz d a | .popc d a | .sext d a _ | .zext d a _ | .addi d a _ | .muli d a _ | .andi d a _ | .ori d a _
  | .xori d a _ | .seqi d a _ | .sltiS64 d a _ | .sltiN64 d a _ | .rsbi d a _ | .miniS64 d a _ | .maxiS64 d a _ | .shli d a _
  | .shri d a _ | .srai d a _ => some (d, [a])
  | .movw d _ _ => some (d, [])
  | .movk d _ _ => some (d, [d])
  | .addCompact d a b | .subCompact d a b | .andCompact d a b | .orCompact d a b | .xorCompact d a b =>
    some (d.setWidth 4, [a.setWidth 4, b.setWidth 4])
  | .addiCompact d _ | .andiCompact d _ | .shliCompact d _ | .shriCompact d _ | .sraiCompact d _ =>
    some (d.setWidth 4, [d.setWidth 4])
  | _ => none

/-- The frame of every gang register instruction (spec/04 R100-R103, R114): it completes, and nothing has changed but its
destination register, the queue and the retirement counts; no byte of any memory, no lane, no special register but
RETIRED, nothing outside the core. -/
def Obligations.GangFormsFrame : Prop :=
  ∀ (s : State) (i : Instr) (d : BitVec 4) (rs : List (BitVec 4)),
    Spec.gangForm i = some (d, rs) → Ready s rs (d :: rs) → Unstepped s →
    ∃ t, Machine.exec i s = .next t ∧ Spec.RestStays s t ∧ Spec.SameMemory s t ∧ Spec.CoreStays s t ∧ Spec.MovesOn s t ∧
      t.gang.lanes = s.gang.lanes ∧
      ∀ n : BitVec 4, n ≠ d → t.readG n = s.readG n ∧ t.me.poisonG n.toNat = s.me.poisonG n.toNat

/-- The element-wise integer instructions of the lanes (spec/09 Table 9-3): guard, destination and operands. -/
def Sys2Proof.Spec.laneForm : Instr → Option (BitVec 3 × BitVec 6 × List (BitVec 6))
  | .vadd p _ d a b | .vsub p _ d a b | .vmul p _ d a b | .vmulhS p _ d a b | .vmulhN p _ d a b | .vdivS p _ d a b
  | .vdivN p _ d a b | .vremS p _ d a b | .vremN p _ d a b | .vshl p _ d a b | .vshr p _ d a b | .vsra p _ d a b
  | .vminS p _ d a b | .vminN p _ d a b | .vmaxS p _ d a b | .vmaxN p _ d a b
  | .vand p d a b | .vor p d a b | .vxor p d a b | .vandn p d a b | .vlea p d a b => some (p, d, [a, b])
  | .vclz p _ d a | .vpopc p _ d a => some (p, d, [a])
  | _ => none

/-- The frame of the element-wise integer instructions (spec/09 R204, R205, R208; spec/01 R31): in the lanes of the guard the
destination and `lt` hold one value and no other register has changed; every other lane, every gang register, every byte of
memory, and everything outside the core is as it was. -/
def Obligations.LaneFormsFrame : Prop :=
  ∀ (s : State) (i : Instr) (p : BitVec 3) (d : BitVec 6) (rs : List (BitVec 6)),
    Spec.laneForm i = some (p, d, rs) → LanesReady s p (s.gang.guard p) (rs.map (·.toNat)) (ltNum :: d.toNat :: rs.map (·.toNat)) →
    Unstepped s → d.toNat < 48 →
    ∃ t, Machine.exec i s = .next t ∧ Spec.RestStays s t ∧ Spec.SameMemory s t ∧ Spec.CoreStays s t ∧ Spec.MovesOn s t ∧
      (∀ n : BitVec 4, t.readG n = s.readG n ∧ t.me.poisonG n.toNat = s.me.poisonG n.toNat) ∧
      t.gang.lanes.length = s.gang.lanes.length ∧
      ∀ j, (j ∉ s.gang.guard p → t.gang.lane j = s.gang.lane j) ∧
        (j ∈ s.gang.guard p →
          (t.gang.lane j).read d.toNat = (t.gang.lane j).read 36 ∧
          (∀ n, n ≠ d.toNat → n ≠ 36 → (t.gang.lane j).read n = (s.gang.lane j).read n ∧
            (t.gang.lane j).bad n = (s.gang.lane j).bad n) ∧
          { t.gang.lane j with regs := (s.gang.lane j).regs, poison := (s.gang.lane j).poison } = s.gang.lane j)

/-- What a store changes (spec/04 R105, R107, R109; spec/10 R226; spec/01 R37). A local store of a gang, of a pair, of a compact form, or of
the lanes of a guard, at the addresses that its form computes: its bytes read as the registers' low bytes (of lanes, where no later lane
stores over them), every other byte of the core's memory, of every other core's and of global memory as before, every register as
before. A store request at another core: the bytes of its writes and no other. A store request at a slice: the bytes of its
writes and no other; of a launch queue's header no byte but those of CONTROL (spec/16 R366); at the table's window no byte of memory
(spec/14 R341; where the window lies is the model's choice, log 53). -/
def Obligations.StoresChangeTheirBytes : Prop :=
  (∀ (s : State) (i : Instr) (d : BitVec 4) (rs : List (BitVec 4)) (ea : Word) (size : Nat),
    (∃ a z n f, i = .stl d a z n f ∧ ea = s.eaM a n f ∧ rs = eaReads a n f ∧ size = 2 ^ z.toNat) ∨
      (∃ x y o, i = .stlCompact x y o ∧ d = x.setWidth 4 ∧ ea = s.readG (y.setWidth 4) + w64 (8 * o.toNat) ∧
        rs = [y.setWidth 4] ∧ size = 8) →
    Ready s rs (d :: rs) → Unstepped s →
    s.me.acquiring = false → s.me.fenced = false → ea.toNat < 0x18000 → ea.toNat % size = 0 →
    s.watch true (s.seenLocal ea size false) = [] →
    ∃ t, Machine.exec i s = .next t ∧ Spec.RestStays s t ∧ Spec.MovesOn s t ∧
      (∀ x, t.mem.byte x = s.mem.byte x ∧ (x < ea.toNat ∨ ea.toNat + size ≤ x → t.me.mem.byte x = s.me.mem.byte x)) ∧
      t.me.mem.load ea.toNat size = (s.readG d).toNat % 2 ^ (8 * size) ∧
      (∀ m : BitVec 4, t.readG m = s.readG m ∧ t.me.poisonG m.toNat = s.me.poisonG m.toNat) ∧ t.gang.lanes = s.gang.lanes) ∧
  (∀ (s : State) (d a : BitVec 4) (n : BitVec 1) (f : BitVec 11) (ea : Word),
    ea = s.eaM a n f → Ready s (eaReads a n f) (d :: (d + 1) :: eaReads a n f) → Unstepped s →
    s.me.acquiring = false → s.me.fenced = false → ea.toNat < 0x18000 → ea.toNat % 16 = 0 →
    s.watch true (s.seenLocal ea 16 false) = [] →
    ∃ t, Machine.exec (.stlPr d a n f) s = .next t ∧ Spec.RestStays s t ∧ Spec.MovesOn s t ∧
      (∀ x, t.mem.byte x = s.mem.byte x ∧ (x < ea.toNat ∨ ea.toNat + 16 ≤ x → t.me.mem.byte x = s.me.mem.byte x)) ∧
      t.me.mem.load ea.toNat 8 = (s.readG d).toNat ∧ t.me.mem.load (ea.toNat + 8) 8 = (s.readG (d + 1)).toNat ∧
      (∀ m : BitVec 4, t.readG m = s.readG m ∧ t.me.poisonG m.toNat = s.me.poisonG m.toNat) ∧ t.gang.lanes = s.gang.lanes) ∧
  (∀ (s : State) (p : BitVec 3) (a : BitVec 6) (i : Instr) (x : LaneAcc),
    (∃ m d c, i = .vstl p m d a c ∧ x = lanePlain p m d a c true false) ∨
      (∃ d sc, i = .vstlq p d a sc ∧ x = laneQuad p d a sc true) →
    AccReady s x → Unstepped s → s.me.acquiring = false → s.me.fenced = false →
    (∀ j ∈ s.gang.guard x.p, x.local (s.gang.lane j) = none) →
    s.watch false (x.seen s.gang (s.gang.guard x.p) fun v => coreAddr s.cur v.toNat) = [] →
    let at' (j : Nat) (q : Piece) : Nat := (x.ea (s.gang.lane j)).toNat + q.off
    ∃ t, Machine.exec i s = .next t ∧ Spec.RestStays s t ∧ Spec.MovesOn s t ∧ t.gang.lanes = s.gang.lanes ∧
      (∀ m : BitVec 4, t.readG m = s.readG m ∧ t.me.poisonG m.toNat = s.me.poisonG m.toNat) ∧
      (∀ y, t.mem.byte y = s.mem.byte y ∧
        ((∀ j ∈ s.gang.guard x.p, ∀ q ∈ x.pieces, y < at' j q ∨ at' j q + q.size ≤ y) → t.me.mem.byte y = s.me.mem.byte y)) ∧
      ∀ j ∈ s.gang.guard x.p, (∀ k ∈ s.gang.guard x.p, j < k → ∀ q ∈ x.pieces, ∀ r ∈ x.pieces,
          at' k r + r.size ≤ at' j q ∨ at' j q + q.size ≤ at' k r) →
        ∀ q ∈ x.pieces, t.me.mem.load (at' j q) q.size = ((s.gang.lane j).datum q.reg).val.toNat % 2 ^ (8 * q.size)) ∧
  (∀ (s : State) (a : BitVec 4) (n : BitVec 1) (f : BitVec 11) (ea : Word),
    ea = s.eaM a n f → Ready s (eaReads a n f) (eaReads a n f) → Unstepped s →
    s.me.acquiring = false → s.me.fenced = false → ea.toNat < 0x18000 → ea.toNat % 64 = 0 →
    s.watch true (s.seenLocal ea 64 false) = [] →
    ∃ t, Machine.exec (.stzl a n f) s = .next t ∧ Spec.RestStays s t ∧ Spec.MovesOn s t ∧
      ∀ x, t.mem.byte x = s.mem.byte x ∧
        t.me.mem.byte x = if ea.toNat ≤ x ∧ x < ea.toNat + 64 then 0 else s.me.mem.byte x) ∧
  (∀ (s : State) (r : Req) (ws : List Wr) (c : Nat), r.op = .store ws → r.home = some c →
    ∃ t, Does (.remoteAccess r) s t ∧
      (∀ x, t.mem.byte x = s.mem.byte x ∧ (∀ d, d ≠ c → (t.core d).mem.byte x = (s.core d).mem.byte x) ∧
        ((∀ w ∈ ws, w.addr < 0x18000 → x < w.addr ∨ w.addr + w.size ≤ x) → (t.core c).mem.byte x = (s.core c).mem.byte x)) ∧
      ∀ w, ws = [w] → w.addr < 0x18000 → (t.core c).mem.load w.addr w.size = w.val.toNat % 2 ^ (8 * w.size)) ∧
  ∀ (s : State) (r : Req) (w : Wr), r.op = .store [w] →
    ∃ t, Does (.sliceOperation r) s t ∧
      (∀ x, x < w.addr ∨ w.addr + w.size ≤ x → t.mem.byte x = s.mem.byte x) ∧
      (w.addr < tableBase → (∀ h ∈ s.headers, w.addr + w.size ≤ h ∨ h + 256 ≤ w.addr) →
        t.mem.load w.addr w.size = w.val.toNat % 2 ^ (8 * w.size)) ∧
      (∀ x, tableBase ≤ w.addr ∨ s.headers.any (headerFixed · x) = true → t.mem.byte x = s.mem.byte x) ∧
      ∀ c x, (t.core c).mem.byte x = (s.core c).mem.byte x

/-! ### Rules of single families -/

/-- Spec/04 R101, whole. With both operands ready, division completes for every value of dividend and divisor: a zero divisor
gives all ones and the dividend; -2^63 by -1 gives -2^63 and 0; otherwise quotient and remainder satisfy the exact equation
with a remainder below the divisor in magnitude. A poisoned operand raises the poison-consumed trap. -/
def Obligations.DivisionRule : Prop :=
  ∀ (s : State) (d a b : BitVec 4),
    (Ready s [a, b] [d, a, b] → ∃ qs rs qn rn : Word,
      Completes (.divS64 d a b) s (s.writeG d qs) ∧ Completes (.remS64 d a b) s (s.writeG d rs) ∧
      Completes (.divN64 d a b) s (s.writeG d qn) ∧ Completes (.remN64 d a b) s (s.writeG d rn) ∧
      (s.readG b = 0 → qs = BitVec.ofNat 64 (2 ^ 64 - 1) ∧ qn = BitVec.ofNat 64 (2 ^ 64 - 1) ∧ rs = s.readG a ∧ rn = s.readG a) ∧
      ((s.readG a).toInt = -2 ^ 63 → (s.readG b).toInt = -1 → qs.toInt = -2 ^ 63 ∧ rs = 0) ∧
      (s.readG b ≠ 0 →
        (s.readG a).toNat = qn.toNat * (s.readG b).toNat + rn.toNat ∧ rn.toNat < (s.readG b).toNat ∧
        (¬((s.readG a).toInt = -2 ^ 63 ∧ (s.readG b).toInt = -1) →
          (s.readG a).toInt = qs.toInt * (s.readG b).toInt + rs.toInt ∧ rs.toInt.natAbs < (s.readG b).toInt.natAbs))) ∧
    ((∀ n ∈ [d, a, b], s.me.pendG n.toNat = false) → (s.me.poisonG a.toNat = true ∨ s.me.poisonG b.toNat = true) →
      ∃ n ∈ [a, b], s.me.poisonG n.toNat = true ∧
        ∀ i ∈ [Instr.divS64 d a b, .divN64 d a b, .remS64 d a b, .remN64 d a b],
          Machine.exec i s = .next (s.takeTrap ⟨0x0E, 0, w64 n.toNat, s.allLanes⟩))

/-- Spec/04 R97 on the forms named here: a read of `g0` gives zero and a write to it is discarded; an instruction that names
it as its destination otherwise performs in full: a local load still makes its access and its checks, and an atomic its request and
its count in USC. -/
def Obligations.GZeroRule : Prop :=
  ∀ (s : State), s.readG 0 = 0 ∧
    (∀ v p, Spec.RestStays s (s.writeG 0 v p) ∧ (s.writeG 0 v p).me = s.me ∧ ∀ n, (s.writeG 0 v p).readG n = s.readG n) ∧
    (∀ (a : BitVec 4) (z : BitVec 2) (e n : BitVec 1) (f : BitVec 11) (ea : Word) (size : Nat),
      ea = s.eaM a n f → size = 2 ^ z.toNat → Ready s (eaReads a n f) (0 :: eaReads a n f) → s.me.acquiring = false →
      (ea.toNat < 0x18000 → ea.toNat % size = 0 →
        Completes (.ldl 0 a z e n f) s (s.scanLocal s.cur ea.toNat size) (s.watch true (s.seenLocal ea size true))) ∧
      (0x18000 ≤ ea.toNat → Machine.exec (.ldl 0 a z e n f) s = .next (s.takeTrap ⟨0x04, 0, ea, s.allLanes⟩)) ∧
      (ea.toNat < 0x18000 → ea.toNat % size ≠ 0 →
        Machine.exec (.ldl 0 a z e n f) s = .next (s.takeTrap ⟨0x03, 0, ea, s.allLanes⟩))) ∧
    ∀ (a b : BitVec 4) (z : BitVec 2) (o : BitVec 8) (k : Chk), Open s → Ready s [a, b] [0, a, b] → Spec.Reaches k →
      s.checkAtomic (s.readG a) (2 ^ z.toNat) true = k → ∃ t,
        Completes (.amo 0 a b z o) s t (s.watchAtomic (s.readG a) (2 ^ z.toNat)) ∧
        (∀ n : BitVec 4, t.readG n = s.readG n ∧ t.me.pendG n.toNat = s.me.pendG n.toNat) ∧ t.me.usc = s.me.usc + 1

/-- Registers that await a reply, and poisoned registers (spec/04 R98, spec/22 R466): with a source or the destination awaiting
a reply, a gang register instruction waits and has changed nothing; with none awaiting and a poisoned operand, it raises the
poison-consumed trap with the register's number and has performed nothing.
(What TRAP_INFO shows is the model's reading, log 19.) -/
def Obligations.PendingWaitsPoisonTraps : Prop :=
  ∀ (s : State) (i : Instr) (d : BitVec 4) (rs : List (BitVec 4)), Spec.gangForm i = some (d, rs) →
    ((∃ n ∈ d :: rs, s.me.pendG n.toNat = true) → Waits i s s) ∧
    ((∀ n ∈ d :: rs, s.me.pendG n.toNat = false) → (∀ e a, i ≠ .add e a 0) → (∀ e a, i ≠ .addCompact e a 0) →
      ∀ n, rs.find? (fun n => s.me.poisonG n.toNat) = some n →
        Machine.exec i s = .next (s.takeTrap ⟨0x0E, 0, w64 n.toNat, s.allLanes⟩))

/-- Spec/04 R115: a nullifying branch that is not taken marks Q1 and Q2 before the queue advances; an annulled entry takes one
step, performs nothing and raises no trap; a fetch trap is raised only where Q0 is not annulled; a taken one annuls nothing. -/
def Obligations.NullifyingBranchRule : Prop :=
  (∀ (s : State) (a : BitVec 4) (c : BitVec 3) (p : BitVec 16) (t : Int), Spec.CondReady s a c → Unstepped s →
    t = (offsetOf s.gang.q0 : Int) + p.toInt → ∃ u, Machine.exec (.bN a c p) s = .next u ∧
      (condition c.toNat (s.readG a) s.gang (a.toNat % 8) = false →
        u.gang.ann0 = true ∧ u.gang.ann1 = true ∧ u.gang.q0 = s.gang.q1 ∧ u.gang.q1 = s.gang.q2) ∧
      (condition c.toNat (s.readG a) s.gang (a.toNat % 8) = true → Spec.InRoutine s t →
        u.gang.ann0 = s.gang.ann1 ∧ u.gang.ann1 = s.gang.ann2 ∧ u.gang.ann2 = false ∧ u.gang.q2 = Spec.hereAt s t)) ∧
  (∀ (s : State) (a : BitVec 4) (p : BitVec 16) (t : Int), Ready s [a] [a] → Unstepped s →
    t = (offsetOf s.gang.q0 : Int) + p.toInt → ∃ u, Machine.exec (.loopN a p) s = .next u ∧
      (s.readG a - 1 = 0 →
        u.gang.ann0 = true ∧ u.gang.ann1 = true ∧ u.gang.q0 = s.gang.q1 ∧ u.gang.q1 = s.gang.q2) ∧
      (s.readG a - 1 ≠ 0 → Spec.InRoutine s t →
        u.gang.ann0 = s.gang.ann1 ∧ u.gang.ann1 = s.gang.ann2 ∧ u.gang.ann2 = false ∧ u.gang.q2 = Spec.hereAt s t)) ∧
  (∀ s : State, s.gang.ann0 = true → (s.me.xfer.map (·.left)) ≠ some 0 →
    s.fetch = .ok .delaySlotAnnul ∧
    ∃ t, Does .delaySlotAnnul s t ∧ Spec.RestStays s t ∧ Spec.SameMemory s t ∧ t.gang.lanes = s.gang.lanes ∧
      (∀ n : BitVec 4, t.readG n = s.readG n) ∧ t.me.retired = s.me.retired ∧ t.gang.q0 = s.gang.q1) ∧
  (∀ (s : State) (c slot : Nat), s.agent = some (.issue c slot) → (s.choose c slot).gang.ann0 = true →
    ((s.choose c slot).me.xfer.map (·.left)) ≠ some 0 → ∃ t, step s = .next t ∧ t.clock = s.clock + 1) ∧
  ∀ (s : State) (e : Cause), s.fetch = .error e → s.gang.ann0 = false

/-! ### Traps, levels and special registers -/

/-- A trap into the trap routine (spec/12 R292-R295): the level is 1, the cause, its information and the lanes are recorded,
XPC0 to XPC2 hold the queue of the gang or 0, the queue stands at the routine's entry; the gang registers, the lanes, the
trap bank, the local memory and everything outside the core are as they were, but for the die's recorder. A trap of no gang
runs in the system slot, with one lane of zeros. -/
def Obligations.TrapEntryRule : Prop :=
  ∀ (s : State) (c : Cause),
    (s.me.priv = 0 → c.code ≠ 0x0E → c.code ≠ 0x13 → c.code < 256 → c.sub < 256 → ∃ t, s.takeTrap c = t ∧
      t.me.priv = 1 ∧ t.me.trapCause.toNat = c.code * 256 + c.sub ∧ t.me.trapInfo = c.info ∧ t.me.trapLanes = c.lanes ∧
      t.me.xpc0 = s.gang.q0 ∧ t.me.xpc1 = s.gang.q1 ∧ t.me.xpc2 = s.gang.q2 ∧ t.me.owner = .gang s.me.slot ∧
      t.gang.q0 = 0xFFFF0000#32 ∧ t.gang.q1 = s.me.succ t.gang.q0 ∧ t.gang.q2 = s.me.succ t.gang.q1 ∧
      t.gang.g = s.gang.g ∧ t.gang.lanes = s.gang.lanes ∧ t.me.trapBank = s.me.trapBank ∧ t.me.mem = s.me.mem ∧
      { t with cores := s.cores, recorders := s.recorders } = s ∧ (∀ k, k ≠ s.cur → t.core k = s.core k) ∧
      ∀ d, d ≠ s.dieOf s.cur → mfind t.recorders d = mfind s.recorders d) ∧
    ∃ t, s.enterTrap none c = t ∧ t.me.priv = 1 ∧ t.me.owner = .system ∧ t.me.slot = 4 ∧ t.me.xpc0 = 0 ∧ t.me.xpc1 = 0 ∧
      t.me.xpc2 = 0 ∧ t.gang.lanes = [{}] ∧ t.gang.q0 = 0xFFFF0000#32 ∧ (∀ j, j ≠ 4 → t.me.at j = s.me.at j) ∧
      { t with cores := s.cores, recorders := s.recorders } = s ∧ ∀ k, k ≠ s.cur → t.core k = s.core k

/-- Traps at level 1, poison and supervisor calls (spec/12 R297, R301; spec/22 R466): the core stops issuing, the supervisor is
told, and for the first two the containment of the core's rectangle is on its way, unless the core is a system core, which lies
in none (spec/22 R475), and TRAP_CAUSE, TRAP_INFO and TRAP_LANES hold the trap; the other registers and memory are as they were.
(What the supervisor is told is numbered by the model, log 30.) -/
def Obligations.LevelTwoTraps : Prop :=
  ∀ (s : State) (c : Cause) (what : Nat),
    (c.code = 0x0E ∧ what = 1 ∨ c.code = 0x13 ∧ what = 3 ∨
      c.code ≠ 0x0E ∧ c.code ≠ 0x13 ∧ s.me.priv ≠ 0 ∧ what = 2) →
    ∃ t, s.takeTrap c = t ∧ t.me.stopped = true ∧
      { t.me with stopped := s.me.stopped, trapCause := s.me.trapCause, trapInfo := s.me.trapInfo, trapLanes := s.me.trapLanes } =
        s.me ∧
      (what = 3 → t.me.trapCause = s.me.trapCause ∧ t.me.trapInfo = s.me.trapInfo ∧ t.me.trapLanes = s.me.trapLanes) ∧
      (what ≠ 3 → c.code < 256 → c.sub < 256 →
        t.me.trapCause.toNat = c.code * 256 + c.sub ∧ t.me.trapInfo = c.info ∧ t.me.trapLanes = c.lanes) ∧
      t.sup.told = s.sup.told ++ [(what, s.cur, c.info)] ∧ t.mem = s.mem ∧ (∀ k, k ≠ s.cur → t.core k = s.core k) ∧
      t.events = s.events ++
        (if what = 3 ∨ sysBase ≤ s.cur then [] else [.containment (s.rectOf s.cur) (if what = 1 then 1 else 3)]) ∧
      (s.me.preempting = false → t.coreAgents s.cur = [])

/-- Spec/12 R296: `tret` at level 1 reloads the queue, sets the level to 0 and keeps the trap bank; no entry of the queue
that the routine had is left; in the system slot it ends the firing and XPC0 to XPC2 are ignored; a code breakpoint does
not match the first execution after it, unless it is the one that a watchpoint's trap was taken before (spec/23 R482). -/
def Obligations.TrapReturnRule : Prop :=
  (∀ s : State, s.me.priv = 1 →
    (∀ i, s.me.owner = .gang i → ∃ t, Machine.exec .tret s = .next t ∧
      (t.me.at i).q0 = s.me.xpc0 ∧ (t.me.at i).q1 = s.me.xpc1 ∧ (t.me.at i).q2 = s.me.xpc2 ∧ t.me.priv = 0 ∧
      t.me.trapBank = s.me.trapBank ∧
      ((s.me.at i).breakDue ≠ some s.me.xpc0 → (t.me.at i).skipBreak = true) ∧ (t.me.at i).ann0 = false ∧ (t.me.at i).ann1 = false ∧
      (t.me.at i).ann2 = false ∧ (t.me.at i).lanes = (s.me.at i).lanes ∧ (t.me.at i).g = (s.me.at i).g) ∧
    (s.me.owner = .system → ∃ t, Machine.exec .tret s = .next t ∧ t.me.priv = 0 ∧ t.me.trapBank = s.me.trapBank ∧
      t.me.at 4 = {} ∧ ∀ j, j ≠ 4 → t.me.at j = { s.me.at j with waiting := false })) ∧
  ∀ (s : State) (e : Cause), s.gang.skipBreak = true → s.fetch = .error e → e.code ≠ 0x0F

/-- Spec/12 R302, whole: `cldw` copies a gang register of the interrupted gang into the trap bank, `cldw.w` copies the other way,
a write to N = 0 is discarded; in the system slot `cldw` reads 0 and `cldw.w` does nothing. -/
def Obligations.InterruptedRegistersRule : Prop :=
  ∀ (s : State) (d n : BitVec 4), s.me.priv = 1 → Ready s [] [d] →
    (d ≠ 0 → s.readG d = mget 0 s.me.trapBank d.toNat ∧ ∀ v p, mget 0 (s.writeG d v p).me.trapBank d.toNat = v) ∧
    (∀ i, s.me.owner = .gang i → (s.me.at i).ownPend n.toNat = false →
      Completes (.cldw d n) s (s.writeG d (if n = 0 then 0 else mget 0 (s.me.at i).g n.toNat) ((s.me.at i).ownBad n.toNat)) ∧
      (n ≠ 0 → ∃ t, Completes (.cldwW d n) s t ∧ mget 0 (t.me.at i).g n.toNat = s.readG d ∧
        (∀ m, m ≠ n.toNat → mget 0 (t.me.at i).g m = mget 0 (s.me.at i).g m) ∧ ∀ j, j ≠ i → t.me.at j = s.me.at j) ∧
      (n = 0 → Completes (.cldwW d n) s s)) ∧
    (s.me.owner = .system → Completes (.cldw d n) s (s.writeG d 0) ∧ Completes (.cldwW d n) s s)

/-- The levels at which the system instructions run (spec/12 R299, Table 12-2). -/
def Sys2Proof.Spec.levelsOf : Instr → Option (List Nat)
  | .scall _ _ _ => some [0, 1]
  | .tret | .halt | .sstep _ | .sstepLn _ | .cldw _ _ | .cldwW _ _ | .chrd _ _ | .chwr _ _ _ | .wpset _ _ _ _ => some [1]
  | .xlinv _ _ | .xlinvLg _ _ | .xlinvAll _ | .ebrd _ _ _ | .ebrdClr _ _ _ | .inj _ _ _ | .idle _ => some [1, 2]
  | _ => none

/-- Privilege (spec/12 R299, spec/01 R34): at a level at which it does not run, a system instruction raises the privileged trap
with the instruction as its information, and performs nothing; so does an access to a special register marked P. -/
def Obligations.PrivilegedTraps : Prop :=
  ∀ (s : State),
    (∀ (i : Instr) (ls : List Nat), Spec.levelsOf i = some ls → s.me.priv.toNat ∉ ls →
      Machine.exec i s = .next (s.takeTrap ⟨0x02, 0, s.me.shown s.gang.q0, s.allLanes⟩)) ∧
    ∀ (d : BitVec 4) (n : BitVec 8), s.me.priv = 0 → (0x10 ≤ n.toNat ∧ n.toNat ≤ 0x16 ∨ n = 0x18) →
      Machine.exec (.sget d n) s = .next (s.takeTrap ⟨0x02, 0, s.me.shown s.gang.q0, s.allLanes⟩) ∧
      Machine.exec (.sset d n) s = .next (s.takeTrap ⟨0x02, 0, s.me.shown s.gang.q0, s.allLanes⟩)

/-- Special registers hold what is written to them (spec/01 R33, R34, R36; spec/11 R284): a write takes the low bits of its
source at the register's width, a read zero-extends; CYCLE reads what was written; MPROG moves only while the core's matrix
command is stopped; another register reads as before. CCB_BASE is that of the context, and reads 0 on a core that belongs to none
(spec/22 R475). -/
def Obligations.SpecialRegistersHold : Prop :=
  ∀ (s : State) (v : Word),
    (∀ n w, (n, w) ∈ [(0x0D, 64), (0x0E, 64), (0x10, 32), (0x11, 32), (0x12, 32), (0x13, 16), (0x14, 64), (0x15, 32),
        (0x16, 32), (0x18, 64)] → (n = 0x18 → s.me.member = true) →
      ((s.setSpecial n v).special n).toNat = v.toNat % 2 ^ w ∧
      ∀ m, m ≠ n → (s.setSpecial n v).special m = s.special m) ∧
    (s.me.matrixQ.cause ≠ 0 → ((s.setSpecial 0x0C v).special 0x0C).toNat = v.toNat % 2 ^ 16) ∧
    (s.me.matrixQ.cause = 0 → (s.setSpecial 0x0C v).special 0x0C = s.special 0x0C) ∧
    (∀ m, m ≠ 0x0C → (s.setSpecial 0x0C v).special m = s.special m) ∧
    ∀ n, n ∉ [0x0C, 0x0D, 0x0E, 0x10, 0x11, 0x12, 0x13, 0x14, 0x15, 0x16, 0x18] → s.setSpecial n v = s

/-! ### The machine as a whole -/

/-- A step runs the decoded instruction (spec/03 R78, R80): when the core's selector takes a gang whose Q0 is not annulled, not
poisoned, not at a code breakpoint, inside its routine, and stands at no boundary of a transfer elsewhere, and the halfwords
there decode to an instruction, the step is `exec` of it on the state with that gang acting, with the cycle's passing; in a
paired context the followers do what it does (spec/22 R470).
(The selector's choice and the cycle's passing are the model's, log 1; how followers are held is log 26.) -/
def Obligations.StepRunsTheDecodedInstruction : Prop :=
  ∀ (s u : State) (c slot n : Nat) (i : Instr),
    s.agent = some (.issue c slot) → u = s.choose c slot →
    (u.me.xfer.map (·.left)) ≠ some 0 → u.gang.ann0 = false → u.me.halfBad u.gang.q0 = false →
    (u.me.lenAt u.gang.q0 = 2 → u.me.halfBad (u.gang.q0 + 1) = false) →
    (u.me.priv = 0 → u.gang.skipBreak = false → ∀ b ∈ u.me.breaks, b.2 ≠ u.gang.q0) →
    offsetOf u.gang.q0 + u.me.lenAt u.gang.q0 ≤ u.me.lengthOf u.gang.q0 →
    decode (u.me.half u.gang.q0) (u.me.half (u.gang.q0 + 1)) = (.ok i, n) →
    step s = passed s (s.pairedOutcome (.issue c slot) (Machine.exec i u)) ∧
      (s.ctx.paired = false → step s = match Machine.exec i u with
        | .next t => .next (t.tick s)
        | o => o)

/-- Every step of the machine ends in a next state, and one cycle has passed (spec/00 R12): no instruction, event or input
stops it. (That a step is one cycle is the model's choice, log 1.) -/
def Obligations.EveryStepGoesOn : Prop := ∀ s : State, ∃ t, step s = .next t ∧ t.clock = s.clock + 1

/-- Decoding gives back every well-formed instruction from the word that encodes it, with every operand at every value that
its field admits. -/
def Obligations.DecodeOfEncode : Prop :=
  ∀ (i : Instr) (n w : Nat), WellFormed i → encode i = some (n, w) → decodeTableWord n w = some i

/-- Words worked out in the spec, and some written out from its tables, decode to the instructions that they stand for. -/
def Obligations.SampleWordsDecode : Prop :=
  decodeTableWord 32 0x801A2800 = some (.add 3 4 5) ∧
  decodeTableWord 32 0xE01A2B01 = some (.amo 3 4 5 3 1) ∧
  decodeTableWord 32 0xA8800931 = some (.cx 0x12 3 1) ∧
  decodeTableWord 32 0x98335040 = some (.ldl 6 6 2 1 0 0x40) ∧
  decodeTableWord 32 0x900A8001 = some (.addi 1 5 1) ∧
  decodeTableWord 32 0xA0C10008 = some (.bN 8 1 8) ∧
  decodeTableWord 32 0xB0A01071 = some (.vsub 2 0 1 1 49) ∧
  decodeTableWord 32 0xC3A49873 = some (.vfmaF32 2 1 9 33 51) ∧
  decodeTableWord 32 0xD0009310 = some (.vbadd 0 0 2 1 3 4) ∧
  decodeTableWord 32 0xD90851E2 = some (.vld 0 2 5 7 1 2) ∧
  decodeTableWord 32 0xE8228435 = some (.ccopy 4 5 0 2 0 3 1 1) ∧
  decodeTableWord 32 0xF644D001 = some (.dxlook 8 9 10 0 1) ∧
  decodeTableWord 32 0xFF000000 = some .halt ∧
  decodeTableWord 16 0x05CA = some (.addCompact 3 4 5) ∧
  decodeTableWord 32 0xC3A49A33 = none

/-- Every memory in its canonical form stays so in every step: addresses strictly rising, no entry equal to what an unlisted
address reads as, in global memory, in every core's local memory, in every saved core's, and in those of a pair's follower and
its checkpoints. -/
def Obligations.StepKeepsMemoriesCanonical : Prop :=
  ∀ s t : State, s.memWf = true → step s = .next t → t.memWf = true

/-- Right after reset (spec/01 Tables 1-3 and 1-4): every memory is in its canonical form and reads zero, no gang stands on any
core, every register of a core reads zero (the gang registers and the trap bank, the special registers, rings, tensor maps and
counters), PRIV is 2, barriers and channels are unbound, streams, send, copy and matrix queues are empty and no counter is bound; a lane that nothing has
written has `p0` set, its registers zero and its sidecars 0x7F7F.
(The zeros of memory and the empty queues are the model's choice, log 3.) -/
def Obligations.ResetState : Prop :=
  State.reset.memWf = true ∧ (∀ a, State.reset.mem.byte a = 0) ∧
  (∀ c, (State.reset.core c).gangs = [] ∧ (∀ a, (State.reset.core c).mem.byte a = 0) ∧
    (State.reset.core c).usc = 0 ∧ (State.reset.core c).mprog = 0 ∧ (State.reset.core c).retired = 0 ∧
    (State.reset.core c).xpc0 = 0 ∧ (State.reset.core c).xpc1 = 0 ∧ (State.reset.core c).xpc2 = 0 ∧
    (State.reset.core c).trapCause = 0 ∧ (State.reset.core c).trapInfo = 0 ∧ (State.reset.core c).trapLanes = 0 ∧
    (State.reset.core c).timer = 0 ∧ (State.reset.core c).priv = 2 ∧
    (∀ n, ((State.reset.core c).barrier n).scope = 0) ∧ (∀ n, ((State.reset.core c).stream n).elems = []) ∧
    (∀ n, mget 0 (State.reset.core c).trapBank n = 0) ∧ (∀ i n, mget 0 ((State.reset.core c).at i).g n = 0) ∧
    (∀ n, ((State.reset.core c).ring n).valid = false ∧ ((State.reset.core c).ring n).word0 = 0) ∧
    (∀ n, mapWords ((State.reset.core c).tmap n) = List.replicate 8 0) ∧ (State.reset.core c).bindings = [] ∧
    (∀ n, mget 0 (State.reset.core c).counters n = 0) ∧ (∀ q, ((State.reset.core c).copyQ q).entries = []) ∧
    (State.reset.core c).matrixQ.entries = [] ∧ (∀ n, ((State.reset.core c).channel n).state = 0) ∧
    (State.reset.core c).sendReq = [] ∧ (State.reset.core c).ready = []) ∧
  (({} : Lane).preds = 1 ∧ (∀ n, n < 48 → ({} : Lane).read n = 0) ∧ ∀ q, ({} : Lane).sidecar q = 0x7F7F#16)

end
end

