-- ==== Sys2Proof/Laws/Ops.lean ====
section
/-! SUPPORT. What the shared operations do, once each: the end of an instruction, the checks before an Operation, and a
condition for each under which it goes on. -/
namespace Sys2Proof.Machine

open Sys2Proof.Spec

/-! ### The end of an instruction -/

@[simp] theorem State.finish_next (s t : State) (after : List Cause) :
    s.finish (.next t after) = .next (retired s t after) := rfl
@[simp] theorem State.finish_take (s t : State) (a : BitVec 32) : s.finish (.take t a) = .next (jumped s t a) := rfl
@[simp] theorem State.finish_stay (s t : State) : s.finish (.stay t) = .next (stayed s t) := rfl
@[simp] theorem State.finish_wait (s t : State) :
    s.finish (.wait t) = .next ((if t.waitsForGate then t.closing else t).modGang fun g => { g with waiting := true }) := rfl
@[simp] theorem State.finish_trap (s : State) (c : Cause) : s.finish (.trap c) = .next (s.takeTrap c) := rfl
/-- Every Operation ends in a next state. -/
theorem State.finish_isNext (s : State) (o : Out) : isNext (s.finish o) = true := by cases o <;> rfl

/-! ### Gates -/

theorem State.anyPendG_eq_false {s : State} {ns : List (BitVec 4)} (h : ∀ n ∈ ns, s.me.pendG n.toNat = false) :
    s.anyPendG ns = false := by
  simpa [State.anyPendG, List.any_eq_false] using h
theorem State.firstPoison_eq_none {s : State} {ns : List (BitVec 4)} (h : ∀ n ∈ ns, s.me.poisonG n.toNat = false) :
    s.firstPoison ns = none := by
  simpa [State.firstPoison, List.find?_eq_none] using h
/-- A gate on ready registers goes on. -/
theorem State.gate_ready {s : State} {uses all : List (BitVec 4)} (h : Ready s uses all) (body : Out) :
    s.gate uses all body = body := by
  simp [State.gate, State.anyPendG_eq_false h.1, State.firstPoison_eq_none h.2]
/-- A gate on ready registers goes on; the address registers carry no poison either. -/
theorem State.gateAddr_ready {s : State} {addrs uses all : List (BitVec 4)} {ea : Word} (h : Ready s (addrs ++ uses) all)
    (body : Out) : s.gateAddr addrs uses all ea body = body := by
  have h1 : s.firstPoison addrs = none := State.firstPoison_eq_none fun n hn => h.2 n (List.mem_append_left _ hn)
  have h2 : s.firstPoison uses = none := State.firstPoison_eq_none fun n hn => h.2 n (List.mem_append_right _ hn)
  simp [State.gateAddr, State.anyPendG_eq_false h.1, h1, h2]
/-- The same where the address registers are the only ones whose poison is consumed. -/
theorem State.gateAddr_ready' {s : State} {addrs all : List (BitVec 4)} {ea : Word} (h : Ready s addrs all)
    (body : Out) : s.gateAddr addrs [] all ea body = body :=
  State.gateAddr_ready (by simpa using h) body
/-- Readiness is about which registers are named, not in which order. -/
theorem ready_mono {s : State} {u u' a a' : List (BitVec 4)} (h : Ready s u a) (ha : ∀ n ∈ a', n ∈ a)
    (hu : ∀ n ∈ u', n ∈ u) : Ready s u' a' := ⟨fun n hn => h.1 n (ha n hn), fun n hn => h.2 n (hu n hn)⟩
theorem lanesReady_mono {s : State} {p : BitVec 3} {is u u' a a' : List Nat} (h : LanesReady s p is u a)
    (ha : ∀ n ∈ a', n ∈ a) (hu : ∀ n ∈ u', n ∈ u) : LanesReady s p is u' a' :=
  ⟨fun i hi n hn => h.1 i hi n (ha n hn), h.2.1, fun i hi n hn => h.2.2 i hi n (hu n hn)⟩
/-- A gate of lanes on ready operands goes on. -/
theorem State.laneGate_ready {s : State} {p : BitVec 3} {is uses all : List Nat} (h : LanesReady s p is uses all)
    (body : Out) : s.laneGate p is uses all body = body := by
  obtain ⟨h1, h2, h3⟩ := h
  have hp : (is.any fun i => all.any fun n => (s.gang.lane i).pending n) = false := by
    simpa [List.any_eq_false] using h1
  have hn : s.gang.poisonedOperand is uses = none := by
    simp only [Gang.poisonedOperand, List.head?_eq_none_iff, List.flatMap_eq_nil_iff, List.filter_eq_nil_iff]
    intro i hi n hn; simp [h3 i hi n hn]
  simp only [State.laneGate, hp, h2, hn]
  rfl
/-- An access whose checks pass goes on. -/
theorem State.checked_core (s : State) (a : Word) (w : Bool) (c o : Nat) (body : Chk → Out) :
    s.checked a w (.core c o) body = body (.core c o) := rfl
theorem State.checked_phys (s : State) (a : Word) (w : Bool) (p : Nat) (e : TlbEntry) (body : Chk → Out) :
    s.checked a w (.phys p e) body = body (.phys p e) := rfl

end Sys2Proof.Machine
end

