-- ==== Sys2Proof/Laws/Access.lean ====
section
/-! SUPPORT. When the shared forms of memory accesses and of local transfers go on, and with what. -/
namespace Sys2Proof.Machine

open Sys2Proof.Spec

/-- A local access at an aligned offset inside local memory goes on. -/
theorem State.localForm_ready {s : State} {addrs all : List (BitVec 4)} {ea : Word} {al mis : Nat} {body : Out}
    (h : Ready s addrs all) (ha : s.me.acquiring = false) (h1 : ea.toNat < 0x18000) (h2 : ea.toNat % al = 0) :
    s.localForm addrs [] all ea al mis body = body := by
  have hc : checkLocal ea al mis = none := by
    have h0 : ¬localEnd ≤ ea.toNat := by show ¬0x18000 ≤ ea.toNat; omega
    simp [checkLocal, h0, h2]
  simp only [State.localForm, State.gateAddr_ready' h, ha, hc]
  rfl
/-- A local access outside local memory traps, and so does a misaligned one. -/
theorem State.localForm_outside {s : State} {addrs all : List (BitVec 4)} {ea : Word} {al mis : Nat} {body : Out}
    (h : Ready s addrs all) (ha : s.me.acquiring = false) (h1 : 0x18000 ≤ ea.toNat) :
    s.localForm addrs [] all ea al mis body = .trap ⟨0x04, 0, ea, s.allLanes⟩ := by
  have hc : checkLocal ea al mis = some (0x04, 0) := by
    have h0 : localEnd ≤ ea.toNat := h1
    simp [checkLocal, h0]
  simp only [State.localForm, State.gateAddr_ready' h, ha, hc]
  rfl
theorem State.localForm_misaligned {s : State} {addrs all : List (BitVec 4)} {ea : Word} {al mis : Nat} {body : Out}
    (h : Ready s addrs all) (ha : s.me.acquiring = false) (h1 : ea.toNat < 0x18000) (h2 : ea.toNat % al ≠ 0) :
    s.localForm addrs [] all ea al mis body = .trap ⟨0x03, mis, ea, s.allLanes⟩ := by
  have hc : checkLocal ea al mis = some (0x03, mis) := by
    have h0 : ¬localEnd ≤ ea.toNat := by show ¬0x18000 ≤ ea.toNat; omega
    simp [checkLocal, h0, h2]
  simp only [State.localForm, State.gateAddr_ready' h, ha, hc]
  rfl
/-- A gang access whose checks find a core's window or a physical address goes on. -/
theorem State.gangAccess_core {s : State} {a : Word} {size al : Nat} {w : Bool} {mis c off : Nat} (h : Open s)
    (hc : s.check a size al w mis = .core c off) (body : Chk → Out) : s.gangAccess a size al w mis body = body (.core c off) := by
  obtain ⟨h1, h2, h3, h4, h5⟩ := h
  simp [State.gangAccess, h1, hc, State.checked, h3]
theorem State.gangAccess_phys {s : State} {a : Word} {size al : Nat} {w : Bool} {mis pa : Nat} {e : TlbEntry} (h : Open s)
    (hc : s.check a size al w mis = .phys pa e) (body : Chk → Out) : s.gangAccess a size al w mis body = body (.phys pa e) := by
  obtain ⟨h1, h2, h3, h4, h5⟩ := h
  simp [State.gangAccess, h1, hc, State.checked, h3]
/-- An access whose checks fail traps with the cause and the address. -/
theorem State.gangAccess_fail {s : State} {a : Word} {size al : Nat} {w : Bool} {mis code sub : Nat}
    (ha : s.me.acquiring = false) (hc : s.check a size al w mis = .fail code sub) (body : Chk → Out) :
    s.gangAccess a size al w mis body = .trap ⟨code, sub, a, s.allLanes⟩ := by
  simp [State.gangAccess, ha, hc, State.checked, State.addrTrap]

/-! ### Local transfers -/

/-- A taken transfer to an offset inside the routine enters the queue. -/
theorem State.transfer_taken {s t : State} {n : Bool} {x : Int} {i : Word} (h1 : 0 ≤ x) (h2 : x < (s.me.lengthOf s.gang.q0 : Int)) :
    s.transfer true n x i t = .take t (codeAddr (routineOf s.gang.q0) x.toNat) := by
  simp only [State.transfer, if_true]; rw [if_neg (by omega)]
/-- One that is not taken falls through; a nullifying one annuls both slots. -/
theorem State.transfer_not {s t : State} {n : Bool} {x : Int} {i : Word} :
    s.transfer false n x i t = .next (if n then t.annul else t) := rfl
theorem State.compareForm_ready {s : State} {a b : BitVec 4} {p : BitVec 15} {r : Word → Word → Bool} (h : Ready s [a, b] [a, b]) :
    s.compareForm a b p r = s.transfer (r (s.readG a) (s.readG b)) false (s.branchTarget p)
      (BitVec.ofInt 64 (s.branchTarget p)) s := by
  simp only [State.compareForm, State.gate_ready h]
theorem State.loopForm_ready {s : State} {a : BitVec 4} {p : BitVec 16} {n : Bool} (h : Ready s [a] [a]) :
    s.loopForm n a p = s.transfer (s.readG a - 1 ≠ 0) n (s.branchTarget p) (BitVec.ofInt 64 (s.branchTarget p))
      (s.writeG a (s.readG a - 1)) := by
  simp only [State.loopForm, State.gate_ready h]

end Sys2Proof.Machine
end

