-- ==== Sys2Proof/Laws/Sparse.lean ====
section
/-! SUPPORT. The laws of the finite maps: what a key reads as after an update, and that every update keeps the canonical
form. -/
namespace Sys2Proof.Machine

/-! ### Reading after an update -/

@[simp] theorem mget_nil {α : Type} (d : α) (i : Nat) : mget d [] i = d := rfl
theorem mget_cons {α : Type} (d : α) (e : Nat × α) (m : List (Nat × α)) (i : Nat) :
    mget d (e :: m) i = if i = e.1 then e.2 else mget d m i := rfl
theorem mput_cons {α : Type} (e : Nat × α) (m : List (Nat × α)) (i : Nat) (v : α) :
    mput (e :: m) i v = if i < e.1 then (i, v) :: e :: m else if i = e.1 then (i, v) :: m else e :: mput m i v := rfl
theorem mdel_cons {α : Type} (e : Nat × α) (m : List (Nat × α)) (i : Nat) :
    mdel (e :: m) i = if i = e.1 then mdel m i else e :: mdel m i := rfl
@[simp] theorem mget_mput {α : Type} (d : α) (m : List (Nat × α)) (i j : Nat) (v : α) :
    mget d (mput m i v) j = if j = i then v else mget d m j := by
  induction m with
  | nil => rfl
  | cons e m ih =>
    rw [mput_cons]
    by_cases hj : j = e.1
    all_goals split_ifs
    all_goals simp_all [mget_cons]
@[simp] theorem mget_mdel {α : Type} (d : α) (m : List (Nat × α)) (i j : Nat) :
    mget d (mdel m i) j = if j = i then d else mget d m j := by
  induction m with
  | nil => simp [mdel]
  | cons e m ih =>
    rw [mdel_cons, mget_cons]
    by_cases hi : i = e.1
    · rw [if_pos hi, ih, hi]; split_ifs <;> rfl
    · rw [if_neg hi, mget_cons, ih]
      by_cases hj : j = e.1
      · rw [if_pos hj, if_pos hj, if_neg (hj ▸ Ne.symm hi)]
      · rw [if_neg hj, if_neg hj]
@[simp] theorem mget_mset {α : Type} [DecidableEq α] (d : α) (m : List (Nat × α)) (i j : Nat) (v : α) :
    mget d (mset d m i v) j = if j = i then v else mget d m j := by
  unfold mset; split <;> simp_all
/-- Only the last of two writes to a key stays. -/
@[simp] theorem mput_mput {α : Type} (m : List (Nat × α)) (i : Nat) (v w : α) :
    mput (mput m i v) i w = mput m i w := by
  induction m with
  | nil => simp [mput]
  | cons e m ih => rw [mput_cons, mput_cons]; split_ifs <;> simp [mput_cons, *]
theorem mget_map {α : Type} (d : α) (f : α → α) (h : f d = d) (m : List (Nat × α)) (i : Nat) :
    mget d (m.map fun e => (e.1, f e.2)) i = f (mget d m i) := by
  induction m with
  | nil => exact h.symm
  | cons e m ih => rw [List.map_cons, mget_cons, mget_cons, ih, apply_ite f]

/-! ### Canonical form -/

theorem mkeys_cons {α : Type} {b : Nat} {e : Nat × α} {m : List (Nat × α)} :
    mkeys b (e :: m) = true ↔ b ≤ e.1 ∧ mkeys (e.1 + 1) m = true := by simp [mkeys]
theorem mkeys_mono {α : Type} {b c : Nat} {m : List (Nat × α)} (h : mkeys c m = true) (hb : b ≤ c) : mkeys b m = true := by
  cases m with
  | nil => rfl
  | cons e m => exact mkeys_cons.2 ((mkeys_cons.1 h).imp_left hb.trans)
theorem mkeys_mput {α : Type} {b : Nat} {m : List (Nat × α)} {i : Nat} (v : α) (h : mkeys b m = true) (hb : b ≤ i) :
    mkeys b (mput m i v) = true := by
  induction m generalizing b with
  | nil => simp [mput, mkeys, hb]
  | cons e m ih =>
    rw [mput_cons]
    split_ifs
    all_goals simp_all [mkeys_cons]
    all_goals first | omega | exact ih h.2 (by omega)
theorem mkeys_mdel {α : Type} {b : Nat} {m : List (Nat × α)} (i : Nat) (h : mkeys b m = true) :
    mkeys b (mdel m i) = true := by
  induction m generalizing b with
  | nil => rfl
  | cons e m ih =>
    have k := mkeys_cons.1 h
    rw [mdel_cons]
    split_ifs
    exacts [mkeys_mono (ih k.2) (Nat.le_succ_of_le k.1), mkeys_cons.2 ⟨k.1, ih k.2⟩]
theorem mkeys_filter {α : Type} {b : Nat} {m : List (Nat × α)} (p : Nat × α → Bool) (h : mkeys b m = true) :
    mkeys b (m.filter p) = true := by
  induction m generalizing b with
  | nil => rfl
  | cons e m ih =>
    have k := mkeys_cons.1 h
    rw [List.filter_cons]
    split_ifs
    exacts [mkeys_cons.2 ⟨k.1, ih k.2⟩, mkeys_mono (ih k.2) (Nat.le_succ_of_le k.1)]
theorem mem_mput {α : Type} {m : List (Nat × α)} {i : Nat} {v : α} {e : Nat × α} (h : e ∈ mput m i v) :
    e = (i, v) ∨ e ∈ m := by
  induction m with
  | nil => exact .inl (List.mem_singleton.1 h)
  | cons x m ih => rw [mput_cons] at h; split_ifs at h <;> simp_all <;> tauto
theorem mem_of_mem_mdel {α : Type} {m : List (Nat × α)} {i : Nat} {e : Nat × α} (h : e ∈ mdel m i) : e ∈ m := by
  induction m with
  | nil => exact h
  | cons x m ih => rw [mdel_cons] at h; split_ifs at h <;> simp_all; tauto
/-- Setting a key keeps the canonical form: the default removes the entry. -/
theorem mwf_mset {α : Type} [DecidableEq α] {d : α} {m : List (Nat × α)} (i : Nat) (v : α) (h : mwf d m = true) :
    mwf d (mset d m i v) = true := by
  simp only [mwf, Bool.and_eq_true, List.all_eq_true, decide_eq_true_eq] at h ⊢
  unfold mset
  split
  · exact ⟨mkeys_mdel i h.1, fun e he => h.2 e (mem_of_mem_mdel he)⟩
  · rename_i hv
    refine ⟨mkeys_mput v h.1 (Nat.zero_le _), fun e he => ?_⟩
    rcases mem_mput he with rfl | he
    · exact hv
    · exact h.2 e he
theorem mwf_mdel {α : Type} [DecidableEq α] {d : α} {m : List (Nat × α)} (i : Nat) (h : mwf d m = true) :
    mwf d (mdel m i) = true := by
  simp only [mwf, Bool.and_eq_true, List.all_eq_true, decide_eq_true_eq] at h ⊢
  exact ⟨mkeys_mdel i h.1, fun e he => h.2 e (mem_of_mem_mdel he)⟩
theorem mwf_filter {α : Type} [DecidableEq α] {d : α} {m : List (Nat × α)} (p : Nat × α → Bool) (h : mwf d m = true) :
    mwf d (m.filter p) = true := by
  simp only [mwf, Bool.and_eq_true, List.all_eq_true, decide_eq_true_eq] at h ⊢
  exact ⟨mkeys_filter p h.1, fun e he => h.2 e (List.mem_filter.1 he).1⟩

end Sys2Proof.Machine
end

