-- ==== Sys2Proof/Laws/State.lean ====
section
/-! SUPPORT. What each update of a state leaves as it was, field by field, and what it reads back as. -/
namespace Sys2Proof.Machine

set_option Elab.async false

/-! ### Updates of the state -/

@[simp] theorem State.setCore_clock (s : State) (c : Nat) (k : Core) : (s.setCore c k).clock = s.clock := rfl
@[simp] theorem State.setCore_cur (s : State) (c : Nat) (k : Core) : (s.setCore c k).cur = s.cur := rfl
@[simp] theorem State.setCore_nextTag (s : State) (c : Nat) (k : Core) : (s.setCore c k).nextTag = s.nextTag := rfl
@[simp] theorem State.setCore_clusters (s : State) (c : Nat) (k : Core) : (s.setCore c k).clusters = s.clusters := rfl
@[simp] theorem State.setCore_ctx (s : State) (c : Nat) (k : Core) : (s.setCore c k).ctx = s.ctx := rfl
@[simp] theorem State.setCore_mem (s : State) (c : Nat) (k : Core) : (s.setCore c k).mem = s.mem := rfl
@[simp] theorem State.setCore_ipt (s : State) (c : Nat) (k : Core) : (s.setCore c k).ipt = s.ipt := rfl
@[simp] theorem State.setCore_disabled (s : State) (c : Nat) (k : Core) : (s.setCore c k).disabled = s.disabled := rfl
@[simp] theorem State.setCore_epoch (s : State) (c : Nat) (k : Core) : (s.setCore c k).epoch = s.epoch := rfl
@[simp] theorem State.setCore_upsets (s : State) (c : Nat) (k : Core) : (s.setCore c k).upsets = s.upsets := rfl
@[simp] theorem State.setCore_agenda (s : State) (c : Nat) (k : Core) : (s.setCore c k).agenda = s.agenda := rfl
@[simp] theorem State.setCore_carried (s : State) (c : Nat) (k : Core) : (s.setCore c k).carried = s.carried := rfl
@[simp] theorem State.setCore_linkUsed (s : State) (c : Nat) (k : Core) : (s.setCore c k).linkUsed = s.linkUsed := rfl
@[simp] theorem State.setCore_marked (s : State) (c : Nat) (k : Core) : (s.setCore c k).marked = s.marked := rfl
@[simp] theorem State.setCore_nodes (s : State) (c : Nat) (k : Core) : (s.setCore c k).nodes = s.nodes := rfl
@[simp] theorem State.setCore_watches (s : State) (c : Nat) (k : Core) : (s.setCore c k).watches = s.watches := rfl
@[simp] theorem State.setCore_changes (s : State) (c : Nat) (k : Core) : (s.setCore c k).changes = s.changes := rfl
@[simp] theorem State.setCore_sliceGrants (s : State) (c : Nat) (k : Core) : (s.setCore c k).sliceGrants = s.sliceGrants := rfl
@[simp] theorem State.setCore_sliceOut (s : State) (c : Nat) (k : Core) : (s.setCore c k).sliceOut = s.sliceOut := rfl
@[simp] theorem State.setCore_frame (s : State) (c : Nat) (k : Core) : (s.setCore c k).frame = s.frame := rfl
@[simp] theorem State.setCore_quotas (s : State) (c : Nat) (k : Core) : (s.setCore c k).quotas = s.quotas := rfl
@[simp] theorem State.setCore_trees (s : State) (c : Nat) (k : Core) : (s.setCore c k).trees = s.trees := rfl
@[simp] theorem State.setCore_residuals (s : State) (c : Nat) (k : Core) : (s.setCore c k).residuals = s.residuals := rfl
@[simp] theorem State.setCore_ports (s : State) (c : Nat) (k : Core) : (s.setCore c k).ports = s.ports := rfl
@[simp] theorem State.setCore_recorders (s : State) (c : Nat) (k : Core) : (s.setCore c k).recorders = s.recorders := rfl
@[simp] theorem State.setCore_sliceBanks (s : State) (c : Nat) (k : Core) : (s.setCore c k).sliceBanks = s.sliceBanks := rfl
@[simp] theorem State.setCore_stackBanks (s : State) (c : Nat) (k : Core) : (s.setCore c k).stackBanks = s.stackBanks := rfl
@[simp] theorem State.setCore_sliceRet (s : State) (c : Nat) (k : Core) : (s.setCore c k).sliceRet = s.sliceRet := rfl
@[simp] theorem State.setCore_sliceLost (s : State) (c : Nat) (k : Core) : (s.setCore c k).sliceLost = s.sliceLost := rfl
@[simp] theorem State.setCore_twins (s : State) (c : Nat) (k : Core) : (s.setCore c k).twins = s.twins := rfl
@[simp] theorem State.setCore_parts (s : State) (c : Nat) (k : Core) : (s.setCore c k).parts = s.parts := rfl
@[simp] theorem State.setCore_heldNotices (s : State) (c : Nat) (k : Core) : (s.setCore c k).heldNotices = s.heldNotices := rfl
@[simp] theorem State.setCore_host (s : State) (c : Nat) (k : Core) : (s.setCore c k).host = s.host := rfl
@[simp] theorem State.setCore_sup (s : State) (c : Nat) (k : Core) : (s.setCore c k).sup = s.sup := rfl
@[simp] theorem State.modCore_clock (s : State) (c : Nat) (f : Core → Core) : (s.modCore c f).clock = s.clock := rfl
@[simp] theorem State.modCore_cur (s : State) (c : Nat) (f : Core → Core) : (s.modCore c f).cur = s.cur := rfl
@[simp] theorem State.modCore_nextTag (s : State) (c : Nat) (f : Core → Core) : (s.modCore c f).nextTag = s.nextTag := rfl
@[simp] theorem State.modCore_clusters (s : State) (c : Nat) (f : Core → Core) : (s.modCore c f).clusters = s.clusters := rfl
@[simp] theorem State.modCore_ctx (s : State) (c : Nat) (f : Core → Core) : (s.modCore c f).ctx = s.ctx := rfl
@[simp] theorem State.modCore_mem (s : State) (c : Nat) (f : Core → Core) : (s.modCore c f).mem = s.mem := rfl
@[simp] theorem State.modCore_ipt (s : State) (c : Nat) (f : Core → Core) : (s.modCore c f).ipt = s.ipt := rfl
@[simp] theorem State.modCore_disabled (s : State) (c : Nat) (f : Core → Core) : (s.modCore c f).disabled = s.disabled := rfl
@[simp] theorem State.modCore_epoch (s : State) (c : Nat) (f : Core → Core) : (s.modCore c f).epoch = s.epoch := rfl
@[simp] theorem State.modCore_upsets (s : State) (c : Nat) (f : Core → Core) : (s.modCore c f).upsets = s.upsets := rfl
@[simp] theorem State.modCore_agenda (s : State) (c : Nat) (f : Core → Core) : (s.modCore c f).agenda = s.agenda := rfl
@[simp] theorem State.modCore_carried (s : State) (c : Nat) (f : Core → Core) : (s.modCore c f).carried = s.carried := rfl
@[simp] theorem State.modCore_linkUsed (s : State) (c : Nat) (f : Core → Core) : (s.modCore c f).linkUsed = s.linkUsed := rfl
@[simp] theorem State.modCore_marked (s : State) (c : Nat) (f : Core → Core) : (s.modCore c f).marked = s.marked := rfl
@[simp] theorem State.modCore_nodes (s : State) (c : Nat) (f : Core → Core) : (s.modCore c f).nodes = s.nodes := rfl
@[simp] theorem State.modCore_watches (s : State) (c : Nat) (f : Core → Core) : (s.modCore c f).watches = s.watches := rfl
@[simp] theorem State.modCore_changes (s : State) (c : Nat) (f : Core → Core) : (s.modCore c f).changes = s.changes := rfl
@[simp] theorem State.modCore_sliceGrants (s : State) (c : Nat) (f : Core → Core) : (s.modCore c f).sliceGrants = s.sliceGrants := rfl
@[simp] theorem State.modCore_sliceOut (s : State) (c : Nat) (f : Core → Core) : (s.modCore c f).sliceOut = s.sliceOut := rfl
@[simp] theorem State.modCore_frame (s : State) (c : Nat) (f : Core → Core) : (s.modCore c f).frame = s.frame := rfl
@[simp] theorem State.modCore_quotas (s : State) (c : Nat) (f : Core → Core) : (s.modCore c f).quotas = s.quotas := rfl
@[simp] theorem State.modCore_trees (s : State) (c : Nat) (f : Core → Core) : (s.modCore c f).trees = s.trees := rfl
@[simp] theorem State.modCore_residuals (s : State) (c : Nat) (f : Core → Core) : (s.modCore c f).residuals = s.residuals := rfl
@[simp] theorem State.modCore_ports (s : State) (c : Nat) (f : Core → Core) : (s.modCore c f).ports = s.ports := rfl
@[simp] theorem State.modCore_recorders (s : State) (c : Nat) (f : Core → Core) : (s.modCore c f).recorders = s.recorders := rfl
@[simp] theorem State.modCore_sliceBanks (s : State) (c : Nat) (f : Core → Core) : (s.modCore c f).sliceBanks = s.sliceBanks := rfl
@[simp] theorem State.modCore_stackBanks (s : State) (c : Nat) (f : Core → Core) : (s.modCore c f).stackBanks = s.stackBanks := rfl
@[simp] theorem State.modCore_sliceRet (s : State) (c : Nat) (f : Core → Core) : (s.modCore c f).sliceRet = s.sliceRet := rfl
@[simp] theorem State.modCore_sliceLost (s : State) (c : Nat) (f : Core → Core) : (s.modCore c f).sliceLost = s.sliceLost := rfl
@[simp] theorem State.modCore_twins (s : State) (c : Nat) (f : Core → Core) : (s.modCore c f).twins = s.twins := rfl
@[simp] theorem State.modCore_parts (s : State) (c : Nat) (f : Core → Core) : (s.modCore c f).parts = s.parts := rfl
@[simp] theorem State.modCore_heldNotices (s : State) (c : Nat) (f : Core → Core) : (s.modCore c f).heldNotices = s.heldNotices := rfl
@[simp] theorem State.modCore_host (s : State) (c : Nat) (f : Core → Core) : (s.modCore c f).host = s.host := rfl
@[simp] theorem State.modCore_sup (s : State) (c : Nat) (f : Core → Core) : (s.modCore c f).sup = s.sup := rfl
@[simp] theorem State.setMe_clock (s : State) (k : Core) : (s.setMe k).clock = s.clock := rfl
@[simp] theorem State.setMe_cur (s : State) (k : Core) : (s.setMe k).cur = s.cur := rfl
@[simp] theorem State.setMe_nextTag (s : State) (k : Core) : (s.setMe k).nextTag = s.nextTag := rfl
@[simp] theorem State.setMe_clusters (s : State) (k : Core) : (s.setMe k).clusters = s.clusters := rfl
@[simp] theorem State.setMe_ctx (s : State) (k : Core) : (s.setMe k).ctx = s.ctx := rfl
@[simp] theorem State.setMe_mem (s : State) (k : Core) : (s.setMe k).mem = s.mem := rfl
@[simp] theorem State.setMe_ipt (s : State) (k : Core) : (s.setMe k).ipt = s.ipt := rfl
@[simp] theorem State.setMe_disabled (s : State) (k : Core) : (s.setMe k).disabled = s.disabled := rfl
@[simp] theorem State.setMe_epoch (s : State) (k : Core) : (s.setMe k).epoch = s.epoch := rfl
@[simp] theorem State.setMe_upsets (s : State) (k : Core) : (s.setMe k).upsets = s.upsets := rfl
@[simp] theorem State.setMe_agenda (s : State) (k : Core) : (s.setMe k).agenda = s.agenda := rfl
@[simp] theorem State.setMe_carried (s : State) (k : Core) : (s.setMe k).carried = s.carried := rfl
@[simp] theorem State.setMe_linkUsed (s : State) (k : Core) : (s.setMe k).linkUsed = s.linkUsed := rfl
@[simp] theorem State.setMe_marked (s : State) (k : Core) : (s.setMe k).marked = s.marked := rfl
@[simp] theorem State.setMe_nodes (s : State) (k : Core) : (s.setMe k).nodes = s.nodes := rfl
@[simp] theorem State.setMe_watches (s : State) (k : Core) : (s.setMe k).watches = s.watches := rfl
@[simp] theorem State.setMe_changes (s : State) (k : Core) : (s.setMe k).changes = s.changes := rfl
@[simp] theorem State.setMe_sliceGrants (s : State) (k : Core) : (s.setMe k).sliceGrants = s.sliceGrants := rfl
@[simp] theorem State.setMe_sliceOut (s : State) (k : Core) : (s.setMe k).sliceOut = s.sliceOut := rfl
@[simp] theorem State.setMe_frame (s : State) (k : Core) : (s.setMe k).frame = s.frame := rfl
@[simp] theorem State.setMe_quotas (s : State) (k : Core) : (s.setMe k).quotas = s.quotas := rfl
@[simp] theorem State.setMe_trees (s : State) (k : Core) : (s.setMe k).trees = s.trees := rfl
@[simp] theorem State.setMe_residuals (s : State) (k : Core) : (s.setMe k).residuals = s.residuals := rfl
@[simp] theorem State.setMe_ports (s : State) (k : Core) : (s.setMe k).ports = s.ports := rfl
@[simp] theorem State.setMe_recorders (s : State) (k : Core) : (s.setMe k).recorders = s.recorders := rfl
@[simp] theorem State.setMe_sliceBanks (s : State) (k : Core) : (s.setMe k).sliceBanks = s.sliceBanks := rfl
@[simp] theorem State.setMe_stackBanks (s : State) (k : Core) : (s.setMe k).stackBanks = s.stackBanks := rfl
@[simp] theorem State.setMe_sliceRet (s : State) (k : Core) : (s.setMe k).sliceRet = s.sliceRet := rfl
@[simp] theorem State.setMe_sliceLost (s : State) (k : Core) : (s.setMe k).sliceLost = s.sliceLost := rfl
@[simp] theorem State.setMe_twins (s : State) (k : Core) : (s.setMe k).twins = s.twins := rfl
@[simp] theorem State.setMe_parts (s : State) (k : Core) : (s.setMe k).parts = s.parts := rfl
@[simp] theorem State.setMe_heldNotices (s : State) (k : Core) : (s.setMe k).heldNotices = s.heldNotices := rfl
@[simp] theorem State.setMe_host (s : State) (k : Core) : (s.setMe k).host = s.host := rfl
@[simp] theorem State.setMe_sup (s : State) (k : Core) : (s.setMe k).sup = s.sup := rfl
@[simp] theorem State.modMe_clock (s : State) (f : Core → Core) : (s.modMe f).clock = s.clock := rfl
@[simp] theorem State.modMe_cur (s : State) (f : Core → Core) : (s.modMe f).cur = s.cur := rfl
@[simp] theorem State.modMe_nextTag (s : State) (f : Core → Core) : (s.modMe f).nextTag = s.nextTag := rfl
@[simp] theorem State.modMe_clusters (s : State) (f : Core → Core) : (s.modMe f).clusters = s.clusters := rfl
@[simp] theorem State.modMe_ctx (s : State) (f : Core → Core) : (s.modMe f).ctx = s.ctx := rfl
@[simp] theorem State.modMe_mem (s : State) (f : Core → Core) : (s.modMe f).mem = s.mem := rfl
@[simp] theorem State.modMe_ipt (s : State) (f : Core → Core) : (s.modMe f).ipt = s.ipt := rfl
@[simp] theorem State.modMe_disabled (s : State) (f : Core → Core) : (s.modMe f).disabled = s.disabled := rfl
@[simp] theorem State.modMe_epoch (s : State) (f : Core → Core) : (s.modMe f).epoch = s.epoch := rfl
@[simp] theorem State.modMe_upsets (s : State) (f : Core → Core) : (s.modMe f).upsets = s.upsets := rfl
@[simp] theorem State.modMe_agenda (s : State) (f : Core → Core) : (s.modMe f).agenda = s.agenda := rfl
@[simp] theorem State.modMe_carried (s : State) (f : Core → Core) : (s.modMe f).carried = s.carried := rfl
@[simp] theorem State.modMe_linkUsed (s : State) (f : Core → Core) : (s.modMe f).linkUsed = s.linkUsed := rfl
@[simp] theorem State.modMe_marked (s : State) (f : Core → Core) : (s.modMe f).marked = s.marked := rfl
@[simp] theorem State.modMe_nodes (s : State) (f : Core → Core) : (s.modMe f).nodes = s.nodes := rfl
@[simp] theorem State.modMe_watches (s : State) (f : Core → Core) : (s.modMe f).watches = s.watches := rfl
@[simp] theorem State.modMe_changes (s : State) (f : Core → Core) : (s.modMe f).changes = s.changes := rfl
@[simp] theorem State.modMe_sliceGrants (s : State) (f : Core → Core) : (s.modMe f).sliceGrants = s.sliceGrants := rfl
@[simp] theorem State.modMe_sliceOut (s : State) (f : Core → Core) : (s.modMe f).sliceOut = s.sliceOut := rfl
@[simp] theorem State.modMe_frame (s : State) (f : Core → Core) : (s.modMe f).frame = s.frame := rfl
@[simp] theorem State.modMe_quotas (s : State) (f : Core → Core) : (s.modMe f).quotas = s.quotas := rfl
@[simp] theorem State.modMe_trees (s : State) (f : Core → Core) : (s.modMe f).trees = s.trees := rfl
@[simp] theorem State.modMe_residuals (s : State) (f : Core → Core) : (s.modMe f).residuals = s.residuals := rfl
@[simp] theorem State.modMe_ports (s : State) (f : Core → Core) : (s.modMe f).ports = s.ports := rfl
@[simp] theorem State.modMe_recorders (s : State) (f : Core → Core) : (s.modMe f).recorders = s.recorders := rfl
@[simp] theorem State.modMe_sliceBanks (s : State) (f : Core → Core) : (s.modMe f).sliceBanks = s.sliceBanks := rfl
@[simp] theorem State.modMe_stackBanks (s : State) (f : Core → Core) : (s.modMe f).stackBanks = s.stackBanks := rfl
@[simp] theorem State.modMe_sliceRet (s : State) (f : Core → Core) : (s.modMe f).sliceRet = s.sliceRet := rfl
@[simp] theorem State.modMe_sliceLost (s : State) (f : Core → Core) : (s.modMe f).sliceLost = s.sliceLost := rfl
@[simp] theorem State.modMe_twins (s : State) (f : Core → Core) : (s.modMe f).twins = s.twins := rfl
@[simp] theorem State.modMe_parts (s : State) (f : Core → Core) : (s.modMe f).parts = s.parts := rfl
@[simp] theorem State.modMe_heldNotices (s : State) (f : Core → Core) : (s.modMe f).heldNotices = s.heldNotices := rfl
@[simp] theorem State.modMe_host (s : State) (f : Core → Core) : (s.modMe f).host = s.host := rfl
@[simp] theorem State.modMe_sup (s : State) (f : Core → Core) : (s.modMe f).sup = s.sup := rfl
@[simp] theorem State.setGang_clock (s : State) (g : Gang) : (s.setGang g).clock = s.clock := rfl
@[simp] theorem State.setGang_cur (s : State) (g : Gang) : (s.setGang g).cur = s.cur := rfl
@[simp] theorem State.setGang_nextTag (s : State) (g : Gang) : (s.setGang g).nextTag = s.nextTag := rfl
@[simp] theorem State.setGang_clusters (s : State) (g : Gang) : (s.setGang g).clusters = s.clusters := rfl
@[simp] theorem State.setGang_ctx (s : State) (g : Gang) : (s.setGang g).ctx = s.ctx := rfl
@[simp] theorem State.setGang_mem (s : State) (g : Gang) : (s.setGang g).mem = s.mem := rfl
@[simp] theorem State.setGang_ipt (s : State) (g : Gang) : (s.setGang g).ipt = s.ipt := rfl
@[simp] theorem State.setGang_disabled (s : State) (g : Gang) : (s.setGang g).disabled = s.disabled := rfl
@[simp] theorem State.setGang_epoch (s : State) (g : Gang) : (s.setGang g).epoch = s.epoch := rfl
@[simp] theorem State.setGang_upsets (s : State) (g : Gang) : (s.setGang g).upsets = s.upsets := rfl
@[simp] theorem State.setGang_agenda (s : State) (g : Gang) : (s.setGang g).agenda = s.agenda := rfl
@[simp] theorem State.setGang_carried (s : State) (g : Gang) : (s.setGang g).carried = s.carried := rfl
@[simp] theorem State.setGang_linkUsed (s : State) (g : Gang) : (s.setGang g).linkUsed = s.linkUsed := rfl
@[simp] theorem State.setGang_marked (s : State) (g : Gang) : (s.setGang g).marked = s.marked := rfl
@[simp] theorem State.setGang_nodes (s : State) (g : Gang) : (s.setGang g).nodes = s.nodes := rfl
@[simp] theorem State.setGang_watches (s : State) (g : Gang) : (s.setGang g).watches = s.watches := rfl
@[simp] theorem State.setGang_changes (s : State) (g : Gang) : (s.setGang g).changes = s.changes := rfl
@[simp] theorem State.setGang_sliceGrants (s : State) (g : Gang) : (s.setGang g).sliceGrants = s.sliceGrants := rfl
@[simp] theorem State.setGang_sliceOut (s : State) (g : Gang) : (s.setGang g).sliceOut = s.sliceOut := rfl
@[simp] theorem State.setGang_frame (s : State) (g : Gang) : (s.setGang g).frame = s.frame := rfl
@[simp] theorem State.setGang_quotas (s : State) (g : Gang) : (s.setGang g).quotas = s.quotas := rfl
@[simp] theorem State.setGang_trees (s : State) (g : Gang) : (s.setGang g).trees = s.trees := rfl
@[simp] theorem State.setGang_residuals (s : State) (g : Gang) : (s.setGang g).residuals = s.residuals := rfl
@[simp] theorem State.setGang_ports (s : State) (g : Gang) : (s.setGang g).ports = s.ports := rfl
@[simp] theorem State.setGang_recorders (s : State) (g : Gang) : (s.setGang g).recorders = s.recorders := rfl
@[simp] theorem State.setGang_sliceBanks (s : State) (g : Gang) : (s.setGang g).sliceBanks = s.sliceBanks := rfl
@[simp] theorem State.setGang_stackBanks (s : State) (g : Gang) : (s.setGang g).stackBanks = s.stackBanks := rfl
@[simp] theorem State.setGang_sliceRet (s : State) (g : Gang) : (s.setGang g).sliceRet = s.sliceRet := rfl
@[simp] theorem State.setGang_sliceLost (s : State) (g : Gang) : (s.setGang g).sliceLost = s.sliceLost := rfl
@[simp] theorem State.setGang_twins (s : State) (g : Gang) : (s.setGang g).twins = s.twins := rfl
@[simp] theorem State.setGang_parts (s : State) (g : Gang) : (s.setGang g).parts = s.parts := rfl
@[simp] theorem State.setGang_heldNotices (s : State) (g : Gang) : (s.setGang g).heldNotices = s.heldNotices := rfl
@[simp] theorem State.setGang_host (s : State) (g : Gang) : (s.setGang g).host = s.host := rfl
@[simp] theorem State.setGang_sup (s : State) (g : Gang) : (s.setGang g).sup = s.sup := rfl
@[simp] theorem State.modGang_clock (s : State) (f : Gang → Gang) : (s.modGang f).clock = s.clock := rfl
@[simp] theorem State.modGang_cur (s : State) (f : Gang → Gang) : (s.modGang f).cur = s.cur := rfl
@[simp] theorem State.modGang_nextTag (s : State) (f : Gang → Gang) : (s.modGang f).nextTag = s.nextTag := rfl
@[simp] theorem State.modGang_clusters (s : State) (f : Gang → Gang) : (s.modGang f).clusters = s.clusters := rfl
@[simp] theorem State.modGang_ctx (s : State) (f : Gang → Gang) : (s.modGang f).ctx = s.ctx := rfl
@[simp] theorem State.modGang_mem (s : State) (f : Gang → Gang) : (s.modGang f).mem = s.mem := rfl
@[simp] theorem State.modGang_ipt (s : State) (f : Gang → Gang) : (s.modGang f).ipt = s.ipt := rfl
@[simp] theorem State.modGang_disabled (s : State) (f : Gang → Gang) : (s.modGang f).disabled = s.disabled := rfl
@[simp] theorem State.modGang_epoch (s : State) (f : Gang → Gang) : (s.modGang f).epoch = s.epoch := rfl
@[simp] theorem State.modGang_upsets (s : State) (f : Gang → Gang) : (s.modGang f).upsets = s.upsets := rfl
@[simp] theorem State.modGang_agenda (s : State) (f : Gang → Gang) : (s.modGang f).agenda = s.agenda := rfl
@[simp] theorem State.modGang_carried (s : State) (f : Gang → Gang) : (s.modGang f).carried = s.carried := rfl
@[simp] theorem State.modGang_linkUsed (s : State) (f : Gang → Gang) : (s.modGang f).linkUsed = s.linkUsed := rfl
@[simp] theorem State.modGang_marked (s : State) (f : Gang → Gang) : (s.modGang f).marked = s.marked := rfl
@[simp] theorem State.modGang_nodes (s : State) (f : Gang → Gang) : (s.modGang f).nodes = s.nodes := rfl
@[simp] theorem State.modGang_watches (s : State) (f : Gang → Gang) : (s.modGang f).watches = s.watches := rfl
@[simp] theorem State.modGang_changes (s : State) (f : Gang → Gang) : (s.modGang f).changes = s.changes := rfl
@[simp] theorem State.modGang_sliceGrants (s : State) (f : Gang → Gang) : (s.modGang f).sliceGrants = s.sliceGrants := rfl
@[simp] theorem State.modGang_sliceOut (s : State) (f : Gang → Gang) : (s.modGang f).sliceOut = s.sliceOut := rfl
@[simp] theorem State.modGang_frame (s : State) (f : Gang → Gang) : (s.modGang f).frame = s.frame := rfl
@[simp] theorem State.modGang_quotas (s : State) (f : Gang → Gang) : (s.modGang f).quotas = s.quotas := rfl
@[simp] theorem State.modGang_trees (s : State) (f : Gang → Gang) : (s.modGang f).trees = s.trees := rfl
@[simp] theorem State.modGang_residuals (s : State) (f : Gang → Gang) : (s.modGang f).residuals = s.residuals := rfl
@[simp] theorem State.modGang_ports (s : State) (f : Gang → Gang) : (s.modGang f).ports = s.ports := rfl
@[simp] theorem State.modGang_recorders (s : State) (f : Gang → Gang) : (s.modGang f).recorders = s.recorders := rfl
@[simp] theorem State.modGang_sliceBanks (s : State) (f : Gang → Gang) : (s.modGang f).sliceBanks = s.sliceBanks := rfl
@[simp] theorem State.modGang_stackBanks (s : State) (f : Gang → Gang) : (s.modGang f).stackBanks = s.stackBanks := rfl
@[simp] theorem State.modGang_sliceRet (s : State) (f : Gang → Gang) : (s.modGang f).sliceRet = s.sliceRet := rfl
@[simp] theorem State.modGang_sliceLost (s : State) (f : Gang → Gang) : (s.modGang f).sliceLost = s.sliceLost := rfl
@[simp] theorem State.modGang_twins (s : State) (f : Gang → Gang) : (s.modGang f).twins = s.twins := rfl
@[simp] theorem State.modGang_parts (s : State) (f : Gang → Gang) : (s.modGang f).parts = s.parts := rfl
@[simp] theorem State.modGang_heldNotices (s : State) (f : Gang → Gang) : (s.modGang f).heldNotices = s.heldNotices := rfl
@[simp] theorem State.modGang_host (s : State) (f : Gang → Gang) : (s.modGang f).host = s.host := rfl
@[simp] theorem State.modGang_sup (s : State) (f : Gang → Gang) : (s.modGang f).sup = s.sup := rfl
@[simp] theorem State.writeG_clock (s : State) (n : BitVec 4) (v : Word) (p : Bool) : (s.writeG n v p).clock = s.clock := rfl
@[simp] theorem State.writeG_cur (s : State) (n : BitVec 4) (v : Word) (p : Bool) : (s.writeG n v p).cur = s.cur := rfl
@[simp] theorem State.writeG_nextTag (s : State) (n : BitVec 4) (v : Word) (p : Bool) : (s.writeG n v p).nextTag = s.nextTag := rfl
@[simp] theorem State.writeG_clusters (s : State) (n : BitVec 4) (v : Word) (p : Bool) : (s.writeG n v p).clusters = s.clusters := rfl
@[simp] theorem State.writeG_ctx (s : State) (n : BitVec 4) (v : Word) (p : Bool) : (s.writeG n v p).ctx = s.ctx := rfl
@[simp] theorem State.writeG_mem (s : State) (n : BitVec 4) (v : Word) (p : Bool) : (s.writeG n v p).mem = s.mem := rfl
@[simp] theorem State.writeG_ipt (s : State) (n : BitVec 4) (v : Word) (p : Bool) : (s.writeG n v p).ipt = s.ipt := rfl
@[simp] theorem State.writeG_disabled (s : State) (n : BitVec 4) (v : Word) (p : Bool) : (s.writeG n v p).disabled = s.disabled := rfl
@[simp] theorem State.writeG_epoch (s : State) (n : BitVec 4) (v : Word) (p : Bool) : (s.writeG n v p).epoch = s.epoch := rfl
@[simp] theorem State.writeG_upsets (s : State) (n : BitVec 4) (v : Word) (p : Bool) : (s.writeG n v p).upsets = s.upsets := rfl
@[simp] theorem State.writeG_agenda (s : State) (n : BitVec 4) (v : Word) (p : Bool) : (s.writeG n v p).agenda = s.agenda := rfl
@[simp] theorem State.writeG_carried (s : State) (n : BitVec 4) (v : Word) (p : Bool) : (s.writeG n v p).carried = s.carried := rfl
@[simp] theorem State.writeG_linkUsed (s : State) (n : BitVec 4) (v : Word) (p : Bool) : (s.writeG n v p).linkUsed = s.linkUsed := rfl
@[simp] theorem State.writeG_marked (s : State) (n : BitVec 4) (v : Word) (p : Bool) : (s.writeG n v p).marked = s.marked := rfl
@[simp] theorem State.writeG_nodes (s : State) (n : BitVec 4) (v : Word) (p : Bool) : (s.writeG n v p).nodes = s.nodes := rfl
@[simp] theorem State.writeG_watches (s : State) (n : BitVec 4) (v : Word) (p : Bool) : (s.writeG n v p).watches = s.watches := rfl
@[simp] theorem State.writeG_changes (s : State) (n : BitVec 4) (v : Word) (p : Bool) : (s.writeG n v p).changes = s.changes := rfl
@[simp] theorem State.writeG_sliceGrants (s : State) (n : BitVec 4) (v : Word) (p : Bool) : (s.writeG n v p).sliceGrants = s.sliceGrants := rfl
@[simp] theorem State.writeG_sliceOut (s : State) (n : BitVec 4) (v : Word) (p : Bool) : (s.writeG n v p).sliceOut = s.sliceOut := rfl
@[simp] theorem State.writeG_frame (s : State) (n : BitVec 4) (v : Word) (p : Bool) : (s.writeG n v p).frame = s.frame := rfl
@[simp] theorem State.writeG_quotas (s : State) (n : BitVec 4) (v : Word) (p : Bool) : (s.writeG n v p).quotas = s.quotas := rfl
@[simp] theorem State.writeG_trees (s : State) (n : BitVec 4) (v : Word) (p : Bool) : (s.writeG n v p).trees = s.trees := rfl
@[simp] theorem State.writeG_residuals (s : State) (n : BitVec 4) (v : Word) (p : Bool) : (s.writeG n v p).residuals = s.residuals := rfl
@[simp] theorem State.writeG_ports (s : State) (n : BitVec 4) (v : Word) (p : Bool) : (s.writeG n v p).ports = s.ports := rfl
@[simp] theorem State.writeG_recorders (s : State) (n : BitVec 4) (v : Word) (p : Bool) : (s.writeG n v p).recorders = s.recorders := rfl
@[simp] theorem State.writeG_sliceBanks (s : State) (n : BitVec 4) (v : Word) (p : Bool) : (s.writeG n v p).sliceBanks = s.sliceBanks := rfl
@[simp] theorem State.writeG_stackBanks (s : State) (n : BitVec 4) (v : Word) (p : Bool) : (s.writeG n v p).stackBanks = s.stackBanks := rfl
@[simp] theorem State.writeG_sliceRet (s : State) (n : BitVec 4) (v : Word) (p : Bool) : (s.writeG n v p).sliceRet = s.sliceRet := rfl
@[simp] theorem State.writeG_sliceLost (s : State) (n : BitVec 4) (v : Word) (p : Bool) : (s.writeG n v p).sliceLost = s.sliceLost := rfl
@[simp] theorem State.writeG_twins (s : State) (n : BitVec 4) (v : Word) (p : Bool) : (s.writeG n v p).twins = s.twins := rfl
@[simp] theorem State.writeG_parts (s : State) (n : BitVec 4) (v : Word) (p : Bool) : (s.writeG n v p).parts = s.parts := rfl
@[simp] theorem State.writeG_heldNotices (s : State) (n : BitVec 4) (v : Word) (p : Bool) : (s.writeG n v p).heldNotices = s.heldNotices := rfl
@[simp] theorem State.writeG_host (s : State) (n : BitVec 4) (v : Word) (p : Bool) : (s.writeG n v p).host = s.host := rfl
@[simp] theorem State.writeG_sup (s : State) (n : BitVec 4) (v : Word) (p : Bool) : (s.writeG n v p).sup = s.sup := rfl
@[simp] theorem State.pendG_clock (s : State) (n : BitVec 4) : (s.pendG n).clock = s.clock := rfl
@[simp] theorem State.pendG_cur (s : State) (n : BitVec 4) : (s.pendG n).cur = s.cur := rfl
@[simp] theorem State.pendG_nextTag (s : State) (n : BitVec 4) : (s.pendG n).nextTag = s.nextTag := rfl
@[simp] theorem State.pendG_clusters (s : State) (n : BitVec 4) : (s.pendG n).clusters = s.clusters := rfl
@[simp] theorem State.pendG_ctx (s : State) (n : BitVec 4) : (s.pendG n).ctx = s.ctx := rfl
@[simp] theorem State.pendG_mem (s : State) (n : BitVec 4) : (s.pendG n).mem = s.mem := rfl
@[simp] theorem State.pendG_ipt (s : State) (n : BitVec 4) : (s.pendG n).ipt = s.ipt := rfl
@[simp] theorem State.pendG_disabled (s : State) (n : BitVec 4) : (s.pendG n).disabled = s.disabled := rfl
@[simp] theorem State.pendG_epoch (s : State) (n : BitVec 4) : (s.pendG n).epoch = s.epoch := rfl
@[simp] theorem State.pendG_upsets (s : State) (n : BitVec 4) : (s.pendG n).upsets = s.upsets := rfl
@[simp] theorem State.pendG_agenda (s : State) (n : BitVec 4) : (s.pendG n).agenda = s.agenda := rfl
@[simp] theorem State.pendG_carried (s : State) (n : BitVec 4) : (s.pendG n).carried = s.carried := rfl
@[simp] theorem State.pendG_linkUsed (s : State) (n : BitVec 4) : (s.pendG n).linkUsed = s.linkUsed := rfl
@[simp] theorem State.pendG_marked (s : State) (n : BitVec 4) : (s.pendG n).marked = s.marked := rfl
@[simp] theorem State.pendG_nodes (s : State) (n : BitVec 4) : (s.pendG n).nodes = s.nodes := rfl
@[simp] theorem State.pendG_watches (s : State) (n : BitVec 4) : (s.pendG n).watches = s.watches := rfl
@[simp] theorem State.pendG_changes (s : State) (n : BitVec 4) : (s.pendG n).changes = s.changes := rfl
@[simp] theorem State.pendG_sliceGrants (s : State) (n : BitVec 4) : (s.pendG n).sliceGrants = s.sliceGrants := rfl
@[simp] theorem State.pendG_sliceOut (s : State) (n : BitVec 4) : (s.pendG n).sliceOut = s.sliceOut := rfl
@[simp] theorem State.pendG_frame (s : State) (n : BitVec 4) : (s.pendG n).frame = s.frame := rfl
@[simp] theorem State.pendG_quotas (s : State) (n : BitVec 4) : (s.pendG n).quotas = s.quotas := rfl
@[simp] theorem State.pendG_trees (s : State) (n : BitVec 4) : (s.pendG n).trees = s.trees := rfl
@[simp] theorem State.pendG_residuals (s : State) (n : BitVec 4) : (s.pendG n).residuals = s.residuals := rfl
@[simp] theorem State.pendG_ports (s : State) (n : BitVec 4) : (s.pendG n).ports = s.ports := rfl
@[simp] theorem State.pendG_recorders (s : State) (n : BitVec 4) : (s.pendG n).recorders = s.recorders := rfl
@[simp] theorem State.pendG_sliceBanks (s : State) (n : BitVec 4) : (s.pendG n).sliceBanks = s.sliceBanks := rfl
@[simp] theorem State.pendG_stackBanks (s : State) (n : BitVec 4) : (s.pendG n).stackBanks = s.stackBanks := rfl
@[simp] theorem State.pendG_sliceRet (s : State) (n : BitVec 4) : (s.pendG n).sliceRet = s.sliceRet := rfl
@[simp] theorem State.pendG_sliceLost (s : State) (n : BitVec 4) : (s.pendG n).sliceLost = s.sliceLost := rfl
@[simp] theorem State.pendG_twins (s : State) (n : BitVec 4) : (s.pendG n).twins = s.twins := rfl
@[simp] theorem State.pendG_parts (s : State) (n : BitVec 4) : (s.pendG n).parts = s.parts := rfl
@[simp] theorem State.pendG_heldNotices (s : State) (n : BitVec 4) : (s.pendG n).heldNotices = s.heldNotices := rfl
@[simp] theorem State.pendG_host (s : State) (n : BitVec 4) : (s.pendG n).host = s.host := rfl
@[simp] theorem State.pendG_sup (s : State) (n : BitVec 4) : (s.pendG n).sup = s.sup := rfl
@[simp] theorem State.modCluster_clock (s : State) (n : Nat) (f : Cluster → Cluster) : (s.modCluster n f).clock = s.clock := rfl
@[simp] theorem State.modCluster_cur (s : State) (n : Nat) (f : Cluster → Cluster) : (s.modCluster n f).cur = s.cur := rfl
@[simp] theorem State.modCluster_nextTag (s : State) (n : Nat) (f : Cluster → Cluster) : (s.modCluster n f).nextTag = s.nextTag := rfl
@[simp] theorem State.modCluster_cores (s : State) (n : Nat) (f : Cluster → Cluster) : (s.modCluster n f).cores = s.cores := rfl
@[simp] theorem State.modCluster_ctx (s : State) (n : Nat) (f : Cluster → Cluster) : (s.modCluster n f).ctx = s.ctx := rfl
@[simp] theorem State.modCluster_mem (s : State) (n : Nat) (f : Cluster → Cluster) : (s.modCluster n f).mem = s.mem := rfl
@[simp] theorem State.modCluster_ipt (s : State) (n : Nat) (f : Cluster → Cluster) : (s.modCluster n f).ipt = s.ipt := rfl
@[simp] theorem State.modCluster_disabled (s : State) (n : Nat) (f : Cluster → Cluster) : (s.modCluster n f).disabled = s.disabled := rfl
@[simp] theorem State.modCluster_epoch (s : State) (n : Nat) (f : Cluster → Cluster) : (s.modCluster n f).epoch = s.epoch := rfl
@[simp] theorem State.modCluster_upsets (s : State) (n : Nat) (f : Cluster → Cluster) : (s.modCluster n f).upsets = s.upsets := rfl
@[simp] theorem State.modCluster_agenda (s : State) (n : Nat) (f : Cluster → Cluster) : (s.modCluster n f).agenda = s.agenda := rfl
@[simp] theorem State.modCluster_carried (s : State) (n : Nat) (f : Cluster → Cluster) : (s.modCluster n f).carried = s.carried := rfl
@[simp] theorem State.modCluster_linkUsed (s : State) (n : Nat) (f : Cluster → Cluster) : (s.modCluster n f).linkUsed = s.linkUsed := rfl
@[simp] theorem State.modCluster_marked (s : State) (n : Nat) (f : Cluster → Cluster) : (s.modCluster n f).marked = s.marked := rfl
@[simp] theorem State.modCluster_nodes (s : State) (n : Nat) (f : Cluster → Cluster) : (s.modCluster n f).nodes = s.nodes := rfl
@[simp] theorem State.modCluster_watches (s : State) (n : Nat) (f : Cluster → Cluster) : (s.modCluster n f).watches = s.watches := rfl
@[simp] theorem State.modCluster_changes (s : State) (n : Nat) (f : Cluster → Cluster) : (s.modCluster n f).changes = s.changes := rfl
@[simp] theorem State.modCluster_sliceGrants (s : State) (n : Nat) (f : Cluster → Cluster) : (s.modCluster n f).sliceGrants = s.sliceGrants := rfl
@[simp] theorem State.modCluster_sliceOut (s : State) (n : Nat) (f : Cluster → Cluster) : (s.modCluster n f).sliceOut = s.sliceOut := rfl
@[simp] theorem State.modCluster_frame (s : State) (n : Nat) (f : Cluster → Cluster) : (s.modCluster n f).frame = s.frame := rfl
@[simp] theorem State.modCluster_quotas (s : State) (n : Nat) (f : Cluster → Cluster) : (s.modCluster n f).quotas = s.quotas := rfl
@[simp] theorem State.modCluster_trees (s : State) (n : Nat) (f : Cluster → Cluster) : (s.modCluster n f).trees = s.trees := rfl
@[simp] theorem State.modCluster_residuals (s : State) (n : Nat) (f : Cluster → Cluster) : (s.modCluster n f).residuals = s.residuals := rfl
@[simp] theorem State.modCluster_ports (s : State) (n : Nat) (f : Cluster → Cluster) : (s.modCluster n f).ports = s.ports := rfl
@[simp] theorem State.modCluster_recorders (s : State) (n : Nat) (f : Cluster → Cluster) : (s.modCluster n f).recorders = s.recorders := rfl
@[simp] theorem State.modCluster_sliceBanks (s : State) (n : Nat) (f : Cluster → Cluster) : (s.modCluster n f).sliceBanks = s.sliceBanks := rfl
@[simp] theorem State.modCluster_stackBanks (s : State) (n : Nat) (f : Cluster → Cluster) : (s.modCluster n f).stackBanks = s.stackBanks := rfl
@[simp] theorem State.modCluster_sliceRet (s : State) (n : Nat) (f : Cluster → Cluster) : (s.modCluster n f).sliceRet = s.sliceRet := rfl
@[simp] theorem State.modCluster_sliceLost (s : State) (n : Nat) (f : Cluster → Cluster) : (s.modCluster n f).sliceLost = s.sliceLost := rfl
@[simp] theorem State.modCluster_twins (s : State) (n : Nat) (f : Cluster → Cluster) : (s.modCluster n f).twins = s.twins := rfl
@[simp] theorem State.modCluster_parts (s : State) (n : Nat) (f : Cluster → Cluster) : (s.modCluster n f).parts = s.parts := rfl
@[simp] theorem State.modCluster_heldNotices (s : State) (n : Nat) (f : Cluster → Cluster) : (s.modCluster n f).heldNotices = s.heldNotices := rfl
@[simp] theorem State.modCluster_host (s : State) (n : Nat) (f : Cluster → Cluster) : (s.modCluster n f).host = s.host := rfl
@[simp] theorem State.modCluster_sup (s : State) (n : Nat) (f : Cluster → Cluster) : (s.modCluster n f).sup = s.sup := rfl
@[simp] theorem State.push_clock (s : State) (e : Instr) : (s.push e).clock = s.clock := rfl
@[simp] theorem State.push_cur (s : State) (e : Instr) : (s.push e).cur = s.cur := rfl
@[simp] theorem State.push_nextTag (s : State) (e : Instr) : (s.push e).nextTag = s.nextTag := rfl
@[simp] theorem State.push_cores (s : State) (e : Instr) : (s.push e).cores = s.cores := rfl
@[simp] theorem State.push_clusters (s : State) (e : Instr) : (s.push e).clusters = s.clusters := rfl
@[simp] theorem State.push_ctx (s : State) (e : Instr) : (s.push e).ctx = s.ctx := rfl
@[simp] theorem State.push_mem (s : State) (e : Instr) : (s.push e).mem = s.mem := rfl
@[simp] theorem State.push_ipt (s : State) (e : Instr) : (s.push e).ipt = s.ipt := rfl
@[simp] theorem State.push_disabled (s : State) (e : Instr) : (s.push e).disabled = s.disabled := rfl
@[simp] theorem State.push_epoch (s : State) (e : Instr) : (s.push e).epoch = s.epoch := rfl
@[simp] theorem State.push_upsets (s : State) (e : Instr) : (s.push e).upsets = s.upsets := rfl
@[simp] theorem State.push_carried (s : State) (e : Instr) : (s.push e).carried = s.carried := rfl
@[simp] theorem State.push_linkUsed (s : State) (e : Instr) : (s.push e).linkUsed = s.linkUsed := rfl
@[simp] theorem State.push_marked (s : State) (e : Instr) : (s.push e).marked = s.marked := rfl
@[simp] theorem State.push_nodes (s : State) (e : Instr) : (s.push e).nodes = s.nodes := rfl
@[simp] theorem State.push_watches (s : State) (e : Instr) : (s.push e).watches = s.watches := rfl
@[simp] theorem State.push_changes (s : State) (e : Instr) : (s.push e).changes = s.changes := rfl
@[simp] theorem State.push_sliceGrants (s : State) (e : Instr) : (s.push e).sliceGrants = s.sliceGrants := rfl
@[simp] theorem State.push_sliceOut (s : State) (e : Instr) : (s.push e).sliceOut = s.sliceOut := rfl
@[simp] theorem State.push_frame (s : State) (e : Instr) : (s.push e).frame = s.frame := rfl
@[simp] theorem State.push_trees (s : State) (e : Instr) : (s.push e).trees = s.trees := rfl
@[simp] theorem State.push_residuals (s : State) (e : Instr) : (s.push e).residuals = s.residuals := rfl
@[simp] theorem State.push_ports (s : State) (e : Instr) : (s.push e).ports = s.ports := rfl
@[simp] theorem State.push_recorders (s : State) (e : Instr) : (s.push e).recorders = s.recorders := rfl
@[simp] theorem State.push_sliceBanks (s : State) (e : Instr) : (s.push e).sliceBanks = s.sliceBanks := rfl
@[simp] theorem State.push_stackBanks (s : State) (e : Instr) : (s.push e).stackBanks = s.stackBanks := rfl
@[simp] theorem State.push_sliceRet (s : State) (e : Instr) : (s.push e).sliceRet = s.sliceRet := rfl
@[simp] theorem State.push_sliceLost (s : State) (e : Instr) : (s.push e).sliceLost = s.sliceLost := rfl
@[simp] theorem State.push_twins (s : State) (e : Instr) : (s.push e).twins = s.twins := rfl
@[simp] theorem State.push_parts (s : State) (e : Instr) : (s.push e).parts = s.parts := rfl
@[simp] theorem State.push_heldNotices (s : State) (e : Instr) : (s.push e).heldNotices = s.heldNotices := rfl
@[simp] theorem State.push_host (s : State) (e : Instr) : (s.push e).host = s.host := rfl
@[simp] theorem State.push_sup (s : State) (e : Instr) : (s.push e).sup = s.sup := rfl
@[simp] theorem State.fresh_clock (s : State)  : (s.fresh).clock = s.clock := rfl
@[simp] theorem State.fresh_cur (s : State)  : (s.fresh).cur = s.cur := rfl
@[simp] theorem State.fresh_cores (s : State)  : (s.fresh).cores = s.cores := rfl
@[simp] theorem State.fresh_clusters (s : State)  : (s.fresh).clusters = s.clusters := rfl
@[simp] theorem State.fresh_ctx (s : State)  : (s.fresh).ctx = s.ctx := rfl
@[simp] theorem State.fresh_mem (s : State)  : (s.fresh).mem = s.mem := rfl
@[simp] theorem State.fresh_ipt (s : State)  : (s.fresh).ipt = s.ipt := rfl
@[simp] theorem State.fresh_disabled (s : State)  : (s.fresh).disabled = s.disabled := rfl
@[simp] theorem State.fresh_epoch (s : State)  : (s.fresh).epoch = s.epoch := rfl
@[simp] theorem State.fresh_upsets (s : State)  : (s.fresh).upsets = s.upsets := rfl
@[simp] theorem State.fresh_agenda (s : State)  : (s.fresh).agenda = s.agenda := rfl
@[simp] theorem State.fresh_carried (s : State)  : (s.fresh).carried = s.carried := rfl
@[simp] theorem State.fresh_linkUsed (s : State)  : (s.fresh).linkUsed = s.linkUsed := rfl
@[simp] theorem State.fresh_marked (s : State)  : (s.fresh).marked = s.marked := rfl
@[simp] theorem State.fresh_nodes (s : State)  : (s.fresh).nodes = s.nodes := rfl
@[simp] theorem State.fresh_watches (s : State)  : (s.fresh).watches = s.watches := rfl
@[simp] theorem State.fresh_changes (s : State)  : (s.fresh).changes = s.changes := rfl
@[simp] theorem State.fresh_sliceGrants (s : State)  : (s.fresh).sliceGrants = s.sliceGrants := rfl
@[simp] theorem State.fresh_sliceOut (s : State)  : (s.fresh).sliceOut = s.sliceOut := rfl
@[simp] theorem State.fresh_frame (s : State)  : (s.fresh).frame = s.frame := rfl
@[simp] theorem State.fresh_quotas (s : State)  : (s.fresh).quotas = s.quotas := rfl
@[simp] theorem State.fresh_trees (s : State)  : (s.fresh).trees = s.trees := rfl
@[simp] theorem State.fresh_residuals (s : State)  : (s.fresh).residuals = s.residuals := rfl
@[simp] theorem State.fresh_ports (s : State)  : (s.fresh).ports = s.ports := rfl
@[simp] theorem State.fresh_recorders (s : State)  : (s.fresh).recorders = s.recorders := rfl
@[simp] theorem State.fresh_sliceBanks (s : State)  : (s.fresh).sliceBanks = s.sliceBanks := rfl
@[simp] theorem State.fresh_stackBanks (s : State)  : (s.fresh).stackBanks = s.stackBanks := rfl
@[simp] theorem State.fresh_sliceRet (s : State)  : (s.fresh).sliceRet = s.sliceRet := rfl
@[simp] theorem State.fresh_sliceLost (s : State)  : (s.fresh).sliceLost = s.sliceLost := rfl
@[simp] theorem State.fresh_twins (s : State)  : (s.fresh).twins = s.twins := rfl
@[simp] theorem State.fresh_parts (s : State)  : (s.fresh).parts = s.parts := rfl
@[simp] theorem State.fresh_heldNotices (s : State)  : (s.fresh).heldNotices = s.heldNotices := rfl
@[simp] theorem State.fresh_host (s : State)  : (s.fresh).host = s.host := rfl
@[simp] theorem State.fresh_sup (s : State)  : (s.fresh).sup = s.sup := rfl
@[simp] theorem State.tell_clock (s : State) (a b : Nat) (w : Word) : (s.tell a b w).clock = s.clock := rfl
@[simp] theorem State.tell_cur (s : State) (a b : Nat) (w : Word) : (s.tell a b w).cur = s.cur := rfl
@[simp] theorem State.tell_nextTag (s : State) (a b : Nat) (w : Word) : (s.tell a b w).nextTag = s.nextTag := rfl
@[simp] theorem State.tell_cores (s : State) (a b : Nat) (w : Word) : (s.tell a b w).cores = s.cores := rfl
@[simp] theorem State.tell_clusters (s : State) (a b : Nat) (w : Word) : (s.tell a b w).clusters = s.clusters := rfl
@[simp] theorem State.tell_ctx (s : State) (a b : Nat) (w : Word) : (s.tell a b w).ctx = s.ctx := rfl
@[simp] theorem State.tell_mem (s : State) (a b : Nat) (w : Word) : (s.tell a b w).mem = s.mem := rfl
@[simp] theorem State.tell_ipt (s : State) (a b : Nat) (w : Word) : (s.tell a b w).ipt = s.ipt := rfl
@[simp] theorem State.tell_disabled (s : State) (a b : Nat) (w : Word) : (s.tell a b w).disabled = s.disabled := rfl
@[simp] theorem State.tell_epoch (s : State) (a b : Nat) (w : Word) : (s.tell a b w).epoch = s.epoch := rfl
@[simp] theorem State.tell_upsets (s : State) (a b : Nat) (w : Word) : (s.tell a b w).upsets = s.upsets := rfl
@[simp] theorem State.tell_agenda (s : State) (a b : Nat) (w : Word) : (s.tell a b w).agenda = s.agenda := rfl
@[simp] theorem State.tell_carried (s : State) (a b : Nat) (w : Word) : (s.tell a b w).carried = s.carried := rfl
@[simp] theorem State.tell_linkUsed (s : State) (a b : Nat) (w : Word) : (s.tell a b w).linkUsed = s.linkUsed := rfl
@[simp] theorem State.tell_marked (s : State) (a b : Nat) (w : Word) : (s.tell a b w).marked = s.marked := rfl
@[simp] theorem State.tell_nodes (s : State) (a b : Nat) (w : Word) : (s.tell a b w).nodes = s.nodes := rfl
@[simp] theorem State.tell_watches (s : State) (a b : Nat) (w : Word) : (s.tell a b w).watches = s.watches := rfl
@[simp] theorem State.tell_changes (s : State) (a b : Nat) (w : Word) : (s.tell a b w).changes = s.changes := rfl
@[simp] theorem State.tell_sliceGrants (s : State) (a b : Nat) (w : Word) : (s.tell a b w).sliceGrants = s.sliceGrants := rfl
@[simp] theorem State.tell_sliceOut (s : State) (a b : Nat) (w : Word) : (s.tell a b w).sliceOut = s.sliceOut := rfl
@[simp] theorem State.tell_frame (s : State) (a b : Nat) (w : Word) : (s.tell a b w).frame = s.frame := rfl
@[simp] theorem State.tell_quotas (s : State) (a b : Nat) (w : Word) : (s.tell a b w).quotas = s.quotas := rfl
@[simp] theorem State.tell_trees (s : State) (a b : Nat) (w : Word) : (s.tell a b w).trees = s.trees := rfl
@[simp] theorem State.tell_residuals (s : State) (a b : Nat) (w : Word) : (s.tell a b w).residuals = s.residuals := rfl
@[simp] theorem State.tell_ports (s : State) (a b : Nat) (w : Word) : (s.tell a b w).ports = s.ports := rfl
@[simp] theorem State.tell_recorders (s : State) (a b : Nat) (w : Word) : (s.tell a b w).recorders = s.recorders := rfl
@[simp] theorem State.tell_sliceBanks (s : State) (a b : Nat) (w : Word) : (s.tell a b w).sliceBanks = s.sliceBanks := rfl
@[simp] theorem State.tell_stackBanks (s : State) (a b : Nat) (w : Word) : (s.tell a b w).stackBanks = s.stackBanks := rfl
@[simp] theorem State.tell_sliceRet (s : State) (a b : Nat) (w : Word) : (s.tell a b w).sliceRet = s.sliceRet := rfl
@[simp] theorem State.tell_sliceLost (s : State) (a b : Nat) (w : Word) : (s.tell a b w).sliceLost = s.sliceLost := rfl
@[simp] theorem State.tell_twins (s : State) (a b : Nat) (w : Word) : (s.tell a b w).twins = s.twins := rfl
@[simp] theorem State.tell_parts (s : State) (a b : Nat) (w : Word) : (s.tell a b w).parts = s.parts := rfl
@[simp] theorem State.tell_heldNotices (s : State) (a b : Nat) (w : Word) : (s.tell a b w).heldNotices = s.heldNotices := rfl
@[simp] theorem State.tell_host (s : State) (a b : Nat) (w : Word) : (s.tell a b w).host = s.host := rfl
@[simp] theorem State.record_clock (s : State) (a b c d : Nat) (ws : List Word) : (s.record a b c d ws).clock = s.clock := rfl
@[simp] theorem State.record_cur (s : State) (a b c d : Nat) (ws : List Word) : (s.record a b c d ws).cur = s.cur := rfl
@[simp] theorem State.record_nextTag (s : State) (a b c d : Nat) (ws : List Word) : (s.record a b c d ws).nextTag = s.nextTag := rfl
@[simp] theorem State.record_cores (s : State) (a b c d : Nat) (ws : List Word) : (s.record a b c d ws).cores = s.cores := rfl
@[simp] theorem State.record_clusters (s : State) (a b c d : Nat) (ws : List Word) : (s.record a b c d ws).clusters = s.clusters := rfl
@[simp] theorem State.record_ctx (s : State) (a b c d : Nat) (ws : List Word) : (s.record a b c d ws).ctx = s.ctx := rfl
@[simp] theorem State.record_mem (s : State) (a b c d : Nat) (ws : List Word) : (s.record a b c d ws).mem = s.mem := rfl
@[simp] theorem State.record_ipt (s : State) (a b c d : Nat) (ws : List Word) : (s.record a b c d ws).ipt = s.ipt := rfl
@[simp] theorem State.record_disabled (s : State) (a b c d : Nat) (ws : List Word) : (s.record a b c d ws).disabled = s.disabled := rfl
@[simp] theorem State.record_epoch (s : State) (a b c d : Nat) (ws : List Word) : (s.record a b c d ws).epoch = s.epoch := rfl
@[simp] theorem State.record_upsets (s : State) (a b c d : Nat) (ws : List Word) : (s.record a b c d ws).upsets = s.upsets := rfl
@[simp] theorem State.record_agenda (s : State) (a b c d : Nat) (ws : List Word) : (s.record a b c d ws).agenda = s.agenda := rfl
@[simp] theorem State.record_carried (s : State) (a b c d : Nat) (ws : List Word) : (s.record a b c d ws).carried = s.carried := rfl
@[simp] theorem State.record_linkUsed (s : State) (a b c d : Nat) (ws : List Word) : (s.record a b c d ws).linkUsed = s.linkUsed := rfl
@[simp] theorem State.record_marked (s : State) (a b c d : Nat) (ws : List Word) : (s.record a b c d ws).marked = s.marked := rfl
@[simp] theorem State.record_nodes (s : State) (a b c d : Nat) (ws : List Word) : (s.record a b c d ws).nodes = s.nodes := rfl
@[simp] theorem State.record_watches (s : State) (a b c d : Nat) (ws : List Word) : (s.record a b c d ws).watches = s.watches := rfl
@[simp] theorem State.record_changes (s : State) (a b c d : Nat) (ws : List Word) : (s.record a b c d ws).changes = s.changes := rfl
@[simp] theorem State.record_sliceGrants (s : State) (a b c d : Nat) (ws : List Word) : (s.record a b c d ws).sliceGrants = s.sliceGrants := rfl
@[simp] theorem State.record_sliceOut (s : State) (a b c d : Nat) (ws : List Word) : (s.record a b c d ws).sliceOut = s.sliceOut := rfl
@[simp] theorem State.record_frame (s : State) (a b c d : Nat) (ws : List Word) : (s.record a b c d ws).frame = s.frame := rfl
@[simp] theorem State.record_quotas (s : State) (a b c d : Nat) (ws : List Word) : (s.record a b c d ws).quotas = s.quotas := rfl
@[simp] theorem State.record_trees (s : State) (a b c d : Nat) (ws : List Word) : (s.record a b c d ws).trees = s.trees := rfl
@[simp] theorem State.record_residuals (s : State) (a b c d : Nat) (ws : List Word) : (s.record a b c d ws).residuals = s.residuals := rfl
@[simp] theorem State.record_ports (s : State) (a b c d : Nat) (ws : List Word) : (s.record a b c d ws).ports = s.ports := rfl
@[simp] theorem State.record_sliceBanks (s : State) (a b c d : Nat) (ws : List Word) : (s.record a b c d ws).sliceBanks = s.sliceBanks := rfl
@[simp] theorem State.record_stackBanks (s : State) (a b c d : Nat) (ws : List Word) : (s.record a b c d ws).stackBanks = s.stackBanks := rfl
@[simp] theorem State.record_sliceRet (s : State) (a b c d : Nat) (ws : List Word) : (s.record a b c d ws).sliceRet = s.sliceRet := rfl
@[simp] theorem State.record_sliceLost (s : State) (a b c d : Nat) (ws : List Word) : (s.record a b c d ws).sliceLost = s.sliceLost := rfl
@[simp] theorem State.record_twins (s : State) (a b c d : Nat) (ws : List Word) : (s.record a b c d ws).twins = s.twins := rfl
@[simp] theorem State.record_parts (s : State) (a b c d : Nat) (ws : List Word) : (s.record a b c d ws).parts = s.parts := rfl
@[simp] theorem State.record_heldNotices (s : State) (a b c d : Nat) (ws : List Word) : (s.record a b c d ws).heldNotices = s.heldNotices := rfl
@[simp] theorem State.record_host (s : State) (a b c d : Nat) (ws : List Word) : (s.record a b c d ws).host = s.host := rfl
@[simp] theorem State.record_sup (s : State) (a b c d : Nat) (ws : List Word) : (s.record a b c d ws).sup = s.sup := rfl
@[simp] theorem State.recordCore_clock (s : State) (c n : Nat) (ws : List Word) : (s.recordCore c n ws).clock = s.clock := by unfold State.recordCore; split <;> rfl
@[simp] theorem State.recordCore_cur (s : State) (c n : Nat) (ws : List Word) : (s.recordCore c n ws).cur = s.cur := by unfold State.recordCore; split <;> rfl
@[simp] theorem State.recordCore_nextTag (s : State) (c n : Nat) (ws : List Word) : (s.recordCore c n ws).nextTag = s.nextTag := by unfold State.recordCore; split <;> rfl
@[simp] theorem State.recordCore_cores (s : State) (c n : Nat) (ws : List Word) : (s.recordCore c n ws).cores = s.cores := by unfold State.recordCore; split <;> rfl
@[simp] theorem State.recordCore_clusters (s : State) (c n : Nat) (ws : List Word) : (s.recordCore c n ws).clusters = s.clusters := by unfold State.recordCore; split <;> rfl
@[simp] theorem State.recordCore_ctx (s : State) (c n : Nat) (ws : List Word) : (s.recordCore c n ws).ctx = s.ctx := by unfold State.recordCore; split <;> rfl
@[simp] theorem State.recordCore_mem (s : State) (c n : Nat) (ws : List Word) : (s.recordCore c n ws).mem = s.mem := by unfold State.recordCore; split <;> rfl
@[simp] theorem State.recordCore_ipt (s : State) (c n : Nat) (ws : List Word) : (s.recordCore c n ws).ipt = s.ipt := by unfold State.recordCore; split <;> rfl
@[simp] theorem State.recordCore_disabled (s : State) (c n : Nat) (ws : List Word) : (s.recordCore c n ws).disabled = s.disabled := by unfold State.recordCore; split <;> rfl
@[simp] theorem State.recordCore_epoch (s : State) (c n : Nat) (ws : List Word) : (s.recordCore c n ws).epoch = s.epoch := by unfold State.recordCore; split <;> rfl
@[simp] theorem State.recordCore_upsets (s : State) (c n : Nat) (ws : List Word) : (s.recordCore c n ws).upsets = s.upsets := by unfold State.recordCore; split <;> rfl
@[simp] theorem State.recordCore_agenda (s : State) (c n : Nat) (ws : List Word) : (s.recordCore c n ws).agenda = s.agenda := by unfold State.recordCore; split <;> rfl
@[simp] theorem State.recordCore_carried (s : State) (c n : Nat) (ws : List Word) : (s.recordCore c n ws).carried = s.carried := by unfold State.recordCore; split <;> rfl
@[simp] theorem State.recordCore_linkUsed (s : State) (c n : Nat) (ws : List Word) : (s.recordCore c n ws).linkUsed = s.linkUsed := by unfold State.recordCore; split <;> rfl
@[simp] theorem State.recordCore_marked (s : State) (c n : Nat) (ws : List Word) : (s.recordCore c n ws).marked = s.marked := by unfold State.recordCore; split <;> rfl
@[simp] theorem State.recordCore_nodes (s : State) (c n : Nat) (ws : List Word) : (s.recordCore c n ws).nodes = s.nodes := by unfold State.recordCore; split <;> rfl
@[simp] theorem State.recordCore_watches (s : State) (c n : Nat) (ws : List Word) : (s.recordCore c n ws).watches = s.watches := by unfold State.recordCore; split <;> rfl
@[simp] theorem State.recordCore_changes (s : State) (c n : Nat) (ws : List Word) : (s.recordCore c n ws).changes = s.changes := by unfold State.recordCore; split <;> rfl
@[simp] theorem State.recordCore_sliceGrants (s : State) (c n : Nat) (ws : List Word) : (s.recordCore c n ws).sliceGrants = s.sliceGrants := by unfold State.recordCore; split <;> rfl
@[simp] theorem State.recordCore_sliceOut (s : State) (c n : Nat) (ws : List Word) : (s.recordCore c n ws).sliceOut = s.sliceOut := by unfold State.recordCore; split <;> rfl
@[simp] theorem State.recordCore_frame (s : State) (c n : Nat) (ws : List Word) : (s.recordCore c n ws).frame = s.frame := by unfold State.recordCore; split <;> rfl
@[simp] theorem State.recordCore_quotas (s : State) (c n : Nat) (ws : List Word) : (s.recordCore c n ws).quotas = s.quotas := by unfold State.recordCore; split <;> rfl
@[simp] theorem State.recordCore_trees (s : State) (c n : Nat) (ws : List Word) : (s.recordCore c n ws).trees = s.trees := by unfold State.recordCore; split <;> rfl
@[simp] theorem State.recordCore_residuals (s : State) (c n : Nat) (ws : List Word) : (s.recordCore c n ws).residuals = s.residuals := by unfold State.recordCore; split <;> rfl
@[simp] theorem State.recordCore_ports (s : State) (c n : Nat) (ws : List Word) : (s.recordCore c n ws).ports = s.ports := by unfold State.recordCore; split <;> rfl
@[simp] theorem State.recordCore_sliceBanks (s : State) (c n : Nat) (ws : List Word) : (s.recordCore c n ws).sliceBanks = s.sliceBanks := by unfold State.recordCore; split <;> rfl
@[simp] theorem State.recordCore_stackBanks (s : State) (c n : Nat) (ws : List Word) : (s.recordCore c n ws).stackBanks = s.stackBanks := by unfold State.recordCore; split <;> rfl
@[simp] theorem State.recordCore_sliceRet (s : State) (c n : Nat) (ws : List Word) : (s.recordCore c n ws).sliceRet = s.sliceRet := by unfold State.recordCore; split <;> rfl
@[simp] theorem State.recordCore_sliceLost (s : State) (c n : Nat) (ws : List Word) : (s.recordCore c n ws).sliceLost = s.sliceLost := by unfold State.recordCore; split <;> rfl
@[simp] theorem State.recordCore_twins (s : State) (c n : Nat) (ws : List Word) : (s.recordCore c n ws).twins = s.twins := by unfold State.recordCore; split <;> rfl
@[simp] theorem State.recordCore_parts (s : State) (c n : Nat) (ws : List Word) : (s.recordCore c n ws).parts = s.parts := by unfold State.recordCore; split <;> rfl
@[simp] theorem State.recordCore_heldNotices (s : State) (c n : Nat) (ws : List Word) : (s.recordCore c n ws).heldNotices = s.heldNotices := by unfold State.recordCore; split <;> rfl
@[simp] theorem State.recordCore_host (s : State) (c n : Nat) (ws : List Word) : (s.recordCore c n ws).host = s.host := by unfold State.recordCore; split <;> rfl
@[simp] theorem State.recordCore_sup (s : State) (c n : Nat) (ws : List Word) : (s.recordCore c n ws).sup = s.sup := by unfold State.recordCore; split <;> rfl
@[simp] theorem State.freeze_clock (s : State) (a b : Nat) : (s.freeze a b).clock = s.clock := rfl
@[simp] theorem State.freeze_cur (s : State) (a b : Nat) : (s.freeze a b).cur = s.cur := rfl
@[simp] theorem State.freeze_nextTag (s : State) (a b : Nat) : (s.freeze a b).nextTag = s.nextTag := rfl
@[simp] theorem State.freeze_cores (s : State) (a b : Nat) : (s.freeze a b).cores = s.cores := rfl
@[simp] theorem State.freeze_clusters (s : State) (a b : Nat) : (s.freeze a b).clusters = s.clusters := rfl
@[simp] theorem State.freeze_ctx (s : State) (a b : Nat) : (s.freeze a b).ctx = s.ctx := rfl
@[simp] theorem State.freeze_mem (s : State) (a b : Nat) : (s.freeze a b).mem = s.mem := rfl
@[simp] theorem State.freeze_ipt (s : State) (a b : Nat) : (s.freeze a b).ipt = s.ipt := rfl
@[simp] theorem State.freeze_disabled (s : State) (a b : Nat) : (s.freeze a b).disabled = s.disabled := rfl
@[simp] theorem State.freeze_epoch (s : State) (a b : Nat) : (s.freeze a b).epoch = s.epoch := rfl
@[simp] theorem State.freeze_upsets (s : State) (a b : Nat) : (s.freeze a b).upsets = s.upsets := rfl
@[simp] theorem State.freeze_agenda (s : State) (a b : Nat) : (s.freeze a b).agenda = s.agenda := rfl
@[simp] theorem State.freeze_carried (s : State) (a b : Nat) : (s.freeze a b).carried = s.carried := rfl
@[simp] theorem State.freeze_linkUsed (s : State) (a b : Nat) : (s.freeze a b).linkUsed = s.linkUsed := rfl
@[simp] theorem State.freeze_marked (s : State) (a b : Nat) : (s.freeze a b).marked = s.marked := rfl
@[simp] theorem State.freeze_nodes (s : State) (a b : Nat) : (s.freeze a b).nodes = s.nodes := rfl
@[simp] theorem State.freeze_watches (s : State) (a b : Nat) : (s.freeze a b).watches = s.watches := rfl
@[simp] theorem State.freeze_changes (s : State) (a b : Nat) : (s.freeze a b).changes = s.changes := rfl
@[simp] theorem State.freeze_sliceGrants (s : State) (a b : Nat) : (s.freeze a b).sliceGrants = s.sliceGrants := rfl
@[simp] theorem State.freeze_sliceOut (s : State) (a b : Nat) : (s.freeze a b).sliceOut = s.sliceOut := rfl
@[simp] theorem State.freeze_frame (s : State) (a b : Nat) : (s.freeze a b).frame = s.frame := rfl
@[simp] theorem State.freeze_quotas (s : State) (a b : Nat) : (s.freeze a b).quotas = s.quotas := rfl
@[simp] theorem State.freeze_trees (s : State) (a b : Nat) : (s.freeze a b).trees = s.trees := rfl
@[simp] theorem State.freeze_residuals (s : State) (a b : Nat) : (s.freeze a b).residuals = s.residuals := rfl
@[simp] theorem State.freeze_ports (s : State) (a b : Nat) : (s.freeze a b).ports = s.ports := rfl
@[simp] theorem State.freeze_sliceBanks (s : State) (a b : Nat) : (s.freeze a b).sliceBanks = s.sliceBanks := rfl
@[simp] theorem State.freeze_stackBanks (s : State) (a b : Nat) : (s.freeze a b).stackBanks = s.stackBanks := rfl
@[simp] theorem State.freeze_sliceRet (s : State) (a b : Nat) : (s.freeze a b).sliceRet = s.sliceRet := rfl
@[simp] theorem State.freeze_sliceLost (s : State) (a b : Nat) : (s.freeze a b).sliceLost = s.sliceLost := rfl
@[simp] theorem State.freeze_twins (s : State) (a b : Nat) : (s.freeze a b).twins = s.twins := rfl
@[simp] theorem State.freeze_parts (s : State) (a b : Nat) : (s.freeze a b).parts = s.parts := rfl
@[simp] theorem State.freeze_heldNotices (s : State) (a b : Nat) : (s.freeze a b).heldNotices = s.heldNotices := rfl
@[simp] theorem State.freeze_host (s : State) (a b : Nat) : (s.freeze a b).host = s.host := rfl
@[simp] theorem State.freeze_sup (s : State) (a b : Nat) : (s.freeze a b).sup = s.sup := rfl
@[simp] theorem State.wake_clock (s : State)  : (s.wake).clock = s.clock := rfl
@[simp] theorem State.wake_cur (s : State)  : (s.wake).cur = s.cur := rfl
@[simp] theorem State.wake_nextTag (s : State)  : (s.wake).nextTag = s.nextTag := rfl
@[simp] theorem State.wake_clusters (s : State)  : (s.wake).clusters = s.clusters := rfl
@[simp] theorem State.wake_ctx (s : State)  : (s.wake).ctx = s.ctx := rfl
@[simp] theorem State.wake_mem (s : State)  : (s.wake).mem = s.mem := rfl
@[simp] theorem State.wake_ipt (s : State)  : (s.wake).ipt = s.ipt := rfl
@[simp] theorem State.wake_disabled (s : State)  : (s.wake).disabled = s.disabled := rfl
@[simp] theorem State.wake_epoch (s : State)  : (s.wake).epoch = s.epoch := rfl
@[simp] theorem State.wake_upsets (s : State)  : (s.wake).upsets = s.upsets := rfl
@[simp] theorem State.wake_agenda (s : State)  : (s.wake).agenda = s.agenda := rfl
@[simp] theorem State.wake_carried (s : State)  : (s.wake).carried = s.carried := rfl
@[simp] theorem State.wake_linkUsed (s : State)  : (s.wake).linkUsed = s.linkUsed := rfl
@[simp] theorem State.wake_marked (s : State)  : (s.wake).marked = s.marked := rfl
@[simp] theorem State.wake_nodes (s : State)  : (s.wake).nodes = s.nodes := rfl
@[simp] theorem State.wake_watches (s : State)  : (s.wake).watches = s.watches := rfl
@[simp] theorem State.wake_changes (s : State)  : (s.wake).changes = s.changes := rfl
@[simp] theorem State.wake_sliceGrants (s : State)  : (s.wake).sliceGrants = s.sliceGrants := rfl
@[simp] theorem State.wake_sliceOut (s : State)  : (s.wake).sliceOut = s.sliceOut := rfl
@[simp] theorem State.wake_frame (s : State)  : (s.wake).frame = s.frame := rfl
@[simp] theorem State.wake_quotas (s : State)  : (s.wake).quotas = s.quotas := rfl
@[simp] theorem State.wake_trees (s : State)  : (s.wake).trees = s.trees := rfl
@[simp] theorem State.wake_residuals (s : State)  : (s.wake).residuals = s.residuals := rfl
@[simp] theorem State.wake_ports (s : State)  : (s.wake).ports = s.ports := rfl
@[simp] theorem State.wake_recorders (s : State)  : (s.wake).recorders = s.recorders := rfl
@[simp] theorem State.wake_sliceBanks (s : State)  : (s.wake).sliceBanks = s.sliceBanks := rfl
@[simp] theorem State.wake_stackBanks (s : State)  : (s.wake).stackBanks = s.stackBanks := rfl
@[simp] theorem State.wake_sliceRet (s : State)  : (s.wake).sliceRet = s.sliceRet := rfl
@[simp] theorem State.wake_sliceLost (s : State)  : (s.wake).sliceLost = s.sliceLost := rfl
@[simp] theorem State.wake_twins (s : State)  : (s.wake).twins = s.twins := rfl
@[simp] theorem State.wake_parts (s : State)  : (s.wake).parts = s.parts := rfl
@[simp] theorem State.wake_heldNotices (s : State)  : (s.wake).heldNotices = s.heldNotices := rfl
@[simp] theorem State.wake_host (s : State)  : (s.wake).host = s.host := rfl
@[simp] theorem State.wake_sup (s : State)  : (s.wake).sup = s.sup := rfl
@[simp] theorem State.retire_clock (s : State) (n : Option (BitVec 32)) : (s.retire n).clock = s.clock := rfl
@[simp] theorem State.retire_cur (s : State) (n : Option (BitVec 32)) : (s.retire n).cur = s.cur := rfl
@[simp] theorem State.retire_nextTag (s : State) (n : Option (BitVec 32)) : (s.retire n).nextTag = s.nextTag := rfl
@[simp] theorem State.retire_clusters (s : State) (n : Option (BitVec 32)) : (s.retire n).clusters = s.clusters := rfl
@[simp] theorem State.retire_ctx (s : State) (n : Option (BitVec 32)) : (s.retire n).ctx = s.ctx := rfl
@[simp] theorem State.retire_mem (s : State) (n : Option (BitVec 32)) : (s.retire n).mem = s.mem := rfl
@[simp] theorem State.retire_ipt (s : State) (n : Option (BitVec 32)) : (s.retire n).ipt = s.ipt := rfl
@[simp] theorem State.retire_disabled (s : State) (n : Option (BitVec 32)) : (s.retire n).disabled = s.disabled := rfl
@[simp] theorem State.retire_epoch (s : State) (n : Option (BitVec 32)) : (s.retire n).epoch = s.epoch := rfl
@[simp] theorem State.retire_upsets (s : State) (n : Option (BitVec 32)) : (s.retire n).upsets = s.upsets := rfl
@[simp] theorem State.retire_agenda (s : State) (n : Option (BitVec 32)) : (s.retire n).agenda = s.agenda := rfl
@[simp] theorem State.retire_carried (s : State) (n : Option (BitVec 32)) : (s.retire n).carried = s.carried := rfl
@[simp] theorem State.retire_linkUsed (s : State) (n : Option (BitVec 32)) : (s.retire n).linkUsed = s.linkUsed := rfl
@[simp] theorem State.retire_marked (s : State) (n : Option (BitVec 32)) : (s.retire n).marked = s.marked := rfl
@[simp] theorem State.retire_nodes (s : State) (n : Option (BitVec 32)) : (s.retire n).nodes = s.nodes := rfl
@[simp] theorem State.retire_watches (s : State) (n : Option (BitVec 32)) : (s.retire n).watches = s.watches := rfl
@[simp] theorem State.retire_changes (s : State) (n : Option (BitVec 32)) : (s.retire n).changes = s.changes := rfl
@[simp] theorem State.retire_sliceGrants (s : State) (n : Option (BitVec 32)) : (s.retire n).sliceGrants = s.sliceGrants := rfl
@[simp] theorem State.retire_sliceOut (s : State) (n : Option (BitVec 32)) : (s.retire n).sliceOut = s.sliceOut := rfl
@[simp] theorem State.retire_frame (s : State) (n : Option (BitVec 32)) : (s.retire n).frame = s.frame := rfl
@[simp] theorem State.retire_quotas (s : State) (n : Option (BitVec 32)) : (s.retire n).quotas = s.quotas := rfl
@[simp] theorem State.retire_trees (s : State) (n : Option (BitVec 32)) : (s.retire n).trees = s.trees := rfl
@[simp] theorem State.retire_residuals (s : State) (n : Option (BitVec 32)) : (s.retire n).residuals = s.residuals := rfl
@[simp] theorem State.retire_ports (s : State) (n : Option (BitVec 32)) : (s.retire n).ports = s.ports := rfl
@[simp] theorem State.retire_recorders (s : State) (n : Option (BitVec 32)) : (s.retire n).recorders = s.recorders := rfl
@[simp] theorem State.retire_sliceBanks (s : State) (n : Option (BitVec 32)) : (s.retire n).sliceBanks = s.sliceBanks := rfl
@[simp] theorem State.retire_stackBanks (s : State) (n : Option (BitVec 32)) : (s.retire n).stackBanks = s.stackBanks := rfl
@[simp] theorem State.retire_sliceRet (s : State) (n : Option (BitVec 32)) : (s.retire n).sliceRet = s.sliceRet := rfl
@[simp] theorem State.retire_sliceLost (s : State) (n : Option (BitVec 32)) : (s.retire n).sliceLost = s.sliceLost := rfl
@[simp] theorem State.retire_twins (s : State) (n : Option (BitVec 32)) : (s.retire n).twins = s.twins := rfl
@[simp] theorem State.retire_parts (s : State) (n : Option (BitVec 32)) : (s.retire n).parts = s.parts := rfl
@[simp] theorem State.retire_heldNotices (s : State) (n : Option (BitVec 32)) : (s.retire n).heldNotices = s.heldNotices := rfl
@[simp] theorem State.retire_host (s : State) (n : Option (BitVec 32)) : (s.retire n).host = s.host := rfl
@[simp] theorem State.retire_sup (s : State) (n : Option (BitVec 32)) : (s.retire n).sup = s.sup := rfl

/-! ### Updates of a core -/

@[simp] theorem Core.setAt_slot (k : Core) (i : Nat) (g : Gang) : (k.setAt i g).slot = k.slot := rfl
@[simp] theorem Core.setAt_lastSlot (k : Core) (i : Nat) (g : Gang) : (k.setAt i g).lastSlot = k.lastSlot := rfl
@[simp] theorem Core.setAt_lastFired (k : Core) (i : Nat) (g : Gang) : (k.setAt i g).lastFired = k.lastFired := rfl
@[simp] theorem Core.setAt_owner (k : Core) (i : Nat) (g : Gang) : (k.setAt i g).owner = k.owner := rfl
@[simp] theorem Core.setAt_priv (k : Core) (i : Nat) (g : Gang) : (k.setAt i g).priv = k.priv := rfl
@[simp] theorem Core.setAt_xpc0 (k : Core) (i : Nat) (g : Gang) : (k.setAt i g).xpc0 = k.xpc0 := rfl
@[simp] theorem Core.setAt_xpc1 (k : Core) (i : Nat) (g : Gang) : (k.setAt i g).xpc1 = k.xpc1 := rfl
@[simp] theorem Core.setAt_xpc2 (k : Core) (i : Nat) (g : Gang) : (k.setAt i g).xpc2 = k.xpc2 := rfl
@[simp] theorem Core.setAt_trapCause (k : Core) (i : Nat) (g : Gang) : (k.setAt i g).trapCause = k.trapCause := rfl
@[simp] theorem Core.setAt_trapInfo (k : Core) (i : Nat) (g : Gang) : (k.setAt i g).trapInfo = k.trapInfo := rfl
@[simp] theorem Core.setAt_trapLanes (k : Core) (i : Nat) (g : Gang) : (k.setAt i g).trapLanes = k.trapLanes := rfl
@[simp] theorem Core.setAt_timer (k : Core) (i : Nat) (g : Gang) : (k.setAt i g).timer = k.timer := rfl
@[simp] theorem Core.setAt_timerAt (k : Core) (i : Nat) (g : Gang) : (k.setAt i g).timerAt = k.timerAt := rfl
@[simp] theorem Core.setAt_trapBank (k : Core) (i : Nat) (g : Gang) : (k.setAt i g).trapBank = k.trapBank := rfl
@[simp] theorem Core.setAt_bankPoison (k : Core) (i : Nat) (g : Gang) : (k.setAt i g).bankPoison = k.bankPoison := rfl
@[simp] theorem Core.setAt_bankPend (k : Core) (i : Nat) (g : Gang) : (k.setAt i g).bankPend = k.bankPend := rfl
@[simp] theorem Core.setAt_logicalId (k : Core) (i : Nat) (g : Gang) : (k.setAt i g).logicalId = k.logicalId := rfl
@[simp] theorem Core.setAt_rank (k : Core) (i : Nat) (g : Gang) : (k.setAt i g).rank = k.rank := rfl
@[simp] theorem Core.setAt_usc (k : Core) (i : Nat) (g : Gang) : (k.setAt i g).usc = k.usc := rfl
@[simp] theorem Core.setAt_mprog (k : Core) (i : Nat) (g : Gang) : (k.setAt i g).mprog = k.mprog := rfl
@[simp] theorem Core.setAt_cycle (k : Core) (i : Nat) (g : Gang) : (k.setAt i g).cycle = k.cycle := rfl
@[simp] theorem Core.setAt_retired (k : Core) (i : Nat) (g : Gang) : (k.setAt i g).retired = k.retired := rfl
@[simp] theorem Core.setAt_causes (k : Core) (i : Nat) (g : Gang) : (k.setAt i g).causes = k.causes := rfl
@[simp] theorem Core.setAt_timerPending (k : Core) (i : Nat) (g : Gang) : (k.setAt i g).timerPending = k.timerPending := rfl
@[simp] theorem Core.setAt_stopped (k : Core) (i : Nat) (g : Gang) : (k.setAt i g).stopped = k.stopped := rfl
@[simp] theorem Core.setAt_answer (k : Core) (i : Nat) (g : Gang) : (k.setAt i g).answer = k.answer := rfl
@[simp] theorem Core.setAt_idle (k : Core) (i : Nat) (g : Gang) : (k.setAt i g).idle = k.idle := rfl
@[simp] theorem Core.setAt_mem (k : Core) (i : Nat) (g : Gang) : (k.setAt i g).mem = k.mem := rfl
@[simp] theorem Core.setAt_full (k : Core) (i : Nat) (g : Gang) : (k.setAt i g).full = k.full := rfl
@[simp] theorem Core.setAt_code (k : Core) (i : Nat) (g : Gang) : (k.setAt i g).code = k.code := rfl
@[simp] theorem Core.setAt_codeBad (k : Core) (i : Nat) (g : Gang) : (k.setAt i g).codeBad = k.codeBad := rfl
@[simp] theorem Core.setAt_placed (k : Core) (i : Nat) (g : Gang) : (k.setAt i g).placed = k.placed := rfl
@[simp] theorem Core.setAt_trapLen (k : Core) (i : Nat) (g : Gang) : (k.setAt i g).trapLen = k.trapLen := rfl
@[simp] theorem Core.setAt_channels (k : Core) (i : Nat) (g : Gang) : (k.setAt i g).channels = k.channels := rfl
@[simp] theorem Core.setAt_arrivals (k : Core) (i : Nat) (g : Gang) : (k.setAt i g).arrivals = k.arrivals := rfl
@[simp] theorem Core.setAt_granted (k : Core) (i : Nat) (g : Gang) : (k.setAt i g).granted = k.granted := rfl
@[simp] theorem Core.setAt_asks (k : Core) (i : Nat) (g : Gang) : (k.setAt i g).asks = k.asks := rfl
@[simp] theorem Core.setAt_draining (k : Core) (i : Nat) (g : Gang) : (k.setAt i g).draining = k.draining := rfl
@[simp] theorem Core.setAt_streams (k : Core) (i : Nat) (g : Gang) : (k.setAt i g).streams = k.streams := rfl
@[simp] theorem Core.setAt_barriers (k : Core) (i : Nat) (g : Gang) : (k.setAt i g).barriers = k.barriers := rfl
@[simp] theorem Core.setAt_tmaps (k : Core) (i : Nat) (g : Gang) : (k.setAt i g).tmaps = k.tmaps := rfl
@[simp] theorem Core.setAt_rings (k : Core) (i : Nat) (g : Gang) : (k.setAt i g).rings = k.rings := rfl
@[simp] theorem Core.setAt_copyQs (k : Core) (i : Nat) (g : Gang) : (k.setAt i g).copyQs = k.copyQs := rfl
@[simp] theorem Core.setAt_matrixQ (k : Core) (i : Nat) (g : Gang) : (k.setAt i g).matrixQ = k.matrixQ := rfl
@[simp] theorem Core.setAt_staging (k : Core) (i : Nat) (g : Gang) : (k.setAt i g).staging = k.staging := rfl
@[simp] theorem Core.setAt_sendReq (k : Core) (i : Nat) (g : Gang) : (k.setAt i g).sendReq = k.sendReq := rfl
@[simp] theorem Core.setAt_sendRep (k : Core) (i : Nat) (g : Gang) : (k.setAt i g).sendRep = k.sendRep := rfl
@[simp] theorem Core.setAt_ready (k : Core) (i : Nat) (g : Gang) : (k.setAt i g).ready = k.ready := rfl
@[simp] theorem Core.setAt_outbox (k : Core) (i : Nat) (g : Gang) : (k.setAt i g).outbox = k.outbox := rfl
@[simp] theorem Core.setAt_records (k : Core) (i : Nat) (g : Gang) : (k.setAt i g).records = k.records := rfl
@[simp] theorem Core.setAt_recordLost (k : Core) (i : Nat) (g : Gang) : (k.setAt i g).recordLost = k.recordLost := rfl
@[simp] theorem Core.setAt_bindings (k : Core) (i : Nat) (g : Gang) : (k.setAt i g).bindings = k.bindings := rfl
@[simp] theorem Core.setAt_counters (k : Core) (i : Nat) (g : Gang) : (k.setAt i g).counters = k.counters := rfl
@[simp] theorem Core.setAt_refusals (k : Core) (i : Nat) (g : Gang) : (k.setAt i g).refusals = k.refusals := rfl
@[simp] theorem Core.setAt_loads (k : Core) (i : Nat) (g : Gang) : (k.setAt i g).loads = k.loads := rfl
@[simp] theorem Core.setAt_forwards (k : Core) (i : Nat) (g : Gang) : (k.setAt i g).forwards = k.forwards := rfl
@[simp] theorem Core.setAt_dir (k : Core) (i : Nat) (g : Gang) : (k.setAt i g).dir = k.dir := rfl
@[simp] theorem Core.setAt_tlb (k : Core) (i : Nat) (g : Gang) : (k.setAt i g).tlb = k.tlb := rfl
@[simp] theorem Core.setAt_frames (k : Core) (i : Nat) (g : Gang) : (k.setAt i g).frames = k.frames := rfl
@[simp] theorem Core.setAt_faults (k : Core) (i : Nat) (g : Gang) : (k.setAt i g).faults = k.faults := rfl
@[simp] theorem Core.setAt_grants (k : Core) (i : Nat) (g : Gang) : (k.setAt i g).grants = k.grants := rfl
@[simp] theorem Core.setAt_rotate (k : Core) (i : Nat) (g : Gang) : (k.setAt i g).rotate = k.rotate := rfl
@[simp] theorem Core.setAt_inject (k : Core) (i : Nat) (g : Gang) : (k.setAt i g).inject = k.inject := rfl
@[simp] theorem Core.setAt_breaks (k : Core) (i : Nat) (g : Gang) : (k.setAt i g).breaks = k.breaks := rfl
@[simp] theorem Core.setAt_watches (k : Core) (i : Nat) (g : Gang) : (k.setAt i g).watches = k.watches := rfl
@[simp] theorem Core.setAt_bank (k : Core) (i : Nat) (g : Gang) : (k.setAt i g).bank = k.bank := rfl
@[simp] theorem Core.setAt_stall (k : Core) (i : Nat) (g : Gang) : (k.setAt i g).stall = k.stall := rfl
@[simp] theorem Core.setAt_barked (k : Core) (i : Nat) (g : Gang) : (k.setAt i g).barked = k.barked := rfl
@[simp] theorem Core.setAt_retention (k : Core) (i : Nat) (g : Gang) : (k.setAt i g).retention = k.retention := rfl
@[simp] theorem Core.setAt_lastAccess (k : Core) (i : Nat) (g : Gang) : (k.setAt i g).lastAccess = k.lastAccess := rfl
@[simp] theorem Core.setAt_pair (k : Core) (i : Nat) (g : Gang) : (k.setAt i g).pair = k.pair := rfl
@[simp] theorem Core.setAt_notices (k : Core) (i : Nat) (g : Gang) : (k.setAt i g).notices = k.notices := rfl
@[simp] theorem Core.setAt_preempting (k : Core) (i : Nat) (g : Gang) : (k.setAt i g).preempting = k.preempting := rfl
@[simp] theorem Core.setAt_member (k : Core) (i : Nat) (g : Gang) : (k.setAt i g).member = k.member := rfl
@[simp] theorem Core.setAt_upsets (k : Core) (i : Nat) (g : Gang) : (k.setAt i g).upsets = k.upsets := rfl
@[simp] theorem Core.setGang_slot (k : Core) (g : Gang) : (k.setGang g).slot = k.slot := rfl
@[simp] theorem Core.setGang_lastSlot (k : Core) (g : Gang) : (k.setGang g).lastSlot = k.lastSlot := rfl
@[simp] theorem Core.setGang_lastFired (k : Core) (g : Gang) : (k.setGang g).lastFired = k.lastFired := rfl
@[simp] theorem Core.setGang_owner (k : Core) (g : Gang) : (k.setGang g).owner = k.owner := rfl
@[simp] theorem Core.setGang_priv (k : Core) (g : Gang) : (k.setGang g).priv = k.priv := rfl
@[simp] theorem Core.setGang_xpc0 (k : Core) (g : Gang) : (k.setGang g).xpc0 = k.xpc0 := rfl
@[simp] theorem Core.setGang_xpc1 (k : Core) (g : Gang) : (k.setGang g).xpc1 = k.xpc1 := rfl
@[simp] theorem Core.setGang_xpc2 (k : Core) (g : Gang) : (k.setGang g).xpc2 = k.xpc2 := rfl
@[simp] theorem Core.setGang_trapCause (k : Core) (g : Gang) : (k.setGang g).trapCause = k.trapCause := rfl
@[simp] theorem Core.setGang_trapInfo (k : Core) (g : Gang) : (k.setGang g).trapInfo = k.trapInfo := rfl
@[simp] theorem Core.setGang_trapLanes (k : Core) (g : Gang) : (k.setGang g).trapLanes = k.trapLanes := rfl
@[simp] theorem Core.setGang_timer (k : Core) (g : Gang) : (k.setGang g).timer = k.timer := rfl
@[simp] theorem Core.setGang_timerAt (k : Core) (g : Gang) : (k.setGang g).timerAt = k.timerAt := rfl
@[simp] theorem Core.setGang_trapBank (k : Core) (g : Gang) : (k.setGang g).trapBank = k.trapBank := rfl
@[simp] theorem Core.setGang_bankPoison (k : Core) (g : Gang) : (k.setGang g).bankPoison = k.bankPoison := rfl
@[simp] theorem Core.setGang_bankPend (k : Core) (g : Gang) : (k.setGang g).bankPend = k.bankPend := rfl
@[simp] theorem Core.setGang_logicalId (k : Core) (g : Gang) : (k.setGang g).logicalId = k.logicalId := rfl
@[simp] theorem Core.setGang_rank (k : Core) (g : Gang) : (k.setGang g).rank = k.rank := rfl
@[simp] theorem Core.setGang_usc (k : Core) (g : Gang) : (k.setGang g).usc = k.usc := rfl
@[simp] theorem Core.setGang_mprog (k : Core) (g : Gang) : (k.setGang g).mprog = k.mprog := rfl
@[simp] theorem Core.setGang_cycle (k : Core) (g : Gang) : (k.setGang g).cycle = k.cycle := rfl
@[simp] theorem Core.setGang_retired (k : Core) (g : Gang) : (k.setGang g).retired = k.retired := rfl
@[simp] theorem Core.setGang_causes (k : Core) (g : Gang) : (k.setGang g).causes = k.causes := rfl
@[simp] theorem Core.setGang_timerPending (k : Core) (g : Gang) : (k.setGang g).timerPending = k.timerPending := rfl
@[simp] theorem Core.setGang_stopped (k : Core) (g : Gang) : (k.setGang g).stopped = k.stopped := rfl
@[simp] theorem Core.setGang_answer (k : Core) (g : Gang) : (k.setGang g).answer = k.answer := rfl
@[simp] theorem Core.setGang_idle (k : Core) (g : Gang) : (k.setGang g).idle = k.idle := rfl
@[simp] theorem Core.setGang_mem (k : Core) (g : Gang) : (k.setGang g).mem = k.mem := rfl
@[simp] theorem Core.setGang_full (k : Core) (g : Gang) : (k.setGang g).full = k.full := rfl
@[simp] theorem Core.setGang_code (k : Core) (g : Gang) : (k.setGang g).code = k.code := rfl
@[simp] theorem Core.setGang_codeBad (k : Core) (g : Gang) : (k.setGang g).codeBad = k.codeBad := rfl
@[simp] theorem Core.setGang_placed (k : Core) (g : Gang) : (k.setGang g).placed = k.placed := rfl
@[simp] theorem Core.setGang_trapLen (k : Core) (g : Gang) : (k.setGang g).trapLen = k.trapLen := rfl
@[simp] theorem Core.setGang_channels (k : Core) (g : Gang) : (k.setGang g).channels = k.channels := rfl
@[simp] theorem Core.setGang_arrivals (k : Core) (g : Gang) : (k.setGang g).arrivals = k.arrivals := rfl
@[simp] theorem Core.setGang_granted (k : Core) (g : Gang) : (k.setGang g).granted = k.granted := rfl
@[simp] theorem Core.setGang_asks (k : Core) (g : Gang) : (k.setGang g).asks = k.asks := rfl
@[simp] theorem Core.setGang_draining (k : Core) (g : Gang) : (k.setGang g).draining = k.draining := rfl
@[simp] theorem Core.setGang_streams (k : Core) (g : Gang) : (k.setGang g).streams = k.streams := rfl
@[simp] theorem Core.setGang_barriers (k : Core) (g : Gang) : (k.setGang g).barriers = k.barriers := rfl
@[simp] theorem Core.setGang_tmaps (k : Core) (g : Gang) : (k.setGang g).tmaps = k.tmaps := rfl
@[simp] theorem Core.setGang_rings (k : Core) (g : Gang) : (k.setGang g).rings = k.rings := rfl
@[simp] theorem Core.setGang_copyQs (k : Core) (g : Gang) : (k.setGang g).copyQs = k.copyQs := rfl
@[simp] theorem Core.setGang_matrixQ (k : Core) (g : Gang) : (k.setGang g).matrixQ = k.matrixQ := rfl
@[simp] theorem Core.setGang_staging (k : Core) (g : Gang) : (k.setGang g).staging = k.staging := rfl
@[simp] theorem Core.setGang_sendReq (k : Core) (g : Gang) : (k.setGang g).sendReq = k.sendReq := rfl
@[simp] theorem Core.setGang_sendRep (k : Core) (g : Gang) : (k.setGang g).sendRep = k.sendRep := rfl
@[simp] theorem Core.setGang_ready (k : Core) (g : Gang) : (k.setGang g).ready = k.ready := rfl
@[simp] theorem Core.setGang_outbox (k : Core) (g : Gang) : (k.setGang g).outbox = k.outbox := rfl
@[simp] theorem Core.setGang_records (k : Core) (g : Gang) : (k.setGang g).records = k.records := rfl
@[simp] theorem Core.setGang_recordLost (k : Core) (g : Gang) : (k.setGang g).recordLost = k.recordLost := rfl
@[simp] theorem Core.setGang_bindings (k : Core) (g : Gang) : (k.setGang g).bindings = k.bindings := rfl
@[simp] theorem Core.setGang_counters (k : Core) (g : Gang) : (k.setGang g).counters = k.counters := rfl
@[simp] theorem Core.setGang_refusals (k : Core) (g : Gang) : (k.setGang g).refusals = k.refusals := rfl
@[simp] theorem Core.setGang_loads (k : Core) (g : Gang) : (k.setGang g).loads = k.loads := rfl
@[simp] theorem Core.setGang_forwards (k : Core) (g : Gang) : (k.setGang g).forwards = k.forwards := rfl
@[simp] theorem Core.setGang_dir (k : Core) (g : Gang) : (k.setGang g).dir = k.dir := rfl
@[simp] theorem Core.setGang_tlb (k : Core) (g : Gang) : (k.setGang g).tlb = k.tlb := rfl
@[simp] theorem Core.setGang_frames (k : Core) (g : Gang) : (k.setGang g).frames = k.frames := rfl
@[simp] theorem Core.setGang_faults (k : Core) (g : Gang) : (k.setGang g).faults = k.faults := rfl
@[simp] theorem Core.setGang_grants (k : Core) (g : Gang) : (k.setGang g).grants = k.grants := rfl
@[simp] theorem Core.setGang_rotate (k : Core) (g : Gang) : (k.setGang g).rotate = k.rotate := rfl
@[simp] theorem Core.setGang_inject (k : Core) (g : Gang) : (k.setGang g).inject = k.inject := rfl
@[simp] theorem Core.setGang_breaks (k : Core) (g : Gang) : (k.setGang g).breaks = k.breaks := rfl
@[simp] theorem Core.setGang_watches (k : Core) (g : Gang) : (k.setGang g).watches = k.watches := rfl
@[simp] theorem Core.setGang_bank (k : Core) (g : Gang) : (k.setGang g).bank = k.bank := rfl
@[simp] theorem Core.setGang_stall (k : Core) (g : Gang) : (k.setGang g).stall = k.stall := rfl
@[simp] theorem Core.setGang_barked (k : Core) (g : Gang) : (k.setGang g).barked = k.barked := rfl
@[simp] theorem Core.setGang_retention (k : Core) (g : Gang) : (k.setGang g).retention = k.retention := rfl
@[simp] theorem Core.setGang_lastAccess (k : Core) (g : Gang) : (k.setGang g).lastAccess = k.lastAccess := rfl
@[simp] theorem Core.setGang_pair (k : Core) (g : Gang) : (k.setGang g).pair = k.pair := rfl
@[simp] theorem Core.setGang_notices (k : Core) (g : Gang) : (k.setGang g).notices = k.notices := rfl
@[simp] theorem Core.setGang_preempting (k : Core) (g : Gang) : (k.setGang g).preempting = k.preempting := rfl
@[simp] theorem Core.setGang_member (k : Core) (g : Gang) : (k.setGang g).member = k.member := rfl
@[simp] theorem Core.setGang_upsets (k : Core) (g : Gang) : (k.setGang g).upsets = k.upsets := rfl
@[simp] theorem Core.modGang_slot (k : Core) (f : Gang → Gang) : (k.modGang f).slot = k.slot := rfl
@[simp] theorem Core.modGang_lastSlot (k : Core) (f : Gang → Gang) : (k.modGang f).lastSlot = k.lastSlot := rfl
@[simp] theorem Core.modGang_lastFired (k : Core) (f : Gang → Gang) : (k.modGang f).lastFired = k.lastFired := rfl
@[simp] theorem Core.modGang_owner (k : Core) (f : Gang → Gang) : (k.modGang f).owner = k.owner := rfl
@[simp] theorem Core.modGang_priv (k : Core) (f : Gang → Gang) : (k.modGang f).priv = k.priv := rfl
@[simp] theorem Core.modGang_xpc0 (k : Core) (f : Gang → Gang) : (k.modGang f).xpc0 = k.xpc0 := rfl
@[simp] theorem Core.modGang_xpc1 (k : Core) (f : Gang → Gang) : (k.modGang f).xpc1 = k.xpc1 := rfl
@[simp] theorem Core.modGang_xpc2 (k : Core) (f : Gang → Gang) : (k.modGang f).xpc2 = k.xpc2 := rfl
@[simp] theorem Core.modGang_trapCause (k : Core) (f : Gang → Gang) : (k.modGang f).trapCause = k.trapCause := rfl
@[simp] theorem Core.modGang_trapInfo (k : Core) (f : Gang → Gang) : (k.modGang f).trapInfo = k.trapInfo := rfl
@[simp] theorem Core.modGang_trapLanes (k : Core) (f : Gang → Gang) : (k.modGang f).trapLanes = k.trapLanes := rfl
@[simp] theorem Core.modGang_timer (k : Core) (f : Gang → Gang) : (k.modGang f).timer = k.timer := rfl
@[simp] theorem Core.modGang_timerAt (k : Core) (f : Gang → Gang) : (k.modGang f).timerAt = k.timerAt := rfl
@[simp] theorem Core.modGang_trapBank (k : Core) (f : Gang → Gang) : (k.modGang f).trapBank = k.trapBank := rfl
@[simp] theorem Core.modGang_bankPoison (k : Core) (f : Gang → Gang) : (k.modGang f).bankPoison = k.bankPoison := rfl
@[simp] theorem Core.modGang_bankPend (k : Core) (f : Gang → Gang) : (k.modGang f).bankPend = k.bankPend := rfl
@[simp] theorem Core.modGang_logicalId (k : Core) (f : Gang → Gang) : (k.modGang f).logicalId = k.logicalId := rfl
@[simp] theorem Core.modGang_rank (k : Core) (f : Gang → Gang) : (k.modGang f).rank = k.rank := rfl
@[simp] theorem Core.modGang_usc (k : Core) (f : Gang → Gang) : (k.modGang f).usc = k.usc := rfl
@[simp] theorem Core.modGang_mprog (k : Core) (f : Gang → Gang) : (k.modGang f).mprog = k.mprog := rfl
@[simp] theorem Core.modGang_cycle (k : Core) (f : Gang → Gang) : (k.modGang f).cycle = k.cycle := rfl
@[simp] theorem Core.modGang_retired (k : Core) (f : Gang → Gang) : (k.modGang f).retired = k.retired := rfl
@[simp] theorem Core.modGang_causes (k : Core) (f : Gang → Gang) : (k.modGang f).causes = k.causes := rfl
@[simp] theorem Core.modGang_timerPending (k : Core) (f : Gang → Gang) : (k.modGang f).timerPending = k.timerPending := rfl
@[simp] theorem Core.modGang_stopped (k : Core) (f : Gang → Gang) : (k.modGang f).stopped = k.stopped := rfl
@[simp] theorem Core.modGang_answer (k : Core) (f : Gang → Gang) : (k.modGang f).answer = k.answer := rfl
@[simp] theorem Core.modGang_idle (k : Core) (f : Gang → Gang) : (k.modGang f).idle = k.idle := rfl
@[simp] theorem Core.modGang_mem (k : Core) (f : Gang → Gang) : (k.modGang f).mem = k.mem := rfl
@[simp] theorem Core.modGang_full (k : Core) (f : Gang → Gang) : (k.modGang f).full = k.full := rfl
@[simp] theorem Core.modGang_code (k : Core) (f : Gang → Gang) : (k.modGang f).code = k.code := rfl
@[simp] theorem Core.modGang_codeBad (k : Core) (f : Gang → Gang) : (k.modGang f).codeBad = k.codeBad := rfl
@[simp] theorem Core.modGang_placed (k : Core) (f : Gang → Gang) : (k.modGang f).placed = k.placed := rfl
@[simp] theorem Core.modGang_trapLen (k : Core) (f : Gang → Gang) : (k.modGang f).trapLen = k.trapLen := rfl
@[simp] theorem Core.modGang_channels (k : Core) (f : Gang → Gang) : (k.modGang f).channels = k.channels := rfl
@[simp] theorem Core.modGang_arrivals (k : Core) (f : Gang → Gang) : (k.modGang f).arrivals = k.arrivals := rfl
@[simp] theorem Core.modGang_granted (k : Core) (f : Gang → Gang) : (k.modGang f).granted = k.granted := rfl
@[simp] theorem Core.modGang_asks (k : Core) (f : Gang → Gang) : (k.modGang f).asks = k.asks := rfl
@[simp] theorem Core.modGang_draining (k : Core) (f : Gang → Gang) : (k.modGang f).draining = k.draining := rfl
@[simp] theorem Core.modGang_streams (k : Core) (f : Gang → Gang) : (k.modGang f).streams = k.streams := rfl
@[simp] theorem Core.modGang_barriers (k : Core) (f : Gang → Gang) : (k.modGang f).barriers = k.barriers := rfl
@[simp] theorem Core.modGang_tmaps (k : Core) (f : Gang → Gang) : (k.modGang f).tmaps = k.tmaps := rfl
@[simp] theorem Core.modGang_rings (k : Core) (f : Gang → Gang) : (k.modGang f).rings = k.rings := rfl
@[simp] theorem Core.modGang_copyQs (k : Core) (f : Gang → Gang) : (k.modGang f).copyQs = k.copyQs := rfl
@[simp] theorem Core.modGang_matrixQ (k : Core) (f : Gang → Gang) : (k.modGang f).matrixQ = k.matrixQ := rfl
@[simp] theorem Core.modGang_staging (k : Core) (f : Gang → Gang) : (k.modGang f).staging = k.staging := rfl
@[simp] theorem Core.modGang_sendReq (k : Core) (f : Gang → Gang) : (k.modGang f).sendReq = k.sendReq := rfl
@[simp] theorem Core.modGang_sendRep (k : Core) (f : Gang → Gang) : (k.modGang f).sendRep = k.sendRep := rfl
@[simp] theorem Core.modGang_ready (k : Core) (f : Gang → Gang) : (k.modGang f).ready = k.ready := rfl
@[simp] theorem Core.modGang_outbox (k : Core) (f : Gang → Gang) : (k.modGang f).outbox = k.outbox := rfl
@[simp] theorem Core.modGang_records (k : Core) (f : Gang → Gang) : (k.modGang f).records = k.records := rfl
@[simp] theorem Core.modGang_recordLost (k : Core) (f : Gang → Gang) : (k.modGang f).recordLost = k.recordLost := rfl
@[simp] theorem Core.modGang_bindings (k : Core) (f : Gang → Gang) : (k.modGang f).bindings = k.bindings := rfl
@[simp] theorem Core.modGang_counters (k : Core) (f : Gang → Gang) : (k.modGang f).counters = k.counters := rfl
@[simp] theorem Core.modGang_refusals (k : Core) (f : Gang → Gang) : (k.modGang f).refusals = k.refusals := rfl
@[simp] theorem Core.modGang_loads (k : Core) (f : Gang → Gang) : (k.modGang f).loads = k.loads := rfl
@[simp] theorem Core.modGang_forwards (k : Core) (f : Gang → Gang) : (k.modGang f).forwards = k.forwards := rfl
@[simp] theorem Core.modGang_dir (k : Core) (f : Gang → Gang) : (k.modGang f).dir = k.dir := rfl
@[simp] theorem Core.modGang_tlb (k : Core) (f : Gang → Gang) : (k.modGang f).tlb = k.tlb := rfl
@[simp] theorem Core.modGang_frames (k : Core) (f : Gang → Gang) : (k.modGang f).frames = k.frames := rfl
@[simp] theorem Core.modGang_faults (k : Core) (f : Gang → Gang) : (k.modGang f).faults = k.faults := rfl
@[simp] theorem Core.modGang_grants (k : Core) (f : Gang → Gang) : (k.modGang f).grants = k.grants := rfl
@[simp] theorem Core.modGang_rotate (k : Core) (f : Gang → Gang) : (k.modGang f).rotate = k.rotate := rfl
@[simp] theorem Core.modGang_inject (k : Core) (f : Gang → Gang) : (k.modGang f).inject = k.inject := rfl
@[simp] theorem Core.modGang_breaks (k : Core) (f : Gang → Gang) : (k.modGang f).breaks = k.breaks := rfl
@[simp] theorem Core.modGang_watches (k : Core) (f : Gang → Gang) : (k.modGang f).watches = k.watches := rfl
@[simp] theorem Core.modGang_bank (k : Core) (f : Gang → Gang) : (k.modGang f).bank = k.bank := rfl
@[simp] theorem Core.modGang_stall (k : Core) (f : Gang → Gang) : (k.modGang f).stall = k.stall := rfl
@[simp] theorem Core.modGang_barked (k : Core) (f : Gang → Gang) : (k.modGang f).barked = k.barked := rfl
@[simp] theorem Core.modGang_retention (k : Core) (f : Gang → Gang) : (k.modGang f).retention = k.retention := rfl
@[simp] theorem Core.modGang_lastAccess (k : Core) (f : Gang → Gang) : (k.modGang f).lastAccess = k.lastAccess := rfl
@[simp] theorem Core.modGang_pair (k : Core) (f : Gang → Gang) : (k.modGang f).pair = k.pair := rfl
@[simp] theorem Core.modGang_notices (k : Core) (f : Gang → Gang) : (k.modGang f).notices = k.notices := rfl
@[simp] theorem Core.modGang_preempting (k : Core) (f : Gang → Gang) : (k.modGang f).preempting = k.preempting := rfl
@[simp] theorem Core.modGang_member (k : Core) (f : Gang → Gang) : (k.modGang f).member = k.member := rfl
@[simp] theorem Core.modGang_upsets (k : Core) (f : Gang → Gang) : (k.modGang f).upsets = k.upsets := rfl
@[simp] theorem Core.wake_slot (k : Core) : k.wake.slot = k.slot := rfl
@[simp] theorem Core.wake_lastSlot (k : Core) : k.wake.lastSlot = k.lastSlot := rfl
@[simp] theorem Core.wake_lastFired (k : Core) : k.wake.lastFired = k.lastFired := rfl
@[simp] theorem Core.wake_owner (k : Core) : k.wake.owner = k.owner := rfl
@[simp] theorem Core.wake_priv (k : Core) : k.wake.priv = k.priv := rfl
@[simp] theorem Core.wake_xpc0 (k : Core) : k.wake.xpc0 = k.xpc0 := rfl
@[simp] theorem Core.wake_xpc1 (k : Core) : k.wake.xpc1 = k.xpc1 := rfl
@[simp] theorem Core.wake_xpc2 (k : Core) : k.wake.xpc2 = k.xpc2 := rfl
@[simp] theorem Core.wake_trapCause (k : Core) : k.wake.trapCause = k.trapCause := rfl
@[simp] theorem Core.wake_trapInfo (k : Core) : k.wake.trapInfo = k.trapInfo := rfl
@[simp] theorem Core.wake_trapLanes (k : Core) : k.wake.trapLanes = k.trapLanes := rfl
@[simp] theorem Core.wake_timer (k : Core) : k.wake.timer = k.timer := rfl
@[simp] theorem Core.wake_timerAt (k : Core) : k.wake.timerAt = k.timerAt := rfl
@[simp] theorem Core.wake_trapBank (k : Core) : k.wake.trapBank = k.trapBank := rfl
@[simp] theorem Core.wake_bankPoison (k : Core) : k.wake.bankPoison = k.bankPoison := rfl
@[simp] theorem Core.wake_bankPend (k : Core) : k.wake.bankPend = k.bankPend := rfl
@[simp] theorem Core.wake_logicalId (k : Core) : k.wake.logicalId = k.logicalId := rfl
@[simp] theorem Core.wake_rank (k : Core) : k.wake.rank = k.rank := rfl
@[simp] theorem Core.wake_usc (k : Core) : k.wake.usc = k.usc := rfl
@[simp] theorem Core.wake_mprog (k : Core) : k.wake.mprog = k.mprog := rfl
@[simp] theorem Core.wake_cycle (k : Core) : k.wake.cycle = k.cycle := rfl
@[simp] theorem Core.wake_retired (k : Core) : k.wake.retired = k.retired := rfl
@[simp] theorem Core.wake_causes (k : Core) : k.wake.causes = k.causes := rfl
@[simp] theorem Core.wake_timerPending (k : Core) : k.wake.timerPending = k.timerPending := rfl
@[simp] theorem Core.wake_stopped (k : Core) : k.wake.stopped = k.stopped := rfl
@[simp] theorem Core.wake_answer (k : Core) : k.wake.answer = k.answer := rfl
@[simp] theorem Core.wake_idle (k : Core) : k.wake.idle = k.idle := rfl
@[simp] theorem Core.wake_mem (k : Core) : k.wake.mem = k.mem := rfl
@[simp] theorem Core.wake_full (k : Core) : k.wake.full = k.full := rfl
@[simp] theorem Core.wake_code (k : Core) : k.wake.code = k.code := rfl
@[simp] theorem Core.wake_codeBad (k : Core) : k.wake.codeBad = k.codeBad := rfl
@[simp] theorem Core.wake_placed (k : Core) : k.wake.placed = k.placed := rfl
@[simp] theorem Core.wake_trapLen (k : Core) : k.wake.trapLen = k.trapLen := rfl
@[simp] theorem Core.wake_channels (k : Core) : k.wake.channels = k.channels := rfl
@[simp] theorem Core.wake_arrivals (k : Core) : k.wake.arrivals = k.arrivals := rfl
@[simp] theorem Core.wake_granted (k : Core) : k.wake.granted = k.granted := rfl
@[simp] theorem Core.wake_asks (k : Core) : k.wake.asks = k.asks := rfl
@[simp] theorem Core.wake_draining (k : Core) : k.wake.draining = k.draining := rfl
@[simp] theorem Core.wake_streams (k : Core) : k.wake.streams = k.streams := rfl
@[simp] theorem Core.wake_barriers (k : Core) : k.wake.barriers = k.barriers := rfl
@[simp] theorem Core.wake_tmaps (k : Core) : k.wake.tmaps = k.tmaps := rfl
@[simp] theorem Core.wake_rings (k : Core) : k.wake.rings = k.rings := rfl
@[simp] theorem Core.wake_copyQs (k : Core) : k.wake.copyQs = k.copyQs := rfl
@[simp] theorem Core.wake_matrixQ (k : Core) : k.wake.matrixQ = k.matrixQ := rfl
@[simp] theorem Core.wake_staging (k : Core) : k.wake.staging = k.staging := rfl
@[simp] theorem Core.wake_sendReq (k : Core) : k.wake.sendReq = k.sendReq := rfl
@[simp] theorem Core.wake_sendRep (k : Core) : k.wake.sendRep = k.sendRep := rfl
@[simp] theorem Core.wake_ready (k : Core) : k.wake.ready = k.ready := rfl
@[simp] theorem Core.wake_outbox (k : Core) : k.wake.outbox = k.outbox := rfl
@[simp] theorem Core.wake_records (k : Core) : k.wake.records = k.records := rfl
@[simp] theorem Core.wake_recordLost (k : Core) : k.wake.recordLost = k.recordLost := rfl
@[simp] theorem Core.wake_bindings (k : Core) : k.wake.bindings = k.bindings := rfl
@[simp] theorem Core.wake_counters (k : Core) : k.wake.counters = k.counters := rfl
@[simp] theorem Core.wake_refusals (k : Core) : k.wake.refusals = k.refusals := rfl
@[simp] theorem Core.wake_loads (k : Core) : k.wake.loads = k.loads := rfl
@[simp] theorem Core.wake_forwards (k : Core) : k.wake.forwards = k.forwards := rfl
@[simp] theorem Core.wake_dir (k : Core) : k.wake.dir = k.dir := rfl
@[simp] theorem Core.wake_tlb (k : Core) : k.wake.tlb = k.tlb := rfl
@[simp] theorem Core.wake_frames (k : Core) : k.wake.frames = k.frames := rfl
@[simp] theorem Core.wake_faults (k : Core) : k.wake.faults = k.faults := rfl
@[simp] theorem Core.wake_grants (k : Core) : k.wake.grants = k.grants := rfl
@[simp] theorem Core.wake_rotate (k : Core) : k.wake.rotate = k.rotate := rfl
@[simp] theorem Core.wake_inject (k : Core) : k.wake.inject = k.inject := rfl
@[simp] theorem Core.wake_breaks (k : Core) : k.wake.breaks = k.breaks := rfl
@[simp] theorem Core.wake_watches (k : Core) : k.wake.watches = k.watches := rfl
@[simp] theorem Core.wake_bank (k : Core) : k.wake.bank = k.bank := rfl
@[simp] theorem Core.wake_stall (k : Core) : k.wake.stall = k.stall := rfl
@[simp] theorem Core.wake_barked (k : Core) : k.wake.barked = k.barked := rfl
@[simp] theorem Core.wake_retention (k : Core) : k.wake.retention = k.retention := rfl
@[simp] theorem Core.wake_lastAccess (k : Core) : k.wake.lastAccess = k.lastAccess := rfl
@[simp] theorem Core.wake_pair (k : Core) : k.wake.pair = k.pair := rfl
@[simp] theorem Core.wake_notices (k : Core) : k.wake.notices = k.notices := rfl
@[simp] theorem Core.wake_preempting (k : Core) : k.wake.preempting = k.preempting := rfl
@[simp] theorem Core.wake_member (k : Core) : k.wake.member = k.member := rfl
@[simp] theorem Core.wake_upsets (k : Core) : k.wake.upsets = k.upsets := rfl
@[simp] theorem Core.bump_gangs (k : Core) (n : Nat) : (k.bump n).gangs = k.gangs := rfl
@[simp] theorem Core.bump_slot (k : Core) (n : Nat) : (k.bump n).slot = k.slot := rfl
@[simp] theorem Core.bump_lastSlot (k : Core) (n : Nat) : (k.bump n).lastSlot = k.lastSlot := rfl
@[simp] theorem Core.bump_lastFired (k : Core) (n : Nat) : (k.bump n).lastFired = k.lastFired := rfl
@[simp] theorem Core.bump_owner (k : Core) (n : Nat) : (k.bump n).owner = k.owner := rfl
@[simp] theorem Core.bump_priv (k : Core) (n : Nat) : (k.bump n).priv = k.priv := rfl
@[simp] theorem Core.bump_xpc0 (k : Core) (n : Nat) : (k.bump n).xpc0 = k.xpc0 := rfl
@[simp] theorem Core.bump_xpc1 (k : Core) (n : Nat) : (k.bump n).xpc1 = k.xpc1 := rfl
@[simp] theorem Core.bump_xpc2 (k : Core) (n : Nat) : (k.bump n).xpc2 = k.xpc2 := rfl
@[simp] theorem Core.bump_trapCause (k : Core) (n : Nat) : (k.bump n).trapCause = k.trapCause := rfl
@[simp] theorem Core.bump_trapInfo (k : Core) (n : Nat) : (k.bump n).trapInfo = k.trapInfo := rfl
@[simp] theorem Core.bump_trapLanes (k : Core) (n : Nat) : (k.bump n).trapLanes = k.trapLanes := rfl
@[simp] theorem Core.bump_timer (k : Core) (n : Nat) : (k.bump n).timer = k.timer := rfl
@[simp] theorem Core.bump_timerAt (k : Core) (n : Nat) : (k.bump n).timerAt = k.timerAt := rfl
@[simp] theorem Core.bump_trapBank (k : Core) (n : Nat) : (k.bump n).trapBank = k.trapBank := rfl
@[simp] theorem Core.bump_bankPoison (k : Core) (n : Nat) : (k.bump n).bankPoison = k.bankPoison := rfl
@[simp] theorem Core.bump_bankPend (k : Core) (n : Nat) : (k.bump n).bankPend = k.bankPend := rfl
@[simp] theorem Core.bump_logicalId (k : Core) (n : Nat) : (k.bump n).logicalId = k.logicalId := rfl
@[simp] theorem Core.bump_rank (k : Core) (n : Nat) : (k.bump n).rank = k.rank := rfl
@[simp] theorem Core.bump_usc (k : Core) (n : Nat) : (k.bump n).usc = k.usc := rfl
@[simp] theorem Core.bump_mprog (k : Core) (n : Nat) : (k.bump n).mprog = k.mprog := rfl
@[simp] theorem Core.bump_cycle (k : Core) (n : Nat) : (k.bump n).cycle = k.cycle := rfl
@[simp] theorem Core.bump_retired (k : Core) (n : Nat) : (k.bump n).retired = k.retired := rfl
@[simp] theorem Core.bump_causes (k : Core) (n : Nat) : (k.bump n).causes = k.causes := rfl
@[simp] theorem Core.bump_timerPending (k : Core) (n : Nat) : (k.bump n).timerPending = k.timerPending := rfl
@[simp] theorem Core.bump_stopped (k : Core) (n : Nat) : (k.bump n).stopped = k.stopped := rfl
@[simp] theorem Core.bump_answer (k : Core) (n : Nat) : (k.bump n).answer = k.answer := rfl
@[simp] theorem Core.bump_idle (k : Core) (n : Nat) : (k.bump n).idle = k.idle := rfl
@[simp] theorem Core.bump_mem (k : Core) (n : Nat) : (k.bump n).mem = k.mem := rfl
@[simp] theorem Core.bump_full (k : Core) (n : Nat) : (k.bump n).full = k.full := rfl
@[simp] theorem Core.bump_code (k : Core) (n : Nat) : (k.bump n).code = k.code := rfl
@[simp] theorem Core.bump_codeBad (k : Core) (n : Nat) : (k.bump n).codeBad = k.codeBad := rfl
@[simp] theorem Core.bump_placed (k : Core) (n : Nat) : (k.bump n).placed = k.placed := rfl
@[simp] theorem Core.bump_trapLen (k : Core) (n : Nat) : (k.bump n).trapLen = k.trapLen := rfl
@[simp] theorem Core.bump_channels (k : Core) (n : Nat) : (k.bump n).channels = k.channels := rfl
@[simp] theorem Core.bump_arrivals (k : Core) (n : Nat) : (k.bump n).arrivals = k.arrivals := rfl
@[simp] theorem Core.bump_granted (k : Core) (n : Nat) : (k.bump n).granted = k.granted := rfl
@[simp] theorem Core.bump_asks (k : Core) (n : Nat) : (k.bump n).asks = k.asks := rfl
@[simp] theorem Core.bump_draining (k : Core) (n : Nat) : (k.bump n).draining = k.draining := rfl
@[simp] theorem Core.bump_streams (k : Core) (n : Nat) : (k.bump n).streams = k.streams := rfl
@[simp] theorem Core.bump_barriers (k : Core) (n : Nat) : (k.bump n).barriers = k.barriers := rfl
@[simp] theorem Core.bump_tmaps (k : Core) (n : Nat) : (k.bump n).tmaps = k.tmaps := rfl
@[simp] theorem Core.bump_rings (k : Core) (n : Nat) : (k.bump n).rings = k.rings := rfl
@[simp] theorem Core.bump_copyQs (k : Core) (n : Nat) : (k.bump n).copyQs = k.copyQs := rfl
@[simp] theorem Core.bump_matrixQ (k : Core) (n : Nat) : (k.bump n).matrixQ = k.matrixQ := rfl
@[simp] theorem Core.bump_staging (k : Core) (n : Nat) : (k.bump n).staging = k.staging := rfl
@[simp] theorem Core.bump_sendReq (k : Core) (n : Nat) : (k.bump n).sendReq = k.sendReq := rfl
@[simp] theorem Core.bump_sendRep (k : Core) (n : Nat) : (k.bump n).sendRep = k.sendRep := rfl
@[simp] theorem Core.bump_ready (k : Core) (n : Nat) : (k.bump n).ready = k.ready := rfl
@[simp] theorem Core.bump_outbox (k : Core) (n : Nat) : (k.bump n).outbox = k.outbox := rfl
@[simp] theorem Core.bump_records (k : Core) (n : Nat) : (k.bump n).records = k.records := rfl
@[simp] theorem Core.bump_recordLost (k : Core) (n : Nat) : (k.bump n).recordLost = k.recordLost := rfl
@[simp] theorem Core.bump_bindings (k : Core) (n : Nat) : (k.bump n).bindings = k.bindings := rfl
@[simp] theorem Core.bump_refusals (k : Core) (n : Nat) : (k.bump n).refusals = k.refusals := rfl
@[simp] theorem Core.bump_loads (k : Core) (n : Nat) : (k.bump n).loads = k.loads := rfl
@[simp] theorem Core.bump_forwards (k : Core) (n : Nat) : (k.bump n).forwards = k.forwards := rfl
@[simp] theorem Core.bump_dir (k : Core) (n : Nat) : (k.bump n).dir = k.dir := rfl
@[simp] theorem Core.bump_tlb (k : Core) (n : Nat) : (k.bump n).tlb = k.tlb := rfl
@[simp] theorem Core.bump_frames (k : Core) (n : Nat) : (k.bump n).frames = k.frames := rfl
@[simp] theorem Core.bump_faults (k : Core) (n : Nat) : (k.bump n).faults = k.faults := rfl
@[simp] theorem Core.bump_grants (k : Core) (n : Nat) : (k.bump n).grants = k.grants := rfl
@[simp] theorem Core.bump_rotate (k : Core) (n : Nat) : (k.bump n).rotate = k.rotate := rfl
@[simp] theorem Core.bump_inject (k : Core) (n : Nat) : (k.bump n).inject = k.inject := rfl
@[simp] theorem Core.bump_breaks (k : Core) (n : Nat) : (k.bump n).breaks = k.breaks := rfl
@[simp] theorem Core.bump_watches (k : Core) (n : Nat) : (k.bump n).watches = k.watches := rfl
@[simp] theorem Core.bump_bank (k : Core) (n : Nat) : (k.bump n).bank = k.bank := rfl
@[simp] theorem Core.bump_stall (k : Core) (n : Nat) : (k.bump n).stall = k.stall := rfl
@[simp] theorem Core.bump_barked (k : Core) (n : Nat) : (k.bump n).barked = k.barked := rfl
@[simp] theorem Core.bump_retention (k : Core) (n : Nat) : (k.bump n).retention = k.retention := rfl
@[simp] theorem Core.bump_lastAccess (k : Core) (n : Nat) : (k.bump n).lastAccess = k.lastAccess := rfl
@[simp] theorem Core.bump_pair (k : Core) (n : Nat) : (k.bump n).pair = k.pair := rfl
@[simp] theorem Core.bump_notices (k : Core) (n : Nat) : (k.bump n).notices = k.notices := rfl
@[simp] theorem Core.bump_preempting (k : Core) (n : Nat) : (k.bump n).preempting = k.preempting := rfl
@[simp] theorem Core.bump_member (k : Core) (n : Nat) : (k.bump n).member = k.member := rfl
@[simp] theorem Core.bump_upsets (k : Core) (n : Nat) : (k.bump n).upsets = k.upsets := rfl
@[simp] theorem Core.retire_slot (k : Core) (n : Option (BitVec 32)) : (k.retire n).slot = k.slot := rfl
@[simp] theorem Core.retire_lastFired (k : Core) (n : Option (BitVec 32)) : (k.retire n).lastFired = k.lastFired := rfl
@[simp] theorem Core.retire_owner (k : Core) (n : Option (BitVec 32)) : (k.retire n).owner = k.owner := rfl
@[simp] theorem Core.retire_priv (k : Core) (n : Option (BitVec 32)) : (k.retire n).priv = k.priv := rfl
@[simp] theorem Core.retire_xpc0 (k : Core) (n : Option (BitVec 32)) : (k.retire n).xpc0 = k.xpc0 := rfl
@[simp] theorem Core.retire_xpc1 (k : Core) (n : Option (BitVec 32)) : (k.retire n).xpc1 = k.xpc1 := rfl
@[simp] theorem Core.retire_xpc2 (k : Core) (n : Option (BitVec 32)) : (k.retire n).xpc2 = k.xpc2 := rfl
@[simp] theorem Core.retire_trapCause (k : Core) (n : Option (BitVec 32)) : (k.retire n).trapCause = k.trapCause := rfl
@[simp] theorem Core.retire_trapInfo (k : Core) (n : Option (BitVec 32)) : (k.retire n).trapInfo = k.trapInfo := rfl
@[simp] theorem Core.retire_trapLanes (k : Core) (n : Option (BitVec 32)) : (k.retire n).trapLanes = k.trapLanes := rfl
@[simp] theorem Core.retire_timer (k : Core) (n : Option (BitVec 32)) : (k.retire n).timer = k.timer := rfl
@[simp] theorem Core.retire_timerAt (k : Core) (n : Option (BitVec 32)) : (k.retire n).timerAt = k.timerAt := rfl
@[simp] theorem Core.retire_trapBank (k : Core) (n : Option (BitVec 32)) : (k.retire n).trapBank = k.trapBank := rfl
@[simp] theorem Core.retire_bankPoison (k : Core) (n : Option (BitVec 32)) : (k.retire n).bankPoison = k.bankPoison := rfl
@[simp] theorem Core.retire_bankPend (k : Core) (n : Option (BitVec 32)) : (k.retire n).bankPend = k.bankPend := rfl
@[simp] theorem Core.retire_logicalId (k : Core) (n : Option (BitVec 32)) : (k.retire n).logicalId = k.logicalId := rfl
@[simp] theorem Core.retire_rank (k : Core) (n : Option (BitVec 32)) : (k.retire n).rank = k.rank := rfl
@[simp] theorem Core.retire_usc (k : Core) (n : Option (BitVec 32)) : (k.retire n).usc = k.usc := rfl
@[simp] theorem Core.retire_mprog (k : Core) (n : Option (BitVec 32)) : (k.retire n).mprog = k.mprog := rfl
@[simp] theorem Core.retire_cycle (k : Core) (n : Option (BitVec 32)) : (k.retire n).cycle = k.cycle := rfl
@[simp] theorem Core.retire_causes (k : Core) (n : Option (BitVec 32)) : (k.retire n).causes = k.causes := rfl
@[simp] theorem Core.retire_timerPending (k : Core) (n : Option (BitVec 32)) : (k.retire n).timerPending = k.timerPending := rfl
@[simp] theorem Core.retire_stopped (k : Core) (n : Option (BitVec 32)) : (k.retire n).stopped = k.stopped := rfl
@[simp] theorem Core.retire_answer (k : Core) (n : Option (BitVec 32)) : (k.retire n).answer = k.answer := rfl
@[simp] theorem Core.retire_idle (k : Core) (n : Option (BitVec 32)) : (k.retire n).idle = k.idle := rfl
@[simp] theorem Core.retire_mem (k : Core) (n : Option (BitVec 32)) : (k.retire n).mem = k.mem := rfl
@[simp] theorem Core.retire_full (k : Core) (n : Option (BitVec 32)) : (k.retire n).full = k.full := rfl
@[simp] theorem Core.retire_code (k : Core) (n : Option (BitVec 32)) : (k.retire n).code = k.code := rfl
@[simp] theorem Core.retire_codeBad (k : Core) (n : Option (BitVec 32)) : (k.retire n).codeBad = k.codeBad := rfl
@[simp] theorem Core.retire_placed (k : Core) (n : Option (BitVec 32)) : (k.retire n).placed = k.placed := rfl
@[simp] theorem Core.retire_trapLen (k : Core) (n : Option (BitVec 32)) : (k.retire n).trapLen = k.trapLen := rfl
@[simp] theorem Core.retire_channels (k : Core) (n : Option (BitVec 32)) : (k.retire n).channels = k.channels := rfl
@[simp] theorem Core.retire_arrivals (k : Core) (n : Option (BitVec 32)) : (k.retire n).arrivals = k.arrivals := rfl
@[simp] theorem Core.retire_granted (k : Core) (n : Option (BitVec 32)) : (k.retire n).granted = k.granted := rfl
@[simp] theorem Core.retire_asks (k : Core) (n : Option (BitVec 32)) : (k.retire n).asks = k.asks := rfl
@[simp] theorem Core.retire_draining (k : Core) (n : Option (BitVec 32)) : (k.retire n).draining = k.draining := rfl
@[simp] theorem Core.retire_streams (k : Core) (n : Option (BitVec 32)) : (k.retire n).streams = k.streams := rfl
@[simp] theorem Core.retire_barriers (k : Core) (n : Option (BitVec 32)) : (k.retire n).barriers = k.barriers := rfl
@[simp] theorem Core.retire_tmaps (k : Core) (n : Option (BitVec 32)) : (k.retire n).tmaps = k.tmaps := rfl
@[simp] theorem Core.retire_rings (k : Core) (n : Option (BitVec 32)) : (k.retire n).rings = k.rings := rfl
@[simp] theorem Core.retire_copyQs (k : Core) (n : Option (BitVec 32)) : (k.retire n).copyQs = k.copyQs := rfl
@[simp] theorem Core.retire_matrixQ (k : Core) (n : Option (BitVec 32)) : (k.retire n).matrixQ = k.matrixQ := rfl
@[simp] theorem Core.retire_staging (k : Core) (n : Option (BitVec 32)) : (k.retire n).staging = k.staging := rfl
@[simp] theorem Core.retire_sendReq (k : Core) (n : Option (BitVec 32)) : (k.retire n).sendReq = k.sendReq := rfl
@[simp] theorem Core.retire_sendRep (k : Core) (n : Option (BitVec 32)) : (k.retire n).sendRep = k.sendRep := rfl
@[simp] theorem Core.retire_ready (k : Core) (n : Option (BitVec 32)) : (k.retire n).ready = k.ready := rfl
@[simp] theorem Core.retire_outbox (k : Core) (n : Option (BitVec 32)) : (k.retire n).outbox = k.outbox := rfl
@[simp] theorem Core.retire_records (k : Core) (n : Option (BitVec 32)) : (k.retire n).records = k.records := rfl
@[simp] theorem Core.retire_recordLost (k : Core) (n : Option (BitVec 32)) : (k.retire n).recordLost = k.recordLost := rfl
@[simp] theorem Core.retire_bindings (k : Core) (n : Option (BitVec 32)) : (k.retire n).bindings = k.bindings := rfl
@[simp] theorem Core.retire_refusals (k : Core) (n : Option (BitVec 32)) : (k.retire n).refusals = k.refusals := rfl
@[simp] theorem Core.retire_loads (k : Core) (n : Option (BitVec 32)) : (k.retire n).loads = k.loads := rfl
@[simp] theorem Core.retire_forwards (k : Core) (n : Option (BitVec 32)) : (k.retire n).forwards = k.forwards := rfl
@[simp] theorem Core.retire_dir (k : Core) (n : Option (BitVec 32)) : (k.retire n).dir = k.dir := rfl
@[simp] theorem Core.retire_tlb (k : Core) (n : Option (BitVec 32)) : (k.retire n).tlb = k.tlb := rfl
@[simp] theorem Core.retire_frames (k : Core) (n : Option (BitVec 32)) : (k.retire n).frames = k.frames := rfl
@[simp] theorem Core.retire_faults (k : Core) (n : Option (BitVec 32)) : (k.retire n).faults = k.faults := rfl
@[simp] theorem Core.retire_grants (k : Core) (n : Option (BitVec 32)) : (k.retire n).grants = k.grants := rfl
@[simp] theorem Core.retire_rotate (k : Core) (n : Option (BitVec 32)) : (k.retire n).rotate = k.rotate := rfl
@[simp] theorem Core.retire_inject (k : Core) (n : Option (BitVec 32)) : (k.retire n).inject = k.inject := rfl
@[simp] theorem Core.retire_breaks (k : Core) (n : Option (BitVec 32)) : (k.retire n).breaks = k.breaks := rfl
@[simp] theorem Core.retire_watches (k : Core) (n : Option (BitVec 32)) : (k.retire n).watches = k.watches := rfl
@[simp] theorem Core.retire_bank (k : Core) (n : Option (BitVec 32)) : (k.retire n).bank = k.bank := rfl
@[simp] theorem Core.retire_retention (k : Core) (n : Option (BitVec 32)) : (k.retire n).retention = k.retention := rfl
@[simp] theorem Core.retire_lastAccess (k : Core) (n : Option (BitVec 32)) : (k.retire n).lastAccess = k.lastAccess := rfl
@[simp] theorem Core.retire_pair (k : Core) (n : Option (BitVec 32)) : (k.retire n).pair = k.pair := rfl
@[simp] theorem Core.retire_notices (k : Core) (n : Option (BitVec 32)) : (k.retire n).notices = k.notices := rfl
@[simp] theorem Core.retire_preempting (k : Core) (n : Option (BitVec 32)) : (k.retire n).preempting = k.preempting := rfl
@[simp] theorem Core.retire_member (k : Core) (n : Option (BitVec 32)) : (k.retire n).member = k.member := rfl
@[simp] theorem Core.retire_upsets (k : Core) (n : Option (BitVec 32)) : (k.retire n).upsets = k.upsets := rfl

/-! ### Updates of a gang -/

@[simp] theorem Gang.advance_lanes (g : Gang) (n : BitVec 32) : (g.advance n).lanes = g.lanes := rfl
@[simp] theorem Gang.retire_lanes (g : Gang) (n : BitVec 32) (r : Bool) : (g.retire n r).lanes = g.lanes := rfl
@[simp] theorem Gang.advance_g (g : Gang) (n : BitVec 32) : (g.advance n).g = g.g := rfl
@[simp] theorem Gang.retire_g (g : Gang) (n : BitVec 32) (r : Bool) : (g.retire n r).g = g.g := rfl
@[simp] theorem Gang.advance_gPoison (g : Gang) (n : BitVec 32) : (g.advance n).gPoison = g.gPoison := rfl
@[simp] theorem Gang.retire_gPoison (g : Gang) (n : BitVec 32) (r : Bool) : (g.retire n r).gPoison = g.gPoison := rfl
@[simp] theorem Gang.advance_gPend (g : Gang) (n : BitVec 32) : (g.advance n).gPend = g.gPend := rfl
@[simp] theorem Gang.retire_gPend (g : Gang) (n : BitVec 32) (r : Bool) : (g.retire n r).gPend = g.gPend := rfl
@[simp] theorem Gang.advance_grant (g : Gang) (n : BitVec 32) : (g.advance n).grant = g.grant := rfl
@[simp] theorem Gang.retire_grant (g : Gang) (n : BitVec 32) (r : Bool) : (g.retire n r).grant = g.grant := rfl
@[simp] theorem Gang.advance_channel (g : Gang) (n : BitVec 32) : (g.advance n).channel = g.channel := rfl
@[simp] theorem Gang.retire_channel (g : Gang) (n : BitVec 32) (r : Bool) : (g.retire n r).channel = g.channel := rfl
@[simp] theorem Gang.advance_kind (g : Gang) (n : BitVec 32) : (g.advance n).kind = g.kind := rfl
@[simp] theorem Gang.retire_kind (g : Gang) (n : BitVec 32) (r : Bool) : (g.retire n r).kind = g.kind := rfl
@[simp] theorem Gang.advance_prio (g : Gang) (n : BitVec 32) : (g.advance n).prio = g.prio := rfl
@[simp] theorem Gang.retire_prio (g : Gang) (n : BitVec 32) (r : Bool) : (g.retire n r).prio = g.prio := rfl
@[simp] theorem Gang.advance_waiting (g : Gang) (n : BitVec 32) : (g.advance n).waiting = g.waiting := rfl
@[simp] theorem Gang.retire_waiting (g : Gang) (n : BitVec 32) (r : Bool) : (g.retire n r).waiting = g.waiting := rfl
@[simp] theorem Gang.advance_yielded (g : Gang) (n : BitVec 32) : (g.advance n).yielded = g.yielded := rfl
@[simp] theorem Gang.retire_yielded (g : Gang) (n : BitVec 32) (r : Bool) : (g.retire n r).yielded = g.yielded := rfl
@[simp] theorem Gang.advance_phase (g : Gang) (n : BitVec 32) : (g.advance n).phase = g.phase := rfl
@[simp] theorem Gang.advance_breakDue (g : Gang) (n : BitVec 32) : (g.advance n).breakDue = g.breakDue := rfl
@[simp] theorem Gang.advance_xfer (g : Gang) (n : BitVec 32) : (g.advance n).xfer = g.xfer := rfl
@[simp] theorem Gang.advance_xferIn (g : Gang) (n : BitVec 32) : (g.advance n).xferIn = g.xferIn := rfl
@[simp] theorem Gang.advance_acq (g : Gang) (n : BitVec 32) : (g.advance n).acq = g.acq := rfl
@[simp] theorem Gang.retire_acq (g : Gang) (n : BitVec 32) (r : Bool) : (g.retire n r).acq = g.acq := rfl
@[simp] theorem Gang.advance_rel (g : Gang) (n : BitVec 32) : (g.advance n).rel = g.rel := rfl
@[simp] theorem Gang.retire_rel (g : Gang) (n : BitVec 32) (r : Bool) : (g.retire n r).rel = g.rel := rfl
@[simp] theorem Gang.advance_held (g : Gang) (n : BitVec 32) : (g.advance n).held = g.held := rfl
@[simp] theorem Gang.retire_held (g : Gang) (n : BitVec 32) (r : Bool) : (g.retire n r).held = g.held := rfl
@[simp] theorem Gang.advance_ending (g : Gang) (n : BitVec 32) : (g.advance n).ending = g.ending := rfl
@[simp] theorem Gang.retire_ending (g : Gang) (n : BitVec 32) (r : Bool) : (g.retire n r).ending = g.ending := rfl
@[simp] theorem Gang.advance_halted (g : Gang) (n : BitVec 32) : (g.advance n).halted = g.halted := rfl
@[simp] theorem Gang.retire_halted (g : Gang) (n : BitVec 32) (r : Bool) : (g.retire n r).halted = g.halted := rfl
@[simp] theorem Gang.advance_haltAtTret (g : Gang) (n : BitVec 32) : (g.advance n).haltAtTret = g.haltAtTret := rfl
@[simp] theorem Gang.retire_haltAtTret (g : Gang) (n : BitVec 32) (r : Bool) : (g.retire n r).haltAtTret = g.haltAtTret := rfl
@[simp] theorem Gang.advance_haltAsked (g : Gang) (n : BitVec 32) : (g.advance n).haltAsked = g.haltAsked := rfl
@[simp] theorem Gang.retire_haltAsked (g : Gang) (n : BitVec 32) (r : Bool) : (g.retire n r).haltAsked = g.haltAsked := rfl
@[simp] theorem Gang.advance_step (g : Gang) (n : BitVec 32) : (g.advance n).step = g.step := rfl
@[simp] theorem Gang.retire_step (g : Gang) (n : BitVec 32) (r : Bool) : (g.retire n r).step = g.step := rfl
@[simp] theorem Gang.advance_stepArmed (g : Gang) (n : BitVec 32) : (g.advance n).stepArmed = g.stepArmed := rfl
@[simp] theorem Gang.retire_stepArmed (g : Gang) (n : BitVec 32) (r : Bool) : (g.retire n r).stepArmed = g.stepArmed := rfl
@[simp] theorem Gang.advance_stepDebug (g : Gang) (n : BitVec 32) : (g.advance n).stepDebug = g.stepDebug := rfl
@[simp] theorem Gang.retire_stepDebug (g : Gang) (n : BitVec 32) (r : Bool) : (g.retire n r).stepDebug = g.stepDebug := rfl
@[simp] theorem Gang.advance_stepped (g : Gang) (n : BitVec 32) : (g.advance n).stepped = g.stepped := rfl
@[simp] theorem Gang.retire_stepped (g : Gang) (n : BitVec 32) (r : Bool) : (g.retire n r).stepped = g.stepped := rfl
@[simp] theorem Gang.advance_skipBreak (g : Gang) (n : BitVec 32) : (g.advance n).skipBreak = g.skipBreak := rfl
@[simp] theorem Gang.advance_causes (g : Gang) (n : BitVec 32) : (g.advance n).causes = g.causes := rfl
@[simp] theorem Gang.retire_causes (g : Gang) (n : BitVec 32) (r : Bool) : (g.retire n r).causes = g.causes := rfl
@[simp] theorem Gang.advance_walking (g : Gang) (n : BitVec 32) : (g.advance n).walking = g.walking := rfl
@[simp] theorem Gang.advance_missed (g : Gang) (n : BitVec 32) : (g.advance n).missed = g.missed := rfl
@[simp] theorem Gang.advance_walked (g : Gang) (n : BitVec 32) : (g.advance n).walked = g.walked := rfl

/-! ### Reading back -/

@[simp] theorem State.core_setCore (s : State) (c j : Nat) (k : Core) :
    (s.setCore c k).core j = if j = c then k else s.core j := mget_mput (α := Core) {} s.cores c j k
@[simp] theorem State.core_modCore (s : State) (c j : Nat) (f : Core → Core) :
    (s.modCore c f).core j = if j = c then f (s.core c) else s.core j := State.core_setCore s c j _
@[simp] theorem State.me_setMe (s : State) (k : Core) : (s.setMe k).me = k := by simp [State.me, State.setMe]
@[simp] theorem State.me_modMe (s : State) (f : Core → Core) : (s.modMe f).me = f s.me := by simp [State.me, State.modMe]
theorem State.core_modMe (s : State) (f : Core → Core) (j : Nat) :
    (s.modMe f).core j = if j = s.cur then f s.me else s.core j := State.core_modCore s s.cur j f
/-- Another core is not touched by a change of the acting one. -/
theorem State.core_modMe_ne (s : State) (f : Core → Core) {j : Nat} (h : j ≠ s.cur) : (s.modMe f).core j = s.core j := by
  simp [State.core_modMe, h]
theorem State.core_setMe (s : State) (k : Core) (j : Nat) :
    (s.setMe k).core j = if j = s.cur then k else s.core j := State.core_setCore s s.cur j k
@[simp] theorem Core.at_setAt (k : Core) (i j : Nat) (g : Gang) :
    (k.setAt i g).at j = if j = i then g else k.at j := mget_mput (α := Gang) {} k.gangs i j g
@[simp] theorem Core.gang_setGang (k : Core) (g : Gang) : (k.setGang g).gang = g := by
  show (k.setAt k.slot g).at k.slot = g
  simp
@[simp] theorem Core.gang_modGang (k : Core) (f : Gang → Gang) : (k.modGang f).gang = f k.gang := Core.gang_setGang k _
theorem Core.at_modGang_ne (k : Core) (f : Gang → Gang) {j : Nat} (h : j ≠ k.slot) : (k.modGang f).at j = k.at j := by
  show (k.setAt k.slot _).at j = _
  simp [h]
@[simp] theorem State.gang_setGang (s : State) (g : Gang) : (s.setGang g).gang = g := by simp [State.gang, State.setGang]
@[simp] theorem State.gang_modGang (s : State) (f : Gang → Gang) : (s.modGang f).gang = f s.gang := State.gang_setGang s _
@[simp] theorem State.me_setGang (s : State) (g : Gang) : (s.setGang g).me = s.me.setGang g := State.me_setMe s _
@[simp] theorem State.me_modGang (s : State) (f : Gang → Gang) : (s.modGang f).me = s.me.modGang f := State.me_setGang s _
/-- Two changes of one core are one. -/
@[simp] theorem State.setCore_setCore (s : State) (c : Nat) (k l : Core) : (s.setCore c k).setCore c l = s.setCore c l := by
  simp [State.setCore]
@[simp] theorem State.modMe_modMe (s : State) (f h : Core → Core) : (s.modMe f).modMe h = s.modMe fun k => h (f k) := by
  show (s.setCore s.cur _).setCore s.cur (h ((s.modMe f).me)) = s.setCore s.cur _
  rw [State.setCore_setCore, State.me_modMe]; rfl
theorem State.modGang_eq (s : State) (f : Gang → Gang) : s.modGang f = s.modMe (·.modGang f) := rfl
theorem State.writeG_eq (s : State) (n : BitVec 4) (v : Word) (p : Bool) : s.writeG n v p = s.modMe (·.writeG n.toNat v p) := rfl
theorem State.retire_eq (s : State) (n : Option (BitVec 32)) : s.retire n = s.modMe (·.retire n) := rfl
/-- Waking changes nothing of an absent gang. -/
theorem Core.at_wake (k : Core) (i : Nat) : k.wake.at i = { k.at i with waiting := false } :=
  mget_map (α := Gang) {} (fun g : Gang => { g with waiting := false }) rfl k.gangs i
theorem State.core_wake (s : State) (c : Nat) : s.wake.core c = (s.core c).wake := mget_map (α := Core) {} Core.wake rfl s.cores c

/-! ### Gang registers -/

@[simp] theorem Core.readG_zero (k : Core) : k.readG 0 = 0 := rfl
@[simp] theorem State.readG_zero (s : State) : s.readG 0 = 0 := rfl
@[simp] theorem Core.writeG_zero (k : Core) (v : Word) (p : Bool) : k.writeG 0 v p = k := rfl
/-- What a gang register reads as after a write of one, at either level. -/
theorem Core.readG_writeG (k : Core) {n : Nat} (m : Nat) (v : Word) (p : Bool) (h : n ≠ 0) :
    (k.writeG n v p).readG m = if m = n then v else k.readG m := by
  by_cases hp : k.priv = 1
  · simp only [Core.writeG, Core.readG, h, hp, if_false, if_true]
    by_cases hm : m = n <;> by_cases h0 : m = 0 <;> simp_all
  · simp only [Core.writeG, Core.readG, h, hp, if_false, Core.modGang_priv, Core.gang_modGang]
    by_cases hm : m = n <;> by_cases h0 : m = 0 <;> simp_all
theorem State.readG_writeG (s : State) {n : BitVec 4} (m : BitVec 4) (v : Word) (p : Bool) (h : n ≠ 0) :
    (s.writeG n v p).readG m = if m = n then v else s.readG m := by
  have h' : n.toNat ≠ 0 := fun e => h (BitVec.eq_of_toNat_eq (by simpa using e))
  show (s.modMe _).me.readG m.toNat = _
  rw [State.me_modMe, Core.readG_writeG _ _ _ _ h']
  simp only [BitVec.toNat_inj]; rfl
/-- A write to one register leaves the others. -/
theorem State.readG_writeG_ne (s : State) {n m : BitVec 4} (v : Word) (p : Bool) (h : m ≠ n) :
    (s.writeG n v p).readG m = s.readG m := by
  by_cases h0 : n = 0
  · subst h0; show (s.modMe _).me.readG _ = _; rw [State.me_modMe]; rfl
  · rw [State.readG_writeG s m v p h0, if_neg h]

end Sys2Proof.Machine
end

