-- ==== Sys2Proof/Laws/Memory.lean ====
section
/-! SUPPORT. The laws of memory: what a byte and a mark read as after each operation, that a load gives back what was
stored, and that every operation keeps the canonical form. -/
namespace Sys2Proof.Machine

/-! ### Reading after an operation -/

@[simp] theorem Memory.byte_setByte (m : Memory) (a x : Nat) (b : Byte) :
    (m.setByte a b).byte x = if x = a then b else m.byte x := mget_mset 0 m.bytes a x b
@[simp] theorem Memory.byte_setBad (m : Memory) (w x : Nat) (b : Bool) : (m.setBad w b).byte x = m.byte x := rfl
@[simp] theorem Memory.byte_mark (m : Memory) (a n x : Nat) (p : Bool) (ws : List Nat) :
    (m.mark a n p ws).byte x = m.byte x := by
  induction ws generalizing m with
  | nil => rfl
  | cons w ws ih => rw [Memory.mark, ih]; split <;> first | rfl | (split <;> rfl)
theorem Memory.byte_putBytes (m : Memory) (a x : Nat) (bs : List Byte) :
    (m.putBytes a bs).byte x = if a ≤ x ∧ x < a + bs.length then bs.getD (x - a) 0 else m.byte x := by
  induction bs generalizing m a with
  | nil => rw [if_neg (by simp)]; rfl
  | cons b bs ih =>
    rw [Memory.putBytes, ih, Memory.byte_setByte]
    by_cases h : x = a
    · subst h; rw [if_neg (by omega), if_pos rfl, if_pos (by simp)]; simp
    · by_cases h2 : a + 1 ≤ x ∧ x < a + 1 + bs.length
      · rw [if_pos h2, if_pos (by simp; omega)]
        obtain ⟨j, hj⟩ : ∃ j, x - a = j + 1 := ⟨x - a - 1, by omega⟩
        rw [hj, show x - (a + 1) = j by omega, List.getD_cons_succ]
      · rw [if_neg h2, if_neg h, if_neg (by simp; omega)]
theorem Memory.byte_write (m : Memory) (a x : Nat) (bs : List Byte) (p : Bool) :
    (m.write a bs p).byte x = if a ≤ x ∧ x < a + bs.length then bs.getD (x - a) 0 else m.byte x := by
  rw [Memory.write, Memory.byte_mark, Memory.byte_putBytes]
@[simp] theorem bytesOf_length (v n : Nat) : (bytesOf v n).length = n := by
  induction n generalizing v with
  | zero => rfl
  | succ n ih => simp [bytesOf, ih]
/-- A store leaves every byte outside its own as it was. -/
theorem Memory.byte_store_other (m : Memory) {a n x : Nat} (v : Word) (p : Bool) (h : x < a ∨ a + n ≤ x) :
    (m.store a n v p).byte x = m.byte x := by
  rw [Memory.store, Memory.byte_write, bytesOf_length, if_neg (by omega)]
/-- A load of bytes that one list covers. -/
theorem Memory.load_of_bytes (m : Memory) (a v n : Nat)
    (h : ∀ i, i < n → m.byte (a + i) = (bytesOf v n).getD i 0) : m.load a n = v % 2 ^ (8 * n) := by
  induction n generalizing a v with
  | zero => simp [Memory.load, Nat.mod_one]
  | succ n ih =>
    have h0 : m.byte a = BitVec.ofNat 8 v := h 0 (by omega)
    have hs : ∀ i, i < n → m.byte (a + 1 + i) = (bytesOf (v / 256) n).getD i 0 := by
      intro i hi
      have := h (i + 1) (by omega)
      rw [bytesOf, List.getD_cons_succ] at this
      rwa [show a + 1 + i = a + (i + 1) by omega]
    rw [Memory.load, h0, ih _ _ hs, BitVec.toNat_ofNat, show 8 * (n + 1) = 8 + 8 * n by ring, Nat.pow_add, Nat.mod_mul]
/-- A load gives back the low bytes of what was stored. -/
theorem Memory.load_store (m : Memory) (a n : Nat) (v : Word) (p : Bool) :
    (m.store a n v p).load a n = v.toNat % 2 ^ (8 * n) := by
  refine Memory.load_of_bytes _ _ _ _ fun i hi => ?_
  rw [Memory.store, Memory.byte_write, bytesOf_length, if_pos (by omega), show a + i - a = i by omega]
/-- Two memories whose bytes agree on a range load alike there. -/
theorem Memory.load_congr {m k : Memory} {a : Nat} (n : Nat) (h : ∀ i, i < n → m.byte (a + i) = k.byte (a + i)) :
    m.load a n = k.load a n := by
  induction n generalizing a with
  | zero => rfl
  | succ n ih =>
    rw [Memory.load, Memory.load, show m.byte a = k.byte a from h 0 (by omega),
      ih fun i hi => by rw [show a + 1 + i = a + (i + 1) by omega]; exact h (i + 1) (by omega)]
/-- A load outside a store reads what was there. -/
theorem Memory.load_store_other (m : Memory) {a n b k : Nat} (v : Word) (p : Bool) (h : b + k ≤ a ∨ a + n ≤ b) :
    (m.store a n v p).load b k = m.load b k :=
  Memory.load_congr k fun i hi => Memory.byte_store_other m v p (by omega)

/-! ### Canonical form -/

theorem Memory.wf_setByte {m : Memory} (a : Nat) (b : Byte) (h : m.wf = true) : (m.setByte a b).wf = true := by
  simp only [Memory.wf, Bool.and_eq_true] at h ⊢; exact ⟨mwf_mset a b h.1, h.2⟩
theorem Memory.wf_setBad {m : Memory} (w : Nat) (b : Bool) (h : m.wf = true) : (m.setBad w b).wf = true := by
  simp only [Memory.wf, Bool.and_eq_true] at h ⊢; exact ⟨h.1, mwf_mset w b h.2⟩
theorem Memory.wf_putBytes {m : Memory} (a : Nat) (bs : List Byte) (h : m.wf = true) : (m.putBytes a bs).wf = true := by
  induction bs generalizing m a with
  | nil => exact h
  | cons b bs ih => exact ih (a + 1) (Memory.wf_setByte a b h)
theorem Memory.wf_mark {m : Memory} (a n : Nat) (p : Bool) (ws : List Nat) (h : m.wf = true) :
    (m.mark a n p ws).wf = true := by
  induction ws generalizing m with
  | nil => exact h
  | cons w ws ih =>
    refine ih ?_
    split
    · exact Memory.wf_setBad w true h
    · split
      · exact Memory.wf_setBad w false h
      · exact h
theorem Memory.wf_write {m : Memory} (a : Nat) (bs : List Byte) (p : Bool) (h : m.wf = true) : (m.write a bs p).wf = true :=
  Memory.wf_mark a _ p _ (Memory.wf_putBytes a bs h)
theorem Memory.wf_store {m : Memory} (a n : Nat) (v : Word) (p : Bool) (h : m.wf = true) : (m.store a n v p).wf = true :=
  Memory.wf_write a _ p h
theorem Memory.wf_writes {m : Memory} (ws : List Wr) (h : m.wf = true) : (m.writes ws).wf = true := by
  induction ws generalizing m with
  | nil => exact h
  | cons w ws ih => exact ih (Memory.wf_store w.addr w.size w.val w.poison h)
theorem Memory.wf_atomic {m : Memory} (a op size : Nat) (o : Word) (h : m.wf = true) : (m.atomic a op size o).1.wf = true := by
  simp only [Memory.atomic]; split
  · exact h
  · exact Memory.wf_store _ _ _ _ h
theorem Memory.wf_packet {m : Memory} (a op size : Nat) (o : Datum) (h : m.wf = true) : (m.packet a op size o).1.wf = true := by
  simp only [Memory.packet]; split
  · exact Memory.wf_setBad _ _ h
  · exact Memory.wf_atomic _ _ _ _ h
theorem Memory.wf_cas {m : Memory} (a size : Nat) (c n : Word) (h : m.wf = true) : (m.cas a size c n).1.wf = true := by
  simp only [Memory.cas]; split
  · exact Memory.wf_store _ _ _ _ h
  · exact h
theorem Memory.wf_count {m : Memory} (a : Nat) (d : Int) (h : m.wf = true) : (m.count a d).wf = true :=
  Memory.wf_store _ _ _ _ h
theorem Memory.wf_arrange {m : Memory} (base top kind : Nat) (r : ChangeRec) (h : m.wf = true) :
    (m.arrange base top kind r).1.wf = true := by
  unfold Memory.arrange
  cases m.caplog base top with
  | none => exact h
  | some c =>
    dsimp only
    generalize m.search base (2 ^ c) (arrangeHash r.key c) _ r (2 ^ c) 0 _ = f
    generalize m.mult base = q
    have hs : ∀ {m : Memory} (a n : Nat) (v : Word), m.wf = true → (m.store a n v false).wf = true :=
      fun a n v h => Memory.wf_store a n v false h
    have hc : ∀ {m : Memory} (a : Nat) (d : Int), m.wf = true → (m.count a d).wf = true := fun a d h => Memory.wf_count a d h
    split
    · exact h
    · split
      · exact h
      · exact h
      · split
        · exact h
        · split
          · exact hc _ _ (hc _ _ (hs _ _ _ h))
          · exact hs _ _ _ h
      · split
        · exact h
        · split
          · exact h
          · dsimp only
            split
            · exact hc _ _ (hc _ _ (hs _ _ _ (hs _ _ _ (hs _ _ _ (hs _ _ _ (hs _ _ _ h))))))
            · exact hc _ _ (hs _ _ _ (hs _ _ _ (hs _ _ _ (hs _ _ _ (hs _ _ _ h)))))
theorem Memory.wf_claim {m : Memory} (pa : Nat) (w : BitVec 32) (h : m.wf = true) : (m.claim pa w).wf = true :=
  Memory.wf_store _ _ _ _ (Memory.wf_store _ _ _ _ (Memory.wf_store _ _ _ _ h))
theorem Memory.wf_recount {m : Memory} (pa : Nat) (w : BitVec 32) (d : Int) (h : m.wf = true) : (m.recount pa w d).wf = true := by
  unfold Memory.recount; split
  · exact Memory.wf_store _ _ _ _ h
  · exact h
theorem Memory.wf_setLost {m : Memory} (pa : Nat) (w : BitVec 32) (h : m.wf = true) : (m.setLost pa w).wf = true := by
  unfold Memory.setLost; split
  · exact Memory.wf_store _ _ _ _ h
  · exact h
theorem Memory.wf_wipe {m : Memory} (a n : Nat) (h : m.wf = true) : (m.wipe a n).wf = true := by
  simp only [Memory.wf, Bool.and_eq_true] at h ⊢; exact ⟨mwf_filter _ h.1, mwf_filter _ h.2⟩
/-- The memories of a core keep their form when one of its stores is performed. -/
theorem Core.wf_writes {k : Core} (ws : List Wr) (h : k.mem.wf = true) : (k.writes ws).mem.wf = true := by
  induction ws generalizing k with
  | nil => exact h
  | cons w ws ih =>
    unfold Core.writes; split
    · exact ih (Memory.wf_store _ _ _ _ h)
    · exact ih h

/-! ### All memories of a state -/

theorem State.memWf_iff (s : State) : s.memWf = true ↔
    s.mem.wf = true ∧ (∀ e ∈ s.cores, e.2.mem.wf = true) ∧ (∀ e ∈ s.ctx.savedCores, e.2.mem.wf = true) ∧
      ∀ e ∈ s.twins, e.2.follower.mem.wf = true ∧ e.2.base.mem.wf = true ∧ e.2.otherBase.mem.wf = true := by
  simp [State.memWf, and_assoc]
/-- Every core of a state in canonical form has its memory in canonical form; an unlisted one is empty. -/
theorem State.memWf_core {s : State} (h : s.memWf = true) (c : Nat) : (s.core c).mem.wf = true := by
  have hc := ((State.memWf_iff s).1 h).2.1
  unfold State.core
  generalize s.cores = m at hc
  induction m with
  | nil => rfl
  | cons e m ih =>
    obtain ⟨k, v⟩ := e
    simp only [mget]
    split
    · exact hc (k, v) List.mem_cons_self
    · exact ih fun e he => hc e (List.mem_cons_of_mem _ he)
/-- A change of a core that leaves its memory in canonical form leaves all memories so. -/
theorem State.memWf_setCore {s : State} (c : Nat) {k : Core} (h : s.memWf = true) (hk : k.mem.wf = true) :
    (s.setCore c k).memWf = true := by
  rw [State.memWf_iff] at h ⊢
  refine ⟨h.1, fun e he => ?_, h.2.2⟩
  rcases mem_mput he with rfl | he
  · exact hk
  · exact h.2.1 e he
theorem State.memWf_modCore {s : State} (c : Nat) {f : Core → Core} (h : s.memWf = true)
    (hf : ∀ k : Core, k.mem.wf = true → (f k).mem.wf = true) : (s.modCore c f).memWf = true :=
  State.memWf_setCore c h (hf _ (State.memWf_core h c))
theorem State.memWf_modMe {s : State} {f : Core → Core} (h : s.memWf = true)
    (hf : ∀ k : Core, k.mem.wf = true → (f k).mem.wf = true) : (s.modMe f).memWf = true := State.memWf_modCore s.cur h hf
theorem State.memWf_modGang {s : State} (f : Gang → Gang) (h : s.memWf = true) : (s.modGang f).memWf = true :=
  State.memWf_modMe (f := (·.modGang f)) h fun _ hk => hk
theorem State.memWf_closing {s : State} (h : s.memWf = true) : s.closing.memWf = true := by
  unfold State.closing; split
  · exact h
  · exact State.memWf_modMe h fun _ hk => hk
theorem State.memWf_writeG {s : State} (n : BitVec 4) (v : Word) (p : Bool) (h : s.memWf = true) :
    (s.writeG n v p).memWf = true := by
  refine State.memWf_modMe h fun k hk => ?_
  unfold Core.writeG; split
  · exact hk
  · split <;> exact hk
theorem State.memWf_wake {s : State} (h : s.memWf = true) : s.wake.memWf = true := by
  rw [State.memWf_iff] at h ⊢
  refine ⟨h.1, fun e he => ?_, h.2.2⟩
  obtain ⟨x, hx, rfl⟩ := List.mem_map.1 he
  exact h.2.1 x hx
theorem State.memWf_retire {s : State} (n : Option (BitVec 32)) (h : s.memWf = true) : (s.retire n).memWf = true :=
  State.memWf_modMe h fun _ hk => hk
@[simp] theorem State.memWf_push (s : State) (e : Instr) : (s.push e).memWf = s.memWf := rfl
@[simp] theorem State.memWf_fresh (s : State) : s.fresh.memWf = s.memWf := rfl
@[simp] theorem State.memWf_tell (s : State) (a b : Nat) (w : Word) : (s.tell a b w).memWf = s.memWf := rfl
@[simp] theorem State.memWf_record (s : State) (a b c d : Nat) (ws : List Word) : (s.record a b c d ws).memWf = s.memWf := rfl
@[simp] theorem State.memWf_recordCore (s : State) (c n : Nat) (ws : List Word) : (s.recordCore c n ws).memWf = s.memWf := by
  unfold State.recordCore; split <;> rfl
@[simp] theorem State.memWf_freeze (s : State) (a b : Nat) : (s.freeze a b).memWf = s.memWf := rfl
theorem State.memWf_levelTwo {s : State} (w : Nat) (c : Cause) (h : s.memWf = true) : (s.levelTwo w c).memWf = true := by
  have h0 := State.memWf_modMe (f := fun k => if w = 3 then { k with stopped := true }
    else { k with stopped := true, trapCause := BitVec.ofNat 16 (c.code * 256 + c.sub), trapInfo := c.info, trapLanes := c.lanes })
    h fun _ hk => by split <;> exact hk
  unfold State.levelTwo
  simp only
  split <;> split <;> simpa using h0
theorem State.memWf_enterTrap {s : State} (i : Option Nat) (c : Cause) (h : s.memWf = true) : (s.enterTrap i c).memWf = true := by
  have h0 : (s.modMe (·.enter i c)).memWf = true := State.memWf_modMe h fun _ hk => hk
  unfold State.enterTrap; split <;> simpa using h0
/-- Taking a trap keeps every memory as it is. -/
theorem State.memWf_takeTrap {s : State} (c : Cause) (h : s.memWf = true) : (s.takeTrap c).memWf = true := by
  unfold State.takeTrap; repeat' split
  all_goals first | exact State.memWf_levelTwo _ c h | exact State.memWf_enterTrap _ c h
theorem State.memWf_clearStep {s : State} (h : s.memWf = true) : s.clearStep.memWf = true := by
  unfold State.clearStep
  split
  · exact h
  · exact State.memWf_modGang _ h
theorem State.memWf_takeAfter {s : State} (cs : List Cause) (h : s.memWf = true) : (s.takeAfter cs).memWf = true := by
  cases cs with
  | nil => exact h
  | cons c cs =>
    have here : (if s.defers then s.modGang fun g => { g with causes := g.causes ++ c :: cs }
        else (s.modGang fun g => { g with causes := g.causes ++ cs }).takeTrap c).memWf = true := by
      split
      · exact State.memWf_modGang _ h
      · exact State.memWf_takeTrap _ (State.memWf_modGang _ h)
    unfold State.takeAfter
    cases s.me.xfer with
    | none => exact here
    | some x =>
      show State.memWf (if x.left < 2 then _ else _) = true
      split
      · exact State.memWf_modMe h fun _ hk => hk
      · exact here
/-- The end of an instruction keeps every memory as its Operation left it. -/
theorem State.memWf_finish {s t : State} {o : Out} (hs : s.memWf = true) (h : s.finish o = .next t)
    (ho : match o with
      | .next u _ | .take u _ | .stay u | .wait u => u.memWf = true
      | .trap _ => True) : t.memWf = true := by
  cases o with
  | next u a => cases h; exact State.memWf_takeAfter _ (State.memWf_clearStep (State.memWf_retire _ ho))
  | take u a => cases h; exact State.memWf_takeAfter _ (State.memWf_clearStep (State.memWf_retire _ ho))
  | stay u => cases h; exact State.memWf_modMe ho fun _ hk => by split <;> exact hk
  | wait u =>
    cases h
    refine State.memWf_modGang _ ?_
    split
    · exact State.memWf_closing ho
    · exact ho
  | trap c => cases h; exact State.memWf_takeTrap c hs
/-- Memory right after reset is in its canonical form. -/
theorem State.reset_memWf : State.reset.memWf = true := rfl

end Sys2Proof.Machine
end

