-- ==== Sys2Proof/Laws/PerInstr.lean ====
section
/-! SUPPORT. Decoding an encoded well-formed instruction gives it back: the family Encodes, one lemma per constructor. -/
namespace Sys2Proof.Laws
set_option Elab.async false
/-- Decoding the encoding of a well-formed instruction gives that instruction (events of the hardware have none). -/
def Encodes.Statement (i : Instr) : Prop :=
  ∀ n w, encode i = some (n, w) → WellFormed i → decodeTableWord n w = some i
theorem fld_eq {w lo n : Nat} (x : BitVec n) (h : w / 2 ^ lo % 2 ^ n = x.toNat) : fld w lo n = x := by
  apply BitVec.eq_of_toNat_eq; rw [← h]; simp [fld]
theorem read_word {o : Option (Nat × Nat)} {m u n w : Nat} (h : o = some (n, w)) (k : o = some (m, u) := by rfl) :
    m = n ∧ u = w := by
  cases h.symm.trans k; exact ⟨rfl, rfl⟩
theorem broken_nil (w : Nat) : brokenBits w [] = none := rfl
theorem broken_cons {w hi lo v sub : Nat} {cs : List (Nat × Nat × Nat × Nat)} (h : bits w hi lo = v)
    (t : brokenBits w cs = none) : brokenBits w ((hi, lo, v, sub) :: cs) = none := by
  simp [brokenBits, h, t, leastSub]
theorem decode_of_row32 {w : Nat} {i : Instr} {f : List (Nat × Nat × Nat × Nat)} (h1 : 2147483648 ≤ w)
    (h2 : w < 4294967296) (hr : row32 w = (i, f)) (hb : brokenBits w f = none) (hw : WellFormed i) :
    decodeTableWord 32 w = some i := by
  have a : (BitVec.ofNat 16 (w / 65536)).toNat = w / 65536 := by rw [BitVec.toNat_ofNat]; omega
  have b : (BitVec.ofNat 16 w).toNat = w % 65536 := by rw [BitVec.toNat_ofNat]
  have c : w / 65536 * 65536 + w % 65536 = w := by omega
  have d : ¬ w / 65536 < 32768 := by omega
  unfold WellFormed at hw
  simp [decodeTableWord, decode, a, c, d, decode32, hr, readRow, hb, hw, leastSub]
theorem decode_of_row16 {w : Nat} {i : Instr} {f : List (Nat × Nat × Nat × Nat)} (h2 : w < 32768)
    (hr : row16 w = (i, f)) (hb : brokenBits w f = none) (hw : WellFormed i) : decodeTableWord 16 w = some i := by
  have a : (BitVec.ofNat 16 w).toNat = w := by rw [BitVec.toNat_ofNat]; omega
  unfold WellFormed at hw
  simp [decodeTableWord, decode, a, h2, decode16, hr, readRow, hb, hw, leastSub]
theorem row32_0 {w j : Nat} (h : bits w 30 27 = 0) (h2 : bits w 26 23 = j) : row32 w = row0 w j := by
  rw [row32, h, h2]; rfl
theorem row32_1 {w j : Nat} (h : bits w 30 27 = 1) (h2 : bits w 26 23 = j) : row32 w = row1 w j := by
  rw [row32, h, h2]; rfl
theorem row32_2 {w j : Nat} (h : bits w 30 27 = 2) (h2 : bits w 26 23 = j) : row32 w = row2 w j := by
  rw [row32, h, h2]; rfl
theorem row32_3 {w j : Nat} (h : bits w 30 27 = 3) (h2 : bits w 26 23 = j) : row32 w = row3 w j := by
  rw [row32, h, h2]; rfl
theorem row32_4 {w j : Nat} (h : bits w 30 27 = 4) (h2 : bits w 26 23 = j) : row32 w = row4 w j := by
  rw [row32, h, h2]; rfl
theorem row32_5 {w j : Nat} (h : bits w 30 27 = 5) (h2 : bits w 26 23 = j) : row32 w = row5 w j := by
  rw [row32, h, h2]; rfl
theorem row32_6 {w j : Nat} (h : bits w 30 27 = 6) (h2 : bits w 26 23 = j) : row32 w = row6 w j := by
  rw [row32, h, h2]; rfl
theorem row32_7 {w j : Nat} (h : bits w 30 27 = 7) (h2 : bits w 26 23 = j) : row32 w = row7 w j := by
  rw [row32, h, h2]; rfl
theorem row32_8 {w j : Nat} (h : bits w 30 27 = 8) (h2 : bits w 26 23 = j) : row32 w = row8 w j := by
  rw [row32, h, h2]; rfl
theorem row32_9 {w j : Nat} (h : bits w 30 27 = 9) (h2 : bits w 26 23 = j) : row32 w = row9 w j := by
  rw [row32, h, h2]; rfl
theorem row32_A {w j : Nat} (h : bits w 30 27 = 10) (h2 : bits w 26 23 = j) : row32 w = rowA w j := by
  rw [row32, h, h2]; rfl
theorem row32_B {w j : Nat} (h : bits w 30 27 = 11) (h2 : bits w 26 23 = j) : row32 w = rowB w j := by
  rw [row32, h, h2]; rfl
theorem row32_C {w j : Nat} (h : bits w 30 27 = 12) (h2 : bits w 26 23 = j) : row32 w = rowC w j := by
  rw [row32, h, h2]; rfl
theorem row32_D {w j : Nat} (h : bits w 30 27 = 13) (h2 : bits w 26 23 = j) : row32 w = rowD w j := by
  rw [row32, h, h2]; rfl
theorem row32_E {w j : Nat} (h : bits w 30 27 = 14) (h2 : bits w 26 23 = j) : row32 w = rowE w j := by
  rw [row32, h, h2]; rfl
theorem row32_F {w j : Nat} (h : bits w 30 27 = 15) (h2 : bits w 26 23 = j) : row32 w = rowF w j := by
  rw [row32, h, h2]; rfl
theorem Encodes.delaySlotAnnul : Statement .delaySlotAnnul := fun _ _ h => nomatch h
theorem Encodes.timerExpiry : ∀ x0, Statement (.timerExpiry x0) :=
  fun _ _ _ h => nomatch h
theorem Encodes.trapEntry : ∀ x0, Statement (.trapEntry x0) :=
  fun _ _ _ h => nomatch h
theorem Encodes.transferPacking : Statement .transferPacking := fun _ _ h => nomatch h
theorem Encodes.carryMessageSend : ∀ x0 x1, Statement (.carryMessageSend x0 x1) :=
  fun _ _ _ _ h => nomatch h
theorem Encodes.spill : ∀ x0 x1, Statement (.spill x0 x1) :=
  fun _ _ _ _ h => nomatch h
theorem Encodes.grantRequest : ∀ x0, Statement (.grantRequest x0) :=
  fun _ _ _ h => nomatch h
theorem Encodes.grant : ∀ x0, Statement (.grant x0) :=
  fun _ _ _ h => nomatch h
theorem Encodes.revocation : ∀ x0, Statement (.revocation x0) :=
  fun _ _ _ h => nomatch h
theorem Encodes.refusal : ∀ x0, Statement (.refusal x0) :=
  fun _ _ _ h => nomatch h
theorem Encodes.carryArrival : ∀ x0, Statement (.carryArrival x0) :=
  fun _ _ _ h => nomatch h
theorem Encodes.dataMessageArrival : ∀ x0, Statement (.dataMessageArrival x0) :=
  fun _ _ _ h => nomatch h
theorem Encodes.changeMessageArrival : ∀ x0, Statement (.changeMessageArrival x0) :=
  fun _ _ _ h => nomatch h
theorem Encodes.ringDrain : ∀ x0 x1, Statement (.ringDrain x0 x1) :=
  fun _ _ _ _ h => nomatch h
theorem Encodes.rebindingTakesEffect : ∀ x0 x1, Statement (.rebindingTakesEffect x0 x1) :=
  fun _ _ _ _ h => nomatch h
theorem Encodes.firing : ∀ x0 x1, Statement (.firing x0 x1) :=
  fun _ _ _ _ h => nomatch h
theorem Encodes.frameRelease : ∀ x0 x1, Statement (.frameRelease x0 x1) :=
  fun _ _ _ _ h => nomatch h
theorem Encodes.loadReply : ∀ x0 x1 x2, Statement (.loadReply x0 x1 x2) :=
  fun _ _ _ _ _ h => nomatch h
theorem Encodes.forwardedReply : ∀ x0 x1 x2 x3, Statement (.forwardedReply x0 x1 x2 x3) :=
  fun _ _ _ _ _ _ h => nomatch h
theorem Encodes.forwardingEntryTimeout : ∀ x0 x1, Statement (.forwardingEntryTimeout x0 x1) :=
  fun _ _ _ _ h => nomatch h
theorem Encodes.storeAcknowledgement : ∀ x0 x1, Statement (.storeAcknowledgement x0 x1) :=
  fun _ _ _ _ h => nomatch h
theorem Encodes.remoteAccess : ∀ x0, Statement (.remoteAccess x0) :=
  fun _ _ _ h => nomatch h
theorem Encodes.sliceOperation : ∀ x0, Statement (.sliceOperation x0) :=
  fun _ _ _ h => nomatch h
theorem Encodes.chainedPacket : ∀ x0, Statement (.chainedPacket x0) :=
  fun _ _ _ h => nomatch h
theorem Encodes.futureRetry : ∀ x0 x1, Statement (.futureRetry x0 x1) :=
  fun _ _ _ _ h => nomatch h
theorem Encodes.counterUpdateRetry : ∀ x0 x1, Statement (.counterUpdateRetry x0 x1) :=
  fun _ _ _ _ h => nomatch h
theorem Encodes.readyQueueSend : ∀ x0, Statement (.readyQueueSend x0) :=
  fun _ _ _ h => nomatch h
theorem Encodes.counterEvent : ∀ x0 x1, Statement (.counterEvent x0 x1) :=
  fun _ _ _ _ h => nomatch h
theorem Encodes.barrierArrival : ∀ x0 x1 x2 x3, Statement (.barrierArrival x0 x1 x2 x3) :=
  fun _ _ _ _ _ _ h => nomatch h
theorem Encodes.barrierCompletion : ∀ x0 x1, Statement (.barrierCompletion x0 x1) :=
  fun _ _ _ _ h => nomatch h
theorem Encodes.timelineWrite : ∀ x0, Statement (.timelineWrite x0) :=
  fun _ _ _ h => nomatch h
theorem Encodes.timelineRelease : ∀ x0 x1, Statement (.timelineRelease x0 x1) :=
  fun _ _ _ _ h => nomatch h
theorem Encodes.copyUnit : ∀ x0 x1, Statement (.copyUnit x0 x1) :=
  fun _ _ _ _ h => nomatch h
theorem Encodes.copyCompletion : ∀ x0 x1, Statement (.copyCompletion x0 x1) :=
  fun _ _ _ _ h => nomatch h
theorem Encodes.checkedChunkVerify : ∀ x0 x1, Statement (.checkedChunkVerify x0 x1) :=
  fun _ _ _ _ h => nomatch h
theorem Encodes.chunkRecordDrop : ∀ x0 x1, Statement (.chunkRecordDrop x0 x1) :=
  fun _ _ _ _ h => nomatch h
theorem Encodes.matrixArbitration : ∀ x0, Statement (.matrixArbitration x0) :=
  fun _ _ _ h => nomatch h
theorem Encodes.matrixKStep : ∀ x0, Statement (.matrixKStep x0) :=
  fun _ _ _ h => nomatch h
theorem Encodes.matrixDrain : ∀ x0, Statement (.matrixDrain x0) :=
  fun _ _ _ h => nomatch h
theorem Encodes.matrixSetContext : ∀ x0, Statement (.matrixSetContext x0) :=
  fun _ _ _ h => nomatch h
theorem Encodes.matrixFence : ∀ x0, Statement (.matrixFence x0) :=
  fun _ _ _ h => nomatch h
theorem Encodes.matrixCompletion : ∀ x0, Statement (.matrixCompletion x0) :=
  fun _ _ _ h => nomatch h
theorem Encodes.matrixWindowPush : ∀ x0 x1 x2 x3, Statement (.matrixWindowPush x0 x1 x2 x3) :=
  fun _ _ _ _ _ _ h => nomatch h
theorem Encodes.ringWindowPush : ∀ x0 x1 x2 x3, Statement (.ringWindowPush x0 x1 x2 x3) :=
  fun _ _ _ _ _ _ h => nomatch h
theorem Encodes.translationWalk : ∀ x0 x1, Statement (.translationWalk x0 x1) :=
  fun _ _ _ _ h => nomatch h
theorem Encodes.translationFault : ∀ x0 x1, Statement (.translationFault x0 x1) :=
  fun _ _ _ _ h => nomatch h
theorem Encodes.invalidationAck : ∀ x0 x1, Statement (.invalidationAck x0 x1) :=
  fun _ _ _ _ h => nomatch h
theorem Encodes.noticePost : ∀ x0, Statement (.noticePost x0) :=
  fun _ _ _ h => nomatch h
theorem Encodes.watchdogExpiry : ∀ x0, Statement (.watchdogExpiry x0) :=
  fun _ _ _ h => nomatch h
theorem Encodes.derrickSelection : Statement .derrickSelection := fun _ _ h => nomatch h
theorem Encodes.launchDone : ∀ x0 x1, Statement (.launchDone x0 x1) :=
  fun _ _ _ _ h => nomatch h
theorem Encodes.launchQueueControl : ∀ x0 x1, Statement (.launchQueueControl x0 x1) :=
  fun _ _ _ _ h => nomatch h
theorem Encodes.contextStart : ∀ x0, Statement (.contextStart x0) :=
  fun _ _ _ h => nomatch h
theorem Encodes.preemption : Statement .preemption := fun _ _ h => nomatch h
theorem Encodes.contextRestore : Statement .contextRestore :=
  fun _ _ h => nomatch h
theorem Encodes.outboundRecordSend : ∀ x0 x1, Statement (.outboundRecordSend x0 x1) :=
  fun _ _ _ _ h => nomatch h
theorem Encodes.changeSliceQueueSend : ∀ x0, Statement (.changeSliceQueueSend x0) :=
  fun _ _ _ h => nomatch h
theorem Encodes.changeFiringEnd : ∀ x0 x1, Statement (.changeFiringEnd x0 x1) :=
  fun _ _ _ _ h => nomatch h
theorem Encodes.changeRecordLost : ∀ x0 x1, Statement (.changeRecordLost x0 x1) :=
  fun _ _ _ _ h => nomatch h
theorem Encodes.quiescenceWatch : ∀ x0 x1 x2, Statement (.quiescenceWatch x0 x1 x2) :=
  fun _ _ _ _ _ h => nomatch h
theorem Encodes.scrub : ∀ x0 x1, Statement (.scrub x0 x1) :=
  fun _ _ _ _ h => nomatch h
theorem Encodes.retentionEntry : ∀ x0, Statement (.retentionEntry x0) :=
  fun _ _ _ h => nomatch h
theorem Encodes.retentionExit : ∀ x0, Statement (.retentionExit x0) :=
  fun _ _ _ h => nomatch h
theorem Encodes.pairIntervalClose : ∀ x0, Statement (.pairIntervalClose x0) :=
  fun _ _ _ h => nomatch h
theorem Encodes.containment : ∀ x0 x1, Statement (.containment x0 x1) :=
  fun _ _ _ _ h => nomatch h
theorem Encodes.containmentReset : ∀ x0, Statement (.containmentReset x0) :=
  fun _ _ _ h => nomatch h
theorem Encodes.fatalError : ∀ x0 x1 x2, Statement (.fatalError x0 x1 x2) :=
  fun _ _ _ _ _ h => nomatch h
theorem Encodes.recorderUnfreeze : ∀ x0, Statement (.recorderUnfreeze x0) :=
  fun _ _ _ h => nomatch h
theorem Encodes.frameBoundary : Statement .frameBoundary := fun _ _ h => nomatch h
theorem Encodes.packetAdmission : ∀ x0 x1, Statement (.packetAdmission x0 x1) :=
  fun _ _ _ _ h => nomatch h
theorem Encodes.multicastFork : ∀ x0, Statement (.multicastFork x0) :=
  fun _ _ _ h => nomatch h
theorem Encodes.multicastResidualSend : ∀ x0, Statement (.multicastResidualSend x0) :=
  fun _ _ _ h => nomatch h
theorem Encodes.refusedTraffic : ∀ x0, Statement (.refusedTraffic x0) :=
  fun _ _ _ h => nomatch h
theorem Encodes.flitReceive : ∀ x0 x1, Statement (.flitReceive x0 x1) :=
  fun _ _ _ _ h => nomatch h
theorem Encodes.negativeAcknowledgement : ∀ x0 x1, Statement (.negativeAcknowledgement x0 x1) :=
  fun _ _ _ _ h => nomatch h
theorem Encodes.creditReturn : ∀ x0 x1 x2, Statement (.creditReturn x0 x1 x2) :=
  fun _ _ _ _ _ h => nomatch h
theorem Encodes.frameMark : ∀ x0, Statement (.frameMark x0) :=
  fun _ _ _ h => nomatch h
theorem Encodes.portRetrain : ∀ x0, Statement (.portRetrain x0) :=
  fun _ _ _ h => nomatch h
theorem Encodes.portTraining : ∀ x0 x1, Statement (.portTraining x0 x1) :=
  fun _ _ _ _ h => nomatch h
theorem Encodes.portTrainingTimeout : ∀ x0, Statement (.portTrainingTimeout x0) :=
  fun _ _ _ h => nomatch h
theorem Encodes.throttleUpdate : ∀ x0, Statement (.throttleUpdate x0) :=
  fun _ _ _ h => nomatch h
theorem Encodes.thermalTrip : ∀ x0, Statement (.thermalTrip x0) :=
  fun _ _ _ h => nomatch h
theorem Encodes.powerOn : Statement .powerOn := fun _ _ h => nomatch h
theorem Encodes.pcieReset : Statement .pcieReset := fun _ _ h => nomatch h
theorem Encodes.reset : Statement .reset := fun _ _ h => nomatch h
theorem Encodes.hostRegisterWrite : ∀ x0 x1, Statement (.hostRegisterWrite x0 x1) :=
  fun _ _ _ _ h => nomatch h
theorem Encodes.ring : ∀ x0 x1, Statement (.ring x0 x1) :=
  fun _ _ _ _ h => nomatch h
theorem Encodes.doorbellAppendDone : ∀ x0, Statement (.doorbellAppendDone x0) :=
  fun _ _ _ h => nomatch h
theorem Encodes.control : ∀ x0 x1 x2, Statement (.control x0 x1 x2) :=
  fun _ _ _ _ _ h => nomatch h
theorem Encodes.memoryWindowAccess : ∀ x0 x1 x2 x3, Statement (.memoryWindowAccess x0 x1 x2 x3) :=
  fun _ _ _ _ _ _ h => nomatch h
theorem Encodes.mailboxRequest : Statement .mailboxRequest := fun _ _ h => nomatch h
theorem Encodes.partitionCreate : ∀ x0, Statement (.partitionCreate x0) :=
  fun _ _ _ h => nomatch h
theorem Encodes.partitionDestroy : ∀ x0, Statement (.partitionDestroy x0) :=
  fun _ _ _ h => nomatch h
theorem Encodes.imageLoad : ∀ x0 x1, Statement (.imageLoad x0 x1) :=
  fun _ _ _ _ h => nomatch h
theorem Encodes.doorbellAssign : ∀ x0 x1, Statement (.doorbellAssign x0 x1) :=
  fun _ _ _ _ h => nomatch h
theorem Encodes.windowSet : ∀ x0 x1, Statement (.windowSet x0 x1) :=
  fun _ _ _ _ h => nomatch h
theorem Encodes.preempt : ∀ x0, Statement (.preempt x0) :=
  fun _ _ _ h => nomatch h
theorem Encodes.restore : ∀ x0, Statement (.restore x0) :=
  fun _ _ _ h => nomatch h
theorem Encodes.debug : ∀ x0, Statement (.debug x0) :=
  fun _ _ _ h => nomatch h
theorem Encodes.spdm : ∀ x0 x1, Statement (.spdm x0 x1) :=
  fun _ _ _ _ h => nomatch h
theorem Encodes.notice : ∀ x0, Statement (.notice x0) :=
  fun _ _ _ h => nomatch h
theorem Encodes.port : ∀ x0 x1 x2, Statement (.port x0 x1 x2) :=
  fun _ _ _ _ _ h => nomatch h
theorem Encodes.power : ∀ x0 x1 x2 x3, Statement (.power x0 x1 x2 x3) :=
  fun _ _ _ _ _ _ h => nomatch h
theorem Encodes.supervisorResponse : ∀ x0 x1, Statement (.supervisorResponse x0 x1) :=
  fun _ _ _ _ h => nomatch h
theorem Encodes.getVersion : ∀ x0, Statement (.getVersion x0) :=
  fun _ _ _ h => nomatch h
theorem Encodes.getCapabilities : ∀ x0, Statement (.getCapabilities x0) :=
  fun _ _ _ h => nomatch h
theorem Encodes.negotiateAlgorithms : ∀ x0, Statement (.negotiateAlgorithms x0) :=
  fun _ _ _ h => nomatch h
theorem Encodes.getDigests : ∀ x0, Statement (.getDigests x0) :=
  fun _ _ _ h => nomatch h
theorem Encodes.getCertificate : ∀ x0 x1 x2, Statement (.getCertificate x0 x1 x2) :=
  fun _ _ _ _ _ h => nomatch h
theorem Encodes.challenge : ∀ x0 x1, Statement (.challenge x0 x1) :=
  fun _ _ _ _ h => nomatch h
theorem Encodes.getMeasurements : ∀ x0 x1, Statement (.getMeasurements x0 x1) :=
  fun _ _ _ _ h => nomatch h
theorem Encodes.ikitikHalt : ∀ x0, Statement (.ikitikHalt x0) :=
  fun _ _ _ h => nomatch h
theorem Encodes.ikitikResume : ∀ x0, Statement (.ikitikResume x0) :=
  fun _ _ _ h => nomatch h
theorem Encodes.ikitikStep : ∀ x0, Statement (.ikitikStep x0) :=
  fun _ _ _ h => nomatch h
theorem Encodes.steplane : ∀ x0, Statement (.steplane x0) :=
  fun _ _ _ h => nomatch h
theorem Encodes.setpoint : ∀ x0, Statement (.setpoint x0) :=
  fun _ _ _ h => nomatch h
theorem Encodes.readgang : ∀ x0, Statement (.readgang x0) :=
  fun _ _ _ h => nomatch h
theorem Encodes.readcore : ∀ x0, Statement (.readcore x0) :=
  fun _ _ _ h => nomatch h
theorem Encodes.writereg : ∀ x0, Statement (.writereg x0) :=
  fun _ _ _ h => nomatch h
theorem Encodes.readarrivals : ∀ x0, Statement (.readarrivals x0) :=
  fun _ _ _ h => nomatch h
theorem Encodes.readmem : ∀ x0, Statement (.readmem x0) :=
  fun _ _ _ h => nomatch h
theorem Encodes.readrecorder : ∀ x0, Statement (.readrecorder x0) :=
  fun _ _ _ h => nomatch h
theorem Encodes.powerLoss : Statement .powerLoss := fun _ _ h => nomatch h
theorem Encodes.idleExpiry : ∀ x0, Statement (.idleExpiry x0) :=
  fun _ _ _ h => nomatch h
theorem Encodes.changePutRetry : ∀ x0 x1, Statement (.changePutRetry x0 x1) :=
  fun _ _ _ _ h => nomatch h
theorem Encodes.linkManagementInterval : ∀ x0, Statement (.linkManagementInterval x0) :=
  fun _ _ _ h => nomatch h
theorem Encodes.devstatRead : Statement .devstatRead :=
  fun _ _ h => nomatch h
theorem Encodes.directoryInvalidationAck : ∀ x0 x1, Statement (.directoryInvalidationAck x0 x1) :=
  fun _ _ _ _ h => nomatch h
theorem Encodes.recorderFreeze : ∀ x0, Statement (.recorderFreeze x0) :=
  fun _ _ _ h => nomatch h
theorem shape1 {o B w : Nat} {x0 : BitVec 4} {x1 : BitVec 4} {x2 : BitVec 4} (e : B + x0.toNat * 0x80000 + x1.toNat * 0x8000 + x2.toNat * 0x800 = w) (hb : B = 2147483648 + o * 8388608) (ho : o < 256) :
    2147483648 ≤ w ∧ w < 4294967296 ∧ bits w 30 27 = o / 16 ∧ bits w 26 23 = o % 16 ∧ fld w 19 4 = x0 ∧ fld w 15 4 = x1 ∧ fld w 11 4 = x2 ∧ brokenBits w [(10, 0, 0, 1)] = none := by
  have := x0.isLt
  have := x1.isLt
  have := x2.isLt
  exact ⟨by omega, by omega, by simp only [bits]; omega, by simp only [bits]; omega, fld_eq x0 (by omega), fld_eq x1 (by omega), fld_eq x2 (by omega), broken_cons (by simp only [bits]; omega) (broken_nil w)⟩
theorem Encodes.add : ∀ y_d y_a y_b, Statement (.add y_d y_a y_b) := by
  intro y_d y_a y_b n w h hw
  obtain ⟨rfl, e⟩ := read_word (u := 0x80000000 + y_d.toNat * 0x80000 + y_a.toNat * 0x8000 + y_b.toNat * 0x800) h
  obtain ⟨a, b, p, q, f0, f1, f2, k⟩ := shape1 (o := 0) e rfl (by decide)
  have hr : row32 w = row0 w 0 := row32_0 p q
  replace hr : row32 w = (.add (fld w 19 4) (fld w 15 4) (fld w 11 4), [(10, 0, 0, 1)]) := hr
  rw [f0, f1, f2] at hr
  exact decode_of_row32 a b hr k hw
theorem Encodes.sub : ∀ y_d y_a y_b, Statement (.sub y_d y_a y_b) := by
  intro y_d y_a y_b n w h hw
  obtain ⟨rfl, e⟩ := read_word (u := 0x80800000 + y_d.toNat * 0x80000 + y_a.toNat * 0x8000 + y_b.toNat * 0x800) h
  obtain ⟨a, b, p, q, f0, f1, f2, k⟩ := shape1 (o := 1) e rfl (by decide)
  have hr : row32 w = row0 w 1 := row32_0 p q
  replace hr : row32 w = (.sub (fld w 19 4) (fld w 15 4) (fld w 11 4), [(10, 0, 0, 1)]) := hr
  rw [f0, f1, f2] at hr
  exact decode_of_row32 a b hr k hw
theorem Encodes.mul : ∀ y_d y_a y_b, Statement (.mul y_d y_a y_b) := by
  intro y_d y_a y_b n w h hw
  obtain ⟨rfl, e⟩ := read_word (u := 0x81000000 + y_d.toNat * 0x80000 + y_a.toNat * 0x8000 + y_b.toNat * 0x800) h
  obtain ⟨a, b, p, q, f0, f1, f2, k⟩ := shape1 (o := 2) e rfl (by decide)
  have hr : row32 w = row0 w 2 := row32_0 p q
  replace hr : row32 w = (.mul (fld w 19 4) (fld w 15 4) (fld w 11 4), [(10, 0, 0, 1)]) := hr
  rw [f0, f1, f2] at hr
  exact decode_of_row32 a b hr k hw
theorem Encodes.mulhS64 : ∀ y_d y_a y_b, Statement (.mulhS64 y_d y_a y_b) := by
  intro y_d y_a y_b n w h hw
  obtain ⟨rfl, e⟩ := read_word (u := 0x81800000 + y_d.toNat * 0x80000 + y_a.toNat * 0x8000 + y_b.toNat * 0x800) h
  obtain ⟨a, b, p, q, f0, f1, f2, k⟩ := shape1 (o := 3) e rfl (by decide)
  have hr : row32 w = row0 w 3 := row32_0 p q
  replace hr : row32 w = (.mulhS64 (fld w 19 4) (fld w 15 4) (fld w 11 4), [(10, 0, 0, 1)]) := hr
  rw [f0, f1, f2] at hr
  exact decode_of_row32 a b hr k hw
theorem Encodes.mulhN64 : ∀ y_d y_a y_b, Statement (.mulhN64 y_d y_a y_b) := by
  intro y_d y_a y_b n w h hw
  obtain ⟨rfl, e⟩ := read_word (u := 0x82000000 + y_d.toNat * 0x80000 + y_a.toNat * 0x8000 + y_b.toNat * 0x800) h
  obtain ⟨a, b, p, q, f0, f1, f2, k⟩ := shape1 (o := 4) e rfl (by decide)
  have hr : row32 w = row0 w 4 := row32_0 p q
  replace hr : row32 w = (.mulhN64 (fld w 19 4) (fld w 15 4) (fld w 11 4), [(10, 0, 0, 1)]) := hr
  rw [f0, f1, f2] at hr
  exact decode_of_row32 a b hr k hw
theorem Encodes.divS64 : ∀ y_d y_a y_b, Statement (.divS64 y_d y_a y_b) := by
  intro y_d y_a y_b n w h hw
  obtain ⟨rfl, e⟩ := read_word (u := 0x82800000 + y_d.toNat * 0x80000 + y_a.toNat * 0x8000 + y_b.toNat * 0x800) h
  obtain ⟨a, b, p, q, f0, f1, f2, k⟩ := shape1 (o := 5) e rfl (by decide)
  have hr : row32 w = row0 w 5 := row32_0 p q
  replace hr : row32 w = (.divS64 (fld w 19 4) (fld w 15 4) (fld w 11 4), [(10, 0, 0, 1)]) := hr
  rw [f0, f1, f2] at hr
  exact decode_of_row32 a b hr k hw
theorem Encodes.divN64 : ∀ y_d y_a y_b, Statement (.divN64 y_d y_a y_b) := by
  intro y_d y_a y_b n w h hw
  obtain ⟨rfl, e⟩ := read_word (u := 0x83000000 + y_d.toNat * 0x80000 + y_a.toNat * 0x8000 + y_b.toNat * 0x800) h
  obtain ⟨a, b, p, q, f0, f1, f2, k⟩ := shape1 (o := 6) e rfl (by decide)
  have hr : row32 w = row0 w 6 := row32_0 p q
  replace hr : row32 w = (.divN64 (fld w 19 4) (fld w 15 4) (fld w 11 4), [(10, 0, 0, 1)]) := hr
  rw [f0, f1, f2] at hr
  exact decode_of_row32 a b hr k hw
theorem Encodes.remS64 : ∀ y_d y_a y_b, Statement (.remS64 y_d y_a y_b) := by
  intro y_d y_a y_b n w h hw
  obtain ⟨rfl, e⟩ := read_word (u := 0x83800000 + y_d.toNat * 0x80000 + y_a.toNat * 0x8000 + y_b.toNat * 0x800) h
  obtain ⟨a, b, p, q, f0, f1, f2, k⟩ := shape1 (o := 7) e rfl (by decide)
  have hr : row32 w = row0 w 7 := row32_0 p q
  replace hr : row32 w = (.remS64 (fld w 19 4) (fld w 15 4) (fld w 11 4), [(10, 0, 0, 1)]) := hr
  rw [f0, f1, f2] at hr
  exact decode_of_row32 a b hr k hw
theorem Encodes.remN64 : ∀ y_d y_a y_b, Statement (.remN64 y_d y_a y_b) := by
  intro y_d y_a y_b n w h hw
  obtain ⟨rfl, e⟩ := read_word (u := 0x84000000 + y_d.toNat * 0x80000 + y_a.toNat * 0x8000 + y_b.toNat * 0x800) h
  obtain ⟨a, b, p, q, f0, f1, f2, k⟩ := shape1 (o := 8) e rfl (by decide)
  have hr : row32 w = row0 w 8 := row32_0 p q
  replace hr : row32 w = (.remN64 (fld w 19 4) (fld w 15 4) (fld w 11 4), [(10, 0, 0, 1)]) := hr
  rw [f0, f1, f2] at hr
  exact decode_of_row32 a b hr k hw
theorem Encodes.and : ∀ y_d y_a y_b, Statement (.and y_d y_a y_b) := by
  intro y_d y_a y_b n w h hw
  obtain ⟨rfl, e⟩ := read_word (u := 0x84800000 + y_d.toNat * 0x80000 + y_a.toNat * 0x8000 + y_b.toNat * 0x800) h
  obtain ⟨a, b, p, q, f0, f1, f2, k⟩ := shape1 (o := 9) e rfl (by decide)
  have hr : row32 w = row0 w 9 := row32_0 p q
  replace hr : row32 w = (.and (fld w 19 4) (fld w 15 4) (fld w 11 4), [(10, 0, 0, 1)]) := hr
  rw [f0, f1, f2] at hr
  exact decode_of_row32 a b hr k hw
theorem Encodes.or : ∀ y_d y_a y_b, Statement (.or y_d y_a y_b) := by
  intro y_d y_a y_b n w h hw
  obtain ⟨rfl, e⟩ := read_word (u := 0x85000000 + y_d.toNat * 0x80000 + y_a.toNat * 0x8000 + y_b.toNat * 0x800) h
  obtain ⟨a, b, p, q, f0, f1, f2, k⟩ := shape1 (o := 10) e rfl (by decide)
  have hr : row32 w = row0 w 10 := row32_0 p q
  replace hr : row32 w = (.or (fld w 19 4) (fld w 15 4) (fld w 11 4), [(10, 0, 0, 1)]) := hr
  rw [f0, f1, f2] at hr
  exact decode_of_row32 a b hr k hw
theorem Encodes.xor : ∀ y_d y_a y_b, Statement (.xor y_d y_a y_b) := by
  intro y_d y_a y_b n w h hw
  obtain ⟨rfl, e⟩ := read_word (u := 0x85800000 + y_d.toNat * 0x80000 + y_a.toNat * 0x8000 + y_b.toNat * 0x800) h
  obtain ⟨a, b, p, q, f0, f1, f2, k⟩ := shape1 (o := 11) e rfl (by decide)
  have hr : row32 w = row0 w 11 := row32_0 p q
  replace hr : row32 w = (.xor (fld w 19 4) (fld w 15 4) (fld w 11 4), [(10, 0, 0, 1)]) := hr
  rw [f0, f1, f2] at hr
  exact decode_of_row32 a b hr k hw
theorem Encodes.andn : ∀ y_d y_a y_b, Statement (.andn y_d y_a y_b) := by
  intro y_d y_a y_b n w h hw
  obtain ⟨rfl, e⟩ := read_word (u := 0x86000000 + y_d.toNat * 0x80000 + y_a.toNat * 0x8000 + y_b.toNat * 0x800) h
  obtain ⟨a, b, p, q, f0, f1, f2, k⟩ := shape1 (o := 12) e rfl (by decide)
  have hr : row32 w = row0 w 12 := row32_0 p q
  replace hr : row32 w = (.andn (fld w 19 4) (fld w 15 4) (fld w 11 4), [(10, 0, 0, 1)]) := hr
  rw [f0, f1, f2] at hr
  exact decode_of_row32 a b hr k hw
theorem Encodes.shl : ∀ y_d y_a y_b, Statement (.shl y_d y_a y_b) := by
  intro y_d y_a y_b n w h hw
  obtain ⟨rfl, e⟩ := read_word (u := 0x86800000 + y_d.toNat * 0x80000 + y_a.toNat * 0x8000 + y_b.toNat * 0x800) h
  obtain ⟨a, b, p, q, f0, f1, f2, k⟩ := shape1 (o := 13) e rfl (by decide)
  have hr : row32 w = row0 w 13 := row32_0 p q
  replace hr : row32 w = (.shl (fld w 19 4) (fld w 15 4) (fld w 11 4), [(10, 0, 0, 1)]) := hr
  rw [f0, f1, f2] at hr
  exact decode_of_row32 a b hr k hw
theorem Encodes.shr : ∀ y_d y_a y_b, Statement (.shr y_d y_a y_b) := by
  intro y_d y_a y_b n w h hw
  obtain ⟨rfl, e⟩ := read_word (u := 0x87000000 + y_d.toNat * 0x80000 + y_a.toNat * 0x8000 + y_b.toNat * 0x800) h
  obtain ⟨a, b, p, q, f0, f1, f2, k⟩ := shape1 (o := 14) e rfl (by decide)
  have hr : row32 w = row0 w 14 := row32_0 p q
  replace hr : row32 w = (.shr (fld w 19 4) (fld w 15 4) (fld w 11 4), [(10, 0, 0, 1)]) := hr
  rw [f0, f1, f2] at hr
  exact decode_of_row32 a b hr k hw
theorem Encodes.sra : ∀ y_d y_a y_b, Statement (.sra y_d y_a y_b) := by
  intro y_d y_a y_b n w h hw
  obtain ⟨rfl, e⟩ := read_word (u := 0x87800000 + y_d.toNat * 0x80000 + y_a.toNat * 0x8000 + y_b.toNat * 0x800) h
  obtain ⟨a, b, p, q, f0, f1, f2, k⟩ := shape1 (o := 15) e rfl (by decide)
  have hr : row32 w = row0 w 15 := row32_0 p q
  replace hr : row32 w = (.sra (fld w 19 4) (fld w 15 4) (fld w 11 4), [(10, 0, 0, 1)]) := hr
  rw [f0, f1, f2] at hr
  exact decode_of_row32 a b hr k hw
theorem Encodes.rol : ∀ y_d y_a y_b, Statement (.rol y_d y_a y_b) := by
  intro y_d y_a y_b n w h hw
  obtain ⟨rfl, e⟩ := read_word (u := 0x88000000 + y_d.toNat * 0x80000 + y_a.toNat * 0x8000 + y_b.toNat * 0x800) h
  obtain ⟨a, b, p, q, f0, f1, f2, k⟩ := shape1 (o := 16) e rfl (by decide)
  have hr : row32 w = row1 w 0 := row32_1 p q
  replace hr : row32 w = (.rol (fld w 19 4) (fld w 15 4) (fld w 11 4), [(10, 0, 0, 1)]) := hr
  rw [f0, f1, f2] at hr
  exact decode_of_row32 a b hr k hw
theorem Encodes.minS64 : ∀ y_d y_a y_b, Statement (.minS64 y_d y_a y_b) := by
  intro y_d y_a y_b n w h hw
  obtain ⟨rfl, e⟩ := read_word (u := 0x88800000 + y_d.toNat * 0x80000 + y_a.toNat * 0x8000 + y_b.toNat * 0x800) h
  obtain ⟨a, b, p, q, f0, f1, f2, k⟩ := shape1 (o := 17) e rfl (by decide)
  have hr : row32 w = row1 w 1 := row32_1 p q
  replace hr : row32 w = (.minS64 (fld w 19 4) (fld w 15 4) (fld w 11 4), [(10, 0, 0, 1)]) := hr
  rw [f0, f1, f2] at hr
  exact decode_of_row32 a b hr k hw
theorem Encodes.maxS64 : ∀ y_d y_a y_b, Statement (.maxS64 y_d y_a y_b) := by
  intro y_d y_a y_b n w h hw
  obtain ⟨rfl, e⟩ := read_word (u := 0x89000000 + y_d.toNat * 0x80000 + y_a.toNat * 0x8000 + y_b.toNat * 0x800) h
  obtain ⟨a, b, p, q, f0, f1, f2, k⟩ := shape1 (o := 18) e rfl (by decide)
  have hr : row32 w = row1 w 2 := row32_1 p q
  replace hr : row32 w = (.maxS64 (fld w 19 4) (fld w 15 4) (fld w 11 4), [(10, 0, 0, 1)]) := hr
  rw [f0, f1, f2] at hr
  exact decode_of_row32 a b hr k hw
theorem Encodes.minN64 : ∀ y_d y_a y_b, Statement (.minN64 y_d y_a y_b) := by
  intro y_d y_a y_b n w h hw
  obtain ⟨rfl, e⟩ := read_word (u := 0x89800000 + y_d.toNat * 0x80000 + y_a.toNat * 0x8000 + y_b.toNat * 0x800) h
  obtain ⟨a, b, p, q, f0, f1, f2, k⟩ := shape1 (o := 19) e rfl (by decide)
  have hr : row32 w = row1 w 3 := row32_1 p q
  replace hr : row32 w = (.minN64 (fld w 19 4) (fld w 15 4) (fld w 11 4), [(10, 0, 0, 1)]) := hr
  rw [f0, f1, f2] at hr
  exact decode_of_row32 a b hr k hw
theorem Encodes.maxN64 : ∀ y_d y_a y_b, Statement (.maxN64 y_d y_a y_b) := by
  intro y_d y_a y_b n w h hw
  obtain ⟨rfl, e⟩ := read_word (u := 0x8A000000 + y_d.toNat * 0x80000 + y_a.toNat * 0x8000 + y_b.toNat * 0x800) h
  obtain ⟨a, b, p, q, f0, f1, f2, k⟩ := shape1 (o := 20) e rfl (by decide)
  have hr : row32 w = row1 w 4 := row32_1 p q
  replace hr : row32 w = (.maxN64 (fld w 19 4) (fld w 15 4) (fld w 11 4), [(10, 0, 0, 1)]) := hr
  rw [f0, f1, f2] at hr
  exact decode_of_row32 a b hr k hw
theorem Encodes.seq : ∀ y_d y_a y_b, Statement (.seq y_d y_a y_b) := by
  intro y_d y_a y_b n w h hw
  obtain ⟨rfl, e⟩ := read_word (u := 0x8A800000 + y_d.toNat * 0x80000 + y_a.toNat * 0x8000 + y_b.toNat * 0x800) h
  obtain ⟨a, b, p, q, f0, f1, f2, k⟩ := shape1 (o := 21) e rfl (by decide)
  have hr : row32 w = row1 w 5 := row32_1 p q
  replace hr : row32 w = (.seq (fld w 19 4) (fld w 15 4) (fld w 11 4), [(10, 0, 0, 1)]) := hr
  rw [f0, f1, f2] at hr
  exact decode_of_row32 a b hr k hw
theorem Encodes.sltS64 : ∀ y_d y_a y_b, Statement (.sltS64 y_d y_a y_b) := by
  intro y_d y_a y_b n w h hw
  obtain ⟨rfl, e⟩ := read_word (u := 0x8B000000 + y_d.toNat * 0x80000 + y_a.toNat * 0x8000 + y_b.toNat * 0x800) h
  obtain ⟨a, b, p, q, f0, f1, f2, k⟩ := shape1 (o := 22) e rfl (by decide)
  have hr : row32 w = row1 w 6 := row32_1 p q
  replace hr : row32 w = (.sltS64 (fld w 19 4) (fld w 15 4) (fld w 11 4), [(10, 0, 0, 1)]) := hr
  rw [f0, f1, f2] at hr
  exact decode_of_row32 a b hr k hw
theorem Encodes.sltN64 : ∀ y_d y_a y_b, Statement (.sltN64 y_d y_a y_b) := by
  intro y_d y_a y_b n w h hw
  obtain ⟨rfl, e⟩ := read_word (u := 0x8B800000 + y_d.toNat * 0x80000 + y_a.toNat * 0x8000 + y_b.toNat * 0x800) h
  obtain ⟨a, b, p, q, f0, f1, f2, k⟩ := shape1 (o := 23) e rfl (by decide)
  have hr : row32 w = row1 w 7 := row32_1 p q
  replace hr : row32 w = (.sltN64 (fld w 19 4) (fld w 15 4) (fld w 11 4), [(10, 0, 0, 1)]) := hr
  rw [f0, f1, f2] at hr
  exact decode_of_row32 a b hr k hw
theorem shape2 {o B w : Nat} {x0 : BitVec 4} {x1 : BitVec 4} (e : B + x0.toNat * 0x80000 + x1.toNat * 0x8000 = w) (hb : B = 2147483648 + o * 8388608) (ho : o < 256) :
    2147483648 ≤ w ∧ w < 4294967296 ∧ bits w 30 27 = o / 16 ∧ bits w 26 23 = o % 16 ∧ fld w 19 4 = x0 ∧ fld w 15 4 = x1 ∧ brokenBits w [(14, 0, 0, 1)] = none := by
  have := x0.isLt
  have := x1.isLt
  exact ⟨by omega, by omega, by simp only [bits]; omega, by simp only [bits]; omega, fld_eq x0 (by omega), fld_eq x1 (by omega), broken_cons (by simp only [bits]; omega) (broken_nil w)⟩
theorem Encodes.clz : ∀ y_d y_a, Statement (.clz y_d y_a) := by
  intro y_d y_a n w h hw
  obtain ⟨rfl, e⟩ := read_word (u := 0x8C000000 + y_d.toNat * 0x80000 + y_a.toNat * 0x8000) h
  obtain ⟨a, b, p, q, f0, f1, k⟩ := shape2 (o := 24) e rfl (by decide)
  have hr : row32 w = row1 w 8 := row32_1 p q
  replace hr : row32 w = (.clz (fld w 19 4) (fld w 15 4), [(14, 0, 0, 1)]) := hr
  rw [f0, f1] at hr
  exact decode_of_row32 a b hr k hw
theorem Encodes.ctz : ∀ y_d y_a, Statement (.ctz y_d y_a) := by
  intro y_d y_a n w h hw
  obtain ⟨rfl, e⟩ := read_word (u := 0x8C800000 + y_d.toNat * 0x80000 + y_a.toNat * 0x8000) h
  obtain ⟨a, b, p, q, f0, f1, k⟩ := shape2 (o := 25) e rfl (by decide)
  have hr : row32 w = row1 w 9 := row32_1 p q
  replace hr : row32 w = (.ctz (fld w 19 4) (fld w 15 4), [(14, 0, 0, 1)]) := hr
  rw [f0, f1] at hr
  exact decode_of_row32 a b hr k hw
theorem Encodes.popc : ∀ y_d y_a, Statement (.popc y_d y_a) := by
  intro y_d y_a n w h hw
  obtain ⟨rfl, e⟩ := read_word (u := 0x8D000000 + y_d.toNat * 0x80000 + y_a.toNat * 0x8000) h
  obtain ⟨a, b, p, q, f0, f1, k⟩ := shape2 (o := 26) e rfl (by decide)
  have hr : row32 w = row1 w 10 := row32_1 p q
  replace hr : row32 w = (.popc (fld w 19 4) (fld w 15 4), [(14, 0, 0, 1)]) := hr
  rw [f0, f1] at hr
  exact decode_of_row32 a b hr k hw
theorem shape3 {o B w : Nat} {x0 : BitVec 4} {x1 : BitVec 4} {x2 : BitVec 6} (e : B + x0.toNat * 0x80000 + x1.toNat * 0x8000 + x2.toNat * 0x1 = w) (hb : B = 2147483648 + o * 8388608) (ho : o < 256) :
    2147483648 ≤ w ∧ w < 4294967296 ∧ bits w 30 27 = o / 16 ∧ bits w 26 23 = o % 16 ∧ fld w 19 4 = x0 ∧ fld w 15 4 = x1 ∧ fld w 0 6 = x2 ∧ brokenBits w [(14, 6, 0, 1)] = none := by
  have := x0.isLt
  have := x1.isLt
  have := x2.isLt
  exact ⟨by omega, by omega, by simp only [bits]; omega, by simp only [bits]; omega, fld_eq x0 (by omega), fld_eq x1 (by omega), fld_eq x2 (by omega), broken_cons (by simp only [bits]; omega) (broken_nil w)⟩
theorem Encodes.sext : ∀ y_d y_a y_n, Statement (.sext y_d y_a y_n) := by
  intro y_d y_a y_n n w h hw
  obtain ⟨rfl, e⟩ := read_word (u := 0x8D800000 + y_d.toNat * 0x80000 + y_a.toNat * 0x8000 + y_n.toNat * 0x1) h
  obtain ⟨a, b, p, q, f0, f1, f2, k⟩ := shape3 (o := 27) e rfl (by decide)
  have hr : row32 w = row1 w 11 := row32_1 p q
  replace hr : row32 w = (.sext (fld w 19 4) (fld w 15 4) (fld w 0 6), [(14, 6, 0, 1)]) := hr
  rw [f0, f1, f2] at hr
  exact decode_of_row32 a b hr k hw
theorem Encodes.zext : ∀ y_d y_a y_n, Statement (.zext y_d y_a y_n) := by
  intro y_d y_a y_n n w h hw
  obtain ⟨rfl, e⟩ := read_word (u := 0x8E000000 + y_d.toNat * 0x80000 + y_a.toNat * 0x8000 + y_n.toNat * 0x1) h
  obtain ⟨a, b, p, q, f0, f1, f2, k⟩ := shape3 (o := 28) e rfl (by decide)
  have hr : row32 w = row1 w 12 := row32_1 p q
  replace hr : row32 w = (.zext (fld w 19 4) (fld w 15 4) (fld w 0 6), [(14, 6, 0, 1)]) := hr
  rw [f0, f1, f2] at hr
  exact decode_of_row32 a b hr k hw
theorem shape4 {o B w : Nat} {x0 : BitVec 4} {x1 : BitVec 4} {x2 : BitVec 4} {x3 : BitVec 6} (e : B + x0.toNat * 0x80000 + x1.toNat * 0x8000 + x2.toNat * 0x800 + x3.toNat * 0x1 = w) (hb : B = 2147483648 + o * 8388608) (ho : o < 256) :
    2147483648 ≤ w ∧ w < 4294967296 ∧ bits w 30 27 = o / 16 ∧ bits w 26 23 = o % 16 ∧ fld w 19 4 = x0 ∧ fld w 15 4 = x1 ∧ fld w 11 4 = x2 ∧ fld w 0 6 = x3 ∧ brokenBits w [(10, 6, 0, 1)] = none := by
  have := x0.isLt
  have := x1.isLt
  have := x2.isLt
  have := x3.isLt
  exact ⟨by omega, by omega, by simp only [bits]; omega, by simp only [bits]; omega, fld_eq x0 (by omega), fld_eq x1 (by omega), fld_eq x2 (by omega), fld_eq x3 (by omega), broken_cons (by simp only [bits]; omega) (broken_nil w)⟩
theorem Encodes.bfx : ∀ y_d y_a y_b y_n, Statement (.bfx y_d y_a y_b y_n) := by
  intro y_d y_a y_b y_n n w h hw
  obtain ⟨rfl, e⟩ := read_word (u := 0x8E800000 + y_d.toNat * 0x80000 + y_a.toNat * 0x8000 + y_b.toNat * 0x800 + y_n.toNat * 0x1) h
  obtain ⟨a, b, p, q, f0, f1, f2, f3, k⟩ := shape4 (o := 29) e rfl (by decide)
  have hr : row32 w = row1 w 13 := row32_1 p q
  replace hr : row32 w = (.bfx (fld w 19 4) (fld w 15 4) (fld w 11 4) (fld w 0 6), [(10, 6, 0, 1)]) := hr
  rw [f0, f1, f2, f3] at hr
  exact decode_of_row32 a b hr k hw
theorem Encodes.bfi : ∀ y_d y_a y_b y_n, Statement (.bfi y_d y_a y_b y_n) := by
  intro y_d y_a y_b y_n n w h hw
  obtain ⟨rfl, e⟩ := read_word (u := 0x8F000000 + y_d.toNat * 0x80000 + y_a.toNat * 0x8000 + y_b.toNat * 0x800 + y_n.toNat * 0x1) h
  obtain ⟨a, b, p, q, f0, f1, f2, f3, k⟩ := shape4 (o := 30) e rfl (by decide)
  have hr : row32 w = row1 w 14 := row32_1 p q
  replace hr : row32 w = (.bfi (fld w 19 4) (fld w 15 4) (fld w 11 4) (fld w 0 6), [(10, 6, 0, 1)]) := hr
  rw [f0, f1, f2, f3] at hr
  exact decode_of_row32 a b hr k hw
theorem shape5 {o B w : Nat} {x0 : BitVec 4} {x1 : BitVec 4} {x2 : BitVec 4} {x3 : BitVec 2} (e : B + x0.toNat * 0x80000 + x1.toNat * 0x8000 + x2.toNat * 0x800 + x3.toNat * 0x1 = w) (hb : B = 2147483648 + o * 8388608) (ho : o < 256) :
    2147483648 ≤ w ∧ w < 4294967296 ∧ bits w 30 27 = o / 16 ∧ bits w 26 23 = o % 16 ∧ fld w 19 4 = x0 ∧ fld w 15 4 = x1 ∧ fld w 11 4 = x2 ∧ fld w 0 2 = x3 ∧ brokenBits w [(10, 2, 0, 1)] = none := by
  have := x0.isLt
  have := x1.isLt
  have := x2.isLt
  have := x3.isLt
  exact ⟨by omega, by omega, by simp only [bits]; omega, by simp only [bits]; omega, fld_eq x0 (by omega), fld_eq x1 (by omega), fld_eq x2 (by omega), fld_eq x3 (by omega), broken_cons (by simp only [bits]; omega) (broken_nil w)⟩
theorem Encodes.lea : ∀ y_d y_a y_b y_s, Statement (.lea y_d y_a y_b y_s) := by
  intro y_d y_a y_b y_s n w h hw
  obtain ⟨rfl, e⟩ := read_word (u := 0x8F800000 + y_d.toNat * 0x80000 + y_a.toNat * 0x8000 + y_b.toNat * 0x800 + y_s.toNat * 0x1) h
  obtain ⟨a, b, p, q, f0, f1, f2, f3, k⟩ := shape5 (o := 31) e rfl (by decide)
  have hr : row32 w = row1 w 15 := row32_1 p q
  replace hr : row32 w = (.lea (fld w 19 4) (fld w 15 4) (fld w 11 4) (fld w 0 2), [(10, 2, 0, 1)]) := hr
  rw [f0, f1, f2, f3] at hr
  exact decode_of_row32 a b hr k hw
theorem shape6 {o B w : Nat} {x0 : BitVec 4} {x1 : BitVec 4} {x2 : BitVec 15} (e : B + x0.toNat * 0x80000 + x1.toNat * 0x8000 + x2.toNat * 0x1 = w) (hb : B = 2147483648 + o * 8388608) (ho : o < 256) :
    2147483648 ≤ w ∧ w < 4294967296 ∧ bits w 30 27 = o / 16 ∧ bits w 26 23 = o % 16 ∧ fld w 19 4 = x0 ∧ fld w 15 4 = x1 ∧ fld w 0 15 = x2 ∧ brokenBits w [] = none := by
  have := x0.isLt
  have := x1.isLt
  have := x2.isLt
  exact ⟨by omega, by omega, by simp only [bits]; omega, by simp only [bits]; omega, fld_eq x0 (by omega), fld_eq x1 (by omega), fld_eq x2 (by omega), broken_nil w⟩
theorem Encodes.addi : ∀ y_d y_a y_i, Statement (.addi y_d y_a y_i) := by
  intro y_d y_a y_i n w h hw
  obtain ⟨rfl, e⟩ := read_word (u := 0x90000000 + y_d.toNat * 0x80000 + y_a.toNat * 0x8000 + y_i.toNat * 0x1) h
  obtain ⟨a, b, p, q, f0, f1, f2, k⟩ := shape6 (o := 32) e rfl (by decide)
  have hr : row32 w = row2 w 0 := row32_2 p q
  replace hr : row32 w = (.addi (fld w 19 4) (fld w 15 4) (fld w 0 15), []) := hr
  rw [f0, f1, f2] at hr
  exact decode_of_row32 a b hr k hw
theorem Encodes.muli : ∀ y_d y_a y_i, Statement (.muli y_d y_a y_i) := by
  intro y_d y_a y_i n w h hw
  obtain ⟨rfl, e⟩ := read_word (u := 0x90800000 + y_d.toNat * 0x80000 + y_a.toNat * 0x8000 + y_i.toNat * 0x1) h
  obtain ⟨a, b, p, q, f0, f1, f2, k⟩ := shape6 (o := 33) e rfl (by decide)
  have hr : row32 w = row2 w 1 := row32_2 p q
  replace hr : row32 w = (.muli (fld w 19 4) (fld w 15 4) (fld w 0 15), []) := hr
  rw [f0, f1, f2] at hr
  exact decode_of_row32 a b hr k hw
theorem Encodes.andi : ∀ y_d y_a y_i, Statement (.andi y_d y_a y_i) := by
  intro y_d y_a y_i n w h hw
  obtain ⟨rfl, e⟩ := read_word (u := 0x91000000 + y_d.toNat * 0x80000 + y_a.toNat * 0x8000 + y_i.toNat * 0x1) h
  obtain ⟨a, b, p, q, f0, f1, f2, k⟩ := shape6 (o := 34) e rfl (by decide)
  have hr : row32 w = row2 w 2 := row32_2 p q
  replace hr : row32 w = (.andi (fld w 19 4) (fld w 15 4) (fld w 0 15), []) := hr
  rw [f0, f1, f2] at hr
  exact decode_of_row32 a b hr k hw
theorem Encodes.ori : ∀ y_d y_a y_i, Statement (.ori y_d y_a y_i) := by
  intro y_d y_a y_i n w h hw
  obtain ⟨rfl, e⟩ := read_word (u := 0x91800000 + y_d.toNat * 0x80000 + y_a.toNat * 0x8000 + y_i.toNat * 0x1) h
  obtain ⟨a, b, p, q, f0, f1, f2, k⟩ := shape6 (o := 35) e rfl (by decide)
  have hr : row32 w = row2 w 3 := row32_2 p q
  replace hr : row32 w = (.ori (fld w 19 4) (fld w 15 4) (fld w 0 15), []) := hr
  rw [f0, f1, f2] at hr
  exact decode_of_row32 a b hr k hw
theorem Encodes.xori : ∀ y_d y_a y_i, Statement (.xori y_d y_a y_i) := by
  intro y_d y_a y_i n w h hw
  obtain ⟨rfl, e⟩ := read_word (u := 0x92000000 + y_d.toNat * 0x80000 + y_a.toNat * 0x8000 + y_i.toNat * 0x1) h
  obtain ⟨a, b, p, q, f0, f1, f2, k⟩ := shape6 (o := 36) e rfl (by decide)
  have hr : row32 w = row2 w 4 := row32_2 p q
  replace hr : row32 w = (.xori (fld w 19 4) (fld w 15 4) (fld w 0 15), []) := hr
  rw [f0, f1, f2] at hr
  exact decode_of_row32 a b hr k hw
theorem Encodes.shli : ∀ y_d y_a y_i, Statement (.shli y_d y_a y_i) := by
  intro y_d y_a y_i n w h hw
  obtain ⟨rfl, e⟩ := read_word (u := 0x92800000 + y_d.toNat * 0x80000 + y_a.toNat * 0x8000 + y_i.toNat * 0x1) h
  obtain ⟨a, b, p, q, f0, f1, f2, k⟩ := shape3 (o := 37) e rfl (by decide)
  have hr : row32 w = row2 w 5 := row32_2 p q
  replace hr : row32 w = (.shli (fld w 19 4) (fld w 15 4) (fld w 0 6), [(14, 6, 0, 1)]) := hr
  rw [f0, f1, f2] at hr
  exact decode_of_row32 a b hr k hw
theorem Encodes.shri : ∀ y_d y_a y_i, Statement (.shri y_d y_a y_i) := by
  intro y_d y_a y_i n w h hw
  obtain ⟨rfl, e⟩ := read_word (u := 0x93000000 + y_d.toNat * 0x80000 + y_a.toNat * 0x8000 + y_i.toNat * 0x1) h
  obtain ⟨a, b, p, q, f0, f1, f2, k⟩ := shape3 (o := 38) e rfl (by decide)
  have hr : row32 w = row2 w 6 := row32_2 p q
  replace hr : row32 w = (.shri (fld w 19 4) (fld w 15 4) (fld w 0 6), [(14, 6, 0, 1)]) := hr
  rw [f0, f1, f2] at hr
  exact decode_of_row32 a b hr k hw
theorem Encodes.srai : ∀ y_d y_a y_i, Statement (.srai y_d y_a y_i) := by
  intro y_d y_a y_i n w h hw
  obtain ⟨rfl, e⟩ := read_word (u := 0x93800000 + y_d.toNat * 0x80000 + y_a.toNat * 0x8000 + y_i.toNat * 0x1) h
  obtain ⟨a, b, p, q, f0, f1, f2, k⟩ := shape3 (o := 39) e rfl (by decide)
  have hr : row32 w = row2 w 7 := row32_2 p q
  replace hr : row32 w = (.srai (fld w 19 4) (fld w 15 4) (fld w 0 6), [(14, 6, 0, 1)]) := hr
  rw [f0, f1, f2] at hr
  exact decode_of_row32 a b hr k hw
theorem Encodes.seqi : ∀ y_d y_a y_i, Statement (.seqi y_d y_a y_i) := by
  intro y_d y_a y_i n w h hw
  obtain ⟨rfl, e⟩ := read_word (u := 0x94000000 + y_d.toNat * 0x80000 + y_a.toNat * 0x8000 + y_i.toNat * 0x1) h
  obtain ⟨a, b, p, q, f0, f1, f2, k⟩ := shape6 (o := 40) e rfl (by decide)
  have hr : row32 w = row2 w 8 := row32_2 p q
  replace hr : row32 w = (.seqi (fld w 19 4) (fld w 15 4) (fld w 0 15), []) := hr
  rw [f0, f1, f2] at hr
  exact decode_of_row32 a b hr k hw
theorem Encodes.sltiS64 : ∀ y_d y_a y_i, Statement (.sltiS64 y_d y_a y_i) := by
  intro y_d y_a y_i n w h hw
  obtain ⟨rfl, e⟩ := read_word (u := 0x94800000 + y_d.toNat * 0x80000 + y_a.toNat * 0x8000 + y_i.toNat * 0x1) h
  obtain ⟨a, b, p, q, f0, f1, f2, k⟩ := shape6 (o := 41) e rfl (by decide)
  have hr : row32 w = row2 w 9 := row32_2 p q
  replace hr : row32 w = (.sltiS64 (fld w 19 4) (fld w 15 4) (fld w 0 15), []) := hr
  rw [f0, f1, f2] at hr
  exact decode_of_row32 a b hr k hw
theorem Encodes.sltiN64 : ∀ y_d y_a y_i, Statement (.sltiN64 y_d y_a y_i) := by
  intro y_d y_a y_i n w h hw
  obtain ⟨rfl, e⟩ := read_word (u := 0x95000000 + y_d.toNat * 0x80000 + y_a.toNat * 0x8000 + y_i.toNat * 0x1) h
  obtain ⟨a, b, p, q, f0, f1, f2, k⟩ := shape6 (o := 42) e rfl (by decide)
  have hr : row32 w = row2 w 10 := row32_2 p q
  replace hr : row32 w = (.sltiN64 (fld w 19 4) (fld w 15 4) (fld w 0 15), []) := hr
  rw [f0, f1, f2] at hr
  exact decode_of_row32 a b hr k hw
theorem Encodes.rsbi : ∀ y_d y_a y_i, Statement (.rsbi y_d y_a y_i) := by
  intro y_d y_a y_i n w h hw
  obtain ⟨rfl, e⟩ := read_word (u := 0x95800000 + y_d.toNat * 0x80000 + y_a.toNat * 0x8000 + y_i.toNat * 0x1) h
  obtain ⟨a, b, p, q, f0, f1, f2, k⟩ := shape6 (o := 43) e rfl (by decide)
  have hr : row32 w = row2 w 11 := row32_2 p q
  replace hr : row32 w = (.rsbi (fld w 19 4) (fld w 15 4) (fld w 0 15), []) := hr
  rw [f0, f1, f2] at hr
  exact decode_of_row32 a b hr k hw
theorem Encodes.miniS64 : ∀ y_d y_a y_i, Statement (.miniS64 y_d y_a y_i) := by
  intro y_d y_a y_i n w h hw
  obtain ⟨rfl, e⟩ := read_word (u := 0x96000000 + y_d.toNat * 0x80000 + y_a.toNat * 0x8000 + y_i.toNat * 0x1) h
  obtain ⟨a, b, p, q, f0, f1, f2, k⟩ := shape6 (o := 44) e rfl (by decide)
  have hr : row32 w = row2 w 12 := row32_2 p q
  replace hr : row32 w = (.miniS64 (fld w 19 4) (fld w 15 4) (fld w 0 15), []) := hr
  rw [f0, f1, f2] at hr
  exact decode_of_row32 a b hr k hw
theorem Encodes.maxiS64 : ∀ y_d y_a y_i, Statement (.maxiS64 y_d y_a y_i) := by
  intro y_d y_a y_i n w h hw
  obtain ⟨rfl, e⟩ := read_word (u := 0x96800000 + y_d.toNat * 0x80000 + y_a.toNat * 0x8000 + y_i.toNat * 0x1) h
  obtain ⟨a, b, p, q, f0, f1, f2, k⟩ := shape6 (o := 45) e rfl (by decide)
  have hr : row32 w = row2 w 13 := row32_2 p q
  replace hr : row32 w = (.maxiS64 (fld w 19 4) (fld w 15 4) (fld w 0 15), []) := hr
  rw [f0, f1, f2] at hr
  exact decode_of_row32 a b hr k hw
theorem shape7 {o B w : Nat} {x0 : BitVec 4} {x1 : BitVec 2} {x2 : BitVec 16} (e : B + x0.toNat * 0x80000 + x1.toNat * 0x20000 + x2.toNat * 0x1 = w) (hb : B = 2147483648 + o * 8388608) (ho : o < 256) :
    2147483648 ≤ w ∧ w < 4294967296 ∧ bits w 30 27 = o / 16 ∧ bits w 26 23 = o % 16 ∧ fld w 19 4 = x0 ∧ fld w 17 2 = x1 ∧ fld w 0 16 = x2 ∧ brokenBits w [(16, 16, 0, 1)] = none := by
  have := x0.isLt
  have := x1.isLt
  have := x2.isLt
  exact ⟨by omega, by omega, by simp only [bits]; omega, by simp only [bits]; omega, fld_eq x0 (by omega), fld_eq x1 (by omega), fld_eq x2 (by omega), broken_cons (by simp only [bits]; omega) (broken_nil w)⟩
theorem Encodes.movw : ∀ y_d y_h y_i, Statement (.movw y_d y_h y_i) := by
  intro y_d y_h y_i n w h hw
  obtain ⟨rfl, e⟩ := read_word (u := 0x97000000 + y_d.toNat * 0x80000 + y_h.toNat * 0x20000 + y_i.toNat * 0x1) h
  obtain ⟨a, b, p, q, f0, f1, f2, k⟩ := shape7 (o := 46) e rfl (by decide)
  have hr : row32 w = row2 w 14 := row32_2 p q
  replace hr : row32 w = (.movw (fld w 19 4) (fld w 17 2) (fld w 0 16), [(16, 16, 0, 1)]) := hr
  rw [f0, f1, f2] at hr
  exact decode_of_row32 a b hr k hw
theorem Encodes.movk : ∀ y_d y_h y_i, Statement (.movk y_d y_h y_i) := by
  intro y_d y_h y_i n w h hw
  obtain ⟨rfl, e⟩ := read_word (u := 0x97800000 + y_d.toNat * 0x80000 + y_h.toNat * 0x20000 + y_i.toNat * 0x1) h
  obtain ⟨a, b, p, q, f0, f1, f2, k⟩ := shape7 (o := 47) e rfl (by decide)
  have hr : row32 w = row2 w 15 := row32_2 p q
  replace hr : row32 w = (.movk (fld w 19 4) (fld w 17 2) (fld w 0 16), [(16, 16, 0, 1)]) := hr
  rw [f0, f1, f2] at hr
  exact decode_of_row32 a b hr k hw
theorem shape8 {o B w : Nat} {x0 : BitVec 4} {x1 : BitVec 4} {x2 : BitVec 2} {x3 : BitVec 1} {x4 : BitVec 1} {x5 : BitVec 11} (e : B + x0.toNat * 0x80000 + x1.toNat * 0x8000 + x2.toNat * 0x2000 + x3.toNat * 0x1000 + x4.toNat * 0x800 + x5.toNat * 0x1 = w) (hb : B = 2147483648 + o * 8388608) (ho : o < 256) :
    2147483648 ≤ w ∧ w < 4294967296 ∧ bits w 30 27 = o / 16 ∧ bits w 26 23 = o % 16 ∧ fld w 19 4 = x0 ∧ fld w 15 4 = x1 ∧ fld w 13 2 = x2 ∧ fld w 12 1 = x3 ∧ fld w 11 1 = x4 ∧ fld w 0 11 = x5 ∧ brokenBits w [] = none := by
  have := x0.isLt
  have := x1.isLt
  have := x2.isLt
  have := x3.isLt
  have := x4.isLt
  have := x5.isLt
  exact ⟨by omega, by omega, by simp only [bits]; omega, by simp only [bits]; omega, fld_eq x0 (by omega), fld_eq x1 (by omega), fld_eq x2 (by omega), fld_eq x3 (by omega), fld_eq x4 (by omega), fld_eq x5 (by omega), broken_nil w⟩
theorem Encodes.ldl : ∀ y_d y_a y_s y_e y_n y_f, Statement (.ldl y_d y_a y_s y_e y_n y_f) := by
  intro y_d y_a y_s y_e y_n y_f n w h hw
  obtain ⟨rfl, e⟩ := read_word (u := 0x98000000 + y_d.toNat * 0x80000 + y_a.toNat * 0x8000 + y_s.toNat * 0x2000 + y_e.toNat * 0x1000 + y_n.toNat * 0x800 + y_f.toNat * 0x1) h
  obtain ⟨a, b, p, q, f0, f1, f2, f3, f4, f5, k⟩ := shape8 (o := 48) e rfl (by decide)
  have hr : row32 w = row3 w 0 := row32_3 p q
  replace hr : row32 w = (.ldl (fld w 19 4) (fld w 15 4) (fld w 13 2) (fld w 12 1) (fld w 11 1) (fld w 0 11), []) := hr
  rw [f0, f1, f2, f3, f4, f5] at hr
  exact decode_of_row32 a b hr k hw
theorem shape9 {o B w : Nat} {x0 : BitVec 4} {x1 : BitVec 4} {x2 : BitVec 2} {x3 : BitVec 1} {x4 : BitVec 11} (e : B + x0.toNat * 0x80000 + x1.toNat * 0x8000 + x2.toNat * 0x2000 + x3.toNat * 0x800 + x4.toNat * 0x1 = w) (hb : B = 2147483648 + o * 8388608) (ho : o < 256) :
    2147483648 ≤ w ∧ w < 4294967296 ∧ bits w 30 27 = o / 16 ∧ bits w 26 23 = o % 16 ∧ fld w 19 4 = x0 ∧ fld w 15 4 = x1 ∧ fld w 13 2 = x2 ∧ fld w 11 1 = x3 ∧ fld w 0 11 = x4 ∧ brokenBits w [(12, 12, 0, 4)] = none := by
  have := x0.isLt
  have := x1.isLt
  have := x2.isLt
  have := x3.isLt
  have := x4.isLt
  exact ⟨by omega, by omega, by simp only [bits]; omega, by simp only [bits]; omega, fld_eq x0 (by omega), fld_eq x1 (by omega), fld_eq x2 (by omega), fld_eq x3 (by omega), fld_eq x4 (by omega), broken_cons (by simp only [bits]; omega) (broken_nil w)⟩
theorem Encodes.stl : ∀ y_d y_a y_s y_n y_f, Statement (.stl y_d y_a y_s y_n y_f) := by
  intro y_d y_a y_s y_n y_f n w h hw
  obtain ⟨rfl, e⟩ := read_word (u := 0x98800000 + y_d.toNat * 0x80000 + y_a.toNat * 0x8000 + y_s.toNat * 0x2000 + y_n.toNat * 0x800 + y_f.toNat * 0x1) h
  obtain ⟨a, b, p, q, f0, f1, f2, f3, f4, k⟩ := shape9 (o := 49) e rfl (by decide)
  have hr : row32 w = row3 w 1 := row32_3 p q
  replace hr : row32 w = (.stl (fld w 19 4) (fld w 15 4) (fld w 13 2) (fld w 11 1) (fld w 0 11), [(12, 12, 0, 4)]) := hr
  rw [f0, f1, f2, f3, f4] at hr
  exact decode_of_row32 a b hr k hw
theorem Encodes.ld : ∀ y_d y_a y_s y_e y_n y_f, Statement (.ld y_d y_a y_s y_e y_n y_f) := by
  intro y_d y_a y_s y_e y_n y_f n w h hw
  obtain ⟨rfl, e⟩ := read_word (u := 0x99000000 + y_d.toNat * 0x80000 + y_a.toNat * 0x8000 + y_s.toNat * 0x2000 + y_e.toNat * 0x1000 + y_n.toNat * 0x800 + y_f.toNat * 0x1) h
  obtain ⟨a, b, p, q, f0, f1, f2, f3, f4, f5, k⟩ := shape8 (o := 50) e rfl (by decide)
  have hr : row32 w = row3 w 2 := row32_3 p q
  replace hr : row32 w = (.ld (fld w 19 4) (fld w 15 4) (fld w 13 2) (fld w 12 1) (fld w 11 1) (fld w 0 11), []) := hr
  rw [f0, f1, f2, f3, f4, f5] at hr
  exact decode_of_row32 a b hr k hw
theorem Encodes.st : ∀ y_d y_a y_s y_n y_f, Statement (.st y_d y_a y_s y_n y_f) := by
  intro y_d y_a y_s y_n y_f n w h hw
  obtain ⟨rfl, e⟩ := read_word (u := 0x99800000 + y_d.toNat * 0x80000 + y_a.toNat * 0x8000 + y_s.toNat * 0x2000 + y_n.toNat * 0x800 + y_f.toNat * 0x1) h
  obtain ⟨a, b, p, q, f0, f1, f2, f3, f4, k⟩ := shape9 (o := 51) e rfl (by decide)
  have hr : row32 w = row3 w 3 := row32_3 p q
  replace hr : row32 w = (.st (fld w 19 4) (fld w 15 4) (fld w 13 2) (fld w 11 1) (fld w 0 11), [(12, 12, 0, 4)]) := hr
  rw [f0, f1, f2, f3, f4] at hr
  exact decode_of_row32 a b hr k hw
theorem shape10 {o B w : Nat} {x0 : BitVec 4} {x1 : BitVec 4} {x2 : BitVec 2} {x3 : BitVec 1} {x4 : BitVec 3} (e : B + x0.toNat * 0x80000 + x1.toNat * 0x8000 + x2.toNat * 0x2000 + x3.toNat * 0x1000 + x4.toNat * 0x100 = w) (hb : B = 2147483648 + o * 8388608) (ho : o < 256) :
    2147483648 ≤ w ∧ w < 4294967296 ∧ bits w 30 27 = o / 16 ∧ bits w 26 23 = o % 16 ∧ fld w 19 4 = x0 ∧ fld w 15 4 = x1 ∧ fld w 13 2 = x2 ∧ fld w 12 1 = x3 ∧ fld w 8 3 = x4 ∧ brokenBits w [(11, 11, 0, 1), (7, 0, 0, 1)] = none := by
  have := x0.isLt
  have := x1.isLt
  have := x2.isLt
  have := x3.isLt
  have := x4.isLt
  exact ⟨by omega, by omega, by simp only [bits]; omega, by simp only [bits]; omega, fld_eq x0 (by omega), fld_eq x1 (by omega), fld_eq x2 (by omega), fld_eq x3 (by omega), fld_eq x4 (by omega), broken_cons (by simp only [bits]; omega) (broken_cons (by simp only [bits]; omega) (broken_nil w))⟩
theorem Encodes.ldAcq : ∀ y_d y_a y_s y_e y_c, Statement (.ldAcq y_d y_a y_s y_e y_c) := by
  intro y_d y_a y_s y_e y_c n w h hw
  obtain ⟨rfl, e⟩ := read_word (u := 0x9A000000 + y_d.toNat * 0x80000 + y_a.toNat * 0x8000 + y_s.toNat * 0x2000 + y_e.toNat * 0x1000 + y_c.toNat * 0x100) h
  obtain ⟨a, b, p, q, f0, f1, f2, f3, f4, k⟩ := shape10 (o := 52) e rfl (by decide)
  have hr : row32 w = row3 w 4 := row32_3 p q
  replace hr : row32 w = (.ldAcq (fld w 19 4) (fld w 15 4) (fld w 13 2) (fld w 12 1) (fld w 8 3), [(11, 11, 0, 1), (7, 0, 0, 1)]) := hr
  rw [f0, f1, f2, f3, f4] at hr
  exact decode_of_row32 a b hr k hw
theorem shape11 {o B w : Nat} {x0 : BitVec 4} {x1 : BitVec 4} {x2 : BitVec 2} {x3 : BitVec 3} (e : B + x0.toNat * 0x80000 + x1.toNat * 0x8000 + x2.toNat * 0x2000 + x3.toNat * 0x100 = w) (hb : B = 2147483648 + o * 8388608) (ho : o < 256) :
    2147483648 ≤ w ∧ w < 4294967296 ∧ bits w 30 27 = o / 16 ∧ bits w 26 23 = o % 16 ∧ fld w 19 4 = x0 ∧ fld w 15 4 = x1 ∧ fld w 13 2 = x2 ∧ fld w 8 3 = x3 ∧ brokenBits w [(12, 12, 0, 4), (11, 11, 0, 1), (7, 0, 0, 1)] = none := by
  have := x0.isLt
  have := x1.isLt
  have := x2.isLt
  have := x3.isLt
  exact ⟨by omega, by omega, by simp only [bits]; omega, by simp only [bits]; omega, fld_eq x0 (by omega), fld_eq x1 (by omega), fld_eq x2 (by omega), fld_eq x3 (by omega), broken_cons (by simp only [bits]; omega) (broken_cons (by simp only [bits]; omega) (broken_cons (by simp only [bits]; omega) (broken_nil w)))⟩
theorem Encodes.stRel : ∀ y_d y_a y_s y_c, Statement (.stRel y_d y_a y_s y_c) := by
  intro y_d y_a y_s y_c n w h hw
  obtain ⟨rfl, e⟩ := read_word (u := 0x9A800000 + y_d.toNat * 0x80000 + y_a.toNat * 0x8000 + y_s.toNat * 0x2000 + y_c.toNat * 0x100) h
  obtain ⟨a, b, p, q, f0, f1, f2, f3, k⟩ := shape11 (o := 53) e rfl (by decide)
  have hr : row32 w = row3 w 5 := row32_3 p q
  replace hr : row32 w = (.stRel (fld w 19 4) (fld w 15 4) (fld w 13 2) (fld w 8 3), [(12, 12, 0, 4), (11, 11, 0, 1), (7, 0, 0, 1)]) := hr
  rw [f0, f1, f2, f3] at hr
  exact decode_of_row32 a b hr k hw
theorem shape12 {o B w : Nat} {x0 : BitVec 4} {x1 : BitVec 4} {x2 : BitVec 1} {x3 : BitVec 11} (e : B + x0.toNat * 0x80000 + x1.toNat * 0x8000 + x2.toNat * 0x800 + x3.toNat * 0x1 = w) (hb : B = 2147508224 + o * 8388608) (ho : o < 256) :
    2147483648 ≤ w ∧ w < 4294967296 ∧ bits w 30 27 = o / 16 ∧ bits w 26 23 = o % 16 ∧ fld w 19 4 = x0 ∧ fld w 15 4 = x1 ∧ fld w 11 1 = x2 ∧ fld w 0 11 = x3 ∧ brokenBits w [(14, 12, 6, 4)] = none := by
  have := x0.isLt
  have := x1.isLt
  have := x2.isLt
  have := x3.isLt
  exact ⟨by omega, by omega, by simp only [bits]; omega, by simp only [bits]; omega, fld_eq x0 (by omega), fld_eq x1 (by omega), fld_eq x2 (by omega), fld_eq x3 (by omega), broken_cons (by simp only [bits]; omega) (broken_nil w)⟩
theorem Encodes.ldlPr : ∀ y_d y_a y_n y_f, Statement (.ldlPr y_d y_a y_n y_f) := by
  intro y_d y_a y_n y_f n w h hw
  obtain ⟨rfl, e⟩ := read_word (u := 0x9B006000 + y_d.toNat * 0x80000 + y_a.toNat * 0x8000 + y_n.toNat * 0x800 + y_f.toNat * 0x1) h
  obtain ⟨a, b, p, q, f0, f1, f2, f3, k⟩ := shape12 (o := 54) e rfl (by decide)
  have hr : row32 w = row3 w 6 := row32_3 p q
  replace hr : row32 w = (.ldlPr (fld w 19 4) (fld w 15 4) (fld w 11 1) (fld w 0 11), [(14, 12, 6, 4)]) := hr
  rw [f0, f1, f2, f3] at hr
  exact decode_of_row32 a b hr k hw
theorem Encodes.stlPr : ∀ y_d y_a y_n y_f, Statement (.stlPr y_d y_a y_n y_f) := by
  intro y_d y_a y_n y_f n w h hw
  obtain ⟨rfl, e⟩ := read_word (u := 0x9B806000 + y_d.toNat * 0x80000 + y_a.toNat * 0x8000 + y_n.toNat * 0x800 + y_f.toNat * 0x1) h
  obtain ⟨a, b, p, q, f0, f1, f2, f3, k⟩ := shape12 (o := 55) e rfl (by decide)
  have hr : row32 w = row3 w 7 := row32_3 p q
  replace hr : row32 w = (.stlPr (fld w 19 4) (fld w 15 4) (fld w 11 1) (fld w 0 11), [(14, 12, 6, 4)]) := hr
  rw [f0, f1, f2, f3] at hr
  exact decode_of_row32 a b hr k hw
theorem Encodes.ldNc : ∀ y_d y_a y_s y_e y_n y_f, Statement (.ldNc y_d y_a y_s y_e y_n y_f) := by
  intro y_d y_a y_s y_e y_n y_f n w h hw
  obtain ⟨rfl, e⟩ := read_word (u := 0x9C000000 + y_d.toNat * 0x80000 + y_a.toNat * 0x8000 + y_s.toNat * 0x2000 + y_e.toNat * 0x1000 + y_n.toNat * 0x800 + y_f.toNat * 0x1) h
  obtain ⟨a, b, p, q, f0, f1, f2, f3, f4, f5, k⟩ := shape8 (o := 56) e rfl (by decide)
  have hr : row32 w = row3 w 8 := row32_3 p q
  replace hr : row32 w = (.ldNc (fld w 19 4) (fld w 15 4) (fld w 13 2) (fld w 12 1) (fld w 11 1) (fld w 0 11), []) := hr
  rw [f0, f1, f2, f3, f4, f5] at hr
  exact decode_of_row32 a b hr k hw
theorem Encodes.stNc : ∀ y_d y_a y_s y_n y_f, Statement (.stNc y_d y_a y_s y_n y_f) := by
  intro y_d y_a y_s y_n y_f n w h hw
  obtain ⟨rfl, e⟩ := read_word (u := 0x9C800000 + y_d.toNat * 0x80000 + y_a.toNat * 0x8000 + y_s.toNat * 0x2000 + y_n.toNat * 0x800 + y_f.toNat * 0x1) h
  obtain ⟨a, b, p, q, f0, f1, f2, f3, f4, k⟩ := shape9 (o := 57) e rfl (by decide)
  have hr : row32 w = row3 w 9 := row32_3 p q
  replace hr : row32 w = (.stNc (fld w 19 4) (fld w 15 4) (fld w 13 2) (fld w 11 1) (fld w 0 11), [(12, 12, 0, 4)]) := hr
  rw [f0, f1, f2, f3, f4] at hr
  exact decode_of_row32 a b hr k hw
theorem shape13 {o B w : Nat} {x0 : BitVec 4} {x1 : BitVec 1} {x2 : BitVec 11} (e : B + x0.toNat * 0x8000 + x1.toNat * 0x800 + x2.toNat * 0x1 = w) (hb : B = 2147508224 + o * 8388608) (ho : o < 256) :
    2147483648 ≤ w ∧ w < 4294967296 ∧ bits w 30 27 = o / 16 ∧ bits w 26 23 = o % 16 ∧ fld w 15 4 = x0 ∧ fld w 11 1 = x1 ∧ fld w 0 11 = x2 ∧ brokenBits w [(22, 19, 0, 1), (14, 12, 6, 4)] = none := by
  have := x0.isLt
  have := x1.isLt
  have := x2.isLt
  exact ⟨by omega, by omega, by simp only [bits]; omega, by simp only [bits]; omega, fld_eq x0 (by omega), fld_eq x1 (by omega), fld_eq x2 (by omega), broken_cons (by simp only [bits]; omega) (broken_cons (by simp only [bits]; omega) (broken_nil w))⟩
theorem Encodes.pf : ∀ y_a y_n y_f, Statement (.pf y_a y_n y_f) := by
  intro y_a y_n y_f n w h hw
  obtain ⟨rfl, e⟩ := read_word (u := 0x9D006000 + y_a.toNat * 0x8000 + y_n.toNat * 0x800 + y_f.toNat * 0x1) h
  obtain ⟨a, b, p, q, f0, f1, f2, k⟩ := shape13 (o := 58) e rfl (by decide)
  have hr : row32 w = row3 w 10 := row32_3 p q
  replace hr : row32 w = (.pf (fld w 15 4) (fld w 11 1) (fld w 0 11), [(22, 19, 0, 1), (14, 12, 6, 4)]) := hr
  rw [f0, f1, f2] at hr
  exact decode_of_row32 a b hr k hw
theorem Encodes.wbk : ∀ y_a y_n y_f, Statement (.wbk y_a y_n y_f) := by
  intro y_a y_n y_f n w h hw
  obtain ⟨rfl, e⟩ := read_word (u := 0x9D806000 + y_a.toNat * 0x8000 + y_n.toNat * 0x800 + y_f.toNat * 0x1) h
  obtain ⟨a, b, p, q, f0, f1, f2, k⟩ := shape13 (o := 59) e rfl (by decide)
  have hr : row32 w = row3 w 11 := row32_3 p q
  replace hr : row32 w = (.wbk (fld w 15 4) (fld w 11 1) (fld w 0 11), [(22, 19, 0, 1), (14, 12, 6, 4)]) := hr
  rw [f0, f1, f2] at hr
  exact decode_of_row32 a b hr k hw
theorem Encodes.xlq : ∀ y_d y_a y_n y_f, Statement (.xlq y_d y_a y_n y_f) := by
  intro y_d y_a y_n y_f n w h hw
  obtain ⟨rfl, e⟩ := read_word (u := 0x9E006000 + y_d.toNat * 0x80000 + y_a.toNat * 0x8000 + y_n.toNat * 0x800 + y_f.toNat * 0x1) h
  obtain ⟨a, b, p, q, f0, f1, f2, f3, k⟩ := shape12 (o := 60) e rfl (by decide)
  have hr : row32 w = row3 w 12 := row32_3 p q
  replace hr : row32 w = (.xlq (fld w 19 4) (fld w 15 4) (fld w 11 1) (fld w 0 11), [(14, 12, 6, 4)]) := hr
  rw [f0, f1, f2, f3] at hr
  exact decode_of_row32 a b hr k hw
theorem Encodes.stz : ∀ y_a y_n y_f, Statement (.stz y_a y_n y_f) := by
  intro y_a y_n y_f n w h hw
  obtain ⟨rfl, e⟩ := read_word (u := 0x9E806000 + y_a.toNat * 0x8000 + y_n.toNat * 0x800 + y_f.toNat * 0x1) h
  obtain ⟨a, b, p, q, f0, f1, f2, k⟩ := shape13 (o := 61) e rfl (by decide)
  have hr : row32 w = row3 w 13 := row32_3 p q
  replace hr : row32 w = (.stz (fld w 15 4) (fld w 11 1) (fld w 0 11), [(22, 19, 0, 1), (14, 12, 6, 4)]) := hr
  rw [f0, f1, f2] at hr
  exact decode_of_row32 a b hr k hw
theorem Encodes.chka : ∀ y_d y_a y_s y_e y_n y_f, Statement (.chka y_d y_a y_s y_e y_n y_f) := by
  intro y_d y_a y_s y_e y_n y_f n w h hw
  obtain ⟨rfl, e⟩ := read_word (u := 0x9F000000 + y_d.toNat * 0x80000 + y_a.toNat * 0x8000 + y_s.toNat * 0x2000 + y_e.toNat * 0x1000 + y_n.toNat * 0x800 + y_f.toNat * 0x1) h
  obtain ⟨a, b, p, q, f0, f1, f2, f3, f4, f5, k⟩ := shape8 (o := 62) e rfl (by decide)
  have hr : row32 w = row3 w 14 := row32_3 p q
  replace hr : row32 w = (.chka (fld w 19 4) (fld w 15 4) (fld w 13 2) (fld w 12 1) (fld w 11 1) (fld w 0 11), []) := hr
  rw [f0, f1, f2, f3, f4, f5] at hr
  exact decode_of_row32 a b hr k hw
theorem Encodes.stzl : ∀ y_a y_n y_f, Statement (.stzl y_a y_n y_f) := by
  intro y_a y_n y_f n w h hw
  obtain ⟨rfl, e⟩ := read_word (u := 0x9F806000 + y_a.toNat * 0x8000 + y_n.toNat * 0x800 + y_f.toNat * 0x1) h
  obtain ⟨a, b, p, q, f0, f1, f2, k⟩ := shape13 (o := 63) e rfl (by decide)
  have hr : row32 w = row3 w 15 := row32_3 p q
  replace hr : row32 w = (.stzl (fld w 15 4) (fld w 11 1) (fld w 0 11), [(22, 19, 0, 1), (14, 12, 6, 4)]) := hr
  rw [f0, f1, f2] at hr
  exact decode_of_row32 a b hr k hw
theorem shape14 {o B w : Nat} {x0 : BitVec 4} {x1 : BitVec 3} {x2 : BitVec 16} (e : B + x0.toNat * 0x80000 + x1.toNat * 0x10000 + x2.toNat * 0x1 = w) (hb : B = 2147483648 + o * 8388608) (ho : o < 256) :
    2147483648 ≤ w ∧ w < 4294967296 ∧ bits w 30 27 = o / 16 ∧ bits w 26 23 = o % 16 ∧ fld w 19 4 = x0 ∧ fld w 16 3 = x1 ∧ fld w 0 16 = x2 ∧ brokenBits w [] = none := by
  have := x0.isLt
  have := x1.isLt
  have := x2.isLt
  exact ⟨by omega, by omega, by simp only [bits]; omega, by simp only [bits]; omega, fld_eq x0 (by omega), fld_eq x1 (by omega), fld_eq x2 (by omega), broken_nil w⟩
theorem Encodes.b : ∀ y_a y_c y_p, Statement (.b y_a y_c y_p) := by
  intro y_a y_c y_p n w h hw
  obtain ⟨rfl, e⟩ := read_word (u := 0xA0000000 + y_a.toNat * 0x80000 + y_c.toNat * 0x10000 + y_p.toNat * 0x1) h
  obtain ⟨a, b, p, q, f0, f1, f2, k⟩ := shape14 (o := 64) e rfl (by decide)
  have hr : row32 w = row4 w 0 := row32_4 p q
  replace hr : row32 w = (.b (fld w 19 4) (fld w 16 3) (fld w 0 16), []) := hr
  rw [f0, f1, f2] at hr
  exact decode_of_row32 a b hr k hw
theorem Encodes.bN : ∀ y_a y_c y_p, Statement (.bN y_a y_c y_p) := by
  intro y_a y_c y_p n w h hw
  obtain ⟨rfl, e⟩ := read_word (u := 0xA0800000 + y_a.toNat * 0x80000 + y_c.toNat * 0x10000 + y_p.toNat * 0x1) h
  obtain ⟨a, b, p, q, f0, f1, f2, k⟩ := shape14 (o := 65) e rfl (by decide)
  have hr : row32 w = row4 w 1 := row32_4 p q
  replace hr : row32 w = (.bN (fld w 19 4) (fld w 16 3) (fld w 0 16), []) := hr
  rw [f0, f1, f2] at hr
  exact decode_of_row32 a b hr k hw
theorem Encodes.call : ∀ y_a y_c y_p, Statement (.call y_a y_c y_p) := by
  intro y_a y_c y_p n w h hw
  obtain ⟨rfl, e⟩ := read_word (u := 0xA1000000 + y_a.toNat * 0x80000 + y_c.toNat * 0x10000 + y_p.toNat * 0x1) h
  obtain ⟨a, b, p, q, f0, f1, f2, k⟩ := shape14 (o := 66) e rfl (by decide)
  have hr : row32 w = row4 w 2 := row32_4 p q
  replace hr : row32 w = (.call (fld w 19 4) (fld w 16 3) (fld w 0 16), []) := hr
  rw [f0, f1, f2] at hr
  exact decode_of_row32 a b hr k hw
theorem shape15 {o B w : Nat} {x0 : BitVec 4} (e : B + x0.toNat * 0x8000 = w) (hb : B = 2147483648 + o * 8388608) (ho : o < 256) :
    2147483648 ≤ w ∧ w < 4294967296 ∧ bits w 30 27 = o / 16 ∧ bits w 26 23 = o % 16 ∧ fld w 15 4 = x0 ∧ brokenBits w [(22, 19, 0, 1), (14, 0, 0, 1)] = none := by
  have := x0.isLt
  exact ⟨by omega, by omega, by simp only [bits]; omega, by simp only [bits]; omega, fld_eq x0 (by omega), broken_cons (by simp only [bits]; omega) (broken_cons (by simp only [bits]; omega) (broken_nil w))⟩
theorem Encodes.ret : ∀ y_a, Statement (.ret y_a) := by
  intro y_a n w h hw
  obtain ⟨rfl, e⟩ := read_word (u := 0xA1800000 + y_a.toNat * 0x8000) h
  obtain ⟨a, b, p, q, f0, k⟩ := shape15 (o := 67) e rfl (by decide)
  have hr : row32 w = row4 w 3 := row32_4 p q
  replace hr : row32 w = (.ret (fld w 15 4), [(22, 19, 0, 1), (14, 0, 0, 1)]) := hr
  rw [f0] at hr
  exact decode_of_row32 a b hr k hw
theorem shape16 {o B w : Nat} {x0 : BitVec 4} {x1 : BitVec 4} (e : B + x0.toNat * 0x8000 + x1.toNat * 0x800 = w) (hb : B = 2147483648 + o * 8388608) (ho : o < 256) :
    2147483648 ≤ w ∧ w < 4294967296 ∧ bits w 30 27 = o / 16 ∧ bits w 26 23 = o % 16 ∧ fld w 15 4 = x0 ∧ fld w 11 4 = x1 ∧ brokenBits w [(22, 19, 0, 1), (10, 0, 0, 1)] = none := by
  have := x0.isLt
  have := x1.isLt
  exact ⟨by omega, by omega, by simp only [bits]; omega, by simp only [bits]; omega, fld_eq x0 (by omega), fld_eq x1 (by omega), broken_cons (by simp only [bits]; omega) (broken_cons (by simp only [bits]; omega) (broken_nil w))⟩
theorem Encodes.jr : ∀ y_a y_b, Statement (.jr y_a y_b) := by
  intro y_a y_b n w h hw
  obtain ⟨rfl, e⟩ := read_word (u := 0xA2000000 + y_a.toNat * 0x8000 + y_b.toNat * 0x800) h
  obtain ⟨a, b, p, q, f0, f1, k⟩ := shape16 (o := 68) e rfl (by decide)
  have hr : row32 w = row4 w 4 := row32_4 p q
  replace hr : row32 w = (.jr (fld w 15 4) (fld w 11 4), [(22, 19, 0, 1), (10, 0, 0, 1)]) := hr
  rw [f0, f1] at hr
  exact decode_of_row32 a b hr k hw
theorem shape17 {o B w : Nat} {x0 : BitVec 4} {x1 : BitVec 16} (e : B + x0.toNat * 0x80000 + x1.toNat * 0x1 = w) (hb : B = 2147483648 + o * 8388608) (ho : o < 256) :
    2147483648 ≤ w ∧ w < 4294967296 ∧ bits w 30 27 = o / 16 ∧ bits w 26 23 = o % 16 ∧ fld w 19 4 = x0 ∧ fld w 0 16 = x1 ∧ brokenBits w [(18, 16, 0, 1)] = none := by
  have := x0.isLt
  have := x1.isLt
  exact ⟨by omega, by omega, by simp only [bits]; omega, by simp only [bits]; omega, fld_eq x0 (by omega), fld_eq x1 (by omega), broken_cons (by simp only [bits]; omega) (broken_nil w)⟩
theorem Encodes.loop : ∀ y_a y_p, Statement (.loop y_a y_p) := by
  intro y_a y_p n w h hw
  obtain ⟨rfl, e⟩ := read_word (u := 0xA2800000 + y_a.toNat * 0x80000 + y_p.toNat * 0x1) h
  obtain ⟨a, b, p, q, f0, f1, k⟩ := shape17 (o := 69) e rfl (by decide)
  have hr : row32 w = row4 w 5 := row32_4 p q
  replace hr : row32 w = (.loop (fld w 19 4) (fld w 0 16), [(18, 16, 0, 1)]) := hr
  rw [f0, f1] at hr
  exact decode_of_row32 a b hr k hw
theorem Encodes.loopN : ∀ y_a y_p, Statement (.loopN y_a y_p) := by
  intro y_a y_p n w h hw
  obtain ⟨rfl, e⟩ := read_word (u := 0xA3000000 + y_a.toNat * 0x80000 + y_p.toNat * 0x1) h
  obtain ⟨a, b, p, q, f0, f1, k⟩ := shape17 (o := 70) e rfl (by decide)
  have hr : row32 w = row4 w 6 := row32_4 p q
  replace hr : row32 w = (.loopN (fld w 19 4) (fld w 0 16), [(18, 16, 0, 1)]) := hr
  rw [f0, f1] at hr
  exact decode_of_row32 a b hr k hw
theorem Encodes.bEq : ∀ y_a y_b y_p, Statement (.bEq y_a y_b y_p) := by
  intro y_a y_b y_p n w h hw
  obtain ⟨rfl, e⟩ := read_word (u := 0xA3800000 + y_a.toNat * 0x80000 + y_b.toNat * 0x8000 + y_p.toNat * 0x1) h
  obtain ⟨a, b, p, q, f0, f1, f2, k⟩ := shape6 (o := 71) e rfl (by decide)
  have hr : row32 w = row4 w 7 := row32_4 p q
  replace hr : row32 w = (.bEq (fld w 19 4) (fld w 15 4) (fld w 0 15), []) := hr
  rw [f0, f1, f2] at hr
  exact decode_of_row32 a b hr k hw
theorem Encodes.bNe : ∀ y_a y_b y_p, Statement (.bNe y_a y_b y_p) := by
  intro y_a y_b y_p n w h hw
  obtain ⟨rfl, e⟩ := read_word (u := 0xA4000000 + y_a.toNat * 0x80000 + y_b.toNat * 0x8000 + y_p.toNat * 0x1) h
  obtain ⟨a, b, p, q, f0, f1, f2, k⟩ := shape6 (o := 72) e rfl (by decide)
  have hr : row32 w = row4 w 8 := row32_4 p q
  replace hr : row32 w = (.bNe (fld w 19 4) (fld w 15 4) (fld w 0 15), []) := hr
  rw [f0, f1, f2] at hr
  exact decode_of_row32 a b hr k hw
theorem Encodes.bLtS64 : ∀ y_a y_b y_p, Statement (.bLtS64 y_a y_b y_p) := by
  intro y_a y_b y_p n w h hw
  obtain ⟨rfl, e⟩ := read_word (u := 0xA4800000 + y_a.toNat * 0x80000 + y_b.toNat * 0x8000 + y_p.toNat * 0x1) h
  obtain ⟨a, b, p, q, f0, f1, f2, k⟩ := shape6 (o := 73) e rfl (by decide)
  have hr : row32 w = row4 w 9 := row32_4 p q
  replace hr : row32 w = (.bLtS64 (fld w 19 4) (fld w 15 4) (fld w 0 15), []) := hr
  rw [f0, f1, f2] at hr
  exact decode_of_row32 a b hr k hw
theorem Encodes.bLtN64 : ∀ y_a y_b y_p, Statement (.bLtN64 y_a y_b y_p) := by
  intro y_a y_b y_p n w h hw
  obtain ⟨rfl, e⟩ := read_word (u := 0xA5000000 + y_a.toNat * 0x80000 + y_b.toNat * 0x8000 + y_p.toNat * 0x1) h
  obtain ⟨a, b, p, q, f0, f1, f2, k⟩ := shape6 (o := 74) e rfl (by decide)
  have hr : row32 w = row4 w 10 := row32_4 p q
  replace hr : row32 w = (.bLtN64 (fld w 19 4) (fld w 15 4) (fld w 0 15), []) := hr
  rw [f0, f1, f2] at hr
  exact decode_of_row32 a b hr k hw
theorem Encodes.bGeS64 : ∀ y_a y_b y_p, Statement (.bGeS64 y_a y_b y_p) := by
  intro y_a y_b y_p n w h hw
  obtain ⟨rfl, e⟩ := read_word (u := 0xA5800000 + y_a.toNat * 0x80000 + y_b.toNat * 0x8000 + y_p.toNat * 0x1) h
  obtain ⟨a, b, p, q, f0, f1, f2, k⟩ := shape6 (o := 75) e rfl (by decide)
  have hr : row32 w = row4 w 11 := row32_4 p q
  replace hr : row32 w = (.bGeS64 (fld w 19 4) (fld w 15 4) (fld w 0 15), []) := hr
  rw [f0, f1, f2] at hr
  exact decode_of_row32 a b hr k hw
theorem Encodes.bGeN64 : ∀ y_a y_b y_p, Statement (.bGeN64 y_a y_b y_p) := by
  intro y_a y_b y_p n w h hw
  obtain ⟨rfl, e⟩ := read_word (u := 0xA6000000 + y_a.toNat * 0x80000 + y_b.toNat * 0x8000 + y_p.toNat * 0x1) h
  obtain ⟨a, b, p, q, f0, f1, f2, k⟩ := shape6 (o := 76) e rfl (by decide)
  have hr : row32 w = row4 w 12 := row32_4 p q
  replace hr : row32 w = (.bGeN64 (fld w 19 4) (fld w 15 4) (fld w 0 15), []) := hr
  rw [f0, f1, f2] at hr
  exact decode_of_row32 a b hr k hw
theorem shape18 {o B w : Nat} (e : B = w) (hb : B = 2147483648 + o * 8388608) (ho : o < 256) :
    2147483648 ≤ w ∧ w < 4294967296 ∧ bits w 30 27 = o / 16 ∧ bits w 26 23 = o % 16 ∧ brokenBits w [(22, 0, 0, 1)] = none := by
  exact ⟨by omega, by omega, by simp only [bits]; omega, by simp only [bits]; omega, broken_cons (by simp only [bits]; omega) (broken_nil w)⟩
theorem Encodes.yield : Statement (.yield) := by
  intro n w h hw
  obtain ⟨rfl, e⟩ := read_word (u := 0xA6800000) h
  obtain ⟨a, b, p, q, k⟩ := shape18 (o := 77) e rfl (by decide)
  have hr : row32 w = row4 w 13 := row32_4 p q
  replace hr : row32 w = (.yield, [(22, 0, 0, 1)]) := hr
  exact decode_of_row32 a b hr k hw
theorem Encodes.nop : Statement (.nop) := by
  intro n w h hw
  obtain ⟨rfl, e⟩ := read_word (u := 0xA7000000) h
  obtain ⟨a, b, p, q, k⟩ := shape18 (o := 78) e rfl (by decide)
  have hr : row32 w = row4 w 14 := row32_4 p q
  replace hr : row32 w = (.nop, [(22, 0, 0, 1)]) := hr
  exact decode_of_row32 a b hr k hw
theorem Encodes.callr : ∀ y_d y_a, Statement (.callr y_d y_a) := by
  intro y_d y_a n w h hw
  obtain ⟨rfl, e⟩ := read_word (u := 0xA7800000 + y_d.toNat * 0x80000 + y_a.toNat * 0x8000) h
  obtain ⟨a, b, p, q, f0, f1, k⟩ := shape2 (o := 79) e rfl (by decide)
  have hr : row32 w = row4 w 15 := row32_4 p q
  replace hr : row32 w = (.callr (fld w 19 4) (fld w 15 4), [(14, 0, 0, 1)]) := hr
  rw [f0, f1] at hr
  exact decode_of_row32 a b hr k hw
theorem shape19 {o B w : Nat} {x0 : BitVec 16} {x1 : BitVec 3} {x2 : BitVec 1} (e : B + x0.toNat * 0x80 + x1.toNat * 0x10 + x2.toNat * 0x1 = w) (hb : B = 2147483648 + o * 8388608) (ho : o < 256) :
    2147483648 ≤ w ∧ w < 4294967296 ∧ bits w 30 27 = o / 16 ∧ bits w 26 23 = o % 16 ∧ fld w 7 16 = x0 ∧ fld w 4 3 = x1 ∧ fld w 0 1 = x2 ∧ brokenBits w [(3, 1, 0, 4)] = none := by
  have := x0.isLt
  have := x1.isLt
  have := x2.isLt
  exact ⟨by omega, by omega, by simp only [bits]; omega, by simp only [bits]; omega, fld_eq x0 (by omega), fld_eq x1 (by omega), fld_eq x2 (by omega), broken_cons (by simp only [bits]; omega) (broken_nil w)⟩
theorem Encodes.jx : ∀ y_r y_q y_h, Statement (.jx y_r y_q y_h) := by
  intro y_r y_q y_h n w h hw
  obtain ⟨rfl, e⟩ := read_word (u := 0xA8000000 + y_r.toNat * 0x80 + y_q.toNat * 0x10 + y_h.toNat * 0x1) h
  obtain ⟨a, b, p, q, f0, f1, f2, k⟩ := shape19 (o := 80) e rfl (by decide)
  have hr : row32 w = row5 w 0 := row32_5 p q
  replace hr : row32 w = (.jx (fld w 7 16) (fld w 4 3) (fld w 0 1), [(3, 1, 0, 4)]) := hr
  rw [f0, f1, f2] at hr
  exact decode_of_row32 a b hr k hw
theorem Encodes.cx : ∀ y_r y_q y_h, Statement (.cx y_r y_q y_h) := by
  intro y_r y_q y_h n w h hw
  obtain ⟨rfl, e⟩ := read_word (u := 0xA8800000 + y_r.toNat * 0x80 + y_q.toNat * 0x10 + y_h.toNat * 0x1) h
  obtain ⟨a, b, p, q, f0, f1, f2, k⟩ := shape19 (o := 81) e rfl (by decide)
  have hr : row32 w = row5 w 1 := row32_5 p q
  replace hr : row32 w = (.cx (fld w 7 16) (fld w 4 3) (fld w 0 1), [(3, 1, 0, 4)]) := hr
  rw [f0, f1, f2] at hr
  exact decode_of_row32 a b hr k hw
theorem shape20 {o B w : Nat} {x0 : BitVec 4} {x1 : BitVec 1} {x2 : BitVec 3} (e : B + x0.toNat * 0x8000 + x1.toNat * 0x8 + x2.toNat * 0x1 = w) (hb : B = 2147483648 + o * 8388608) (ho : o < 256) :
    2147483648 ≤ w ∧ w < 4294967296 ∧ bits w 30 27 = o / 16 ∧ bits w 26 23 = o % 16 ∧ fld w 15 4 = x0 ∧ fld w 3 1 = x1 ∧ fld w 0 3 = x2 ∧ brokenBits w [(22, 19, 0, 1), (14, 4, 0, 1)] = none := by
  have := x0.isLt
  have := x1.isLt
  have := x2.isLt
  exact ⟨by omega, by omega, by simp only [bits]; omega, by simp only [bits]; omega, fld_eq x0 (by omega), fld_eq x1 (by omega), fld_eq x2 (by omega), broken_cons (by simp only [bits]; omega) (broken_cons (by simp only [bits]; omega) (broken_nil w))⟩
theorem Encodes.jxr : ∀ y_a y_h y_q, Statement (.jxr y_a y_h y_q) := by
  intro y_a y_h y_q n w h hw
  obtain ⟨rfl, e⟩ := read_word (u := 0xA9000000 + y_a.toNat * 0x8000 + y_h.toNat * 0x8 + y_q.toNat * 0x1) h
  obtain ⟨a, b, p, q, f0, f1, f2, k⟩ := shape20 (o := 82) e rfl (by decide)
  have hr : row32 w = row5 w 2 := row32_5 p q
  replace hr : row32 w = (.jxr (fld w 15 4) (fld w 3 1) (fld w 0 3), [(22, 19, 0, 1), (14, 4, 0, 1)]) := hr
  rw [f0, f1, f2] at hr
  exact decode_of_row32 a b hr k hw
theorem shape21 {o B w : Nat} {x0 : BitVec 3} {x1 : BitVec 1} (e : B + x0.toNat * 0x10 + x1.toNat * 0x1 = w) (hb : B = 2147483648 + o * 8388608) (ho : o < 256) :
    2147483648 ≤ w ∧ w < 4294967296 ∧ bits w 30 27 = o / 16 ∧ bits w 26 23 = o % 16 ∧ fld w 4 3 = x0 ∧ fld w 0 1 = x1 ∧ brokenBits w [(22, 7, 0, 1), (3, 1, 0, 4)] = none := by
  have := x0.isLt
  have := x1.isLt
  exact ⟨by omega, by omega, by simp only [bits]; omega, by simp only [bits]; omega, fld_eq x0 (by omega), fld_eq x1 (by omega), broken_cons (by simp only [bits]; omega) (broken_cons (by simp only [bits]; omega) (broken_nil w))⟩
theorem Encodes.xret : ∀ y_q y_h, Statement (.xret y_q y_h) := by
  intro y_q y_h n w h hw
  obtain ⟨rfl, e⟩ := read_word (u := 0xA9800000 + y_q.toNat * 0x10 + y_h.toNat * 0x1) h
  obtain ⟨a, b, p, q, f0, f1, k⟩ := shape21 (o := 83) e rfl (by decide)
  have hr : row32 w = row5 w 3 := row32_5 p q
  replace hr : row32 w = (.xret (fld w 4 3) (fld w 0 1), [(22, 7, 0, 1), (3, 1, 0, 4)]) := hr
  rw [f0, f1] at hr
  exact decode_of_row32 a b hr k hw
theorem shape22 {o B w : Nat} {x0 : BitVec 3} (e : B + x0.toNat * 0x10 = w) (hb : B = 2147483648 + o * 8388608) (ho : o < 256) :
    2147483648 ≤ w ∧ w < 4294967296 ∧ bits w 30 27 = o / 16 ∧ bits w 26 23 = o % 16 ∧ fld w 4 3 = x0 ∧ brokenBits w [(22, 7, 0, 1), (3, 1, 0, 4), (0, 0, 0, 1)] = none := by
  have := x0.isLt
  exact ⟨by omega, by omega, by simp only [bits]; omega, by simp only [bits]; omega, fld_eq x0 (by omega), broken_cons (by simp only [bits]; omega) (broken_cons (by simp only [bits]; omega) (broken_cons (by simp only [bits]; omega) (broken_nil w)))⟩
theorem Encodes.xend : ∀ y_q, Statement (.xend y_q) := by
  intro y_q n w h hw
  obtain ⟨rfl, e⟩ := read_word (u := 0xAA000000 + y_q.toNat * 0x10) h
  obtain ⟨a, b, p, q, f0, k⟩ := shape22 (o := 84) e rfl (by decide)
  have hr : row32 w = row5 w 4 := row32_5 p q
  replace hr : row32 w = (.xend (fld w 4 3), [(22, 7, 0, 1), (3, 1, 0, 4), (0, 0, 0, 1)]) := hr
  rw [f0] at hr
  exact decode_of_row32 a b hr k hw
theorem shape23 {o B w : Nat} {x0 : BitVec 4} {x1 : BitVec 4} {x2 : BitVec 1} {x3 : BitVec 3} (e : B + x0.toNat * 0x8000 + x1.toNat * 0x800 + x2.toNat * 0x8 + x3.toNat * 0x1 = w) (hb : B = 2147483648 + o * 8388608) (ho : o < 256) :
    2147483648 ≤ w ∧ w < 4294967296 ∧ bits w 30 27 = o / 16 ∧ bits w 26 23 = o % 16 ∧ fld w 15 4 = x0 ∧ fld w 11 4 = x1 ∧ fld w 3 1 = x2 ∧ fld w 0 3 = x3 ∧ brokenBits w [(22, 19, 0, 1), (10, 4, 0, 1)] = none := by
  have := x0.isLt
  have := x1.isLt
  have := x2.isLt
  have := x3.isLt
  exact ⟨by omega, by omega, by simp only [bits]; omega, by simp only [bits]; omega, fld_eq x0 (by omega), fld_eq x1 (by omega), fld_eq x2 (by omega), fld_eq x3 (by omega), broken_cons (by simp only [bits]; omega) (broken_cons (by simp only [bits]; omega) (broken_nil w))⟩
theorem Encodes.send : ∀ y_a y_b y_p y_n, Statement (.send y_a y_b y_p y_n) := by
  intro y_a y_b y_p y_n n w h hw
  obtain ⟨rfl, e⟩ := read_word (u := 0xAA800000 + y_a.toNat * 0x8000 + y_b.toNat * 0x800 + y_p.toNat * 0x8 + y_n.toNat * 0x1) h
  obtain ⟨a, b, p, q, f0, f1, f2, f3, k⟩ := shape23 (o := 85) e rfl (by decide)
  have hr : row32 w = row5 w 5 := row32_5 p q
  replace hr : row32 w = (.send (fld w 15 4) (fld w 11 4) (fld w 3 1) (fld w 0 3), [(22, 19, 0, 1), (10, 4, 0, 1)]) := hr
  rw [f0, f1, f2, f3] at hr
  exact decode_of_row32 a b hr k hw
theorem shape24 {o B w : Nat} {x0 : BitVec 4} {x1 : BitVec 4} {x2 : BitVec 4} {x3 : BitVec 1} {x4 : BitVec 3} (e : B + x0.toNat * 0x80000 + x1.toNat * 0x8000 + x2.toNat * 0x800 + x3.toNat * 0x8 + x4.toNat * 0x1 = w) (hb : B = 2147483648 + o * 8388608) (ho : o < 256) :
    2147483648 ≤ w ∧ w < 4294967296 ∧ bits w 30 27 = o / 16 ∧ bits w 26 23 = o % 16 ∧ fld w 19 4 = x0 ∧ fld w 15 4 = x1 ∧ fld w 11 4 = x2 ∧ fld w 3 1 = x3 ∧ fld w 0 3 = x4 ∧ brokenBits w [(10, 4, 0, 1)] = none := by
  have := x0.isLt
  have := x1.isLt
  have := x2.isLt
  have := x3.isLt
  have := x4.isLt
  exact ⟨by omega, by omega, by simp only [bits]; omega, by simp only [bits]; omega, fld_eq x0 (by omega), fld_eq x1 (by omega), fld_eq x2 (by omega), fld_eq x3 (by omega), fld_eq x4 (by omega), broken_cons (by simp only [bits]; omega) (broken_nil w)⟩
theorem Encodes.sendnb : ∀ y_d y_a y_b y_p y_n, Statement (.sendnb y_d y_a y_b y_p y_n) := by
  intro y_d y_a y_b y_p y_n n w h hw
  obtain ⟨rfl, e⟩ := read_word (u := 0xAB000000 + y_d.toNat * 0x80000 + y_a.toNat * 0x8000 + y_b.toNat * 0x800 + y_p.toNat * 0x8 + y_n.toNat * 0x1) h
  obtain ⟨a, b, p, q, f0, f1, f2, f3, f4, k⟩ := shape24 (o := 86) e rfl (by decide)
  have hr : row32 w = row5 w 6 := row32_5 p q
  replace hr : row32 w = (.sendnb (fld w 19 4) (fld w 15 4) (fld w 11 4) (fld w 3 1) (fld w 0 3), [(10, 4, 0, 1)]) := hr
  rw [f0, f1, f2, f3, f4] at hr
  exact decode_of_row32 a b hr k hw
theorem Encodes.recv : ∀ y_d y_a, Statement (.recv y_d y_a) := by
  intro y_d y_a n w h hw
  obtain ⟨rfl, e⟩ := read_word (u := 0xAB800000 + y_d.toNat * 0x80000 + y_a.toNat * 0x8000) h
  obtain ⟨a, b, p, q, f0, f1, k⟩ := shape2 (o := 87) e rfl (by decide)
  have hr : row32 w = row5 w 7 := row32_5 p q
  replace hr : row32 w = (.recv (fld w 19 4) (fld w 15 4), [(14, 0, 0, 1)]) := hr
  rw [f0, f1] at hr
  exact decode_of_row32 a b hr k hw
theorem Encodes.recvnb : ∀ y_d y_a y_b, Statement (.recvnb y_d y_a y_b) := by
  intro y_d y_a y_b n w h hw
  obtain ⟨rfl, e⟩ := read_word (u := 0xAC000000 + y_d.toNat * 0x80000 + y_a.toNat * 0x8000 + y_b.toNat * 0x800) h
  obtain ⟨a, b, p, q, f0, f1, f2, k⟩ := shape1 (o := 88) e rfl (by decide)
  have hr : row32 w = row5 w 8 := row32_5 p q
  replace hr : row32 w = (.recvnb (fld w 19 4) (fld w 15 4) (fld w 11 4), [(10, 0, 0, 1)]) := hr
  rw [f0, f1, f2] at hr
  exact decode_of_row32 a b hr k hw
theorem Encodes.chbind : ∀ y_d y_a y_b, Statement (.chbind y_d y_a y_b) := by
  intro y_d y_a y_b n w h hw
  obtain ⟨rfl, e⟩ := read_word (u := 0xAC800000 + y_d.toNat * 0x80000 + y_a.toNat * 0x8000 + y_b.toNat * 0x800) h
  obtain ⟨a, b, p, q, f0, f1, f2, k⟩ := shape1 (o := 89) e rfl (by decide)
  have hr : row32 w = row5 w 9 := row32_5 p q
  replace hr : row32 w = (.chbind (fld w 19 4) (fld w 15 4) (fld w 11 4), [(10, 0, 0, 1)]) := hr
  rw [f0, f1, f2] at hr
  exact decode_of_row32 a b hr k hw
theorem Encodes.launch : ∀ y_d y_a, Statement (.launch y_d y_a) := by
  intro y_d y_a n w h hw
  obtain ⟨rfl, e⟩ := read_word (u := 0xAD000000 + y_d.toNat * 0x80000 + y_a.toNat * 0x8000) h
  obtain ⟨a, b, p, q, f0, f1, k⟩ := shape2 (o := 90) e rfl (by decide)
  have hr : row32 w = row5 w 10 := row32_5 p q
  replace hr : row32 w = (.launch (fld w 19 4) (fld w 15 4), [(14, 0, 0, 1)]) := hr
  rw [f0, f1] at hr
  exact decode_of_row32 a b hr k hw
theorem shape25 {o B w : Nat} {x0 : BitVec 4} {x1 : BitVec 4} {x2 : BitVec 1} {x3 : BitVec 3} (e : B + x0.toNat * 0x80000 + x1.toNat * 0x8000 + x2.toNat * 0x8 + x3.toNat * 0x1 = w) (hb : B = 2147483648 + o * 8388608) (ho : o < 256) :
    2147483648 ≤ w ∧ w < 4294967296 ∧ bits w 30 27 = o / 16 ∧ bits w 26 23 = o % 16 ∧ fld w 19 4 = x0 ∧ fld w 15 4 = x1 ∧ fld w 3 1 = x2 ∧ fld w 0 3 = x3 ∧ brokenBits w [(14, 4, 0, 1)] = none := by
  have := x0.isLt
  have := x1.isLt
  have := x2.isLt
  have := x3.isLt
  exact ⟨by omega, by omega, by simp only [bits]; omega, by simp only [bits]; omega, fld_eq x0 (by omega), fld_eq x1 (by omega), fld_eq x2 (by omega), fld_eq x3 (by omega), broken_cons (by simp only [bits]; omega) (broken_nil w)⟩
theorem Encodes.spawn : ∀ y_d y_a y_h y_q, Statement (.spawn y_d y_a y_h y_q) := by
  intro y_d y_a y_h y_q n w h hw
  obtain ⟨rfl, e⟩ := read_word (u := 0xAD800000 + y_d.toNat * 0x80000 + y_a.toNat * 0x8000 + y_h.toNat * 0x8 + y_q.toNat * 0x1) h
  obtain ⟨a, b, p, q, f0, f1, f2, f3, k⟩ := shape25 (o := 91) e rfl (by decide)
  have hr : row32 w = row5 w 11 := row32_5 p q
  replace hr : row32 w = (.spawn (fld w 19 4) (fld w 15 4) (fld w 3 1) (fld w 0 3), [(14, 4, 0, 1)]) := hr
  rw [f0, f1, f2, f3] at hr
  exact decode_of_row32 a b hr k hw
theorem shape26 {o B w : Nat} {x0 : BitVec 16} {x1 : BitVec 3} (e : B + x0.toNat * 0x80 + x1.toNat * 0x10 = w) (hb : B = 2147483648 + o * 8388608) (ho : o < 256) :
    2147483648 ≤ w ∧ w < 4294967296 ∧ bits w 30 27 = o / 16 ∧ bits w 26 23 = o % 16 ∧ ¬ bits w 0 0 = 1 ∧ fld w 7 16 = x0 ∧ fld w 4 3 = x1 ∧ brokenBits w [(3, 1, 0, 4)] = none := by
  have := x0.isLt
  have := x1.isLt
  exact ⟨by omega, by omega, by simp only [bits]; omega, by simp only [bits]; omega, by simp only [bits]; omega, fld_eq x0 (by omega), fld_eq x1 (by omega), broken_cons (by simp only [bits]; omega) (broken_nil w)⟩
theorem Encodes.rrepl : ∀ y_r y_g, Statement (.rrepl y_r y_g) := by
  intro y_r y_g n w h hw
  obtain ⟨rfl, e⟩ := read_word (u := 0xAE000000 + y_r.toNat * 0x80 + y_g.toNat * 0x10) h
  obtain ⟨a, b, p, q, c0, f0, f1, k⟩ := shape26 (o := 92) e rfl (by decide)
  have hr : row32 w = row5 w 12 := row32_5 p q
  simp only [row5] at hr
  rw [if_neg c0, f0, f1] at hr
  exact decode_of_row32 a b hr k hw
theorem shape27 {o B w : Nat} {x0 : BitVec 16} {x1 : BitVec 3} (e : B + x0.toNat * 0x80 + x1.toNat * 0x10 = w) (hb : B = 2147483649 + o * 8388608) (ho : o < 256) :
    2147483648 ≤ w ∧ w < 4294967296 ∧ bits w 30 27 = o / 16 ∧ bits w 26 23 = o % 16 ∧ bits w 0 0 = 1 ∧ fld w 7 16 = x0 ∧ fld w 4 3 = x1 ∧ brokenBits w [(3, 1, 0, 4)] = none := by
  have := x0.isLt
  have := x1.isLt
  exact ⟨by omega, by omega, by simp only [bits]; omega, by simp only [bits]; omega, by simp only [bits]; omega, fld_eq x0 (by omega), fld_eq x1 (by omega), broken_cons (by simp only [bits]; omega) (broken_nil w)⟩
theorem Encodes.rreplRet : ∀ y_r y_g, Statement (.rreplRet y_r y_g) := by
  intro y_r y_g n w h hw
  obtain ⟨rfl, e⟩ := read_word (u := 0xAE000001 + y_r.toNat * 0x80 + y_g.toNat * 0x10) h
  obtain ⟨a, b, p, q, c0, f0, f1, k⟩ := shape27 (o := 92) e rfl (by decide)
  have hr : row32 w = row5 w 12 := row32_5 p q
  simp only [row5] at hr
  rw [if_pos c0, f0, f1] at hr
  exact decode_of_row32 a b hr k hw
theorem shape28 {o B w : Nat} {x0 : BitVec 4} {x1 : BitVec 4} {x2 : BitVec 4} (e : B + x0.toNat * 0x80000 + x1.toNat * 0x8000 + x2.toNat * 0x800 = w) (hb : B = 2147483648 + o * 8388608) (ho : o < 256) :
    2147483648 ≤ w ∧ w < 4294967296 ∧ bits w 30 27 = o / 16 ∧ bits w 26 23 = o % 16 ∧ ¬ bits w 0 0 = 1 ∧ fld w 19 4 = x0 ∧ fld w 15 4 = x1 ∧ fld w 11 4 = x2 ∧ brokenBits w [(10, 1, 0, 1)] = none := by
  have := x0.isLt
  have := x1.isLt
  have := x2.isLt
  exact ⟨by omega, by omega, by simp only [bits]; omega, by simp only [bits]; omega, by simp only [bits]; omega, fld_eq x0 (by omega), fld_eq x1 (by omega), fld_eq x2 (by omega), broken_cons (by simp only [bits]; omega) (broken_nil w)⟩
theorem Encodes.evbind : ∀ y_d y_a y_b, Statement (.evbind y_d y_a y_b) := by
  intro y_d y_a y_b n w h hw
  obtain ⟨rfl, e⟩ := read_word (u := 0xAE800000 + y_d.toNat * 0x80000 + y_a.toNat * 0x8000 + y_b.toNat * 0x800) h
  obtain ⟨a, b, p, q, c0, f0, f1, f2, k⟩ := shape28 (o := 93) e rfl (by decide)
  have hr : row32 w = row5 w 13 := row32_5 p q
  simp only [row5] at hr
  rw [if_neg c0, f0, f1, f2] at hr
  exact decode_of_row32 a b hr k hw
theorem shape29 {o B w : Nat} {x0 : BitVec 4} {x1 : BitVec 4} (e : B + x0.toNat * 0x80000 + x1.toNat * 0x8000 = w) (hb : B = 2147483649 + o * 8388608) (ho : o < 256) :
    2147483648 ≤ w ∧ w < 4294967296 ∧ bits w 30 27 = o / 16 ∧ bits w 26 23 = o % 16 ∧ bits w 0 0 = 1 ∧ fld w 19 4 = x0 ∧ fld w 15 4 = x1 ∧ brokenBits w [(14, 1, 0, 1)] = none := by
  have := x0.isLt
  have := x1.isLt
  exact ⟨by omega, by omega, by simp only [bits]; omega, by simp only [bits]; omega, by simp only [bits]; omega, fld_eq x0 (by omega), fld_eq x1 (by omega), broken_cons (by simp only [bits]; omega) (broken_nil w)⟩
theorem Encodes.evbindOff : ∀ y_d y_a, Statement (.evbindOff y_d y_a) := by
  intro y_d y_a n w h hw
  obtain ⟨rfl, e⟩ := read_word (u := 0xAE800001 + y_d.toNat * 0x80000 + y_a.toNat * 0x8000) h
  obtain ⟨a, b, p, q, c0, f0, f1, k⟩ := shape29 (o := 93) e rfl (by decide)
  have hr : row32 w = row5 w 13 := row32_5 p q
  simp only [row5] at hr
  rw [if_pos c0, f0, f1] at hr
  exact decode_of_row32 a b hr k hw
theorem Encodes.vclaim : ∀ y_d y_a, Statement (.vclaim y_d y_a) := by
  intro y_d y_a n w h hw
  obtain ⟨rfl, e⟩ := read_word (u := 0xAF000000 + y_d.toNat * 0x80000 + y_a.toNat * 0x8000) h
  obtain ⟨a, b, p, q, f0, f1, k⟩ := shape2 (o := 94) e rfl (by decide)
  have hr : row32 w = row5 w 14 := row32_5 p q
  replace hr : row32 w = (.vclaim (fld w 19 4) (fld w 15 4), [(14, 0, 0, 1)]) := hr
  rw [f0, f1] at hr
  exact decode_of_row32 a b hr k hw
theorem shape30 {o B w : Nat} {x0 : BitVec 4} (e : B + x0.toNat * 0x80000 = w) (hb : B = 2147483648 + o * 8388608) (ho : o < 256) :
    2147483648 ≤ w ∧ w < 4294967296 ∧ bits w 30 27 = o / 16 ∧ bits w 26 23 = o % 16 ∧ fld w 19 4 = x0 ∧ brokenBits w [(18, 0, 0, 1)] = none := by
  have := x0.isLt
  exact ⟨by omega, by omega, by simp only [bits]; omega, by simp only [bits]; omega, fld_eq x0 (by omega), broken_cons (by simp only [bits]; omega) (broken_nil w)⟩
theorem Encodes.vrenew : ∀ y_d, Statement (.vrenew y_d) := by
  intro y_d n w h hw
  obtain ⟨rfl, e⟩ := read_word (u := 0xAF800000 + y_d.toNat * 0x80000) h
  obtain ⟨a, b, p, q, f0, k⟩ := shape30 (o := 95) e rfl (by decide)
  have hr : row32 w = row5 w 15 := row32_5 p q
  replace hr : row32 w = (.vrenew (fld w 19 4), [(18, 0, 0, 1)]) := hr
  rw [f0] at hr
  exact decode_of_row32 a b hr k hw
theorem shape31 {o B w : Nat} {x0 : BitVec 3} {x1 : BitVec 2} {x2 : BitVec 6} {x3 : BitVec 6} {x4 : BitVec 6} (e : B + x0.toNat * 0x100000 + x1.toNat * 0x40000 + x2.toNat * 0x1000 + x3.toNat * 0x40 + x4.toNat * 0x1 = w) (hb : B = 2147483648 + o * 8388608) (ho : o < 256) :
    2147483648 ≤ w ∧ w < 4294967296 ∧ bits w 30 27 = o / 16 ∧ bits w 26 23 = o % 16 ∧ fld w 20 3 = x0 ∧ fld w 18 2 = x1 ∧ fld w 12 6 = x2 ∧ fld w 6 6 = x3 ∧ fld w 0 6 = x4 ∧ brokenBits w [] = none := by
  have := x0.isLt
  have := x1.isLt
  have := x2.isLt
  have := x3.isLt
  have := x4.isLt
  exact ⟨by omega, by omega, by simp only [bits]; omega, by simp only [bits]; omega, fld_eq x0 (by omega), fld_eq x1 (by omega), fld_eq x2 (by omega), fld_eq x3 (by omega), fld_eq x4 (by omega), broken_nil w⟩
theorem Encodes.vadd : ∀ y_g y_m y_d y_a y_b, Statement (.vadd y_g y_m y_d y_a y_b) := by
  intro y_g y_m y_d y_a y_b n w h hw
  obtain ⟨rfl, e⟩ := read_word (u := 0xB0000000 + y_g.toNat * 0x100000 + y_m.toNat * 0x40000 + y_d.toNat * 0x1000 + y_a.toNat * 0x40 + y_b.toNat * 0x1) h
  obtain ⟨a, b, p, q, f0, f1, f2, f3, f4, k⟩ := shape31 (o := 96) e rfl (by decide)
  have hr : row32 w = row6 w 0 := row32_6 p q
  replace hr : row32 w = (.vadd (fld w 20 3) (fld w 18 2) (fld w 12 6) (fld w 6 6) (fld w 0 6), []) := hr
  rw [f0, f1, f2, f3, f4] at hr
  exact decode_of_row32 a b hr k hw
theorem Encodes.vsub : ∀ y_g y_m y_d y_a y_b, Statement (.vsub y_g y_m y_d y_a y_b) := by
  intro y_g y_m y_d y_a y_b n w h hw
  obtain ⟨rfl, e⟩ := read_word (u := 0xB0800000 + y_g.toNat * 0x100000 + y_m.toNat * 0x40000 + y_d.toNat * 0x1000 + y_a.toNat * 0x40 + y_b.toNat * 0x1) h
  obtain ⟨a, b, p, q, f0, f1, f2, f3, f4, k⟩ := shape31 (o := 97) e rfl (by decide)
  have hr : row32 w = row6 w 1 := row32_6 p q
  replace hr : row32 w = (.vsub (fld w 20 3) (fld w 18 2) (fld w 12 6) (fld w 6 6) (fld w 0 6), []) := hr
  rw [f0, f1, f2, f3, f4] at hr
  exact decode_of_row32 a b hr k hw
theorem Encodes.vmul : ∀ y_g y_m y_d y_a y_b, Statement (.vmul y_g y_m y_d y_a y_b) := by
  intro y_g y_m y_d y_a y_b n w h hw
  obtain ⟨rfl, e⟩ := read_word (u := 0xB1000000 + y_g.toNat * 0x100000 + y_m.toNat * 0x40000 + y_d.toNat * 0x1000 + y_a.toNat * 0x40 + y_b.toNat * 0x1) h
  obtain ⟨a, b, p, q, f0, f1, f2, f3, f4, k⟩ := shape31 (o := 98) e rfl (by decide)
  have hr : row32 w = row6 w 2 := row32_6 p q
  replace hr : row32 w = (.vmul (fld w 20 3) (fld w 18 2) (fld w 12 6) (fld w 6 6) (fld w 0 6), []) := hr
  rw [f0, f1, f2, f3, f4] at hr
  exact decode_of_row32 a b hr k hw
theorem Encodes.vmulhS : ∀ y_g y_m y_d y_a y_b, Statement (.vmulhS y_g y_m y_d y_a y_b) := by
  intro y_g y_m y_d y_a y_b n w h hw
  obtain ⟨rfl, e⟩ := read_word (u := 0xB1800000 + y_g.toNat * 0x100000 + y_m.toNat * 0x40000 + y_d.toNat * 0x1000 + y_a.toNat * 0x40 + y_b.toNat * 0x1) h
  obtain ⟨a, b, p, q, f0, f1, f2, f3, f4, k⟩ := shape31 (o := 99) e rfl (by decide)
  have hr : row32 w = row6 w 3 := row32_6 p q
  replace hr : row32 w = (.vmulhS (fld w 20 3) (fld w 18 2) (fld w 12 6) (fld w 6 6) (fld w 0 6), []) := hr
  rw [f0, f1, f2, f3, f4] at hr
  exact decode_of_row32 a b hr k hw
theorem Encodes.vmulhN : ∀ y_g y_m y_d y_a y_b, Statement (.vmulhN y_g y_m y_d y_a y_b) := by
  intro y_g y_m y_d y_a y_b n w h hw
  obtain ⟨rfl, e⟩ := read_word (u := 0xB2000000 + y_g.toNat * 0x100000 + y_m.toNat * 0x40000 + y_d.toNat * 0x1000 + y_a.toNat * 0x40 + y_b.toNat * 0x1) h
  obtain ⟨a, b, p, q, f0, f1, f2, f3, f4, k⟩ := shape31 (o := 100) e rfl (by decide)
  have hr : row32 w = row6 w 4 := row32_6 p q
  replace hr : row32 w = (.vmulhN (fld w 20 3) (fld w 18 2) (fld w 12 6) (fld w 6 6) (fld w 0 6), []) := hr
  rw [f0, f1, f2, f3, f4] at hr
  exact decode_of_row32 a b hr k hw
theorem Encodes.vdivS : ∀ y_g y_m y_d y_a y_b, Statement (.vdivS y_g y_m y_d y_a y_b) := by
  intro y_g y_m y_d y_a y_b n w h hw
  obtain ⟨rfl, e⟩ := read_word (u := 0xB2800000 + y_g.toNat * 0x100000 + y_m.toNat * 0x40000 + y_d.toNat * 0x1000 + y_a.toNat * 0x40 + y_b.toNat * 0x1) h
  obtain ⟨a, b, p, q, f0, f1, f2, f3, f4, k⟩ := shape31 (o := 101) e rfl (by decide)
  have hr : row32 w = row6 w 5 := row32_6 p q
  replace hr : row32 w = (.vdivS (fld w 20 3) (fld w 18 2) (fld w 12 6) (fld w 6 6) (fld w 0 6), []) := hr
  rw [f0, f1, f2, f3, f4] at hr
  exact decode_of_row32 a b hr k hw
theorem Encodes.vdivN : ∀ y_g y_m y_d y_a y_b, Statement (.vdivN y_g y_m y_d y_a y_b) := by
  intro y_g y_m y_d y_a y_b n w h hw
  obtain ⟨rfl, e⟩ := read_word (u := 0xB3000000 + y_g.toNat * 0x100000 + y_m.toNat * 0x40000 + y_d.toNat * 0x1000 + y_a.toNat * 0x40 + y_b.toNat * 0x1) h
  obtain ⟨a, b, p, q, f0, f1, f2, f3, f4, k⟩ := shape31 (o := 102) e rfl (by decide)
  have hr : row32 w = row6 w 6 := row32_6 p q
  replace hr : row32 w = (.vdivN (fld w 20 3) (fld w 18 2) (fld w 12 6) (fld w 6 6) (fld w 0 6), []) := hr
  rw [f0, f1, f2, f3, f4] at hr
  exact decode_of_row32 a b hr k hw
theorem Encodes.vremS : ∀ y_g y_m y_d y_a y_b, Statement (.vremS y_g y_m y_d y_a y_b) := by
  intro y_g y_m y_d y_a y_b n w h hw
  obtain ⟨rfl, e⟩ := read_word (u := 0xB3800000 + y_g.toNat * 0x100000 + y_m.toNat * 0x40000 + y_d.toNat * 0x1000 + y_a.toNat * 0x40 + y_b.toNat * 0x1) h
  obtain ⟨a, b, p, q, f0, f1, f2, f3, f4, k⟩ := shape31 (o := 103) e rfl (by decide)
  have hr : row32 w = row6 w 7 := row32_6 p q
  replace hr : row32 w = (.vremS (fld w 20 3) (fld w 18 2) (fld w 12 6) (fld w 6 6) (fld w 0 6), []) := hr
  rw [f0, f1, f2, f3, f4] at hr
  exact decode_of_row32 a b hr k hw
theorem Encodes.vremN : ∀ y_g y_m y_d y_a y_b, Statement (.vremN y_g y_m y_d y_a y_b) := by
  intro y_g y_m y_d y_a y_b n w h hw
  obtain ⟨rfl, e⟩ := read_word (u := 0xB4000000 + y_g.toNat * 0x100000 + y_m.toNat * 0x40000 + y_d.toNat * 0x1000 + y_a.toNat * 0x40 + y_b.toNat * 0x1) h
  obtain ⟨a, b, p, q, f0, f1, f2, f3, f4, k⟩ := shape31 (o := 104) e rfl (by decide)
  have hr : row32 w = row6 w 8 := row32_6 p q
  replace hr : row32 w = (.vremN (fld w 20 3) (fld w 18 2) (fld w 12 6) (fld w 6 6) (fld w 0 6), []) := hr
  rw [f0, f1, f2, f3, f4] at hr
  exact decode_of_row32 a b hr k hw
theorem shape32 {o B w : Nat} {x0 : BitVec 3} {x1 : BitVec 6} {x2 : BitVec 6} {x3 : BitVec 6} (e : B + x0.toNat * 0x100000 + x1.toNat * 0x1000 + x2.toNat * 0x40 + x3.toNat * 0x1 = w) (hb : B = 2147483648 + o * 8388608) (ho : o < 256) :
    2147483648 ≤ w ∧ w < 4294967296 ∧ bits w 30 27 = o / 16 ∧ bits w 26 23 = o % 16 ∧ fld w 20 3 = x0 ∧ fld w 12 6 = x1 ∧ fld w 6 6 = x2 ∧ fld w 0 6 = x3 ∧ brokenBits w [(19, 18, 0, 4)] = none := by
  have := x0.isLt
  have := x1.isLt
  have := x2.isLt
  have := x3.isLt
  exact ⟨by omega, by omega, by simp only [bits]; omega, by simp only [bits]; omega, fld_eq x0 (by omega), fld_eq x1 (by omega), fld_eq x2 (by omega), fld_eq x3 (by omega), broken_cons (by simp only [bits]; omega) (broken_nil w)⟩
theorem Encodes.vand : ∀ y_g y_d y_a y_b, Statement (.vand y_g y_d y_a y_b) := by
  intro y_g y_d y_a y_b n w h hw
  obtain ⟨rfl, e⟩ := read_word (u := 0xB4800000 + y_g.toNat * 0x100000 + y_d.toNat * 0x1000 + y_a.toNat * 0x40 + y_b.toNat * 0x1) h
  obtain ⟨a, b, p, q, f0, f1, f2, f3, k⟩ := shape32 (o := 105) e rfl (by decide)
  have hr : row32 w = row6 w 9 := row32_6 p q
  replace hr : row32 w = (.vand (fld w 20 3) (fld w 12 6) (fld w 6 6) (fld w 0 6), [(19, 18, 0, 4)]) := hr
  rw [f0, f1, f2, f3] at hr
  exact decode_of_row32 a b hr k hw
theorem Encodes.vor : ∀ y_g y_d y_a y_b, Statement (.vor y_g y_d y_a y_b) := by
  intro y_g y_d y_a y_b n w h hw
  obtain ⟨rfl, e⟩ := read_word (u := 0xB5000000 + y_g.toNat * 0x100000 + y_d.toNat * 0x1000 + y_a.toNat * 0x40 + y_b.toNat * 0x1) h
  obtain ⟨a, b, p, q, f0, f1, f2, f3, k⟩ := shape32 (o := 106) e rfl (by decide)
  have hr : row32 w = row6 w 10 := row32_6 p q
  replace hr : row32 w = (.vor (fld w 20 3) (fld w 12 6) (fld w 6 6) (fld w 0 6), [(19, 18, 0, 4)]) := hr
  rw [f0, f1, f2, f3] at hr
  exact decode_of_row32 a b hr k hw
theorem Encodes.vxor : ∀ y_g y_d y_a y_b, Statement (.vxor y_g y_d y_a y_b) := by
  intro y_g y_d y_a y_b n w h hw
  obtain ⟨rfl, e⟩ := read_word (u := 0xB5800000 + y_g.toNat * 0x100000 + y_d.toNat * 0x1000 + y_a.toNat * 0x40 + y_b.toNat * 0x1) h
  obtain ⟨a, b, p, q, f0, f1, f2, f3, k⟩ := shape32 (o := 107) e rfl (by decide)
  have hr : row32 w = row6 w 11 := row32_6 p q
  replace hr : row32 w = (.vxor (fld w 20 3) (fld w 12 6) (fld w 6 6) (fld w 0 6), [(19, 18, 0, 4)]) := hr
  rw [f0, f1, f2, f3] at hr
  exact decode_of_row32 a b hr k hw
theorem Encodes.vandn : ∀ y_g y_d y_a y_b, Statement (.vandn y_g y_d y_a y_b) := by
  intro y_g y_d y_a y_b n w h hw
  obtain ⟨rfl, e⟩ := read_word (u := 0xB6000000 + y_g.toNat * 0x100000 + y_d.toNat * 0x1000 + y_a.toNat * 0x40 + y_b.toNat * 0x1) h
  obtain ⟨a, b, p, q, f0, f1, f2, f3, k⟩ := shape32 (o := 108) e rfl (by decide)
  have hr : row32 w = row6 w 12 := row32_6 p q
  replace hr : row32 w = (.vandn (fld w 20 3) (fld w 12 6) (fld w 6 6) (fld w 0 6), [(19, 18, 0, 4)]) := hr
  rw [f0, f1, f2, f3] at hr
  exact decode_of_row32 a b hr k hw
theorem Encodes.vshl : ∀ y_g y_m y_d y_a y_b, Statement (.vshl y_g y_m y_d y_a y_b) := by
  intro y_g y_m y_d y_a y_b n w h hw
  obtain ⟨rfl, e⟩ := read_word (u := 0xB6800000 + y_g.toNat * 0x100000 + y_m.toNat * 0x40000 + y_d.toNat * 0x1000 + y_a.toNat * 0x40 + y_b.toNat * 0x1) h
  obtain ⟨a, b, p, q, f0, f1, f2, f3, f4, k⟩ := shape31 (o := 109) e rfl (by decide)
  have hr : row32 w = row6 w 13 := row32_6 p q
  replace hr : row32 w = (.vshl (fld w 20 3) (fld w 18 2) (fld w 12 6) (fld w 6 6) (fld w 0 6), []) := hr
  rw [f0, f1, f2, f3, f4] at hr
  exact decode_of_row32 a b hr k hw
theorem Encodes.vshr : ∀ y_g y_m y_d y_a y_b, Statement (.vshr y_g y_m y_d y_a y_b) := by
  intro y_g y_m y_d y_a y_b n w h hw
  obtain ⟨rfl, e⟩ := read_word (u := 0xB7000000 + y_g.toNat * 0x100000 + y_m.toNat * 0x40000 + y_d.toNat * 0x1000 + y_a.toNat * 0x40 + y_b.toNat * 0x1) h
  obtain ⟨a, b, p, q, f0, f1, f2, f3, f4, k⟩ := shape31 (o := 110) e rfl (by decide)
  have hr : row32 w = row6 w 14 := row32_6 p q
  replace hr : row32 w = (.vshr (fld w 20 3) (fld w 18 2) (fld w 12 6) (fld w 6 6) (fld w 0 6), []) := hr
  rw [f0, f1, f2, f3, f4] at hr
  exact decode_of_row32 a b hr k hw
theorem Encodes.vsra : ∀ y_g y_m y_d y_a y_b, Statement (.vsra y_g y_m y_d y_a y_b) := by
  intro y_g y_m y_d y_a y_b n w h hw
  obtain ⟨rfl, e⟩ := read_word (u := 0xB7800000 + y_g.toNat * 0x100000 + y_m.toNat * 0x40000 + y_d.toNat * 0x1000 + y_a.toNat * 0x40 + y_b.toNat * 0x1) h
  obtain ⟨a, b, p, q, f0, f1, f2, f3, f4, k⟩ := shape31 (o := 111) e rfl (by decide)
  have hr : row32 w = row6 w 15 := row32_6 p q
  replace hr : row32 w = (.vsra (fld w 20 3) (fld w 18 2) (fld w 12 6) (fld w 6 6) (fld w 0 6), []) := hr
  rw [f0, f1, f2, f3, f4] at hr
  exact decode_of_row32 a b hr k hw
theorem Encodes.vminS : ∀ y_g y_m y_d y_a y_b, Statement (.vminS y_g y_m y_d y_a y_b) := by
  intro y_g y_m y_d y_a y_b n w h hw
  obtain ⟨rfl, e⟩ := read_word (u := 0xB8000000 + y_g.toNat * 0x100000 + y_m.toNat * 0x40000 + y_d.toNat * 0x1000 + y_a.toNat * 0x40 + y_b.toNat * 0x1) h
  obtain ⟨a, b, p, q, f0, f1, f2, f3, f4, k⟩ := shape31 (o := 112) e rfl (by decide)
  have hr : row32 w = row7 w 0 := row32_7 p q
  replace hr : row32 w = (.vminS (fld w 20 3) (fld w 18 2) (fld w 12 6) (fld w 6 6) (fld w 0 6), []) := hr
  rw [f0, f1, f2, f3, f4] at hr
  exact decode_of_row32 a b hr k hw
theorem Encodes.vminN : ∀ y_g y_m y_d y_a y_b, Statement (.vminN y_g y_m y_d y_a y_b) := by
  intro y_g y_m y_d y_a y_b n w h hw
  obtain ⟨rfl, e⟩ := read_word (u := 0xB8800000 + y_g.toNat * 0x100000 + y_m.toNat * 0x40000 + y_d.toNat * 0x1000 + y_a.toNat * 0x40 + y_b.toNat * 0x1) h
  obtain ⟨a, b, p, q, f0, f1, f2, f3, f4, k⟩ := shape31 (o := 113) e rfl (by decide)
  have hr : row32 w = row7 w 1 := row32_7 p q
  replace hr : row32 w = (.vminN (fld w 20 3) (fld w 18 2) (fld w 12 6) (fld w 6 6) (fld w 0 6), []) := hr
  rw [f0, f1, f2, f3, f4] at hr
  exact decode_of_row32 a b hr k hw
theorem Encodes.vmaxS : ∀ y_g y_m y_d y_a y_b, Statement (.vmaxS y_g y_m y_d y_a y_b) := by
  intro y_g y_m y_d y_a y_b n w h hw
  obtain ⟨rfl, e⟩ := read_word (u := 0xB9000000 + y_g.toNat * 0x100000 + y_m.toNat * 0x40000 + y_d.toNat * 0x1000 + y_a.toNat * 0x40 + y_b.toNat * 0x1) h
  obtain ⟨a, b, p, q, f0, f1, f2, f3, f4, k⟩ := shape31 (o := 114) e rfl (by decide)
  have hr : row32 w = row7 w 2 := row32_7 p q
  replace hr : row32 w = (.vmaxS (fld w 20 3) (fld w 18 2) (fld w 12 6) (fld w 6 6) (fld w 0 6), []) := hr
  rw [f0, f1, f2, f3, f4] at hr
  exact decode_of_row32 a b hr k hw
theorem Encodes.vmaxN : ∀ y_g y_m y_d y_a y_b, Statement (.vmaxN y_g y_m y_d y_a y_b) := by
  intro y_g y_m y_d y_a y_b n w h hw
  obtain ⟨rfl, e⟩ := read_word (u := 0xB9800000 + y_g.toNat * 0x100000 + y_m.toNat * 0x40000 + y_d.toNat * 0x1000 + y_a.toNat * 0x40 + y_b.toNat * 0x1) h
  obtain ⟨a, b, p, q, f0, f1, f2, f3, f4, k⟩ := shape31 (o := 115) e rfl (by decide)
  have hr : row32 w = row7 w 3 := row32_7 p q
  replace hr : row32 w = (.vmaxN (fld w 20 3) (fld w 18 2) (fld w 12 6) (fld w 6 6) (fld w 0 6), []) := hr
  rw [f0, f1, f2, f3, f4] at hr
  exact decode_of_row32 a b hr k hw
theorem Encodes.vcmpeq : ∀ y_g y_m y_d y_a y_b, Statement (.vcmpeq y_g y_m y_d y_a y_b) := by
  intro y_g y_m y_d y_a y_b n w h hw
  obtain ⟨rfl, e⟩ := read_word (u := 0xBA000000 + y_g.toNat * 0x100000 + y_m.toNat * 0x40000 + y_d.toNat * 0x1000 + y_a.toNat * 0x40 + y_b.toNat * 0x1) h
  obtain ⟨a, b, p, q, f0, f1, f2, f3, f4, k⟩ := shape31 (o := 116) e rfl (by decide)
  have hr : row32 w = row7 w 4 := row32_7 p q
  replace hr : row32 w = (.vcmpeq (fld w 20 3) (fld w 18 2) (fld w 12 6) (fld w 6 6) (fld w 0 6), []) := hr
  rw [f0, f1, f2, f3, f4] at hr
  exact decode_of_row32 a b hr k hw
theorem Encodes.vcmpltS : ∀ y_g y_m y_d y_a y_b, Statement (.vcmpltS y_g y_m y_d y_a y_b) := by
  intro y_g y_m y_d y_a y_b n w h hw
  obtain ⟨rfl, e⟩ := read_word (u := 0xBA800000 + y_g.toNat * 0x100000 + y_m.toNat * 0x40000 + y_d.toNat * 0x1000 + y_a.toNat * 0x40 + y_b.toNat * 0x1) h
  obtain ⟨a, b, p, q, f0, f1, f2, f3, f4, k⟩ := shape31 (o := 117) e rfl (by decide)
  have hr : row32 w = row7 w 5 := row32_7 p q
  replace hr : row32 w = (.vcmpltS (fld w 20 3) (fld w 18 2) (fld w 12 6) (fld w 6 6) (fld w 0 6), []) := hr
  rw [f0, f1, f2, f3, f4] at hr
  exact decode_of_row32 a b hr k hw
theorem Encodes.vcmpltN : ∀ y_g y_m y_d y_a y_b, Statement (.vcmpltN y_g y_m y_d y_a y_b) := by
  intro y_g y_m y_d y_a y_b n w h hw
  obtain ⟨rfl, e⟩ := read_word (u := 0xBB000000 + y_g.toNat * 0x100000 + y_m.toNat * 0x40000 + y_d.toNat * 0x1000 + y_a.toNat * 0x40 + y_b.toNat * 0x1) h
  obtain ⟨a, b, p, q, f0, f1, f2, f3, f4, k⟩ := shape31 (o := 118) e rfl (by decide)
  have hr : row32 w = row7 w 6 := row32_7 p q
  replace hr : row32 w = (.vcmpltN (fld w 20 3) (fld w 18 2) (fld w 12 6) (fld w 6 6) (fld w 0 6), []) := hr
  rw [f0, f1, f2, f3, f4] at hr
  exact decode_of_row32 a b hr k hw
theorem Encodes.vsel : ∀ y_g y_d y_a y_b, Statement (.vsel y_g y_d y_a y_b) := by
  intro y_g y_d y_a y_b n w h hw
  obtain ⟨rfl, e⟩ := read_word (u := 0xBB800000 + y_g.toNat * 0x100000 + y_d.toNat * 0x1000 + y_a.toNat * 0x40 + y_b.toNat * 0x1) h
  obtain ⟨a, b, p, q, f0, f1, f2, f3, k⟩ := shape32 (o := 119) e rfl (by decide)
  have hr : row32 w = row7 w 7 := row32_7 p q
  replace hr : row32 w = (.vsel (fld w 20 3) (fld w 12 6) (fld w 6 6) (fld w 0 6), [(19, 18, 0, 4)]) := hr
  rw [f0, f1, f2, f3] at hr
  exact decode_of_row32 a b hr k hw
theorem shape33 {o B w : Nat} {x0 : BitVec 3} {x1 : BitVec 2} {x2 : BitVec 6} {x3 : BitVec 6} (e : B + x0.toNat * 0x100000 + x1.toNat * 0x40000 + x2.toNat * 0x1000 + x3.toNat * 0x40 = w) (hb : B = 2147483648 + o * 8388608) (ho : o < 256) :
    2147483648 ≤ w ∧ w < 4294967296 ∧ bits w 30 27 = o / 16 ∧ bits w 26 23 = o % 16 ∧ fld w 20 3 = x0 ∧ fld w 18 2 = x1 ∧ fld w 12 6 = x2 ∧ fld w 6 6 = x3 ∧ brokenBits w [(5, 0, 0, 1)] = none := by
  have := x0.isLt
  have := x1.isLt
  have := x2.isLt
  have := x3.isLt
  exact ⟨by omega, by omega, by simp only [bits]; omega, by simp only [bits]; omega, fld_eq x0 (by omega), fld_eq x1 (by omega), fld_eq x2 (by omega), fld_eq x3 (by omega), broken_cons (by simp only [bits]; omega) (broken_nil w)⟩
theorem Encodes.vclz : ∀ y_g y_m y_d y_a, Statement (.vclz y_g y_m y_d y_a) := by
  intro y_g y_m y_d y_a n w h hw
  obtain ⟨rfl, e⟩ := read_word (u := 0xBC000000 + y_g.toNat * 0x100000 + y_m.toNat * 0x40000 + y_d.toNat * 0x1000 + y_a.toNat * 0x40) h
  obtain ⟨a, b, p, q, f0, f1, f2, f3, k⟩ := shape33 (o := 120) e rfl (by decide)
  have hr : row32 w = row7 w 8 := row32_7 p q
  replace hr : row32 w = (.vclz (fld w 20 3) (fld w 18 2) (fld w 12 6) (fld w 6 6), [(5, 0, 0, 1)]) := hr
  rw [f0, f1, f2, f3] at hr
  exact decode_of_row32 a b hr k hw
theorem Encodes.vpopc : ∀ y_g y_m y_d y_a, Statement (.vpopc y_g y_m y_d y_a) := by
  intro y_g y_m y_d y_a n w h hw
  obtain ⟨rfl, e⟩ := read_word (u := 0xBC800000 + y_g.toNat * 0x100000 + y_m.toNat * 0x40000 + y_d.toNat * 0x1000 + y_a.toNat * 0x40) h
  obtain ⟨a, b, p, q, f0, f1, f2, f3, k⟩ := shape33 (o := 121) e rfl (by decide)
  have hr : row32 w = row7 w 9 := row32_7 p q
  replace hr : row32 w = (.vpopc (fld w 20 3) (fld w 18 2) (fld w 12 6) (fld w 6 6), [(5, 0, 0, 1)]) := hr
  rw [f0, f1, f2, f3] at hr
  exact decode_of_row32 a b hr k hw
theorem Encodes.vlea : ∀ y_g y_d y_a y_b, Statement (.vlea y_g y_d y_a y_b) := by
  intro y_g y_d y_a y_b n w h hw
  obtain ⟨rfl, e⟩ := read_word (u := 0xBD000000 + y_g.toNat * 0x100000 + y_d.toNat * 0x1000 + y_a.toNat * 0x40 + y_b.toNat * 0x1) h
  obtain ⟨a, b, p, q, f0, f1, f2, f3, k⟩ := shape32 (o := 122) e rfl (by decide)
  have hr : row32 w = row7 w 10 := row32_7 p q
  replace hr : row32 w = (.vlea (fld w 20 3) (fld w 12 6) (fld w 6 6) (fld w 0 6), [(19, 18, 0, 4)]) := hr
  rw [f0, f1, f2, f3] at hr
  exact decode_of_row32 a b hr k hw
theorem shape34 {o B w : Nat} {x0 : BitVec 3} {x1 : BitVec 6} {x2 : BitVec 6} (e : B + x0.toNat * 0x100000 + x1.toNat * 0x1000 + x2.toNat * 0x40 = w) (hb : B = 2147483648 + o * 8388608) (ho : o < 256) :
    2147483648 ≤ w ∧ w < 4294967296 ∧ bits w 30 27 = o / 16 ∧ bits w 26 23 = o % 16 ∧ fld w 20 3 = x0 ∧ fld w 12 6 = x1 ∧ fld w 6 6 = x2 ∧ brokenBits w [(19, 18, 0, 4), (5, 0, 0, 1)] = none := by
  have := x0.isLt
  have := x1.isLt
  have := x2.isLt
  exact ⟨by omega, by omega, by simp only [bits]; omega, by simp only [bits]; omega, fld_eq x0 (by omega), fld_eq x1 (by omega), fld_eq x2 (by omega), broken_cons (by simp only [bits]; omega) (broken_cons (by simp only [bits]; omega) (broken_nil w))⟩
theorem Encodes.vmov : ∀ y_g y_d y_a, Statement (.vmov y_g y_d y_a) := by
  intro y_g y_d y_a n w h hw
  obtain ⟨rfl, e⟩ := read_word (u := 0xBD800000 + y_g.toNat * 0x100000 + y_d.toNat * 0x1000 + y_a.toNat * 0x40) h
  obtain ⟨a, b, p, q, f0, f1, f2, k⟩ := shape34 (o := 123) e rfl (by decide)
  have hr : row32 w = row7 w 11 := row32_7 p q
  replace hr : row32 w = (.vmov (fld w 20 3) (fld w 12 6) (fld w 6 6), [(19, 18, 0, 4), (5, 0, 0, 1)]) := hr
  rw [f0, f1, f2] at hr
  exact decode_of_row32 a b hr k hw
theorem Encodes.vbcast : ∀ y_g y_d y_a, Statement (.vbcast y_g y_d y_a) := by
  intro y_g y_d y_a n w h hw
  obtain ⟨rfl, e⟩ := read_word (u := 0xBE000000 + y_g.toNat * 0x100000 + y_d.toNat * 0x1000 + y_a.toNat * 0x40) h
  obtain ⟨a, b, p, q, f0, f1, f2, k⟩ := shape34 (o := 124) e rfl (by decide)
  have hr : row32 w = row7 w 12 := row32_7 p q
  replace hr : row32 w = (.vbcast (fld w 20 3) (fld w 12 6) (fld w 6 6), [(19, 18, 0, 4), (5, 0, 0, 1)]) := hr
  rw [f0, f1, f2] at hr
  exact decode_of_row32 a b hr k hw
theorem shape35 {o B w : Nat} {x0 : BitVec 3} {x1 : BitVec 4} {x2 : BitVec 6} {x3 : BitVec 6} (e : B + x0.toNat * 0x100000 + x1.toNat * 0x1000 + x2.toNat * 0x40 + x3.toNat * 0x1 = w) (hb : B = 2147483648 + o * 8388608) (ho : o < 256) :
    2147483648 ≤ w ∧ w < 4294967296 ∧ bits w 30 27 = o / 16 ∧ bits w 26 23 = o % 16 ∧ fld w 20 3 = x0 ∧ fld w 12 4 = x1 ∧ fld w 6 6 = x2 ∧ fld w 0 6 = x3 ∧ brokenBits w [(19, 18, 0, 4), (17, 16, 0, 1)] = none := by
  have := x0.isLt
  have := x1.isLt
  have := x2.isLt
  have := x3.isLt
  exact ⟨by omega, by omega, by simp only [bits]; omega, by simp only [bits]; omega, fld_eq x0 (by omega), fld_eq x1 (by omega), fld_eq x2 (by omega), fld_eq x3 (by omega), broken_cons (by simp only [bits]; omega) (broken_cons (by simp only [bits]; omega) (broken_nil w))⟩
theorem Encodes.vredi : ∀ y_g y_d y_a y_b, Statement (.vredi y_g y_d y_a y_b) := by
  intro y_g y_d y_a y_b n w h hw
  obtain ⟨rfl, e⟩ := read_word (u := 0xBE800000 + y_g.toNat * 0x100000 + y_d.toNat * 0x1000 + y_a.toNat * 0x40 + y_b.toNat * 0x1) h
  obtain ⟨a, b, p, q, f0, f1, f2, f3, k⟩ := shape35 (o := 125) e rfl (by decide)
  have hr : row32 w = row7 w 13 := row32_7 p q
  replace hr : row32 w = (.vredi (fld w 20 3) (fld w 12 4) (fld w 6 6) (fld w 0 6), [(19, 18, 0, 4), (17, 16, 0, 1)]) := hr
  rw [f0, f1, f2, f3] at hr
  exact decode_of_row32 a b hr k hw
theorem Encodes.vshuf : ∀ y_g y_d y_a y_b, Statement (.vshuf y_g y_d y_a y_b) := by
  intro y_g y_d y_a y_b n w h hw
  obtain ⟨rfl, e⟩ := read_word (u := 0xBF000000 + y_g.toNat * 0x100000 + y_d.toNat * 0x1000 + y_a.toNat * 0x40 + y_b.toNat * 0x1) h
  obtain ⟨a, b, p, q, f0, f1, f2, f3, k⟩ := shape32 (o := 126) e rfl (by decide)
  have hr : row32 w = row7 w 14 := row32_7 p q
  replace hr : row32 w = (.vshuf (fld w 20 3) (fld w 12 6) (fld w 6 6) (fld w 0 6), [(19, 18, 0, 4)]) := hr
  rw [f0, f1, f2, f3] at hr
  exact decode_of_row32 a b hr k hw
theorem shape36 {o B w : Nat} {x0 : BitVec 3} {x1 : BitVec 6} {x2 : BitVec 4} (e : B + x0.toNat * 0x100000 + x1.toNat * 0x1000 + x2.toNat * 0x40 = w) (hb : B = 2147483648 + o * 8388608) (ho : o < 256) :
    2147483648 ≤ w ∧ w < 4294967296 ∧ bits w 30 27 = o / 16 ∧ bits w 26 23 = o % 16 ∧ fld w 20 3 = x0 ∧ fld w 12 6 = x1 ∧ fld w 6 4 = x2 ∧ brokenBits w [(19, 18, 0, 4), (11, 10, 0, 1), (5, 0, 0, 1)] = none := by
  have := x0.isLt
  have := x1.isLt
  have := x2.isLt
  exact ⟨by omega, by omega, by simp only [bits]; omega, by simp only [bits]; omega, fld_eq x0 (by omega), fld_eq x1 (by omega), fld_eq x2 (by omega), broken_cons (by simp only [bits]; omega) (broken_cons (by simp only [bits]; omega) (broken_cons (by simp only [bits]; omega) (broken_nil w)))⟩
theorem Encodes.vgext : ∀ y_g y_d y_a, Statement (.vgext y_g y_d y_a) := by
  intro y_g y_d y_a n w h hw
  obtain ⟨rfl, e⟩ := read_word (u := 0xBF800000 + y_g.toNat * 0x100000 + y_d.toNat * 0x1000 + y_a.toNat * 0x40) h
  obtain ⟨a, b, p, q, f0, f1, f2, k⟩ := shape36 (o := 127) e rfl (by decide)
  have hr : row32 w = row7 w 15 := row32_7 p q
  replace hr : row32 w = (.vgext (fld w 20 3) (fld w 12 6) (fld w 6 4), [(19, 18, 0, 4), (11, 10, 0, 1), (5, 0, 0, 1)]) := hr
  rw [f0, f1, f2] at hr
  exact decode_of_row32 a b hr k hw
theorem Encodes.vfaddF64 : ∀ y_g y_m y_d y_a y_b, Statement (.vfaddF64 y_g y_m y_d y_a y_b) := by
  intro y_g y_m y_d y_a y_b n w h hw
  obtain ⟨rfl, e⟩ := read_word (u := 0xC0000000 + y_g.toNat * 0x100000 + y_m.toNat * 0x40000 + y_d.toNat * 0x1000 + y_a.toNat * 0x40 + y_b.toNat * 0x1) h
  obtain ⟨a, b, p, q, f0, f1, f2, f3, f4, k⟩ := shape31 (o := 128) e rfl (by decide)
  have hr : row32 w = row8 w 0 := row32_8 p q
  replace hr : row32 w = (.vfaddF64 (fld w 20 3) (fld w 18 2) (fld w 12 6) (fld w 6 6) (fld w 0 6), []) := hr
  rw [f0, f1, f2, f3, f4] at hr
  exact decode_of_row32 a b hr k hw
theorem Encodes.vfsubF64 : ∀ y_g y_m y_d y_a y_b, Statement (.vfsubF64 y_g y_m y_d y_a y_b) := by
  intro y_g y_m y_d y_a y_b n w h hw
  obtain ⟨rfl, e⟩ := read_word (u := 0xC0800000 + y_g.toNat * 0x100000 + y_m.toNat * 0x40000 + y_d.toNat * 0x1000 + y_a.toNat * 0x40 + y_b.toNat * 0x1) h
  obtain ⟨a, b, p, q, f0, f1, f2, f3, f4, k⟩ := shape31 (o := 129) e rfl (by decide)
  have hr : row32 w = row8 w 1 := row32_8 p q
  replace hr : row32 w = (.vfsubF64 (fld w 20 3) (fld w 18 2) (fld w 12 6) (fld w 6 6) (fld w 0 6), []) := hr
  rw [f0, f1, f2, f3, f4] at hr
  exact decode_of_row32 a b hr k hw
theorem Encodes.vfmulF64 : ∀ y_g y_m y_d y_a y_b, Statement (.vfmulF64 y_g y_m y_d y_a y_b) := by
  intro y_g y_m y_d y_a y_b n w h hw
  obtain ⟨rfl, e⟩ := read_word (u := 0xC1000000 + y_g.toNat * 0x100000 + y_m.toNat * 0x40000 + y_d.toNat * 0x1000 + y_a.toNat * 0x40 + y_b.toNat * 0x1) h
  obtain ⟨a, b, p, q, f0, f1, f2, f3, f4, k⟩ := shape31 (o := 130) e rfl (by decide)
  have hr : row32 w = row8 w 2 := row32_8 p q
  replace hr : row32 w = (.vfmulF64 (fld w 20 3) (fld w 18 2) (fld w 12 6) (fld w 6 6) (fld w 0 6), []) := hr
  rw [f0, f1, f2, f3, f4] at hr
  exact decode_of_row32 a b hr k hw
theorem Encodes.vfmaF64 : ∀ y_g y_m y_d y_a y_b, Statement (.vfmaF64 y_g y_m y_d y_a y_b) := by
  intro y_g y_m y_d y_a y_b n w h hw
  obtain ⟨rfl, e⟩ := read_word (u := 0xC1800000 + y_g.toNat * 0x100000 + y_m.toNat * 0x40000 + y_d.toNat * 0x1000 + y_a.toNat * 0x40 + y_b.toNat * 0x1) h
  obtain ⟨a, b, p, q, f0, f1, f2, f3, f4, k⟩ := shape31 (o := 131) e rfl (by decide)
  have hr : row32 w = row8 w 3 := row32_8 p q
  replace hr : row32 w = (.vfmaF64 (fld w 20 3) (fld w 18 2) (fld w 12 6) (fld w 6 6) (fld w 0 6), []) := hr
  rw [f0, f1, f2, f3, f4] at hr
  exact decode_of_row32 a b hr k hw
theorem Encodes.vfaddF32 : ∀ y_g y_m y_d y_a y_b, Statement (.vfaddF32 y_g y_m y_d y_a y_b) := by
  intro y_g y_m y_d y_a y_b n w h hw
  obtain ⟨rfl, e⟩ := read_word (u := 0xC2000000 + y_g.toNat * 0x100000 + y_m.toNat * 0x40000 + y_d.toNat * 0x1000 + y_a.toNat * 0x40 + y_b.toNat * 0x1) h
  obtain ⟨a, b, p, q, f0, f1, f2, f3, f4, k⟩ := shape31 (o := 132) e rfl (by decide)
  have hr : row32 w = row8 w 4 := row32_8 p q
  replace hr : row32 w = (.vfaddF32 (fld w 20 3) (fld w 18 2) (fld w 12 6) (fld w 6 6) (fld w 0 6), []) := hr
  rw [f0, f1, f2, f3, f4] at hr
  exact decode_of_row32 a b hr k hw
theorem Encodes.vfsubF32 : ∀ y_g y_m y_d y_a y_b, Statement (.vfsubF32 y_g y_m y_d y_a y_b) := by
  intro y_g y_m y_d y_a y_b n w h hw
  obtain ⟨rfl, e⟩ := read_word (u := 0xC2800000 + y_g.toNat * 0x100000 + y_m.toNat * 0x40000 + y_d.toNat * 0x1000 + y_a.toNat * 0x40 + y_b.toNat * 0x1) h
  obtain ⟨a, b, p, q, f0, f1, f2, f3, f4, k⟩ := shape31 (o := 133) e rfl (by decide)
  have hr : row32 w = row8 w 5 := row32_8 p q
  replace hr : row32 w = (.vfsubF32 (fld w 20 3) (fld w 18 2) (fld w 12 6) (fld w 6 6) (fld w 0 6), []) := hr
  rw [f0, f1, f2, f3, f4] at hr
  exact decode_of_row32 a b hr k hw
theorem Encodes.vfmulF32 : ∀ y_g y_m y_d y_a y_b, Statement (.vfmulF32 y_g y_m y_d y_a y_b) := by
  intro y_g y_m y_d y_a y_b n w h hw
  obtain ⟨rfl, e⟩ := read_word (u := 0xC3000000 + y_g.toNat * 0x100000 + y_m.toNat * 0x40000 + y_d.toNat * 0x1000 + y_a.toNat * 0x40 + y_b.toNat * 0x1) h
  obtain ⟨a, b, p, q, f0, f1, f2, f3, f4, k⟩ := shape31 (o := 134) e rfl (by decide)
  have hr : row32 w = row8 w 6 := row32_8 p q
  replace hr : row32 w = (.vfmulF32 (fld w 20 3) (fld w 18 2) (fld w 12 6) (fld w 6 6) (fld w 0 6), []) := hr
  rw [f0, f1, f2, f3, f4] at hr
  exact decode_of_row32 a b hr k hw
theorem Encodes.vfmaF32 : ∀ y_g y_m y_d y_a y_b, Statement (.vfmaF32 y_g y_m y_d y_a y_b) := by
  intro y_g y_m y_d y_a y_b n w h hw
  obtain ⟨rfl, e⟩ := read_word (u := 0xC3800000 + y_g.toNat * 0x100000 + y_m.toNat * 0x40000 + y_d.toNat * 0x1000 + y_a.toNat * 0x40 + y_b.toNat * 0x1) h
  obtain ⟨a, b, p, q, f0, f1, f2, f3, f4, k⟩ := shape31 (o := 135) e rfl (by decide)
  have hr : row32 w = row8 w 7 := row32_8 p q
  replace hr : row32 w = (.vfmaF32 (fld w 20 3) (fld w 18 2) (fld w 12 6) (fld w 6 6) (fld w 0 6), []) := hr
  rw [f0, f1, f2, f3, f4] at hr
  exact decode_of_row32 a b hr k hw
theorem Encodes.vfaddBf16 : ∀ y_g y_m y_d y_a y_b, Statement (.vfaddBf16 y_g y_m y_d y_a y_b) := by
  intro y_g y_m y_d y_a y_b n w h hw
  obtain ⟨rfl, e⟩ := read_word (u := 0xC4000000 + y_g.toNat * 0x100000 + y_m.toNat * 0x40000 + y_d.toNat * 0x1000 + y_a.toNat * 0x40 + y_b.toNat * 0x1) h
  obtain ⟨a, b, p, q, f0, f1, f2, f3, f4, k⟩ := shape31 (o := 136) e rfl (by decide)
  have hr : row32 w = row8 w 8 := row32_8 p q
  replace hr : row32 w = (.vfaddBf16 (fld w 20 3) (fld w 18 2) (fld w 12 6) (fld w 6 6) (fld w 0 6), []) := hr
  rw [f0, f1, f2, f3, f4] at hr
  exact decode_of_row32 a b hr k hw
theorem Encodes.vfmulBf16 : ∀ y_g y_m y_d y_a y_b, Statement (.vfmulBf16 y_g y_m y_d y_a y_b) := by
  intro y_g y_m y_d y_a y_b n w h hw
  obtain ⟨rfl, e⟩ := read_word (u := 0xC4800000 + y_g.toNat * 0x100000 + y_m.toNat * 0x40000 + y_d.toNat * 0x1000 + y_a.toNat * 0x40 + y_b.toNat * 0x1) h
  obtain ⟨a, b, p, q, f0, f1, f2, f3, f4, k⟩ := shape31 (o := 137) e rfl (by decide)
  have hr : row32 w = row8 w 9 := row32_8 p q
  replace hr : row32 w = (.vfmulBf16 (fld w 20 3) (fld w 18 2) (fld w 12 6) (fld w 6 6) (fld w 0 6), []) := hr
  rw [f0, f1, f2, f3, f4] at hr
  exact decode_of_row32 a b hr k hw
theorem Encodes.vfmaBf16 : ∀ y_g y_m y_d y_a y_b, Statement (.vfmaBf16 y_g y_m y_d y_a y_b) := by
  intro y_g y_m y_d y_a y_b n w h hw
  obtain ⟨rfl, e⟩ := read_word (u := 0xC5000000 + y_g.toNat * 0x100000 + y_m.toNat * 0x40000 + y_d.toNat * 0x1000 + y_a.toNat * 0x40 + y_b.toNat * 0x1) h
  obtain ⟨a, b, p, q, f0, f1, f2, f3, f4, k⟩ := shape31 (o := 138) e rfl (by decide)
  have hr : row32 w = row8 w 10 := row32_8 p q
  replace hr : row32 w = (.vfmaBf16 (fld w 20 3) (fld w 18 2) (fld w 12 6) (fld w 6 6) (fld w 0 6), []) := hr
  rw [f0, f1, f2, f3, f4] at hr
  exact decode_of_row32 a b hr k hw
theorem Encodes.vfaddF16 : ∀ y_g y_m y_d y_a y_b, Statement (.vfaddF16 y_g y_m y_d y_a y_b) := by
  intro y_g y_m y_d y_a y_b n w h hw
  obtain ⟨rfl, e⟩ := read_word (u := 0xC5800000 + y_g.toNat * 0x100000 + y_m.toNat * 0x40000 + y_d.toNat * 0x1000 + y_a.toNat * 0x40 + y_b.toNat * 0x1) h
  obtain ⟨a, b, p, q, f0, f1, f2, f3, f4, k⟩ := shape31 (o := 139) e rfl (by decide)
  have hr : row32 w = row8 w 11 := row32_8 p q
  replace hr : row32 w = (.vfaddF16 (fld w 20 3) (fld w 18 2) (fld w 12 6) (fld w 6 6) (fld w 0 6), []) := hr
  rw [f0, f1, f2, f3, f4] at hr
  exact decode_of_row32 a b hr k hw
theorem Encodes.vfmulF16 : ∀ y_g y_m y_d y_a y_b, Statement (.vfmulF16 y_g y_m y_d y_a y_b) := by
  intro y_g y_m y_d y_a y_b n w h hw
  obtain ⟨rfl, e⟩ := read_word (u := 0xC6000000 + y_g.toNat * 0x100000 + y_m.toNat * 0x40000 + y_d.toNat * 0x1000 + y_a.toNat * 0x40 + y_b.toNat * 0x1) h
  obtain ⟨a, b, p, q, f0, f1, f2, f3, f4, k⟩ := shape31 (o := 140) e rfl (by decide)
  have hr : row32 w = row8 w 12 := row32_8 p q
  replace hr : row32 w = (.vfmulF16 (fld w 20 3) (fld w 18 2) (fld w 12 6) (fld w 6 6) (fld w 0 6), []) := hr
  rw [f0, f1, f2, f3, f4] at hr
  exact decode_of_row32 a b hr k hw
theorem Encodes.vfmaF16 : ∀ y_g y_m y_d y_a y_b, Statement (.vfmaF16 y_g y_m y_d y_a y_b) := by
  intro y_g y_m y_d y_a y_b n w h hw
  obtain ⟨rfl, e⟩ := read_word (u := 0xC6800000 + y_g.toNat * 0x100000 + y_m.toNat * 0x40000 + y_d.toNat * 0x1000 + y_a.toNat * 0x40 + y_b.toNat * 0x1) h
  obtain ⟨a, b, p, q, f0, f1, f2, f3, f4, k⟩ := shape31 (o := 141) e rfl (by decide)
  have hr : row32 w = row8 w 13 := row32_8 p q
  replace hr : row32 w = (.vfmaF16 (fld w 20 3) (fld w 18 2) (fld w 12 6) (fld w 6 6) (fld w 0 6), []) := hr
  rw [f0, f1, f2, f3, f4] at hr
  exact decode_of_row32 a b hr k hw
theorem Encodes.vfmin : ∀ y_g y_m y_d y_a y_b, Statement (.vfmin y_g y_m y_d y_a y_b) := by
  intro y_g y_m y_d y_a y_b n w h hw
  obtain ⟨rfl, e⟩ := read_word (u := 0xC7000000 + y_g.toNat * 0x100000 + y_m.toNat * 0x40000 + y_d.toNat * 0x1000 + y_a.toNat * 0x40 + y_b.toNat * 0x1) h
  obtain ⟨a, b, p, q, f0, f1, f2, f3, f4, k⟩ := shape31 (o := 142) e rfl (by decide)
  have hr : row32 w = row8 w 14 := row32_8 p q
  replace hr : row32 w = (.vfmin (fld w 20 3) (fld w 18 2) (fld w 12 6) (fld w 6 6) (fld w 0 6), []) := hr
  rw [f0, f1, f2, f3, f4] at hr
  exact decode_of_row32 a b hr k hw
theorem Encodes.vfmax : ∀ y_g y_m y_d y_a y_b, Statement (.vfmax y_g y_m y_d y_a y_b) := by
  intro y_g y_m y_d y_a y_b n w h hw
  obtain ⟨rfl, e⟩ := read_word (u := 0xC7800000 + y_g.toNat * 0x100000 + y_m.toNat * 0x40000 + y_d.toNat * 0x1000 + y_a.toNat * 0x40 + y_b.toNat * 0x1) h
  obtain ⟨a, b, p, q, f0, f1, f2, f3, f4, k⟩ := shape31 (o := 143) e rfl (by decide)
  have hr : row32 w = row8 w 15 := row32_8 p q
  replace hr : row32 w = (.vfmax (fld w 20 3) (fld w 18 2) (fld w 12 6) (fld w 6 6) (fld w 0 6), []) := hr
  rw [f0, f1, f2, f3, f4] at hr
  exact decode_of_row32 a b hr k hw
theorem Encodes.vfcmpeq : ∀ y_g y_m y_d y_a y_b, Statement (.vfcmpeq y_g y_m y_d y_a y_b) := by
  intro y_g y_m y_d y_a y_b n w h hw
  obtain ⟨rfl, e⟩ := read_word (u := 0xC8000000 + y_g.toNat * 0x100000 + y_m.toNat * 0x40000 + y_d.toNat * 0x1000 + y_a.toNat * 0x40 + y_b.toNat * 0x1) h
  obtain ⟨a, b, p, q, f0, f1, f2, f3, f4, k⟩ := shape31 (o := 144) e rfl (by decide)
  have hr : row32 w = row9 w 0 := row32_9 p q
  replace hr : row32 w = (.vfcmpeq (fld w 20 3) (fld w 18 2) (fld w 12 6) (fld w 6 6) (fld w 0 6), []) := hr
  rw [f0, f1, f2, f3, f4] at hr
  exact decode_of_row32 a b hr k hw
theorem Encodes.vfcmplt : ∀ y_g y_m y_d y_a y_b, Statement (.vfcmplt y_g y_m y_d y_a y_b) := by
  intro y_g y_m y_d y_a y_b n w h hw
  obtain ⟨rfl, e⟩ := read_word (u := 0xC8800000 + y_g.toNat * 0x100000 + y_m.toNat * 0x40000 + y_d.toNat * 0x1000 + y_a.toNat * 0x40 + y_b.toNat * 0x1) h
  obtain ⟨a, b, p, q, f0, f1, f2, f3, f4, k⟩ := shape31 (o := 145) e rfl (by decide)
  have hr : row32 w = row9 w 1 := row32_9 p q
  replace hr : row32 w = (.vfcmplt (fld w 20 3) (fld w 18 2) (fld w 12 6) (fld w 6 6) (fld w 0 6), []) := hr
  rw [f0, f1, f2, f3, f4] at hr
  exact decode_of_row32 a b hr k hw
theorem Encodes.vfcmple : ∀ y_g y_m y_d y_a y_b, Statement (.vfcmple y_g y_m y_d y_a y_b) := by
  intro y_g y_m y_d y_a y_b n w h hw
  obtain ⟨rfl, e⟩ := read_word (u := 0xC9000000 + y_g.toNat * 0x100000 + y_m.toNat * 0x40000 + y_d.toNat * 0x1000 + y_a.toNat * 0x40 + y_b.toNat * 0x1) h
  obtain ⟨a, b, p, q, f0, f1, f2, f3, f4, k⟩ := shape31 (o := 146) e rfl (by decide)
  have hr : row32 w = row9 w 2 := row32_9 p q
  replace hr : row32 w = (.vfcmple (fld w 20 3) (fld w 18 2) (fld w 12 6) (fld w 6 6) (fld w 0 6), []) := hr
  rw [f0, f1, f2, f3, f4] at hr
  exact decode_of_row32 a b hr k hw
theorem Encodes.vfdiv : ∀ y_g y_m y_d y_a y_b, Statement (.vfdiv y_g y_m y_d y_a y_b) := by
  intro y_g y_m y_d y_a y_b n w h hw
  obtain ⟨rfl, e⟩ := read_word (u := 0xC9800000 + y_g.toNat * 0x100000 + y_m.toNat * 0x40000 + y_d.toNat * 0x1000 + y_a.toNat * 0x40 + y_b.toNat * 0x1) h
  obtain ⟨a, b, p, q, f0, f1, f2, f3, f4, k⟩ := shape31 (o := 147) e rfl (by decide)
  have hr : row32 w = row9 w 3 := row32_9 p q
  replace hr : row32 w = (.vfdiv (fld w 20 3) (fld w 18 2) (fld w 12 6) (fld w 6 6) (fld w 0 6), []) := hr
  rw [f0, f1, f2, f3, f4] at hr
  exact decode_of_row32 a b hr k hw
theorem Encodes.vfsqrt : ∀ y_g y_m y_d y_a, Statement (.vfsqrt y_g y_m y_d y_a) := by
  intro y_g y_m y_d y_a n w h hw
  obtain ⟨rfl, e⟩ := read_word (u := 0xCA000000 + y_g.toNat * 0x100000 + y_m.toNat * 0x40000 + y_d.toNat * 0x1000 + y_a.toNat * 0x40) h
  obtain ⟨a, b, p, q, f0, f1, f2, f3, k⟩ := shape33 (o := 148) e rfl (by decide)
  have hr : row32 w = row9 w 4 := row32_9 p q
  replace hr : row32 w = (.vfsqrt (fld w 20 3) (fld w 18 2) (fld w 12 6) (fld w 6 6), [(5, 0, 0, 1)]) := hr
  rw [f0, f1, f2, f3] at hr
  exact decode_of_row32 a b hr k hw
theorem Encodes.vfneg : ∀ y_g y_m y_d y_a, Statement (.vfneg y_g y_m y_d y_a) := by
  intro y_g y_m y_d y_a n w h hw
  obtain ⟨rfl, e⟩ := read_word (u := 0xCA800000 + y_g.toNat * 0x100000 + y_m.toNat * 0x40000 + y_d.toNat * 0x1000 + y_a.toNat * 0x40) h
  obtain ⟨a, b, p, q, f0, f1, f2, f3, k⟩ := shape33 (o := 149) e rfl (by decide)
  have hr : row32 w = row9 w 5 := row32_9 p q
  replace hr : row32 w = (.vfneg (fld w 20 3) (fld w 18 2) (fld w 12 6) (fld w 6 6), [(5, 0, 0, 1)]) := hr
  rw [f0, f1, f2, f3] at hr
  exact decode_of_row32 a b hr k hw
theorem Encodes.vfabs : ∀ y_g y_m y_d y_a, Statement (.vfabs y_g y_m y_d y_a) := by
  intro y_g y_m y_d y_a n w h hw
  obtain ⟨rfl, e⟩ := read_word (u := 0xCB000000 + y_g.toNat * 0x100000 + y_m.toNat * 0x40000 + y_d.toNat * 0x1000 + y_a.toNat * 0x40) h
  obtain ⟨a, b, p, q, f0, f1, f2, f3, k⟩ := shape33 (o := 150) e rfl (by decide)
  have hr : row32 w = row9 w 6 := row32_9 p q
  replace hr : row32 w = (.vfabs (fld w 20 3) (fld w 18 2) (fld w 12 6) (fld w 6 6), [(5, 0, 0, 1)]) := hr
  rw [f0, f1, f2, f3] at hr
  exact decode_of_row32 a b hr k hw
theorem Encodes.vfclass : ∀ y_g y_m y_d y_a, Statement (.vfclass y_g y_m y_d y_a) := by
  intro y_g y_m y_d y_a n w h hw
  obtain ⟨rfl, e⟩ := read_word (u := 0xCB800000 + y_g.toNat * 0x100000 + y_m.toNat * 0x40000 + y_d.toNat * 0x1000 + y_a.toNat * 0x40) h
  obtain ⟨a, b, p, q, f0, f1, f2, f3, k⟩ := shape33 (o := 151) e rfl (by decide)
  have hr : row32 w = row9 w 7 := row32_9 p q
  replace hr : row32 w = (.vfclass (fld w 20 3) (fld w 18 2) (fld w 12 6) (fld w 6 6), [(5, 0, 0, 1)]) := hr
  rw [f0, f1, f2, f3] at hr
  exact decode_of_row32 a b hr k hw
theorem shape37 {o B w : Nat} {x0 : BitVec 3} {x1 : BitVec 2} {x2 : BitVec 6} {x3 : BitVec 6} {x4 : BitVec 3} {x5 : BitVec 3} (e : B + x0.toNat * 0x100000 + x1.toNat * 0x40000 + x2.toNat * 0x1000 + x3.toNat * 0x40 + x4.toNat * 0x8 + x5.toNat * 0x1 = w) (hb : B = 2147483648 + o * 8388608) (ho : o < 256) :
    2147483648 ≤ w ∧ w < 4294967296 ∧ bits w 30 27 = o / 16 ∧ bits w 26 23 = o % 16 ∧ fld w 20 3 = x0 ∧ fld w 18 2 = x1 ∧ fld w 12 6 = x2 ∧ fld w 6 6 = x3 ∧ fld w 3 3 = x4 ∧ fld w 0 3 = x5 ∧ brokenBits w [] = none := by
  have := x0.isLt
  have := x1.isLt
  have := x2.isLt
  have := x3.isLt
  have := x4.isLt
  have := x5.isLt
  exact ⟨by omega, by omega, by simp only [bits]; omega, by simp only [bits]; omega, fld_eq x0 (by omega), fld_eq x1 (by omega), fld_eq x2 (by omega), fld_eq x3 (by omega), fld_eq x4 (by omega), fld_eq x5 (by omega), broken_nil w⟩
theorem Encodes.vcvt : ∀ y_g y_m y_d y_a y_t y_s, Statement (.vcvt y_g y_m y_d y_a y_t y_s) := by
  intro y_g y_m y_d y_a y_t y_s n w h hw
  obtain ⟨rfl, e⟩ := read_word (u := 0xCC000000 + y_g.toNat * 0x100000 + y_m.toNat * 0x40000 + y_d.toNat * 0x1000 + y_a.toNat * 0x40 + y_t.toNat * 0x8 + y_s.toNat * 0x1) h
  obtain ⟨a, b, p, q, f0, f1, f2, f3, f4, f5, k⟩ := shape37 (o := 152) e rfl (by decide)
  have hr : row32 w = row9 w 8 := row32_9 p q
  replace hr : row32 w = (.vcvt (fld w 20 3) (fld w 18 2) (fld w 12 6) (fld w 6 6) (fld w 3 3) (fld w 0 3), []) := hr
  rw [f0, f1, f2, f3, f4, f5] at hr
  exact decode_of_row32 a b hr k hw
theorem Encodes.vcvtx : ∀ y_g y_m y_d y_a y_t y_s, Statement (.vcvtx y_g y_m y_d y_a y_t y_s) := by
  intro y_g y_m y_d y_a y_t y_s n w h hw
  obtain ⟨rfl, e⟩ := read_word (u := 0xCC800000 + y_g.toNat * 0x100000 + y_m.toNat * 0x40000 + y_d.toNat * 0x1000 + y_a.toNat * 0x40 + y_t.toNat * 0x8 + y_s.toNat * 0x1) h
  obtain ⟨a, b, p, q, f0, f1, f2, f3, f4, f5, k⟩ := shape37 (o := 153) e rfl (by decide)
  have hr : row32 w = row9 w 9 := row32_9 p q
  replace hr : row32 w = (.vcvtx (fld w 20 3) (fld w 18 2) (fld w 12 6) (fld w 6 6) (fld w 3 3) (fld w 0 3), []) := hr
  rw [f0, f1, f2, f3, f4, f5] at hr
  exact decode_of_row32 a b hr k hw
theorem Encodes.vcvti : ∀ y_g y_m y_d y_a y_t y_s, Statement (.vcvti y_g y_m y_d y_a y_t y_s) := by
  intro y_g y_m y_d y_a y_t y_s n w h hw
  obtain ⟨rfl, e⟩ := read_word (u := 0xCD000000 + y_g.toNat * 0x100000 + y_m.toNat * 0x40000 + y_d.toNat * 0x1000 + y_a.toNat * 0x40 + y_t.toNat * 0x8 + y_s.toNat * 0x1) h
  obtain ⟨a, b, p, q, f0, f1, f2, f3, f4, f5, k⟩ := shape37 (o := 154) e rfl (by decide)
  have hr : row32 w = row9 w 10 := row32_9 p q
  replace hr : row32 w = (.vcvti (fld w 20 3) (fld w 18 2) (fld w 12 6) (fld w 6 6) (fld w 3 3) (fld w 0 3), []) := hr
  rw [f0, f1, f2, f3, f4, f5] at hr
  exact decode_of_row32 a b hr k hw
theorem Encodes.vcvtf : ∀ y_g y_m y_d y_a y_t y_s, Statement (.vcvtf y_g y_m y_d y_a y_t y_s) := by
  intro y_g y_m y_d y_a y_t y_s n w h hw
  obtain ⟨rfl, e⟩ := read_word (u := 0xCD800000 + y_g.toNat * 0x100000 + y_m.toNat * 0x40000 + y_d.toNat * 0x1000 + y_a.toNat * 0x40 + y_t.toNat * 0x8 + y_s.toNat * 0x1) h
  obtain ⟨a, b, p, q, f0, f1, f2, f3, f4, f5, k⟩ := shape37 (o := 155) e rfl (by decide)
  have hr : row32 w = row9 w 11 := row32_9 p q
  replace hr : row32 w = (.vcvtf (fld w 20 3) (fld w 18 2) (fld w 12 6) (fld w 6 6) (fld w 3 3) (fld w 0 3), []) := hr
  rw [f0, f1, f2, f3, f4, f5] at hr
  exact decode_of_row32 a b hr k hw
theorem Encodes.vdot2 : ∀ y_g y_m y_d y_a y_b, Statement (.vdot2 y_g y_m y_d y_a y_b) := by
  intro y_g y_m y_d y_a y_b n w h hw
  obtain ⟨rfl, e⟩ := read_word (u := 0xCE000000 + y_g.toNat * 0x100000 + y_m.toNat * 0x40000 + y_d.toNat * 0x1000 + y_a.toNat * 0x40 + y_b.toNat * 0x1) h
  obtain ⟨a, b, p, q, f0, f1, f2, f3, f4, k⟩ := shape31 (o := 156) e rfl (by decide)
  have hr : row32 w = row9 w 12 := row32_9 p q
  replace hr : row32 w = (.vdot2 (fld w 20 3) (fld w 18 2) (fld w 12 6) (fld w 6 6) (fld w 0 6), []) := hr
  rw [f0, f1, f2, f3, f4] at hr
  exact decode_of_row32 a b hr k hw
theorem Encodes.vdot4 : ∀ y_g y_m y_d y_a y_b, Statement (.vdot4 y_g y_m y_d y_a y_b) := by
  intro y_g y_m y_d y_a y_b n w h hw
  obtain ⟨rfl, e⟩ := read_word (u := 0xCE800000 + y_g.toNat * 0x100000 + y_m.toNat * 0x40000 + y_d.toNat * 0x1000 + y_a.toNat * 0x40 + y_b.toNat * 0x1) h
  obtain ⟨a, b, p, q, f0, f1, f2, f3, f4, k⟩ := shape31 (o := 157) e rfl (by decide)
  have hr : row32 w = row9 w 13 := row32_9 p q
  replace hr : row32 w = (.vdot4 (fld w 20 3) (fld w 18 2) (fld w 12 6) (fld w 6 6) (fld w 0 6), []) := hr
  rw [f0, f1, f2, f3, f4] at hr
  exact decode_of_row32 a b hr k hw
theorem Encodes.vdot8 : ∀ y_g y_m y_d y_a y_b, Statement (.vdot8 y_g y_m y_d y_a y_b) := by
  intro y_g y_m y_d y_a y_b n w h hw
  obtain ⟨rfl, e⟩ := read_word (u := 0xCF000000 + y_g.toNat * 0x100000 + y_m.toNat * 0x40000 + y_d.toNat * 0x1000 + y_a.toNat * 0x40 + y_b.toNat * 0x1) h
  obtain ⟨a, b, p, q, f0, f1, f2, f3, f4, k⟩ := shape31 (o := 158) e rfl (by decide)
  have hr : row32 w = row9 w 14 := row32_9 p q
  replace hr : row32 w = (.vdot8 (fld w 20 3) (fld w 18 2) (fld w 12 6) (fld w 6 6) (fld w 0 6), []) := hr
  rw [f0, f1, f2, f3, f4] at hr
  exact decode_of_row32 a b hr k hw
theorem shape38 {o B w : Nat} {x0 : BitVec 3} {x1 : BitVec 2} {x2 : BitVec 6} {x3 : BitVec 6} {x4 : BitVec 2} {x5 : BitVec 2} (e : B + x0.toNat * 0x100000 + x1.toNat * 0x40000 + x2.toNat * 0x1000 + x3.toNat * 0x40 + x4.toNat * 0x10 + x5.toNat * 0x4 = w) (hb : B = 2147483648 + o * 8388608) (ho : o < 256) :
    2147483648 ≤ w ∧ w < 4294967296 ∧ bits w 30 27 = o / 16 ∧ bits w 26 23 = o % 16 ∧ fld w 20 3 = x0 ∧ fld w 18 2 = x1 ∧ fld w 12 6 = x2 ∧ fld w 6 6 = x3 ∧ fld w 4 2 = x4 ∧ fld w 2 2 = x5 ∧ brokenBits w [(1, 0, 0, 1)] = none := by
  have := x0.isLt
  have := x1.isLt
  have := x2.isLt
  have := x3.isLt
  have := x4.isLt
  have := x5.isLt
  exact ⟨by omega, by omega, by simp only [bits]; omega, by simp only [bits]; omega, fld_eq x0 (by omega), fld_eq x1 (by omega), fld_eq x2 (by omega), fld_eq x3 (by omega), fld_eq x4 (by omega), fld_eq x5 (by omega), broken_cons (by simp only [bits]; omega) (broken_nil w)⟩
theorem Encodes.vfred : ∀ y_g y_m y_d y_a y_o y_r, Statement (.vfred y_g y_m y_d y_a y_o y_r) := by
  intro y_g y_m y_d y_a y_o y_r n w h hw
  obtain ⟨rfl, e⟩ := read_word (u := 0xCF800000 + y_g.toNat * 0x100000 + y_m.toNat * 0x40000 + y_d.toNat * 0x1000 + y_a.toNat * 0x40 + y_o.toNat * 0x10 + y_r.toNat * 0x4) h
  obtain ⟨a, b, p, q, f0, f1, f2, f3, f4, f5, k⟩ := shape38 (o := 159) e rfl (by decide)
  have hr : row32 w = row9 w 15 := row32_9 p q
  replace hr : row32 w = (.vfred (fld w 20 3) (fld w 18 2) (fld w 12 6) (fld w 6 6) (fld w 4 2) (fld w 2 2), [(1, 0, 0, 1)]) := hr
  rw [f0, f1, f2, f3, f4, f5] at hr
  exact decode_of_row32 a b hr k hw
theorem shape39 {o B w : Nat} {x0 : BitVec 3} {x1 : BitVec 2} {x2 : BitVec 3} {x3 : BitVec 2} {x4 : BitVec 3} {x5 : BitVec 3} (e : B + x0.toNat * 0x100000 + x1.toNat * 0x40000 + x2.toNat * 0x4000 + x3.toNat * 0x1000 + x4.toNat * 0x100 + x5.toNat * 0x4 = w) (hb : B = 2147483648 + o * 8388608) (ho : o < 256) :
    2147483648 ≤ w ∧ w < 4294967296 ∧ bits w 30 27 = o / 16 ∧ bits w 26 23 = o % 16 ∧ fld w 20 3 = x0 ∧ fld w 18 2 = x1 ∧ fld w 14 3 = x2 ∧ fld w 12 2 = x3 ∧ fld w 8 3 = x4 ∧ fld w 2 3 = x5 ∧ brokenBits w [(17, 17, 0, 5), (11, 11, 0, 5), (7, 5, 0, 5), (1, 0, 0, 5)] = none := by
  have := x0.isLt
  have := x1.isLt
  have := x2.isLt
  have := x3.isLt
  have := x4.isLt
  have := x5.isLt
  exact ⟨by omega, by omega, by simp only [bits]; omega, by simp only [bits]; omega, fld_eq x0 (by omega), fld_eq x1 (by omega), fld_eq x2 (by omega), fld_eq x3 (by omega), fld_eq x4 (by omega), fld_eq x5 (by omega), broken_cons (by simp only [bits]; omega) (broken_cons (by simp only [bits]; omega) (broken_cons (by simp only [bits]; omega) (broken_cons (by simp only [bits]; omega) (broken_nil w))))⟩
theorem Encodes.vbadd : ∀ y_g y_m y_d y_f y_a y_b, Statement (.vbadd y_g y_m y_d y_f y_a y_b) := by
  intro y_g y_m y_d y_f y_a y_b n w h hw
  obtain ⟨rfl, e⟩ := read_word (u := 0xD0000000 + y_g.toNat * 0x100000 + y_m.toNat * 0x40000 + y_d.toNat * 0x4000 + y_f.toNat * 0x1000 + y_a.toNat * 0x100 + y_b.toNat * 0x4) h
  obtain ⟨a, b, p, q, f0, f1, f2, f3, f4, f5, k⟩ := shape39 (o := 160) e rfl (by decide)
  have hr : row32 w = rowA w 0 := row32_A p q
  replace hr : row32 w = (.vbadd (fld w 20 3) (fld w 18 2) (fld w 14 3) (fld w 12 2) (fld w 8 3) (fld w 2 3), [(17, 17, 0, 5), (11, 11, 0, 5), (7, 5, 0, 5), (1, 0, 0, 5)]) := hr
  rw [f0, f1, f2, f3, f4, f5] at hr
  exact decode_of_row32 a b hr k hw
theorem Encodes.vbsub : ∀ y_g y_m y_d y_f y_a y_b, Statement (.vbsub y_g y_m y_d y_f y_a y_b) := by
  intro y_g y_m y_d y_f y_a y_b n w h hw
  obtain ⟨rfl, e⟩ := read_word (u := 0xD0800000 + y_g.toNat * 0x100000 + y_m.toNat * 0x40000 + y_d.toNat * 0x4000 + y_f.toNat * 0x1000 + y_a.toNat * 0x100 + y_b.toNat * 0x4) h
  obtain ⟨a, b, p, q, f0, f1, f2, f3, f4, f5, k⟩ := shape39 (o := 161) e rfl (by decide)
  have hr : row32 w = rowA w 1 := row32_A p q
  replace hr : row32 w = (.vbsub (fld w 20 3) (fld w 18 2) (fld w 14 3) (fld w 12 2) (fld w 8 3) (fld w 2 3), [(17, 17, 0, 5), (11, 11, 0, 5), (7, 5, 0, 5), (1, 0, 0, 5)]) := hr
  rw [f0, f1, f2, f3, f4, f5] at hr
  exact decode_of_row32 a b hr k hw
theorem Encodes.vbmul : ∀ y_g y_m y_d y_f y_a y_b, Statement (.vbmul y_g y_m y_d y_f y_a y_b) := by
  intro y_g y_m y_d y_f y_a y_b n w h hw
  obtain ⟨rfl, e⟩ := read_word (u := 0xD1000000 + y_g.toNat * 0x100000 + y_m.toNat * 0x40000 + y_d.toNat * 0x4000 + y_f.toNat * 0x1000 + y_a.toNat * 0x100 + y_b.toNat * 0x4) h
  obtain ⟨a, b, p, q, f0, f1, f2, f3, f4, f5, k⟩ := shape39 (o := 162) e rfl (by decide)
  have hr : row32 w = rowA w 2 := row32_A p q
  replace hr : row32 w = (.vbmul (fld w 20 3) (fld w 18 2) (fld w 14 3) (fld w 12 2) (fld w 8 3) (fld w 2 3), [(17, 17, 0, 5), (11, 11, 0, 5), (7, 5, 0, 5), (1, 0, 0, 5)]) := hr
  rw [f0, f1, f2, f3, f4, f5] at hr
  exact decode_of_row32 a b hr k hw
theorem Encodes.vbfma : ∀ y_g y_m y_d y_f y_a y_b, Statement (.vbfma y_g y_m y_d y_f y_a y_b) := by
  intro y_g y_m y_d y_f y_a y_b n w h hw
  obtain ⟨rfl, e⟩ := read_word (u := 0xD1800000 + y_g.toNat * 0x100000 + y_m.toNat * 0x40000 + y_d.toNat * 0x4000 + y_f.toNat * 0x1000 + y_a.toNat * 0x100 + y_b.toNat * 0x4) h
  obtain ⟨a, b, p, q, f0, f1, f2, f3, f4, f5, k⟩ := shape39 (o := 163) e rfl (by decide)
  have hr : row32 w = rowA w 3 := row32_A p q
  replace hr : row32 w = (.vbfma (fld w 20 3) (fld w 18 2) (fld w 14 3) (fld w 12 2) (fld w 8 3) (fld w 2 3), [(17, 17, 0, 5), (11, 11, 0, 5), (7, 5, 0, 5), (1, 0, 0, 5)]) := hr
  rw [f0, f1, f2, f3, f4, f5] at hr
  exact decode_of_row32 a b hr k hw
theorem Encodes.vbmax : ∀ y_g y_m y_d y_f y_a y_b, Statement (.vbmax y_g y_m y_d y_f y_a y_b) := by
  intro y_g y_m y_d y_f y_a y_b n w h hw
  obtain ⟨rfl, e⟩ := read_word (u := 0xD2000000 + y_g.toNat * 0x100000 + y_m.toNat * 0x40000 + y_d.toNat * 0x4000 + y_f.toNat * 0x1000 + y_a.toNat * 0x100 + y_b.toNat * 0x4) h
  obtain ⟨a, b, p, q, f0, f1, f2, f3, f4, f5, k⟩ := shape39 (o := 164) e rfl (by decide)
  have hr : row32 w = rowA w 4 := row32_A p q
  replace hr : row32 w = (.vbmax (fld w 20 3) (fld w 18 2) (fld w 14 3) (fld w 12 2) (fld w 8 3) (fld w 2 3), [(17, 17, 0, 5), (11, 11, 0, 5), (7, 5, 0, 5), (1, 0, 0, 5)]) := hr
  rw [f0, f1, f2, f3, f4, f5] at hr
  exact decode_of_row32 a b hr k hw
theorem Encodes.vbmin : ∀ y_g y_m y_d y_f y_a y_b, Statement (.vbmin y_g y_m y_d y_f y_a y_b) := by
  intro y_g y_m y_d y_f y_a y_b n w h hw
  obtain ⟨rfl, e⟩ := read_word (u := 0xD2800000 + y_g.toNat * 0x100000 + y_m.toNat * 0x40000 + y_d.toNat * 0x4000 + y_f.toNat * 0x1000 + y_a.toNat * 0x100 + y_b.toNat * 0x4) h
  obtain ⟨a, b, p, q, f0, f1, f2, f3, f4, f5, k⟩ := shape39 (o := 165) e rfl (by decide)
  have hr : row32 w = rowA w 5 := row32_A p q
  replace hr : row32 w = (.vbmin (fld w 20 3) (fld w 18 2) (fld w 14 3) (fld w 12 2) (fld w 8 3) (fld w 2 3), [(17, 17, 0, 5), (11, 11, 0, 5), (7, 5, 0, 5), (1, 0, 0, 5)]) := hr
  rw [f0, f1, f2, f3, f4, f5] at hr
  exact decode_of_row32 a b hr k hw
theorem Encodes.vbscale : ∀ y_g y_m y_d y_f y_a y_b, Statement (.vbscale y_g y_m y_d y_f y_a y_b) := by
  intro y_g y_m y_d y_f y_a y_b n w h hw
  obtain ⟨rfl, e⟩ := read_word (u := 0xD3000000 + y_g.toNat * 0x100000 + y_m.toNat * 0x40000 + y_d.toNat * 0x4000 + y_f.toNat * 0x1000 + y_a.toNat * 0x100 + y_b.toNat * 0x4) h
  obtain ⟨a, b, p, q, f0, f1, f2, f3, f4, f5, k⟩ := shape39 (o := 166) e rfl (by decide)
  have hr : row32 w = rowA w 6 := row32_A p q
  replace hr : row32 w = (.vbscale (fld w 20 3) (fld w 18 2) (fld w 14 3) (fld w 12 2) (fld w 8 3) (fld w 2 3), [(17, 17, 0, 5), (11, 11, 0, 5), (7, 5, 0, 5), (1, 0, 0, 5)]) := hr
  rw [f0, f1, f2, f3, f4, f5] at hr
  exact decode_of_row32 a b hr k hw
theorem shape40 {o B w : Nat} {x0 : BitVec 3} {x1 : BitVec 2} {x2 : BitVec 3} {x3 : BitVec 2} {x4 : BitVec 3} (e : B + x0.toNat * 0x100000 + x1.toNat * 0x40000 + x2.toNat * 0x4000 + x3.toNat * 0x1000 + x4.toNat * 0x100 = w) (hb : B = 2147483648 + o * 8388608) (ho : o < 256) :
    2147483648 ≤ w ∧ w < 4294967296 ∧ bits w 30 27 = o / 16 ∧ bits w 26 23 = o % 16 ∧ fld w 20 3 = x0 ∧ fld w 18 2 = x1 ∧ fld w 14 3 = x2 ∧ fld w 12 2 = x3 ∧ fld w 8 3 = x4 ∧ brokenBits w [(17, 17, 0, 5), (11, 11, 0, 5), (7, 6, 0, 5), (5, 0, 0, 1)] = none := by
  have := x0.isLt
  have := x1.isLt
  have := x2.isLt
  have := x3.isLt
  have := x4.isLt
  exact ⟨by omega, by omega, by simp only [bits]; omega, by simp only [bits]; omega, fld_eq x0 (by omega), fld_eq x1 (by omega), fld_eq x2 (by omega), fld_eq x3 (by omega), fld_eq x4 (by omega), broken_cons (by simp only [bits]; omega) (broken_cons (by simp only [bits]; omega) (broken_cons (by simp only [bits]; omega) (broken_cons (by simp only [bits]; omega) (broken_nil w))))⟩
theorem Encodes.vbnorm : ∀ y_g y_m y_d y_f y_a, Statement (.vbnorm y_g y_m y_d y_f y_a) := by
  intro y_g y_m y_d y_f y_a n w h hw
  obtain ⟨rfl, e⟩ := read_word (u := 0xD3800000 + y_g.toNat * 0x100000 + y_m.toNat * 0x40000 + y_d.toNat * 0x4000 + y_f.toNat * 0x1000 + y_a.toNat * 0x100) h
  obtain ⟨a, b, p, q, f0, f1, f2, f3, f4, k⟩ := shape40 (o := 167) e rfl (by decide)
  have hr : row32 w = rowA w 7 := row32_A p q
  replace hr : row32 w = (.vbnorm (fld w 20 3) (fld w 18 2) (fld w 14 3) (fld w 12 2) (fld w 8 3), [(17, 17, 0, 5), (11, 11, 0, 5), (7, 6, 0, 5), (5, 0, 0, 1)]) := hr
  rw [f0, f1, f2, f3, f4] at hr
  exact decode_of_row32 a b hr k hw
theorem Encodes.vbpack : ∀ y_g y_m y_d y_f y_a y_b, Statement (.vbpack y_g y_m y_d y_f y_a y_b) := by
  intro y_g y_m y_d y_f y_a y_b n w h hw
  obtain ⟨rfl, e⟩ := read_word (u := 0xD4000000 + y_g.toNat * 0x100000 + y_m.toNat * 0x40000 + y_d.toNat * 0x4000 + y_f.toNat * 0x1000 + y_a.toNat * 0x100 + y_b.toNat * 0x4) h
  obtain ⟨a, b, p, q, f0, f1, f2, f3, f4, f5, k⟩ := shape39 (o := 168) e rfl (by decide)
  have hr : row32 w = rowA w 8 := row32_A p q
  replace hr : row32 w = (.vbpack (fld w 20 3) (fld w 18 2) (fld w 14 3) (fld w 12 2) (fld w 8 3) (fld w 2 3), [(17, 17, 0, 5), (11, 11, 0, 5), (7, 5, 0, 5), (1, 0, 0, 5)]) := hr
  rw [f0, f1, f2, f3, f4, f5] at hr
  exact decode_of_row32 a b hr k hw
theorem Encodes.vbunpack : ∀ y_g y_m y_d y_f y_a y_c, Statement (.vbunpack y_g y_m y_d y_f y_a y_c) := by
  intro y_g y_m y_d y_f y_a y_c n w h hw
  obtain ⟨rfl, e⟩ := read_word (u := 0xD4800000 + y_g.toNat * 0x100000 + y_m.toNat * 0x40000 + y_d.toNat * 0x4000 + y_f.toNat * 0x1000 + y_a.toNat * 0x100 + y_c.toNat * 0x4) h
  obtain ⟨a, b, p, q, f0, f1, f2, f3, f4, f5, k⟩ := shape39 (o := 169) e rfl (by decide)
  have hr : row32 w = rowA w 9 := row32_A p q
  replace hr : row32 w = (.vbunpack (fld w 20 3) (fld w 18 2) (fld w 14 3) (fld w 12 2) (fld w 8 3) (fld w 2 3), [(17, 17, 0, 5), (11, 11, 0, 5), (7, 5, 0, 5), (1, 0, 0, 5)]) := hr
  rw [f0, f1, f2, f3, f4, f5] at hr
  exact decode_of_row32 a b hr k hw
theorem Encodes.vsxpack : ∀ y_g y_m y_d y_f y_a, Statement (.vsxpack y_g y_m y_d y_f y_a) := by
  intro y_g y_m y_d y_f y_a n w h hw
  obtain ⟨rfl, e⟩ := read_word (u := 0xD5000000 + y_g.toNat * 0x100000 + y_m.toNat * 0x40000 + y_d.toNat * 0x4000 + y_f.toNat * 0x1000 + y_a.toNat * 0x100) h
  obtain ⟨a, b, p, q, f0, f1, f2, f3, f4, k⟩ := shape40 (o := 170) e rfl (by decide)
  have hr : row32 w = rowA w 10 := row32_A p q
  replace hr : row32 w = (.vsxpack (fld w 20 3) (fld w 18 2) (fld w 14 3) (fld w 12 2) (fld w 8 3), [(17, 17, 0, 5), (11, 11, 0, 5), (7, 6, 0, 5), (5, 0, 0, 1)]) := hr
  rw [f0, f1, f2, f3, f4] at hr
  exact decode_of_row32 a b hr k hw
theorem Encodes.vsxunpack : ∀ y_g y_m y_d y_f y_a y_c, Statement (.vsxunpack y_g y_m y_d y_f y_a y_c) := by
  intro y_g y_m y_d y_f y_a y_c n w h hw
  obtain ⟨rfl, e⟩ := read_word (u := 0xD5800000 + y_g.toNat * 0x100000 + y_m.toNat * 0x40000 + y_d.toNat * 0x4000 + y_f.toNat * 0x1000 + y_a.toNat * 0x100 + y_c.toNat * 0x4) h
  obtain ⟨a, b, p, q, f0, f1, f2, f3, f4, f5, k⟩ := shape39 (o := 171) e rfl (by decide)
  have hr : row32 w = rowA w 11 := row32_A p q
  replace hr : row32 w = (.vsxunpack (fld w 20 3) (fld w 18 2) (fld w 14 3) (fld w 12 2) (fld w 8 3) (fld w 2 3), [(17, 17, 0, 5), (11, 11, 0, 5), (7, 5, 0, 5), (1, 0, 0, 5)]) := hr
  rw [f0, f1, f2, f3, f4, f5] at hr
  exact decode_of_row32 a b hr k hw
theorem shape41 {o B w : Nat} {x0 : BitVec 3} {x1 : BitVec 3} {x2 : BitVec 3} (e : B + x0.toNat * 0x100000 + x1.toNat * 0x4000 + x2.toNat * 0x100 = w) (hb : B = 2147483648 + o * 8388608) (ho : o < 256) :
    2147483648 ≤ w ∧ w < 4294967296 ∧ bits w 30 27 = o / 16 ∧ bits w 26 23 = o % 16 ∧ fld w 20 3 = x0 ∧ fld w 14 3 = x1 ∧ fld w 8 3 = x2 ∧ brokenBits w [(19, 18, 0, 4), (17, 17, 0, 5), (13, 12, 0, 4), (11, 11, 0, 5), (7, 6, 0, 5), (5, 0, 0, 1)] = none := by
  have := x0.isLt
  have := x1.isLt
  have := x2.isLt
  exact ⟨by omega, by omega, by simp only [bits]; omega, by simp only [bits]; omega, fld_eq x0 (by omega), fld_eq x1 (by omega), fld_eq x2 (by omega), broken_cons (by simp only [bits]; omega) (broken_cons (by simp only [bits]; omega) (broken_cons (by simp only [bits]; omega) (broken_cons (by simp only [bits]; omega) (broken_cons (by simp only [bits]; omega) (broken_cons (by simp only [bits]; omega) (broken_nil w))))))⟩
theorem Encodes.vkget : ∀ y_g y_d y_a, Statement (.vkget y_g y_d y_a) := by
  intro y_g y_d y_a n w h hw
  obtain ⟨rfl, e⟩ := read_word (u := 0xD6000000 + y_g.toNat * 0x100000 + y_d.toNat * 0x4000 + y_a.toNat * 0x100) h
  obtain ⟨a, b, p, q, f0, f1, f2, k⟩ := shape41 (o := 172) e rfl (by decide)
  have hr : row32 w = rowA w 12 := row32_A p q
  replace hr : row32 w = (.vkget (fld w 20 3) (fld w 14 3) (fld w 8 3), [(19, 18, 0, 4), (17, 17, 0, 5), (13, 12, 0, 4), (11, 11, 0, 5), (7, 6, 0, 5), (5, 0, 0, 1)]) := hr
  rw [f0, f1, f2] at hr
  exact decode_of_row32 a b hr k hw
theorem Encodes.vkset : ∀ y_g y_d y_a, Statement (.vkset y_g y_d y_a) := by
  intro y_g y_d y_a n w h hw
  obtain ⟨rfl, e⟩ := read_word (u := 0xD6800000 + y_g.toNat * 0x100000 + y_d.toNat * 0x4000 + y_a.toNat * 0x100) h
  obtain ⟨a, b, p, q, f0, f1, f2, k⟩ := shape41 (o := 173) e rfl (by decide)
  have hr : row32 w = rowA w 13 := row32_A p q
  replace hr : row32 w = (.vkset (fld w 20 3) (fld w 14 3) (fld w 8 3), [(19, 18, 0, 4), (17, 17, 0, 5), (13, 12, 0, 4), (11, 11, 0, 5), (7, 6, 0, 5), (5, 0, 0, 1)]) := hr
  rw [f0, f1, f2] at hr
  exact decode_of_row32 a b hr k hw
theorem Encodes.vbdot : ∀ y_g y_m y_d y_f y_a y_b, Statement (.vbdot y_g y_m y_d y_f y_a y_b) := by
  intro y_g y_m y_d y_f y_a y_b n w h hw
  obtain ⟨rfl, e⟩ := read_word (u := 0xD7000000 + y_g.toNat * 0x100000 + y_m.toNat * 0x40000 + y_d.toNat * 0x4000 + y_f.toNat * 0x1000 + y_a.toNat * 0x100 + y_b.toNat * 0x4) h
  obtain ⟨a, b, p, q, f0, f1, f2, f3, f4, f5, k⟩ := shape39 (o := 174) e rfl (by decide)
  have hr : row32 w = rowA w 14 := row32_A p q
  replace hr : row32 w = (.vbdot (fld w 20 3) (fld w 18 2) (fld w 14 3) (fld w 12 2) (fld w 8 3) (fld w 2 3), [(17, 17, 0, 5), (11, 11, 0, 5), (7, 5, 0, 5), (1, 0, 0, 5)]) := hr
  rw [f0, f1, f2, f3, f4, f5] at hr
  exact decode_of_row32 a b hr k hw
theorem Encodes.vbcvt : ∀ y_g y_m y_d y_f y_a y_s, Statement (.vbcvt y_g y_m y_d y_f y_a y_s) := by
  intro y_g y_m y_d y_f y_a y_s n w h hw
  obtain ⟨rfl, e⟩ := read_word (u := 0xD7800000 + y_g.toNat * 0x100000 + y_m.toNat * 0x40000 + y_d.toNat * 0x4000 + y_f.toNat * 0x1000 + y_a.toNat * 0x100 + y_s.toNat * 0x4) h
  obtain ⟨a, b, p, q, f0, f1, f2, f3, f4, f5, k⟩ := shape39 (o := 175) e rfl (by decide)
  have hr : row32 w = rowA w 15 := row32_A p q
  replace hr : row32 w = (.vbcvt (fld w 20 3) (fld w 18 2) (fld w 14 3) (fld w 12 2) (fld w 8 3) (fld w 2 3), [(17, 17, 0, 5), (11, 11, 0, 5), (7, 5, 0, 5), (1, 0, 0, 5)]) := hr
  rw [f0, f1, f2, f3, f4, f5] at hr
  exact decode_of_row32 a b hr k hw
theorem shape42 {o B w : Nat} {x0 : BitVec 3} {x1 : BitVec 2} {x2 : BitVec 6} {x3 : BitVec 6} {x4 : BitVec 1} {x5 : BitVec 4} (e : B + x0.toNat * 0x100000 + x1.toNat * 0x40000 + x2.toNat * 0x1000 + x3.toNat * 0x40 + x4.toNat * 0x20 + x5.toNat * 0x1 = w) (hb : B = 2147483648 + o * 8388608) (ho : o < 256) :
    2147483648 ≤ w ∧ w < 4294967296 ∧ bits w 30 27 = o / 16 ∧ bits w 26 23 = o % 16 ∧ fld w 20 3 = x0 ∧ fld w 18 2 = x1 ∧ fld w 12 6 = x2 ∧ fld w 6 6 = x3 ∧ fld w 5 1 = x4 ∧ fld w 0 4 = x5 ∧ brokenBits w [(4, 4, 0, 1)] = none := by
  have := x0.isLt
  have := x1.isLt
  have := x2.isLt
  have := x3.isLt
  have := x4.isLt
  have := x5.isLt
  exact ⟨by omega, by omega, by simp only [bits]; omega, by simp only [bits]; omega, fld_eq x0 (by omega), fld_eq x1 (by omega), fld_eq x2 (by omega), fld_eq x3 (by omega), fld_eq x4 (by omega), fld_eq x5 (by omega), broken_cons (by simp only [bits]; omega) (broken_nil w)⟩
theorem Encodes.vldl : ∀ y_g y_m y_d y_a y_e y_c, Statement (.vldl y_g y_m y_d y_a y_e y_c) := by
  intro y_g y_m y_d y_a y_e y_c n w h hw
  obtain ⟨rfl, e⟩ := read_word (u := 0xD8000000 + y_g.toNat * 0x100000 + y_m.toNat * 0x40000 + y_d.toNat * 0x1000 + y_a.toNat * 0x40 + y_e.toNat * 0x20 + y_c.toNat * 0x1) h
  obtain ⟨a, b, p, q, f0, f1, f2, f3, f4, f5, k⟩ := shape42 (o := 176) e rfl (by decide)
  have hr : row32 w = rowB w 0 := row32_B p q
  replace hr : row32 w = (.vldl (fld w 20 3) (fld w 18 2) (fld w 12 6) (fld w 6 6) (fld w 5 1) (fld w 0 4), [(4, 4, 0, 1)]) := hr
  rw [f0, f1, f2, f3, f4, f5] at hr
  exact decode_of_row32 a b hr k hw
theorem shape43 {o B w : Nat} {x0 : BitVec 3} {x1 : BitVec 2} {x2 : BitVec 6} {x3 : BitVec 6} {x4 : BitVec 4} (e : B + x0.toNat * 0x100000 + x1.toNat * 0x40000 + x2.toNat * 0x1000 + x3.toNat * 0x40 + x4.toNat * 0x1 = w) (hb : B = 2147483648 + o * 8388608) (ho : o < 256) :
    2147483648 ≤ w ∧ w < 4294967296 ∧ bits w 30 27 = o / 16 ∧ bits w 26 23 = o % 16 ∧ fld w 20 3 = x0 ∧ fld w 18 2 = x1 ∧ fld w 12 6 = x2 ∧ fld w 6 6 = x3 ∧ fld w 0 4 = x4 ∧ brokenBits w [(5, 5, 0, 4), (4, 4, 0, 1)] = none := by
  have := x0.isLt
  have := x1.isLt
  have := x2.isLt
  have := x3.isLt
  have := x4.isLt
  exact ⟨by omega, by omega, by simp only [bits]; omega, by simp only [bits]; omega, fld_eq x0 (by omega), fld_eq x1 (by omega), fld_eq x2 (by omega), fld_eq x3 (by omega), fld_eq x4 (by omega), broken_cons (by simp only [bits]; omega) (broken_cons (by simp only [bits]; omega) (broken_nil w))⟩
theorem Encodes.vstl : ∀ y_g y_m y_d y_a y_c, Statement (.vstl y_g y_m y_d y_a y_c) := by
  intro y_g y_m y_d y_a y_c n w h hw
  obtain ⟨rfl, e⟩ := read_word (u := 0xD8800000 + y_g.toNat * 0x100000 + y_m.toNat * 0x40000 + y_d.toNat * 0x1000 + y_a.toNat * 0x40 + y_c.toNat * 0x1) h
  obtain ⟨a, b, p, q, f0, f1, f2, f3, f4, k⟩ := shape43 (o := 177) e rfl (by decide)
  have hr : row32 w = rowB w 1 := row32_B p q
  replace hr : row32 w = (.vstl (fld w 20 3) (fld w 18 2) (fld w 12 6) (fld w 6 6) (fld w 0 4), [(5, 5, 0, 4), (4, 4, 0, 1)]) := hr
  rw [f0, f1, f2, f3, f4] at hr
  exact decode_of_row32 a b hr k hw
theorem Encodes.vld : ∀ y_g y_m y_d y_a y_e y_c, Statement (.vld y_g y_m y_d y_a y_e y_c) := by
  intro y_g y_m y_d y_a y_e y_c n w h hw
  obtain ⟨rfl, e⟩ := read_word (u := 0xD9000000 + y_g.toNat * 0x100000 + y_m.toNat * 0x40000 + y_d.toNat * 0x1000 + y_a.toNat * 0x40 + y_e.toNat * 0x20 + y_c.toNat * 0x1) h
  obtain ⟨a, b, p, q, f0, f1, f2, f3, f4, f5, k⟩ := shape42 (o := 178) e rfl (by decide)
  have hr : row32 w = rowB w 2 := row32_B p q
  replace hr : row32 w = (.vld (fld w 20 3) (fld w 18 2) (fld w 12 6) (fld w 6 6) (fld w 5 1) (fld w 0 4), [(4, 4, 0, 1)]) := hr
  rw [f0, f1, f2, f3, f4, f5] at hr
  exact decode_of_row32 a b hr k hw
theorem Encodes.vst : ∀ y_g y_m y_d y_a y_c, Statement (.vst y_g y_m y_d y_a y_c) := by
  intro y_g y_m y_d y_a y_c n w h hw
  obtain ⟨rfl, e⟩ := read_word (u := 0xD9800000 + y_g.toNat * 0x100000 + y_m.toNat * 0x40000 + y_d.toNat * 0x1000 + y_a.toNat * 0x40 + y_c.toNat * 0x1) h
  obtain ⟨a, b, p, q, f0, f1, f2, f3, f4, k⟩ := shape43 (o := 179) e rfl (by decide)
  have hr : row32 w = rowB w 3 := row32_B p q
  replace hr : row32 w = (.vst (fld w 20 3) (fld w 18 2) (fld w 12 6) (fld w 6 6) (fld w 0 4), [(5, 5, 0, 4), (4, 4, 0, 1)]) := hr
  rw [f0, f1, f2, f3, f4] at hr
  exact decode_of_row32 a b hr k hw
theorem shape44 {o B w : Nat} {x0 : BitVec 3} {x1 : BitVec 2} {x2 : BitVec 6} {x3 : BitVec 6} {x4 : BitVec 1} {x5 : BitVec 3} (e : B + x0.toNat * 0x100000 + x1.toNat * 0x40000 + x2.toNat * 0x1000 + x3.toNat * 0x40 + x4.toNat * 0x20 + x5.toNat * 0x1 = w) (hb : B = 2147483648 + o * 8388608) (ho : o < 256) :
    2147483648 ≤ w ∧ w < 4294967296 ∧ bits w 30 27 = o / 16 ∧ bits w 26 23 = o % 16 ∧ fld w 20 3 = x0 ∧ fld w 18 2 = x1 ∧ fld w 12 6 = x2 ∧ fld w 6 6 = x3 ∧ fld w 5 1 = x4 ∧ fld w 0 3 = x5 ∧ brokenBits w [(4, 3, 0, 1)] = none := by
  have := x0.isLt
  have := x1.isLt
  have := x2.isLt
  have := x3.isLt
  have := x4.isLt
  have := x5.isLt
  exact ⟨by omega, by omega, by simp only [bits]; omega, by simp only [bits]; omega, fld_eq x0 (by omega), fld_eq x1 (by omega), fld_eq x2 (by omega), fld_eq x3 (by omega), fld_eq x4 (by omega), fld_eq x5 (by omega), broken_cons (by simp only [bits]; omega) (broken_nil w)⟩
theorem Encodes.vldAcq : ∀ y_g y_m y_d y_a y_e y_s, Statement (.vldAcq y_g y_m y_d y_a y_e y_s) := by
  intro y_g y_m y_d y_a y_e y_s n w h hw
  obtain ⟨rfl, e⟩ := read_word (u := 0xDA000000 + y_g.toNat * 0x100000 + y_m.toNat * 0x40000 + y_d.toNat * 0x1000 + y_a.toNat * 0x40 + y_e.toNat * 0x20 + y_s.toNat * 0x1) h
  obtain ⟨a, b, p, q, f0, f1, f2, f3, f4, f5, k⟩ := shape44 (o := 180) e rfl (by decide)
  have hr : row32 w = rowB w 4 := row32_B p q
  replace hr : row32 w = (.vldAcq (fld w 20 3) (fld w 18 2) (fld w 12 6) (fld w 6 6) (fld w 5 1) (fld w 0 3), [(4, 3, 0, 1)]) := hr
  rw [f0, f1, f2, f3, f4, f5] at hr
  exact decode_of_row32 a b hr k hw
theorem shape45 {o B w : Nat} {x0 : BitVec 3} {x1 : BitVec 2} {x2 : BitVec 6} {x3 : BitVec 6} {x4 : BitVec 3} (e : B + x0.toNat * 0x100000 + x1.toNat * 0x40000 + x2.toNat * 0x1000 + x3.toNat * 0x40 + x4.toNat * 0x1 = w) (hb : B = 2147483648 + o * 8388608) (ho : o < 256) :
    2147483648 ≤ w ∧ w < 4294967296 ∧ bits w 30 27 = o / 16 ∧ bits w 26 23 = o % 16 ∧ fld w 20 3 = x0 ∧ fld w 18 2 = x1 ∧ fld w 12 6 = x2 ∧ fld w 6 6 = x3 ∧ fld w 0 3 = x4 ∧ brokenBits w [(5, 5, 0, 4), (4, 3, 0, 1)] = none := by
  have := x0.isLt
  have := x1.isLt
  have := x2.isLt
  have := x3.isLt
  have := x4.isLt
  exact ⟨by omega, by omega, by simp only [bits]; omega, by simp only [bits]; omega, fld_eq x0 (by omega), fld_eq x1 (by omega), fld_eq x2 (by omega), fld_eq x3 (by omega), fld_eq x4 (by omega), broken_cons (by simp only [bits]; omega) (broken_cons (by simp only [bits]; omega) (broken_nil w))⟩
theorem Encodes.vstRel : ∀ y_g y_m y_d y_a y_s, Statement (.vstRel y_g y_m y_d y_a y_s) := by
  intro y_g y_m y_d y_a y_s n w h hw
  obtain ⟨rfl, e⟩ := read_word (u := 0xDA800000 + y_g.toNat * 0x100000 + y_m.toNat * 0x40000 + y_d.toNat * 0x1000 + y_a.toNat * 0x40 + y_s.toNat * 0x1) h
  obtain ⟨a, b, p, q, f0, f1, f2, f3, f4, k⟩ := shape45 (o := 181) e rfl (by decide)
  have hr : row32 w = rowB w 5 := row32_B p q
  replace hr : row32 w = (.vstRel (fld w 20 3) (fld w 18 2) (fld w 12 6) (fld w 6 6) (fld w 0 3), [(5, 5, 0, 4), (4, 3, 0, 1)]) := hr
  rw [f0, f1, f2, f3, f4] at hr
  exact decode_of_row32 a b hr k hw
theorem shape46 {o B w : Nat} {x0 : BitVec 3} {x1 : BitVec 3} {x2 : BitVec 6} {x3 : BitVec 1} (e : B + x0.toNat * 0x100000 + x1.toNat * 0x4000 + x2.toNat * 0x40 + x3.toNat * 0x20 = w) (hb : B = 2147483648 + o * 8388608) (ho : o < 256) :
    2147483648 ≤ w ∧ w < 4294967296 ∧ bits w 30 27 = o / 16 ∧ bits w 26 23 = o % 16 ∧ fld w 20 3 = x0 ∧ fld w 14 3 = x1 ∧ fld w 6 6 = x2 ∧ fld w 5 1 = x3 ∧ brokenBits w [(19, 18, 0, 4), (17, 17, 0, 5), (13, 12, 0, 5), (4, 0, 0, 1)] = none := by
  have := x0.isLt
  have := x1.isLt
  have := x2.isLt
  have := x3.isLt
  exact ⟨by omega, by omega, by simp only [bits]; omega, by simp only [bits]; omega, fld_eq x0 (by omega), fld_eq x1 (by omega), fld_eq x2 (by omega), fld_eq x3 (by omega), broken_cons (by simp only [bits]; omega) (broken_cons (by simp only [bits]; omega) (broken_cons (by simp only [bits]; omega) (broken_cons (by simp only [bits]; omega) (broken_nil w))))⟩
theorem Encodes.vldlq : ∀ y_g y_d y_a y_s, Statement (.vldlq y_g y_d y_a y_s) := by
  intro y_g y_d y_a y_s n w h hw
  obtain ⟨rfl, e⟩ := read_word (u := 0xDB000000 + y_g.toNat * 0x100000 + y_d.toNat * 0x4000 + y_a.toNat * 0x40 + y_s.toNat * 0x20) h
  obtain ⟨a, b, p, q, f0, f1, f2, f3, k⟩ := shape46 (o := 182) e rfl (by decide)
  have hr : row32 w = rowB w 6 := row32_B p q
  replace hr : row32 w = (.vldlq (fld w 20 3) (fld w 14 3) (fld w 6 6) (fld w 5 1), [(19, 18, 0, 4), (17, 17, 0, 5), (13, 12, 0, 5), (4, 0, 0, 1)]) := hr
  rw [f0, f1, f2, f3] at hr
  exact decode_of_row32 a b hr k hw
theorem Encodes.vstlq : ∀ y_g y_d y_a y_s, Statement (.vstlq y_g y_d y_a y_s) := by
  intro y_g y_d y_a y_s n w h hw
  obtain ⟨rfl, e⟩ := read_word (u := 0xDB800000 + y_g.toNat * 0x100000 + y_d.toNat * 0x4000 + y_a.toNat * 0x40 + y_s.toNat * 0x20) h
  obtain ⟨a, b, p, q, f0, f1, f2, f3, k⟩ := shape46 (o := 183) e rfl (by decide)
  have hr : row32 w = rowB w 7 := row32_B p q
  replace hr : row32 w = (.vstlq (fld w 20 3) (fld w 14 3) (fld w 6 6) (fld w 5 1), [(19, 18, 0, 4), (17, 17, 0, 5), (13, 12, 0, 5), (4, 0, 0, 1)]) := hr
  rw [f0, f1, f2, f3] at hr
  exact decode_of_row32 a b hr k hw
theorem Encodes.vldq : ∀ y_g y_d y_a y_s, Statement (.vldq y_g y_d y_a y_s) := by
  intro y_g y_d y_a y_s n w h hw
  obtain ⟨rfl, e⟩ := read_word (u := 0xDC000000 + y_g.toNat * 0x100000 + y_d.toNat * 0x4000 + y_a.toNat * 0x40 + y_s.toNat * 0x20) h
  obtain ⟨a, b, p, q, f0, f1, f2, f3, k⟩ := shape46 (o := 184) e rfl (by decide)
  have hr : row32 w = rowB w 8 := row32_B p q
  replace hr : row32 w = (.vldq (fld w 20 3) (fld w 14 3) (fld w 6 6) (fld w 5 1), [(19, 18, 0, 4), (17, 17, 0, 5), (13, 12, 0, 5), (4, 0, 0, 1)]) := hr
  rw [f0, f1, f2, f3] at hr
  exact decode_of_row32 a b hr k hw
theorem Encodes.vstq : ∀ y_g y_d y_a y_s, Statement (.vstq y_g y_d y_a y_s) := by
  intro y_g y_d y_a y_s n w h hw
  obtain ⟨rfl, e⟩ := read_word (u := 0xDC800000 + y_g.toNat * 0x100000 + y_d.toNat * 0x4000 + y_a.toNat * 0x40 + y_s.toNat * 0x20) h
  obtain ⟨a, b, p, q, f0, f1, f2, f3, k⟩ := shape46 (o := 185) e rfl (by decide)
  have hr : row32 w = rowB w 9 := row32_B p q
  replace hr : row32 w = (.vstq (fld w 20 3) (fld w 14 3) (fld w 6 6) (fld w 5 1), [(19, 18, 0, 4), (17, 17, 0, 5), (13, 12, 0, 5), (4, 0, 0, 1)]) := hr
  rw [f0, f1, f2, f3] at hr
  exact decode_of_row32 a b hr k hw
theorem shape47 {o B w : Nat} {x0 : BitVec 3} {x1 : BitVec 6} (e : B + x0.toNat * 0x100000 + x1.toNat * 0x40 = w) (hb : B = 2147483648 + o * 8388608) (ho : o < 256) :
    2147483648 ≤ w ∧ w < 4294967296 ∧ bits w 30 27 = o / 16 ∧ bits w 26 23 = o % 16 ∧ fld w 20 3 = x0 ∧ fld w 6 6 = x1 ∧ brokenBits w [(19, 18, 0, 4), (17, 12, 0, 1), (5, 0, 0, 1)] = none := by
  have := x0.isLt
  have := x1.isLt
  exact ⟨by omega, by omega, by simp only [bits]; omega, by simp only [bits]; omega, fld_eq x0 (by omega), fld_eq x1 (by omega), broken_cons (by simp only [bits]; omega) (broken_cons (by simp only [bits]; omega) (broken_cons (by simp only [bits]; omega) (broken_nil w)))⟩
theorem Encodes.vpf : ∀ y_g y_a, Statement (.vpf y_g y_a) := by
  intro y_g y_a n w h hw
  obtain ⟨rfl, e⟩ := read_word (u := 0xDD000000 + y_g.toNat * 0x100000 + y_a.toNat * 0x40) h
  obtain ⟨a, b, p, q, f0, f1, k⟩ := shape47 (o := 186) e rfl (by decide)
  have hr : row32 w = rowB w 10 := row32_B p q
  replace hr : row32 w = (.vpf (fld w 20 3) (fld w 6 6), [(19, 18, 0, 4), (17, 12, 0, 1), (5, 0, 0, 1)]) := hr
  rw [f0, f1] at hr
  exact decode_of_row32 a b hr k hw
theorem shape48 {o B w : Nat} {x0 : BitVec 3} {x1 : BitVec 6} {x2 : BitVec 2} (e : B + x0.toNat * 0x100000 + x1.toNat * 0x1000 + x2.toNat * 0x1 = w) (hb : B = 2147483648 + o * 8388608) (ho : o < 256) :
    2147483648 ≤ w ∧ w < 4294967296 ∧ bits w 30 27 = o / 16 ∧ bits w 26 23 = o % 16 ∧ fld w 20 3 = x0 ∧ fld w 12 6 = x1 ∧ fld w 0 2 = x2 ∧ brokenBits w [(19, 18, 0, 4), (11, 2, 0, 1)] = none := by
  have := x0.isLt
  have := x1.isLt
  have := x2.isLt
  exact ⟨by omega, by omega, by simp only [bits]; omega, by simp only [bits]; omega, fld_eq x0 (by omega), fld_eq x1 (by omega), fld_eq x2 (by omega), broken_cons (by simp only [bits]; omega) (broken_cons (by simp only [bits]; omega) (broken_nil w))⟩
theorem Encodes.srd : ∀ y_g y_d y_n, Statement (.srd y_g y_d y_n) := by
  intro y_g y_d y_n n w h hw
  obtain ⟨rfl, e⟩ := read_word (u := 0xDD800000 + y_g.toNat * 0x100000 + y_d.toNat * 0x1000 + y_n.toNat * 0x1) h
  obtain ⟨a, b, p, q, f0, f1, f2, k⟩ := shape48 (o := 187) e rfl (by decide)
  have hr : row32 w = rowB w 11 := row32_B p q
  replace hr : row32 w = (.srd (fld w 20 3) (fld w 12 6) (fld w 0 2), [(19, 18, 0, 4), (11, 2, 0, 1)]) := hr
  rw [f0, f1, f2] at hr
  exact decode_of_row32 a b hr k hw
theorem shape49 {o B w : Nat} {x0 : BitVec 3} {x1 : BitVec 6} {x2 : BitVec 3} {x3 : BitVec 2} (e : B + x0.toNat * 0x100000 + x1.toNat * 0x1000 + x2.toNat * 0x40 + x3.toNat * 0x1 = w) (hb : B = 2147483648 + o * 8388608) (ho : o < 256) :
    2147483648 ≤ w ∧ w < 4294967296 ∧ bits w 30 27 = o / 16 ∧ bits w 26 23 = o % 16 ∧ fld w 20 3 = x0 ∧ fld w 12 6 = x1 ∧ fld w 6 3 = x2 ∧ fld w 0 2 = x3 ∧ brokenBits w [(19, 18, 0, 4), (11, 9, 0, 1), (5, 2, 0, 1)] = none := by
  have := x0.isLt
  have := x1.isLt
  have := x2.isLt
  have := x3.isLt
  exact ⟨by omega, by omega, by simp only [bits]; omega, by simp only [bits]; omega, fld_eq x0 (by omega), fld_eq x1 (by omega), fld_eq x2 (by omega), fld_eq x3 (by omega), broken_cons (by simp only [bits]; omega) (broken_cons (by simp only [bits]; omega) (broken_cons (by simp only [bits]; omega) (broken_nil w)))⟩
theorem Encodes.srdnb : ∀ y_g y_d y_p y_n, Statement (.srdnb y_g y_d y_p y_n) := by
  intro y_g y_d y_p y_n n w h hw
  obtain ⟨rfl, e⟩ := read_word (u := 0xDE000000 + y_g.toNat * 0x100000 + y_d.toNat * 0x1000 + y_p.toNat * 0x40 + y_n.toNat * 0x1) h
  obtain ⟨a, b, p, q, f0, f1, f2, f3, k⟩ := shape49 (o := 188) e rfl (by decide)
  have hr : row32 w = rowB w 12 := row32_B p q
  replace hr : row32 w = (.srdnb (fld w 20 3) (fld w 12 6) (fld w 6 3) (fld w 0 2), [(19, 18, 0, 4), (11, 9, 0, 1), (5, 2, 0, 1)]) := hr
  rw [f0, f1, f2, f3] at hr
  exact decode_of_row32 a b hr k hw
theorem Encodes.scnt : ∀ y_g y_d y_n, Statement (.scnt y_g y_d y_n) := by
  intro y_g y_d y_n n w h hw
  obtain ⟨rfl, e⟩ := read_word (u := 0xDE800000 + y_g.toNat * 0x100000 + y_d.toNat * 0x1000 + y_n.toNat * 0x1) h
  obtain ⟨a, b, p, q, f0, f1, f2, k⟩ := shape48 (o := 189) e rfl (by decide)
  have hr : row32 w = rowB w 13 := row32_B p q
  replace hr : row32 w = (.scnt (fld w 20 3) (fld w 12 6) (fld w 0 2), [(19, 18, 0, 4), (11, 2, 0, 1)]) := hr
  rw [f0, f1, f2] at hr
  exact decode_of_row32 a b hr k hw
theorem shape50 {o B w : Nat} {x0 : BitVec 3} {x1 : BitVec 6} {x2 : BitVec 2} (e : B + x0.toNat * 0x100000 + x1.toNat * 0x40 + x2.toNat * 0x1 = w) (hb : B = 2147483648 + o * 8388608) (ho : o < 256) :
    2147483648 ≤ w ∧ w < 4294967296 ∧ bits w 30 27 = o / 16 ∧ bits w 26 23 = o % 16 ∧ fld w 20 3 = x0 ∧ fld w 6 6 = x1 ∧ fld w 0 2 = x2 ∧ brokenBits w [(19, 18, 0, 4), (17, 12, 0, 1), (5, 2, 0, 1)] = none := by
  have := x0.isLt
  have := x1.isLt
  have := x2.isLt
  exact ⟨by omega, by omega, by simp only [bits]; omega, by simp only [bits]; omega, fld_eq x0 (by omega), fld_eq x1 (by omega), fld_eq x2 (by omega), broken_cons (by simp only [bits]; omega) (broken_cons (by simp only [bits]; omega) (broken_cons (by simp only [bits]; omega) (broken_nil w)))⟩
theorem Encodes.sdrop : ∀ y_g y_a y_n, Statement (.sdrop y_g y_a y_n) := by
  intro y_g y_a y_n n w h hw
  obtain ⟨rfl, e⟩ := read_word (u := 0xDF000000 + y_g.toNat * 0x100000 + y_a.toNat * 0x40 + y_n.toNat * 0x1) h
  obtain ⟨a, b, p, q, f0, f1, f2, k⟩ := shape50 (o := 190) e rfl (by decide)
  have hr : row32 w = rowB w 14 := row32_B p q
  replace hr : row32 w = (.sdrop (fld w 20 3) (fld w 6 6) (fld w 0 2), [(19, 18, 0, 4), (17, 12, 0, 1), (5, 2, 0, 1)]) := hr
  rw [f0, f1, f2] at hr
  exact decode_of_row32 a b hr k hw
theorem shape51 {o B w : Nat} {x0 : BitVec 3} {x1 : BitVec 2} (e : B + x0.toNat * 0x100000 + x1.toNat * 0x1 = w) (hb : B = 2147483648 + o * 8388608) (ho : o < 256) :
    2147483648 ≤ w ∧ w < 4294967296 ∧ bits w 30 27 = o / 16 ∧ bits w 26 23 = o % 16 ∧ fld w 20 3 = x0 ∧ fld w 0 2 = x1 ∧ brokenBits w [(19, 18, 0, 4), (17, 2, 0, 1)] = none := by
  have := x0.isLt
  have := x1.isLt
  exact ⟨by omega, by omega, by simp only [bits]; omega, by simp only [bits]; omega, fld_eq x0 (by omega), fld_eq x1 (by omega), broken_cons (by simp only [bits]; omega) (broken_cons (by simp only [bits]; omega) (broken_nil w))⟩
theorem Encodes.sreset : ∀ y_g y_n, Statement (.sreset y_g y_n) := by
  intro y_g y_n n w h hw
  obtain ⟨rfl, e⟩ := read_word (u := 0xDF800000 + y_g.toNat * 0x100000 + y_n.toNat * 0x1) h
  obtain ⟨a, b, p, q, f0, f1, k⟩ := shape51 (o := 191) e rfl (by decide)
  have hr : row32 w = rowB w 15 := row32_B p q
  replace hr : row32 w = (.sreset (fld w 20 3) (fld w 0 2), [(19, 18, 0, 4), (17, 2, 0, 1)]) := hr
  rw [f0, f1] at hr
  exact decode_of_row32 a b hr k hw
theorem shape52 {o B w : Nat} {x0 : BitVec 4} {x1 : BitVec 4} {x2 : BitVec 4} {x3 : BitVec 2} {x4 : BitVec 8} (e : B + x0.toNat * 0x80000 + x1.toNat * 0x8000 + x2.toNat * 0x800 + x3.toNat * 0x100 + x4.toNat * 0x1 = w) (hb : B = 2147483648 + o * 8388608) (ho : o < 256) :
    2147483648 ≤ w ∧ w < 4294967296 ∧ bits w 30 27 = o / 16 ∧ bits w 26 23 = o % 16 ∧ fld w 19 4 = x0 ∧ fld w 15 4 = x1 ∧ fld w 11 4 = x2 ∧ fld w 8 2 = x3 ∧ fld w 0 8 = x4 ∧ brokenBits w [(10, 10, 0, 1)] = none := by
  have := x0.isLt
  have := x1.isLt
  have := x2.isLt
  have := x3.isLt
  have := x4.isLt
  exact ⟨by omega, by omega, by simp only [bits]; omega, by simp only [bits]; omega, fld_eq x0 (by omega), fld_eq x1 (by omega), fld_eq x2 (by omega), fld_eq x3 (by omega), fld_eq x4 (by omega), broken_cons (by simp only [bits]; omega) (broken_nil w)⟩
theorem Encodes.amo : ∀ y_d y_a y_b y_z y_o, Statement (.amo y_d y_a y_b y_z y_o) := by
  intro y_d y_a y_b y_z y_o n w h hw
  obtain ⟨rfl, e⟩ := read_word (u := 0xE0000000 + y_d.toNat * 0x80000 + y_a.toNat * 0x8000 + y_b.toNat * 0x800 + y_z.toNat * 0x100 + y_o.toNat * 0x1) h
  obtain ⟨a, b, p, q, f0, f1, f2, f3, f4, k⟩ := shape52 (o := 192) e rfl (by decide)
  have hr : row32 w = rowC w 0 := row32_C p q
  replace hr : row32 w = (.amo (fld w 19 4) (fld w 15 4) (fld w 11 4) (fld w 8 2) (fld w 0 8), [(10, 10, 0, 1)]) := hr
  rw [f0, f1, f2, f3, f4] at hr
  exact decode_of_row32 a b hr k hw
theorem shape53 {o B w : Nat} {x0 : BitVec 4} {x1 : BitVec 4} {x2 : BitVec 4} {x3 : BitVec 2} (e : B + x0.toNat * 0x80000 + x1.toNat * 0x8000 + x2.toNat * 0x800 + x3.toNat * 0x100 = w) (hb : B = 2147483648 + o * 8388608) (ho : o < 256) :
    2147483648 ≤ w ∧ w < 4294967296 ∧ bits w 30 27 = o / 16 ∧ bits w 26 23 = o % 16 ∧ fld w 19 4 = x0 ∧ fld w 15 4 = x1 ∧ fld w 11 4 = x2 ∧ fld w 8 2 = x3 ∧ brokenBits w [(10, 10, 0, 1), (7, 0, 0, 1)] = none := by
  have := x0.isLt
  have := x1.isLt
  have := x2.isLt
  have := x3.isLt
  exact ⟨by omega, by omega, by simp only [bits]; omega, by simp only [bits]; omega, fld_eq x0 (by omega), fld_eq x1 (by omega), fld_eq x2 (by omega), fld_eq x3 (by omega), broken_cons (by simp only [bits]; omega) (broken_cons (by simp only [bits]; omega) (broken_nil w))⟩
theorem Encodes.amocas : ∀ y_d y_a y_b y_z, Statement (.amocas y_d y_a y_b y_z) := by
  intro y_d y_a y_b y_z n w h hw
  obtain ⟨rfl, e⟩ := read_word (u := 0xE0800000 + y_d.toNat * 0x80000 + y_a.toNat * 0x8000 + y_b.toNat * 0x800 + y_z.toNat * 0x100) h
  obtain ⟨a, b, p, q, f0, f1, f2, f3, k⟩ := shape53 (o := 193) e rfl (by decide)
  have hr : row32 w = rowC w 1 := row32_C p q
  replace hr : row32 w = (.amocas (fld w 19 4) (fld w 15 4) (fld w 11 4) (fld w 8 2), [(10, 10, 0, 1), (7, 0, 0, 1)]) := hr
  rw [f0, f1, f2, f3] at hr
  exact decode_of_row32 a b hr k hw
theorem Encodes.amol : ∀ y_d y_a y_b y_z y_o, Statement (.amol y_d y_a y_b y_z y_o) := by
  intro y_d y_a y_b y_z y_o n w h hw
  obtain ⟨rfl, e⟩ := read_word (u := 0xE1000000 + y_d.toNat * 0x80000 + y_a.toNat * 0x8000 + y_b.toNat * 0x800 + y_z.toNat * 0x100 + y_o.toNat * 0x1) h
  obtain ⟨a, b, p, q, f0, f1, f2, f3, f4, k⟩ := shape52 (o := 194) e rfl (by decide)
  have hr : row32 w = rowC w 2 := row32_C p q
  replace hr : row32 w = (.amol (fld w 19 4) (fld w 15 4) (fld w 11 4) (fld w 8 2) (fld w 0 8), [(10, 10, 0, 1)]) := hr
  rw [f0, f1, f2, f3, f4] at hr
  exact decode_of_row32 a b hr k hw
theorem Encodes.sop : ∀ y_d y_a y_b y_z y_o, Statement (.sop y_d y_a y_b y_z y_o) := by
  intro y_d y_a y_b y_z y_o n w h hw
  obtain ⟨rfl, e⟩ := read_word (u := 0xE1800000 + y_d.toNat * 0x80000 + y_a.toNat * 0x8000 + y_b.toNat * 0x800 + y_z.toNat * 0x100 + y_o.toNat * 0x1) h
  obtain ⟨a, b, p, q, f0, f1, f2, f3, f4, k⟩ := shape52 (o := 195) e rfl (by decide)
  have hr : row32 w = rowC w 3 := row32_C p q
  replace hr : row32 w = (.sop (fld w 19 4) (fld w 15 4) (fld w 11 4) (fld w 8 2) (fld w 0 8), [(10, 10, 0, 1)]) := hr
  rw [f0, f1, f2, f3, f4] at hr
  exact decode_of_row32 a b hr k hw
theorem Encodes.sopCh : ∀ y_a, Statement (.sopCh y_a) := by
  intro y_a n w h hw
  obtain ⟨rfl, e⟩ := read_word (u := 0xE2000000 + y_a.toNat * 0x8000) h
  obtain ⟨a, b, p, q, f0, k⟩ := shape15 (o := 196) e rfl (by decide)
  have hr : row32 w = rowC w 4 := row32_C p q
  replace hr : row32 w = (.sopCh (fld w 15 4), [(22, 19, 0, 1), (14, 0, 0, 1)]) := hr
  rw [f0] at hr
  exact decode_of_row32 a b hr k hw
theorem Encodes.fput : ∀ y_a y_b, Statement (.fput y_a y_b) := by
  intro y_a y_b n w h hw
  obtain ⟨rfl, e⟩ := read_word (u := 0xE2800000 + y_a.toNat * 0x8000 + y_b.toNat * 0x800) h
  obtain ⟨a, b, p, q, f0, f1, k⟩ := shape16 (o := 197) e rfl (by decide)
  have hr : row32 w = rowC w 5 := row32_C p q
  replace hr : row32 w = (.fput (fld w 15 4) (fld w 11 4), [(22, 19, 0, 1), (10, 0, 0, 1)]) := hr
  rw [f0, f1] at hr
  exact decode_of_row32 a b hr k hw
theorem Encodes.fputnb : ∀ y_d y_a y_b, Statement (.fputnb y_d y_a y_b) := by
  intro y_d y_a y_b n w h hw
  obtain ⟨rfl, e⟩ := read_word (u := 0xE3000000 + y_d.toNat * 0x80000 + y_a.toNat * 0x8000 + y_b.toNat * 0x800) h
  obtain ⟨a, b, p, q, f0, f1, f2, k⟩ := shape1 (o := 198) e rfl (by decide)
  have hr : row32 w = rowC w 6 := row32_C p q
  replace hr : row32 w = (.fputnb (fld w 19 4) (fld w 15 4) (fld w 11 4), [(10, 0, 0, 1)]) := hr
  rw [f0, f1, f2] at hr
  exact decode_of_row32 a b hr k hw
theorem Encodes.ftake : ∀ y_d y_a, Statement (.ftake y_d y_a) := by
  intro y_d y_a n w h hw
  obtain ⟨rfl, e⟩ := read_word (u := 0xE3800000 + y_d.toNat * 0x80000 + y_a.toNat * 0x8000) h
  obtain ⟨a, b, p, q, f0, f1, k⟩ := shape2 (o := 199) e rfl (by decide)
  have hr : row32 w = rowC w 7 := row32_C p q
  replace hr : row32 w = (.ftake (fld w 19 4) (fld w 15 4), [(14, 0, 0, 1)]) := hr
  rw [f0, f1] at hr
  exact decode_of_row32 a b hr k hw
theorem Encodes.ftakenb : ∀ y_d y_a y_b, Statement (.ftakenb y_d y_a y_b) := by
  intro y_d y_a y_b n w h hw
  obtain ⟨rfl, e⟩ := read_word (u := 0xE4000000 + y_d.toNat * 0x80000 + y_a.toNat * 0x8000 + y_b.toNat * 0x800) h
  obtain ⟨a, b, p, q, f0, f1, f2, k⟩ := shape1 (o := 200) e rfl (by decide)
  have hr : row32 w = rowC w 8 := row32_C p q
  replace hr : row32 w = (.ftakenb (fld w 19 4) (fld w 15 4) (fld w 11 4), [(10, 0, 0, 1)]) := hr
  rw [f0, f1, f2] at hr
  exact decode_of_row32 a b hr k hw
theorem Encodes.fpeek : ∀ y_d y_a y_b, Statement (.fpeek y_d y_a y_b) := by
  intro y_d y_a y_b n w h hw
  obtain ⟨rfl, e⟩ := read_word (u := 0xE4800000 + y_d.toNat * 0x80000 + y_a.toNat * 0x8000 + y_b.toNat * 0x800) h
  obtain ⟨a, b, p, q, f0, f1, f2, k⟩ := shape1 (o := 201) e rfl (by decide)
  have hr : row32 w = rowC w 9 := row32_C p q
  replace hr : row32 w = (.fpeek (fld w 19 4) (fld w 15 4) (fld w 11 4), [(10, 0, 0, 1)]) := hr
  rw [f0, f1, f2] at hr
  exact decode_of_row32 a b hr k hw
theorem shape54 {o B w : Nat} {x0 : BitVec 4} {x1 : BitVec 4} {x2 : BitVec 4} {x3 : BitVec 1} (e : B + x0.toNat * 0x80000 + x1.toNat * 0x8000 + x2.toNat * 0x800 + x3.toNat * 0x1 = w) (hb : B = 2147483648 + o * 8388608) (ho : o < 256) :
    2147483648 ≤ w ∧ w < 4294967296 ∧ bits w 30 27 = o / 16 ∧ bits w 26 23 = o % 16 ∧ fld w 19 4 = x0 ∧ fld w 15 4 = x1 ∧ fld w 11 4 = x2 ∧ fld w 0 1 = x3 ∧ brokenBits w [(10, 1, 0, 1)] = none := by
  have := x0.isLt
  have := x1.isLt
  have := x2.isLt
  have := x3.isLt
  exact ⟨by omega, by omega, by simp only [bits]; omega, by simp only [bits]; omega, fld_eq x0 (by omega), fld_eq x1 (by omega), fld_eq x2 (by omega), fld_eq x3 (by omega), broken_cons (by simp only [bits]; omega) (broken_nil w)⟩
theorem Encodes.dcset : ∀ y_d y_a y_b y_o, Statement (.dcset y_d y_a y_b y_o) := by
  intro y_d y_a y_b y_o n w h hw
  obtain ⟨rfl, e⟩ := read_word (u := 0xE5000000 + y_d.toNat * 0x80000 + y_a.toNat * 0x8000 + y_b.toNat * 0x800 + y_o.toNat * 0x1) h
  obtain ⟨a, b, p, q, f0, f1, f2, f3, k⟩ := shape54 (o := 202) e rfl (by decide)
  have hr : row32 w = rowC w 10 := row32_C p q
  replace hr : row32 w = (.dcset (fld w 19 4) (fld w 15 4) (fld w 11 4) (fld w 0 1), [(10, 1, 0, 1)]) := hr
  rw [f0, f1, f2, f3] at hr
  exact decode_of_row32 a b hr k hw
theorem Encodes.dcadd : ∀ y_d y_a y_b y_o, Statement (.dcadd y_d y_a y_b y_o) := by
  intro y_d y_a y_b y_o n w h hw
  obtain ⟨rfl, e⟩ := read_word (u := 0xE5800000 + y_d.toNat * 0x80000 + y_a.toNat * 0x8000 + y_b.toNat * 0x800 + y_o.toNat * 0x1) h
  obtain ⟨a, b, p, q, f0, f1, f2, f3, k⟩ := shape54 (o := 203) e rfl (by decide)
  have hr : row32 w = rowC w 11 := row32_C p q
  replace hr : row32 w = (.dcadd (fld w 19 4) (fld w 15 4) (fld w 11 4) (fld w 0 1), [(10, 1, 0, 1)]) := hr
  rw [f0, f1, f2, f3] at hr
  exact decode_of_row32 a b hr k hw
theorem Encodes.dcdec : ∀ y_d y_a y_b y_o, Statement (.dcdec y_d y_a y_b y_o) := by
  intro y_d y_a y_b y_o n w h hw
  obtain ⟨rfl, e⟩ := read_word (u := 0xE6000000 + y_d.toNat * 0x80000 + y_a.toNat * 0x8000 + y_b.toNat * 0x800 + y_o.toNat * 0x1) h
  obtain ⟨a, b, p, q, f0, f1, f2, f3, k⟩ := shape54 (o := 204) e rfl (by decide)
  have hr : row32 w = rowC w 12 := row32_C p q
  replace hr : row32 w = (.dcdec (fld w 19 4) (fld w 15 4) (fld w 11 4) (fld w 0 1), [(10, 1, 0, 1)]) := hr
  rw [f0, f1, f2, f3] at hr
  exact decode_of_row32 a b hr k hw
theorem shape55 {o B w : Nat} {x0 : BitVec 4} {x1 : BitVec 4} {x2 : BitVec 2} {x3 : BitVec 8} (e : B + x0.toNat * 0x8000 + x1.toNat * 0x800 + x2.toNat * 0x100 + x3.toNat * 0x1 = w) (hb : B = 2147483648 + o * 8388608) (ho : o < 256) :
    2147483648 ≤ w ∧ w < 4294967296 ∧ bits w 30 27 = o / 16 ∧ bits w 26 23 = o % 16 ∧ fld w 15 4 = x0 ∧ fld w 11 4 = x1 ∧ fld w 8 2 = x2 ∧ fld w 0 8 = x3 ∧ brokenBits w [(22, 19, 0, 1), (10, 10, 0, 1)] = none := by
  have := x0.isLt
  have := x1.isLt
  have := x2.isLt
  have := x3.isLt
  exact ⟨by omega, by omega, by simp only [bits]; omega, by simp only [bits]; omega, fld_eq x0 (by omega), fld_eq x1 (by omega), fld_eq x2 (by omega), fld_eq x3 (by omega), broken_cons (by simp only [bits]; omega) (broken_cons (by simp only [bits]; omega) (broken_nil w))⟩
theorem Encodes.sopw : ∀ y_a y_b y_z y_o, Statement (.sopw y_a y_b y_z y_o) := by
  intro y_a y_b y_z y_o n w h hw
  obtain ⟨rfl, e⟩ := read_word (u := 0xE6800000 + y_a.toNat * 0x8000 + y_b.toNat * 0x800 + y_z.toNat * 0x100 + y_o.toNat * 0x1) h
  obtain ⟨a, b, p, q, f0, f1, f2, f3, k⟩ := shape55 (o := 205) e rfl (by decide)
  have hr : row32 w = rowC w 13 := row32_C p q
  replace hr : row32 w = (.sopw (fld w 15 4) (fld w 11 4) (fld w 8 2) (fld w 0 8), [(22, 19, 0, 1), (10, 10, 0, 1)]) := hr
  rw [f0, f1, f2, f3] at hr
  exact decode_of_row32 a b hr k hw
theorem Encodes.amonr : ∀ y_a y_b y_z y_o, Statement (.amonr y_a y_b y_z y_o) := by
  intro y_a y_b y_z y_o n w h hw
  obtain ⟨rfl, e⟩ := read_word (u := 0xE7000000 + y_a.toNat * 0x8000 + y_b.toNat * 0x800 + y_z.toNat * 0x100 + y_o.toNat * 0x1) h
  obtain ⟨a, b, p, q, f0, f1, f2, f3, k⟩ := shape55 (o := 206) e rfl (by decide)
  have hr : row32 w = rowC w 14 := row32_C p q
  replace hr : row32 w = (.amonr (fld w 15 4) (fld w 11 4) (fld w 8 2) (fld w 0 8), [(22, 19, 0, 1), (10, 10, 0, 1)]) := hr
  rw [f0, f1, f2, f3] at hr
  exact decode_of_row32 a b hr k hw
theorem Encodes.sopq : ∀ y_d y_a y_b y_z y_o, Statement (.sopq y_d y_a y_b y_z y_o) := by
  intro y_d y_a y_b y_z y_o n w h hw
  obtain ⟨rfl, e⟩ := read_word (u := 0xE7800000 + y_d.toNat * 0x80000 + y_a.toNat * 0x8000 + y_b.toNat * 0x800 + y_z.toNat * 0x100 + y_o.toNat * 0x1) h
  obtain ⟨a, b, p, q, f0, f1, f2, f3, f4, k⟩ := shape52 (o := 207) e rfl (by decide)
  have hr : row32 w = rowC w 15 := row32_C p q
  replace hr : row32 w = (.sopq (fld w 19 4) (fld w 15 4) (fld w 11 4) (fld w 8 2) (fld w 0 8), [(10, 10, 0, 1)]) := hr
  rw [f0, f1, f2, f3, f4] at hr
  exact decode_of_row32 a b hr k hw
theorem shape56 {o B w : Nat} {x0 : BitVec 4} {x1 : BitVec 4} {x2 : BitVec 3} {x3 : BitVec 3} {x4 : BitVec 1} {x5 : BitVec 3} {x6 : BitVec 2} {x7 : BitVec 2} (e : B + x0.toNat * 0x80000 + x1.toNat * 0x8000 + x2.toNat * 0x1000 + x3.toNat * 0x200 + x4.toNat * 0x80 + x5.toNat * 0x10 + x6.toNat * 0x4 + x7.toNat * 0x1 = w) (hb : B = 2147483648 + o * 8388608) (ho : o < 256) :
    2147483648 ≤ w ∧ w < 4294967296 ∧ bits w 30 27 = o / 16 ∧ bits w 26 23 = o % 16 ∧ fld w 19 4 = x0 ∧ fld w 15 4 = x1 ∧ fld w 12 3 = x2 ∧ fld w 9 3 = x3 ∧ fld w 7 1 = x4 ∧ fld w 4 3 = x5 ∧ fld w 2 2 = x6 ∧ fld w 0 2 = x7 ∧ brokenBits w [(8, 8, 0, 1)] = none := by
  have := x0.isLt
  have := x1.isLt
  have := x2.isLt
  have := x3.isLt
  have := x4.isLt
  have := x5.isLt
  have := x6.isLt
  have := x7.isLt
  exact ⟨by omega, by omega, by simp only [bits]; omega, by simp only [bits]; omega, fld_eq x0 (by omega), fld_eq x1 (by omega), fld_eq x2 (by omega), fld_eq x3 (by omega), fld_eq x4 (by omega), fld_eq x5 (by omega), fld_eq x6 (by omega), fld_eq x7 (by omega), broken_cons (by simp only [bits]; omega) (broken_nil w)⟩
theorem Encodes.ccopy : ∀ y_a y_b y_s y_t y_w y_j y_k y_q, Statement (.ccopy y_a y_b y_s y_t y_w y_j y_k y_q) := by
  intro y_a y_b y_s y_t y_w y_j y_k y_q n w h hw
  obtain ⟨rfl, e⟩ := read_word (u := 0xE8000000 + y_a.toNat * 0x80000 + y_b.toNat * 0x8000 + y_s.toNat * 0x1000 + y_t.toNat * 0x200 + y_w.toNat * 0x80 + y_j.toNat * 0x10 + y_k.toNat * 0x4 + y_q.toNat * 0x1) h
  obtain ⟨a, b, p, q, f0, f1, f2, f3, f4, f5, f6, f7, k⟩ := shape56 (o := 208) e rfl (by decide)
  have hr : row32 w = rowD w 0 := row32_D p q
  replace hr : row32 w = (.ccopy (fld w 19 4) (fld w 15 4) (fld w 12 3) (fld w 9 3) (fld w 7 1) (fld w 4 3) (fld w 2 2) (fld w 0 2), [(8, 8, 0, 1)]) := hr
  rw [f0, f1, f2, f3, f4, f5, f6, f7] at hr
  exact decode_of_row32 a b hr k hw
theorem shape57 {o B w : Nat} {x0 : BitVec 2} {x1 : BitVec 5} (e : B + x0.toNat * 0x1000 + x1.toNat * 0x1 = w) (hb : B = 2147483648 + o * 8388608) (ho : o < 256) :
    2147483648 ≤ w ∧ w < 4294967296 ∧ bits w 30 27 = o / 16 ∧ bits w 26 23 = o % 16 ∧ fld w 12 2 = x0 ∧ fld w 0 5 = x1 ∧ brokenBits w [(22, 15, 0, 1), (14, 14, 0, 4), (11, 5, 0, 1)] = none := by
  have := x0.isLt
  have := x1.isLt
  exact ⟨by omega, by omega, by simp only [bits]; omega, by simp only [bits]; omega, fld_eq x0 (by omega), fld_eq x1 (by omega), broken_cons (by simp only [bits]; omega) (broken_cons (by simp only [bits]; omega) (broken_cons (by simp only [bits]; omega) (broken_nil w)))⟩
theorem Encodes.cfence : ∀ y_q y_m, Statement (.cfence y_q y_m) := by
  intro y_q y_m n w h hw
  obtain ⟨rfl, e⟩ := read_word (u := 0xE8800000 + y_q.toNat * 0x1000 + y_m.toNat * 0x1) h
  obtain ⟨a, b, p, q, f0, f1, k⟩ := shape57 (o := 209) e rfl (by decide)
  have hr : row32 w = rowD w 1 := row32_D p q
  replace hr : row32 w = (.cfence (fld w 12 2) (fld w 0 5), [(22, 15, 0, 1), (14, 14, 0, 4), (11, 5, 0, 1)]) := hr
  rw [f0, f1] at hr
  exact decode_of_row32 a b hr k hw
theorem Encodes.mcmd : ∀ y_a, Statement (.mcmd y_a) := by
  intro y_a n w h hw
  obtain ⟨rfl, e⟩ := read_word (u := 0xE9000000 + y_a.toNat * 0x80000) h
  obtain ⟨a, b, p, q, f0, k⟩ := shape30 (o := 210) e rfl (by decide)
  have hr : row32 w = rowD w 2 := row32_D p q
  replace hr : row32 w = (.mcmd (fld w 19 4), [(18, 0, 0, 1)]) := hr
  rw [f0] at hr
  exact decode_of_row32 a b hr k hw
theorem Encodes.mgang : ∀ y_a, Statement (.mgang y_a) := by
  intro y_a n w h hw
  obtain ⟨rfl, e⟩ := read_word (u := 0xE9800000 + y_a.toNat * 0x80000) h
  obtain ⟨a, b, p, q, f0, k⟩ := shape30 (o := 211) e rfl (by decide)
  have hr : row32 w = rowD w 3 := row32_D p q
  replace hr : row32 w = (.mgang (fld w 19 4), [(18, 0, 0, 1)]) := hr
  rw [f0] at hr
  exact decode_of_row32 a b hr k hw
theorem shape58 {o B w : Nat} (e : B = w) (hb : B = 2147483648 + o * 8388608) (ho : o < 256) :
    2147483648 ≤ w ∧ w < 4294967296 ∧ bits w 30 27 = o / 16 ∧ bits w 26 23 = o % 16 ∧ ¬ bits w 0 0 = 1 ∧ brokenBits w [(22, 1, 0, 1)] = none := by
  exact ⟨by omega, by omega, by simp only [bits]; omega, by simp only [bits]; omega, by simp only [bits]; omega, broken_cons (by simp only [bits]; omega) (broken_nil w)⟩
theorem Encodes.mresume : Statement (.mresume) := by
  intro n w h hw
  obtain ⟨rfl, e⟩ := read_word (u := 0xEA000000) h
  obtain ⟨a, b, p, q, c0, k⟩ := shape58 (o := 212) e rfl (by decide)
  have hr : row32 w = rowD w 4 := row32_D p q
  simp only [rowD] at hr
  rw [if_neg c0] at hr
  exact decode_of_row32 a b hr k hw
theorem shape59 {o B w : Nat} (e : B = w) (hb : B = 2147483649 + o * 8388608) (ho : o < 256) :
    2147483648 ≤ w ∧ w < 4294967296 ∧ bits w 30 27 = o / 16 ∧ bits w 26 23 = o % 16 ∧ bits w 0 0 = 1 ∧ brokenBits w [(22, 1, 0, 1)] = none := by
  exact ⟨by omega, by omega, by simp only [bits]; omega, by simp only [bits]; omega, by simp only [bits]; omega, broken_cons (by simp only [bits]; omega) (broken_nil w)⟩
theorem Encodes.mresumeAbort : Statement (.mresumeAbort) := by
  intro n w h hw
  obtain ⟨rfl, e⟩ := read_word (u := 0xEA000001) h
  obtain ⟨a, b, p, q, c0, k⟩ := shape59 (o := 212) e rfl (by decide)
  have hr : row32 w = rowD w 4 := row32_D p q
  simp only [rowD] at hr
  rw [if_pos c0] at hr
  exact decode_of_row32 a b hr k hw
theorem shape60 {o B w : Nat} {x0 : BitVec 4} (e : B + x0.toNat * 0x1 = w) (hb : B = 2147483648 + o * 8388608) (ho : o < 256) :
    2147483648 ≤ w ∧ w < 4294967296 ∧ bits w 30 27 = o / 16 ∧ bits w 26 23 = o % 16 ∧ fld w 0 4 = x0 ∧ brokenBits w [(22, 4, 0, 1)] = none := by
  have := x0.isLt
  exact ⟨by omega, by omega, by simp only [bits]; omega, by simp only [bits]; omega, fld_eq x0 (by omega), broken_cons (by simp only [bits]; omega) (broken_nil w)⟩
theorem Encodes.mfence : ∀ y_m, Statement (.mfence y_m) := by
  intro y_m n w h hw
  obtain ⟨rfl, e⟩ := read_word (u := 0xEA800000 + y_m.toNat * 0x1) h
  obtain ⟨a, b, p, q, f0, k⟩ := shape60 (o := 213) e rfl (by decide)
  have hr : row32 w = rowD w 5 := row32_D p q
  replace hr : row32 w = (.mfence (fld w 0 4), [(22, 4, 0, 1)]) := hr
  rw [f0] at hr
  exact decode_of_row32 a b hr k hw
theorem shape61 {o B w : Nat} {x0 : BitVec 4} {x1 : BitVec 4} {x2 : BitVec 3} {x3 : BitVec 3} {x4 : BitVec 3} (e : B + x0.toNat * 0x80000 + x1.toNat * 0x8000 + x2.toNat * 0x1000 + x3.toNat * 0x200 + x4.toNat * 0x1 = w) (hb : B = 2147483648 + o * 8388608) (ho : o < 256) :
    2147483648 ≤ w ∧ w < 4294967296 ∧ bits w 30 27 = o / 16 ∧ bits w 26 23 = o % 16 ∧ fld w 19 4 = x0 ∧ fld w 15 4 = x1 ∧ fld w 12 3 = x2 ∧ fld w 9 3 = x3 ∧ fld w 0 3 = x4 ∧ brokenBits w [(8, 3, 0, 1)] = none := by
  have := x0.isLt
  have := x1.isLt
  have := x2.isLt
  have := x3.isLt
  have := x4.isLt
  exact ⟨by omega, by omega, by simp only [bits]; omega, by simp only [bits]; omega, fld_eq x0 (by omega), fld_eq x1 (by omega), fld_eq x2 (by omega), fld_eq x3 (by omega), fld_eq x4 (by omega), broken_cons (by simp only [bits]; omega) (broken_nil w)⟩
theorem Encodes.mdrain : ∀ y_a y_b y_o y_t y_c, Statement (.mdrain y_a y_b y_o y_t y_c) := by
  intro y_a y_b y_o y_t y_c n w h hw
  obtain ⟨rfl, e⟩ := read_word (u := 0xEB000000 + y_a.toNat * 0x80000 + y_b.toNat * 0x8000 + y_o.toNat * 0x1000 + y_t.toNat * 0x200 + y_c.toNat * 0x1) h
  obtain ⟨a, b, p, q, f0, f1, f2, f3, f4, k⟩ := shape61 (o := 214) e rfl (by decide)
  have hr : row32 w = rowD w 6 := row32_D p q
  replace hr : row32 w = (.mdrain (fld w 19 4) (fld w 15 4) (fld w 12 3) (fld w 9 3) (fld w 0 3), [(8, 3, 0, 1)]) := hr
  rw [f0, f1, f2, f3, f4] at hr
  exact decode_of_row32 a b hr k hw
theorem shape62 {o B w : Nat} {x0 : BitVec 4} (e : B + x0.toNat * 0x80000 = w) (hb : B = 2147483648 + o * 8388608) (ho : o < 256) :
    2147483648 ≤ w ∧ w < 4294967296 ∧ bits w 30 27 = o / 16 ∧ bits w 26 23 = o % 16 ∧ ¬ bits w 0 0 = 1 ∧ fld w 19 4 = x0 ∧ brokenBits w [(18, 1, 0, 1)] = none := by
  have := x0.isLt
  exact ⟨by omega, by omega, by simp only [bits]; omega, by simp only [bits]; omega, by simp only [bits]; omega, fld_eq x0 (by omega), broken_cons (by simp only [bits]; omega) (broken_nil w)⟩
theorem Encodes.mstat : ∀ y_a, Statement (.mstat y_a) := by
  intro y_a n w h hw
  obtain ⟨rfl, e⟩ := read_word (u := 0xEB800000 + y_a.toNat * 0x80000) h
  obtain ⟨a, b, p, q, c0, f0, k⟩ := shape62 (o := 215) e rfl (by decide)
  have hr : row32 w = rowD w 7 := row32_D p q
  simp only [rowD] at hr
  rw [if_neg c0, f0] at hr
  exact decode_of_row32 a b hr k hw
theorem shape63 {o B w : Nat} {x0 : BitVec 4} (e : B + x0.toNat * 0x80000 = w) (hb : B = 2147483649 + o * 8388608) (ho : o < 256) :
    2147483648 ≤ w ∧ w < 4294967296 ∧ bits w 30 27 = o / 16 ∧ bits w 26 23 = o % 16 ∧ bits w 0 0 = 1 ∧ fld w 19 4 = x0 ∧ brokenBits w [(18, 1, 0, 1)] = none := by
  have := x0.isLt
  exact ⟨by omega, by omega, by simp only [bits]; omega, by simp only [bits]; omega, by simp only [bits]; omega, fld_eq x0 (by omega), broken_cons (by simp only [bits]; omega) (broken_nil w)⟩
theorem Encodes.mstatCtx : ∀ y_a, Statement (.mstatCtx y_a) := by
  intro y_a n w h hw
  obtain ⟨rfl, e⟩ := read_word (u := 0xEB800001 + y_a.toNat * 0x80000) h
  obtain ⟨a, b, p, q, c0, f0, k⟩ := shape63 (o := 215) e rfl (by decide)
  have hr : row32 w = rowD w 7 := row32_D p q
  simp only [rowD] at hr
  rw [if_pos c0, f0] at hr
  exact decode_of_row32 a b hr k hw
theorem shape64 {o B w : Nat} {x0 : BitVec 4} {x1 : BitVec 2} (e : B + x0.toNat * 0x80000 + x1.toNat * 0x1000 = w) (hb : B = 2147483648 + o * 8388608) (ho : o < 256) :
    2147483648 ≤ w ∧ w < 4294967296 ∧ bits w 30 27 = o / 16 ∧ bits w 26 23 = o % 16 ∧ ¬ bits w 0 0 = 1 ∧ fld w 19 4 = x0 ∧ fld w 12 2 = x1 ∧ brokenBits w [(18, 15, 0, 1), (14, 14, 0, 4), (11, 1, 0, 1)] = none := by
  have := x0.isLt
  have := x1.isLt
  exact ⟨by omega, by omega, by simp only [bits]; omega, by simp only [bits]; omega, by simp only [bits]; omega, fld_eq x0 (by omega), fld_eq x1 (by omega), broken_cons (by simp only [bits]; omega) (broken_cons (by simp only [bits]; omega) (broken_cons (by simp only [bits]; omega) (broken_nil w)))⟩
theorem Encodes.cstat : ∀ y_a y_q, Statement (.cstat y_a y_q) := by
  intro y_a y_q n w h hw
  obtain ⟨rfl, e⟩ := read_word (u := 0xEC000000 + y_a.toNat * 0x80000 + y_q.toNat * 0x1000) h
  obtain ⟨a, b, p, q, c0, f0, f1, k⟩ := shape64 (o := 216) e rfl (by decide)
  have hr : row32 w = rowD w 8 := row32_D p q
  simp only [rowD] at hr
  rw [if_neg c0, f0, f1] at hr
  exact decode_of_row32 a b hr k hw
theorem shape65 {o B w : Nat} {x0 : BitVec 4} {x1 : BitVec 2} (e : B + x0.toNat * 0x80000 + x1.toNat * 0x1000 = w) (hb : B = 2147483649 + o * 8388608) (ho : o < 256) :
    2147483648 ≤ w ∧ w < 4294967296 ∧ bits w 30 27 = o / 16 ∧ bits w 26 23 = o % 16 ∧ bits w 0 0 = 1 ∧ fld w 19 4 = x0 ∧ fld w 12 2 = x1 ∧ brokenBits w [(18, 15, 0, 1), (14, 14, 0, 4), (11, 1, 0, 1)] = none := by
  have := x0.isLt
  have := x1.isLt
  exact ⟨by omega, by omega, by simp only [bits]; omega, by simp only [bits]; omega, by simp only [bits]; omega, fld_eq x0 (by omega), fld_eq x1 (by omega), broken_cons (by simp only [bits]; omega) (broken_cons (by simp only [bits]; omega) (broken_cons (by simp only [bits]; omega) (broken_nil w)))⟩
theorem Encodes.cstatDrop : ∀ y_a y_q, Statement (.cstatDrop y_a y_q) := by
  intro y_a y_q n w h hw
  obtain ⟨rfl, e⟩ := read_word (u := 0xEC000001 + y_a.toNat * 0x80000 + y_q.toNat * 0x1000) h
  obtain ⟨a, b, p, q, c0, f0, f1, k⟩ := shape65 (o := 216) e rfl (by decide)
  have hr : row32 w = rowD w 8 := row32_D p q
  simp only [rowD] at hr
  rw [if_pos c0, f0, f1] at hr
  exact decode_of_row32 a b hr k hw
theorem shape66 {o B w : Nat} {x0 : BitVec 4} {x1 : BitVec 4} {x2 : BitVec 3} (e : B + x0.toNat * 0x80000 + x1.toNat * 0x8000 + x2.toNat * 0x1000 = w) (hb : B = 2147483648 + o * 8388608) (ho : o < 256) :
    2147483648 ≤ w ∧ w < 4294967296 ∧ bits w 30 27 = o / 16 ∧ bits w 26 23 = o % 16 ∧ fld w 19 4 = x0 ∧ fld w 15 4 = x1 ∧ fld w 12 3 = x2 ∧ brokenBits w [(11, 0, 0, 1)] = none := by
  have := x0.isLt
  have := x1.isLt
  have := x2.isLt
  exact ⟨by omega, by omega, by simp only [bits]; omega, by simp only [bits]; omega, fld_eq x0 (by omega), fld_eq x1 (by omega), fld_eq x2 (by omega), broken_cons (by simp only [bits]; omega) (broken_nil w)⟩
theorem Encodes.tmset : ∀ y_a y_b y_n, Statement (.tmset y_a y_b y_n) := by
  intro y_a y_b y_n n w h hw
  obtain ⟨rfl, e⟩ := read_word (u := 0xEC800000 + y_a.toNat * 0x80000 + y_b.toNat * 0x8000 + y_n.toNat * 0x1000) h
  obtain ⟨a, b, p, q, f0, f1, f2, k⟩ := shape66 (o := 217) e rfl (by decide)
  have hr : row32 w = rowD w 9 := row32_D p q
  replace hr : row32 w = (.tmset (fld w 19 4) (fld w 15 4) (fld w 12 3), [(11, 0, 0, 1)]) := hr
  rw [f0, f1, f2] at hr
  exact decode_of_row32 a b hr k hw
theorem shape67 {o B w : Nat} {x0 : BitVec 4} {x1 : BitVec 3} (e : B + x0.toNat * 0x80000 + x1.toNat * 0x1000 = w) (hb : B = 2147483648 + o * 8388608) (ho : o < 256) :
    2147483648 ≤ w ∧ w < 4294967296 ∧ bits w 30 27 = o / 16 ∧ bits w 26 23 = o % 16 ∧ fld w 19 4 = x0 ∧ fld w 12 3 = x1 ∧ brokenBits w [(18, 15, 0, 1), (11, 0, 0, 1)] = none := by
  have := x0.isLt
  have := x1.isLt
  exact ⟨by omega, by omega, by simp only [bits]; omega, by simp only [bits]; omega, fld_eq x0 (by omega), fld_eq x1 (by omega), broken_cons (by simp only [bits]; omega) (broken_cons (by simp only [bits]; omega) (broken_nil w))⟩
theorem Encodes.tmget : ∀ y_a y_n, Statement (.tmget y_a y_n) := by
  intro y_a y_n n w h hw
  obtain ⟨rfl, e⟩ := read_word (u := 0xED000000 + y_a.toNat * 0x80000 + y_n.toNat * 0x1000) h
  obtain ⟨a, b, p, q, f0, f1, k⟩ := shape67 (o := 218) e rfl (by decide)
  have hr : row32 w = rowD w 10 := row32_D p q
  replace hr : row32 w = (.tmget (fld w 19 4) (fld w 12 3), [(18, 15, 0, 1), (11, 0, 0, 1)]) := hr
  rw [f0, f1] at hr
  exact decode_of_row32 a b hr k hw
theorem Encodes.rgset : ∀ y_a y_b y_n, Statement (.rgset y_a y_b y_n) := by
  intro y_a y_b y_n n w h hw
  obtain ⟨rfl, e⟩ := read_word (u := 0xED800000 + y_a.toNat * 0x80000 + y_b.toNat * 0x8000 + y_n.toNat * 0x1000) h
  obtain ⟨a, b, p, q, f0, f1, f2, k⟩ := shape66 (o := 219) e rfl (by decide)
  have hr : row32 w = rowD w 11 := row32_D p q
  replace hr : row32 w = (.rgset (fld w 19 4) (fld w 15 4) (fld w 12 3), [(11, 0, 0, 1)]) := hr
  rw [f0, f1, f2] at hr
  exact decode_of_row32 a b hr k hw
theorem Encodes.rgget : ∀ y_a y_n, Statement (.rgget y_a y_n) := by
  intro y_a y_n n w h hw
  obtain ⟨rfl, e⟩ := read_word (u := 0xEE000000 + y_a.toNat * 0x80000 + y_n.toNat * 0x1000) h
  obtain ⟨a, b, p, q, f0, f1, k⟩ := shape67 (o := 220) e rfl (by decide)
  have hr : row32 w = rowD w 12 := row32_D p q
  replace hr : row32 w = (.rgget (fld w 19 4) (fld w 12 3), [(18, 15, 0, 1), (11, 0, 0, 1)]) := hr
  rw [f0, f1] at hr
  exact decode_of_row32 a b hr k hw
theorem Encodes.rgpush : ∀ y_a y_b y_n, Statement (.rgpush y_a y_b y_n) := by
  intro y_a y_b y_n n w h hw
  obtain ⟨rfl, e⟩ := read_word (u := 0xEE800000 + y_a.toNat * 0x80000 + y_b.toNat * 0x8000 + y_n.toNat * 0x1000) h
  obtain ⟨a, b, p, q, f0, f1, f2, k⟩ := shape66 (o := 221) e rfl (by decide)
  have hr : row32 w = rowD w 13 := row32_D p q
  replace hr : row32 w = (.rgpush (fld w 19 4) (fld w 15 4) (fld w 12 3), [(11, 0, 0, 1)]) := hr
  rw [f0, f1, f2] at hr
  exact decode_of_row32 a b hr k hw
theorem Encodes.rgpop : ∀ y_a y_b y_n, Statement (.rgpop y_a y_b y_n) := by
  intro y_a y_b y_n n w h hw
  obtain ⟨rfl, e⟩ := read_word (u := 0xEF000000 + y_a.toNat * 0x80000 + y_b.toNat * 0x8000 + y_n.toNat * 0x1000) h
  obtain ⟨a, b, p, q, f0, f1, f2, k⟩ := shape66 (o := 222) e rfl (by decide)
  have hr : row32 w = rowD w 14 := row32_D p q
  replace hr : row32 w = (.rgpop (fld w 19 4) (fld w 15 4) (fld w 12 3), [(11, 0, 0, 1)]) := hr
  rw [f0, f1, f2] at hr
  exact decode_of_row32 a b hr k hw
theorem shape68 {o B w : Nat} {x0 : BitVec 5} (e : B + x0.toNat * 0x1 = w) (hb : B = 2147483648 + o * 8388608) (ho : o < 256) :
    2147483648 ≤ w ∧ w < 4294967296 ∧ bits w 30 27 = o / 16 ∧ bits w 26 23 = o % 16 ∧ fld w 0 5 = x0 ∧ brokenBits w [(22, 5, 0, 1)] = none := by
  have := x0.isLt
  exact ⟨by omega, by omega, by simp only [bits]; omega, by simp only [bits]; omega, fld_eq x0 (by omega), broken_cons (by simp only [bits]; omega) (broken_nil w)⟩
theorem Encodes.cwait : ∀ y_m, Statement (.cwait y_m) := by
  intro y_m n w h hw
  obtain ⟨rfl, e⟩ := read_word (u := 0xEF800000 + y_m.toNat * 0x1) h
  obtain ⟨a, b, p, q, f0, k⟩ := shape68 (o := 223) e rfl (by decide)
  have hr : row32 w = rowD w 15 := row32_D p q
  replace hr : row32 w = (.cwait (fld w 0 5), [(22, 5, 0, 1)]) := hr
  rw [f0] at hr
  exact decode_of_row32 a b hr k hw
theorem shape69 {o B w : Nat} {x0 : BitVec 4} {x1 : BitVec 4} {x2 : BitVec 3} {x3 : BitVec 3} (e : B + x0.toNat * 0x80000 + x1.toNat * 0x8000 + x2.toNat * 0x1000 + x3.toNat * 0x1 = w) (hb : B = 2147483648 + o * 8388608) (ho : o < 256) :
    2147483648 ≤ w ∧ w < 4294967296 ∧ bits w 30 27 = o / 16 ∧ bits w 26 23 = o % 16 ∧ fld w 19 4 = x0 ∧ fld w 15 4 = x1 ∧ fld w 12 3 = x2 ∧ fld w 0 3 = x3 ∧ brokenBits w [(11, 3, 0, 1)] = none := by
  have := x0.isLt
  have := x1.isLt
  have := x2.isLt
  have := x3.isLt
  exact ⟨by omega, by omega, by simp only [bits]; omega, by simp only [bits]; omega, fld_eq x0 (by omega), fld_eq x1 (by omega), fld_eq x2 (by omega), fld_eq x3 (by omega), broken_cons (by simp only [bits]; omega) (broken_nil w)⟩
theorem Encodes.barbind : ∀ y_a y_b y_n y_s, Statement (.barbind y_a y_b y_n y_s) := by
  intro y_a y_b y_n y_s n w h hw
  obtain ⟨rfl, e⟩ := read_word (u := 0xF0000000 + y_a.toNat * 0x80000 + y_b.toNat * 0x8000 + y_n.toNat * 0x1000 + y_s.toNat * 0x1) h
  obtain ⟨a, b, p, q, f0, f1, f2, f3, k⟩ := shape69 (o := 224) e rfl (by decide)
  have hr : row32 w = rowE w 0 := row32_E p q
  replace hr : row32 w = (.barbind (fld w 19 4) (fld w 15 4) (fld w 12 3) (fld w 0 3), [(11, 3, 0, 1)]) := hr
  rw [f0, f1, f2, f3] at hr
  exact decode_of_row32 a b hr k hw
theorem Encodes.bararr : ∀ y_a y_b y_n, Statement (.bararr y_a y_b y_n) := by
  intro y_a y_b y_n n w h hw
  obtain ⟨rfl, e⟩ := read_word (u := 0xF0800000 + y_a.toNat * 0x80000 + y_b.toNat * 0x8000 + y_n.toNat * 0x1000) h
  obtain ⟨a, b, p, q, f0, f1, f2, k⟩ := shape66 (o := 225) e rfl (by decide)
  have hr : row32 w = rowE w 1 := row32_E p q
  replace hr : row32 w = (.bararr (fld w 19 4) (fld w 15 4) (fld w 12 3), [(11, 0, 0, 1)]) := hr
  rw [f0, f1, f2] at hr
  exact decode_of_row32 a b hr k hw
theorem Encodes.barwait : ∀ y_a y_n, Statement (.barwait y_a y_n) := by
  intro y_a y_n n w h hw
  obtain ⟨rfl, e⟩ := read_word (u := 0xF1000000 + y_a.toNat * 0x80000 + y_n.toNat * 0x1000) h
  obtain ⟨a, b, p, q, f0, f1, k⟩ := shape67 (o := 226) e rfl (by decide)
  have hr : row32 w = rowE w 2 := row32_E p q
  replace hr : row32 w = (.barwait (fld w 19 4) (fld w 12 3), [(18, 15, 0, 1), (11, 0, 0, 1)]) := hr
  rw [f0, f1] at hr
  exact decode_of_row32 a b hr k hw
theorem Encodes.barwaitnb : ∀ y_a y_b y_n, Statement (.barwaitnb y_a y_b y_n) := by
  intro y_a y_b y_n n w h hw
  obtain ⟨rfl, e⟩ := read_word (u := 0xF1800000 + y_a.toNat * 0x80000 + y_b.toNat * 0x8000 + y_n.toNat * 0x1000) h
  obtain ⟨a, b, p, q, f0, f1, f2, k⟩ := shape66 (o := 227) e rfl (by decide)
  have hr : row32 w = rowE w 3 := row32_E p q
  replace hr : row32 w = (.barwaitnb (fld w 19 4) (fld w 15 4) (fld w 12 3), [(11, 0, 0, 1)]) := hr
  rw [f0, f1, f2] at hr
  exact decode_of_row32 a b hr k hw
theorem shape70 {o B w : Nat} {x0 : BitVec 3} (e : B + x0.toNat * 0x1 = w) (hb : B = 2147483648 + o * 8388608) (ho : o < 256) :
    2147483648 ≤ w ∧ w < 4294967296 ∧ bits w 30 27 = o / 16 ∧ bits w 26 23 = o % 16 ∧ ¬ bits w 4 3 = 1 ∧ ¬ bits w 4 3 = 2 ∧ fld w 0 3 = x0 ∧ brokenBits w [(22, 5, 0, 1), (4, 3, 0, 4)] = none := by
  have := x0.isLt
  exact ⟨by omega, by omega, by simp only [bits]; omega, by simp only [bits]; omega, by simp only [bits]; omega, by simp only [bits]; omega, fld_eq x0 (by omega), broken_cons (by simp only [bits]; omega) (broken_cons (by simp only [bits]; omega) (broken_nil w))⟩
theorem Encodes.fence : ∀ y_s, Statement (.fence y_s) := by
  intro y_s n w h hw
  obtain ⟨rfl, e⟩ := read_word (u := 0xF2000000 + y_s.toNat * 0x1) h
  obtain ⟨a, b, p, q, c0, c1, f0, k⟩ := shape70 (o := 228) e rfl (by decide)
  have hr : row32 w = rowE w 4 := row32_E p q
  simp only [rowE] at hr
  rw [if_neg c0, if_neg c1, f0] at hr
  exact decode_of_row32 a b hr k hw
theorem shape71 {o B w : Nat} {x0 : BitVec 3} (e : B + x0.toNat * 0x1 = w) (hb : B = 2147483656 + o * 8388608) (ho : o < 256) :
    2147483648 ≤ w ∧ w < 4294967296 ∧ bits w 30 27 = o / 16 ∧ bits w 26 23 = o % 16 ∧ bits w 4 3 = 1 ∧ fld w 0 3 = x0 ∧ brokenBits w [(22, 5, 0, 1)] = none := by
  have := x0.isLt
  exact ⟨by omega, by omega, by simp only [bits]; omega, by simp only [bits]; omega, by simp only [bits]; omega, fld_eq x0 (by omega), broken_cons (by simp only [bits]; omega) (broken_nil w)⟩
theorem Encodes.fenceAcq : ∀ y_s, Statement (.fenceAcq y_s) := by
  intro y_s n w h hw
  obtain ⟨rfl, e⟩ := read_word (u := 0xF2000008 + y_s.toNat * 0x1) h
  obtain ⟨a, b, p, q, c0, f0, k⟩ := shape71 (o := 228) e rfl (by decide)
  have hr : row32 w = rowE w 4 := row32_E p q
  simp only [rowE] at hr
  rw [if_pos c0, f0] at hr
  exact decode_of_row32 a b hr k hw
theorem shape72 {o B w : Nat} {x0 : BitVec 3} (e : B + x0.toNat * 0x1 = w) (hb : B = 2147483664 + o * 8388608) (ho : o < 256) :
    2147483648 ≤ w ∧ w < 4294967296 ∧ bits w 30 27 = o / 16 ∧ bits w 26 23 = o % 16 ∧ ¬ bits w 4 3 = 1 ∧ bits w 4 3 = 2 ∧ fld w 0 3 = x0 ∧ brokenBits w [(22, 5, 0, 1)] = none := by
  have := x0.isLt
  exact ⟨by omega, by omega, by simp only [bits]; omega, by simp only [bits]; omega, by simp only [bits]; omega, by simp only [bits]; omega, fld_eq x0 (by omega), broken_cons (by simp only [bits]; omega) (broken_nil w)⟩
theorem Encodes.fenceRel : ∀ y_s, Statement (.fenceRel y_s) := by
  intro y_s n w h hw
  obtain ⟨rfl, e⟩ := read_word (u := 0xF2000010 + y_s.toNat * 0x1) h
  obtain ⟨a, b, p, q, c0, c1, f0, k⟩ := shape72 (o := 228) e rfl (by decide)
  have hr : row32 w = rowE w 4 := row32_E p q
  simp only [rowE] at hr
  rw [if_neg c0, if_pos c1, f0] at hr
  exact decode_of_row32 a b hr k hw
theorem Encodes.tlwait : ∀ y_a y_b, Statement (.tlwait y_a y_b) := by
  intro y_a y_b n w h hw
  obtain ⟨rfl, e⟩ := read_word (u := 0xF2800000 + y_a.toNat * 0x80000 + y_b.toNat * 0x8000) h
  obtain ⟨a, b, p, q, f0, f1, k⟩ := shape2 (o := 229) e rfl (by decide)
  have hr : row32 w = rowE w 5 := row32_E p q
  replace hr : row32 w = (.tlwait (fld w 19 4) (fld w 15 4), [(14, 0, 0, 1)]) := hr
  rw [f0, f1] at hr
  exact decode_of_row32 a b hr k hw
theorem Encodes.tlwaitnb : ∀ y_a y_b, Statement (.tlwaitnb y_a y_b) := by
  intro y_a y_b n w h hw
  obtain ⟨rfl, e⟩ := read_word (u := 0xF3000000 + y_a.toNat * 0x80000 + y_b.toNat * 0x8000) h
  obtain ⟨a, b, p, q, f0, f1, k⟩ := shape2 (o := 230) e rfl (by decide)
  have hr : row32 w = rowE w 6 := row32_E p q
  replace hr : row32 w = (.tlwaitnb (fld w 19 4) (fld w 15 4), [(14, 0, 0, 1)]) := hr
  rw [f0, f1] at hr
  exact decode_of_row32 a b hr k hw
theorem shape73 {o B w : Nat} {x0 : BitVec 4} {x1 : BitVec 4} (e : B + x0.toNat * 0x80000 + x1.toNat * 0x8000 = w) (hb : B = 2147483648 + o * 8388608) (ho : o < 256) :
    2147483648 ≤ w ∧ w < 4294967296 ∧ bits w 30 27 = o / 16 ∧ bits w 26 23 = o % 16 ∧ ¬ bits w 0 0 = 1 ∧ fld w 19 4 = x0 ∧ fld w 15 4 = x1 ∧ brokenBits w [(14, 1, 0, 1)] = none := by
  have := x0.isLt
  have := x1.isLt
  exact ⟨by omega, by omega, by simp only [bits]; omega, by simp only [bits]; omega, by simp only [bits]; omega, fld_eq x0 (by omega), fld_eq x1 (by omega), broken_cons (by simp only [bits]; omega) (broken_nil w)⟩
theorem Encodes.tladd : ∀ y_a y_b, Statement (.tladd y_a y_b) := by
  intro y_a y_b n w h hw
  obtain ⟨rfl, e⟩ := read_word (u := 0xF3800000 + y_a.toNat * 0x80000 + y_b.toNat * 0x8000) h
  obtain ⟨a, b, p, q, c0, f0, f1, k⟩ := shape73 (o := 231) e rfl (by decide)
  have hr : row32 w = rowE w 7 := row32_E p q
  simp only [rowE] at hr
  rw [if_neg c0, f0, f1] at hr
  exact decode_of_row32 a b hr k hw
theorem Encodes.tladdSet : ∀ y_a y_b, Statement (.tladdSet y_a y_b) := by
  intro y_a y_b n w h hw
  obtain ⟨rfl, e⟩ := read_word (u := 0xF3800001 + y_a.toNat * 0x80000 + y_b.toNat * 0x8000) h
  obtain ⟨a, b, p, q, c0, f0, f1, k⟩ := shape29 (o := 231) e rfl (by decide)
  have hr : row32 w = rowE w 7 := row32_E p q
  simp only [rowE] at hr
  rw [if_pos c0, f0, f1] at hr
  exact decode_of_row32 a b hr k hw
theorem Encodes.ckgen : ∀ y_g y_d y_a y_b, Statement (.ckgen y_g y_d y_a y_b) := by
  intro y_g y_d y_a y_b n w h hw
  obtain ⟨rfl, e⟩ := read_word (u := 0xF4000000 + y_g.toNat * 0x100000 + y_d.toNat * 0x1000 + y_a.toNat * 0x40 + y_b.toNat * 0x1) h
  obtain ⟨a, b, p, q, f0, f1, f2, f3, k⟩ := shape32 (o := 232) e rfl (by decide)
  have hr : row32 w = rowE w 8 := row32_E p q
  replace hr : row32 w = (.ckgen (fld w 20 3) (fld w 12 6) (fld w 6 6) (fld w 0 6), [(19, 18, 0, 4)]) := hr
  rw [f0, f1, f2, f3] at hr
  exact decode_of_row32 a b hr k hw
theorem Encodes.ckver : ∀ y_g y_d y_a y_b, Statement (.ckver y_g y_d y_a y_b) := by
  intro y_g y_d y_a y_b n w h hw
  obtain ⟨rfl, e⟩ := read_word (u := 0xF4800000 + y_g.toNat * 0x100000 + y_d.toNat * 0x1000 + y_a.toNat * 0x40 + y_b.toNat * 0x1) h
  obtain ⟨a, b, p, q, f0, f1, f2, f3, k⟩ := shape32 (o := 233) e rfl (by decide)
  have hr : row32 w = rowE w 9 := row32_E p q
  replace hr : row32 w = (.ckver (fld w 20 3) (fld w 12 6) (fld w 6 6) (fld w 0 6), [(19, 18, 0, 4)]) := hr
  rw [f0, f1, f2, f3] at hr
  exact decode_of_row32 a b hr k hw
theorem Encodes.ckfold : ∀ y_g y_d y_a y_b, Statement (.ckfold y_g y_d y_a y_b) := by
  intro y_g y_d y_a y_b n w h hw
  obtain ⟨rfl, e⟩ := read_word (u := 0xF5000000 + y_g.toNat * 0x100000 + y_d.toNat * 0x1000 + y_a.toNat * 0x40 + y_b.toNat * 0x1) h
  obtain ⟨a, b, p, q, f0, f1, f2, f3, k⟩ := shape32 (o := 234) e rfl (by decide)
  have hr : row32 w = rowE w 10 := row32_E p q
  replace hr : row32 w = (.ckfold (fld w 20 3) (fld w 12 6) (fld w 6 6) (fld w 0 6), [(19, 18, 0, 4)]) := hr
  rw [f0, f1, f2, f3] at hr
  exact decode_of_row32 a b hr k hw
theorem Encodes.dqput : ∀ y_d y_a y_b y_c, Statement (.dqput y_d y_a y_b y_c) := by
  intro y_d y_a y_b y_c n w h hw
  obtain ⟨rfl, e⟩ := read_word (u := 0xF5800000 + y_d.toNat * 0x80000 + y_a.toNat * 0x8000 + y_b.toNat * 0x800 + y_c.toNat * 0x1) h
  obtain ⟨a, b, p, q, f0, f1, f2, f3, k⟩ := shape54 (o := 235) e rfl (by decide)
  have hr : row32 w = rowE w 11 := row32_E p q
  replace hr : row32 w = (.dqput (fld w 19 4) (fld w 15 4) (fld w 11 4) (fld w 0 1), [(10, 1, 0, 1)]) := hr
  rw [f0, f1, f2, f3] at hr
  exact decode_of_row32 a b hr k hw
theorem shape74 {o B w : Nat} {x0 : BitVec 4} {x1 : BitVec 4} {x2 : BitVec 4} {x3 : BitVec 1} {x4 : BitVec 1} (e : B + x0.toNat * 0x80000 + x1.toNat * 0x8000 + x2.toNat * 0x800 + x3.toNat * 0x2 + x4.toNat * 0x1 = w) (hb : B = 2147483648 + o * 8388608) (ho : o < 256) :
    2147483648 ≤ w ∧ w < 4294967296 ∧ bits w 30 27 = o / 16 ∧ bits w 26 23 = o % 16 ∧ fld w 19 4 = x0 ∧ fld w 15 4 = x1 ∧ fld w 11 4 = x2 ∧ fld w 1 1 = x3 ∧ fld w 0 1 = x4 ∧ brokenBits w [(10, 2, 0, 1)] = none := by
  have := x0.isLt
  have := x1.isLt
  have := x2.isLt
  have := x3.isLt
  have := x4.isLt
  exact ⟨by omega, by omega, by simp only [bits]; omega, by simp only [bits]; omega, fld_eq x0 (by omega), fld_eq x1 (by omega), fld_eq x2 (by omega), fld_eq x3 (by omega), fld_eq x4 (by omega), broken_cons (by simp only [bits]; omega) (broken_nil w)⟩
theorem Encodes.dxlook : ∀ y_d y_a y_b y_s y_k, Statement (.dxlook y_d y_a y_b y_s y_k) := by
  intro y_d y_a y_b y_s y_k n w h hw
  obtain ⟨rfl, e⟩ := read_word (u := 0xF6000000 + y_d.toNat * 0x80000 + y_a.toNat * 0x8000 + y_b.toNat * 0x800 + y_s.toNat * 0x2 + y_k.toNat * 0x1) h
  obtain ⟨a, b, p, q, f0, f1, f2, f3, f4, k⟩ := shape74 (o := 236) e rfl (by decide)
  have hr : row32 w = rowE w 12 := row32_E p q
  replace hr : row32 w = (.dxlook (fld w 19 4) (fld w 15 4) (fld w 11 4) (fld w 1 1) (fld w 0 1), [(10, 2, 0, 1)]) := hr
  rw [f0, f1, f2, f3, f4] at hr
  exact decode_of_row32 a b hr k hw
theorem shape75 {o B w : Nat} {x0 : BitVec 4} {x1 : BitVec 4} {x2 : BitVec 4} {x3 : BitVec 1} (e : B + x0.toNat * 0x80000 + x1.toNat * 0x8000 + x2.toNat * 0x800 + x3.toNat * 0x2 = w) (hb : B = 2147483648 + o * 8388608) (ho : o < 256) :
    2147483648 ≤ w ∧ w < 4294967296 ∧ bits w 30 27 = o / 16 ∧ bits w 26 23 = o % 16 ∧ fld w 19 4 = x0 ∧ fld w 15 4 = x1 ∧ fld w 11 4 = x2 ∧ fld w 1 1 = x3 ∧ brokenBits w [(10, 2, 0, 1), (0, 0, 0, 1)] = none := by
  have := x0.isLt
  have := x1.isLt
  have := x2.isLt
  have := x3.isLt
  exact ⟨by omega, by omega, by simp only [bits]; omega, by simp only [bits]; omega, fld_eq x0 (by omega), fld_eq x1 (by omega), fld_eq x2 (by omega), fld_eq x3 (by omega), broken_cons (by simp only [bits]; omega) (broken_cons (by simp only [bits]; omega) (broken_nil w))⟩
theorem Encodes.dxadd : ∀ y_d y_a y_b y_s, Statement (.dxadd y_d y_a y_b y_s) := by
  intro y_d y_a y_b y_s n w h hw
  obtain ⟨rfl, e⟩ := read_word (u := 0xF6800000 + y_d.toNat * 0x80000 + y_a.toNat * 0x8000 + y_b.toNat * 0x800 + y_s.toNat * 0x2) h
  obtain ⟨a, b, p, q, f0, f1, f2, f3, k⟩ := shape75 (o := 237) e rfl (by decide)
  have hr : row32 w = rowE w 13 := row32_E p q
  replace hr : row32 w = (.dxadd (fld w 19 4) (fld w 15 4) (fld w 11 4) (fld w 1 1), [(10, 2, 0, 1), (0, 0, 0, 1)]) := hr
  rw [f0, f1, f2, f3] at hr
  exact decode_of_row32 a b hr k hw
theorem Encodes.dxseal : ∀ y_d y_a y_b, Statement (.dxseal y_d y_a y_b) := by
  intro y_d y_a y_b n w h hw
  obtain ⟨rfl, e⟩ := read_word (u := 0xF7000000 + y_d.toNat * 0x80000 + y_a.toNat * 0x8000 + y_b.toNat * 0x800) h
  obtain ⟨a, b, p, q, f0, f1, f2, k⟩ := shape1 (o := 238) e rfl (by decide)
  have hr : row32 w = rowE w 14 := row32_E p q
  replace hr : row32 w = (.dxseal (fld w 19 4) (fld w 15 4) (fld w 11 4), [(10, 0, 0, 1)]) := hr
  rw [f0, f1, f2] at hr
  exact decode_of_row32 a b hr k hw
theorem Encodes.dxquiet : ∀ y_d y_a y_b, Statement (.dxquiet y_d y_a y_b) := by
  intro y_d y_a y_b n w h hw
  obtain ⟨rfl, e⟩ := read_word (u := 0xF7800000 + y_d.toNat * 0x80000 + y_a.toNat * 0x8000 + y_b.toNat * 0x800) h
  obtain ⟨a, b, p, q, c0, f0, f1, f2, k⟩ := shape28 (o := 239) e rfl (by decide)
  have hr : row32 w = rowE w 15 := row32_E p q
  simp only [rowE] at hr
  rw [if_neg c0, f0, f1, f2] at hr
  exact decode_of_row32 a b hr k hw
theorem shape76 {o B w : Nat} {x0 : BitVec 4} {x1 : BitVec 4} {x2 : BitVec 4} (e : B + x0.toNat * 0x80000 + x1.toNat * 0x8000 + x2.toNat * 0x800 = w) (hb : B = 2147483649 + o * 8388608) (ho : o < 256) :
    2147483648 ≤ w ∧ w < 4294967296 ∧ bits w 30 27 = o / 16 ∧ bits w 26 23 = o % 16 ∧ bits w 0 0 = 1 ∧ fld w 19 4 = x0 ∧ fld w 15 4 = x1 ∧ fld w 11 4 = x2 ∧ brokenBits w [(10, 1, 0, 1)] = none := by
  have := x0.isLt
  have := x1.isLt
  have := x2.isLt
  exact ⟨by omega, by omega, by simp only [bits]; omega, by simp only [bits]; omega, by simp only [bits]; omega, fld_eq x0 (by omega), fld_eq x1 (by omega), fld_eq x2 (by omega), broken_cons (by simp only [bits]; omega) (broken_nil w)⟩
theorem Encodes.dxquietnb : ∀ y_d y_a y_b, Statement (.dxquietnb y_d y_a y_b) := by
  intro y_d y_a y_b n w h hw
  obtain ⟨rfl, e⟩ := read_word (u := 0xF7800001 + y_d.toNat * 0x80000 + y_a.toNat * 0x8000 + y_b.toNat * 0x800) h
  obtain ⟨a, b, p, q, c0, f0, f1, f2, k⟩ := shape76 (o := 239) e rfl (by decide)
  have hr : row32 w = rowE w 15 := row32_E p q
  simp only [rowE] at hr
  rw [if_pos c0, f0, f1, f2] at hr
  exact decode_of_row32 a b hr k hw
theorem shape77 {o B w : Nat} {x0 : BitVec 4} {x1 : BitVec 8} (e : B + x0.toNat * 0x80000 + x1.toNat * 0x80 = w) (hb : B = 2147483648 + o * 8388608) (ho : o < 256) :
    2147483648 ≤ w ∧ w < 4294967296 ∧ bits w 30 27 = o / 16 ∧ bits w 26 23 = o % 16 ∧ fld w 19 4 = x0 ∧ fld w 7 8 = x1 ∧ brokenBits w [(18, 15, 0, 1), (6, 0, 0, 1)] = none := by
  have := x0.isLt
  have := x1.isLt
  exact ⟨by omega, by omega, by simp only [bits]; omega, by simp only [bits]; omega, fld_eq x0 (by omega), fld_eq x1 (by omega), broken_cons (by simp only [bits]; omega) (broken_cons (by simp only [bits]; omega) (broken_nil w))⟩
theorem Encodes.sget : ∀ y_d y_s, Statement (.sget y_d y_s) := by
  intro y_d y_s n w h hw
  obtain ⟨rfl, e⟩ := read_word (u := 0xF8000000 + y_d.toNat * 0x80000 + y_s.toNat * 0x80) h
  obtain ⟨a, b, p, q, f0, f1, k⟩ := shape77 (o := 240) e rfl (by decide)
  have hr : row32 w = rowF w 0 := row32_F p q
  replace hr : row32 w = (.sget (fld w 19 4) (fld w 7 8), [(18, 15, 0, 1), (6, 0, 0, 1)]) := hr
  rw [f0, f1] at hr
  exact decode_of_row32 a b hr k hw
theorem shape78 {o B w : Nat} {x0 : BitVec 4} {x1 : BitVec 8} (e : B + x0.toNat * 0x8000 + x1.toNat * 0x80 = w) (hb : B = 2147483648 + o * 8388608) (ho : o < 256) :
    2147483648 ≤ w ∧ w < 4294967296 ∧ bits w 30 27 = o / 16 ∧ bits w 26 23 = o % 16 ∧ fld w 15 4 = x0 ∧ fld w 7 8 = x1 ∧ brokenBits w [(22, 19, 0, 1), (6, 0, 0, 1)] = none := by
  have := x0.isLt
  have := x1.isLt
  exact ⟨by omega, by omega, by simp only [bits]; omega, by simp only [bits]; omega, fld_eq x0 (by omega), fld_eq x1 (by omega), broken_cons (by simp only [bits]; omega) (broken_cons (by simp only [bits]; omega) (broken_nil w))⟩
theorem Encodes.sset : ∀ y_a y_s, Statement (.sset y_a y_s) := by
  intro y_a y_s n w h hw
  obtain ⟨rfl, e⟩ := read_word (u := 0xF8800000 + y_a.toNat * 0x8000 + y_s.toNat * 0x80) h
  obtain ⟨a, b, p, q, f0, f1, k⟩ := shape78 (o := 241) e rfl (by decide)
  have hr : row32 w = rowF w 1 := row32_F p q
  replace hr : row32 w = (.sset (fld w 15 4) (fld w 7 8), [(22, 19, 0, 1), (6, 0, 0, 1)]) := hr
  rw [f0, f1] at hr
  exact decode_of_row32 a b hr k hw
theorem shape79 {o B w : Nat} {x0 : BitVec 4} {x1 : BitVec 4} {x2 : BitVec 8} (e : B + x0.toNat * 0x80000 + x1.toNat * 0x8000 + x2.toNat * 0x80 = w) (hb : B = 2147483648 + o * 8388608) (ho : o < 256) :
    2147483648 ≤ w ∧ w < 4294967296 ∧ bits w 30 27 = o / 16 ∧ bits w 26 23 = o % 16 ∧ fld w 19 4 = x0 ∧ fld w 15 4 = x1 ∧ fld w 7 8 = x2 ∧ brokenBits w [(6, 0, 0, 1)] = none := by
  have := x0.isLt
  have := x1.isLt
  have := x2.isLt
  exact ⟨by omega, by omega, by simp only [bits]; omega, by simp only [bits]; omega, fld_eq x0 (by omega), fld_eq x1 (by omega), fld_eq x2 (by omega), broken_cons (by simp only [bits]; omega) (broken_nil w)⟩
theorem Encodes.scall : ∀ y_d y_a y_s, Statement (.scall y_d y_a y_s) := by
  intro y_d y_a y_s n w h hw
  obtain ⟨rfl, e⟩ := read_word (u := 0xF9000000 + y_d.toNat * 0x80000 + y_a.toNat * 0x8000 + y_s.toNat * 0x80) h
  obtain ⟨a, b, p, q, f0, f1, f2, k⟩ := shape79 (o := 242) e rfl (by decide)
  have hr : row32 w = rowF w 2 := row32_F p q
  replace hr : row32 w = (.scall (fld w 19 4) (fld w 15 4) (fld w 7 8), [(6, 0, 0, 1)]) := hr
  rw [f0, f1, f2] at hr
  exact decode_of_row32 a b hr k hw
theorem Encodes.pcall : ∀ y_d y_a y_s, Statement (.pcall y_d y_a y_s) := by
  intro y_d y_a y_s n w h hw
  obtain ⟨rfl, e⟩ := read_word (u := 0xF9800000 + y_d.toNat * 0x80000 + y_a.toNat * 0x8000 + y_s.toNat * 0x80) h
  obtain ⟨a, b, p, q, f0, f1, f2, k⟩ := shape79 (o := 243) e rfl (by decide)
  have hr : row32 w = rowF w 3 := row32_F p q
  replace hr : row32 w = (.pcall (fld w 19 4) (fld w 15 4) (fld w 7 8), [(6, 0, 0, 1)]) := hr
  rw [f0, f1, f2] at hr
  exact decode_of_row32 a b hr k hw
theorem Encodes.tret : Statement (.tret) := by
  intro n w h hw
  obtain ⟨rfl, e⟩ := read_word (u := 0xFA000000) h
  obtain ⟨a, b, p, q, k⟩ := shape18 (o := 244) e rfl (by decide)
  have hr : row32 w = rowF w 4 := row32_F p q
  replace hr : row32 w = (.tret, [(22, 0, 0, 1)]) := hr
  exact decode_of_row32 a b hr k hw
theorem shape80 {o B w : Nat} {x0 : BitVec 8} (e : B + x0.toNat * 0x80 = w) (hb : B = 2147483648 + o * 8388608) (ho : o < 256) :
    2147483648 ≤ w ∧ w < 4294967296 ∧ bits w 30 27 = o / 16 ∧ bits w 26 23 = o % 16 ∧ fld w 7 8 = x0 ∧ brokenBits w [(22, 15, 0, 1), (6, 0, 0, 1)] = none := by
  have := x0.isLt
  exact ⟨by omega, by omega, by simp only [bits]; omega, by simp only [bits]; omega, fld_eq x0 (by omega), broken_cons (by simp only [bits]; omega) (broken_cons (by simp only [bits]; omega) (broken_nil w))⟩
theorem Encodes.brk : ∀ y_s, Statement (.brk y_s) := by
  intro y_s n w h hw
  obtain ⟨rfl, e⟩ := read_word (u := 0xFA800000 + y_s.toNat * 0x80) h
  obtain ⟨a, b, p, q, f0, k⟩ := shape80 (o := 245) e rfl (by decide)
  have hr : row32 w = rowF w 5 := row32_F p q
  replace hr : row32 w = (.brk (fld w 7 8), [(22, 15, 0, 1), (6, 0, 0, 1)]) := hr
  rw [f0] at hr
  exact decode_of_row32 a b hr k hw
theorem shape81 {o B w : Nat} {x0 : BitVec 4} {x1 : BitVec 4} {x2 : BitVec 1} {x3 : BitVec 3} (e : B + x0.toNat * 0x80000 + x1.toNat * 0x8000 + x2.toNat * 0x400 + x3.toNat * 0x80 = w) (hb : B = 2147483648 + o * 8388608) (ho : o < 256) :
    2147483648 ≤ w ∧ w < 4294967296 ∧ bits w 30 27 = o / 16 ∧ bits w 26 23 = o % 16 ∧ fld w 19 4 = x0 ∧ fld w 15 4 = x1 ∧ fld w 10 1 = x2 ∧ fld w 7 3 = x3 ∧ brokenBits w [(14, 11, 0, 1), (6, 0, 0, 1)] = none := by
  have := x0.isLt
  have := x1.isLt
  have := x2.isLt
  have := x3.isLt
  exact ⟨by omega, by omega, by simp only [bits]; omega, by simp only [bits]; omega, fld_eq x0 (by omega), fld_eq x1 (by omega), fld_eq x2 (by omega), fld_eq x3 (by omega), broken_cons (by simp only [bits]; omega) (broken_cons (by simp only [bits]; omega) (broken_nil w))⟩
theorem Encodes.wpset : ∀ y_d y_a y_k y_n, Statement (.wpset y_d y_a y_k y_n) := by
  intro y_d y_a y_k y_n n w h hw
  obtain ⟨rfl, e⟩ := read_word (u := 0xFB000000 + y_d.toNat * 0x80000 + y_a.toNat * 0x8000 + y_k.toNat * 0x400 + y_n.toNat * 0x80) h
  obtain ⟨a, b, p, q, f0, f1, f2, f3, k⟩ := shape81 (o := 246) e rfl (by decide)
  have hr : row32 w = rowF w 6 := row32_F p q
  replace hr : row32 w = (.wpset (fld w 19 4) (fld w 15 4) (fld w 10 1) (fld w 7 3), [(14, 11, 0, 1), (6, 0, 0, 1)]) := hr
  rw [f0, f1, f2, f3] at hr
  exact decode_of_row32 a b hr k hw
theorem shape82 {o B w : Nat} {x0 : BitVec 4} {x1 : BitVec 3} (e : B + x0.toNat * 0x8000 + x1.toNat * 0x80 = w) (hb : B = 2147483648 + o * 8388608) (ho : o < 256) :
    2147483648 ≤ w ∧ w < 4294967296 ∧ bits w 30 27 = o / 16 ∧ bits w 26 23 = o % 16 ∧ ¬ bits w 11 10 = 1 ∧ ¬ bits w 11 10 = 2 ∧ ¬ bits w 11 10 = 3 ∧ fld w 15 4 = x0 ∧ fld w 7 3 = x1 ∧ brokenBits w [(22, 19, 0, 1), (14, 12, 0, 1), (11, 10, 0, 4), (6, 0, 0, 1)] = none := by
  have := x0.isLt
  have := x1.isLt
  exact ⟨by omega, by omega, by simp only [bits]; omega, by simp only [bits]; omega, by simp only [bits]; omega, by simp only [bits]; omega, by simp only [bits]; omega, fld_eq x0 (by omega), fld_eq x1 (by omega), broken_cons (by simp only [bits]; omega) (broken_cons (by simp only [bits]; omega) (broken_cons (by simp only [bits]; omega) (broken_cons (by simp only [bits]; omega) (broken_nil w))))⟩
theorem Encodes.xlinv : ∀ y_a y_s, Statement (.xlinv y_a y_s) := by
  intro y_a y_s n w h hw
  obtain ⟨rfl, e⟩ := read_word (u := 0xFB800000 + y_a.toNat * 0x8000 + y_s.toNat * 0x80) h
  obtain ⟨a, b, p, q, c0, c1, c2, f0, f1, k⟩ := shape82 (o := 247) e rfl (by decide)
  have hr : row32 w = rowF w 7 := row32_F p q
  simp only [rowF] at hr
  rw [if_neg c0, if_neg c1, if_neg c2, f0, f1] at hr
  exact decode_of_row32 a b hr k hw
theorem shape83 {o B w : Nat} {x0 : BitVec 4} {x1 : BitVec 3} (e : B + x0.toNat * 0x8000 + x1.toNat * 0x80 = w) (hb : B = 2147484672 + o * 8388608) (ho : o < 256) :
    2147483648 ≤ w ∧ w < 4294967296 ∧ bits w 30 27 = o / 16 ∧ bits w 26 23 = o % 16 ∧ bits w 11 10 = 1 ∧ fld w 15 4 = x0 ∧ fld w 7 3 = x1 ∧ brokenBits w [(22, 19, 0, 1), (14, 12, 0, 1), (6, 0, 0, 1)] = none := by
  have := x0.isLt
  have := x1.isLt
  exact ⟨by omega, by omega, by simp only [bits]; omega, by simp only [bits]; omega, by simp only [bits]; omega, fld_eq x0 (by omega), fld_eq x1 (by omega), broken_cons (by simp only [bits]; omega) (broken_cons (by simp only [bits]; omega) (broken_cons (by simp only [bits]; omega) (broken_nil w)))⟩
theorem Encodes.xlinvLg : ∀ y_a y_s, Statement (.xlinvLg y_a y_s) := by
  intro y_a y_s n w h hw
  obtain ⟨rfl, e⟩ := read_word (u := 0xFB800400 + y_a.toNat * 0x8000 + y_s.toNat * 0x80) h
  obtain ⟨a, b, p, q, c0, f0, f1, k⟩ := shape83 (o := 247) e rfl (by decide)
  have hr : row32 w = rowF w 7 := row32_F p q
  simp only [rowF] at hr
  rw [if_pos c0, f0, f1] at hr
  exact decode_of_row32 a b hr k hw
theorem shape84 {o B w : Nat} {x0 : BitVec 3} (e : B + x0.toNat * 0x80 = w) (hb : B = 2147485696 + o * 8388608) (ho : o < 256) :
    2147483648 ≤ w ∧ w < 4294967296 ∧ bits w 30 27 = o / 16 ∧ bits w 26 23 = o % 16 ∧ ¬ bits w 11 10 = 1 ∧ bits w 11 10 = 2 ∧ fld w 7 3 = x0 ∧ brokenBits w [(22, 12, 0, 1), (6, 0, 0, 1)] = none := by
  have := x0.isLt
  exact ⟨by omega, by omega, by simp only [bits]; omega, by simp only [bits]; omega, by simp only [bits]; omega, by simp only [bits]; omega, fld_eq x0 (by omega), broken_cons (by simp only [bits]; omega) (broken_cons (by simp only [bits]; omega) (broken_nil w))⟩
theorem Encodes.xlinvAll : ∀ y_s, Statement (.xlinvAll y_s) := by
  intro y_s n w h hw
  obtain ⟨rfl, e⟩ := read_word (u := 0xFB800800 + y_s.toNat * 0x80) h
  obtain ⟨a, b, p, q, c0, c1, f0, k⟩ := shape84 (o := 247) e rfl (by decide)
  have hr : row32 w = rowF w 7 := row32_F p q
  simp only [rowF] at hr
  rw [if_neg c0, if_pos c1, f0] at hr
  exact decode_of_row32 a b hr k hw
theorem shape85 {o B w : Nat} {x0 : BitVec 4} {x1 : BitVec 4} (e : B + x0.toNat * 0x80000 + x1.toNat * 0x80 = w) (hb : B = 2147483648 + o * 8388608) (ho : o < 256) :
    2147483648 ≤ w ∧ w < 4294967296 ∧ bits w 30 27 = o / 16 ∧ bits w 26 23 = o % 16 ∧ ¬ bits w 14 14 = 1 ∧ fld w 19 4 = x0 ∧ fld w 7 4 = x1 ∧ brokenBits w [(18, 15, 0, 1), (13, 11, 0, 1), (6, 0, 0, 1)] = none := by
  have := x0.isLt
  have := x1.isLt
  exact ⟨by omega, by omega, by simp only [bits]; omega, by simp only [bits]; omega, by simp only [bits]; omega, fld_eq x0 (by omega), fld_eq x1 (by omega), broken_cons (by simp only [bits]; omega) (broken_cons (by simp only [bits]; omega) (broken_cons (by simp only [bits]; omega) (broken_nil w)))⟩
theorem Encodes.cldw : ∀ y_d y_n, Statement (.cldw y_d y_n) := by
  intro y_d y_n n w h hw
  obtain ⟨rfl, e⟩ := read_word (u := 0xFC000000 + y_d.toNat * 0x80000 + y_n.toNat * 0x80) h
  obtain ⟨a, b, p, q, c0, f0, f1, k⟩ := shape85 (o := 248) e rfl (by decide)
  have hr : row32 w = rowF w 8 := row32_F p q
  simp only [rowF] at hr
  rw [if_neg c0, f0, f1] at hr
  exact decode_of_row32 a b hr k hw
theorem shape86 {o B w : Nat} {x0 : BitVec 4} {x1 : BitVec 4} (e : B + x0.toNat * 0x8000 + x1.toNat * 0x80 = w) (hb : B = 2147500032 + o * 8388608) (ho : o < 256) :
    2147483648 ≤ w ∧ w < 4294967296 ∧ bits w 30 27 = o / 16 ∧ bits w 26 23 = o % 16 ∧ bits w 14 14 = 1 ∧ fld w 15 4 = x0 ∧ fld w 7 4 = x1 ∧ brokenBits w [(22, 19, 0, 1), (13, 11, 0, 1), (6, 0, 0, 1)] = none := by
  have := x0.isLt
  have := x1.isLt
  exact ⟨by omega, by omega, by simp only [bits]; omega, by simp only [bits]; omega, by simp only [bits]; omega, fld_eq x0 (by omega), fld_eq x1 (by omega), broken_cons (by simp only [bits]; omega) (broken_cons (by simp only [bits]; omega) (broken_cons (by simp only [bits]; omega) (broken_nil w)))⟩
theorem Encodes.cldwW : ∀ y_a y_n, Statement (.cldwW y_a y_n) := by
  intro y_a y_n n w h hw
  obtain ⟨rfl, e⟩ := read_word (u := 0xFC004000 + y_a.toNat * 0x8000 + y_n.toNat * 0x80) h
  obtain ⟨a, b, p, q, c0, f0, f1, k⟩ := shape86 (o := 248) e rfl (by decide)
  have hr : row32 w = rowF w 8 := row32_F p q
  simp only [rowF] at hr
  rw [if_pos c0, f0, f1] at hr
  exact decode_of_row32 a b hr k hw
theorem shape87 {o B w : Nat} {x0 : BitVec 4} {x1 : BitVec 4} {x2 : BitVec 6} (e : B + x0.toNat * 0x80000 + x1.toNat * 0x8000 + x2.toNat * 0x80 = w) (hb : B = 2147483648 + o * 8388608) (ho : o < 256) :
    2147483648 ≤ w ∧ w < 4294967296 ∧ bits w 30 27 = o / 16 ∧ bits w 26 23 = o % 16 ∧ fld w 19 4 = x0 ∧ fld w 15 4 = x1 ∧ fld w 7 6 = x2 ∧ brokenBits w [(14, 13, 0, 1), (6, 0, 0, 1)] = none := by
  have := x0.isLt
  have := x1.isLt
  have := x2.isLt
  exact ⟨by omega, by omega, by simp only [bits]; omega, by simp only [bits]; omega, fld_eq x0 (by omega), fld_eq x1 (by omega), fld_eq x2 (by omega), broken_cons (by simp only [bits]; omega) (broken_cons (by simp only [bits]; omega) (broken_nil w))⟩
theorem Encodes.chwr : ∀ y_d y_a y_c, Statement (.chwr y_d y_a y_c) := by
  intro y_d y_a y_c n w h hw
  obtain ⟨rfl, e⟩ := read_word (u := 0xFC800000 + y_d.toNat * 0x80000 + y_a.toNat * 0x8000 + y_c.toNat * 0x80) h
  obtain ⟨a, b, p, q, f0, f1, f2, k⟩ := shape87 (o := 249) e rfl (by decide)
  have hr : row32 w = rowF w 9 := row32_F p q
  replace hr : row32 w = (.chwr (fld w 19 4) (fld w 15 4) (fld w 7 6), [(14, 13, 0, 1), (6, 0, 0, 1)]) := hr
  rw [f0, f1, f2] at hr
  exact decode_of_row32 a b hr k hw
theorem shape88 {o B w : Nat} {x0 : BitVec 4} {x1 : BitVec 6} (e : B + x0.toNat * 0x8000 + x1.toNat * 0x80 = w) (hb : B = 2147483648 + o * 8388608) (ho : o < 256) :
    2147483648 ≤ w ∧ w < 4294967296 ∧ bits w 30 27 = o / 16 ∧ bits w 26 23 = o % 16 ∧ fld w 15 4 = x0 ∧ fld w 7 6 = x1 ∧ brokenBits w [(22, 19, 0, 1), (14, 13, 0, 1), (6, 0, 0, 1)] = none := by
  have := x0.isLt
  have := x1.isLt
  exact ⟨by omega, by omega, by simp only [bits]; omega, by simp only [bits]; omega, fld_eq x0 (by omega), fld_eq x1 (by omega), broken_cons (by simp only [bits]; omega) (broken_cons (by simp only [bits]; omega) (broken_cons (by simp only [bits]; omega) (broken_nil w)))⟩
theorem Encodes.chrd : ∀ y_a y_c, Statement (.chrd y_a y_c) := by
  intro y_a y_c n w h hw
  obtain ⟨rfl, e⟩ := read_word (u := 0xFD000000 + y_a.toNat * 0x8000 + y_c.toNat * 0x80) h
  obtain ⟨a, b, p, q, f0, f1, k⟩ := shape88 (o := 250) e rfl (by decide)
  have hr : row32 w = rowF w 10 := row32_F p q
  replace hr : row32 w = (.chrd (fld w 15 4) (fld w 7 6), [(22, 19, 0, 1), (14, 13, 0, 1), (6, 0, 0, 1)]) := hr
  rw [f0, f1] at hr
  exact decode_of_row32 a b hr k hw
theorem shape89 {o B w : Nat} {x0 : BitVec 4} {x1 : BitVec 4} {x2 : BitVec 2} (e : B + x0.toNat * 0x80000 + x1.toNat * 0x8000 + x2.toNat * 0x80 = w) (hb : B = 2147483648 + o * 8388608) (ho : o < 256) :
    2147483648 ≤ w ∧ w < 4294967296 ∧ bits w 30 27 = o / 16 ∧ bits w 26 23 = o % 16 ∧ ¬ bits w 9 9 = 1 ∧ fld w 19 4 = x0 ∧ fld w 15 4 = x1 ∧ fld w 7 2 = x2 ∧ brokenBits w [(14, 10, 0, 1), (6, 0, 0, 1)] = none := by
  have := x0.isLt
  have := x1.isLt
  have := x2.isLt
  exact ⟨by omega, by omega, by simp only [bits]; omega, by simp only [bits]; omega, by simp only [bits]; omega, fld_eq x0 (by omega), fld_eq x1 (by omega), fld_eq x2 (by omega), broken_cons (by simp only [bits]; omega) (broken_cons (by simp only [bits]; omega) (broken_nil w))⟩
theorem Encodes.ebrd : ∀ y_d y_a y_w, Statement (.ebrd y_d y_a y_w) := by
  intro y_d y_a y_w n w h hw
  obtain ⟨rfl, e⟩ := read_word (u := 0xFD800000 + y_d.toNat * 0x80000 + y_a.toNat * 0x8000 + y_w.toNat * 0x80) h
  obtain ⟨a, b, p, q, c0, f0, f1, f2, k⟩ := shape89 (o := 251) e rfl (by decide)
  have hr : row32 w = rowF w 11 := row32_F p q
  simp only [rowF] at hr
  rw [if_neg c0, f0, f1, f2] at hr
  exact decode_of_row32 a b hr k hw
theorem shape90 {o B w : Nat} {x0 : BitVec 4} {x1 : BitVec 4} {x2 : BitVec 2} (e : B + x0.toNat * 0x80000 + x1.toNat * 0x8000 + x2.toNat * 0x80 = w) (hb : B = 2147484160 + o * 8388608) (ho : o < 256) :
    2147483648 ≤ w ∧ w < 4294967296 ∧ bits w 30 27 = o / 16 ∧ bits w 26 23 = o % 16 ∧ bits w 9 9 = 1 ∧ fld w 19 4 = x0 ∧ fld w 15 4 = x1 ∧ fld w 7 2 = x2 ∧ brokenBits w [(14, 10, 0, 1), (6, 0, 0, 1)] = none := by
  have := x0.isLt
  have := x1.isLt
  have := x2.isLt
  exact ⟨by omega, by omega, by simp only [bits]; omega, by simp only [bits]; omega, by simp only [bits]; omega, fld_eq x0 (by omega), fld_eq x1 (by omega), fld_eq x2 (by omega), broken_cons (by simp only [bits]; omega) (broken_cons (by simp only [bits]; omega) (broken_nil w))⟩
theorem Encodes.ebrdClr : ∀ y_d y_a y_w, Statement (.ebrdClr y_d y_a y_w) := by
  intro y_d y_a y_w n w h hw
  obtain ⟨rfl, e⟩ := read_word (u := 0xFD800200 + y_d.toNat * 0x80000 + y_a.toNat * 0x8000 + y_w.toNat * 0x80) h
  obtain ⟨a, b, p, q, c0, f0, f1, f2, k⟩ := shape90 (o := 251) e rfl (by decide)
  have hr : row32 w = rowF w 11 := row32_F p q
  simp only [rowF] at hr
  rw [if_pos c0, f0, f1, f2] at hr
  exact decode_of_row32 a b hr k hw
theorem Encodes.inj : ∀ y_d y_a y_s, Statement (.inj y_d y_a y_s) := by
  intro y_d y_a y_s n w h hw
  obtain ⟨rfl, e⟩ := read_word (u := 0xFE000000 + y_d.toNat * 0x80000 + y_a.toNat * 0x8000 + y_s.toNat * 0x80) h
  obtain ⟨a, b, p, q, f0, f1, f2, k⟩ := shape79 (o := 252) e rfl (by decide)
  have hr : row32 w = rowF w 12 := row32_F p q
  replace hr : row32 w = (.inj (fld w 19 4) (fld w 15 4) (fld w 7 8), [(6, 0, 0, 1)]) := hr
  rw [f0, f1, f2] at hr
  exact decode_of_row32 a b hr k hw
theorem Encodes.idle : ∀ y_a, Statement (.idle y_a) := by
  intro y_a n w h hw
  obtain ⟨rfl, e⟩ := read_word (u := 0xFE800000 + y_a.toNat * 0x8000) h
  obtain ⟨a, b, p, q, f0, k⟩ := shape15 (o := 253) e rfl (by decide)
  have hr : row32 w = rowF w 13 := row32_F p q
  replace hr : row32 w = (.idle (fld w 15 4), [(22, 19, 0, 1), (14, 0, 0, 1)]) := hr
  rw [f0] at hr
  exact decode_of_row32 a b hr k hw
theorem Encodes.halt : Statement (.halt) := by
  intro n w h hw
  obtain ⟨rfl, e⟩ := read_word (u := 0xFF000000) h
  obtain ⟨a, b, p, q, k⟩ := shape18 (o := 254) e rfl (by decide)
  have hr : row32 w = rowF w 14 := row32_F p q
  replace hr : row32 w = (.halt, [(22, 0, 0, 1)]) := hr
  exact decode_of_row32 a b hr k hw
theorem shape91 {o B w : Nat} {x0 : BitVec 4} (e : B + x0.toNat * 0x8000 = w) (hb : B = 2147483648 + o * 8388608) (ho : o < 256) :
    2147483648 ≤ w ∧ w < 4294967296 ∧ bits w 30 27 = o / 16 ∧ bits w 26 23 = o % 16 ∧ ¬ bits w 7 7 = 1 ∧ fld w 15 4 = x0 ∧ brokenBits w [(22, 19, 0, 1), (14, 8, 0, 1), (6, 0, 0, 1)] = none := by
  have := x0.isLt
  exact ⟨by omega, by omega, by simp only [bits]; omega, by simp only [bits]; omega, by simp only [bits]; omega, fld_eq x0 (by omega), broken_cons (by simp only [bits]; omega) (broken_cons (by simp only [bits]; omega) (broken_cons (by simp only [bits]; omega) (broken_nil w)))⟩
theorem Encodes.sstep : ∀ y_a, Statement (.sstep y_a) := by
  intro y_a n w h hw
  obtain ⟨rfl, e⟩ := read_word (u := 0xFF800000 + y_a.toNat * 0x8000) h
  obtain ⟨a, b, p, q, c0, f0, k⟩ := shape91 (o := 255) e rfl (by decide)
  have hr : row32 w = rowF w 15 := row32_F p q
  simp only [rowF] at hr
  rw [if_neg c0, f0] at hr
  exact decode_of_row32 a b hr k hw
theorem shape92 {o B w : Nat} {x0 : BitVec 4} (e : B + x0.toNat * 0x8000 = w) (hb : B = 2147483776 + o * 8388608) (ho : o < 256) :
    2147483648 ≤ w ∧ w < 4294967296 ∧ bits w 30 27 = o / 16 ∧ bits w 26 23 = o % 16 ∧ bits w 7 7 = 1 ∧ fld w 15 4 = x0 ∧ brokenBits w [(22, 19, 0, 1), (14, 8, 0, 1), (6, 0, 0, 1)] = none := by
  have := x0.isLt
  exact ⟨by omega, by omega, by simp only [bits]; omega, by simp only [bits]; omega, by simp only [bits]; omega, fld_eq x0 (by omega), broken_cons (by simp only [bits]; omega) (broken_cons (by simp only [bits]; omega) (broken_cons (by simp only [bits]; omega) (broken_nil w)))⟩
theorem Encodes.sstepLn : ∀ y_a, Statement (.sstepLn y_a) := by
  intro y_a n w h hw
  obtain ⟨rfl, e⟩ := read_word (u := 0xFF800080 + y_a.toNat * 0x8000) h
  obtain ⟨a, b, p, q, c0, f0, k⟩ := shape92 (o := 255) e rfl (by decide)
  have hr : row32 w = rowF w 15 := row32_F p q
  simp only [rowF] at hr
  rw [if_pos c0, f0] at hr
  exact decode_of_row32 a b hr k hw
theorem shape93 {o B w : Nat} {x0 : BitVec 8} (e : B + x0.toNat * 0x1 = w) (hb : B = 0 + o * 1024) (ho : o < 32) :
    w < 32768 ∧ bits w 14 10 = o ∧ fld w 0 8 = x0 ∧ brokenBits w [(9, 8, 0, 6)] = none := by
  have := x0.isLt
  exact ⟨by omega, by simp only [bits]; omega, fld_eq x0 (by omega), broken_cons (by simp only [bits]; omega) (broken_nil w)⟩
theorem Encodes.brkCompact : ∀ y_i, Statement (.brkCompact y_i) := by
  intro y_i n w h hw
  obtain ⟨rfl, e⟩ := read_word (u := 0x0000 + y_i.toNat * 0x1) h
  obtain ⟨b, p, f0, k⟩ := shape93 (o := 0) e rfl (by decide)
  have hr : row16 w = (.brkCompact (fld w 0 8), [(9, 8, 0, 6)]) := by rw [row16, p]; rfl
  rw [f0] at hr
  exact decode_of_row16 b hr k hw
theorem shape94 {o B w : Nat} {x0 : BitVec 3} {x1 : BitVec 3} {x2 : BitVec 3} (e : B + x0.toNat * 0x80 + x1.toNat * 0x10 + x2.toNat * 0x2 = w) (hb : B = 0 + o * 1024) (ho : o < 32) :
    w < 32768 ∧ bits w 14 10 = o ∧ fld w 7 3 = x0 ∧ fld w 4 3 = x1 ∧ fld w 1 3 = x2 ∧ brokenBits w [(0, 0, 0, 6)] = none := by
  have := x0.isLt
  have := x1.isLt
  have := x2.isLt
  exact ⟨by omega, by simp only [bits]; omega, fld_eq x0 (by omega), fld_eq x1 (by omega), fld_eq x2 (by omega), broken_cons (by simp only [bits]; omega) (broken_nil w)⟩
theorem Encodes.addCompact : ∀ y_d y_a y_b, Statement (.addCompact y_d y_a y_b) := by
  intro y_d y_a y_b n w h hw
  obtain ⟨rfl, e⟩ := read_word (u := 0x0400 + y_d.toNat * 0x80 + y_a.toNat * 0x10 + y_b.toNat * 0x2) h
  obtain ⟨b, p, f0, f1, f2, k⟩ := shape94 (o := 1) e rfl (by decide)
  have hr : row16 w = (.addCompact (fld w 7 3) (fld w 4 3) (fld w 1 3), [(0, 0, 0, 6)]) := by rw [row16, p]; rfl
  rw [f0, f1, f2] at hr
  exact decode_of_row16 b hr k hw
theorem Encodes.subCompact : ∀ y_d y_a y_b, Statement (.subCompact y_d y_a y_b) := by
  intro y_d y_a y_b n w h hw
  obtain ⟨rfl, e⟩ := read_word (u := 0x0800 + y_d.toNat * 0x80 + y_a.toNat * 0x10 + y_b.toNat * 0x2) h
  obtain ⟨b, p, f0, f1, f2, k⟩ := shape94 (o := 2) e rfl (by decide)
  have hr : row16 w = (.subCompact (fld w 7 3) (fld w 4 3) (fld w 1 3), [(0, 0, 0, 6)]) := by rw [row16, p]; rfl
  rw [f0, f1, f2] at hr
  exact decode_of_row16 b hr k hw
theorem Encodes.andCompact : ∀ y_d y_a y_b, Statement (.andCompact y_d y_a y_b) := by
  intro y_d y_a y_b n w h hw
  obtain ⟨rfl, e⟩ := read_word (u := 0x0C00 + y_d.toNat * 0x80 + y_a.toNat * 0x10 + y_b.toNat * 0x2) h
  obtain ⟨b, p, f0, f1, f2, k⟩ := shape94 (o := 3) e rfl (by decide)
  have hr : row16 w = (.andCompact (fld w 7 3) (fld w 4 3) (fld w 1 3), [(0, 0, 0, 6)]) := by rw [row16, p]; rfl
  rw [f0, f1, f2] at hr
  exact decode_of_row16 b hr k hw
theorem Encodes.orCompact : ∀ y_d y_a y_b, Statement (.orCompact y_d y_a y_b) := by
  intro y_d y_a y_b n w h hw
  obtain ⟨rfl, e⟩ := read_word (u := 0x1000 + y_d.toNat * 0x80 + y_a.toNat * 0x10 + y_b.toNat * 0x2) h
  obtain ⟨b, p, f0, f1, f2, k⟩ := shape94 (o := 4) e rfl (by decide)
  have hr : row16 w = (.orCompact (fld w 7 3) (fld w 4 3) (fld w 1 3), [(0, 0, 0, 6)]) := by rw [row16, p]; rfl
  rw [f0, f1, f2] at hr
  exact decode_of_row16 b hr k hw
theorem Encodes.xorCompact : ∀ y_d y_a y_b, Statement (.xorCompact y_d y_a y_b) := by
  intro y_d y_a y_b n w h hw
  obtain ⟨rfl, e⟩ := read_word (u := 0x1400 + y_d.toNat * 0x80 + y_a.toNat * 0x10 + y_b.toNat * 0x2) h
  obtain ⟨b, p, f0, f1, f2, k⟩ := shape94 (o := 5) e rfl (by decide)
  have hr : row16 w = (.xorCompact (fld w 7 3) (fld w 4 3) (fld w 1 3), [(0, 0, 0, 6)]) := by rw [row16, p]; rfl
  rw [f0, f1, f2] at hr
  exact decode_of_row16 b hr k hw
theorem shape95 {o B w : Nat} {x0 : BitVec 3} {x1 : BitVec 7} (e : B + x0.toNat * 0x80 + x1.toNat * 0x1 = w) (hb : B = 0 + o * 1024) (ho : o < 32) :
    w < 32768 ∧ bits w 14 10 = o ∧ fld w 7 3 = x0 ∧ fld w 0 7 = x1 ∧ brokenBits w [] = none := by
  have := x0.isLt
  have := x1.isLt
  exact ⟨by omega, by simp only [bits]; omega, fld_eq x0 (by omega), fld_eq x1 (by omega), broken_nil w⟩
theorem Encodes.addiCompact : ∀ y_d y_i, Statement (.addiCompact y_d y_i) := by
  intro y_d y_i n w h hw
  obtain ⟨rfl, e⟩ := read_word (u := 0x1800 + y_d.toNat * 0x80 + y_i.toNat * 0x1) h
  obtain ⟨b, p, f0, f1, k⟩ := shape95 (o := 6) e rfl (by decide)
  have hr : row16 w = (.addiCompact (fld w 7 3) (fld w 0 7), []) := by rw [row16, p]; rfl
  rw [f0, f1] at hr
  exact decode_of_row16 b hr k hw
theorem shape96 {o B w : Nat} {x0 : BitVec 3} {x1 : BitVec 6} (e : B + x0.toNat * 0x80 + x1.toNat * 0x1 = w) (hb : B = 0 + o * 1024) (ho : o < 32) :
    w < 32768 ∧ bits w 14 10 = o ∧ fld w 7 3 = x0 ∧ fld w 0 6 = x1 ∧ brokenBits w [(6, 6, 0, 6)] = none := by
  have := x0.isLt
  have := x1.isLt
  exact ⟨by omega, by simp only [bits]; omega, fld_eq x0 (by omega), fld_eq x1 (by omega), broken_cons (by simp only [bits]; omega) (broken_nil w)⟩
theorem Encodes.shliCompact : ∀ y_d y_i, Statement (.shliCompact y_d y_i) := by
  intro y_d y_i n w h hw
  obtain ⟨rfl, e⟩ := read_word (u := 0x1C00 + y_d.toNat * 0x80 + y_i.toNat * 0x1) h
  obtain ⟨b, p, f0, f1, k⟩ := shape96 (o := 7) e rfl (by decide)
  have hr : row16 w = (.shliCompact (fld w 7 3) (fld w 0 6), [(6, 6, 0, 6)]) := by rw [row16, p]; rfl
  rw [f0, f1] at hr
  exact decode_of_row16 b hr k hw
theorem Encodes.shriCompact : ∀ y_d y_i, Statement (.shriCompact y_d y_i) := by
  intro y_d y_i n w h hw
  obtain ⟨rfl, e⟩ := read_word (u := 0x2000 + y_d.toNat * 0x80 + y_i.toNat * 0x1) h
  obtain ⟨b, p, f0, f1, k⟩ := shape96 (o := 8) e rfl (by decide)
  have hr : row16 w = (.shriCompact (fld w 7 3) (fld w 0 6), [(6, 6, 0, 6)]) := by rw [row16, p]; rfl
  rw [f0, f1] at hr
  exact decode_of_row16 b hr k hw
theorem Encodes.sraiCompact : ∀ y_d y_i, Statement (.sraiCompact y_d y_i) := by
  intro y_d y_i n w h hw
  obtain ⟨rfl, e⟩ := read_word (u := 0x2400 + y_d.toNat * 0x80 + y_i.toNat * 0x1) h
  obtain ⟨b, p, f0, f1, k⟩ := shape96 (o := 9) e rfl (by decide)
  have hr : row16 w = (.sraiCompact (fld w 7 3) (fld w 0 6), [(6, 6, 0, 6)]) := by rw [row16, p]; rfl
  rw [f0, f1] at hr
  exact decode_of_row16 b hr k hw
theorem Encodes.andiCompact : ∀ y_d y_i, Statement (.andiCompact y_d y_i) := by
  intro y_d y_i n w h hw
  obtain ⟨rfl, e⟩ := read_word (u := 0x2800 + y_d.toNat * 0x80 + y_i.toNat * 0x1) h
  obtain ⟨b, p, f0, f1, k⟩ := shape95 (o := 10) e rfl (by decide)
  have hr : row16 w = (.andiCompact (fld w 7 3) (fld w 0 7), []) := by rw [row16, p]; rfl
  rw [f0, f1] at hr
  exact decode_of_row16 b hr k hw
theorem shape97 {o B w : Nat} {x0 : BitVec 3} {x1 : BitVec 3} {x2 : BitVec 4} (e : B + x0.toNat * 0x80 + x1.toNat * 0x10 + x2.toNat * 0x1 = w) (hb : B = 0 + o * 1024) (ho : o < 32) :
    w < 32768 ∧ bits w 14 10 = o ∧ fld w 7 3 = x0 ∧ fld w 4 3 = x1 ∧ fld w 0 4 = x2 ∧ brokenBits w [] = none := by
  have := x0.isLt
  have := x1.isLt
  have := x2.isLt
  exact ⟨by omega, by simp only [bits]; omega, fld_eq x0 (by omega), fld_eq x1 (by omega), fld_eq x2 (by omega), broken_nil w⟩
theorem Encodes.ldlCompact : ∀ y_d y_a y_f, Statement (.ldlCompact y_d y_a y_f) := by
  intro y_d y_a y_f n w h hw
  obtain ⟨rfl, e⟩ := read_word (u := 0x2C00 + y_d.toNat * 0x80 + y_a.toNat * 0x10 + y_f.toNat * 0x1) h
  obtain ⟨b, p, f0, f1, f2, k⟩ := shape97 (o := 11) e rfl (by decide)
  have hr : row16 w = (.ldlCompact (fld w 7 3) (fld w 4 3) (fld w 0 4), []) := by rw [row16, p]; rfl
  rw [f0, f1, f2] at hr
  exact decode_of_row16 b hr k hw
theorem Encodes.stlCompact : ∀ y_d y_a y_f, Statement (.stlCompact y_d y_a y_f) := by
  intro y_d y_a y_f n w h hw
  obtain ⟨rfl, e⟩ := read_word (u := 0x3000 + y_d.toNat * 0x80 + y_a.toNat * 0x10 + y_f.toNat * 0x1) h
  obtain ⟨b, p, f0, f1, f2, k⟩ := shape97 (o := 12) e rfl (by decide)
  have hr : row16 w = (.stlCompact (fld w 7 3) (fld w 4 3) (fld w 0 4), []) := by rw [row16, p]; rfl
  rw [f0, f1, f2] at hr
  exact decode_of_row16 b hr k hw
theorem Encodes.ldCompact : ∀ y_d y_a y_f, Statement (.ldCompact y_d y_a y_f) := by
  intro y_d y_a y_f n w h hw
  obtain ⟨rfl, e⟩ := read_word (u := 0x3400 + y_d.toNat * 0x80 + y_a.toNat * 0x10 + y_f.toNat * 0x1) h
  obtain ⟨b, p, f0, f1, f2, k⟩ := shape97 (o := 13) e rfl (by decide)
  have hr : row16 w = (.ldCompact (fld w 7 3) (fld w 4 3) (fld w 0 4), []) := by rw [row16, p]; rfl
  rw [f0, f1, f2] at hr
  exact decode_of_row16 b hr k hw
theorem Encodes.stCompact : ∀ y_d y_a y_f, Statement (.stCompact y_d y_a y_f) := by
  intro y_d y_a y_f n w h hw
  obtain ⟨rfl, e⟩ := read_word (u := 0x3800 + y_d.toNat * 0x80 + y_a.toNat * 0x10 + y_f.toNat * 0x1) h
  obtain ⟨b, p, f0, f1, f2, k⟩ := shape97 (o := 14) e rfl (by decide)
  have hr : row16 w = (.stCompact (fld w 7 3) (fld w 4 3) (fld w 0 4), []) := by rw [row16, p]; rfl
  rw [f0, f1, f2] at hr
  exact decode_of_row16 b hr k hw
theorem shape98 {o B w : Nat} {x0 : BitVec 10} (e : B + x0.toNat * 0x1 = w) (hb : B = 0 + o * 1024) (ho : o < 32) :
    w < 32768 ∧ bits w 14 10 = o ∧ fld w 0 10 = x0 ∧ brokenBits w [] = none := by
  have := x0.isLt
  exact ⟨by omega, by simp only [bits]; omega, fld_eq x0 (by omega), broken_nil w⟩
theorem Encodes.bCompact : ∀ y_p, Statement (.bCompact y_p) := by
  intro y_p n w h hw
  obtain ⟨rfl, e⟩ := read_word (u := 0x3C00 + y_p.toNat * 0x1) h
  obtain ⟨b, p, f0, k⟩ := shape98 (o := 15) e rfl (by decide)
  have hr : row16 w = (.bCompact (fld w 0 10), []) := by rw [row16, p]; rfl
  rw [f0] at hr
  exact decode_of_row16 b hr k hw
theorem Encodes.bZCompact : ∀ y_a y_p, Statement (.bZCompact y_a y_p) := by
  intro y_a y_p n w h hw
  obtain ⟨rfl, e⟩ := read_word (u := 0x4000 + y_a.toNat * 0x80 + y_p.toNat * 0x1) h
  obtain ⟨b, p, f0, f1, k⟩ := shape95 (o := 16) e rfl (by decide)
  have hr : row16 w = (.bZCompact (fld w 7 3) (fld w 0 7), []) := by rw [row16, p]; rfl
  rw [f0, f1] at hr
  exact decode_of_row16 b hr k hw
theorem Encodes.bNzCompact : ∀ y_a y_p, Statement (.bNzCompact y_a y_p) := by
  intro y_a y_p n w h hw
  obtain ⟨rfl, e⟩ := read_word (u := 0x4400 + y_a.toNat * 0x80 + y_p.toNat * 0x1) h
  obtain ⟨b, p, f0, f1, k⟩ := shape95 (o := 17) e rfl (by decide)
  have hr : row16 w = (.bNzCompact (fld w 7 3) (fld w 0 7), []) := by rw [row16, p]; rfl
  rw [f0, f1] at hr
  exact decode_of_row16 b hr k hw
theorem Encodes.loopCompact : ∀ y_a y_p, Statement (.loopCompact y_a y_p) := by
  intro y_a y_p n w h hw
  obtain ⟨rfl, e⟩ := read_word (u := 0x4800 + y_a.toNat * 0x80 + y_p.toNat * 0x1) h
  obtain ⟨b, p, f0, f1, k⟩ := shape95 (o := 18) e rfl (by decide)
  have hr : row16 w = (.loopCompact (fld w 7 3) (fld w 0 7), []) := by rw [row16, p]; rfl
  rw [f0, f1] at hr
  exact decode_of_row16 b hr k hw
theorem shape99 {o B w : Nat} {x0 : BitVec 3} {x1 : BitVec 3} {x2 : BitVec 3} {x3 : BitVec 1} (e : B + x0.toNat * 0x80 + x1.toNat * 0x10 + x2.toNat * 0x2 + x3.toNat * 0x1 = w) (hb : B = 0 + o * 1024) (ho : o < 32) :
    w < 32768 ∧ bits w 14 10 = o ∧ fld w 7 3 = x0 ∧ fld w 4 3 = x1 ∧ fld w 1 3 = x2 ∧ fld w 0 1 = x3 ∧ brokenBits w [] = none := by
  have := x0.isLt
  have := x1.isLt
  have := x2.isLt
  have := x3.isLt
  exact ⟨by omega, by simp only [bits]; omega, fld_eq x0 (by omega), fld_eq x1 (by omega), fld_eq x2 (by omega), fld_eq x3 (by omega), broken_nil w⟩
theorem Encodes.vaddCompact : ∀ y_d y_a y_b y_c, Statement (.vaddCompact y_d y_a y_b y_c) := by
  intro y_d y_a y_b y_c n w h hw
  obtain ⟨rfl, e⟩ := read_word (u := 0x4C00 + y_d.toNat * 0x80 + y_a.toNat * 0x10 + y_b.toNat * 0x2 + y_c.toNat * 0x1) h
  obtain ⟨b, p, f0, f1, f2, f3, k⟩ := shape99 (o := 19) e rfl (by decide)
  have hr : row16 w = (.vaddCompact (fld w 7 3) (fld w 4 3) (fld w 1 3) (fld w 0 1), []) := by rw [row16, p]; rfl
  rw [f0, f1, f2, f3] at hr
  exact decode_of_row16 b hr k hw
theorem Encodes.vsubCompact : ∀ y_d y_a y_b y_c, Statement (.vsubCompact y_d y_a y_b y_c) := by
  intro y_d y_a y_b y_c n w h hw
  obtain ⟨rfl, e⟩ := read_word (u := 0x5000 + y_d.toNat * 0x80 + y_a.toNat * 0x10 + y_b.toNat * 0x2 + y_c.toNat * 0x1) h
  obtain ⟨b, p, f0, f1, f2, f3, k⟩ := shape99 (o := 20) e rfl (by decide)
  have hr : row16 w = (.vsubCompact (fld w 7 3) (fld w 4 3) (fld w 1 3) (fld w 0 1), []) := by rw [row16, p]; rfl
  rw [f0, f1, f2, f3] at hr
  exact decode_of_row16 b hr k hw
theorem Encodes.vmulCompact : ∀ y_d y_a y_b y_c, Statement (.vmulCompact y_d y_a y_b y_c) := by
  intro y_d y_a y_b y_c n w h hw
  obtain ⟨rfl, e⟩ := read_word (u := 0x5400 + y_d.toNat * 0x80 + y_a.toNat * 0x10 + y_b.toNat * 0x2 + y_c.toNat * 0x1) h
  obtain ⟨b, p, f0, f1, f2, f3, k⟩ := shape99 (o := 21) e rfl (by decide)
  have hr : row16 w = (.vmulCompact (fld w 7 3) (fld w 4 3) (fld w 1 3) (fld w 0 1), []) := by rw [row16, p]; rfl
  rw [f0, f1, f2, f3] at hr
  exact decode_of_row16 b hr k hw
theorem Encodes.vandCompact : ∀ y_d y_a y_b y_c, Statement (.vandCompact y_d y_a y_b y_c) := by
  intro y_d y_a y_b y_c n w h hw
  obtain ⟨rfl, e⟩ := read_word (u := 0x5800 + y_d.toNat * 0x80 + y_a.toNat * 0x10 + y_b.toNat * 0x2 + y_c.toNat * 0x1) h
  obtain ⟨b, p, f0, f1, f2, f3, k⟩ := shape99 (o := 22) e rfl (by decide)
  have hr : row16 w = (.vandCompact (fld w 7 3) (fld w 4 3) (fld w 1 3) (fld w 0 1), []) := by rw [row16, p]; rfl
  rw [f0, f1, f2, f3] at hr
  exact decode_of_row16 b hr k hw
theorem Encodes.vorCompact : ∀ y_d y_a y_b y_c, Statement (.vorCompact y_d y_a y_b y_c) := by
  intro y_d y_a y_b y_c n w h hw
  obtain ⟨rfl, e⟩ := read_word (u := 0x5C00 + y_d.toNat * 0x80 + y_a.toNat * 0x10 + y_b.toNat * 0x2 + y_c.toNat * 0x1) h
  obtain ⟨b, p, f0, f1, f2, f3, k⟩ := shape99 (o := 23) e rfl (by decide)
  have hr : row16 w = (.vorCompact (fld w 7 3) (fld w 4 3) (fld w 1 3) (fld w 0 1), []) := by rw [row16, p]; rfl
  rw [f0, f1, f2, f3] at hr
  exact decode_of_row16 b hr k hw
theorem Encodes.vxorCompact : ∀ y_d y_a y_b y_c, Statement (.vxorCompact y_d y_a y_b y_c) := by
  intro y_d y_a y_b y_c n w h hw
  obtain ⟨rfl, e⟩ := read_word (u := 0x6000 + y_d.toNat * 0x80 + y_a.toNat * 0x10 + y_b.toNat * 0x2 + y_c.toNat * 0x1) h
  obtain ⟨b, p, f0, f1, f2, f3, k⟩ := shape99 (o := 24) e rfl (by decide)
  have hr : row16 w = (.vxorCompact (fld w 7 3) (fld w 4 3) (fld w 1 3) (fld w 0 1), []) := by rw [row16, p]; rfl
  rw [f0, f1, f2, f3] at hr
  exact decode_of_row16 b hr k hw
theorem shape100 {o B w : Nat} {x0 : BitVec 3} {x1 : BitVec 3} (e : B + x0.toNat * 0x80 + x1.toNat * 0x10 = w) (hb : B = 0 + o * 1024) (ho : o < 32) :
    w < 32768 ∧ bits w 14 10 = o ∧ fld w 7 3 = x0 ∧ fld w 4 3 = x1 ∧ brokenBits w [(3, 0, 0, 6)] = none := by
  have := x0.isLt
  have := x1.isLt
  exact ⟨by omega, by simp only [bits]; omega, fld_eq x0 (by omega), fld_eq x1 (by omega), broken_cons (by simp only [bits]; omega) (broken_nil w)⟩
theorem Encodes.vmovCompact : ∀ y_d y_a, Statement (.vmovCompact y_d y_a) := by
  intro y_d y_a n w h hw
  obtain ⟨rfl, e⟩ := read_word (u := 0x6400 + y_d.toNat * 0x80 + y_a.toNat * 0x10) h
  obtain ⟨b, p, f0, f1, k⟩ := shape100 (o := 25) e rfl (by decide)
  have hr : row16 w = (.vmovCompact (fld w 7 3) (fld w 4 3), [(3, 0, 0, 6)]) := by rw [row16, p]; rfl
  rw [f0, f1] at hr
  exact decode_of_row16 b hr k hw
theorem Encodes.vfaddF32Compact : ∀ y_d y_a y_b y_c, Statement (.vfaddF32Compact y_d y_a y_b y_c) := by
  intro y_d y_a y_b y_c n w h hw
  obtain ⟨rfl, e⟩ := read_word (u := 0x6800 + y_d.toNat * 0x80 + y_a.toNat * 0x10 + y_b.toNat * 0x2 + y_c.toNat * 0x1) h
  obtain ⟨b, p, f0, f1, f2, f3, k⟩ := shape99 (o := 26) e rfl (by decide)
  have hr : row16 w = (.vfaddF32Compact (fld w 7 3) (fld w 4 3) (fld w 1 3) (fld w 0 1), []) := by rw [row16, p]; rfl
  rw [f0, f1, f2, f3] at hr
  exact decode_of_row16 b hr k hw
theorem Encodes.vfmulF32Compact : ∀ y_d y_a y_b y_c, Statement (.vfmulF32Compact y_d y_a y_b y_c) := by
  intro y_d y_a y_b y_c n w h hw
  obtain ⟨rfl, e⟩ := read_word (u := 0x6C00 + y_d.toNat * 0x80 + y_a.toNat * 0x10 + y_b.toNat * 0x2 + y_c.toNat * 0x1) h
  obtain ⟨b, p, f0, f1, f2, f3, k⟩ := shape99 (o := 27) e rfl (by decide)
  have hr : row16 w = (.vfmulF32Compact (fld w 7 3) (fld w 4 3) (fld w 1 3) (fld w 0 1), []) := by rw [row16, p]; rfl
  rw [f0, f1, f2, f3] at hr
  exact decode_of_row16 b hr k hw
theorem Encodes.vfmaF32Compact : ∀ y_d y_a y_b y_c, Statement (.vfmaF32Compact y_d y_a y_b y_c) := by
  intro y_d y_a y_b y_c n w h hw
  obtain ⟨rfl, e⟩ := read_word (u := 0x7000 + y_d.toNat * 0x80 + y_a.toNat * 0x10 + y_b.toNat * 0x2 + y_c.toNat * 0x1) h
  obtain ⟨b, p, f0, f1, f2, f3, k⟩ := shape99 (o := 28) e rfl (by decide)
  have hr : row16 w = (.vfmaF32Compact (fld w 7 3) (fld w 4 3) (fld w 1 3) (fld w 0 1), []) := by rw [row16, p]; rfl
  rw [f0, f1, f2, f3] at hr
  exact decode_of_row16 b hr k hw
theorem Encodes.vcmpeqCompact : ∀ y_d y_a y_b y_c, Statement (.vcmpeqCompact y_d y_a y_b y_c) := by
  intro y_d y_a y_b y_c n w h hw
  obtain ⟨rfl, e⟩ := read_word (u := 0x7400 + y_d.toNat * 0x80 + y_a.toNat * 0x10 + y_b.toNat * 0x2 + y_c.toNat * 0x1) h
  obtain ⟨b, p, f0, f1, f2, f3, k⟩ := shape99 (o := 29) e rfl (by decide)
  have hr : row16 w = (.vcmpeqCompact (fld w 7 3) (fld w 4 3) (fld w 1 3) (fld w 0 1), []) := by rw [row16, p]; rfl
  rw [f0, f1, f2, f3] at hr
  exact decode_of_row16 b hr k hw
theorem shape101 {o B w : Nat} (e : B = w) (hb : B = 0 + o * 1024) (ho : o < 32) :
    w < 32768 ∧ bits w 14 10 = o ∧ brokenBits w [(9, 0, 0, 6)] = none := by
  exact ⟨by omega, by simp only [bits]; omega, broken_cons (by simp only [bits]; omega) (broken_nil w)⟩
theorem Encodes.xendCompact : Statement (.xendCompact) := by
  intro n w h hw
  obtain ⟨rfl, e⟩ := read_word (u := 0x7800) h
  obtain ⟨b, p, k⟩ := shape101 (o := 30) e rfl (by decide)
  have hr : row16 w = (.xendCompact, [(9, 0, 0, 6)]) := by rw [row16, p]; rfl
  exact decode_of_row16 b hr k hw
theorem Encodes.xretCompact : Statement (.xretCompact) := by
  intro n w h hw
  obtain ⟨rfl, e⟩ := read_word (u := 0x7C00) h
  obtain ⟨b, p, k⟩ := shape101 (o := 31) e rfl (by decide)
  have hr : row16 w = (.xretCompact, [(9, 0, 0, 6)]) := by rw [row16, p]; rfl
  exact decode_of_row16 b hr k hw

end Sys2Proof.Laws
end

