-- ==== Sys2Proof/Laws/Retire.lean ====
section
/-! SUPPORT. The end of an instruction: what the queue, the gangs and the core hold after it has retired. -/
namespace Sys2Proof.Machine

open Sys2Proof.Spec

/-- The gang after retirement: it has moved on and no longer waits. -/
theorem Core.gang_retire (k : Core) (n : Option (BitVec 32)) :
    (k.retire n).gang = { k.gang.retire (n.getD (k.succ k.gang.q2)) (k.priv = 1) with waiting := false } := by
  show ((k.modGang fun g => g.retire (n.getD (k.succ g.q2)) (k.priv = 1)).wake).at k.slot = _
  rw [Core.at_wake]
  exact congrArg (fun g : Gang => { g with waiting := false }) (Core.gang_modGang k _)
/-- Another gang of the core only tries again. -/
theorem Core.at_retire_ne (k : Core) (n : Option (BitVec 32)) {j : Nat} (h : j ≠ k.slot) :
    (k.retire n).at j = { k.at j with waiting := false } := by
  show ((k.modGang fun g => g.retire (n.getD (k.succ g.q2)) (k.priv = 1)).wake).at j = _
  rw [Core.at_wake, Core.at_modGang_ne _ _ h]
@[simp] theorem State.me_retire (s : State) (n : Option (BitVec 32)) : (s.retire n).me = s.me.retire n := State.me_modMe s _
theorem State.core_retire_ne (s : State) (n : Option (BitVec 32)) {j : Nat} (h : j ≠ s.cur) : (s.retire n).core j = s.core j :=
  State.core_modMe_ne s _ h
theorem State.gang_retire (s : State) (n : Option (BitVec 32)) : (s.retire n).gang = (s.me.retire n).gang := by
  rw [State.gang, State.me_retire]
/-- A change of the gang that changes nothing leaves the core after retirement as it is. -/
theorem Core.retire_modGang_self (k : Core) (n : Option (BitVec 32)) (f : Gang → Gang)
    (h : f (k.retire n).gang = (k.retire n).gang) : (k.retire n).modGang f = k.retire n := by
  have key : ∀ (m : List (Nat × Gang)) (i : Nat) (g : Gang),
      mput ((mput m i g).map fun e => (e.1, { e.2 with waiting := false })) i { g with waiting := false } =
        ((mput m i g).map fun e => (e.1, { e.2 with waiting := false })) := by
    intro m i g
    induction m with
    | nil => simp [mput]
    | cons e m ih =>
      obtain ⟨k, x⟩ := e
      simp only [mput]
      split
      · simp [mput]
      · split
        · simp [mput]
        · rename_i h1 h2; simp [mput, h1, h2, ih]
  show Core.setAt _ k.slot (f (k.retire n).gang) = _
  rw [h, Core.gang_retire]
  unfold Core.setAt
  have : mput (k.retire n).gangs k.slot
      { k.gang.retire (n.getD (k.succ k.gang.q2)) (k.priv = 1) with waiting := false } = (k.retire n).gangs :=
    key k.gangs k.slot _
  rw [this]
/-- With no step request, an instruction that completes leaves exactly what retirement leaves. -/
theorem retired_unstepped {s t : State} (h : Unstepped s) (h1 : t.gang.step = .off) (h2 : t.gang.stepDebug = false) :
    retired s t = t.retire none := by
  have hc : s.stepCause = [] := by simp [State.stepCause, h.1]
  have hs : (t.retire none).clearStep = t.retire none := by
    unfold State.clearStep
    split
    · rfl
    rw [State.modGang_eq]
    show (t.retire none).setMe ((t.retire none).me.modGang _) = _
    rw [State.me_retire, Core.retire_modGang_self]
    · exact State.setCore_setCore t t.cur _ _
    · rw [Core.gang_retire]
      have e1 : t.me.gang.step = .off := h1
      have e2 : t.me.gang.stepDebug = false := h2
      simp [Gang.retire, Gang.advance, e1, e2]
  show State.takeAfter _ ([] ++ s.stepCause) = _
  rw [hc, hs]; rfl

/-! ### The gang and the core after a register write -/

theorem Core.gang_writeG (k : Core) (n : Nat) (v : Word) (p : Bool) :
    ∃ a b, (k.writeG n v p).gang = { k.gang with g := a, gPoison := b } := by
  unfold Core.writeG
  split
  · exact ⟨_, _, rfl⟩
  · split
    · exact ⟨_, _, rfl⟩
    · exact ⟨_, _, Core.gang_modGang _ _⟩
theorem Core.writeG_shape (k : Core) (n : Nat) (v : Word) (p : Bool) : ∃ a b c, k.writeG n v p =
    { k with gangs := a, trapBank := b, bankPoison := c } := by
  unfold Core.writeG
  split
  · exact ⟨_, _, _, rfl⟩
  · split <;> exact ⟨_, _, _, rfl⟩
theorem Core.at_writeG_ne (k : Core) (n : Nat) (v : Word) (p : Bool) {j : Nat} (h : j ≠ k.slot) :
    (k.writeG n v p).at j = k.at j := by
  unfold Core.writeG
  split
  · rfl
  · split
    · rfl
    · exact Core.at_modGang_ne _ _ h

end Sys2Proof.Machine
end

