-- ==== Sys2Proof/Tests/Slice0.lean ====
section
/-! SUPPORT. Tests of the model against the worked examples of the spec, the words that WellFormed refuses, and a witness
for the hypotheses of every statement. -/
namespace Sys2Proof.Tests

open Machine Spec

set_option Elab.async false

/-! ### Decoding: words worked out in the spec, or written from its encoding tables -/


/-- spec/03, add g3, g4, g5. -/
theorem test_decode_add : decodeTableWord 32 0x801A2800 = some (.add 3 4 5) := by rfl
/-- spec/03. -/
theorem test_decode_add_compact : decodeTableWord 16 0x05CA = some (.addCompact 3 4 5) := by rfl
/-- spec/03, (p2) vfma.f32.rz w9, n1, 3. -/
theorem test_decode_vfma_f32 : decodeTableWord 32 0xC3A49873 = some (.vfmaF32 2 1 9 33 51) := by rfl
/-- spec/05 Table 5-1, lea g6, g0, g5, 2. -/
theorem test_decode_lea : decodeTableWord 32 0x8FB02802 = some (.lea 6 0 5 2) := by rfl
/-- spec/05, ldl.s32 g6, [g6+0x40]. -/
theorem test_decode_ldl_s32 : decodeTableWord 32 0x98335040 = some (.ldl 6 6 2 1 0 0x40) := by rfl
/-- spec/05. -/
theorem test_decode_addi : decodeTableWord 32 0x900A8001 = some (.addi 1 5 1) := by rfl
/-- spec/05, addi g5, g0, -1. -/
theorem test_decode_addi_negative : decodeTableWord 32 0x90287FFF = some (.addi 5 0 0x7FFF) := by rfl
/-- spec/05, b.eq g6, g2. -/
theorem test_decode_b_eq : decodeTableWord 32 0xA3B10011 = some (.bEq 6 2 0x11) := by rfl
/-- spec/05. -/
theorem test_decode_slt_s64 : decodeTableWord 32 0x8B431000 = some (.sltS64 8 6 2) := by rfl
/-- spec/05, b.z.n g8. -/
theorem test_decode_b_z_n : decodeTableWord 32 0xA0C10008 = some (.bN 8 1 8) := by rfl
/-- spec/05, DISP -14. -/
theorem test_decode_b_lt_s64 : decodeTableWord 32 0xA49A7FF2 = some (.bLtS64 3 4 0x7FF2) := by rfl
/-- spec/05, addi g7, g7, 1. -/
theorem test_decode_addi_compact : decodeTableWord 16 0x1B81 = some (.addiCompact 7 1) := by rfl
/-- spec/05, mov g4, g5. -/
theorem test_decode_mov_compact : decodeTableWord 16 0x0650 = some (.addCompact 4 5 0) := by rfl
/-- spec/05. -/
theorem test_decode_shri_compact : decodeTableWord 16 0x2281 = some (.shriCompact 5 1) := by rfl
/-- spec/05. -/
theorem test_decode_b_compact : decodeTableWord 16 0x3C15 = some (.bCompact 0x15) := by rfl
/-- spec/05, stl.n64 g7, [g0+8]. -/
theorem test_decode_stl_compact : decodeTableWord 16 0x3381 = some (.stlCompact 7 0 1) := by rfl
/-- spec/05. -/
theorem test_decode_xend_compact : decodeTableWord 16 0x7800 = some (.xendCompact) := by rfl
/-- spec/06. -/
theorem test_decode_xret_compact : decodeTableWord 16 0x7C00 = some (.xretCompact) := by rfl
/-- spec/19 Table 19-2, vfmul.f32 w1, w1, w2. -/
theorem test_decode_vfmul_compact : decodeTableWord 16 0x6C94 = some (.vfmulF32Compact 1 1 2 0) := by rfl
/-- spec/12. -/
theorem test_decode_brk_compact : decodeTableWord 16 0x0000 = some (.brkCompact 0) := by rfl
/-- spec/07. -/
theorem test_decode_movw : decodeTableWord 32 0x97080104 = some (.movw 1 0 0x104) := by rfl
/-- spec/07, movk g1, 1, 2. -/
theorem test_decode_movk : decodeTableWord 32 0x978C0001 = some (.movk 1 2 1) := by rfl
/-- spec/06. -/
theorem test_decode_cx_home : decodeTableWord 32 0xA8800931 = some (.cx 0x12 3 1) := by rfl
/-- spec/07, jx pong, p2 with pong = 2. -/
theorem test_decode_jx : decodeTableWord 32 0xA8000120 = some (.jx 2 2 0) := by rfl
/-- spec/06. -/
theorem test_decode_xret_p2 : decodeTableWord 32 0xA9800020 = some (.xret 2 0) := by rfl
/-- spec/07. -/
theorem test_decode_recvnb : decodeTableWord 32 0xAC192000 = some (.recvnb 3 2 4) := by rfl
/-- spec/07. -/
theorem test_decode_evbind : decodeTableWord 32 0xAE989000 = some (.evbind 3 1 2) := by rfl
/-- spec/07, rrepl g1, ping with ping = 1. -/
theorem test_decode_rrepl : decodeTableWord 32 0xAE000090 = some (.rrepl 1 1) := by rfl
/-- spec/07. -/
theorem test_decode_nop : decodeTableWord 32 0xA7000000 = some (.nop) := by rfl
/-- spec/07, vcmplt.n64 p2, 0, w1. -/
theorem test_decode_vcmplt_n64 : decodeTableWord 32 0xBB002C01 = some (.vcmpltN 0 0 2 48 1) := by rfl
/-- spec/07, (p2) vsub.n64 w1, w1, 1. -/
theorem test_decode_vsub_guarded : decodeTableWord 32 0xB0A01071 = some (.vsub 2 0 1 1 49) := by rfl
/-- spec/07, vmov w5, 1. -/
theorem test_decode_vmov : decodeTableWord 32 0xBD805C40 = some (.vmov 0 5 49) := by rfl
/-- spec/09, vredi.add g2, w2. -/
theorem test_decode_vredi : decodeTableWord 32 0xBE802080 = some (.vredi 0 2 2 0) := by rfl
/-- spec/13, vgext w1, g5. -/
theorem test_decode_vgext : decodeTableWord 32 0xBF801140 = some (.vgext 0 1 5) := by rfl
/-- spec/19, vcvtf.f32.s64.rne w1, w1. -/
theorem test_decode_vcvtf : decodeTableWord 32 0xCD801048 = some (.vcvtf 0 0 1 1 1 0) := by rfl
/-- spec/09, vbadd.mxe2m1 w8, w12, w16. -/
theorem test_decode_vbadd : decodeTableWord 32 0xD0009310 = some (.vbadd 0 0 2 1 3 4) := by rfl
/-- spec/10, vld.s32 w5, [w7+8]. -/
theorem test_decode_vld : decodeTableWord 32 0xD90851E2 = some (.vld 0 2 5 7 1 2) := by rfl
/-- spec/10. -/
theorem test_decode_vst : decodeTableWord 32 0xD98C40C0 = some (.vst 0 3 4 3 0) := by rfl
/-- spec/10, amo.add.n64 g3, [g4], g5. -/
theorem test_decode_amo : decodeTableWord 32 0xE01A2B01 = some (.amo 3 4 5 3 1) := by rfl
/-- spec/15. -/
theorem test_decode_amocas : decodeTableWord 32 0xE09A2B00 = some (.amocas 3 4 5 3) := by rfl
/-- spec/18, sop.add.reduce.f32 g3, [g4], g5. -/
theorem test_decode_sop : decodeTableWord 32 0xE19A2B20 = some (.sop 3 4 5 3 0x20) := by rfl
/-- spec/10, fput [g6], g7. -/
theorem test_decode_fput : decodeTableWord 32 0xE2833800 = some (.fput 6 7) := by rfl
/-- spec/19. -/
theorem test_decode_ftake : decodeTableWord 32 0xE3CD8000 = some (.ftake 9 11) := by rfl
/-- spec/10, bararr b1, g2, g3. -/
theorem test_decode_bararr : decodeTableWord 32 0xF0919000 = some (.bararr 2 3 1) := by rfl
/-- spec/13, barbind.cr b1, g4, g2. -/
theorem test_decode_barbind_cr : decodeTableWord 32 0xF0211000 = some (.barbind 4 2 1 0) := by rfl
/-- spec/13. -/
theorem test_decode_barwaitnb : decodeTableWord 32 0xF1849000 = some (.barwaitnb 0 9 1) := by rfl
/-- spec/15. -/
theorem test_decode_fence_rel_cl : decodeTableWord 32 0xF2000012 = some (.fenceRel 2) := by rfl
/-- spec/15. -/
theorem test_decode_fence_acq_cl : decodeTableWord 32 0xF200000A = some (.fenceAcq 2) := by rfl
/-- spec/13. -/
theorem test_decode_tlwait : decodeTableWord 32 0xF2AB0000 = some (.tlwait 5 6) := by rfl
/-- spec/13. -/
theorem test_decode_tladd : decodeTableWord 32 0xF3AA0000 = some (.tladd 5 4) := by rfl
/-- spec/15, ld.acq.cl.n64 g5, [g4]. -/
theorem test_decode_ld_acq : decodeTableWord 32 0x9A2A6200 = some (.ldAcq 5 4 3 0 2) := by rfl
/-- spec/15. -/
theorem test_decode_st_rel : decodeTableWord 32 0x9AB26200 = some (.stRel 6 4 3 2) := by rfl
/-- spec/13. -/
theorem test_decode_xlq : decodeTableWord 32 0x9E66E000 = some (.xlq 12 13 0 0) := by rfl
/-- spec/11, ccopy cq1, tm0, tm2, g4, g5, b3. -/
theorem test_decode_ccopy : decodeTableWord 32 0xE8228435 = some (.ccopy 4 5 0 2 0 3 1 1) := by rfl
/-- spec/11. -/
theorem test_decode_mcmd : decodeTableWord 32 0xE9200000 = some (.mcmd 4) := by rfl
/-- spec/13. -/
theorem test_decode_mgang : decodeTableWord 32 0xE9880000 = some (.mgang 1) := by rfl
/-- spec/13. -/
theorem test_decode_mresume : decodeTableWord 32 0xEA000000 = some (.mresume) := by rfl
/-- spec/13. -/
theorem test_decode_mstat : decodeTableWord 32 0xEBD00000 = some (.mstat 10) := by rfl
/-- spec/13, tmset g2, tm1, g1. -/
theorem test_decode_tmset : decodeTableWord 32 0xEC891000 = some (.tmset 1 2 1) := by rfl
/-- spec/13, rgset g2, rg0, g1. -/
theorem test_decode_rgset : decodeTableWord 32 0xED890000 = some (.rgset 1 2 0) := by rfl
/-- spec/11, rgpush g3, rg0, g2. -/
theorem test_decode_rgpush : decodeTableWord 32 0xEE918000 = some (.rgpush 2 3 0) := by rfl
/-- spec/11. -/
theorem test_decode_cwait : decodeTableWord 32 0xEF800011 = some (.cwait 0b10001) := by rfl
/-- spec/18, ckgen.f32 [w6], 3. -/
theorem test_decode_ckgen : decodeTableWord 32 0xF400A1B3 = some (.ckgen 0 10 6 51) := by rfl
/-- spec/18, ckver.f32 p3, [w6]. -/
theorem test_decode_ckver : decodeTableWord 32 0xF480318A = some (.ckver 0 3 6 10) := by rfl
/-- spec/18. -/
theorem test_decode_ckfold : decodeTableWord 32 0xF500A187 = some (.ckfold 0 10 6 7) := by rfl
/-- spec/20. -/
theorem test_decode_dqput_cons : decodeTableWord 32 0xF59A2801 = some (.dqput 3 4 5 1) := by rfl
/-- spec/20. -/
theorem test_decode_dxlook_k : decodeTableWord 32 0xF644D001 = some (.dxlook 8 9 10 0 1) := by rfl
/-- spec/20. -/
theorem test_decode_dxseal : decodeTableWord 32 0xF70B3800 = some (.dxseal 1 6 7) := by rfl
/-- spec/20. -/
theorem test_decode_dxquietnb : decodeTableWord 32 0xF7933801 = some (.dxquietnb 2 6 7) := by rfl
/-- spec/12, sget g3, TRAP_CAUSE. -/
theorem test_decode_sget : decodeTableWord 32 0xF8180980 = some (.sget 3 0x13) := by rfl
/-- spec/12. -/
theorem test_decode_tret : decodeTableWord 32 0xFA000000 = some (.tret) := by rfl
/-- spec/12. -/
theorem test_decode_pcall : decodeTableWord 32 0xF9920080 = some (.pcall 2 4 1) := by rfl
/-- spec/12. -/
theorem test_decode_xlinv : decodeTableWord 32 0xFB828280 = some (.xlinv 5 5) := by rfl
/-- spec/12. -/
theorem test_decode_xlinv_lg : decodeTableWord 32 0xFB828680 = some (.xlinvLg 5 5) := by rfl
/-- spec/12. -/
theorem test_decode_brk : decodeTableWord 32 0xFA800000 = some (.brk 0) := by rfl
/-- spec/23. -/
theorem test_decode_wpset : decodeTableWord 32 0xFB118480 = some (.wpset 2 3 1 1) := by rfl
/-- spec/23. -/
theorem test_decode_sstep_ln : decodeTableWord 32 0xFF820080 = some (.sstepLn 4) := by rfl
/-- spec/23. -/
theorem test_decode_halt : decodeTableWord 32 0xFF000000 = some (.halt) := by rfl

/-- spec/03: A = 40 names nothing (R83), the word of `vfma` above with another A field. -/
theorem test_decode_refused : decodeTableWord 32 0xC3A49A33 = none := by rfl
/-- Table 3-8: that word breaks subcode 2; a field that a row does not use breaks subcode 1. -/
theorem test_decode_subcodes : decode32 0xC3A49A33 = .error 2 ∧ decode32 0x801A2801 = .error 1 := ⟨by rfl, by rfl⟩

/-- spec/10 R245, spec/03 R83 with R84: a destination without `.old`, a quad field that names nothing. -/
theorem test_decode_more_subcodes : illegal (.dcset 1 2 3 0) = some 1 ∧ decode32 0xD06A3941 = .error 2 := ⟨by decide, by rfl⟩

/-! ### What WellFormed refuses: one term for each check -/

theorem test_refuses_lane_source : illegal (.vadd 0 0 1 37 2) = some 2 := by decide
theorem test_refuses_lane_destination : illegal (.vadd 0 0 48 1 2) = some 3 := by decide
theorem test_refuses_predicate : illegal (.vcmpeq 0 0 8 1 2) = some 4 := by decide
theorem test_refuses_address_register : illegal (.vld 0 0 1 32 0 0) = some 5 := by decide
theorem test_refuses_index_offset : illegal (.ld 1 2 0 0 1 1) = some 1 := by decide
theorem test_refuses_sign_of_word : illegal (.ldl 1 2 3 1 0 0) = some 4 := by decide
theorem test_refuses_scope : illegal (.ldAcq 1 2 0 0 6) = some 4 := by decide
theorem test_refuses_odd_pair : illegal (.ldlPr 3 1 0 0) = some 5 := by decide
theorem test_refuses_condition_predicate : illegal (.b 8 5 0) = some 5 := by decide
theorem test_refuses_reduction_code : illegal (.vredi 0 1 2 48) = some 4 := by decide
theorem test_refuses_conversion_format : illegal (.vcvt 0 0 1 2 6 0) = some 4 := by decide
theorem test_refuses_dot_mode : illegal (.vdot8 0 3 1 2 3) = some 4 := by decide
theorem test_refuses_tree_operation : illegal (.vfred 0 0 1 2 3 0) = some 4 := by decide
theorem test_refuses_block_format : illegal (.vbadd 0 1 0 2 0 0) = some 4 := by decide
theorem test_refuses_block_half : illegal (.vbunpack 0 0 0 0 0 2) = some 4 := by decide
theorem test_refuses_operation : illegal (.amo 1 2 3 3 0) = some 4 := by decide
theorem test_refuses_operation_size : illegal (.amo 1 2 3 1 1) = some 4 := by decide
theorem test_refuses_compare_size : illegal (.amocas 1 2 3 1) = some 4 := by decide
theorem test_refuses_stream_number : illegal (.ccopy 1 0 0 0 0 4 2 0) = some 4 := by decide
theorem test_refuses_stream_destination : illegal (.ccopy 1 1 0 0 0 0 2 0) = some 1 := by decide
theorem test_refuses_drain_barrier : illegal (.mdrain 1 2 0 1 0) = some 1 := by decide
theorem test_refuses_fence_scope : illegal (.fence 7) = some 4 := by decide
theorem test_refuses_chunk_format : illegal (.ckgen 0 0 1 2) = some 4 := by decide
theorem test_refuses_special_register : illegal (.sget 1 0x19) = some 4 := by decide
theorem test_refuses_watchpoint_number : illegal (.wpset 1 2 0 4) = some 1 := by decide
theorem test_refuses_injection : illegal (.inj 1 2 4) = some 4 := by decide
theorem test_accepts_boundaries : illegal (.vadd 0 0 36 36 63) = none ∧ illegal (.ldAcq 1 2 3 0 5) = none ∧
    illegal (.b 7 5 0) = none ∧ illegal (.sget 1 0x18) = none ∧ illegal (.fence 6) = none := by decide

/-! ### One step -/

/-- One gang of one lane at level 0 of core 0, at offset 0 of a routine of 8 halfwords. -/
def m0 : State := State.reset.withFetchWord 32 0
/-- A partition of the first cluster of package 0 with 4,096 frames of HBM, its anchors in a slice and its notice queue at 2^16. -/
def part0 : Partition :=
  { area := [⟨0, 0, 0, 2, 4⟩], frames := [(0, 4096)], ways := [], sysCores := [1], fabric := 9, retIdle := 4096, contain := [], owner := 0,
    image := some 0, noticeBase := 65536, anchors := 2 ^ 36 }
/-- The machine with that partition, of which the context is. -/
def parted : State := { m0 with sup := { m0.sup with partitions := [(0, part0)] } }
/-- The state after an instruction. -/
def after (i : Instr) (s : State) : State :=
  match exec i s with
  | .next t => t
  | _ => s
/-- The acting gang's registers set. -/
def regs (s : State) (rs : List (Nat × Word)) : State := s.modGang fun g => { g with g := rs }
/-- The lane's registers set. -/
def lane (s : State) (rs : List (Nat × Word)) : State := s.modGang fun g => { g with lanes := [{ regs := rs }] }
/-- The acting core at level 1, its gang interrupted. -/
def level1 : State := m0.modMe fun k => { k with priv := 1, owner := .gang 0, xpc0 := 5, xpc1 := 6, xpc2 := 7 }
/-- Local memory of the acting core with words written at an offset. -/
def words (s : State) (off : Nat) (ws : List Word) : State :=
  s.modMe fun k => { k with mem := k.mem.writes (ws.mapIdx fun i w => ⟨off + 8 * i, 8, w, false⟩) }

/-- spec/04 R96: sums wrap modulo 2^64. -/
theorem test_add_wraps : (after (.add 3 4 5) (regs m0 [(4, 0xFFFFFFFFFFFFFFFF), (5, 2)])).readG 3 = 1 := by decide +kernel
/-- Table 4-2: `sub` takes B from A. -/
theorem test_sub_order : (after (.sub 3 4 5) (regs m0 [(4, 5), (5, 7)])).readG 3 = 0xFFFFFFFFFFFFFFFE := by decide +kernel
/-- R101: a zero divisor, and -2^63 by -1. -/
theorem test_div_zero : (after (.divS64 3 4 5) (regs m0 [(4, 9)])).readG 3 = 0xFFFFFFFFFFFFFFFF ∧
    (after (.remS64 3 4 5) (regs m0 [(4, 9)])).readG 3 = 9 := by decide +kernel
theorem test_div_overflow : (after (.divS64 3 4 5) (regs m0 [(4, 0x8000000000000000), (5, 0xFFFFFFFFFFFFFFFF)])).readG 3 =
    0x8000000000000000 := by decide +kernel
/-- R101: the remainder has the sign of the dividend: -7 by 2 leaves -1. -/
theorem test_rem_sign : (after (.remS64 3 4 5) (regs m0 [(4, 0xFFFFFFFFFFFFFFF9), (5, 2)])).readG 3 = 0xFFFFFFFFFFFFFFFF := by
  decide +kernel
/-- R97: a write to `g0` is discarded. -/
theorem test_g0 : (after (.addi 0 4 1) (regs m0 [(4, 1)])).readG 0 = 0 := by decide +kernel
/-- spec/04, the address 0x8001_2800_0000_0100 built by `movw` and two `movk`. -/
theorem test_movw_movk : (after (.movk 1 3 0x8001) (after (.movk 1 2 0x2800) (after (.movw 1 0 0x100) m0))).readG 1 =
    0x8001280000000100 := by decide +kernel
/-- spec/04, routine `demo`: the target of a taken branch enters the queue behind both slots. -/
theorem test_branch_queue : let t := after (.bCompact 3) m0
    t.gang.q0 = 0x10002 ∧ t.gang.q2 = 0x10003 := by decide +kernel
/-- R115: a nullifying branch that is not taken annuls both slots. -/
theorem test_nullify : let t := after (.bN 4 1 2) (regs m0 [(4, 1)])
    t.gang.ann0 = true ∧ t.gang.ann1 = true := by decide +kernel
/-- spec/04: `loop g0` reads 0, computes -1 and is taken. -/
theorem test_loop_g0 : (after (.loop 0 3) m0).gang.q2 = 0x10003 := by decide +kernel
/-- R105: `ldl.s32` sign-extends, at the last word of local memory. -/
theorem test_ldl_sign : (after (.ldl 3 4 2 1 0 0) (regs (words m0 0x17FF8 [0x80000000_00000000]) [(4, 0x17FFC)])).readG 3 =
    0xFFFFFFFF80000000 := by decide +kernel
/-- Little-endian stores (spec/00 R4): the low byte at the lowest address. -/
theorem test_stl_bytes : let t := after (.stl 3 4 1 0 0) (regs m0 [(3, 0x1234), (4, 0x100)])
    t.me.mem.byte 0x100 = 0x34 ∧ t.me.mem.byte 0x101 = 0x12 ∧ t.me.mem.byte 0x102 = 0 := by decide +kernel
/-- R31: a lane destination and `lt` take the same value; R204: elements do not carry into each other. -/
theorem test_vadd_elements : let t := after (.vadd 0 3 1 2 3) (lane m0 [(2, 0xFF), (3, 0x101)])
    (t.gang.lane 0).read 1 = 0x100 ∧ (t.gang.lane 0).read 36 = 0x100 := by decide +kernel
/-- Table 8-1: 1.0 plus 2^-24 in binary32 ties to even. -/
theorem test_vfadd_tie : ((after (.vfaddF32 0 0 1 2 3) (lane m0 [(2, 0x3F800000), (3, 0x33800000)])).gang.lane 0).read 1 %
    0x100000000 = 0x3F800000 := by decide +kernel
/-- spec/08 R200: one BF16 k-step rounds once: 1 + (2^-24 + 2^-30) gives 0x3F80_0001. -/
theorem test_kstep : roundFloat .f32 .rne 0 ((decodeFloat .f32 0x3F800000).add
    (((decodeFloat .bf16 0x3980).mul (decodeFloat .bf16 0x3980)).add ((decodeFloat .bf16 0x3800).mul (decodeFloat .bf16 0x3800)))) =
    0x3F800001 := by decide +kernel
/-- spec/08 R201: its drain with both scales 1.5, to BF16 and to binary32. -/
theorem test_drain : let x := ((decodeFloat .f32 0x3FC00000).mul (decodeFloat .f32 0x3FC00000)).mul (decodeFloat .f32 0x3F800001)
    roundFloat .bf16 .rne 0 x = 0x4010 ∧ roundFloat .f32 .rne 0 x = 0x40100001 := by decide +kernel
/-- spec/18, a flipped bit: 64 binary32 values 0, 0.25, 0.5, 0.75 have RESIDUE 0x0C38_003C and VSUM 24. -/
theorem test_residue : let img := makeImage 10 0 false ((List.replicate 16 [0, 0x3E800000, 0x3F000000, 0x3F400000]).flatten.flatMap
      fun v => bytesOf v 4)
    imageAt img 0 4 = 0x0C38003C ∧ chunkVsum img = 0x4038000000000000 := by decide +kernel
/-- spec/20: in a table of CAPLOG 4, keys 1 and 2 hash to entries 9 and 3. -/
theorem test_hash : arrangeHash 1 4 = 9 ∧ arrangeHash 2 4 = 3 := by decide +kernel
/-- R296: `tret` reloads the queue and returns to level 0. -/
theorem test_tret : let t := after .tret level1
    t.gang.q0 = 5 ∧ t.gang.q2 = 7 ∧ t.me.priv = 0 := by decide +kernel
/-- R299: `halt` at level 0 is privileged: cause 0x02, level 1, at the trap routine. -/
theorem test_privileged : let t := after .halt m0
    t.me.priv = 1 ∧ t.me.trapCause = 0x0200 ∧ t.gang.q0 = 0xFFFF0000 ∧ t.me.xpc0 = 0x10000 := by decide +kernel
/-- Table 12-1: an access outside local memory is cause 0x04 with the offset. -/
theorem test_outside : let t := after (.ldl 3 4 3 0 0 0) (regs m0 [(4, 0x18000)])
    t.me.trapCause = 0x0400 ∧ t.me.trapInfo = 0x18000 := by decide +kernel
/-- R302: `cldw` reads the interrupted gang's register into the trap bank. -/
theorem test_cldw : let t := after (.cldw 2 5) (regs level1 [(5, 77)])
    t.readG 2 = 77 ∧ mget 0 t.me.trapBank 2 = 77 := by decide +kernel
/-- R466: poison consumed stops the core and tells the supervisor the register. -/
theorem test_poison : let t := after (.add 3 4 5) (m0.modGang fun g => { g with gPoison := 0x20 })
    t.me.stopped = true ∧ t.sup.told = [(1, 0, 5)] := by decide +kernel
/-- The state after a step. -/
noncomputable def stepped (s : State) : State :=
  match step s with
  | .next t => t
  | _ => s
/-- A step fetches what stands at Q0, and the cycle passes: `addi g3, g0, -1`. -/
theorem test_step : let t := stepped (State.reset.withFetchWord 32 0x90187FFF)
    t.readG 3 = 0xFFFFFFFFFFFFFFFF ∧ t.clock = 1 ∧ t.me.retired = 1 := by decide +kernel
/-- R79: a compact instruction is one halfword long: `addi g3, 1` at offset 0 leaves Q0 at 1. -/
theorem test_step_compact : let t := stepped (State.reset.withFetchWord 16 0x1981)
    t.readG 3 = 1 ∧ t.gang.q0 = 0x10001 := by decide +kernel

/-! ### Witnesses: the hypotheses of every statement are met -/

/-- In `m0` every gang register awaits nothing and carries no poison, whatever the operands: the hypotheses of the gang
register forms. -/
theorem witness_ready (uses all : List (BitVec 4)) : Ready m0 uses all := by
  constructor
  · intro n _
    show (if n.toNat = 0 then false else if m0.me.priv = 1 then _ else (0 : BitVec 16).getLsbD n.toNat) = false
    rw [if_neg (show ¬m0.me.priv = 1 by decide +kernel)]; simp
  · intro n _
    show (if n.toNat = 0 then false else if m0.me.priv = 1 then _ else (0 : BitVec 16).getLsbD n.toNat) = false
    rw [if_neg (show ¬m0.me.priv = 1 by decide +kernel)]; simp
/-- A register write in a gang keeps it so, and so does a write of local memory. -/
theorem witness_ready_regs (rs : List (Nat × Word)) (uses all : List (BitVec 4)) : Ready (regs m0 rs) uses all := by
  have hp : (regs m0 rs).me.priv = 0 := rfl
  constructor
  all_goals
    intro n _
    show (if n.toNat = 0 then false else if (regs m0 rs).me.priv = 1 then _ else (0 : BitVec 16).getLsbD n.toNat) = false
    rw [if_neg (show ¬(regs m0 rs).me.priv = 1 by rw [hp]; decide)]; simp
/-- In `m0` every lane operand is ready, whatever the guard and the operands: the hypotheses of the lane forms; the guard
`p0` selects its lane, the others none. -/
theorem witness_lanes (p : BitVec 3) (is uses all : List Nat) : LanesReady m0 p is uses all := by
  have hl : ∀ i, (m0.gang.lane i).pend = 0 ∧ (m0.gang.lane i).poison = 0 := by
    intro i
    cases i with
    | zero => exact ⟨rfl, rfl⟩
    | succ i => exact ⟨rfl, rfl⟩
  refine ⟨fun i _ n _ => ?_, ?_, fun i _ n _ => ?_⟩
  · simp [Lane.pending, (hl i).1]
  · have : m0.gang.lanes = [{}] := rfl
    simp [Gang.guardPoison, this]
  · simp [Lane.bad, (hl i).2]
theorem witness_guards : m0.gang.guard 0 = [0] ∧ m0.gang.guard 1 = [] ∧ m0.gang.active = [0] := by decide +kernel
/-- `m0` is unstepped and fresh, and an access may go ahead in it. -/
theorem witness_m0 : Unstepped m0 ∧ Fresh m0 ∧ m0.me.xfer = none ∧ m0.me.drained = true ∧ m0.gang.kind = .carry ∧ m0.me.priv = 0 :=
  ⟨⟨rfl, rfl⟩, rfl, rfl, by decide +kernel, rfl, rfl⟩
theorem witness_open : Open m0 := by and_intros <;> decide +kernel
/-- BranchesAndCallsComplete: condition 1 (zero) holds of `g0` and 2 does not; targets at the first and the last halfword of
the routine; a predicate condition (5) on `p0`. -/
theorem witness_branches : CondReady m0 0 1 ∧ CondReady m0 0 2 ∧ CondReady m0 0 5 ∧
    condition 1 (m0.readG 0) m0.gang 0 = true ∧ condition 2 (m0.readG 0) m0.gang 0 = false ∧
    InRoutine m0 0 ∧ InRoutine m0 7 ∧ (7 : Int) = (offsetOf m0.gang.q0 : Int) + (7 : BitVec 16).toInt :=
  by
  have c : ∀ n, CondReady m0 0 n ↔ m0.condPoison n 0 = false := fun n => by simp [CondReady, witness_ready]
  simp only [c]; and_intros <;> decide +kernel
/-- JumpsLoopsComparesComplete: `ret` to the last halfword, `jr` and `callr` to it, `loop` with a counter of 1 and of 0. -/
theorem witness_jumps : let s := regs m0 [(1, 0x10007), (2, 7), (3, 1)]
    Ready s [1] [1] ∧ s.readG 1 = w64 (routineOf s.gang.q0 * 65536 + 7) ∧ 7 < s.me.lengthOf s.gang.q0 ∧
    InRoutine s ((s.readG 2 + s.readG 0).toNat : Int) ∧ InRoutine s ((s.readG 2).toNat : Int) ∧
    s.readG 3 - 1 = 0 ∧ s.readG 0 - 1 ≠ 0 ∧ s.readG 0 = s.readG 4 ∧ s.readG 1 ≠ s.readG 2 :=
  ⟨witness_ready_regs _ _ _, by and_intros <;> decide +kernel⟩
/-- LocalGangAccessesComplete: the last bytes of local memory at each size. -/
theorem witness_local_access : let s := regs m0 [(1, 0x17FF8), (2, 0x17FFF), (3, 0x17FF0), (4, 0x17FC0)]
    s.me.acquiring = false ∧ s.me.fenced = false ∧
    (s.eaM 1 0 0).toNat < 0x18000 ∧ (s.eaM 1 0 0).toNat % 2 ^ (3 : BitVec 2).toNat = 0 ∧
    (s.eaM 2 0 0).toNat < 0x18000 ∧ (s.eaM 2 0 0).toNat % 2 ^ (0 : BitVec 2).toNat = 0 ∧
    (s.eaM 3 0 0).toNat < 0x18000 ∧ (s.eaM 3 0 0).toNat % 16 = 0 ∧
    (s.eaM 4 0 0).toNat < 0x18000 ∧ (s.eaM 4 0 0).toNat % 64 = 0 ∧ (s.eaM 1 1 0).toNat = 0x17FF8 ∧
    s.watch true (s.seenLocal (s.eaM 1 0 0) 8 false) = [] := by decide +kernel

/-- Page 1 of the partition mapped to frame 2^20, readable and writable, in the core's buffer; page 2 known unmapped. -/
def mapped (s : State) : State :=
  (s.modMe fun k => { k with tlb := [⟨1, 2 ^ 20, false, true, true⟩] }).modGang fun g => { g with missed := [2] }
/-- GlobalGangAccessesComplete: a global address and a core-space address at the end of local memory pass their checks as
loads and as stores; `xlq` and `chka` on addresses of a bad form, of core space, mapped and unmapped. -/
theorem witness_global_access : let s := mapped m0
    Open s ∧ Reaches (.core 0 0x17FF8) ∧ Reaches (.phys (2 ^ 36 + 0xFFF8) ⟨1, 2 ^ 20, false, true, true⟩) ∧
    s.check (coreAddr 0 0x17FF8) 8 8 false 0 = .core 0 0x17FF8 ∧ s.check (coreAddr 0 0x17FF8) 8 8 true 1 = .core 0 0x17FF8 ∧
    s.check 0x1FFF8 8 8 false 0 = .phys (2 ^ 36 + 0xFFF8) ⟨1, 2 ^ 20, false, true, true⟩ ∧
    s.check 0x1FFC0 64 64 true 1 = .phys (2 ^ 36 + 0xFFC0) ⟨1, 2 ^ 20, false, true, true⟩ ∧ s.me.drained = true ∧
    badForm 0x0200000000000000 = true ∧ badForm 0x1FFF8 = false ∧ inCoreSpace (coreAddr 0 8) = true ∧
    s.sees (coreOf (coreAddr 0 8)) = true ∧ inCoreSpace 0x1FFF8 = false ∧
    s.translate s.cur s.gang 0x1FFF8 (fun e => e.rd || e.wr) 0 = .phys (2 ^ 36 + 0xFFF8) ⟨1, 2 ^ 20, false, true, true⟩ ∧
    s.translate s.cur s.gang 0x20000 (fun _ => true) 0 = .fault ∧ s.check 0x20000 8 8 false 0 ≠ .walk :=
  ⟨by and_intros <;> decide +kernel, .inl ⟨_, _, rfl⟩, .inr ⟨_, _, rfl⟩, by and_intros <;> decide +kernel⟩
/-- The request queue of a core that has sent nothing has room. -/
theorem witness_queued : (mapped m0).me.sendReq.length + (mapped m0).heldBy (.core (mapped m0).cur) < 8 ∧
    m0.me.sendReq.length + m0.heldBy (.core m0.cur) < 8 := by decide +kernel
/-- LaneMovesComplete: `vbcast` finds the lane of `p0`, and none under `p1`. -/
theorem witness_lane_moves : (List.range m0.gang.lanes.length).find? (m0.gang.guards 0) = some 0 ∧
    (List.range m0.gang.lanes.length).find? (m0.gang.guards 1) = none ∧ m0.gang.guardPoison 1 = false ∧
    m0.me.pendG 15 = false ∧ (m0.gang.lane 0).pending 36 = false := by decide +kernel

/-- A channel of a kind that is bound to routine 1, with 8 slots and FIRE 1. -/
def chan (kind : Nat) : Channel := { word0 := w64 (2 ^ 48 + kind * 2 ^ 30 + 8 * 2 ^ 20 + 1024), enable := true, state := 1 }
/-- Channel 5 holds a message of one word. -/
def withMessage (s : State) : State := s.modMe fun k =>
  { k.setChannel 5 (chan 1) with arrivals := [⟨{ src := .core 0, id := 1, dst := 0, ch := 5, slots := 1, body := .data [⟨7, false⟩] }⟩] }
/-- The request queue of the acting core full. -/
def fullQueue (s : State) : State :=
  s.modMe fun k => { k with sendReq := List.replicate 8 (s.sendMessage (channelWord 0 5) 0 1 false) }
/-- SendReceiveComplete: an image at the end of local memory, with room and with a full queue; a queue with a word, and one
without. -/
theorem witness_send_receive : let s := regs m0 [(1, channelWord 0 5), (2, 0x17FF8)]
    s.me.acquiring = false ∧ s.me.fenced = false ∧ channelWordOk (s.readG 1) = true ∧ s.sees (coreOf (s.readG 1)) = true ∧
    (s.readG 2).toNat % 8 = 0 ∧ (s.readG 2).toNat + 8 * ((0 : BitVec 3).toNat + 1) ≤ 0x18000 ∧
    (s.me.sendQueue 0).length + s.heldBy (.core s.cur) < 8 ∧ (s.me.sendQueue 1).length < 8 ∧
    8 ≤ ((fullQueue s).me.sendQueue 0).length + (fullQueue s).heldBy (.core s.cur) ∧
    (withMessage s).me.messageChannel 5 = true ∧ 5 = fieldOf (s.readG 1) 5 0 ∧
    ((withMessage s).takeWord s.cur 5).isSome = true ∧
    (let t := s.modMe (·.setChannel 5 (chan 1)); t.me.messageChannel 5 = true ∧ t.takeWord t.cur 5 = none) := by decide +kernel
/-- BindingsAndClaimsComplete: a valid entry for channel 5, an entry of an unplaced routine, `evbind` of counter 0x0101,
of a counter that is none, of a channel that is not for messages, with all eight bindings taken; `vclaim` of 1 and of 32 lanes. -/
theorem witness_bindings : let s := regs (words m0 0x17FF0 [(chan 1).word0, 1]) [(1, 5), (2, 0x17FF0), (3, 0x17FE0), (4, 32), (5, 1),
      (6, 0x0101 + 5 * 2 ^ 32)]
    let t := s.scanLocal s.cur 0x17FF0 16
    let c : Channel := { word0 := w64 (t.me.mem.load 0x17FF0 8) }
    fieldOf (s.readG 1) 63 6 = 0 ∧ (s.readG 2).toNat % 16 = 0 ∧ (s.readG 2).toNat < 0x18000 ∧ s.me.acquiring = false ∧
    t.me.mem.poisoned 0x17FF0 16 = false ∧ t.me.bindStatus 5 c = 0 ∧ (t.me.channel 5).state ≠ 2 ∧
    t.me.bindStatus 5 { word0 := 2 ^ 49 } ≠ 0 ∧
    fieldOf (s.readG 6) 31 0 = 0x0101 ∧ fieldOf (s.readG 6) 37 32 = 5 ∧ counterKnown 0x0101 s.me.priv.toNat = true ∧
    (withMessage s).me.messageChannel 5 = true ∧ s.me.bindings.length < 8 ∧
    (s.modMe fun k => { k with bindings := [⟨0x0101, 5, 0, false, none⟩] }).me.bindings.any (·.sel = 0x0101) = true ∧
    counterKnown 0 s.me.priv.toNat = false ∧ s.me.messageChannel 5 = false ∧
    (let k := (withMessage m0).modMe fun k => { k with bindings := (List.range 8).map fun i => ⟨0x0102 + i, 5, 0, false, none⟩ }
     8 ≤ k.me.bindings.length ∧ k.me.bindings.any (·.sel = 0x0101) = false ∧ k.me.messageChannel 5 = true) ∧
    1 ≤ (s.readG 5).toNat ∧ (s.readG 4).toNat ≤ 32 := by decide +kernel
/-- A directory entry of routine 1, carrying nothing, on channel 5 of core 0. -/
def dir1 : DirEntry := { id := 1, length := 8, carry := 0, channel := 5, eligible := 0, retiring := 0, places := [0], known := true }
/-- Page 0 of the partition in the page table, and routine 1 in the core's directory buffer. -/
def paged : State := (parted.mapPage 0 0).modMe fun k => { k with dir := [dir1] }
/-- LaunchSpawnReplicasComplete: a record of one strand of routine 1 at the end of local memory, and one of none, which is not
valid; a spawn that has finished and one of no lane; `rrepl` whose cores have all answered, and with a status. -/
theorem witness_launch : let s := regs (words paged 0x17FC0 [0x100000001]) [(1, 0x17FC0)]
    let img := s.me.mem.image 0x17FC0 64
    let t := s.scanLocal s.cur 0x17FC0 (recordLength img)
    let bad := (words paged 0x17FC0 [1]).me.mem.image 0x17FC0 64
    (s.readG 1).toNat % 64 = 0 ∧ (s.readG 1).toNat + recordLength img ≤ 0x18000 ∧ s.me.acquiring = false ∧
    t.me.mem.poisoned 0x17FC0 (recordLength img) = false ∧ imageAt img 0 2 ≠ 0 ∧ imageAt img 0 2 ≠ 0xFFFF ∧
    ((t.entry t.cur (imageAt img 0 2)).map (·.1)) = some dir1 ∧ launchValid img dir1 = true ∧ launchValid bad dir1 = false ∧
    imageAt bad 0 2 = 1 ∧ imageAt ((words paged 0x17FC0 [0]).me.mem.image 0x17FC0 64) 0 2 = 0 ∧ t.reachesCtx = true ∧
    (s.modGang fun g => { g with phase := .spawned 3 }).gang.phase = .spawned 3 ∧ s.me.outbox.any (·.slot = s.me.slot) = false ∧
    s.gang.guardPoison 1 = false ∧ s.gang.guard 1 = [] ∧
    (s.modGang fun g => { g with phase := .acks (dirTag 1) 0 0 }).gang.phase = .acks (dirTag 1) 0 0 ∧
    s.ctx.rrepling = none ∧ (s.readDir 1).isSome = true ∧
    s.replStatus ((s.readDir 1).getD dir1) 0 ≠ 0 ∧ s.retStatus ((s.readDir 1).getD dir1) 0 ≠ 0 ∧ s.gang.phase = .none := by
  decide +kernel
/-- LaunchSpawnReplicasComplete, the first part of a spawn: its routine is in the core's buffer and its lanes are ready. -/
theorem witness_spawn : let s := regs paged [(1, 0x10000)]
    let va := w64 (fieldOf (s.readG 1) 31 0)
    let t := (s.readEntries (routinesOf [va])).1
    s.gang.phase = .none ∧ s.gang.guardPoison 0 = false ∧ s.gang.guard 0 ≠ [] ∧ s.readEntries (routinesOf [va]) = (t, none) ∧
    t.checkSource va = none ∧ (t.cached (fieldOf va 31 16)).id = 1 ∧ (s.gang.lane 0).pend = 0 := by decide +kernel
/-- A context of two cores and the entry of routine 1 in its directory, on channel 5 of those of its cores that are named. -/
def directed (places : List Nat) : State :=
  let t := parted.mapPage 0 32
  let t : State := { t with ctx := { t.ctx with dirBase := 2 ^ 21, cores := [(0, 0, 0, 0), (1, 0, 0, 1)] } }
  t.writeV 0 (2 ^ 21 + 64) (bytesOf 1 2 ++ bytesOf 8 2 ++ bytesOf 0 4 ++ [5, BitVec.ofNat 8 places.length, 1, 0] ++ bytesOf 0 4 ++
    places.flatMap (bytesOf · 4) ++ bytesOf 0 (48 - 4 * places.length))
/-- LaunchSpawnReplicasComplete, the first part of `rrepl` to core 1 and of `rrepl.ret` there, and their statuses. -/
theorem witness_replicas : let s := regs (directed [0]) [(1, 1)]
    let d := regs (directed [0, 1]) [(1, 1)]
    s.gang.phase = .none ∧ s.ctx.rrepling = none ∧ s.reachesCtx = true ∧ (s.readDir 1).isSome = true ∧
    fieldOf (s.readG 1) 19 0 = 1 ∧ s.replStatus ((s.readDir 1).getD dir1) 1 = 0 ∧ d.retStatus ((d.readDir 1).getD dir1) 1 = 0 ∧
    d.replStatus ((d.readDir 1).getD dir1) 1 = 3 ∧ d.retStatus ((d.readDir 1).getD dir1) 0 = 7 := by decide +kernel
theorem witness_launch_open : Open ((words paged 0x17FC0 [0x100000001]).scanLocal 0 0x17FC0 0x38) :=
  by and_intros <;> decide +kernel
/-- LaneAccessesComplete: the last word of local memory, in global memory and in core space. -/
theorem witness_lane_access : let s := lane (mapped m0) [(2, 0x17FF8), (3, 0x1FFF8), (4, coreAddr 0 0x17FF8), (5, 0x17FE0)]
    let x (a : BitVec 6) (w : Bool) := lanePlain 0 0 1 a 0 w false
    s.me.acquiring = false ∧ s.me.fenced = false ∧ s.gang.guard 0 = [0] ∧
    (∀ j ∈ s.gang.guard 0, (x 2 false).local (s.gang.lane j) = none ∧ (x 2 true).local (s.gang.lane j) = none ∧
      (laneQuad 0 1 5 0 false).local (s.gang.lane j) = none) ∧
    s.gang.arrivedPending (s.gang.guard 0) = false ∧
    (∀ i ∈ s.gang.guard 0, ∀ q ∈ (x 3 true).pieces,
      s.checkPiece (x 3 true) (s.gang.lane i) q = .phys (2 ^ 36 + 0xFFF8) ⟨1, 2 ^ 20, false, true, true⟩) ∧
    (∀ i ∈ s.gang.guard 0, ∀ q ∈ (x 4 false).pieces, s.checkPiece (x 4 false) (s.gang.lane i) q = .core 0 0x17FF8) ∧
    s.me.loadRoom (min 32 (blockKeys (s.placePieces (x 3 false) (s.gang.guard 0))).length) = true ∧
    s.me.storeRoom (blockKeys (s.placePieces (x 3 true) (s.gang.guard 0))).length = true ∧ s.me.drained = true ∧
    (s.gang.lane 0).pending 2 = false := by decide +kernel
/-- StreamAndChunkFormsComplete: a stream with one element, an unbound one; an image at the end of local memory. -/
theorem witness_streams_chunks : let s := (lane m0 [(2, 0x17EF0), (3, 1), (4, 0x17DE0)]).modMe (·.setStream 1 { elems := [⟨7, false⟩], bound := some 2 })
    let f (skip : Nat) := (s.gang.guard 0).foldl (fun t i => [(2 : BitVec 6), 4].foldl (fun t a =>
      t.scanLocal s.cur (((s.gang.lane i).read a.toNat).toNat + skip) (272 - skip)) t) s
    let t := f 0
    s.gang.kind = .carry ∧ s.me.priv = 0 ∧ (s.gang.guard 0).length ≤ 16 ∧
    (s.me.stream 1).readers.takeWhile (· ≠ s.me.slot) = [] ∧ (s.gang.guard 0).length ≤ (s.me.stream 1).elems.length ∧
    (s.me.stream 0).bound = none ∧ s.gang.guard 0 = [0] ∧ s.gang.guard 1 = [] ∧ s.gang.guardPoison 0 = false ∧
    s.gang.guardPoison 1 = false ∧ s.me.acquiring = false ∧ s.me.fenced = false ∧
    (∀ i ∈ s.gang.guard 0, ∀ a ∈ [(2 : BitVec 6), 4], ((s.gang.lane i).read a.toNat).toNat % 16 = 0 ∧
      ((s.gang.lane i).read a.toNat).toNat + 272 ≤ 0x18000 ∧
      ∀ skip ∈ [0, 16], (f skip).me.mem.poisoned (((s.gang.lane i).read a.toNat).toNat + skip) (272 - skip) = false) ∧
    (t.foldLanes 10 2 4 (s.gang.guard 0)).2 = 32 ∧
    (t.foldLanes 10 2 4 (s.gang.guard 0)).1.me.records.any (fun o => t.nextTag ≤ o.seq) = false := by decide +kernel

/-- AtomicsComplete: a word at the end of a page and one of local memory in core space; a chunk at the end of its frame; the
image of a chain with each kind of successor. -/
theorem witness_atomics : let s := regs (words (mapped m0) 0x17F80 [0x1FFF8, 5, 0x301, 0, 0x1FFF8, 5, 0x103020301, 0x1FFF0,
      0x1FFF8, 5, 0x200000301, channelWord 0 5, 0x1FFF8, 5, 0x300000301, 0x17FF8]) [(1, 0x1FFF8), (2, 0x17FF8), (3, 0x1FEF0),
      (4, 0x17EF0), (5, 0x17F80)]
    let pa : Chk := .phys (2 ^ 36 + 0xFFF8) ⟨1, 2 ^ 20, false, true, true⟩
    let t := s.scanLocal s.cur 0x17F80 128
    let chain (n : Nat) := parseChain (t.me.mem.image (0x17F80 + 32 * n) 32)
    s.checkAtomic (s.readG 1) (2 ^ (3 : BitVec 2).toNat) true = pa ∧ s.checkAtomic (s.readG 1) 8 false = pa ∧
    s.checkAtomic (coreAddr 0 0x17FF8) 8 true = .core 0 0x17FF8 ∧ (1 : BitVec 8).toNat < 0x20 ∧
    (s.readG 2).toNat < 0x18000 ∧ (s.readG 2).toNat % 8 = 0 ∧ t.me.mem.poisoned (s.readG 2).toNat 8 = false ∧
    s.checkChunk (s.readG 3) = .phys (2 ^ 36 + 0xFEF0) ⟨1, 2 ^ 20, false, true, true⟩ ∧
    (s.readG 4).toNat + 272 ≤ 0x18000 ∧ (s.readG 4).toNat % 16 = 0 ∧ 0x20 ≤ (0x20 : BitVec 8).toNat ∧
    (s.readG 5).toNat % 32 = 0 ∧ t.me.mem.poisoned 0x17F80 128 = false ∧
    (∀ n < 4, (chain n).ok (t.me.mem.image (0x17F80 + 32 * n) 32) = true ∧ (chain n).kind = n ∧
      s.checkAtomic (chain n).addr (Machine.sizeOf (chain n).sz) false = pa) ∧
    s.checkAtomic (chain 1).dest (Machine.sizeOf (chain 1).sz2) false = .phys (2 ^ 36 + 0xFFF0) ⟨1, 2 ^ 20, false, true, true⟩ ∧
    channelWordOk (chain 2).dest = true ∧ s.sees (coreOf (chain 2).dest) = true ∧
    s.target (chain 3).dest 8 = .ok (0, 0x17FF8) := by decide +kernel
/-- FuturesAndCountersComplete: a future that a put finds empty and a take finds full, on the issuing core; a future and a
counter of core 1, at the last aligned offsets; the second part of a put. -/
theorem witness_futures : let s := regs m0 [(1, 0x17FF8), (2, coreAddr 1 0x17FF8), (3, coreAddr 1 0x17FE0)]
    let s : State := { s with ctx := { s.ctx with cores := [(0, 0, 0, 0), (1, 0, 0, 1)] } }
    let f := s.modMe fun k => { k with full := [(0x17FF8 / 8, true)] }
    s.me.acquiring = false ∧ s.target (s.readG 1) 8 = .ok (0, 0x17FF8) ∧ s.cur = 0 ∧
    s.gang.arrivedPending s.gang.indices = false ∧ (s.ownFuture 0x17FF8 .put (s.datumG 4)).2.1 = true ∧
    (s.ownFuture 0x17FF8 .take ⟨0, false⟩).2.1 = false ∧ (f.ownFuture 0x17FF8 .take ⟨0, false⟩).2.1 = true ∧
    s.gang.phase = .none ∧ s.gang.kind = .carry ∧ s.me.priv = 0 ∧ s.me.drained = true ∧
    s.target (s.readG 2) 8 = .ok (1, 0x17FF8) ∧ s.me.loadRoom 1 = true ∧ s.me.storeRoom 1 = true ∧
    s.target (s.readG 3) 32 = .ok (1, 0x17FE0) ∧
    (s.modGang fun g => { g with phase := .answered 9 ⟨1, false⟩ true }).gang.phase = .answered 9 ⟨1, false⟩ true := by decide +kernel
/-- Barrier 2 of core 0 bound at its core's own scope with COUNT 3. -/
def bound (s : State) : State := s.joinBarrier s.cur 2 1 3
/-- SynchronisationComplete: binding an unbound instance, unbinding, an unbind of an unbound one; an arrival up to 65,535; a
generation equal to the one waited for and another; fences; timelines. -/
theorem witness_synchronisation : let s := regs (mapped m0) [(1, 3), (2, 65535), (3, 1), (4, 0x1FFF8)]
    fieldOf (s.readG 1) 15 0 = 3 ∧ s.barbindStatus s.cur 2 1 3 = 0 ∧ (bound s).barbindStatus s.cur 2 1 0 = 0 ∧
    s.barbindStatus s.cur 2 1 0 = 3 ∧ ((bound s).me.barrier 2).scope = 1 ∧
    (bound s).gang.arrivedPending (bound s).gang.indices = false ∧ (bound s).me.drained = true ∧
    ((bound s).me.barrier 2).arrived + fieldOf (s.readG 2) 15 0 ≤ 65535 ∧ (bound s).me.storeRoom 1 = true ∧
    (bound s).gang.kind = .carry ∧ (bound s).me.priv = 0 ∧ ((bound s).me.barrier 2).gen ≠ fieldOf (s.readG 3) 15 0 ∧
    ((bound s).me.barrier 2).gen = fieldOf (s.readG 0) 15 0 ∧
    s.me.loads.any (fun e => e.slot = s.me.slot && !e.orphan && acquired e.req.op) = false ∧
    s.checkTimeline (s.readG 4) false = .phys (2 ^ 36 + 0xFFF8) ⟨1, 2 ^ 20, false, true, true⟩ ∧
    s.checkTimeline (s.readG 4) true = .phys (2 ^ 36 + 0xFFF8) ⟨1, 2 ^ 20, false, true, true⟩ := by decide +kernel

/-- Map 0: 64 elements of binary32, stride 4, at an offset of local memory. -/
def map0 (base : Nat) : List Word := [w64 base, 0xA2800, 64, 0, 4, 0, 0, 0]
/-- Word 0 of a ring: BASE, slots of 512 bytes, 2 of them. -/
def ringWord : Word := 0x4200000 + 0x17C00
/-- Ring 0 of the acting core set. -/
def ringed (s : State) : State := s.modMe (·.setRing 0 { word0 := ringWord, valid := true })
/-- MapsAndRingsComplete: a map image and a ring image at the end of local memory, good and malformed; a push that fits and one
that does not; a pop of what is held and of more. -/
theorem witness_maps_rings : let s := regs (words m0 0x17F80 (map0 0x17E00 ++ [ringWord, 0])) [(1, 0x17F80), (2, 0x17FC0), (3, 2), (4, 3)]
    let t := s.scanLocal s.cur 0x17F80 64
    let u := s.scanLocal s.cur 0x17FC0 16
    let r := (ringed s).me.ring 0
    s.me.acquiring = false ∧ s.me.fenced = false ∧ (s.readG 1).toNat < 0x18000 ∧ (s.readG 1).toNat % 64 = 0 ∧
    t.me.mem.poisoned 0x17F80 64 = false ∧ tmapStatus (t.me.mem.wordsAt 0x17F80 8) = 0 ∧
    tmapStatus [0, 1] ≠ 0 ∧ (s.readG 2).toNat % 16 = 0 ∧ u.me.mem.poisoned 0x17FC0 16 = false ∧
    (u.me.ring 0).status (w64 (u.me.mem.load 0x17FC0 8)) (w64 (u.me.mem.load 0x17FC8 8)) = 0 ∧
    (u.me.ring 0).status 0 0 = 1 ∧ r.valid = true ∧ (ringed s).me.drained = true ∧
    (ringed s).gang.arrivedPending (ringed s).gang.indices = false ∧
    (r.push (s.readG 3).toNat).isSome = true ∧ r.push (s.readG 4).toNat = none ∧
    ((s.readG 0).toNat ≤ r.held ∧ r.busy = 0) ∧ ¬((s.readG 3).toNat ≤ r.held ∧ r.busy = 0) := by decide +kernel
/-- Maps 0 and 1 of local memory, and map 2 of 64-bit words. -/
def mapsOn (s : State) : State := s.modMe fun k =>
  { k with tmaps := [(0, map0 0x17F00), (1, map0 0x17E00), (2, [0x17D00, 0x92800, 32, 0, 8, 0, 0, 0])] }
/-- CopyEngineFormsComplete: a copy between two maps, one into a stream, one into a ring, one that a barrier follows; waits
that are over; a queue with no stopped copy. -/
theorem witness_copy_engine : let s := ringed (bound (mapsOn m0))
    let m (n : Nat) := parseMap (s.me.tmap n)
    s.me.acquiring = false ∧ s.me.fenced = false ∧ (s.me.copyQ 3).entries.length < 16 ∧
    s.copyOk (m 0) (m 1) (s.readG 0) (s.readG 0) = true ∧ s.streamOk (m 2) (s.readG 0) = true ∧
    (s.me.ring 0).valid = true ∧ (s.me.barrier 2).scope ≠ 0 ∧ (s.me.barrier 2).pending + (m 0).bytes ≤ 2 ^ 28 - 1 ∧
    (s.modGang fun g => { g with phase := .queues [9] }).gang.phase = .queues [9] ∧ s.me.unfinished [9] = false ∧
    s.gang.phase = .none ∧ s.gang.kind = .carry ∧ s.me.priv = 0 ∧ s.me.queued 31 = [] := by decide +kernel
/-- Two cores of one cluster, each with a ring 0 of BF16 tiles of 32 by 32. -/
def pair2 (s : State) : State :=
  let t : State := { s with ctx := { s.ctx with cores := [(0, 0, 0, 0), (1, 0, 0, 1)] } }
  [0, 1].foldl (fun t c => t.modCore c (·.setRing 0 { word0 := 0x2000000 * 2 + 0x20000 * 128 + 0x10000, valid := true })) t
/-- A product of BF16 of 32 by 32 by 32, with its second partner on core 1. -/
def product (w6 : Word) : List Word := [0x000000000D0D0000, 0x0000002000002020, 0, 0, 0, 0, w6, 0]
/-- MatrixFormsComplete: a set-context command, a product of one core and one of two, a drain of a map, a fence; an empty
queue and a stopped command. -/
theorem witness_matrix : let s := regs (words (pair2 m0) 0x17F40 (2 :: List.replicate 7 0 ++ product 0 ++ product 0x0001000000001002)) [
      (1, 0x17F40), (2, 0x17F80), (3, 0x17FC0), (4, 4)]
    let s := s.modMe fun k => { k with tmaps := [(4, [0x17000, 0xA4800, 0x200020, 0, 0x8000000004, 0, 0, 0])] }
    let e (n : Nat) := let t := s.scanLocal s.cur (0x17F40 + 64 * n) 64
      (t, t.matrixEntry t.cur ((t.me.mem.wordsAt (0x17F40 + 64 * n) 8).flatMap fun w => bytesOf w.toNat 8))
    let d := s.matrixEntry s.cur (drainImage (fieldOf (s.readG 0) 2 0) 0 4 0 0 (s.readG 0))
    let stopped := s.modMe fun k => { k with matrixQ := { k.matrixQ with entries := [d], cause := 4 } }
    (s.readG 3).toNat < 0x18000 ∧ (s.readG 3).toNat % 64 = 0 ∧ s.me.acquiring = false ∧ s.me.fenced = false ∧
    (∀ n < 3, (e n).1.me.mem.poisoned (0x17F40 + 64 * n) 64 = false ∧ (e n).1.badField s.cur (e n).2 (decide (n = 2)) = none ∧
      (e n).1.unboundFor s.cur (e n).2 = false ∧ (e n).1.pendingFull s.cur (e n).2 = false ∧ (e n).1.me.matrixQ.entries.length < 8 ∧
      (e n).1.me.fenced = false) ∧
    (e 2).1.gang.arrivedPending (e 2).1.gang.indices = false ∧ (e 2).1.me.drained = true ∧
    fieldOf (s.readG 0) 63 3 = 0 ∧ s.badField s.cur d false = none ∧ s.unboundFor s.cur d = false ∧ s.pendingFull s.cur d = false ∧
    s.me.matrixQ.entries = [] ∧ stopped.me.matrixQ.entries = [d] ∧ stopped.me.matrixQ.cause ≠ 0 ∧
    ¬(d.op = 0 ∧ d.steps < stopped.me.mprog.toNat) := by decide +kernel
/-- Page 1 of the partition mapped to a frame of a slice, in the core's buffer. -/
def sliced (s : State) : State := s.modMe fun k => { k with tlb := [⟨1, 2 ^ 20, false, true, true⟩] }
/-- ChangeQueueFormsComplete: records of multiplicity 0 and 1 for a descriptor at the end of a frame; an arrangement of local
memory with a good header and one with none; one in a slice; an answered `dxquiet`. -/
theorem witness_change_queues : let s := regs (words (sliced m0) 0x17D80 ([4, 0, 0, 0, 0, 0, 0, 0] ++ List.replicate 64 0)) [
      (1, channelWord 0 5), (2, 0x17FD8), (3, 0x17D80), (4, 0x17FE0), (5, 0x1FBC0), (6, 0x1F000), (7, 0x17D40)]
    let s := words s 0x17FD8 [7, 0, 0, 1, 0x1FBC0]
    let z := words s 0x17FD8 [7, 0, 0, 0, 0x1FBC0]
    let pa : Chk := .phys (2 ^ 36 + 0xFBC0) ⟨1, 2 ^ 20, false, true, true⟩
    let t := s.scanLocal s.cur 0x17FD8 40
    let u := s.scanLocal s.cur 0x17FE0 32
    let r := u.me.mem.recordAt 0x17FE0
    channelWordOk (s.readG 1) = true ∧ s.sees (coreOf (s.readG 1)) = true ∧ (s.readG 2).toNat % 8 = 0 ∧
    (s.readG 2).toNat + 40 ≤ 0x18000 ∧ t.me.mem.poisoned 0x17FD8 40 = false ∧
    t.me.mem.load 0x17FF8 8 = 0x1FBC0 ∧ s.checkDescriptor (s.readG 5) = pa ∧ (t.me.mem.recordAt 0x17FD8).mult ≠ 0 ∧
    (z.me.mem.recordAt 0x17FD8).mult = 0 ∧ t.me.loadRoom 1 = true ∧
    s.me.acquiring = false ∧ (s.readG 3).toNat % 64 = 0 ∧ (s.readG 4).toNat % 8 = 0 ∧ (s.readG 4).toNat + 32 ≤ 0x18000 ∧
    u.me.mem.poisoned 0x17FE0 32 = false ∧ (s.readG 3).toNat + 64 + 32 * 2 ^ 4 ≤ 0x18000 ∧
    (∀ a ∈ [0x17D80, 0x17D40], (u.scanLocal u.cur a 64).me.mem.poisoned a 64 = false) ∧ (s.readG 7).toNat % 64 = 0 ∧
    (∀ kind < 3, ((u.scanLocal u.cur 0x17D80 64).scanEntries u.cur 0x17D80 4 kind r).me.mem.arrangeBad 0x17D80 11 kind r = false) ∧
    (u.scanLocal u.cur 0x17D80 64).me.mem.caplog 0x17D80 11 = some 4 ∧
    (u.scanLocal u.cur 0x17D40 64).me.mem.caplog 0x17D40 11 = none ∧ (u.scanLocal u.cur 0x17D80 64).me.fenced = false ∧
    u.check (s.readG 6) 8 64 false 0 = .phys (2 ^ 36 + 0xF000) ⟨1, 2 ^ 20, false, true, true⟩ ∧
    u.check (s.readG 6) 8 64 true 1 = .phys (2 ^ 36 + 0xF000) ⟨1, 2 ^ 20, false, true, true⟩ ∧
    u.mem.caplog (2 ^ 36 + 0xF000) 10 = none ∧ u.slicePending (2 ^ 36 + 0xF000) = false ∧
    (s.modGang fun g => { g with phase := .answered 9 ⟨1, false⟩ true }).gang.phase = .answered 9 ⟨1, false⟩ true ∧
    s.me.drained = true := by decide +kernel
theorem witness_change_open : Open (sliced m0) ∧ Spec.Reaches (.phys (2 ^ 36 + 0xFBC0) ⟨1, 2 ^ 20, false, true, true⟩) :=
  ⟨by and_intros <;> decide +kernel, .inr ⟨_, _, rfl⟩⟩
/-- SpecialRegisterFormsComplete: lane registers, the registers of the table's ends, one that may only be read. -/
theorem witness_special_registers : (∀ n ∈ [0, 5, 6, 7, 0x0A, 0x0C, 0x17], rightOf n 0 ≠ .privileged) ∧ rightOf 0x18 2 = .readWrite ∧
    rightOf 0x18 0 = .privileged ∧ rightOf 0 0 = .readOnly ∧ laneSpecial 0x0A = true ∧ laneSpecial 0x0C = false := by decide
theorem witness_special_lanes : LanesReady m0 0 m0.gang.active [2] [2] ∧ Ready m0 [2] [2] :=
  by
  and_intros <;> decide +kernel
/-- CallsAndReturnComplete: the level of a task and that of a trap routine, over a gang and over nothing. -/
theorem witness_calls : m0.me.priv = 0 ∧ level1.me.priv = 1 ∧ level1.me.priv ≠ 0 ∧ level1.me.owner = .gang 0 ∧
    (level1.modMe fun k => { k with owner := .system }).me.owner = .system := by decide +kernel
/-- TrapRoutineFormsComplete: a code point with its bit and with a reserved bit set; the interrupted gang; a channel entry with
no binding, and one that is not placed. -/
theorem witness_trap_routine : let s := regs (words level1 0x17FE0 [0x10000, 1, (chan 1).word0, 1]) [(1, 0x17FE0), (2, 0x17FF0)]
    let t := s.scanLocal s.cur 0x17FF0 16
    let x := (t.me.channel 5).written (w64 (t.me.mem.load 0x17FF0 8)) (w64 (t.me.mem.load 0x17FF8 8))
    s.me.priv = 1 ∧ s.me.acquiring = false ∧ s.me.fenced = false ∧ s.me.owner = .gang 0 ∧ (s.me.at 0).ownPend 5 = false ∧
    s.pointStatus true 0x10000 1 = 2 ∧ s.pointStatus true 0x10000 2 = 1 ∧
    ({ s with ctx := { s.ctx with debug := 1 } } : State).pointStatus true 0x10000 1 = 0 ∧ t.me.mem.poisoned 0x17FF0 16 = false ∧
    t.me.bindStatus 5 x = 0 ∧ t.me.resident 5 = false ∧ (t.me.channel 5).state ≠ 2 ∧ t.me.bindStatus 5 { word0 := 2 ^ 49 } ≠ 0 := by
  decide +kernel
/-- MaintenanceFormsComplete: the core's own bank, a slice's bank, a bank of nothing; injections that wait and that do not; an
invalidation that starts, and one that every core has acknowledged. -/
theorem witness_maintenance : let s := level1
    let p : State := s.modMe fun k => { k with priv := 2, inject := [(1, 0)] }
    s.me.priv = 1 ∧ p.me.priv = 2 ∧ s.readG 0 = 0 ∧ (s.bank (s.bankNamed (s.readG 0))).isSome = true ∧
    (p.bank (p.bankNamed 0x30000000000000FF)).isSome = true ∧ p.bank (p.bankNamed 0x3000000000000100) = none ∧
    p.me.inject.any (·.1 = 1) = true ∧ p.me.inject.any (·.1 = 2) = false ∧ s.gang.phase = .none ∧ s.me.drained = true ∧
    (s.modGang fun g => { g with phase := .acks 9 0 0 }).gang.phase = .acks 9 0 0 := by decide +kernel

/-- A carry message of one strand to channel 5 of core 0, on routine 1. -/
def carry1 : CarryMsg :=
  { code := 0x10000, strand := 1, preds := 1, draw := 0, pend := 0, side := [], regs := [], poison := 0, uid := 9, frame := none }
def carryMsg : Msg := { src := .core 0, id := 1, dst := 0, ch := 5, slots := 1, body := .carry carry1 }
/-- A message at its source, waiting for its grant. -/
def outOf (m : Msg) : Outbound := { msg := m, kind := .carry, slot := 0, laneUid := 0, since := 0, asked := true, granted := false, refused := false }
/-- The acting core with that message in its queue of transfers. -/
def withOut (s : State) (o : Outbound) : State := s.modMe fun k => { k with outbox := [o] }
/-- MessageEventsComplete: a message with and without its grant, a ring with room and an empty one, a rebinding, a counter
crossing that is remembered, a packed and an unpacked transfer. -/
theorem witness_message_events : let o := outOf carryMsg
    let q := o.ask
    let s := withOut (parted.mapPage 0 1) o
    let g := withOut m0 { o with granted := true }
    let d : Msg := { carryMsg with body := .data [⟨7, false⟩] }
    let ch : Msg := { carryMsg with body := .change 0x1FBC0 ⟨7, 0, 0, 1, 0⟩ }
    s.fenced q.dst = false ∧ s.fenced carryMsg.dst = false ∧ q.src = .core 0 ∧
    (s.outsOf q.src).find? (fun o => o.msg.id = q.id && !o.sent && !o.granted) = some o ∧
    (g.outsOf q.src).find? (fun o => o.msg.id = q.id && o.granted && !o.sent) = some { o with granted := true } ∧
    (s.outsOf (.core 0)).find? (fun o => o.msg.id = 1 && !o.granted && !o.sent) = some o ∧ o.msg.body = .carry carry1 ∧
    (let k := (m0.modMe fun k => { k with ready := [{ o with granted := true }] }).me
     k.requestReady.find? (fun o => k.ready.any (·.msg.id = o.msg.id)) = some { o with granted := true }) ∧
    (mget [] ({ m0 with changes := [(0, [⟨1, 0x1FBC0, 0, 5, ⟨7, 0, 0, 1, 0⟩, true, true⟩])] } : State).changes 0).any (·.granted) = true ∧
    (sliceReady 0 (mget [] ({ m0 with changes := [(0, [⟨1, 0x1FBC0, 0, 5, ⟨7, 0, 0, 1, 0⟩, true, true⟩])] } : State).changes 0)).length = 1 ∧
    ((m0.arrive d).outsOf d.src).find? (fun o => o.msg.id = d.id && o.sent) = none ∧
    ch.body = .change 0x1FBC0 ⟨7, 0, 0, 1, 0⟩ ∧ ((m0.core ch.dst).channel ch.ch).cons = false ∧
    (s.walk s.ctx.part.toNat (s.ringAt (routineOf carry1.code) / 65536)).map (·.wr) = some true ∧
    s.ringHeld (routineOf carry1.code) = some 0 := by decide +kernel
/-- The ring of routine 1 with one entry, and the routine in the directory: channel 5 of core 0 is to drain it. -/
def ringOf1 : State :=
  let t := (((parted.mapPage 0 1).mapPage 0 32).modMe (·.setChannel 5 { chan 0 with ovf := true }))
  let t : State := { t with ctx := { t.ctx with dirBase := 2 ^ 21 } }
  (t.writeV 0 (2 ^ 21 + 64) (bytesOf 1 2 ++ bytesOf 8 2 ++ bytesOf 0 4 ++ [5, 1, 1, 0] ++ bytesOf 0 52)).writeRing 1 0 carry1
theorem witness_ring_drain : let s := ringOf1
    (s.me.channel 5).drains = true ∧ (s.me.channel 5).routine = 1 ∧ s.ringHeld 1 = some 1 ∧
    ((s.readV s.ctx.part.toNat (s.ringAt 1 + 8)).getD 0).toNat = 0 ∧ (s.readDir 1).map (·.count) = some 0 ∧
    (s.resolve s.ctx.part.toNat (s.ringSlot 1 0) false).map (fun pa => s.mem.load (pa + 0xF8) 8) = some 1 ∧
    carrySlots 0 ≤ s.me.slotsFree 5 := by decide +kernel
theorem witness_channel_events : let s := (parted.mapPage 0 1).modMe (·.setChannel 5 { chan 0 with ovf := true })
    let r := m0.modMe fun k => { k.setChannel 5 { chan 0 with retire := true } with dir := [dir1] }
    let b := m0.modMe (·.setChannel 5 { chan 0 with state := 2, next := some ((chan 1).word0, true, false) })
    let e := m0.modMe fun k => { k with bindings := [⟨0x0101, 5, 1, true, some 1⟩] }
    let x (b : Bool) : Xfer := { kind := .cx 0, pred := 0, home := false, link := 0, left := 0, packed := b, held := [] }
    let p (b : Bool) := m0.modGang fun g => { g with xfer := some (x b) }
    (p true).me.xfer = some (x true) ∧ (p false).me.xfer = some (x false) ∧ (p true).me.outbox.any (·.slot = (p true).me.slot) = false ∧
    (s.me.channel 5).drains = true ∧ (r.me.channel 5).next = none ∧ (r.me.channel 5).retire = true ∧
    (let t := ringOf1.modMe (·.setChannel 5 { chan 0 with retire := true })
     ((t.setCore 0 ({ t.me with placed := t.me.placed.filter (·.id ≠ 1) }.setChannel 5 {})).readDir 1).isSome = true) ∧
    s.ringHeld (s.me.channel 5).routine = some 0 ∧ (b.me.channel 5).next = some ((chan 1).word0, true, false) ∧
    e.me.bindings.find? (fun b => b.sel = 0x0101 && b.remembered.isSome) = some ⟨0x0101, 5, 1, true, some 1⟩ ∧ e.me.ready.length < 16 := by
  decide +kernel

/-- A channel of a kind that holds one message, eligible to fire. -/
def waitingOn (kind : Nat) (b : Body) : State := m0.modMe fun k =>
  { k.setChannel 5 (chan kind) with arrivals := [⟨{ carryMsg with body := b }⟩] }
/-- The directory entry of `dir1` and a launch queue 0 that holds one record, of `n` strands of routine `r`. -/
def derricked (r n : Nat) : State :=
  let t := (parted.mapPage 0 16).mapPage 0 32
  let t : State := { t with ctx := { t.ctx with started := true, launchBase := 2 ^ 20, dirBase := 2 ^ 21, headLeft := [(0, 0, 1)] } }
  let t := t.writeV 0 (2 ^ 21 + 64) (bytesOf 1 2 ++ bytesOf 8 2 ++ bytesOf 0 4 ++ [5, 1, 1, 0] ++ bytesOf 0 52)
  (t.append 0 (bytesOf r 2 ++ bytesOf 0 2 ++ bytesOf n 4 ++ List.replicate 240 0)).1
/-- The smallest image: version 1, a rectangle of one cluster on one package, a name, no record. -/
def emptyImage (tail : Nat) : List Byte :=
  bytesOf 0x494D594D 4 ++ bytesOf 1 4 ++ bytesOf 0 8 ++ bytesOf 4 2 ++ bytesOf 2 2 ++ bytesOf 1 4 ++ bytesOf 0x40 8 ++ bytesOf 0x40 8 ++
    bytesOf 0x61 16 ++ bytesOf tail 8
/-- CoreAndDerrickEventsComplete: a firing of each kind; a timer's trap over a gang and over none; a record of each fate;
a launch that is over; a partition that may start a context. -/
theorem witness_firings : (waitingOn 0 (.carry carry1)).me.eligible 5 = true ∧ (waitingOn 1 (.data [⟨7, false⟩])).me.eligible 5 = true ∧
    (waitingOn 2 (.change 0x1FBC0 ⟨7, 0, 0, 1, 0⟩)).me.eligible 5 = true ∧
    (((waitingOn 0 (.carry carry1)).me.arrivalsAt 5).filterMap (fun a => match a.msg.body with
      | .carry m => some (a.msg, m)
      | _ => none)) = [(carryMsg, carry1)] ∧ ((chan 0).kind = 0 ∧ (chan 1).kind = 1 ∧ (chan 2).kind = 2) ∧
    (let s := m0.modMe fun k => { k with timerPending := true, gangs := [] }
     s.pendingTrap 0 = some (none, ⟨0x12, 0, 0, 0⟩)) ∧
    (m0.modMe fun k => { k with timerPending := true }).pendingTrap 0 = some (some 0, ⟨0x12, 0, 0, 1⟩) := by decide +kernel
theorem witness_derrick : let s := derricked 1 1
    let z := derricked 0 1
    let b := (s.headRecord 0).getD []
    s.derrickQueue = some 0 ∧ z.derrickQueue = some 0 ∧ (s.headRecord 0).isSome = true ∧ (z.headRecord 0).isSome = true ∧
    s.headInvalid b = false ∧ z.headInvalid ((z.headRecord 0).getD []) = true ∧ (s.readDir (imageAt b 0 2)).isSome = true ∧
    s.ctx.headLeft.find? (·.1 = 0) = some (0, 0, 1) := by decide +kernel
theorem witness_starts :
    let r : StartReq := { part := 0, ctx := 1, ccb := 128, seed := none, rects := [⟨0, 0, 0, 2, 4⟩], dir := 64, map := 64,
                          rings := 65536, frames := 262144, launchq := 262144, coreSave := 131072, clusterSave := 262144, chunkChan := 0, watchdog := 0,
                          debug := 31, image := emptyImage 0 }
    let s : State := { State.reset with sup := { State.reset.sup with partitions := [(0, part0)] } }
    let f : State := { s with sup := { s.sup with partitions := [(0, { part0 with frames := [(0, 1)] })] } }
    let ns := (s.numbered (imageAt r.image 6 2 % 2 = 1) r.rects).map (·.1)
    let l : OpenLaunch := { id := 1, queue := 0, done := none, live := 0, left := 0, routine := 1 }
    s.ctx.started = false ∧ s.areaFree r = true ∧ f.areaFree r = true ∧ sizeOk r.image r.rects = true ∧ blockOk r ns = true ∧
    ns = [0, 1, 2, 3, 4, 5, 6, 7] ∧ imageOk r.image ns = some [] ∧ sizeOk (emptyImage 1) r.rects = true ∧ imageOk (emptyImage 1) ns = none ∧
    s.startFits r [] ns.length (areaClusters r.rects).length = true ∧ f.startFits r [] ns.length (areaClusters r.rects).length = false ∧
    ({ m0 with ctx := { m0.ctx with launches := [l] } } : State).ctx.launches.find? (·.id = 1) = some l ∧ l.done = none ∧
    fieldOf (0x0F : Word) 63 6 = 0 ∧ (0x0F : Word).getLsbD 4 = false := by decide +kernel

/-- An entry of the outstanding-load table that awaits a word of core 0. -/
def entry9 : LoadEntry :=
  { tag := 9, slot := 0, dest := .gang 0 3 8 false false, usc := true, uids := [], since := 0, held := none, forward := none, orphan := false, late := false,
    req := { src := .core 0, tag := 9, uids := [], home := some 0, op := .load [(0x17FF8, 8)] } }
/-- A fault of lane 0 on its way to frame 0. -/
def fault0 : FaultSave := { frame := 0, lanes := [{}], gang := m0.gang, gangFault := true, addr := 0x20000, write := false }
/-- The running context's partition, with page 1 mapped. -/
def noticed : State := parted.mapPage 0 1
/-- A notice of a slice. -/
def notice1 : Notice := ⟨0x4C, 1, 2, 3⟩
/-- AccessEventsComplete: an entry that a reply finds, a count in USC, a page that is mapped and one that is not, a fault not yet
written, a notice queue with room, the held change of a gang that ends, at a descriptor that is there and at one that is not. -/
theorem witness_access_events : let s := noticed.modMe fun k => { k with loads := [entry9], usc := 1, faults := [fault0] }
    let g := noticed.modGang fun g => { g with held := some (65536, 1), ending := true }
    let h : HeldNotice := ⟨.derrick, 0, notice1, 0⟩
    let w : Forward := { key := 3, dst := 1, own := false, tag := 9, since := 0 }
    let f := noticed.modMe fun k => { k with forwards := [w] }
    entry9.req.home = some 0 ∧ noticed.walk 0 1 ≠ none ∧ m0.noticeRoom 0 = none ∧ s.oldestNotice .derrick = none ∧
    ({ s with heldNotices := [h] } : State).oldestNotice .derrick = some h ∧ h.notice = notice1 ∧ s.noticePart (.core 0) = 0 ∧
    s.me.loads.find? (·.tag = 9) = some entry9 ∧ s.me.loads.find? (fun e => e.tag = 9 && !e.late) = some entry9 ∧
    blockedAnswer entry9.req.op [⟨5, false⟩] = false ∧ s.me.usc ≠ 0 ∧
    f.me.loads.find? (fun e => e.tag = 9 && !e.late) = none ∧
    f.me.forwards.find? (fun f => f.tag = 9 && !f.own && !f.late) = some w ∧
    ((s.walked 0 (pageOf 0x1FFF8)).walk (s.partOf 0) (pageOf 0x1FFF8)).isSome = true ∧
    (s.walked 0 (pageOf 0x20000)).walk (s.partOf 0) (pageOf 0x20000) = none ∧ s.me.faults.find? (fun f => f.frame = 0 && !f.written) = some fault0 ∧
    s.noticeRoom 0 = some (65536, 0) ∧ s.heldNotices = [] ∧ g.gang.held = some (65536, 1) ∧ g.gang.ending = true ∧
    (g.resolve g.ctx.part.toNat 65536 false).isSome = true ∧ g.resolve g.ctx.part.toNat 0x20000 false = none := by decide +kernel
/-- A copy queue 0 with one entry, and a matrix unit with a head and a turn. -/
def copying (job : CopyJob) (done : Nat) : State := (mapsOn m0).modMe (·.setCopyQ 0 { entries := [{ id := 1, job, done }] })
def fenceEntry (op : Nat) : MatrixEntry := { id := 1, image := bytesOf op 64, mapA := [], mapB := [], mapO := [], fmtA := 0, fmtB := 0, active := true, fresh := false }
def turned (e : MatrixEntry) (t : Turn) : State :=
  (m0.modMe fun k => { k with matrixQ := { k.matrixQ with entries := [e] } }).modCluster 0 fun u => { u with turn := t }
/-- EngineEventsComplete: a fence and a copy that are over; a record to drop; an arbitration; a k-step from a ring of zeros and one
that meets poison; a drain; a set-context command, a fence and a command without a signal at their ends; a window push. -/
theorem witness_engine_events : let f := copying (.fence []) 0
    let c := copying (.copy [] [] 0 0 1 2 false 256) 256
    let o : Outbound := { outOf { carryMsg with body := .data [⟨0x0E, false⟩, ⟨1, false⟩, ⟨2, false⟩] } with fault := true }
    let t (n : Turn) := turned (fenceEntry 2) n
    let a := turned (fenceEntry 2) .idle
    f.copyEnds 0 0 = true ∧ c.copyEnds 0 0 = true ∧ (f.me.copyQ 0).entries.length = 1 ∧
    (({ m0 with cores := m0.cores } : State).modMe fun k => { k with records := [o] }).outsOf (.core 0) = [o] ∧
    ([o].find? fun o => o.msg.id = 1 && o.fault && !o.granted && !o.sent) = some o ∧
    a.arbitrates 0 = true ∧ (a.seats 0).length = 1 ∧ a.requests 0 = some (.setCtx 0) ∧ ((t (.setCtx 0)).cluster 0).turn = .setCtx 0 ∧
    (t (.setCtx 0)).me.matrixHead = some (fenceEntry 2) ∧ ((t (.fence 0)).cluster 0).turn = .fence 0 ∧
    ((t (.complete 0)).cluster 0).turn = .complete 0 ∧ (fenceEntry 2).signals = false ∧
    m0.me.staging.poisoned 0 56 = false ∧ ((ringed m0).me.ring 0).valid = true ∧ (((ringed m0).me.ring 0).push 2).isSome = true := by
  decide +kernel
/-- A product of one row and one column with its operands in ring 0. -/
def head1 : MatrixEntry :=
  { id := 1, image := bytesOf 0 8 ++ [1, 1] ++ bytesOf 0 2 ++ bytesOf 32 4 ++ bytesOf 0 48, mapA := [], mapB := [], mapO := [],
    fmtA := 0x0D, fmtB := 0x0D, active := true, fresh := false }
/-- Whether the bands of the head were read. -/
def bandsRead (s : State) : Bool :=
  match s.readBands 0 head1 s.me.mprog.toNat (head1.parts 0) with
  | (_, .ok _) => true
  | _ => false
theorem witness_matrix_events : let s := (ringed (turned head1 (.kstep 0)))
    let p := s.modMe fun k => { k with mem := { k.mem with bad := [(0x17C00 / 8, true)] } }
    let d : MatrixEntry := { fenceEntry 1 with
      image := [1, 0, 0, 0, 0, 0, 0, 0, 1, 1, 0, 0] ++ bytesOf 0 52, mapO := [0x17000, 0xA4800, 0x200020, 0, 0x8000000004, 0, 0, 0] }
    let t := turned d (.drain 0)
    let bands := (d.parts 0).mapIdx fun j p => t.bandOf d p.1 p.2 j
    let c := { d with mapO := [0x17000, 0xA5800, 0x20020, 0, 0x8000000004, 0, 0, 0] }
    let w := turned c (.drain 0)
    let units := ((c.parts 0).mapIdx fun j p => w.bandOf c p.1 p.2 j).flatMap (·.units)
    s.me.matrixHead = some head1 ∧ bandsRead s = true ∧ bandsRead p = false ∧
    t.me.matrixHead = some d ∧ t.drainStop 0 (parseMap d.mapO) 0 (bands.flatMap (·.units)) = none ∧
    (bands.all fun b => b.ok ≠ some false) = true ∧ (parseMap d.mapO).checked = false ∧
    (parseMap c.mapO).checked = true ∧ w.me.matrixHead = some c ∧ w.drainStop 0 (parseMap c.mapO) 0 units = none ∧
    (w.drainChunks 0 (parseMap c.mapO) 0 units [] (List.range ((parseMap c.mapO).bytes / 256))).2 = [] ∧
    0 < (parseMap c.mapO).bytes / 256 ∧
    (t.drainStop 0 { parseMap d.mapO with own := false } 0x200000000000000 (bands.flatMap (·.units))).isSome = true := by decide +kernel

/-- The partition of the context with clusters 0, in a machine where a cycle count has gone by. -/
def later : State := { noticed with clock := 8192 }
/-- ReliabilityEventsComplete: memories that are awake, that sleep; a pair; a fenced rectangle; a block's level. -/
theorem witness_reliability : let s := later
    let e := s.modMe fun k => { k with gangs := [] }
    let r : State := { s with sliceRet := [(0, .awake, 0)] }
    let p := s.modMe fun k => { k with pair := { on := true } }
    let bad (again : Bool) := s.modMe fun k => { k with pair := { on := true, rerun := again }, inject := [(3, 0)] }
    let z : State := { s with sliceRet := [(0, .asleep, 0)] }
    (s.core 0).retention = .awake ∧ e.coreSleeps 0 = true ∧ r.sliceSleeps 0 = true ∧ (p.core 0).pair.on = true ∧
    (p.twin 0).again = [] ∧ p.disagrees 0 = false ∧ s.sleeps (.slice 0) = false ∧ z.sleeps (.slice 0) = true ∧
    (∀ again, ((bad again).core 0).pair.on = true ∧ ((bad again).core 0).pair.rerun = again ∧ ((bad again).twin 0).again = [] ∧
      (bad again).disagrees 0 = true) ∧
    ({ s with sup := { s.sup with fences := [(1, 1)] } } : State).sup.fences.any (·.1 = 1) = true ∧
    (∀ l d, nextLevel l 90 d 100 d = l ∨ nextLevel l 90 d 100 d ≠ l) :=
  by
  and_intros
  on_goal 11 => exact fun _ _ => Decidable.em _
  all_goals decide +kernel
/-- A flit of zeros with its CRC. -/
def goodFlit : BitVec 512 := BitVec.ofNat 512 ((crc32 (bytesOf 0 60)).toNat * 2 ^ 480)
set_option maxRecDepth 40000 in
/-- FabricEventsComplete: a quota that covers a cost; a frame count behind the clock; a multicast in the mesh and one in a residual
buffer; refused requests; a port that is up with good and bad flits, one that is training, one that repeats. -/
theorem witness_fabric : let s := later
    let x : Tree := { id := 1, at' := 0, way := .start, dests := [0], event := .frameMark 0 }
    let t : State := { s with trees := [x] }
    let full : State := { t with residuals := List.replicate 4 (x.input, x) }
    let p (n : Nat) : State := s.setPort 0 { (s.port 0) with state := n, resend := some 3 }
    let q := s.setPort 0 { (s.port 0) with state := 2, resend := some 3, retries := 8 }
    let j : State := (s.setPort 1 { s.port 1 with state := 1, peer := 1, linked := true }).setPort 18 { s.port 18 with state := 1, linked := true }
    let r : Req := { src := .core 0, tag := 9, uids := [], home := some 0, op := .load [(0x17FF8, 8)] }
    let k : Packet := { event := .remoteAccess { r with home := some 1 }, stamp := none, home := none }
    let a : State := { s with agenda := [{ k with event := .frameMark 0 }, k] }
    a.agenda.findIdx (fun p => p.stamp.isNone && payerOf p.event = some (.core 0)) = 1 ∧ a.agenda[1]? = some k ∧
    a.sourcePart (.core 0) k.event = 0 ∧
    s.flits 0 = 9 ∧ chargeFirst 9 (s.quota (.core 0) 0).left = some (0, [0, 9, 9, 9]) ∧ s.frame ≠ frameAtCycle s.clock ∧
    t.trees.find? (fun y => y.id = 1 && y.input = x.input) = some x ∧ t.forks x = true ∧ full.forks x = false ∧
    r.quiet = false ∧ refusedWrite r = false ∧ ((p 2).port 0).state = 2 ∧ ((p 1).port 0).state = 1 ∧
    flitField goodFlit 31 29 = 0 ∧ flitCrcOk goodFlit = true ∧ flitField goodFlit 24 14 = ((p 2).port 0).seqIn.toNat ∧
    flitCrcOk (goodFlit ^^^ 1) = false ∧ flitField 0x80000000 31 29 = 4 ∧ flitCrcOk 0x80000000 = false ∧
    ((p 2).port 0).resend = some (BitVec.ofNat 11 3) ∧ ((p 2).port 0).retries + 1 ≤ 8 ∧ 1 ≠ 0 / 18 ∧
    ((p 2).port 0).nakDue = false ∧ s.marked.contains (0 / 18) = false ∧ s.joined 0 (s.farPort 0) = false ∧
    ((p 2).port 0).state ≠ 1 ∧ (0 : Nat) = 0 / 18 ∧ ((p 1).port 0).state = 1 ∧ 8 ≤ (q.port 0).retries ∧ (q.port 0).state = 2 ∧ (q.port 0).resend = some (BitVec.ofNat 11 3) ∧
    j.farPort 1 = 18 ∧ j.joined 1 18 = true ∧ (j.port 18).state = 1 ∧ (j.port 1).state = 1 ∧ (j.port 1).peer = 1 := by decide +kernel
/-- CrossingFillsReplayBuffer: a grant that crosses the link of two packages. -/
theorem witness_crossing : let s : State := { later with
      ports := [(1, { state := 2, peer := 1, linked := true }), (18, { state := 2, linked := true })] }
    let p : Packet := { event := .grantRequest ⟨.core 0, 1, 1, 0, .carry, 1⟩, stamp := some 0, home := none, path := .ports [1] }
    s.wayOf p = some [1] ∧ s.canSend 1 p = true := by decide +kernel
/-- A branch that ends here, with no link on the way, is free where the free value of the flits says so. -/
theorem free_here (s : State) (x : Tree) (ds : List Nat)
    (_h : ((s.route (x.at' / 25600) (x.at' / 25600)).all fun is => !is.any fun i => (mget {} s.ports i).state = 1) = true) :
    s.freeBranch x { x with way := .here, dests := ds } = true ↔ Config.sense 7 (s.clock * 2 ^ 24 + 8 * x.at' + Way.here.code) % 2 = 0 := by
  simp only [State.freeBranch, decide_true, Bool.true_or, Bool.true_and, decide_eq_true_iff]
/-- FabricEventsComplete, a send of a residual copy: one branch, here, which is free where the free value of the flits says so. -/
theorem witness_residual : let x : Tree := { id := 1, at' := 0, way := .start, dests := [0], event := .frameMark 0 }
    let u : State := { later with residuals := [(x.input, x)] }
    u.branches x = [{ x with way := .here }] ∧
      (u.freeBranch x { x with way := .here } = true ↔ Config.sense 7 (u.clock * 2 ^ 24 + 8 * 0 + Way.here.code) % 2 = 0) ∧
      u.taken x.input 1 { x with way := .here } = false :=
  ⟨by decide +kernel, free_here _ _ _ (by decide +kernel), by decide +kernel⟩
/-- HostPortEventsComplete: a port that answers; an assigned page; a window; a page whose append is under way; a request of the
mailbox ring of each kind named. -/
theorem witness_host_port : let s : State := { later with ctx := { later.ctx with started := true, launchBase := 65536 } }
    let h := s.modHost fun h => { h with windows := [(0, { off := 0, size := 2 ^ 21, part := 0, vbase := 65536, rd := true, wr := true })] }
    let a := s.setDoorbell 0 { assigned := true, ctx := ⟨0, 0⟩ }
    let b := later.setDoorbell 0 { busy := true }
    let m (op : Nat) := s.modHost fun h =>
      { h with stage := 5, reqTail := 1, reqRing := if op = 0 then [] else [(0, BitVec.ofNat 8 op)] }
    let e (op : Nat) := ringBytes (m op).host.reqRing 0 64
    s.host.answers = true ∧ (a.doorbell 0).assigned = true ∧ a.ctx.id.toNat = (a.doorbell 0).ctx.id ∧ a.ctx.part.toNat = (a.doorbell 0).ctx.part ∧ a.ctx.started = true ∧
    (a.resolve a.ctx.part.toNat (a.queueBase 0 + 16) true).isSome = true ∧
    (h.host.windows.find? (fun w => w.2.off ≤ 8 && 8 + 8 ≤ w.2.off + w.2.size)).isSome = true ∧
    (h.resolve 0 (65536 + (8 - 0)) true).isSome = true ∧ (b.doorbell 0).busy = true ∧ later.ctx.started = false ∧
    (a.doorbell 0).busy = false ∧
    (let d := (derricked 1 1).setDoorbell 0 { assigned := true, ctx := ⟨0, 0⟩, busy := true, copy := bytesOf 1 4 ++ bytesOf 1 4 ++ List.replicate 240 0 }
     let z := (bytesOf 1 4 : List Byte) ++ List.replicate 244 0
     (d.doorbell 0).busy = true ∧ d.ctx.started = true ∧ d.ctx.ended = false ∧ d.ctx.id.toNat = (d.doorbell 0).ctx.id ∧ d.ctx.part.toNat = (d.doorbell 0).ctx.part ∧
       imageAt (d.doorbell 0).copy 0 2 = 1 ∧ (d.readDir 1).map (launchValid (d.doorbell 0).copy) = some true ∧
       (d.readDir 1).map (launchValid z) = some false) ∧
    (∀ op ∈ [0x02, 0x06, 0x07, 0x08, 0x0A, 0x0D], (m op).host.stage = 5 ∧ (m op).host.fatal = false ∧ (m op).host.serving = none ∧
      (m op).host.reqHead ≠ (m op).host.reqTail ∧ (m op).mailEntry = some (0, (e op).take 16) ∧ imageAt (e op) 0 1 = op ∧
      mailBad ((e op).take 16) = decide (op = 0x0D)) := by decide +kernel
/-- The machine with a second partition, whose supervisor asks on its own ring for the end of partition `p`. -/
def ringAsks (p : Nat) : State :=
  let t : State := { m0 with sup := { m0.sup with partitions := [(1, { part0 with frames := [(4096, 64)] })] } }
  let t := t.mapPage 1 (ringPlace / 65536)
  (t.modHost fun h => { h with stage := 5 }).writeV 1 ringPlace
    (bytesOf 1 8 ++ bytesOf 0 (16 * 255 + 8) ++ [2, 0, 0, 0, 1, 0, 1, 0] ++ bytesOf 0 8 ++ bytesOf p 8)
set_option maxRecDepth 40000 in
/-- HostPortEventsComplete, a request of a partition's ring that names the partition, and one that names another. -/
theorem witness_partition_ring : ∀ p ∈ [0, 1], ∃ e, (ringAsks p).mailEntry = some (1, e) ∧ mailBad e = false ∧ imageAt e 4 1 = 1 ∧
    (ringAsks p).mailCommand e = .inr (.partitionDestroy p) ∧ (ringAsks p).commandPart 1 (.partitionDestroy p) = p ∧
    (ringAsks p).host.serving = none ∧ (ringAsks p).host.stage = 5 ∧ (ringAsks p).host.fatal = false := by
  intro p hp
  refine ⟨[2, 0, 0, 0, 1, 0, 1, 0] ++ bytesOf 0 8 ++ bytesOf p 1, ?_⟩
  revert p
  simp only [List.forall_mem_cons, List.not_mem_nil, false_implies, implies_true, and_true]
  and_intros <;> rfl
/-- SupervisorCommandsComplete: a partition that is there and one that is not; a started context, one that is saved, one that can
be saved; a core that awaits a response; the ends of the power limits. -/
theorem witness_supervisor : let s := later
    let g : State := { s with ctx := { s.ctx with started := true } }
    let rs : List Rect := [⟨0, 0, 0, 2, 4⟩]
    let v : State := { s with ctx := { s.ctx with saved := true, savedValid := true, savedCores := [(0, s.me)], cores := s.numbered false rs } }
    let p := (s.modMe fun k => { k with preempting := true, gangs := [] })
    let x : State := { s with sup := { s.sup with packages := [0] } }
    let q : PartitionReq := { part := 255, area := [⟨0, 2, 0, 2, 4⟩], frames := [(4096, 64)], ways := [(0, true)], sysCores := [63], fabric := 0,
                              retIdle := 0, contain := [⟨0, 2, 0, 2, 4⟩], ownerKey := 0, anchors := 2 ^ 36 + 8192, anchorLog := 10 }
    partitionAsk { q with anchorLog := 25 } = false ∧ partitionAsk q = true ∧ containOk { q with contain := [⟨0, 0, 0, 2, 4⟩] } = false ∧
    x.partition q.part = none ∧ containOk q = true ∧ x.partitionFree q = true ∧ x.partitionFree { q with sysCores := [64] } = false ∧
    v.restoreFits rs = true ∧ v.restoreFits [] = false ∧
    let w : WindowReq := { off := 0, size := 2 ^ 40, part := 0, vbase := 0, rd := true, wr := true }
    let a := s.modMe fun k => { k with answer := some 3, stopped := true }
    s.partition 1 = none ∧ s.partition 0 = some part0 ∧ s.ctx.started = false ∧ retIdleOk 4096 = true ∧ retIdleOk (2 ^ 24) = true ∧
    (s.partition w.part).isSome = true ∧ w.off % 2 ^ 21 = 0 ∧ part0.image = some 0 ∧ w.off + w.size ≤ 2 ^ 40 ∧
    a.me.answer = some 3 ∧ a.me.stopped = true ∧ g.ctx.started = true ∧ g.ctx.saved = false ∧ g.ctx.ended = false ∧
    g.ctx.id.toNat = 0 ∧ v.ctx.saved = true ∧ v.ctx.savedValid = true ∧ v.ctx.cores.any (fun e => v.fenced e.1) = false ∧
    p.savable = true := by decide +kernel
/-- AttestationAndDebugComplete: points of both kinds at the ends of their numbers; bytes of local memory that can be read; the
measurement of a partition's image. -/
theorem witness_debug : let s := later
    let q : IkitikReq := { seq := 0, part := 0, ctx := 0, core := 0, slot := 0, lane := 0, kind := 0x01, num := 15, len := 8,
                           val := coreAddr 0 0x17FF8, val2 := 1 }
    16 ≤ 16 ∧ s.partition (16 - 16) = some part0 ∧ part0.image = some 0 ∧ (5 : Nat) ≠ 16 - 16 ∧
    q.kind = 0x01 ∧ ({ q with kind := 0x0B } : IkitikReq).kind = 0x0B ∧ q.core ≠ everyCore ∧ q.num < 16 ∧
    s.pointStatus true 0x10000 1 ≠ 1 ∧ s.pointStatus false 0 0 ≠ 1 ∧ q.len ≤ 4096 ∧
    ((List.range q.len).map fun i => s.debugByte (q.val.toNat + i)).any (·.isNone) = false := by decide +kernel
/-- EngineEventsComplete, a push to the matrix window: a set-context command whose first seven words are staged. -/
theorem witness_matrix_window : let s := m0.modMe fun k => { k with staging := k.staging.store 0 8 2 false }
    let x := s.matrixEntry 0 (s.me.staging.image 0 56 ++ bytesOf 0 8)
    let full := s.modMe fun k => { k with matrixQ := { k.matrixQ with entries := List.replicate 8 x } }
    s.me.staging.poisoned 0 56 = false ∧ s.badField 0 x false = none ∧ s.unboundFor 0 x = false ∧
    s.pushWaits 0 x = false ∧ s.pushStands 0 = false ∧ full.pushWaits 0 x = true ∧ full.badField 0 x false = none ∧
    full.unboundFor 0 x = false := by decide +kernel

/-! ### Rules and invariants -/

theorem unstepped_m0 : Unstepped m0 := ⟨rfl, rfl⟩
/-- GangFormsFrame, PendingWaitsPoisonTraps and DivisionRule: a form with its registers ready, one that awaits a reply, one that
carries poison. -/
theorem witness_gang_frame : Spec.gangForm (.add 0 15 1) = some (0, [15, 1]) ∧ Ready m0 [15, 1] [0, 15, 1] ∧ Unstepped m0 ∧
    (∃ n ∈ [(0 : BitVec 4), 15, 1], (m0.modGang fun g => { g with gPend := 2 }).me.pendG n.toNat = true) ∧
    (∀ n ∈ [(0 : BitVec 4), 15, 1], (m0.modGang fun g => { g with gPoison := 0x8000 }).me.pendG n.toNat = false) ∧
    [(15 : BitVec 4), 1].find? (fun n => (m0.modGang fun g => { g with gPoison := 0x8000 }).me.poisonG n.toNat) = some 15 :=
  ⟨rfl, by and_intros <;> decide +kernel, unstepped_m0, by decide +kernel⟩
theorem witness_division : let s := regs m0 [(1, 0x8000000000000000), (2, 0xFFFFFFFFFFFFFFFF)]
    (s.readG 1).toInt = -2 ^ 63 ∧ (s.readG 2).toInt = -1 ∧ s.readG 0 = 0 ∧ s.readG 2 ≠ 0 := by decide +kernel
/-- LaneFormsFrame: the form with the greatest operand numbers. -/
theorem witness_lane_frame : Spec.laneForm (.vlea 0 47 36 36) = some (0, 47, [36, 36]) ∧
    LanesReady m0 0 (m0.gang.guard 0) [36, 36] [47, 36, 36] ∧ Unstepped m0 ∧ (47 : BitVec 6).toNat < 48 ∧
    0 ∈ m0.gang.guard 0 ∧ 1 ∉ m0.gang.guard 0 :=
  ⟨rfl, by and_intros <;> decide +kernel, unstepped_m0, by decide +kernel⟩
/-- StoresChangeTheirBytes: the last word, pair and block of local memory, and store requests of one write at a core and at a
slice. -/
theorem witness_stores : let s := regs m0 [(1, 0x17FF8), (4, 0x17FC0)]
    Ready s (eaReads 1 0 0) (3 :: eaReads 1 0 0) ∧ Unstepped s ∧ s.me.acquiring = false ∧ s.me.fenced = false ∧
    (s.eaM 1 0 0).toNat < 0x18000 ∧ (s.eaM 1 0 0).toNat % 8 = 0 ∧ s.watch true (s.seenLocal (s.eaM 1 0 0) 8 false) = [] ∧
    (s.eaM 4 0 0).toNat < 0x18000 ∧ (s.eaM 4 0 0).toNat % 64 = 0 ∧ s.watch true (s.seenLocal (s.eaM 4 0 0) 64 false) = [] ∧
    (s.eaM 4 0 0).toNat % 16 = 0 ∧ s.watch true (s.seenLocal (s.eaM 4 0 0) 16 false) = [] ∧
    (s.readG ((1 : BitVec 3).setWidth 4) + w64 (8 * (0 : BitVec 4).toNat)).toNat = 0x17FF8 ∧
    (∀ c, ∃ (r : Req) (w : Wr), r.op = .store [w] ∧ w.addr < 0x18000 ∧ r.home = c) :=
  by
  and_intros
  on_goal 16 => exact fun c => ⟨⟨.core 0, 1, [], c, .store [⟨0x17FF8, 8, 1, false⟩], false⟩, ⟨0x17FF8, 8, 1, false⟩, rfl, by decide, rfl⟩
  all_goals decide +kernel
/-- StoresChangeTheirBytes, the lane stores: the last word of local memory, and the last 32 bytes of a quad. -/
theorem witness_lane_stores : let s := lane m0 [(2, 0x17FF8), (5, 0x17FE0)]
    AccReady s (lanePlain 0 3 1 2 0 true false) ∧ AccReady s (laneQuad 0 1 5 0 true) ∧ Unstepped s ∧ s.gang.guard 0 = [0] ∧
    (lanePlain 0 3 1 2 0 true false).local (s.gang.lane 0) = none ∧ (laneQuad 0 1 5 0 true).local (s.gang.lane 0) = none ∧
    s.watch false ((lanePlain 0 3 1 2 0 true false).seen s.gang (s.gang.guard 0) fun v => coreAddr s.cur v.toNat) = [] ∧
    s.watch false ((laneQuad 0 1 5 0 true).seen s.gang (s.gang.guard 0) fun v => coreAddr s.cur v.toNat) = [] := by
  and_intros <;> decide +kernel
/-- GZeroRule: local offsets at the end of memory, past it, and misaligned; an atomic that may leave. -/
theorem witness_g0 : let s := regs (mapped m0) [(1, 0x17FF8), (2, 0x18000), (3, 0x17FF9), (4, 0x1FFF8)]
    (s.eaM 1 0 0).toNat % 8 = 0 ∧ 0x18000 ≤ (s.eaM 2 0 0).toNat ∧ (s.eaM 3 0 0).toNat % 8 ≠ 0 ∧ (s.eaM 3 0 0).toNat < 0x18000 ∧
    s.checkAtomic (s.readG 4) 8 true = .phys (2 ^ 36 + 0xFFF8) ⟨1, 2 ^ 20, false, true, true⟩ := by decide +kernel
/-- NullifyingBranchRule: a condition that holds and one that does not, a loop at its end and before it, an annulled entry, the
step that passes it, and a fetch that traps. -/
theorem witness_nullifying : let s := regs m0 [(1, 1), (2, 2)]
    let a := m0.modGang fun g => { g with ann0 := true }
    Spec.CondReady s 1 1 ∧ Unstepped s ∧ condition 1 (s.readG 1) s.gang 1 ≠ condition 1 (s.readG 0) s.gang 0 ∧
    Spec.InRoutine s ((offsetOf s.gang.q0 : Int) + (7 : BitVec 16).toInt) ∧ s.readG 1 - 1 = 0 ∧ s.readG 2 - 1 ≠ 0 ∧
    a.gang.ann0 = true ∧ (a.me.xfer.map (·.left)) ≠ some 0 ∧ a.agent = some (.issue 0 0) ∧ (a.choose 0 0).gang.ann0 = true ∧
    ((a.choose 0 0).me.xfer.map (·.left)) ≠ some 0 :=
  by and_intros <;> decide +kernel
/-- NullifyingBranchRule and TrapReturnRule: a gang past the end of its routine has a fetch trap, and may have `skipBreak`. -/
theorem witness_fetch_trap : let s := m0.modGang fun g => { g with q0 := 0x1000F, skipBreak := true }
    s.gang.skipBreak = true ∧ ∃ e, s.fetch = .error e :=
  ⟨by decide +kernel, ⟨⟨0x04, 1, 0x1000F, 1⟩, by decide +kernel⟩⟩
/-- TrapEntryRule and LevelTwoTraps: a cause of each kind, at level 0 and at level 1. -/
theorem witness_traps : let c : Cause := ⟨0x0F, 255, 7, 1⟩
    m0.me.priv = 0 ∧ c.code ≠ 0x0E ∧ c.code ≠ 0x13 ∧ c.code < 256 ∧ c.sub < 256 ∧ level1.me.priv ≠ 0 ∧ m0.me.preempting = false := by decide +kernel
/-- TrapReturnRule, InterruptedRegistersRule, PrivilegedTraps: level 1 over a gang and over nothing; level 0 for a form of level 1. -/
theorem witness_level1 : level1.me.priv = 1 ∧ level1.me.owner = .gang 0 ∧ (level1.me.at 0).breakDue ≠ some level1.me.xpc0 ∧ (level1.me.at 0).ownPend 15 = false ∧
    (level1.modMe fun k => { k with owner := .system }).me.owner = .system ∧ Ready level1 [] [15] ∧
    Spec.levelsOf .halt = some [1] ∧ m0.me.priv.toNat ∉ [1] ∧ m0.me.priv = 0 ∧ (0x10 ≤ (0x16 : BitVec 8).toNat ∧ (0x16 : BitVec 8).toNat ≤ 0x16) :=
  by
  and_intros <;> first | rfl | decide +kernel
/-- SpecialRegistersHold: MPROG with the command stopped and not. -/
theorem witness_mprog : (m0.modMe fun k => { k with matrixQ := { k.matrixQ with cause := 4 } }).me.matrixQ.cause ≠ 0 ∧
    m0.me.matrixQ.cause = 0 := by decide +kernel
/-- StepRunsTheDecodedInstruction: the selector takes a gang whose word decodes, at level 0 with no breakpoint. -/
theorem witness_step : let s := State.reset.withFetchWord 32 0x90187FFF
    let u := s.choose 0 0
    s.agent = some (.issue 0 0) ∧ s.ctx.paired = false ∧ (u.me.xfer.map (·.left)) ≠ some 0 ∧ u.gang.ann0 = false ∧ u.me.halfBad u.gang.q0 = false ∧
    u.me.lenAt u.gang.q0 = 2 ∧ u.me.halfBad (u.gang.q0 + 1) = false ∧ u.me.priv = 0 ∧ u.gang.skipBreak = false ∧
    (∀ b ∈ u.me.breaks, b.2 ≠ u.gang.q0) ∧ offsetOf u.gang.q0 + u.me.lenAt u.gang.q0 ≤ u.me.lengthOf u.gang.q0 ∧
    decode (u.me.half u.gang.q0) (u.me.half (u.gang.q0 + 1)) = (.ok (.addi 3 0 0x7FFF), 2) :=
  by
  and_intros <;> decide +kernel
/-- DecodeOfEncode: an instruction at the ends of its fields. -/
theorem witness_encode : WellFormed (.addi 15 15 0x7FFF) ∧ (encode (.addi 15 15 0x7FFF)).isSome = true :=
  ⟨(by decide : illegal (.addi 15 15 0x7FFF) = none), by decide +kernel⟩
/-- StepKeepsMemoriesCanonical: reset's memories hold their form, and so do those of a state with memory written. -/
theorem witness_canonical : State.reset.memWf = true ∧ (words m0 0x17FF8 [0xFF]).memWf = true ∧
    (words m0 0x17FF8 [0xFF]).me.mem.byte 0x17FF8 = 0xFF := by decide +kernel

end Sys2Proof.Tests
end

/-! SUPPORT. Every step ends in a next state (spec/00 R12): every meaning does, hence every agent, hence every step; and the
tick sets the clock one cycle on from the state in which the step began. -/
namespace Sys2Proof.Machine

theorem isNext_iff {σ φ ρ : Type} {o : Host.Outcome σ φ ρ} : isNext o = true ↔ ∃ t, o = .next t := by
  cases o <;> simp [isNext]

/-! ### The events that choose among several next states -/

theorem execTransferPacking_isNext (s : State) : isNext (execTransferPacking s) = true := by
  unfold execTransferPacking
  split
  · rfl
  · split
    · split <;> rfl
    · rfl
theorem execReadyQueueSend_isNext (core : Nat) (s : State) : isNext (execReadyQueueSend core s) = true := by
  unfold execReadyQueueSend; split <;> rfl
theorem execChangeSliceQueueSend_isNext (slice : Nat) (s : State) : isNext (execChangeSliceQueueSend slice s) = true := by
  unfold execChangeSliceQueueSend; split <;> rfl
theorem execPartitionDestroy_isNext (part : Nat) (s : State) : isNext (execPartitionDestroy part s) = true := by
  unfold execPartitionDestroy; split <;> rfl
theorem execImageLoad_isNext (part : Nat) (image : SystemImage) (s : State) : isNext (execImageLoad part image s) = true := by
  unfold execImageLoad
  split
  · rfl
  · split
    · rfl
    · split <;> rfl
theorem execDoorbellAssign_isNext (page : Nat) (ctx : ContextName) (s : State) :
    isNext (execDoorbellAssign page ctx s) = true := by
  unfold execDoorbellAssign; split <;> rfl
theorem execNotice_isNext (part : Nat) (s : State) : isNext (execNotice part s) = true := by
  unfold execNotice; split <;> rfl
theorem execPower_isNext (cap tlimit part retidle : Nat) (s : State) :
    isNext (execPower cap tlimit part retidle s) = true := by
  unfold execPower
  split
  · rfl
  · split <;> rfl
theorem execDebug_isNext (q : IkitikReq) (s : State) : isNext (execDebug q s) = true := by
  unfold execDebug; split <;> rfl

/-! ### Every meaning -/

/-- Every row of the table ends in a next state: the events above by their own choices, every other event because its meaning
names the next state at once, and every encoded instruction because its Operation does (`State.finish_isNext`). -/
theorem exec_isNext (i : Instr) (s : State) : isNext (exec i s) = true := by
  cases i
  case transferPacking => exact execTransferPacking_isNext s
  case readyQueueSend core => exact execReadyQueueSend_isNext core s
  case changeSliceQueueSend slice => exact execChangeSliceQueueSend_isNext slice s
  case partitionDestroy part => exact execPartitionDestroy_isNext part s
  case imageLoad part image => exact execImageLoad_isNext part image s
  case doorbellAssign page ctx => exact execDoorbellAssign_isNext page ctx s
  case notice part => exact execNotice_isNext part s
  case power cap tlimit part retidle => exact execPower_isNext cap tlimit part retidle s
  case debug q => exact execDebug_isNext q s
  case delaySlotAnnul | timerExpiry | trapEntry | carryMessageSend | spill | grantRequest | grant | revocation | refusal
      | carryArrival | dataMessageArrival | changeMessageArrival | ringDrain | rebindingTakesEffect | firing | frameRelease
      | loadReply | forwardedReply | forwardingEntryTimeout | storeAcknowledgement | remoteAccess | sliceOperation
      | chainedPacket | futureRetry | counterUpdateRetry | counterEvent | barrierArrival | barrierCompletion | timelineWrite
      | timelineRelease | copyUnit | copyCompletion | checkedChunkVerify | chunkRecordDrop | matrixArbitration | matrixKStep
      | matrixDrain | matrixSetContext | matrixFence | matrixCompletion | matrixWindowPush | ringWindowPush | translationWalk
      | translationFault | invalidationAck | noticePost | watchdogExpiry | derrickSelection | launchDone | launchQueueControl
      | contextStart | preemption | contextRestore | outboundRecordSend | changeFiringEnd | changeRecordLost | quiescenceWatch
      | scrub | retentionEntry | retentionExit | pairIntervalClose | containment | containmentReset | fatalError
      | recorderUnfreeze | frameBoundary | packetAdmission | multicastFork | multicastResidualSend | refusedTraffic
      | flitReceive | negativeAcknowledgement | creditReturn | frameMark | portRetrain | portTraining | portTrainingTimeout
      | throttleUpdate | thermalTrip | powerOn | pcieReset | reset | hostRegisterWrite | ring | doorbellAppendDone | control
      | memoryWindowAccess | mailboxRequest | partitionCreate | windowSet | preempt | restore | spdm | port
      | supervisorResponse | getVersion | getCapabilities | negotiateAlgorithms | getDigests | getCertificate | challenge
      | getMeasurements | ikitikHalt | ikitikResume | ikitikStep | steplane | setpoint | readgang | readcore | writereg
      | readarrivals | readmem | readrecorder | powerLoss | idleExpiry | changePutRetry | linkManagementInterval | devstatRead
      | directoryInvalidationAck | recorderFreeze => rfl
  -- These four complete outright, so their Operation's end already computes to a next state.
  case yield | nop | brk | brkCompact => rfl
  all_goals exact State.finish_isNext s _

/-! ### Every agent, and the step -/

theorem State.receive_isNext (s : State) (p : Packet) : isNext (s.receive p) = true := by
  unfold State.receive
  dsimp only
  split
  · rfl
  · exact exec_isNext _ _
theorem thenReceive_isNext {o : Host.Outcome State Fault Refusal} (h : isNext o = true) (q : Packet) :
    isNext (thenReceive o q) = true := by
  obtain ⟨t, rfl⟩ := isNext_iff.1 h
  unfold thenReceive
  dsimp only
  split
  · exact t.receive_isNext q
  · rfl
/-- An instruction that is fetched ends in a next state, and so does the trap of a fetch that fails; at the end of a level the
level comes back in that next state. -/
theorem State.perform_isNext (s : State) (a : Agent) : isNext (s.perform a) = true := by
  cases a with
  | packet p => exact s.receive_isNext p
  | reach p => rfl
  | cross p => rfl
  | denied p q => exact thenReceive_isNext (State.receive_isNext _ _) p
  | own i => exact exec_isNext i _
  | both p q => exact thenReceive_isNext (s.receive_isNext p) q
  | ahead i q => exact thenReceive_isNext (exec_isNext i _) q
  | issue c slot =>
    simp only [State.perform]
    split
    · exact exec_isNext _ _
    · rfl
  | ending c slot =>
    simp only [State.perform]
    split
    next i _ =>
      obtain ⟨u, hu⟩ := isNext_iff.1 (exec_isNext i (s.choose c slot).atLevelZero)
      rw [hu]; rfl
    next => rfl
  | again c => rfl
  | boot p => rfl
theorem State.pairedOutcome_isNext (s : State) (a : Agent) {o : Host.Outcome State Fault Refusal} (h : isNext o = true) :
    isNext (s.pairedOutcome a o) = true := by
  obtain ⟨t, rfl⟩ := isNext_iff.1 h
  rfl
/-- A step is a next state of what its agent does, or of nothing done, with the tick of the state in which it began. -/
theorem step_eq_tick (s : State) : ∃ t : State, step s = .next (t.tick s) := by
  unfold step
  split
  · exact ⟨s, rfl⟩
  next c _ => exact ⟨s.repeatNext c, rfl⟩
  next a _ _ =>
    obtain ⟨t, ht⟩ := isNext_iff.1 (s.pairedOutcome_isNext a (s.perform_isNext a))
    exact ⟨t, by rw [ht]; rfl⟩
@[simp] theorem State.tick_clock (s before : State) : (s.tick before).clock = before.clock + 1 := rfl

/-- Settles O56: a step ends in the tick of some state, and the tick counts one cycle. -/
theorem everyStepGoesOn : Obligations.EveryStepGoesOn := by
  intro s
  obtain ⟨t, ht⟩ := step_eq_tick s
  exact ⟨t.tick s, ht, t.tick_clock s⟩

end Sys2Proof.Machine

/-! SUPPORT. Special registers (spec/01 R33, R34, R36): what `setSpecial` leaves in each field that a special register is read
from, hence what each register reads after a write. -/
namespace Sys2Proof.Machine

/-! ### What a write of a special register changes -/

@[simp] theorem State.setSpecial_cur (s : State) (n : Nat) (v : Word) : (s.setSpecial n v).cur = s.cur := by
  unfold State.setSpecial; split <;> rfl
@[simp] theorem State.setSpecial_clock (s : State) (n : Nat) (v : Word) : (s.setSpecial n v).clock = s.clock := by
  unfold State.setSpecial; split <;> rfl
@[simp] theorem State.setSpecial_sinceReset (s : State) (n : Nat) (v : Word) :
    (s.setSpecial n v).sinceReset = s.sinceReset := by
  unfold State.setSpecial; split <;> rfl
/-- Of the context, only CCB_BASE is written. -/
@[simp] theorem State.setSpecial_ctx (s : State) (n : Nat) (v : Word) :
    (s.setSpecial n v).ctx = { s.ctx with ccb := if n = 0x18 then v else s.ctx.ccb } := by
  unfold State.setSpecial; split <;> simp_all
/-- The partition of a core does not hang on a special register. -/
@[simp] theorem State.setSpecial_partOf (s : State) (n : Nat) (v : Word) (c : Nat) :
    (s.setSpecial n v).partOf c = s.partOf c := by
  unfold State.setSpecial; split <;> rfl
/-- The acting core after a write: each field is the value written, at its width, where its register was named, and as it was
elsewhere. -/
theorem State.me_setSpecial (s : State) (n : Nat) (v : Word) :
    (s.setSpecial n v).me = { s.me with
      mprog := if n = 0x0C ∧ s.me.matrixQ.cause ≠ 0 then v.setWidth 16 else s.me.mprog
      cycle := if n = 0x0D then v - s.sinceReset else s.me.cycle
      retired := if n = 0x0E then v else s.me.retired
      xpc0 := if n = 0x10 then v.setWidth 32 else s.me.xpc0
      xpc1 := if n = 0x11 then v.setWidth 32 else s.me.xpc1
      xpc2 := if n = 0x12 then v.setWidth 32 else s.me.xpc2
      trapCause := if n = 0x13 then v.setWidth 16 else s.me.trapCause
      trapInfo := if n = 0x14 then v else s.me.trapInfo
      trapLanes := if n = 0x15 then v.setWidth 32 else s.me.trapLanes
      timer := if n = 0x16 then v.setWidth 32 else s.me.timer
      timerAt := if n = 0x16 then s.clock else s.me.timerAt } := by
  unfold State.setSpecial
  split
  case h_1 => by_cases h : s.me.matrixQ.cause = 0 <;> simp [h]
  case h_11 => rfl
  case h_12 => simp_all
  all_goals simp [Core.setTimer]

/-! ### Registers read from the state of the acting core -/

theorem State.special_cycle (s : State) : s.special 0x0D = s.me.cycle + s.sinceReset := rfl
theorem State.special_timer (s : State) :
    s.special 0x16 = w64 (s.me.timer.toNat - (s.clock - s.me.timerAt - 1)) := rfl
theorem State.special_ccb (s : State) : s.special 0x18 = if s.me.member then s.ctx.ccb else 0 := rfl

/-- A write of a register leaves what every other one reads as (R33). -/
theorem State.special_setSpecial_ne (s : State) {n m : Nat} (v : Word) (h : m ≠ n) :
    (s.setSpecial n v).special m = s.special m := by
  by_cases hc : m = 0x0D
  · subst hc; simp [State.special_cycle, State.me_setSpecial, h.symm]
  by_cases ht : m = 0x16
  · subst ht; simp [State.special_timer, State.me_setSpecial, h.symm]
  unfold State.special
  split <;> simp_all [State.me_setSpecial, State.ofContext, Core.gang, Core.at, h.symm]

/-- The registers that a write always reaches, each with its width (Table 1-4); MPROG is apart, by R284. -/
def writtenWidths : List (Nat × Nat) :=
  [(0x0D, 64), (0x0E, 64), (0x10, 32), (0x11, 32), (0x12, 32), (0x13, 16), (0x14, 64), (0x15, 32), (0x16, 32), (0x18, 64)]
theorem writtenWidths_le : ∀ e ∈ writtenWidths, e.2 ≤ 64 := by decide
/-- A word cut to a width and zero-extended again. -/
theorem toNat_setWidth_setWidth {w : Nat} (v : Word) (h : w ≤ 64) :
    ((v.setWidth w).setWidth 64).toNat = v.toNat % 2 ^ w := by
  rw [BitVec.toNat_setWidth_of_le h, BitVec.toNat_setWidth]
/-- A register reads back the low bits written to it, zero-extended (R33); TIMER does so because no cycle has passed since the
write (R36), and CCB_BASE because the core belongs to the context (R475). -/
theorem State.special_setSpecial_self (s : State) {n w : Nat} (v : Word) (h : (n, w) ∈ writtenWidths)
    (hm : n = 0x18 → s.me.member = true) : (s.setSpecial n v).special n = (v.setWidth w).setWidth 64 := by
  simp only [writtenWidths, List.mem_cons, Prod.mk.injEq, List.not_mem_nil, or_false] at h
  obtain ⟨rfl, rfl⟩ | ⟨rfl, rfl⟩ | ⟨rfl, rfl⟩ | ⟨rfl, rfl⟩ | ⟨rfl, rfl⟩ | ⟨rfl, rfl⟩ | ⟨rfl, rfl⟩ | ⟨rfl, rfl⟩ | ⟨rfl, rfl⟩ |
    ⟨rfl, rfl⟩ := h
  · simp [State.special_cycle, State.me_setSpecial]
  rotate_left 7
  · rw [State.special_timer, ← BitVec.ofNat_toNat]; simp [State.me_setSpecial]
  · simp [State.special_ccb, State.me_setSpecial, hm]
  all_goals simp [State.special, State.me_setSpecial]
/-- MPROG takes a write while the matrix command is stopped (spec/11 R284). -/
theorem State.special_setSpecial_mprog (s : State) (v : Word) : (s.setSpecial 0x0C v).special 0x0C =
    if s.me.matrixQ.cause = 0 then s.special 0x0C else (v.setWidth 16).setWidth 64 := by
  show (s.setSpecial 0x0C v).me.mprog.setWidth 64 = if _ then s.me.mprog.setWidth 64 else _
  by_cases h : s.me.matrixQ.cause = 0 <;> simp [State.me_setSpecial, h]
/-- A register that no write reaches: nothing changes. -/
theorem State.setSpecial_readOnly (s : State) {n : Nat} (v : Word)
    (h : n ∉ 0x0C :: writtenWidths.map Prod.fst) : s.setSpecial n v = s := by
  unfold State.setSpecial
  split
  case h_12 => rfl
  all_goals exact absurd (by decide) h

/-- Settles O54: each register of the list reads back what was written and the rest stay, MPROG by its own rule. -/
theorem specialRegistersHold : Obligations.SpecialRegistersHold := by
  intro s v
  refine ⟨fun n w hn hm => ⟨?written, fun m h => s.special_setSpecial_ne v h⟩,
    fun hc => ?stopped, fun hc => ?running, fun m h => s.special_setSpecial_ne v h, fun n h => s.setSpecial_readOnly v h⟩
  case written => rw [s.special_setSpecial_self v hn hm, toNat_setWidth_setWidth v (writtenWidths_le (n, w) hn)]
  case stopped => rw [s.special_setSpecial_mprog, if_neg hc, toNat_setWidth_setWidth v (by decide)]
  case running => rw [s.special_setSpecial_mprog, if_pos hc]

/-! ### The machine right after reset -/

/-- After reset every core is the default one (spec/01 Tables 1-3 and 1-4): nothing is listed. -/
@[simp] theorem State.reset_core (c : Nat) : State.reset.core c = {} := rfl
theorem Memory.byte_empty (a : Nat) : ({} : Memory).byte a = 0 := rfl

/-- A register, `n0`-`n3` or `lt` of a lane that nothing has written reads 0. -/
theorem Lane.read_empty {n : Nat} (h : n < 48) : ({} : Lane).read n = 0 := by
  simp [Lane.read, Nat.not_le.2 h]
theorem mapWords_nil : mapWords [] = List.replicate 8 0 := rfl

/-- Settles O60: every core is the default one, whose maps list nothing, so each reads its default. -/
theorem resetState : Obligations.ResetState := by
  refine ⟨State.reset_memWf, Memory.byte_empty, fun c => ?_, rfl, fun n => Lane.read_empty, fun q => rfl⟩
  rw [State.reset_core]
  refine ⟨rfl, Memory.byte_empty, rfl, rfl, rfl, rfl, rfl, rfl, rfl, rfl, rfl, rfl, rfl, ?_⟩
  exact ⟨fun n => rfl, fun n => rfl, fun n => rfl, fun i n => rfl, fun n => ⟨rfl, rfl⟩, fun n => mapWords_nil, rfl, fun n => rfl,
    fun q => rfl, rfl, fun n => rfl, rfl, rfl⟩

end Sys2Proof.Machine

/-! SUPPORT. Encoding and decoding (spec/03 R81, R83, R84, R88): the round trip over all of `Instr`, from its lemma per
constructor in Laws/PerInstr.lean. -/
namespace Sys2Proof.Laws.Encodes

/-- Decoding gives an instruction back from its encoding: the constructors of `Instr` in their order, each by its own lemma,
first the events, which have no encoding, then the rows of the encoding tables. -/
theorem decodeTableWord_encode (i : Instr) : Statement i :=
  Instr.casesOn i
    delaySlotAnnul timerExpiry trapEntry transferPacking carryMessageSend spill grantRequest grant revocation refusal
    carryArrival dataMessageArrival changeMessageArrival ringDrain rebindingTakesEffect firing frameRelease loadReply
    forwardedReply forwardingEntryTimeout storeAcknowledgement remoteAccess sliceOperation chainedPacket futureRetry
    counterUpdateRetry readyQueueSend counterEvent barrierArrival barrierCompletion timelineWrite timelineRelease
    copyUnit copyCompletion checkedChunkVerify chunkRecordDrop matrixArbitration matrixKStep matrixDrain
    matrixSetContext matrixFence matrixCompletion matrixWindowPush ringWindowPush translationWalk translationFault
    invalidationAck noticePost watchdogExpiry derrickSelection launchDone launchQueueControl contextStart preemption
    contextRestore outboundRecordSend changeSliceQueueSend changeFiringEnd changeRecordLost quiescenceWatch scrub
    retentionEntry retentionExit pairIntervalClose containment containmentReset fatalError recorderUnfreeze
    frameBoundary packetAdmission multicastFork multicastResidualSend refusedTraffic flitReceive negativeAcknowledgement
    creditReturn frameMark portRetrain portTraining portTrainingTimeout throttleUpdate thermalTrip powerOn pcieReset
    reset hostRegisterWrite ring doorbellAppendDone control memoryWindowAccess mailboxRequest partitionCreate
    partitionDestroy imageLoad doorbellAssign windowSet preempt restore debug spdm notice port power supervisorResponse
    getVersion getCapabilities negotiateAlgorithms getDigests getCertificate challenge getMeasurements ikitikHalt
    ikitikResume ikitikStep steplane setpoint readgang readcore writereg readarrivals readmem readrecorder powerLoss
    idleExpiry changePutRetry linkManagementInterval devstatRead directoryInvalidationAck recorderFreeze
    add sub mul mulhS64 mulhN64 divS64 divN64 remS64 remN64 and or xor andn shl shr sra rol minS64 maxS64 minN64 maxN64
    seq sltS64 sltN64 clz ctz popc sext zext bfx bfi lea addi muli andi ori xori shli shri srai seqi sltiS64 sltiN64
    rsbi miniS64 maxiS64 movw movk ldl stl ld st ldAcq stRel ldlPr stlPr ldNc stNc pf wbk xlq stz chka stzl b bN call
    ret jr loop loopN bEq bNe bLtS64 bLtN64 bGeS64 bGeN64 yield nop callr jx cx jxr xret xend send sendnb recv recvnb
    chbind launch spawn rrepl rreplRet evbind evbindOff vclaim vrenew vadd vsub vmul vmulhS vmulhN vdivS vdivN vremS
    vremN vand vor vxor vandn vshl vshr vsra vminS vminN vmaxS vmaxN vcmpeq vcmpltS vcmpltN vsel vclz vpopc vlea vmov
    vbcast vredi vshuf vgext vfaddF64 vfsubF64 vfmulF64 vfmaF64 vfaddF32 vfsubF32 vfmulF32 vfmaF32 vfaddBf16 vfmulBf16
    vfmaBf16 vfaddF16 vfmulF16 vfmaF16 vfmin vfmax vfcmpeq vfcmplt vfcmple vfdiv vfsqrt vfneg vfabs vfclass vcvt vcvtx
    vcvti vcvtf vdot2 vdot4 vdot8 vfred vbadd vbsub vbmul vbfma vbmax vbmin vbscale vbnorm vbpack vbunpack vsxpack
    vsxunpack vkget vkset vbdot vbcvt vldl vstl vld vst vldAcq vstRel vldlq vstlq vldq vstq vpf srd srdnb scnt sdrop
    sreset amo amocas amol sop sopCh fput fputnb ftake ftakenb fpeek dcset dcadd dcdec sopw amonr sopq ccopy cfence mcmd
    mgang mresume mresumeAbort mfence mdrain mstat mstatCtx cstat cstatDrop tmset tmget rgset rgget rgpush rgpop cwait
    barbind bararr barwait barwaitnb fence fenceAcq fenceRel tlwait tlwaitnb tladd tladdSet ckgen ckver ckfold dqput
    dxlook dxadd dxseal dxquiet dxquietnb sget sset scall pcall tret brk wpset xlinv xlinvLg xlinvAll cldw cldwW chwr
    chrd ebrd ebrdClr inj idle halt sstep sstepLn brkCompact addCompact subCompact andCompact orCompact xorCompact
    addiCompact shliCompact shriCompact sraiCompact andiCompact ldlCompact stlCompact ldCompact stCompact bCompact
    bZCompact bNzCompact loopCompact vaddCompact vsubCompact vmulCompact vandCompact vorCompact vxorCompact vmovCompact
    vfaddF32Compact vfmulF32Compact vfmaF32Compact vcmpeqCompact xendCompact xretCompact

/-- Settles O57: the round trip holds constructor by constructor. -/
theorem decodeOfEncode : Obligations.DecodeOfEncode :=
  fun i n w hw h => decodeTableWord_encode i n w h hw

/-- Settles O58: each word is the encoding of its instruction, and the last names nothing in field A (R83). -/
theorem sampleWordsDecode : Obligations.SampleWordsDecode := by
  and_intros
  on_goal 15 => rfl
  all_goals exact decodeOfEncode _ _ _ rfl rfl

end Sys2Proof.Laws.Encodes

/-! SUPPORT. Lane instructions whose operands are ready (spec/09 R204-R206): what each shared lane operation completes with;
and the compact forms (spec/03 R88), whose fields name the operands of 32-bit instructions. -/
namespace Sys2Proof.Machine

open Sys2Proof.Spec

/-! ### The shared lane operations on ready operands -/

theorem State.laneOp_ready {s : State} {p : BitVec 3} {d : BitVec 6} {srcs : List (BitVec 6)} (f : Nat → Lane → Word)
    (h : LanesReady s p (s.gang.guard p) (srcs.map (·.toNat)) (ltNum :: d.toNat :: srcs.map (·.toNat))) :
    s.laneOp p d srcs f = .next (perLane s p d f) :=
  State.laneGate_ready h _
theorem State.lanePred_ready {s : State} {p : BitVec 3} {srcs : List (BitVec 6)} (d : BitVec 6) (f : Lane → Bool)
    (h : LanesReady s p (s.gang.guard p) (srcs.map (·.toNat)) (srcs.map (·.toNat))) :
    s.lanePred p d srcs f = .next (inLanes s (s.gang.guard p) fun _ l => l.setPred d.toNat (f l)) :=
  State.laneGate_ready h _
/-- An arithmetic form rounds the exact value of each element by its MOD (R213). -/
theorem State.floatOp_ready {s : State} {p : BitVec 3} {m : BitVec 2} {f : Fmt} {d : BitVec 6} {srcs : List (BitVec 6)}
    (v : Lane → Nat → Num)
    (h : LanesReady s p (s.gang.guard p) (srcs.map (·.toNat)) (ltNum :: d.toNat :: srcs.map (·.toNat))) :
    s.floatOp p m f d srcs v = .next (rounded s p (arithMode m) f d v) :=
  State.laneGate_ready h _
/-- An instruction whose Operation goes on to `t` completes with the effects of `t`. -/
theorem completes_of_next {i : Instr} {s t : State} {o : Out} (ho : o = .next t) (hi : exec i s = s.finish o := by rfl) :
    Completes i s t := by
  rw [Completes, hi, ho, State.finish_next]

/-! ### The operands of the compact forms -/

@[simp] theorem cw_toNat (r : BitVec 3) : (cw r).toNat = r.toNat := rfl
/-- With C = 1 field B is the constant of its number, else a register (Table 3-6). -/
theorem cb_toNat (b : BitVec 3) (c : BitVec 1) : (cb b c).toNat = if c = 1 then 48 + b.toNat else b.toNat := by
  unfold cb
  split
  · rw [BitVec.toNat_add]
    have hb : (b.setWidth 6).toNat = b.toNat := cw_toNat b
    have hlt := b.isLt
    have h48 : (48 : BitVec 6).toNat = 48 := rfl
    rw [hb, h48]; omega
  · rfl

/-- Settles O11: each compact form is a 32-bit instruction under guard 0 on the operands of its fields. -/
theorem compactLaneFormsComplete : Obligations.CompactLaneFormsComplete := by
  rintro s d a b c y D hy rfl
  obtain rfl : (cb b c).toNat = y := by rw [cb_toNat, hy]
  rw [BitVec.ofNat_toNat, BitVec.setWidth_eq]
  refine ⟨fun h => ?whole, fun h => ?compare, fun h => ?move, fun h => ?float, fun h => ?fma⟩
  case whole =>
    and_intros
    all_goals exact completes_of_next (State.laneOp_ready (d := cw d) (srcs := [cw a, cb b c]) _ h)
  case compare => exact completes_of_next (State.lanePred_ready (srcs := [cw a, cb b c]) (cw d) _ h)
  case move => exact completes_of_next (State.laneGate_ready h _)
  case float =>
    and_intros
    all_goals exact completes_of_next (State.floatOp_ready (m := 0) (d := cw d) (srcs := [cw a, cb b c]) _ h)
  case fma => exact completes_of_next (State.floatOp_ready (m := 0) (d := cw d) (srcs := [cw a, cb b c, cw d]) _ h)

end Sys2Proof.Machine

/-! SUPPORT. Fetching and issuing (spec/03 R78, R80): when the fetch gives the instruction decoded at Q0, and the step that
performs what a gang has fetched. -/
namespace Sys2Proof.Machine

theorem Core.lenAt_pos (k : Core) (a : BitVec 32) : 1 ≤ k.lenAt a := by
  unfold Core.lenAt; split <;> decide

/-- The search that a fetch makes for a breakpoint at an address finds none where none is set at level 0. -/
theorem Core.no_break_found {k : Core} {g : Gang} {a : BitVec 32}
    (h : k.priv = 0 → g.skipBreak = false → ∀ b ∈ k.breaks, b.2 ≠ a) :
    (if k.priv = 0 ∧ !g.skipBreak ∧ g.phase = .none then k.breaks.find? fun b => b.2 = a else none) = none := by
  split
  next hc =>
    obtain ⟨hp, hs, -⟩ := hc
    exact List.find?_eq_none.2 fun b hb => by simpa using h hp (by simpa using hs) b hb
  next => rfl

/-- The fetch of a word that nothing stands before: no boundary, no annulled entry, no poison, no breakpoint, no end of the
routine. -/
theorem State.fetch_of_decode {u : State} {i : Instr} (hx : u.me.xfer.map (·.left) ≠ some 0) (ha : u.gang.ann0 = false)
    (hb0 : u.me.halfBad u.gang.q0 = false) (hb1 : u.me.lenAt u.gang.q0 = 2 → u.me.halfBad (u.gang.q0 + 1) = false)
    (hbreak : u.me.priv = 0 → u.gang.skipBreak = false → ∀ b ∈ u.me.breaks, b.2 ≠ u.gang.q0)
    (hin : offsetOf u.gang.q0 + u.me.lenAt u.gang.q0 ≤ u.me.lengthOf u.gang.q0)
    (hd : (decode (u.me.half u.gang.q0) (u.me.half (u.gang.q0 + 1))).1 = .ok i) : u.fetch = .ok i := by
  have hpos := u.me.lenAt_pos u.gang.q0
  have hstart : ¬ u.me.lengthOf u.gang.q0 ≤ offsetOf u.gang.q0 := by omega
  have hend : ¬ (u.me.lenAt u.gang.q0 = 2 ∧ u.me.lengthOf u.gang.q0 ≤ offsetOf u.gang.q0 + 1) := by omega
  have hbad : (u.me.halfBad u.gang.q0 || (u.me.lenAt u.gang.q0 = 2 && u.me.halfBad (u.gang.q0 + 1))) = false := by
    simpa [hb0] using hb1
  simp only [State.fetch, if_neg hx, ha, hbad, Core.no_break_found hbreak, if_neg hstart, if_neg hend, hd]
  rfl

/-- A gang that issues performs what it has fetched. -/
theorem State.perform_issue_of_fetch {s : State} {c slot : Nat} {i : Instr} (h : (s.choose c slot).fetch = .ok i) :
    s.perform (.issue c slot) = exec i (s.choose c slot) := by
  simp only [State.perform, h]
/-- A step in which a gang issues. -/
theorem step_of_issue {s : State} {c slot : Nat} (h : s.agent = some (.issue c slot)) :
    step s = passed s (s.pairedOutcome (.issue c slot) (s.perform (.issue c slot))) := by
  simp only [step, h]
/-- In a context without pairs there are no followers. -/
theorem State.pairedOutcome_unpaired {s : State} (h : s.ctx.paired = false) (a : Agent)
    (o : Host.Outcome State Fault Refusal) : s.pairedOutcome a o = o := by
  cases o <;> simp [State.pairedOutcome, h]

/-- Settles O55: the fetch gives the decoded instruction, and the step performs what was fetched. -/
theorem stepRunsTheDecodedInstruction : Obligations.StepRunsTheDecodedInstruction := by
  rintro s u c slot n i hagent rfl hx ha hb0 hb1 hbreak hin hd
  have hfetch := State.fetch_of_decode hx ha hb0 hb1 hbreak hin (congrArg Prod.fst hd)
  have hstep := step_of_issue hagent
  rw [State.perform_issue_of_fetch hfetch] at hstep
  refine ⟨hstep, fun hp => ?unpaired⟩
  case unpaired => rw [hstep, State.pairedOutcome_unpaired hp]; rfl

end Sys2Proof.Machine

/-! SUPPORT. Gang register instructions (spec/04 R96-R103, spec/22 R465, R466): each computes through `State.alu`, but for `mov`,
which copies poison. -/
namespace Sys2Proof.Machine

open Sys2Proof.Spec
set_option Elab.async false

/-! ### The shape of the gang register forms -/

/-- `mov`: what `add` with B = 0 does. -/
def State.mov (s : State) (d a : BitVec 4) : Out := s.gate [] [d, a] (.next (s.writeG d (s.readG a) (s.me.poisonG a.toNat)))

theorem execAdd_ne_zero (s : State) (d a : BitVec 4) {b : BitVec 4} (h : b ≠ 0) :
    execAdd d a b s = s.finish (s.alu d [a, b] (s.readG a + s.readG b)) := by
  unfold execAdd; rw [if_neg h]
theorem execAdd_zero (s : State) (d a : BitVec 4) : execAdd d a 0 s = s.finish (s.mov d a) := rfl
theorem cg_eq_zero {b : BitVec 3} : cg b = 0 ↔ b = 0 := by revert b; decide

/-- The instruction is `mov`, in its 32-bit or its compact form. -/
def IsMov (i : Instr) (d a : BitVec 4) : Prop := i = .add d a 0 ∨ ∃ e f, i = .addCompact e f 0 ∧ d = cg e ∧ a = cg f

/-- A gang register form is a computation on its sources, or `mov` (R100). -/
theorem exec_gangForm {i : Instr} {d : BitVec 4} {rs : List (BitVec 4)} (h : gangForm i = some (d, rs)) (s : State) :
    (∃ v, exec i s = s.finish (s.alu d rs v)) ∨ ∃ a, rs = [a, 0] ∧ IsMov i d a ∧ exec i s = s.finish (s.mov d a) := by
  unfold gangForm at h
  split at h
  all_goals cases h
  case h_1 a b =>
    by_cases hb : b = 0
    · subst hb; exact .inr ⟨a, rfl, .inl rfl, rfl⟩
    · exact .inl ⟨_, execAdd_ne_zero s _ a hb⟩
  case h_49 d a b =>
    by_cases hb : b = 0
    · subst hb; exact .inr ⟨cg a, rfl, .inr ⟨d, a, rfl, rfl, rfl⟩, rfl⟩
    · exact .inl ⟨_, execAdd_ne_zero s (cg d) (cg a) (b := cg b) (mt cg_eq_zero.1 hb)⟩
  all_goals exact .inl ⟨_, rfl⟩

/-! ### Ready registers -/

theorem State.alu_ready {s : State} {d : BitVec 4} {rs : List (BitVec 4)} {v : Word} (h : Ready s rs (d :: rs)) :
    s.alu d rs v = .next (s.writeG d v) := State.gate_ready h _
theorem State.mov_ready {s : State} {d a : BitVec 4} (h : Ready s [] [d, a]) :
    s.mov d a = .next (s.writeG d (s.readG a) (s.me.poisonG a.toNat)) := State.gate_ready h _
/-- A gang computation on ready registers completes with its result in `gD`. -/
theorem completes_alu {i : Instr} {s : State} {d : BitVec 4} {rs : List (BitVec 4)} {v : Word} (h : Ready s rs (d :: rs))
    (hi : exec i s = s.finish (s.alu d rs v) := by rfl) : Completes i s (s.writeG d v) :=
  completes_of_next (State.alu_ready h) hi
/-- The same for a result written in another way. -/
theorem completes_alu_eq {i : Instr} {s : State} {d : BitVec 4} {rs : List (BitVec 4)} {v w : Word} (h : Ready s rs (d :: rs))
    (hv : v = w) (hi : exec i s = s.finish (s.alu d rs v) := by rfl) : Completes i s (s.writeG d w) :=
  hv ▸ completes_alu h hi

/-! ### Results as the statements write them -/

theorem flag_decide (p : Prop) [Decidable p] : flag (decide p) = if p then 1 else 0 := by simp [flag]
theorem minS_eq (a b : Word) : minS a b = if b.toInt < a.toInt then b else a := by simp [minS, lessS]
theorem maxS_eq (a b : Word) : maxS a b = if a.toInt < b.toInt then b else a := by simp [maxS, lessS]
theorem minN_eq (a b : Word) : minN a b = if b.toNat < a.toNat then b else a := by simp [minN, lessN]
theorem maxN_eq (a b : Word) : maxN a b = if a.toNat < b.toNat then b else a := by simp [maxN, lessN]
theorem add_shiftLeft_eq_mul (x y : Word) (k : Nat) : x + y <<< k = x + y * BitVec.ofNat 64 (2 ^ k) := by
  congr 1
  exact BitVec.eq_of_toNat_eq (by simp [Nat.shiftLeft_eq])

/-- Settles O1: the forms compute, `mov` copies; what a result looks like is the only difference between them. -/
theorem gangRegisterFormsComplete : Obligations.GangRegisterFormsComplete := by
  refine ⟨fun s d a b h => ?three, fun s d a => ⟨fun h => ?mov, fun h => ?two, fun b n h => ?insert⟩⟩
  case three =>
    exact ⟨fun hb => completes_alu h (execAdd_ne_zero s d a hb), completes_alu h, completes_alu h, completes_alu h,
      completes_alu h, completes_alu h, completes_alu h, completes_alu h, completes_alu h, completes_alu h, completes_alu h,
      completes_alu h, completes_alu h, completes_alu h, completes_alu h, completes_alu h, completes_alu h,
      completes_alu_eq h (minS_eq _ _), completes_alu_eq h (maxS_eq _ _), completes_alu_eq h (minN_eq _ _),
      completes_alu_eq h (maxN_eq _ _), completes_alu_eq h (flag_decide _), completes_alu_eq h (flag_decide _),
      completes_alu_eq h (flag_decide _), fun k => completes_alu_eq h (add_shiftLeft_eq_mul _ _ _), fun n => completes_alu h⟩
  case mov => exact completes_of_next (State.mov_ready h)
  case two =>
    refine ⟨completes_alu h, completes_alu h, completes_alu h, fun n => ⟨completes_alu h, completes_alu h⟩⟩
  case insert => exact completes_alu h

/-! ### Immediates (R102, R103) -/

theorem sext64_toNat {n : Nat} (i : BitVec n) : sext64 n i.toNat = i.signExtend 64 := by simp [sext64]
/-- IMM7 sign-extended to the 15 bits of the alias, and those to 64. -/
theorem sext64_signExtend {m n : Nat} (i : BitVec m) (h : m ≤ n) : sext64 n (i.signExtend n).toNat = i.signExtend 64 := by
  rw [sext64_toNat]
  show BitVec.ofInt 64 (i.signExtend n).toInt = BitVec.ofInt 64 i.toInt
  rw [BitVec.toInt_signExtend_of_le h]
theorem setWidth_setWidth_15 (i : BitVec 7) : (i.setWidth 15).setWidth 64 = i.setWidth 64 :=
  BitVec.setWidth_setWidth (by decide)
/-- One halfword replaced (R103): a mask of 16 ones, and a value that fits it. -/
theorem insertBits_halfword (old : Word) (i : BitVec 16) (p : Nat) :
    insertBits old (i.setWidth 64) p 16 = (old &&& ~~~(0xFFFF#64 <<< p)) ||| (i.setWidth 64 <<< p) := by
  have hm : w64 ((2 ^ 16 - 1) * 2 ^ p) = 0xFFFF#64 <<< p :=
    BitVec.eq_of_toNat_eq (by simp [w64, Nat.shiftLeft_eq])
  have hv : i.setWidth 64 &&& 0xFFFF#64 = i.setWidth 64 := by
    refine BitVec.eq_of_toNat_eq ?_
    have hi := i.isLt
    rw [BitVec.toNat_and, BitVec.toNat_setWidth, show (0xFFFF#64).toNat = 2 ^ 16 - 1 from rfl, Nat.and_two_pow_sub_one_eq_mod]
    omega
  rw [insertBits, hm, ← BitVec.shiftLeft_and_distrib, hv]

/-- Settles O2: as O1; a compact form is the 32-bit one on the registers of its fields, with its IMM7 extended. -/
theorem gangImmediateFormsComplete : Obligations.GangImmediateFormsComplete := by
  refine ⟨fun s d a => ⟨fun h => ⟨fun i => ?imm, fun i => ?shift⟩, fun k i => ⟨fun h => ?movw, fun h => ?movk⟩⟩,
    fun s d a b => ⟨fun h => ?regs, fun h => ⟨fun i => ?imm7, fun i => ?shift6⟩⟩⟩
  case imm =>
    rw [← sext64_toNat i]
    exact ⟨completes_alu h, completes_alu h, completes_alu h, completes_alu h, completes_alu h, completes_alu_eq h (flag_decide _),
      completes_alu_eq h (flag_decide _), completes_alu_eq h (flag_decide _), completes_alu h, completes_alu_eq h (minS_eq _ _),
      completes_alu_eq h (maxS_eq _ _)⟩
  case shift => exact ⟨completes_alu h, completes_alu h, completes_alu h⟩
  case movw => exact completes_alu h
  case movk => exact completes_alu_eq h (insertBits_halfword _ _ _)
  case regs =>
    exact ⟨fun hb => completes_alu h (execAdd_ne_zero s (cg d) (cg a) (mt cg_eq_zero.1 hb)), completes_alu h, completes_alu h,
      completes_alu h, completes_alu h⟩
  case imm7 =>
    rw [← sext64_signExtend i (by decide : 7 ≤ 15), ← setWidth_setWidth_15 i]
    exact ⟨completes_alu h, completes_alu h⟩
  case shift6 => exact ⟨completes_alu h, completes_alu h, completes_alu h⟩

/-! ### Registers that await a reply, and poison (R98, spec/22 R466) -/

theorem Core.pendG_zero (k : Core) : k.pendG 0 = false := rfl
theorem State.anyPendG_eq_true {s : State} {ns : List (BitVec 4)} : s.anyPendG ns = true ↔ ∃ n ∈ ns, s.me.pendG n.toNat = true := by
  simp [State.anyPendG]
/-- A gate waits, and nothing has changed, while a register that it names awaits a reply. -/
theorem State.gate_pending {s : State} {uses all : List (BitVec 4)} {body : Out} (h : ∃ n ∈ all, s.me.pendG n.toNat = true) :
    s.gate uses all body = .wait s := by
  simp [State.gate, State.anyPendG_eq_true.2 h]
/-- A gate whose registers have arrived consumes the poison of its first poisoned source. -/
theorem State.gate_poisoned {s : State} {uses all : List (BitVec 4)} {body : Out} {n : BitVec 4}
    (h : ∀ n ∈ all, s.me.pendG n.toNat = false) (hn : s.firstPoison uses = some n) : s.gate uses all body = s.poisonReg n.toNat := by
  simp [State.gate, State.anyPendG_eq_false h, hn]
theorem waits_of_wait {i : Instr} {s : State} {o : Out} (ho : o = .wait s) (hi : exec i s = s.finish o) : Waits i s s := by
  rw [Waits, hi, ho, State.finish_wait]
/-- A computation whose registers have arrived, one of its sources poisoned, traps with the first such. -/
theorem exec_alu_poisoned {i : Instr} {s : State} {d : BitVec 4} {rs : List (BitVec 4)} {v : Word} {n : BitVec 4}
    (h : ∀ n ∈ d :: rs, s.me.pendG n.toNat = false) (hn : s.firstPoison rs = some n)
    (hi : exec i s = s.finish (s.alu d rs v) := by rfl) : exec i s = .next (s.takeTrap ⟨0x0E, 0, w64 n.toNat, s.allLanes⟩) := by
  rw [hi, State.alu, State.gate_poisoned h hn]; rfl

/-- Settles O47: a gang register form waits at its gate, or traps there; `mov` names `g0` beside its source, which never waits. -/
theorem pendingWaitsPoisonTraps : Obligations.PendingWaitsPoisonTraps := by
  intro s i d rs h
  obtain ⟨v, hi⟩ | ⟨a, rfl, hm, hi⟩ := exec_gangForm h s
  · exact ⟨fun hp => waits_of_wait (State.gate_pending hp) hi, fun hp _ _ n hn => exec_alu_poisoned hp hn hi⟩
  · refine ⟨fun hp => waits_of_wait (State.gate_pending ?_) hi, fun _ hadd hcompact => ?_⟩
    · simpa [Core.pendG_zero] using hp
    · obtain rfl | ⟨e, f, rfl, -, -⟩ := hm
      · exact absurd rfl (hadd d a)
      · exact absurd rfl (hcompact e f)

/-! ### Division (R101) -/

/-- The quotient is Lean's truncating division of words, and the remainder is its remainder, for every divisor but 0. -/
theorem quotS_eq_sdiv {a b : Word} (hb : b ≠ 0) : quotS a b = a.sdiv b :=
  BitVec.eq_of_toInt_eq (by rw [quotS, if_neg hb, BitVec.toInt_ofInt, BitVec.toInt_sdiv])
theorem remS_toInt {a b : Word} (hb : b ≠ 0) : (remS a b).toInt = a.toInt.tmod b.toInt := by
  have h : (a.srem b).toInt.bmod (2 ^ 64) = (a.srem b).toInt := BitVec.toInt_bmod_cancel _
  rw [BitVec.toInt_srem] at h
  rw [remS, if_neg hb, BitVec.toInt_ofInt, h]
theorem quotN_toNat {a b : Word} (hb : b ≠ 0) : (quotN a b).toNat = a.toNat / b.toNat := by
  rw [quotN, if_neg hb, BitVec.toNat_ofNat, Nat.mod_eq_of_lt (lt_of_le_of_lt (Nat.div_le_self _ _) a.isLt)]
theorem remN_toNat {a b : Word} (hb : b ≠ 0) : (remN a b).toNat = a.toNat % b.toNat := by
  rw [remN, if_neg hb, BitVec.toNat_ofNat, Nat.mod_eq_of_lt (lt_of_le_of_lt (Nat.mod_le _ _) a.isLt)]
/-- The least number over -1 wraps to itself, with remainder 0. -/
theorem division_overflow {a b : Word} (ha : a.toInt = -2 ^ 63) (hb : b.toInt = -1) :
    (quotS a b).toInt = -2 ^ 63 ∧ remS a b = 0 := by
  obtain rfl : a = BitVec.intMin 64 := BitVec.eq_of_toInt_eq ha
  obtain rfl : b = -1#64 := BitVec.eq_of_toInt_eq hb
  decide
/-- The exact equation of the signed division, with a remainder below the divisor in magnitude. -/
theorem division_signed {a b : Word} (hb : b ≠ 0) (h : ¬(a.toInt = -2 ^ 63 ∧ b.toInt = -1)) :
    a.toInt = (quotS a b).toInt * b.toInt + (remS a b).toInt ∧ (remS a b).toInt.natAbs < b.toInt.natAbs := by
  have hne : a ≠ BitVec.intMin 64 ∨ b ≠ -1#64 := by
    by_contra hc
    obtain ⟨rfl, rfl⟩ : a = BitVec.intMin 64 ∧ b = -1#64 := by simpa only [ne_eq, not_or, not_not] using hc
    exact h ⟨rfl, rfl⟩
  have hb' : b.toInt ≠ 0 := fun e => hb (BitVec.eq_of_toInt_eq e)
  rw [quotS_eq_sdiv hb, BitVec.toInt_sdiv_of_ne_or_ne _ _ hne, remS_toInt hb, Int.natAbs_tmod]
  exact ⟨(Int.tdiv_mul_add_tmod _ _).symm, Nat.mod_lt _ (Int.natAbs_pos.2 hb')⟩
/-- The same of the unsigned division. -/
theorem division_unsigned {a b : Word} (hb : b ≠ 0) :
    a.toNat = (quotN a b).toNat * b.toNat + (remN a b).toNat ∧ (remN a b).toNat < b.toNat := by
  have hb' : b.toNat ≠ 0 := fun e => hb (BitVec.eq_of_toNat_eq e)
  rw [quotN_toNat hb, remN_toNat hb]
  exact ⟨(Nat.div_add_mod' _ _).symm, Nat.mod_lt _ (Nat.pos_of_ne_zero hb')⟩
theorem division_by_zero (a : Word) : quotS a 0 = BitVec.ofNat 64 (2 ^ 64 - 1) ∧ quotN a 0 = BitVec.ofNat 64 (2 ^ 64 - 1) ∧
    remS a 0 = a ∧ remN a 0 = a := ⟨rfl, rfl, rfl, rfl⟩

/-- Settles O45: the four results are those of the model's division, whose corner cases and equations are the lemmas above; a
poisoned operand is consumed at the gate. -/
theorem divisionRule : Obligations.DivisionRule := by
  refine fun s d a b => ⟨fun h => ?values, fun hp hab => ?poison⟩
  case values =>
    refine ⟨quotS (s.readG a) (s.readG b), remS (s.readG a) (s.readG b), quotN (s.readG a) (s.readG b), remN (s.readG a) (s.readG b),
      completes_alu h, completes_alu h, completes_alu h, completes_alu h, fun hz => ?_, division_overflow, fun hb => ?_⟩
    · rw [hz]; exact division_by_zero _
    · obtain ⟨hq, hr⟩ := division_unsigned (a := s.readG a) hb
      exact ⟨hq, hr, division_signed hb⟩
  case poison =>
    obtain ⟨n, hn⟩ : ∃ n, s.firstPoison [a, b] = some n := by
      rw [← Option.isSome_iff_exists, State.firstPoison, List.find?_isSome]
      simpa using hab
    refine ⟨n, List.mem_of_find?_eq_some hn, by simpa using List.find?_some hn, ?_⟩
    simp only [List.forall_mem_cons, List.not_mem_nil, false_imp_iff, implies_true, and_true]
    exact ⟨exec_alu_poisoned hp hn, exec_alu_poisoned hp hn, exec_alu_poisoned hp hn, exec_alu_poisoned hp hn⟩

end Sys2Proof.Machine

/-! SUPPORT. Local control (spec/04 R114-R122): a conditional form that is ready goes on with its condition; a transfer is taken to
a target in its routine, or falls through; and what `b.n` and `loop.n` leave in the queue. -/
namespace Sys2Proof.Machine

open Sys2Proof.Spec
set_option Elab.async false

/-! ### Transfers that are ready -/

theorem State.onCondition_ready {s : State} {a : BitVec 4} {c : BitVec 3} (h : CondReady s a c) (body : Bool → Out) :
    s.onCondition a c body = body (condition c.toNat (s.readG a) s.gang (a.toNat % 8)) := by
  simp only [State.onCondition, State.gate_ready h.1, h.2]; rfl
theorem State.transfer_inRoutine {s t : State} {taken n : Bool} {x : Int} {i : Word} (ht : taken = true) (h : InRoutine s x) :
    s.transfer taken n x i t = .take t (hereAt s x) := by
  rw [ht, State.transfer_taken h.1 h.2]; rfl
theorem State.transfer_falls {s t : State} {taken n : Bool} {x : Int} {i : Word} (ht : taken = false) :
    s.transfer taken n x i t = .next (if n then t.annul else t) := by
  rw [ht, State.transfer_not]
/-- A transfer whose Operation is taken jumps. -/
theorem jumps_of_take {i : Instr} {s t : State} {o : Out} {target : BitVec 32} (ho : o = .take t target)
    (hi : exec i s = s.finish o := by rfl) : Jumps i s t target := by
  rw [Jumps, hi, ho, State.finish_take]
/-- The displacement of a compact form, sign-extended to that of its alias (spec/03 R88). -/
theorem State.branchTarget_signExtend (s : State) {m n : Nat} (p : BitVec m) (h : m ≤ n) :
    s.branchTarget (p.signExtend n) = (offsetOf s.gang.q0 : Int) + p.toInt := by
  rw [State.branchTarget, BitVec.toInt_signExtend_of_le h]

/-! ### Branches, calls and loops, by whether they are taken -/

section
variable {s : State} {a : BitVec 4} {c : BitVec 3} {p : BitVec 16}

theorem b_taken (h : CondReady s a c) (hc : condition c.toNat (s.readG a) s.gang (a.toNat % 8) = true)
    (hin : InRoutine s (s.branchTarget p)) : Jumps (.b a c p) s s (hereAt s (s.branchTarget p)) :=
  jumps_of_take ((State.onCondition_ready h _).trans (State.transfer_inRoutine hc hin))
theorem b_falls (h : CondReady s a c) (hc : condition c.toNat (s.readG a) s.gang (a.toNat % 8) = false) :
    Completes (.b a c p) s s :=
  completes_of_next ((State.onCondition_ready h _).trans (State.transfer_falls hc))
theorem bN_taken (h : CondReady s a c) (hc : condition c.toNat (s.readG a) s.gang (a.toNat % 8) = true)
    (hin : InRoutine s (s.branchTarget p)) : Jumps (.bN a c p) s s (hereAt s (s.branchTarget p)) :=
  jumps_of_take ((State.onCondition_ready h _).trans (State.transfer_inRoutine hc hin))
theorem bN_falls (h : CondReady s a c) (hc : condition c.toNat (s.readG a) s.gang (a.toNat % 8) = false) :
    Completes (.bN a c p) s s.annul :=
  completes_of_next ((State.onCondition_ready h _).trans (State.transfer_falls hc))
theorem call_taken (h : CondReady s a c) (hc : condition c.toNat (s.readG a) s.gang (a.toNat % 8) = true)
    (hin : InRoutine s (s.branchTarget p)) (h15 : s.me.pendG 15 = false) :
    Jumps (.call a c p) s (s.writeG 15 (linkOf s)) (hereAt s (s.branchTarget p)) := by
  refine jumps_of_take ((State.onCondition_ready h _).trans ?_)
  have h15' : s.anyPendG [15] = false := State.anyPendG_eq_false (by simpa using h15)
  rw [hc, h15']
  exact State.transfer_inRoutine (s := s) (t := s.writeG 15 s.link) (n := false) rfl hin
theorem call_falls (h : CondReady s a c) (hc : condition c.toNat (s.readG a) s.gang (a.toNat % 8) = false) :
    Completes (.call a c p) s s := by
  refine completes_of_next ((State.onCondition_ready h _).trans ?_)
  rw [hc]
  rfl

theorem loopForm_taken {n : Bool} (h : Ready s [a] [a]) (hv : s.readG a - 1 ≠ 0) (hin : InRoutine s (s.branchTarget p)) :
    s.loopForm n a p = .take (s.writeG a (s.readG a - 1)) (hereAt s (s.branchTarget p)) :=
  (State.loopForm_ready h).trans (State.transfer_inRoutine (decide_eq_true hv) hin)
theorem loopForm_falls {n : Bool} (h : Ready s [a] [a]) (hv : s.readG a - 1 = 0) :
    s.loopForm n a p = .next (if n then (s.writeG a (s.readG a - 1)).annul else s.writeG a (s.readG a - 1)) :=
  (State.loopForm_ready h).trans (State.transfer_falls (decide_eq_false (not_not.2 hv)))

end

/-- Settles O3. -/
theorem branchesAndCallsComplete : Obligations.BranchesAndCallsComplete := by
  rintro s a c p _ h rfl
  exact ⟨fun hc hin => ⟨b_taken h hc hin, bN_taken h hc hin, call_taken h hc hin⟩,
    fun hc => ⟨b_falls h hc, call_falls h hc, bN_falls h hc⟩⟩

/-! ### Jumps and compare branches -/

/-- The fields of a code address in the current routine, as `ret` checks them (R121). -/
theorem ret_fields {r off : Nat} (hr : r < 65536) (ho : off < 8192) : let v := w64 (r * 65536 + off)
    fieldOf v 63 32 = 0 ∧ fieldOf v 31 16 = r ∧ fieldOf v 15 13 = 0 ∧ fieldOf v 12 0 = off := by
  have hv : (w64 (r * 65536 + off)).toNat = r * 65536 + off := by
    rw [w64, BitVec.toNat_ofNat, Nat.mod_eq_of_lt (by omega)]
  simp only [fieldOf, hv]
  omega
theorem routineOf_lt (a : BitVec 32) : routineOf a < 65536 := by
  have := a.isLt
  unfold routineOf; omega
/-- `ret` to an offset in the routine (R121). -/
theorem ret_taken {s : State} {a : BitVec 4} {off : Nat} (h : Ready s [a] [a]) (ho : off < 8192) (hin : InRoutine s off)
    (hv : s.readG a = w64 (routineOf s.gang.q0 * 65536 + off)) : Jumps (.ret a) s s (hereAt s off) := by
  obtain ⟨h1, h2, h3, h4⟩ := ret_fields (routineOf_lt s.gang.q0) ho
  refine jumps_of_take ((State.gate_ready h _).trans ?_)
  dsimp only
  rw [hv, h1, h2, h3, h4, if_neg (by simp)]
  exact State.transfer_inRoutine rfl hin

/-- A compare branch goes by its relation (R119). -/
theorem compareForm_goes {s : State} {a b : BitVec 4} {p : BitVec 15} {i : Instr} {rel : Word → Word → Bool} {r : Prop}
    (h : Ready s [a, b] [a, b]) (hr : rel (s.readG a) (s.readG b) = true ↔ r)
    (hi : exec i s = s.finish (s.compareForm a b p rel) := by rfl) :
    (r → InRoutine s (s.branchTarget p) → Jumps i s s (hereAt s (s.branchTarget p))) ∧ (¬r → Completes i s s) := by
  refine ⟨fun ht hin => jumps_of_take ?_ hi, fun ht => completes_of_next ?_ hi⟩
  · exact (State.compareForm_ready h).trans (State.transfer_inRoutine (hr.2 ht) hin)
  · exact (State.compareForm_ready h).trans (State.transfer_falls (by simpa using mt hr.1 ht))

theorem lessS_iff (x y : Word) : lessS x y = true ↔ x.toInt < y.toInt := decide_eq_true_iff
theorem lessN_iff (x y : Word) : lessN x y = true ↔ x.toNat < y.toNat := decide_eq_true_iff
theorem not_lessS_iff (x y : Word) : (!lessS x y) = true ↔ y.toInt ≤ x.toInt := by simp [lessS]
theorem not_lessN_iff (x y : Word) : (!lessN x y) = true ↔ y.toNat ≤ x.toNat := by simp [lessN]

/-! ### Compact transfers (spec/03 R88) -/

/-- Condition 0 reads nothing. -/
theorem condReady_always (s : State) (a : BitVec 4) : CondReady s a 0 := ⟨⟨by simp [condReads], by simp [condReads]⟩, rfl⟩
/-- Conditions 1 and 2 read their register. -/
theorem condReady_register {s : State} {a : BitVec 4} {c : BitVec 3} (h : Ready s [a] [a]) (hc : c = 1 ∨ c = 2) : CondReady s a c := by
  obtain rfl | rfl := hc
  · exact ⟨h, rfl⟩
  · exact ⟨h, rfl⟩

/-- Settles O4: the forms that always go, the loops and the compare branches; a compact form is its alias, with its displacement
sign-extended. -/
theorem jumpsLoopsComparesComplete : Obligations.JumpsLoopsComparesComplete := by
  refine ⟨⟨fun s a off h ho hl hv => ?ret, fun s a b h hin => ?jr, fun s d a h hin => ?callr, fun s a p t h ht => ?loops,
    fun s a b p t h ht => ?compares, fun s => ⟨rfl, rfl⟩⟩, fun s p t ht hin => ?compactB, fun s a p t h ht => ?compact⟩
  case ret => exact ret_taken h ho ⟨Int.natCast_nonneg _, Int.ofNat_lt.2 hl⟩ hv
  case jr => exact jumps_of_take ((State.gate_ready h _).trans (State.transfer_inRoutine rfl hin))
  case callr => exact jumps_of_take ((State.gate_ready h _).trans (State.transfer_inRoutine rfl hin))
  case loops =>
    subst ht
    exact ⟨fun hv hin => ⟨jumps_of_take (loopForm_taken h hv hin), jumps_of_take (loopForm_taken h hv hin)⟩,
      fun hv => ⟨completes_of_next (loopForm_falls h hv), completes_of_next (loopForm_falls h hv)⟩⟩
  case compares =>
    subst ht
    exact ⟨compareForm_goes h decide_eq_true_iff, compareForm_goes h decide_eq_true_iff, compareForm_goes h (lessS_iff _ _),
      compareForm_goes h (lessN_iff _ _), compareForm_goes h (not_lessS_iff _ _), compareForm_goes h (not_lessN_iff _ _)⟩
  case compactB =>
    obtain rfl := ht.trans (s.branchTarget_signExtend p (by decide : 10 ≤ 16)).symm
    exact b_taken (condReady_always s 0) rfl hin
  case compact =>
    obtain rfl := ht.trans (s.branchTarget_signExtend p (by decide : 7 ≤ 16)).symm
    have h1 := condReady_register h (.inl rfl)
    have h2 := condReady_register h (.inr rfl)
    exact ⟨fun hv => ⟨b_falls h2 (decide_eq_false (not_not.2 hv)), b_taken h1 (decide_eq_true hv)⟩,
      fun hv => ⟨b_falls h1 (decide_eq_false hv), b_taken h2 (decide_eq_true hv)⟩,
      fun hv hin => jumps_of_take (loopForm_taken h hv hin), fun hv => completes_of_next (loopForm_falls h hv)⟩

/-! ### The queue after an instruction -/

/-- The end of an instruction that an unstepped gang has executed adds nothing to retirement. -/
theorem State.clearStep_retire {t : State} (n : Option (BitVec 32)) (h1 : t.gang.step = .off) (h2 : t.gang.stepDebug = false) :
    (t.retire n).clearStep = t.retire n := by
  unfold State.clearStep
  split
  · rfl
  have e1 : t.me.gang.step = .off := h1
  have e2 : t.me.gang.stepDebug = false := h2
  rw [State.modGang_eq]
  show (t.retire n).setMe ((t.retire n).me.modGang _) = _
  rw [State.me_retire, Core.retire_modGang_self]
  · exact State.setCore_setCore t t.cur _ _
  · rw [Core.gang_retire]; simp [Gang.retire, Gang.advance, e1, e2]
theorem State.stepCause_unstepped {s : State} (h : Unstepped s) : s.stepCause = [] := by simp [State.stepCause, h.1]
theorem jumped_unstepped {s t : State} {a : BitVec 32} (h : Unstepped s) (h1 : t.gang.step = .off) (h2 : t.gang.stepDebug = false) :
    jumped s t a = t.retire (some a) := by
  rw [jumped, State.clearStep_retire _ h1 h2, State.stepCause_unstepped h]; rfl
/-- The queue advances, with its annul marks (R114, R115). -/
theorem State.queue_retire (t : State) (n : Option (BitVec 32)) :
    (t.retire n).gang.q0 = t.gang.q1 ∧ (t.retire n).gang.q1 = t.gang.q2 ∧
      (t.retire n).gang.q2 = n.getD (t.me.succ t.gang.q2) ∧ (t.retire n).gang.ann0 = t.gang.ann1 ∧
      (t.retire n).gang.ann1 = t.gang.ann2 ∧ (t.retire n).gang.ann2 = false := by
  rw [State.gang_retire, Core.gang_retire]; exact ⟨rfl, rfl, rfl, rfl, rfl, rfl⟩
theorem State.gang_annul (s : State) : s.annul.gang = { s.gang with ann1 := true, ann2 := true } := State.gang_modGang s _
theorem State.gang_writeG (s : State) (d : BitVec 4) (v : Word) (p : Bool) :
    ∃ a b, (s.writeG d v p).gang = { s.gang with g := a, gPoison := b } := by
  obtain ⟨a, b, h⟩ := Core.gang_writeG s.me d.toNat v p
  exact ⟨a, b, by rw [State.writeG_eq, State.gang, State.me_modMe, h]; rfl⟩

/-- A nullifying form that is not taken, from a state whose queue is that of `s`: both slots are annulled (R115). -/
theorem annulled_of_falls {i : Instr} {s t u : State} {a : List (Nat × Word)} {b : BitVec 16} (h : Unstepped s)
    (ht : t.gang = { s.gang with g := a, gPoison := b }) (hc : Completes i s t.annul) (hu : exec i s = .next u) :
    u.gang.ann0 = true ∧ u.gang.ann1 = true ∧ u.gang.q0 = s.gang.q1 ∧ u.gang.q1 = s.gang.q2 := by
  have hg : t.annul.gang = { s.gang with g := a, gPoison := b, ann1 := true, ann2 := true } := by rw [State.gang_annul, ht]
  obtain rfl : u = t.annul.retire none := by
    have he := hu.symm.trans hc
    rw [retired_unstepped h (by rw [hg]; exact h.1) (by rw [hg]; exact h.2)] at he
    exact Host.Outcome.next.inj he
  obtain ⟨h0, h1, -, hn0, hn1, -⟩ := t.annul.queue_retire none
  rw [h0, h1, hn0, hn1, hg]
  exact ⟨rfl, rfl, rfl, rfl⟩
/-- One that is taken annuls nothing: the marks advance with the queue. -/
theorem unannulled_of_taken {i : Instr} {s t u : State} {target : BitVec 32} {a : List (Nat × Word)} {b : BitVec 16} (h : Unstepped s)
    (ht : t.gang = { s.gang with g := a, gPoison := b }) (hj : Jumps i s t target) (hu : exec i s = .next u) :
    u.gang.ann0 = s.gang.ann1 ∧ u.gang.ann1 = s.gang.ann2 ∧ u.gang.ann2 = false ∧ u.gang.q2 = target := by
  obtain rfl : u = t.retire (some target) := by
    have he := hu.symm.trans hj
    rw [jumped_unstepped h (by rw [ht]; exact h.1) (by rw [ht]; exact h.2)] at he
    exact Host.Outcome.next.inj he
  obtain ⟨-, -, h2, hn0, hn1, hn2⟩ := t.queue_retire (some target)
  rw [h2, hn0, hn1, hn2, ht]
  exact ⟨rfl, rfl, rfl, rfl⟩

end Sys2Proof.Machine

/-! SUPPORT. Frames (spec/04 R114): what a change of the acting core leaves as it was, and what retirement does. -/
namespace Sys2Proof.Machine

open Sys2Proof.Spec
set_option Elab.async false

/-! ### A change of the acting core alone -/

theorem restStays_modMe (s : State) (f : Core → Core) : RestStays s (s.modMe f) := ⟨rfl, fun _ hc => s.core_modMe_ne f hc⟩
theorem sameMemory_modMe {s : State} {f : Core → Core} (h : (f s.me).mem = s.me.mem) : SameMemory s (s.modMe f) := by
  refine fun a => ⟨rfl, rfl, fun c => ?_⟩
  by_cases hc : c = s.cur
  · subst hc; rw [State.core_modMe, if_pos rfl, h]; exact ⟨rfl, rfl⟩
  · rw [State.core_modMe_ne s f hc]; exact ⟨rfl, rfl⟩
theorem State.retire_modMe (s : State) (f : Core → Core) (n : Option (BitVec 32)) :
    (s.modMe f).retire n = s.modMe fun k => (f k).retire n := State.modMe_modMe s f _
theorem State.readG_modMe (s : State) (f : Core → Core) (n : BitVec 4) : (s.modMe f).readG n = (f s.me).readG n.toNat := by
  rw [State.readG, State.me_modMe]
theorem State.gang_modMe (s : State) (f : Core → Core) : (s.modMe f).gang = (f s.me).gang := by rw [State.gang, State.me_modMe]

/-! ### Gang registers of a core -/

/-- The registers are those of the level: the trap bank at level 1, else the gang's (spec/01 Table 1-3). -/
theorem Core.readG_congr {k l : Core} (hp : l.priv = k.priv) (hb : l.trapBank = k.trapBank) (hg : l.gang.g = k.gang.g) (n : Nat) :
    l.readG n = k.readG n := by
  unfold Core.readG; rw [hp, hb, hg]
theorem Core.poisonG_congr {k l : Core} (hp : l.priv = k.priv) (hb : l.bankPoison = k.bankPoison) (hg : l.gang.gPoison = k.gang.gPoison)
    (n : Nat) : l.poisonG n = k.poisonG n := by
  unfold Core.poisonG; rw [hp, hb, hg]
@[simp] theorem Core.readG_retire (k : Core) (n : Option (BitVec 32)) (m : Nat) : (k.retire n).readG m = k.readG m :=
  Core.readG_congr (k := k) (l := k.retire n) rfl rfl (by rw [Core.gang_retire]; rfl) m
@[simp] theorem Core.poisonG_retire (k : Core) (n : Option (BitVec 32)) (m : Nat) : (k.retire n).poisonG m = k.poisonG m :=
  Core.poisonG_congr (k := k) (l := k.retire n) rfl rfl (by rw [Core.gang_retire]; rfl) m
/-- A write to one register leaves the others, and their marks. -/
theorem Core.readG_writeG_ne (k : Core) {n m : Nat} (v : Word) (p : Bool) (h : m ≠ n) : (k.writeG n v p).readG m = k.readG m := by
  by_cases h0 : n = 0
  · rw [h0, Core.writeG_zero]
  · rw [Core.readG_writeG k m v p h0, if_neg h]
theorem getLsbD_bput_ne {w : Nat} (b : BitVec w) {i j : Nat} (v : Bool) (h : j ≠ i) : (bput b i v).getLsbD j = b.getLsbD j := by
  have hj : (1#w <<< i).getLsbD j = false := by
    simp only [BitVec.getLsbD_shiftLeft, BitVec.getLsbD_one]
    by_cases hji : j < i
    · simp [hji]
    · have : j - i ≠ 0 := by omega
      simp [this]
  cases v
  · have hb : b.getLsbD j = true → j < w := BitVec.lt_of_getLsbD
    show (b &&& ~~~(1#w <<< i)).getLsbD j = _
    rw [BitVec.getLsbD_and, BitVec.getLsbD_not, hj]
    cases h : b.getLsbD j <;> simp_all
  · show (b ||| 1#w <<< i).getLsbD j = _
    rw [BitVec.getLsbD_or, hj, Bool.or_false]
theorem Core.poisonG_writeG_ne (k : Core) {n m : Nat} (v : Word) (p : Bool) (h : m ≠ n) : (k.writeG n v p).poisonG m = k.poisonG m := by
  unfold Core.writeG
  split
  · rfl
  split
  next hp => unfold Core.poisonG; simp only [hp, if_true, getLsbD_bput_ne _ _ h]
  next hp =>
    have hp' : (k.modGang fun g => { g with g := mset 0 g.g n v, gPoison := bput g.gPoison n p }).priv = k.priv := rfl
    unfold Core.poisonG; rw [hp', if_neg hp, if_neg hp, Core.gang_modGang, getLsbD_bput_ne _ _ h]

/-! ### Retirement -/

/-- What retirement leaves of a core: its gangs, RETIRED and its counter, the last slot, the stall count and its notice apart,
everything. -/
theorem Core.retire_shape (k : Core) (n : Option (BitVec 32)) : ∃ gs cs, k.retire n =
    { k with gangs := gs, counters := cs, retired := k.retired + 1, lastSlot := k.slot, stall := 0, barked := false } ∧
      ∀ m, m ≠ 0x0101 → mget 0 cs m = mget 0 k.counters m :=
  ⟨_, mset 0 k.counters 0x0101 (mget 0 k.counters 0x0101 + 1), rfl, fun m hm => by rw [mget_mset, if_neg hm]⟩
/-- The gang has moved on, when its Operation has changed no more of it than registers, and no code (R114). -/
theorem movesOn_retire {s : State} {f : Core → Core} {a : List (Nat × Word)} {b : BitVec 16}
    (hg : (f s.me).gang = { s.me.gang with g := a, gPoison := b }) (hs : (f s.me).succ = s.me.succ) :
    MovesOn s ((s.modMe f).retire none) := by
  have h : ((s.modMe f).retire none).gang = { (f s.me).gang.retire ((f s.me).succ (f s.me).gang.q2) ((f s.me).priv = 1) with
      waiting := false } := by
    rw [State.gang_retire, State.me_modMe, Core.gang_retire]; rfl
  rw [MovesOn, h, hg, hs]
  exact ⟨rfl, rfl, rfl, rfl, rfl, rfl, rfl⟩
theorem lanes_retire {s : State} {f : Core → Core} (hg : (f s.me).gang.lanes = s.me.gang.lanes) :
    ((s.modMe f).retire none).gang.lanes = s.gang.lanes := by
  rw [State.gang_retire, State.me_modMe, Core.gang_retire]; exact hg

/-! ### The frame of a register write -/

/-- No special register but RETIRED is read from a trap bank, a counter, or of a gang from more than its lanes, its grant and its
channel (spec/01 Table 1-4). -/
theorem special_modMe {s : State} {f : Core → Core} {gs tb bp r cs ls st bk}
    (h : f s.me = { s.me with
      gangs := gs, trapBank := tb, bankPoison := bp, retired := r, counters := cs, lastSlot := ls, stall := st, barked := bk })
    (hl : (f s.me).gang.lanes = s.me.gang.lanes) (hg : (f s.me).gang.grant = s.me.gang.grant)
    (hc : (f s.me).gang.channel = s.me.gang.channel) {n : Nat} (hn : n ≠ 0x0E) : (s.modMe f).special n = s.special n := by
  have hme : (s.modMe f).me = f s.me := s.me_modMe f
  have hcore : (s.modMe f).core s.cur = f s.me := hme
  unfold State.special
  split
  case h_6 => simp only [hme, hl]
  case h_7 => simp only [hme, hg]
  case h_8 => simp only [hme, hc]
  case h_12 => exact absurd rfl hn
  all_goals simp only [State.ofContext, State.cycleOf, State.timerRead, State.modMe_cur, hme, hcore, h]
  all_goals rfl

/-- What the end of an instruction that has written a gang register leaves of its core. -/
theorem coreStays_writeG_retire (s : State) (d : BitVec 4) (v : Word) (p : Bool) :
    CoreStays s (s.modMe fun k => (k.writeG d.toNat v p).retire none) := by
  obtain ⟨gs, tb, bp, hw⟩ := Core.writeG_shape s.me d.toNat v p
  obtain ⟨x, y, hgw⟩ := Core.gang_writeG s.me d.toNat v p
  obtain ⟨hs, cs, hr, hcs⟩ := Core.retire_shape (s.me.writeG d.toNat v p) none
  have hg : ((s.me.writeG d.toNat v p).retire none).gang =
      { ({ s.me.gang with g := x, gPoison := y } : Gang).retire ((s.me.writeG d.toNat v p).succ s.me.gang.q2)
          ((s.me.writeG d.toNat v p).priv = 1) with waiting := false } := by
    rw [Core.gang_retire, hgw]; rfl
  have hshape : (s.me.writeG d.toNat v p).retire none = { s.me with
      gangs := hs, trapBank := tb, bankPoison := bp, retired := s.me.retired + 1, counters := cs, lastSlot := s.me.slot, stall := 0,
      barked := false } := by rw [hr, hw]
  refine ⟨?_, fun n hn => ?_, ?_, fun n hn => ?_, fun j hj => ?_⟩
  · rw [State.me_modMe, hshape]
  · rw [State.me_modMe, hr, hcs n hn, hw]
  · rw [State.me_modMe, hshape]
  · exact special_modMe hshape (by rw [hg]; rfl) (by rw [hg]; rfl) (by rw [hg]; rfl) hn
  · rw [State.me_modMe, Core.at_retire_ne _ _ (by rw [hw]; exact hj), Core.at_writeG_ne _ _ _ _ hj]

/-- Settles O42: a gang register form ends as a write of its destination and retirement do. -/
theorem gangFormsFrame : Obligations.GangFormsFrame := by
  intro s i d rs hf hready hu
  obtain ⟨v, p, hc⟩ : ∃ v p, Completes i s (s.writeG d v p) := by
    obtain ⟨v, hi⟩ | ⟨a, rfl, -, hi⟩ := exec_gangForm hf s
    · exact ⟨v, false, completes_alu hready hi⟩
    · exact ⟨_, _, completes_of_next (State.mov_ready (ready_mono hready (by simp) (by simp))) hi⟩
  obtain ⟨x, y, hg⟩ := Core.gang_writeG s.me d.toNat v p
  obtain ⟨gs, tb, bp, hw⟩ := Core.writeG_shape s.me d.toNat v p
  obtain ⟨a, b, hsg⟩ := s.gang_writeG d v p
  have ht : retired s (s.writeG d v p) = s.modMe fun k => (k.writeG d.toNat v p).retire none := by
    rw [retired_unstepped hu (by rw [hsg]; exact hu.1) (by rw [hsg]; exact hu.2)]
    exact s.retire_modMe _ _
  refine ⟨_, hc.trans (congrArg _ ht), restStays_modMe _ _, sameMemory_modMe ?_, coreStays_writeG_retire s d v p, ?_, ?_,
    fun n hn => ?_⟩
  · obtain ⟨_, _, hr, -⟩ := Core.retire_shape (s.me.writeG d.toNat v p) none
    rw [hr, hw]
  · rw [← State.retire_modMe s (·.writeG d.toNat v p)]
    exact movesOn_retire hg (by rw [hw]; rfl)
  · rw [← State.retire_modMe s (·.writeG d.toNat v p)]
    exact lanes_retire (by rw [hg])
  · have hn' : n.toNat ≠ d.toNat := fun e => hn (BitVec.eq_of_toNat_eq e)
    rw [State.readG_modMe, State.me_modMe, Core.readG_retire, Core.poisonG_retire, Core.readG_writeG_ne _ _ _ hn',
      Core.poisonG_writeG_ne _ _ _ hn']
    exact ⟨rfl, rfl⟩

/-! ### Annulled entries (R115, R116) -/

/-- An annulled entry stands in place of the instruction in Q0, wherever no boundary of a transfer does. -/
theorem State.fetch_annulled {s : State} (ha : s.gang.ann0 = true) (hx : (s.me.xfer.map (·.left)) ≠ some 0) :
    s.fetch = .ok .delaySlotAnnul := by
  simp only [State.fetch, if_neg hx, ha, if_true]
theorem State.fetch_error {s : State} {e : Cause} (h : s.fetch = .error e) : s.gang.ann0 = false := by
  by_contra ha
  rw [Bool.not_eq_false] at ha
  by_cases hx : (s.me.xfer.map (·.left)) = some 0
  · simp only [State.fetch, if_pos hx] at h; cases h
  · rw [State.fetch_annulled ha hx] at h; cases h

/-- The gang after an annulled entry: its queue has advanced, and a breakpoint that is to be passed over still is. -/
def Gang.passAnnulled (g : Gang) (next : BitVec 32) (routine : Bool) : Gang := { g.retire next routine with skipBreak := g.skipBreak }
def Core.passAnnulled (k : Core) : Core :=
  { k.modGang (fun g => g.passAnnulled (k.succ g.q2) (k.priv = 1)) with lastSlot := k.slot }
theorem exec_delaySlotAnnul (s : State) : exec .delaySlotAnnul s = .next (s.modMe Core.passAnnulled) := rfl
theorem Core.gang_passAnnulled (k : Core) : k.passAnnulled.gang = k.gang.passAnnulled (k.succ k.gang.q2) (k.priv = 1) :=
  Core.gang_modGang k fun g => g.passAnnulled (k.succ g.q2) (k.priv = 1)

/-- Settles O48: `b.n` and `loop.n` by whether they are taken; the annulled entry is a change of the acting core's queue. -/
theorem nullifyingBranchRule : Obligations.NullifyingBranchRule := by
  refine ⟨?branch, ?loop, fun s ha hx => ⟨State.fetch_annulled ha hx, ?entry⟩, fun s _ _ _ _ _ => everyStepGoesOn s,
    fun s e h => State.fetch_error h⟩
  case branch =>
    rintro s a c p _ h hu rfl
    obtain ⟨u, hu'⟩ := isNext_iff.1 (exec_isNext (.bN a c p) s)
    exact ⟨u, hu', fun hc => annulled_of_falls hu rfl (bN_falls h hc) hu',
      fun hc hin => unannulled_of_taken hu rfl (bN_taken h hc hin) hu'⟩
  case loop =>
    rintro s a p _ h hu rfl
    obtain ⟨u, hu'⟩ := isNext_iff.1 (exec_isNext (.loopN a p) s)
    obtain ⟨x, y, hg⟩ := s.gang_writeG a (s.readG a - 1) false
    exact ⟨u, hu', fun hv => annulled_of_falls hu hg (completes_of_next (loopForm_falls h hv)) hu',
      fun hv hin => unannulled_of_taken hu hg (jumps_of_take (loopForm_taken h hv hin)) hu'⟩
  case entry =>
    refine ⟨_, exec_delaySlotAnnul s, restStays_modMe _ _, sameMemory_modMe rfl, ?_, fun n => ?_, ?_, ?_⟩
    · rw [State.gang_modMe, Core.gang_passAnnulled]; rfl
    · rw [State.readG_modMe]
      exact Core.readG_congr (k := s.me) (l := s.me.passAnnulled) rfl rfl (by rw [Core.gang_passAnnulled]; rfl) _
    · rw [State.me_modMe]; rfl
    · rw [State.gang_modMe, Core.gang_passAnnulled]; rfl

end Sys2Proof.Machine

/-! SUPPORT. Gang memory instructions (spec/04 R104-R112): the shared forms of local and global accesses whose checks pass, and the
queries `xlq` and `chka`. -/
namespace Sys2Proof.Machine

open Sys2Proof.Spec
set_option Elab.async false

/-- An instruction whose Operation goes on to `t` with causes that come after it completes so. -/
theorem completes_of_next_after {i : Instr} {s t : State} {o : Out} {after : List Cause} (ho : o = .next t after)
    (hi : exec i s = s.finish o := by rfl) : Completes i s t after := by
  rw [Completes, hi, ho, State.finish_next]

/-! ### Local accesses (R104-R107) -/

/-- OFF4 times 8 of a compact form: the immediate of its alias is not negative (spec/03 R88). -/
theorem sext64_coff (o : BitVec 4) : sext64 11 (coff o).toNat = w64 (8 * o.toNat) := by revert o; decide
theorem State.eaM_compact (s : State) (a : BitVec 4) (o : BitVec 4) : s.eaM a 0 (coff o) = s.readG a + w64 (8 * o.toNat) := by
  rw [← sext64_coff]; rfl

section
variable {s : State} {addrs all : List (BitVec 4)} {ea : Word} {al mis : Nat}

/-- A local store at an aligned offset inside local memory, with no fence that holds it back. -/
theorem State.localStore_ready {t : State} {after : List Cause} (h : Ready s addrs all) (ha : s.me.acquiring = false)
    (hf : s.me.fenced = false) (h1 : ea.toNat < 0x18000) (h2 : ea.toNat % al = 0) :
    s.localForm addrs [] all ea al mis (if s.me.fenced then .wait s else .next t after) = .next t after := by
  rw [State.localForm_ready h ha h1 h2, hf]; rfl

end

/-- Settles O6: each local form goes on at its gate and its check, and does what it then does. -/
theorem localGangAccessesComplete : Obligations.LocalGangAccessesComplete := by
  refine fun s d a hacq hfen => ⟨?single, ?pair, ?zero, ?compact⟩
  case single =>
    rintro z e n f _ _ rfl rfl h h1 h2
    exact ⟨completes_of_next_after (State.localForm_ready h hacq h1 h2),
      completes_of_next_after (State.localStore_ready h hacq hfen h1 h2)⟩
  case pair =>
    rintro n f _ rfl h h1 h2
    exact ⟨completes_of_next_after (State.localForm_ready h hacq h1 h2),
      completes_of_next_after (State.localStore_ready h hacq hfen h1 h2)⟩
  case zero =>
    rintro n f _ rfl h h1 h2
    exact completes_of_next_after (State.localStore_ready h hacq hfen h1 h2)
  case compact =>
    intro x y o ea hea h h1 h2
    obtain rfl := hea.trans (s.eaM_compact (cg y) o).symm
    exact ⟨completes_of_next_after (State.localForm_ready (addrs := [cg y]) (all := [cg x, cg y]) h hacq h1 h2),
      completes_of_next_after (State.localStore_ready (addrs := [cg y]) (all := [cg x, cg y]) h hacq hfen h1 h2)⟩

/-! ### Global and core-space accesses (R108-R110) -/

section
variable {s : State} {k : Chk} {ea : Word} {size al mis : Nat}

theorem State.checked_reaches {w : Bool} (hk : Reaches k) (body : Chk → Out) : s.checked ea w k body = body k := by
  obtain ⟨c, off, rfl⟩ | ⟨pa, e, rfl⟩ := hk
  · exact s.checked_core ea w c off body
  · exact s.checked_phys ea w pa e body
theorem State.gangAccess_reaches {w : Bool} (ho : Open s) (hc : s.check ea size al w mis = k) (hk : Reaches k) (body : Chk → Out) :
    s.gangAccess ea size al w mis body = body k := by
  obtain ⟨c, off, rfl⟩ | ⟨pa, e, rfl⟩ := hk
  · exact State.gangAccess_core ho hc body
  · exact State.gangAccess_phys ho hc body
theorem State.whenStore_open (ho : Open s) (body : Out) : s.whenStore body = body := by
  obtain ⟨-, hf, -, -, hr⟩ := ho
  simp [State.whenStore, hf, hr]
theorem State.whenQueued_queued (hq : Queued s) (body : Out) : s.whenQueued body = body := by
  have hq' : ¬8 ≤ s.me.sendReq.length + s.heldBy (.core s.cur) := Nat.not_le.2 hq
  simp [State.whenQueued, hq']
theorem State.whenReleased_drained (hd : s.me.drained = true) (body : Out) : s.whenReleased body = body := by
  simp [State.whenReleased, hd]

variable {addrs : List (BitVec 4)}

/-- A load whose checks pass takes its entry (R108). -/
theorem State.loadForm_reaches {d : BitVec 4} {sx acq : Bool} (h : Ready s addrs (d :: addrs)) (ho : Open s)
    (hc : s.check ea size size false 0 = k) (hk : Reaches k) :
    s.loadForm d addrs ea size sx acq = .next (s.startLoad d size sx acq k) (s.watch true [⟨0, ea, size, true, false⟩]) := by
  have hroom : s.me.loadRoom 1 = true := ho.2.2.2.1
  rw [State.loadForm, State.gateAddr_ready' h, State.gangAccess_reaches ho hc hk, hroom]; rfl
/-- A store whose checks pass leaves, when the queue has room (R109). -/
theorem State.storeForm_reaches {regs : List (BitVec 4)} {ws : Nat → List Wr} (h : Ready s addrs (regs ++ addrs)) (ho : Open s)
    (hc : s.check ea size size true 1 = k) (hk : Reaches k) (hq : Queued s) :
    s.storeForm regs addrs ea size false ws = .next (s.sendStore s.gang.uids k.home (.store (ws k.at)))
      (s.watch true [⟨0, ea, size, false, true⟩]) := by
  rw [State.storeForm, State.gateAddr_ready' h, State.gangAccess_reaches ho hc hk, State.whenStore_open ho, State.whenQueued_queued hq]
  rfl
/-- A release store goes when every earlier access is performed (R110). -/
theorem State.storeForm_released {regs : List (BitVec 4)} {ws : Nat → List Wr} (h : Ready s addrs (regs ++ addrs)) (ho : Open s)
    (hc : s.check ea size size true 1 = k) (hk : Reaches k) (hq : Queued s) (hd : s.me.drained = true) :
    s.storeForm regs addrs ea size true ws = .next (s.sendStore s.gang.uids k.home (.store (ws k.at)))
      (s.watch true [⟨0, ea, size, false, true⟩]) := by
  rw [State.storeForm, State.gateAddr_ready' h, State.gangAccess_reaches ho hc hk, State.whenStore_open ho, State.whenQueued_queued hq]
  exact State.whenReleased_drained hd _

end

/-! ### Cache operations and queries (R111, R112) -/

theorem pf_completes {s : State} {a : BitVec 4} {n : BitVec 1} {f : BitVec 11} (h : Ready s [] (eaReads a n f)) :
    Completes (.pf a n f) s s :=
  completes_of_next (o := if s.anyPendG (eaReads a n f) then .wait s else .next s) (by rw [State.anyPendG_eq_false h.1]; rfl)

section
variable {s : State} {d a : BitVec 4} {n : BitVec 1} {f : BitVec 11}

/-- `wbk` of a block of core space does nothing. -/
theorem wbk_core (h : Ready s (eaReads a n f) (eaReads a n f)) (ho : Open s) (hb : badForm (s.eaM a n f) = false)
    (hc : inCoreSpace (s.eaM a n f) = true) (hs : s.sees (coreOf (s.eaM a n f)) = true) : Completes (.wbk a n f) s s := by
  refine completes_of_next ((State.gateAddr_ready' h _).trans ?_)
  rw [ho.1, hb, hc, hs]; rfl
/-- `wbk` of a block of a page that grants RD or WR leaves for its home. -/
theorem wbk_global {pa : Nat} {e : TlbEntry} (h : Ready s (eaReads a n f) (eaReads a n f)) (ho : Open s)
    (hb : badForm (s.eaM a n f) = false) (hc : inCoreSpace (s.eaM a n f) = false)
    (ht : s.translate s.cur s.gang (s.eaM a n f) anyGrant 0 = .phys pa e) :
    Completes (.wbk a n f) s (s.sendStore s.gang.uids none (.writeBack pa)) := by
  refine completes_of_next ((State.gateAddr_ready' h _).trans ?_)
  rw [ho.1, hb, hc, ht, State.checked_phys, ho.2.2.1, State.whenStore_open ho]; rfl

theorem xlq_badForm (h : Ready s (eaReads a n f) (d :: eaReads a n f)) (hb : badForm (s.eaM a n f) = true) :
    Completes (.xlq d a n f) s (s.writeG d 0) := by
  refine completes_of_next ((State.gateAddr_ready' h _).trans ?_)
  rw [hb]; rfl
theorem xlq_core (h : Ready s (eaReads a n f) (d :: eaReads a n f)) (hb : badForm (s.eaM a n f) = false)
    (hc : inCoreSpace (s.eaM a n f) = true) : Completes (.xlq d a n f) s (s.writeG d
      (if s.sees (coreOf (s.eaM a n f)) then
        w64 (1 + 2 * bnat (windowPermits (coreOffset (s.eaM a n f)) 8 false) + 4 * bnat (windowPermits (coreOffset (s.eaM a n f)) 8 true))
      else 0)) := by
  refine completes_of_next ((State.gateAddr_ready' h _).trans ?_)
  rw [hb, hc]
  cases s.sees (coreOf (s.eaM a n f)) <;> rfl
theorem xlq_mapped {pa : Nat} {e : TlbEntry} (h : Ready s (eaReads a n f) (d :: eaReads a n f)) (hb : badForm (s.eaM a n f) = false)
    (hc : inCoreSpace (s.eaM a n f) = false) (ht : s.translate s.cur s.gang (s.eaM a n f) (fun _ => true) 0 = .phys pa e) :
    Completes (.xlq d a n f) s (s.writeG d (w64 (1 + 2 * bnat e.rd + 4 * bnat e.wr + 8 * bnat e.large))) := by
  refine completes_of_next ((State.gateAddr_ready' h _).trans ?_)
  rw [hb, hc, ht]; rfl
theorem xlq_unmapped (h : Ready s (eaReads a n f) (d :: eaReads a n f)) (hb : badForm (s.eaM a n f) = false)
    (hc : inCoreSpace (s.eaM a n f) = false) (ht : s.translate s.cur s.gang (s.eaM a n f) (fun _ => true) 0 = .fault) :
    Completes (.xlq d a n f) s (s.writeG d 0) := by
  refine completes_of_next ((State.gateAddr_ready' h _).trans ?_)
  rw [hb, hc, ht]; rfl
theorem chka_completes {z : BitVec 2} {e : BitVec 1} (h : Ready s (eaReads a n f) (d :: eaReads a n f))
    (hk : s.check (s.eaM a n f) (2 ^ z.toNat) (2 ^ z.toNat) (e = 1) 0 ≠ .walk) :
    Completes (.chka d a z e n f) s
      (s.writeG d (w64 (s.check (s.eaM a n f) (2 ^ z.toNat) (2 ^ z.toNat) (e = 1) 0).cause)) := by
  refine completes_of_next ((State.gateAddr_ready' h _).trans ?_)
  show (match s.check (s.eaM a n f) (2 ^ z.toNat) (2 ^ z.toNat) (e = 1) 0 with
    | .walk => Out.wait (s.askWalks [pageOf (s.eaM a n f)])
    | c => .next (s.writeG d (w64 c.cause))) = _
  split
  next hw => exact absurd hw hk
  next => rfl

end

/-- Settles O7: loads and stores through their shared forms, the rest by what their checks find. -/
theorem globalGangAccessesComplete : Obligations.GlobalGangAccessesComplete := by
  refine ⟨fun s d a ho => ⟨?plain, ?ordered, ?zero, ?compact⟩, ?queries⟩
  case plain =>
    rintro z e n f _ _ k rfl rfl h hk
    exact ⟨fun hc => ⟨completes_of_next_after (State.loadForm_reaches h ho hc hk),
        completes_of_next_after (State.loadForm_reaches h ho hc hk)⟩,
      fun hc hq => ⟨completes_of_next_after (State.storeForm_reaches (regs := [d]) h ho hc hk hq),
        completes_of_next_after (State.storeForm_reaches (regs := [d]) h ho hc hk hq)⟩⟩
  case ordered =>
    rintro z e c _ k rfl h hk
    exact ⟨fun hc => completes_of_next_after (State.loadForm_reaches h ho hc hk),
      fun hc hd hq => completes_of_next_after (State.storeForm_released (regs := [d]) h ho hc hk hq hd)⟩
  case zero =>
    rintro n f _ k rfl h hc hk hq
    exact completes_of_next_after (State.storeForm_reaches (regs := []) h ho hc hk hq)
  case compact =>
    intro x y o ea k hea h hk
    obtain rfl := hea.trans (s.eaM_compact (cg y) o).symm
    exact ⟨fun hc => completes_of_next_after (State.loadForm_reaches (addrs := [cg y]) (d := cg x) h ho hc hk),
      fun hc hq => completes_of_next_after (State.storeForm_reaches (addrs := [cg y]) (regs := [cg x]) h ho hc hk hq)⟩
  case queries =>
    rintro s d a n f _ rfl
    refine ⟨pf_completes, fun h ho hb => ⟨wbk_core h ho hb, fun pa e => wbk_global h ho hb⟩, fun h => ?_⟩
    refine ⟨xlq_badForm h, xlq_core h, fun hb hc => ⟨fun pa e => xlq_mapped h hb hc, xlq_unmapped h hb hc⟩, ?_⟩
    rintro z e _ rfl hk
    exact chka_completes h hk

end Sys2Proof.Machine

/-! SUPPORT. The events of memory (spec/04 R108, R109, spec/12 R312-R322, spec/14 R344, spec/20 R447-R449): what each does, by what it
finds where it arrives. -/
namespace Sys2Proof.Machine

open Sys2Proof.Spec
set_option Elab.async false

/-! ### Replies -/

/-- A reply that its entry takes is delivered (R108). -/
theorem loadReply_does {s : State} {core tag : Nat} {vals : List Datum} {e : LoadEntry}
    (he : (s.core core).loads.find? (·.tag = tag) = some e) (hv : vals ≠ []) (hb : blockedAnswer e.req.op vals = false) :
    Does (.loadReply core tag vals) s (s.deliver core e vals).wake := by
  have hv' : vals.isEmpty = false := by simpa using hv
  show execLoadReply core tag vals s = _
  simp only [execLoadReply, he, hv', hb]
  rfl
theorem timelineRelease_does {s : State} {core tag : Nat} {e : LoadEntry} (he : (s.core core).loads.find? (·.tag = tag) = some e)
    (hb : blockedAnswer e.req.op [⟨1, false⟩] = false) :
    Does (.timelineRelease core tag) s (s.deliver core e [⟨1, false⟩]).wake :=
  loadReply_does he (List.cons_ne_nil _ _) hb
theorem quiescenceWatch_does {s : State} {core tag : Nat} {v : Word} {e : LoadEntry}
    (he : (s.core core).loads.find? (·.tag = tag) = some e) (hb : blockedAnswer e.req.op [⟨v, false⟩] = false) :
    Does (.quiescenceWatch core tag v) s (s.deliver core e [⟨v, false⟩]).wake :=
  loadReply_does he (List.cons_ne_nil _ _) hb

theorem State.loads_recordCore (s : State) (c d n : Nat) (ws : List Word) : ((s.recordCore c n ws).core d).loads = (s.core d).loads := by
  unfold State.recordCore; split <;> rfl
/-- A load entry that waits too long is marked once (spec/15 R359). -/
theorem forwardingEntryTimeout_load {s : State} {core tag : Nat} {e : LoadEntry}
    (he : (s.core core).loads.find? (fun e => e.tag = tag && !e.late) = some e) :
    ∃ t, Does (.forwardingEntryTimeout core tag) s t ∧ (t.core core).loads =
      (s.core core).loads.map fun x => if x.tag = tag then { x with late := true } else x := by
  obtain ⟨t, ht⟩ := isNext_iff.1 (exec_isNext (.forwardingEntryTimeout core tag) s)
  refine ⟨t, ht, ?_⟩
  change execForwardingEntryTimeout core tag s = _ at ht
  simp only [execForwardingEntryTimeout, he, Host.Outcome.next.injEq] at ht
  rw [← ht, State.loads_recordCore, State.core_setCore, if_pos rfl]
theorem forwardingEntryTimeout_forward {s : State} {core tag : Nat} {f : Forward}
    (he : (s.core core).loads.find? (fun e => e.tag = tag && !e.late) = none)
    (hf : (s.core core).forwards.find? (fun f => f.tag = tag && !f.own && !f.late) = some f) :
    Does (.forwardingEntryTimeout core tag) s ((s.setCore core { s.core core with
      forwards := (s.core core).forwards.map fun x => if x.tag = tag then { x with late := true } else x }).recordCore core 0x0A
        [w64 (f.key % 64), w64 ((s.setCore core { s.core core with
          forwards := (s.core core).forwards.map fun x => if x.tag = tag then { x with late := true } else x }).rankOf f.dst)]) := by
  show execForwardingEntryTimeout core tag s = _
  simp only [execForwardingEntryTimeout, he, hf]
  rfl
theorem storeAcknowledgement_does {s : State} {core : Nat} (uids : List Nat) (h : (s.core core).usc ≠ 0) :
    Does (.storeAcknowledgement core uids) s (s.modCore core fun k => { k.lessStores uids with usc := k.usc - 1 }).wake := by
  show execStoreAcknowledgement core uids s = _
  simp only [execStoreAcknowledgement, State.modCore, if_neg h]

/-! ### Walks, fault frames and notices -/

theorem translationWalk_found {s : State} {core : Nat} {va : Word} {x : TlbEntry}
    (h : (s.walked core (pageOf va)).walk (s.partOf core) (pageOf va) = some x) : Does (.translationWalk core va) s
      (((s.walked core (pageOf va)).fillEntry core x).modCore core
        fun k => { k with gangs := k.gangs.map fun x => (x.1, x.2.walkDone (pageOf va) true) }).wake := by
  show execTranslationWalk core va s = _
  simp only [execTranslationWalk, h]
theorem translationWalk_missing {s : State} {core : Nat} {va : Word}
    (h : (s.walked core (pageOf va)).walk (s.partOf core) (pageOf va) = none) : Does (.translationWalk core va) s
      ((s.walked core (pageOf va)).modCore core
        fun k => { k with gangs := k.gangs.map fun x => (x.1, x.2.walkDone (pageOf va) false) }).wake := by
  show execTranslationWalk core va s = _
  simp only [execTranslationWalk, h]
theorem State.events_push (s : State) (e : Instr) : (s.push e).events = s.events ++ [e] := by
  simp [State.events, State.push]
/-- A fault frame is written, and its notice is posted last (R312). -/
theorem translationFault_does {s : State} {core n : Nat} {f : FaultSave}
    (h : (s.core core).faults.find? (fun f => f.frame = n && !f.written) = some f) :
    ∃ t, Does (.translationFault core n) s t ∧
      t.events = (s.writeSeen s.ctx.part.toNat (s.frameAt core n) (f.image core)).events ++
        [.noticePost ⟨.core core, ⟨w64 (0x05 + 256 * bnat f.write + s.ctx.id.toNat * 65536 + s.ctx.part.toNat * 2 ^ 32), f.addr,
          w64 (s.frameAt core n), f.gang.q0.setWidth 64⟩, false⟩] := by
  obtain ⟨t, ht⟩ := isNext_iff.1 (exec_isNext (.translationFault core n) s)
  refine ⟨t, ht, ?_⟩
  change execTranslationFault core n s = _ at ht
  simp only [execTranslationFault, h, Host.Outcome.next.injEq] at ht
  rw [← ht, State.events_push]
  congr 1
  show State.events _ = _
  split <;> rfl

section
variable {s : State} {src : Source} {x : Notice}

/-- A notice whose queue is full, or whose source holds an older one, is held (R322). -/
theorem noticePost_full (h : s.noticeRoom (s.noticePart src) = none) :
    Does (.noticePost ⟨src, x, false⟩) s { s with heldNotices := s.heldNotices ++ [⟨src, s.noticePart src, x, s.clock⟩] } := by
  show execNoticePost _ s = _
  simp only [execNoticePost, h]
  rfl
theorem noticePost_behind {q t : Nat} {y : HeldNotice} (h : s.noticeRoom (s.noticePart src) = some (q, t))
    (hy : s.oldestNotice src = some y) :
    Does (.noticePost ⟨src, x, false⟩) s { s with heldNotices := s.heldNotices ++ [⟨src, s.noticePart src, x, s.clock⟩] } := by
  show execNoticePost _ s = _
  simp only [execNoticePost, h, hy]
  rfl
theorem noticePost_written {q t : Nat} (h : s.noticeRoom (s.noticePart src) = some (q, t)) (hy : s.oldestNotice src = none) :
    Does (.noticePost ⟨src, x, false⟩) s (s.writeNotice (s.noticePart src) q t x) := by
  show execNoticePost _ s = _
  simp only [execNoticePost, h, hy]
  rfl
theorem noticePost_again {h : HeldNotice} (ho : s.oldestNotice src = some h) :
    Does (.noticePost ⟨src, h.notice, true⟩) s (s.retryNotice h) := by
  show execNoticePost _ s = _
  simp only [execNoticePost, ho, if_true]
theorem State.retryNotice_full {h : HeldNotice} (hr : s.noticeRoom h.part = none) : s.retryNotice h = s := by
  simp only [State.retryNotice, hr]
theorem State.retryNotice_written {h : HeldNotice} {q t : Nat} (hr : s.noticeRoom h.part = some (q, t)) :
    s.retryNotice h = ({ s with heldNotices := s.heldNotices.erase h } : State).writeNotice h.part q t h.notice := by
  simp only [State.retryNotice, hr]

end

/-! ### Ends of change firings (spec/20 R447, R449) -/

theorem changeFiringEnd_does {s : State} {core n pa d : Nat} {w : BitVec 32} (hh : ((s.core core).at n).held = some (d, w))
    (he : ((s.core core).at n).ending = true) (hp : s.resolve s.ctx.part.toNat d false = some pa) :
    Does (.changeFiringEnd core n) s
      { (({ (s.setCore core { s.core core with gangs := mdel (s.core core).gangs n }).modCore core
            (fun k => { k with usc := k.usc + 1 }) with cur := core } : State).dispatch true
          { src := .core core, tag := 0, uids := [], home := none, op := .release pa w 1 }) with cur := s.cur }.wake := by
  show execChangeFiringEnd core n s = _
  simp only [execChangeFiringEnd, hh, he, hp]
  rfl
theorem changeRecordLost_unmapped {s : State} {d : Nat} {w : BitVec 32} (h : s.resolve s.ctx.part.toNat d false = none) :
    Does (.changeRecordLost d w) s s.wake := by
  show execChangeRecordLost d w s = _
  simp only [execChangeRecordLost, h]
theorem changeRecordLost_mapped {s : State} {d pa : Nat} {w : BitVec 32} (h : s.resolve s.ctx.part.toNat d false = some pa) :
    let t : State := { s with mem := (s.mem.recount pa w (-1)).setLost pa w }
    let i := sliceOf pa
    Does (.changeRecordLost d w) s (((t.evalWatches.record (i / 256 * 4 + i % 256 / 64) 0x0F 3 (i % 256)
      [w64 d, w.setWidth 64]).push (.noticePost ⟨.slice i, ⟨w64 (0x4C + s.ctx.id.toNat * 65536), w64 d, w.setWidth 64, 0⟩, false⟩)).wake) := by
  show execChangeRecordLost d w s = _
  simp only [execChangeRecordLost, h]

/-- Settles O34, event by event. -/
theorem accessEventsComplete : Obligations.AccessEventsComplete := by
  intro s core tag n count r vals uids e va
  refine ⟨fun c hc => ?remote, ⟨rfl, rfl, fun hr => ?chained⟩,
    fun he => ⟨loadReply_does he, timelineRelease_does he, quiescenceWatch_does he⟩, rfl, forwardingEntryTimeout_load,
    fun he f hf => forwardingEntryTimeout_forward he hf, storeAcknowledgement_does uids, rfl, rfl, rfl,
    ⟨fun x hx => translationWalk_found hx, translationWalk_missing⟩, rfl, fun f hf => translationFault_does hf, rfl, ?notices, ?ends,
    fun d w h => changeRecordLost_unmapped h, fun d w pa h => changeRecordLost_mapped h, rfl, rfl⟩
  case remote =>
    show execRemoteAccess r s = _
    simp only [execRemoteAccess, hc]
  case chained =>
    show execChainedPacket r s = _
    simp only [execChainedPacket, hr]
    rfl
  case notices =>
    rintro src x _ rfl
    refine ⟨noticePost_full, fun q t h => ⟨noticePost_written h, fun y hy => noticePost_behind h hy⟩, ?_⟩
    rintro h ho rfl
    have hd := noticePost_again ho
    exact ⟨fun hr => Eq.trans hd (congrArg _ (State.retryNotice_full hr)), fun q t hr => Eq.trans hd (congrArg _ (State.retryNotice_written hr))⟩
  case ends =>
    rintro _ pa d w rfl hh he hp
    exact changeFiringEnd_does hh he hp

end Sys2Proof.Machine

/-! SUPPORT. Errors of arrays (spec/22 R462-R469): whatever an access finds as it reaches a core or the slices, no byte of any memory,
no value of a gang register and no register that awaits a reply changes by it, nor USC, nor what places a page. -/
namespace Sys2Proof.Machine

open Sys2Proof.Spec
set_option Elab.async false

/-! ### What the finding of an error keeps -/

/-- The gang registers of two cores read alike and await replies alike, and USC is the same. -/
structure Core.SameRegs (k l : Core) : Prop where
  readG : ∀ n, l.readG n = k.readG n
  pendG : ∀ n, l.pendG n = k.pendG n
  usc : l.usc = k.usc
/-- And the bytes of their memories are the same. -/
structure Core.SameValues (k l : Core) : Prop extends Core.SameRegs k l where
  byte : ∀ x, l.mem.byte x = k.mem.byte x
/-- The same of every core of two states, of global memory, and of what the place of a page hangs on. -/
structure State.SameValues (s t : State) : Prop where
  cur : t.cur = s.cur
  ctx : t.ctx = s.ctx
  ipt : t.ipt = s.ipt
  sup : t.sup = s.sup
  byte : ∀ x, t.mem.byte x = s.mem.byte x
  core : ∀ c, (s.core c).SameValues (t.core c)

theorem Core.SameRegs.refl (k : Core) : k.SameRegs k := ⟨fun _ => rfl, fun _ => rfl, rfl⟩
theorem Core.SameRegs.trans {k l m : Core} (h : k.SameRegs l) (g : l.SameRegs m) : k.SameRegs m :=
  ⟨fun n => (g.readG n).trans (h.readG n), fun n => (g.pendG n).trans (h.pendG n), g.usc.trans h.usc⟩
theorem Core.SameValues.refl (k : Core) : k.SameValues k := ⟨.refl k, fun _ => rfl⟩
theorem Core.SameValues.trans {k l m : Core} (h : k.SameValues l) (g : l.SameValues m) : k.SameValues m :=
  ⟨h.toSameRegs.trans g.toSameRegs, fun x => (g.byte x).trans (h.byte x)⟩
theorem State.SameValues.refl (s : State) : s.SameValues s := ⟨rfl, rfl, rfl, rfl, fun _ => rfl, fun _ => .refl _⟩
theorem State.SameValues.trans {s t u : State} (h : s.SameValues t) (g : t.SameValues u) : s.SameValues u :=
  ⟨g.cur.trans h.cur, g.ctx.trans h.ctx, g.ipt.trans h.ipt, g.sup.trans h.sup, fun x => (g.byte x).trans (h.byte x),
    fun c => (h.core c).trans (g.core c)⟩
theorem State.SameValues.foldl {α : Type} {f : State → α → State} (hf : ∀ (s : State) (a : α), s.SameValues (f s a)) (l : List α) (s : State) :
    s.SameValues (l.foldl f s) := by
  induction l generalizing s with
  | nil => exact .refl s
  | cons a l ih => exact (hf s a).trans (ih _)

/-- A change of the fields that the registers are not read from. -/
theorem Core.sameRegs_of_gang {k l : Core} (hg : l.gang.g = k.gang.g) (hd : l.gang.gPend = k.gang.gPend) (hp : l.priv = k.priv := by rfl)
    (ht : l.trapBank = k.trapBank := by rfl) (hb : l.bankPend = k.bankPend := by rfl) (hu : l.usc = k.usc := by rfl) : k.SameRegs l :=
  ⟨Core.readG_congr hp ht hg, fun n => by unfold Core.pendG; rw [hp, hb, hd], hu⟩
/-- A change of a gang that leaves its registers and what they await. -/
theorem Core.sameValues_setAt (k : Core) {i : Nat} {g : Gang} (hg : g.g = (k.at i).g) (hp : g.gPend = (k.at i).gPend) :
    k.SameValues (k.setAt i g) := by
  have h : (k.setAt i g).gang.g = k.gang.g ∧ (k.setAt i g).gang.gPend = k.gang.gPend := by
    have hs : (k.setAt i g).gang = if k.slot = i then g else k.at k.slot := Core.at_setAt k i k.slot g
    rw [hs]
    split
    next e => subst e; exact ⟨hg, hp⟩
    next => exact ⟨rfl, rfl⟩
  exact ⟨Core.sameRegs_of_gang h.1 h.2, fun _ => rfl⟩
theorem State.sameValues_modCore (s : State) (c : Nat) {f : Core → Core} (h : (s.core c).SameValues (f (s.core c))) :
    s.SameValues (s.modCore c f) := by
  refine ⟨rfl, rfl, rfl, rfl, fun _ => rfl, fun d => ?_⟩
  rw [State.core_modCore]
  split
  next e => subst e; exact h
  next => exact .refl _
/-- A change that leaves every core, the bytes of memory and what places a page. -/
theorem State.sameValues_of_cores {s t : State} (hc : t.cores = s.cores) (hb : ∀ x, t.mem.byte x = s.mem.byte x) (hu : t.cur = s.cur)
    (hx : t.ctx = s.ctx) (hi : t.ipt = s.ipt) (hp : t.sup = s.sup) : s.SameValues t :=
  ⟨hu, hx, hi, hp, hb, fun c => by unfold State.core; rw [hc]; exact .refl _⟩
theorem State.sameValues_push (s : State) (e : Instr) : s.SameValues (s.push e) :=
  State.sameValues_of_cores rfl (fun _ => rfl) rfl rfl rfl rfl
theorem State.sameValues_record (s : State) (a b c d : Nat) (ws : List Word) : s.SameValues (s.record a b c d ws) :=
  State.sameValues_of_cores rfl (fun _ => rfl) rfl rfl rfl rfl
theorem State.sameValues_recordCore (s : State) (c n : Nat) (ws : List Word) : s.SameValues (s.recordCore c n ws) := by
  unfold State.recordCore; split <;> exact State.sameValues_record _ _ _ _ _ _
theorem State.sameValues_modCluster (s : State) (n : Nat) (f : Cluster → Cluster) : s.SameValues (s.modCluster n f) :=
  State.sameValues_of_cores rfl (fun _ => rfl) rfl rfl rfl rfl
theorem State.sameValues_ite {s t u : State} {p : Prop} [Decidable p] (h : s.SameValues t) (g : s.SameValues u) :
    s.SameValues (if p then t else u) := by split <;> assumption

/-! ### Errors that are found -/

theorem State.sameValues_unstand (s : State) (u : ArrayRef × Nat × Bool) : s.SameValues (s.unstand u) := by
  unfold State.unstand
  split
  · exact s.sameValues_modCore _ ⟨⟨fun _ => rfl, fun _ => rfl, rfl⟩, fun _ => rfl⟩
  · exact State.sameValues_of_cores rfl (fun _ => rfl) rfl rfl rfl rfl
theorem State.sameValues_bankCore (s : State) (c : Nat) (ue : Bool) (a b d e : Nat) : s.SameValues (s.bankCore c ue a b d e) := by
  have h : ∀ x, s.SameValues (s.modCore c fun k => { k with bank := x }) := fun x =>
    s.sameValues_modCore c ⟨⟨fun _ => rfl, fun _ => rfl, rfl⟩, fun _ => rfl⟩
  exact State.sameValues_ite (h _) ((h _).trans (State.sameValues_recordCore _ _ _ _))
theorem State.sameValues_bankOf (s : State) (a : ArrayRef) (ue : Bool) (b n d : Nat) : s.SameValues (s.bankOf a ue b n d) := by
  cases a with
  | localMem c | codeStore c | arrivals c | buffer c | gangRegs c => exact s.sameValues_bankCore c _ _ _ _ _
  | slice n =>
    have h : ∀ x, s.SameValues { s with sliceBanks := x } := fun x => State.sameValues_of_cores rfl (fun _ => rfl) rfl rfl rfl rfl
    exact State.sameValues_ite (h _) ((h _).trans (State.sameValues_record _ _ _ _ _ _))
  | stack n =>
    have h : ∀ x, s.SameValues { s with stackBanks := x } := fun x => State.sameValues_of_cores rfl (fun _ => rfl) rfl rfl rfl rfl
    exact State.sameValues_ite (h _) ((h _).trans (State.sameValues_record _ _ _ _ _ _))
  | clusterBuffer n | pool n =>
    exact State.sameValues_ite (s.sameValues_modCluster _ _) ((s.sameValues_modCluster _ _).trans (State.sameValues_record _ _ _ _ _ _))
theorem Core.sameValues_spoilQueued (k : Core) (n j : Nat) : k.SameValues (k.spoilQueued n j) := by
  unfold Core.spoilQueued; split <;> exact ⟨⟨fun _ => rfl, fun _ => rfl, rfl⟩, fun _ => rfl⟩
theorem Core.sameValues_spoilCopy (k : Core) (q n : Nat) : k.SameValues (k.spoilCopy q n) := by
  unfold Core.spoilCopy
  split
  · exact ⟨⟨fun _ => rfl, fun _ => rfl, rfl⟩, fun _ => rfl⟩
  · exact .refl k
/-- An uncorrectable error marks a word, or discards an entry; it changes no value (spec/22 Table 22-1). -/
theorem State.sameValues_damage (s : State) (a : ArrayRef) (addr : Nat) : s.SameValues (s.damage a addr) := by
  unfold State.damage
  cases a with
  | localMem c | codeStore c =>
    refine s.sameValues_modCore c ?_
    exact ⟨⟨fun _ => rfl, fun _ => rfl, rfl⟩, fun _ => rfl⟩
  | arrivals c =>
    refine State.sameValues_ite (State.sameValues_ite (s.sameValues_push _) (.refl s)) ?_
    exact s.sameValues_modCore c ⟨⟨fun _ => rfl, fun _ => rfl, rfl⟩, fun _ => rfl⟩
  | gangRegs c =>
    refine s.sameValues_modCore c ?_
    dsimp only
    split
    · exact Core.sameValues_spoilCopy _ _ _
    split
    · exact Core.sameValues_spoilQueued _ _ _
    split
    · exact Core.sameValues_setAt _ rfl rfl
    · exact ⟨⟨fun _ => rfl, fun _ => rfl, rfl⟩, fun _ => rfl⟩
  | slice _ | stack _ => exact State.sameValues_of_cores rfl (fun _ => rfl) rfl rfl rfl rfl
  | pool n =>
    refine State.sameValues_ite (s.sameValues_modCluster _ _) (s.sameValues_modCore _ ?_)
    exact Core.sameValues_setAt _ rfl rfl
  | buffer _ | clusterBuffer _ => exact .refl s
theorem State.sameValues_findUpset (s : State) (code : Nat) (u : ArrayRef × Nat × Bool) : s.SameValues (s.findUpset code u) := by
  have h0 := s.sameValues_unstand u
  have hd : ∀ a, s.SameValues ((((s.unstand u).bankOf a true code 1 u.2.1).damage a u.2.1)) := fun a =>
    (h0.trans (State.sameValues_bankOf _ _ _ _ _ _)).trans (State.sameValues_damage _ _ _)
  unfold State.findUpset
  dsimp only
  split
  · refine (h0.trans (State.sameValues_modCore _ _ ?_)).trans (State.sameValues_bankOf _ _ _ _ _ _)
    exact ⟨⟨fun _ => rfl, fun _ => rfl, rfl⟩, fun _ => rfl⟩
  · exact (h0.trans (State.sameValues_modCluster _ _ _)).trans (State.sameValues_bankOf _ _ _ _ _ _)
  · split
    · split
      · exact (hd _).trans (State.sameValues_push _ _)
      · exact hd _
    · exact h0.trans (State.sameValues_bankOf _ _ _ _ _ _)
theorem State.sameValues_findUpsets (s : State) (code : Nat) (meets : ArrayRef → Nat → Bool) : s.SameValues (s.findUpsets code meets) :=
  State.SameValues.foldl (fun s u => s.sameValues_findUpset code u) _ s
theorem State.sameValues_findError (s : State) (c : Nat) (e : Nat × Word) : s.SameValues (s.findError c e) := by
  refine (s.sameValues_modCore c ?_).trans (State.sameValues_bankCore _ _ _ _ _ _ _)
  refine ⟨⟨fun _ => rfl, fun _ => rfl, rfl⟩, fun x => ?_⟩
  dsimp only
  split <;> rfl
/-- A read of local memory finds what stands in its words (R462). -/
theorem State.sameValues_scanLocal (s : State) (c a n : Nat) : s.SameValues (s.scanLocal c a n) := by
  have h := State.SameValues.foldl (fun s e => s.sameValues_findError c e) ((s.core c).errorsAt a n) s
  exact State.sameValues_ite h (h.trans (State.sameValues_findUpsets _ _ _))

/-! ### Arrays that wake -/

theorem State.sameValues_decodeGroup (s : State) (a : ArrayRef) (g : Nat) : s.SameValues (s.decodeGroup a g) := by
  have h := State.SameValues.foldl State.sameValues_unstand (s.allUpsets.filter fun u => u.1 = a && u.2.1 / 32 = g) s
  refine State.sameValues_ite (h.trans (State.sameValues_bankOf _ _ _ _ _ _)) ?_
  exact (h.trans (State.sameValues_bankOf _ _ _ _ _ _)).trans (State.SameValues.foldl (fun t i => t.sameValues_damage a _) _ _)
theorem State.sameValues_rouseArray (s : State) (a : ArrayRef) : s.SameValues (s.rouseArray a) :=
  State.sameValues_ite (.refl s) (State.SameValues.foldl (fun t g => t.sameValues_decodeGroup a g) _ s)
theorem State.sameValues_touchCore (s : State) (c : Nat) : s.SameValues (s.touchCore c) := by
  unfold State.touchCore
  refine s.sameValues_modCore c ?_
  exact ⟨⟨fun _ => rfl, fun _ => rfl, rfl⟩, fun _ => rfl⟩
/-- An access reaches a core's memory, which wakes first (R468, R469). -/
theorem State.sameValues_wakeCore (s : State) (c : Nat) : s.SameValues (s.wakeCore c) :=
  (s.sameValues_rouseArray _).trans (State.sameValues_touchCore _ c)
theorem State.sameValues_touchSlice (s : State) (n : Nat) : s.SameValues (s.touchSlice n) :=
  State.sameValues_of_cores rfl (fun _ => rfl) rfl rfl rfl rfl
theorem State.sameValues_wakeBlocks (s : State) (bs : List Nat) : s.SameValues (s.wakeBlocks bs) :=
  State.SameValues.foldl (fun t n => (t.sameValues_rouseArray _).trans (State.sameValues_touchSlice _ n)) _ s
theorem State.sameValues_cleanWords (s : State) (ws : List Wr) : s.SameValues (s.cleanWords ws) := by
  unfold State.cleanWords
  exact State.sameValues_of_cores rfl (fun _ => rfl) rfl rfl rfl rfl
theorem State.sameValues_overBlocks (s : State) (ws : List Wr) : s.SameValues (s.overBlocks ws) := by
  unfold State.overBlocks
  dsimp only
  split
  · exact .refl s
  · exact State.SameValues.trans (State.sameValues_findUpsets _ _ _) (State.sameValues_cleanWords _ ws)
/-- A request reaches the slices: they wake, and what stands in the words that it reads is found. -/
theorem State.sameValues_scanReq (s : State) (r : Req) : s.SameValues (s.scanReq r) := by
  refine State.sameValues_ite (.refl s) ?_
  split
  · exact s.sameValues_overBlocks _
  · exact s.sameValues_findUpsets _ _
theorem State.sameValues_reachSlices (s : State) (r : Req) : s.SameValues ((s.rouseSlices r).scanReq r) :=
  (s.sameValues_wakeBlocks _).trans (State.sameValues_scanReq _ r)

end Sys2Proof.Machine

/-! SUPPORT. `g0` (spec/04 R97): its write is discarded, and an access that names it as its destination is made in full. -/
namespace Sys2Proof.Machine

open Sys2Proof.Spec
set_option Elab.async false

/-! ### A write to `g0` -/

theorem State.modMe_congr {s : State} {f h : Core → Core} (e : f s.me = h s.me) : s.modMe f = s.modMe h := congrArg s.setMe e
/-- A discarded write leaves no trace once the instruction has retired. -/
theorem State.retire_writeG_zero (s : State) (v : Word) (p : Bool) (n : Option (BitVec 32)) : (s.writeG 0 v p).retire n = s.retire n :=
  (State.retire_modMe s _ n).trans (State.modMe_congr rfl)
theorem writeG_zero_discarded (s : State) (v : Word) (p : Bool) :
    RestStays s (s.writeG 0 v p) ∧ (s.writeG 0 v p).me = s.me ∧ ∀ n, (s.writeG 0 v p).readG n = s.readG n :=
  ⟨restStays_modMe s _, s.me_modMe _, fun n => State.readG_modMe s _ n⟩
theorem retired_congr {s t u : State} {after : List Cause} (h : t.retire none = u.retire none) : retired s t after = retired s u after := by
  rw [retired, h]; rfl
/-- `ldl` to `g0` inside local memory makes its access and its checks. -/
theorem ldl_zero_completes {s : State} {a : BitVec 4} {z : BitVec 2} {e n : BitVec 1} {f : BitVec 11}
    (h : Ready s (eaReads a n f) (0 :: eaReads a n f)) (ha : s.me.acquiring = false) (h1 : (s.eaM a n f).toNat < 0x18000)
    (h2 : (s.eaM a n f).toNat % 2 ^ z.toNat = 0) :
    Completes (.ldl 0 a z e n f) s (s.scanLocal s.cur (s.eaM a n f).toNat (2 ^ z.toNat))
      (s.watch true (s.seenLocal (s.eaM a n f) (2 ^ z.toNat) true)) := by
  have hc := completes_of_next_after (i := .ldl 0 a z e n f) (State.localForm_ready (mis := 0) h ha h1 h2)
  exact hc.trans (congrArg Host.Outcome.next (retired_congr (State.retire_writeG_zero _ _ _ none)))

/-! ### What an effect that leaves the core keeps of it -/

/-- Another state has the same acting core, whose gang registers and USC are the same. -/
structure State.SameRegs (s t : State) : Prop where
  cur : t.cur = s.cur
  me : s.me.SameRegs t.me

theorem State.SameRegs.refl (s : State) : s.SameRegs s := ⟨rfl, .refl _⟩
theorem State.SameRegs.trans {s t u : State} (h : s.SameRegs t) (g : t.SameRegs u) : s.SameRegs u := ⟨g.cur.trans h.cur, h.me.trans g.me⟩
theorem State.SameRegs.foldl {α : Type} {f : State → α → State} (hf : ∀ (s : State) (a : α), s.SameRegs (f s a)) (l : List α)
    (s : State) : s.SameRegs (l.foldl f s) := by
  induction l generalizing s with
  | nil => exact .refl s
  | cons a l ih => exact (hf s a).trans (ih _)
theorem State.SameValues.sameRegs {s t : State} (h : s.SameValues t) : s.SameRegs t :=
  ⟨h.cur, by have := (h.core s.cur).toSameRegs; rwa [State.me, State.me, h.cur]⟩
theorem State.sameRegs_modMe (s : State) {f : Core → Core} (h : s.me.SameRegs (f s.me)) : s.SameRegs (s.modMe f) :=
  ⟨rfl, by rwa [State.me_modMe]⟩
theorem State.sameRegs_emit (s : State) (e : Instr) : s.SameRegs (s.emit e) := by
  unfold State.emit
  split
  · exact s.sameRegs_modMe ⟨fun _ => rfl, fun _ => rfl, rfl⟩
  · exact (s.sameValues_push e).sameRegs
/-- An answer is an event, or a word for the host. -/
theorem State.sameValues_answer (s : State) (r : Req) (a : Answer) : s.SameValues (s.answer r a) := by
  unfold State.answer
  split
  · exact .refl s
  split
  · exact .refl s
  · exact State.sameValues_ite (s.sameValues_push _) (s.sameValues_push _)
  · exact State.sameValues_ite (s.sameValues_push _) (s.sameValues_push _)
  · exact State.sameValues_of_cores rfl (fun _ => rfl) rfl rfl rfl rfl
  · exact .refl s
/-- An atomic at the own core changes memory. -/
theorem State.sameRegs_performCore_amo (s : State) (a op sz : Nat) (o : Word) :
    s.SameRegs (s.performCore s.cur (.amo a op sz o)).1 := by
  have h := s.sameValues_scanLocal s.cur a (sizeOf sz)
  refine h.sameRegs.trans ?_
  have hc : (s.performCore s.cur (.amo a op sz o)).1 =
      (s.scanLocal s.cur a (sizeOf sz)).modMe fun k =>
        { k with mem := (((s.scanLocal s.cur a (sizeOf sz)).core s.cur).mem.atomic a op (sizeOf sz) o).1 } := by
    rw [State.modMe, h.cur]; rfl
  rw [hc]
  refine State.sameRegs_modMe _ ?_
  exact ⟨fun _ => rfl, fun _ => rfl, rfl⟩
theorem State.sameRegs_dispatch_amo (s : State) {r : Req} {a op sz : Nat} {o : Word} (h : r.op = .amo a op sz o) :
    s.SameRegs (s.dispatch true r) := by
  unfold State.dispatch
  split
  · rw [h]
    exact (s.sameRegs_performCore_amo a op sz o).trans (State.sameValues_answer _ _ _).sameRegs
  · exact State.SameRegs.foldl State.sameRegs_emit _ s
/-- A core whose load table is `ls`, with one more in USC. -/
def Core.withCounted (k : Core) (ls : List LoadEntry) : Core := { k with loads := ls, usc := k.usc + 1 }
/-- A counted request with a reply: an entry, one more in USC, then its request leaves (R238). -/
theorem State.sendLoad_counted (s : State) (dest : LoadDest) (uids : List Nat) (home : Option Nat) (op : MemOp) : ∃ ls r, r.op = op ∧
    s.sendLoad dest uids true home op =
      (((s.modMe (·.withCounted ls)).fresh).modGang (·.addStores uids)).dispatch true r :=
  ⟨_, _, rfl, rfl⟩
theorem Core.sameRegs_modGang_addStores (k : Core) (uids : List Nat) : k.SameRegs (k.modGang (·.addStores uids)) :=
  Core.sameRegs_of_gang (by rw [Core.gang_modGang]; rfl) (by rw [Core.gang_modGang]; rfl)
theorem State.sendLoad_counted_amo (s : State) (dest : LoadDest) (uids : List Nat) (home : Option Nat) (a op sz : Nat) (o : Word) :
    ∀ t, t = s.sendLoad dest uids true home (.amo a op sz o) →
      (∀ n, t.me.readG n = s.me.readG n ∧ t.me.pendG n = s.me.pendG n) ∧ t.me.usc = s.me.usc + 1 := by
  rintro t rfl
  obtain ⟨ls, r, hr, hs⟩ := s.sendLoad_counted dest uids home (.amo a op sz o)
  have hme : (((s.modMe (·.withCounted ls)).fresh).modGang (·.addStores uids)).me =
      (s.me.withCounted ls).modGang (·.addStores uids) := by
    refine (State.me_modMe _ (·.modGang (·.addStores uids))).trans (congrArg (Core.modGang · (·.addStores uids)) ?_)
    exact s.me_modMe (·.withCounted ls)
  have hsent : (s.me.withCounted ls).modGang (·.addStores uids) |>.SameRegs (s.sendLoad dest uids true home (.amo a op sz o)).me := by
    rw [← hme, hs]; exact (State.sameRegs_dispatch_amo _ hr).me
  have h := (Core.sameRegs_modGang_addStores _ uids).trans hsent
  exact ⟨fun n => ⟨h.readG n, h.pendG n⟩, h.usc⟩

/-- An atomic with a result whose checks pass leaves (R236, R238). -/
theorem State.atomicForm_reaches {s : State} {a : BitVec 4} {uses all : List (BitVec 4)} {size : Nat} {core : Bool} {k : Chk}
    (h : Ready s ([a] ++ uses) all) (ho : Open s) (hc : s.checkAtomic (s.readG a) size core = k) (hk : Reaches k) (more : Out → Out)
    (go : Chk → Out) : s.atomicForm a uses all size core more go = more (go k) := by
  have hleave : s.mayLeave = true := by
    obtain ⟨-, hf, hp, -, hr⟩ := ho
    simp [State.mayLeave, hf, hp, hr]
  rw [State.atomicForm, State.gateAddr_ready h, ho.1, hc, State.checked_reaches hk, hleave]; rfl
theorem State.withEntry_open {s : State} (ho : Open s) (body : Out) : s.withEntry body = body := by
  obtain ⟨-, -, -, hr, -⟩ := ho
  simp [State.withEntry, hr]
theorem amo_completes {s : State} {d a b : BitVec 4} {z : BitVec 2} {o : BitVec 8} {k : Chk} (h : Ready s [a, b] [d, a, b])
    (ho : Open s) (hc : s.checkAtomic (s.readG a) (2 ^ z.toNat) true = k) (hk : Reaches k) :
    Completes (.amo d a b z o) s (s.sendAtomic d (2 ^ z.toNat) k (.amo k.at o.toNat z.toNat (s.readG b)))
      (s.watchAtomic (s.readG a) (2 ^ z.toNat)) := by
  refine completes_of_next_after ?_
  exact (State.atomicForm_reaches h ho hc hk id _).trans (State.withEntry_open ho _)
/-- An atomic to `g0` makes nothing pending; its request counts in USC. -/
theorem State.sendAtomic_zero (s : State) (size : Nat) (c : Chk) (a op sz : Nat) (o : Word) :
    ∀ t, t = s.sendAtomic 0 size c (.amo a op sz o) →
      (∀ n : BitVec 4, t.readG n = s.readG n ∧ t.me.pendG n.toNat = s.me.pendG n.toNat) ∧ t.me.usc = s.me.usc + 1 := by
  rintro t rfl
  have hz : (s.pendG 0).me = s.me := s.me_modMe _
  obtain ⟨hr, hu⟩ := State.sendLoad_counted_amo (s.pendG 0) _ _ _ a op sz o _ rfl
  rw [hz] at hr hu
  exact ⟨fun n => hr n.toNat, hu⟩

/-- Settles O46: a write to `g0` is no change; `ldl` and `amo` go on at their gates, and end in the outcome of their checks. -/
theorem gZeroRule : Obligations.GZeroRule := by
  refine fun s => ⟨rfl, writeG_zero_discarded s, ?load, ?atomic⟩
  case load =>
    rintro a z e n f _ _ rfl rfl h ha
    exact ⟨ldl_zero_completes h ha, fun h1 => congrArg s.finish (State.localForm_outside h ha h1),
      fun h1 h2 => congrArg s.finish (State.localForm_misaligned h ha h1 h2)⟩
  case atomic =>
    exact fun a b z o k ho h hk hc => ⟨_, amo_completes h ho hc hk, State.sendAtomic_zero s _ k _ _ _ _ _ rfl⟩

end Sys2Proof.Machine

/-! SUPPORT. Stores to local memory (spec/04 R105, R107; spec/10 R226, R228): the bytes of their writes change, and no other. -/
namespace Sys2Proof.Machine

open Sys2Proof.Spec
set_option Elab.async false

/-! ### Writes one after the other -/

/-- A byte that a write does not cover. -/
def WriteMisses (w : Wr) (x : Nat) : Prop := x < w.addr ∨ w.addr + w.size ≤ x
/-- Two writes of no common byte. -/
def WritesApart (v w : Wr) : Prop := v.addr + v.size ≤ w.addr ∨ w.addr + w.size ≤ v.addr

theorem Memory.writes_append (m : Memory) (vs ws : List Wr) : m.writes (vs ++ ws) = (m.writes vs).writes ws := by
  induction vs generalizing m with
  | nil => rfl
  | cons v vs ih => exact ih _
theorem Memory.byte_writes_other (m : Memory) {ws : List Wr} {x : Nat} (h : ∀ w ∈ ws, WriteMisses w x) : (m.writes ws).byte x = m.byte x := by
  induction ws generalizing m with
  | nil => rfl
  | cons w ws ih =>
    obtain ⟨hw, hws⟩ := List.forall_mem_cons.1 h
    exact (ih _ hws).trans (Memory.byte_store_other m _ _ hw)
/-- A write stands where no later one stores over it. -/
theorem Memory.load_writes_last (m : Memory) (pre : List Wr) (w : Wr) {post : List Wr} (h : ∀ v ∈ post, WritesApart w v) :
    (m.writes (pre ++ w :: post)).load w.addr w.size = w.val.toNat % 2 ^ (8 * w.size) := by
  have hpost : ((m.writes (pre ++ [w])).writes post).load w.addr w.size = (m.writes (pre ++ [w])).load w.addr w.size :=
    Memory.load_congr _ fun i hi => Memory.byte_writes_other _ fun v hv => by
      have : w.addr + w.size ≤ v.addr ∨ v.addr + v.size ≤ w.addr := h v hv
      show w.addr + i < v.addr ∨ v.addr + v.size ≤ w.addr + i
      omega
  rw [← List.singleton_append, ← List.append_assoc, Memory.writes_append, hpost, Memory.writes_append]
  exact Memory.load_store _ _ _ _ _
theorem Memory.load_writes_one (m : Memory) (w : Wr) : (m.writes [w]).load w.addr w.size = w.val.toNat % 2 ^ (8 * w.size) :=
  Memory.load_store _ _ _ _ _
theorem bytesOf_zero (n : Nat) : bytesOf 0 n = List.replicate n 0 := by
  induction n with
  | zero => rfl
  | succ n ih => rw [List.replicate_succ, ← ih]; rfl
theorem Memory.byte_store_zero (m : Memory) (a n x : Nat) (p : Bool) :
    (m.store a n 0 p).byte x = if a ≤ x ∧ x < a + n then 0 else m.byte x := by
  have hb : (bytesOf (0 : Word).toNat n).getD (x - a) 0 = 0 := by
    show (bytesOf 0 n).getD (x - a) 0 = 0
    rw [bytesOf_zero, List.getD_eq_getElem?_getD, List.getElem?_replicate]; split <;> rfl
  rw [Memory.store, Memory.byte_write, bytesOf_length, hb]
theorem Memory.byte_writes_zero (m : Memory) {ws : List Wr} {x : Nat} (hz : ∀ w ∈ ws, w.val = 0)
    (hx : m.byte x = 0 ∨ ∃ w ∈ ws, w.addr ≤ x ∧ x < w.addr + w.size) : (m.writes ws).byte x = 0 := by
  induction ws generalizing m with
  | nil => exact hx.resolve_right (by simp)
  | cons w ws ih =>
    obtain ⟨hw, hws⟩ := List.forall_mem_cons.1 hz
    refine ih _ hws ?_
    rw [hw, Memory.byte_store_zero]
    split
    · exact .inl rfl
    next hout =>
      obtain h | ⟨v, hv, hin⟩ := hx
      · exact .inl h
      · obtain rfl | hv := List.mem_cons.1 hv
        · exact absurd hin hout
        · exact .inr ⟨v, hv, hin⟩

/-! ### Stores of a core -/

/-- Stores change memory, the staging slots, and what stands injected or upset in the words that they cover. -/
theorem Core.writes_shape (k : Core) (ws : List Wr) : ∃ m st inj ups, k.writes ws =
    { k with mem := m, staging := st, inject := inj, upsets := ups } := by
  induction ws generalizing k with
  | nil => exact ⟨_, _, _, _, rfl⟩
  | cons w ws ih =>
    unfold Core.writes
    split
    · obtain ⟨m, st, inj, ups, h⟩ := ih { k.overwrite w.addr w.size with mem := k.mem.store w.addr w.size w.val w.poison }
      exact ⟨m, st, inj, ups, h⟩
    · obtain ⟨m, st, inj, ups, h⟩ := ih { k with staging := k.staging.store (w.addr - localEnd) w.size w.val w.poison }
      exact ⟨m, st, inj, ups, h⟩
/-- Of a store's writes, those below the windows reach memory. -/
theorem Core.mem_writes (k : Core) (ws : List Wr) : (k.writes ws).mem = k.mem.writes (ws.filter (·.addr < localEnd)) := by
  induction ws generalizing k with
  | nil => rfl
  | cons w ws ih =>
    unfold Core.writes
    by_cases h : w.addr < localEnd
    · rw [if_pos h, ih, List.filter_cons_of_pos (by simpa using h)]; rfl
    · rw [if_neg h, ih, List.filter_cons_of_neg (by simpa using h)]
theorem Core.writes_append (k : Core) (vs ws : List Wr) : k.writes (vs ++ ws) = (k.writes vs).writes ws := by
  induction vs generalizing k with
  | nil => rfl
  | cons v vs ih =>
    rw [List.cons_append, Core.writes, Core.writes]
    split <;> exact ih _

/-- What an instruction that has stored `ws` to local memory leaves: memory with the writes, and all else but the end of the
instruction as it was. -/
structure StoresLocal (s t : State) (ws : List Wr) : Prop where
  rest : RestStays s t
  moves : MovesOn s t
  lanes : t.gang.lanes = s.gang.lanes
  regs : ∀ m : BitVec 4, t.readG m = s.readG m ∧ t.me.poisonG m.toNat = s.me.poisonG m.toNat
  byte : ∀ x, t.mem.byte x = s.mem.byte x
  mem : t.me.mem = s.me.mem.writes ws

theorem storesLocal_retire (s : State) {ws : List Wr} (hw : ∀ w ∈ ws, w.addr < localEnd) :
    StoresLocal s ((s.storeLocal ws).retire none) ws := by
  obtain ⟨m, st, inj, ups, hk⟩ := s.me.writes_shape ws
  have hgang : (s.me.writes ws).gang = s.me.gang := by rw [hk]; rfl
  obtain ⟨_, _, hr, -⟩ := Core.retire_shape (s.me.writes ws) none
  have hme : ((s.storeLocal ws).retire none).me = (s.me.writes ws).retire none := by
    rw [State.me_retire]; exact congrArg (Core.retire · none) (s.me_modMe _)
  refine ⟨?_, movesOn_retire (a := s.me.gang.g) (b := s.me.gang.gPoison) hgang (by rw [hk]; rfl), lanes_retire (by rw [hgang]),
    fun n => ⟨?_, ?_⟩, fun _ => rfl, ?_⟩
  · rw [State.storeLocal, State.retire_modMe]; exact restStays_modMe _ _
  · rw [State.readG, hme, Core.readG_retire, hk]; rfl
  · rw [hme, Core.poisonG_retire, hk]; rfl
  · have hall : ws.filter (·.addr < localEnd) = ws := List.filter_eq_self.2 fun w h => by simpa using hw w h
    rw [hme, hr]; exact (s.me.mem_writes ws).trans (by rw [hall])
/-- An instruction that completes with a store and is followed by no cause. -/
theorem storesLocal_of_completes {i : Instr} {s : State} {ws : List Wr} {after : List Cause} (hc : Completes i s (s.storeLocal ws) after)
    (ha : after = []) (hu : Unstepped s) (hw : ∀ w ∈ ws, w.addr < localEnd) : ∃ t, exec i s = .next t ∧ StoresLocal s t ws := by
  obtain ⟨m, st, inj, ups, hk⟩ := s.me.writes_shape ws
  have hg : (s.storeLocal ws).gang = s.gang := by rw [State.storeLocal, State.gang_modMe, hk]; rfl
  subst ha
  refine ⟨_, hc.trans (congrArg _ (retired_unstepped hu ?_ ?_)), storesLocal_retire s hw⟩
  · rw [hg]; exact hu.1
  · rw [hg]; exact hu.2

theorem StoresLocal.byte_other {s t : State} {ws : List Wr} (h : StoresLocal s t ws) {x : Nat} (hx : ∀ w ∈ ws, WriteMisses w x) :
    t.me.mem.byte x = s.me.mem.byte x := by
  rw [h.mem, Memory.byte_writes_other _ hx]

/-! ### Stores of a gang (R105, R107) -/

theorem mem_zeroBlock {a : Nat} {w : Wr} : w ∈ zeroBlock a ↔ ∃ i < 8, w = ⟨a + 8 * i, 8, 0, false⟩ := by
  simp [zeroBlock, eq_comm]
theorem stl_stores {s : State} {d a : BitVec 4} {z : BitVec 2} {n : BitVec 1} {f : BitVec 11}
    (h : Ready s (eaReads a n f) (d :: eaReads a n f)) (hu : Unstepped s) (ha : s.me.acquiring = false) (hf : s.me.fenced = false)
    (h1 : (s.eaM a n f).toNat < 0x18000) (h2 : (s.eaM a n f).toNat % 2 ^ z.toNat = 0)
    (hw : s.watch true (s.seenLocal (s.eaM a n f) (2 ^ z.toNat) false) = []) :
    ∃ t, exec (.stl d a z n f) s = .next t ∧ StoresLocal s t (s.gangWrite d (2 ^ z.toNat) (s.eaM a n f).toNat) :=
  storesLocal_of_completes (completes_of_next_after (State.localStore_ready h ha hf h1 h2)) hw hu (by simpa [State.gangWrite, localEnd] using h1)
theorem stlCompact_stores {s : State} {x y : BitVec 3} {o : BitVec 4} (h : Ready s [cg y] [cg x, cg y]) (hu : Unstepped s)
    (ha : s.me.acquiring = false) (hf : s.me.fenced = false) (h1 : (s.eaM (cg y) 0 (coff o)).toNat < 0x18000)
    (h2 : (s.eaM (cg y) 0 (coff o)).toNat % 8 = 0) (hw : s.watch true (s.seenLocal (s.eaM (cg y) 0 (coff o)) 8 false) = []) :
    ∃ t, exec (.stlCompact x y o) s = .next t ∧ StoresLocal s t (s.gangWrite (cg x) 8 (s.eaM (cg y) 0 (coff o)).toNat) :=
  storesLocal_of_completes (completes_of_next_after (State.localStore_ready h ha hf h1 h2)) hw hu (by simpa [State.gangWrite, localEnd] using h1)
theorem stlPr_stores {s : State} {d a : BitVec 4} {n : BitVec 1} {f : BitVec 11}
    (h : Ready s (eaReads a n f) (d :: (d + 1) :: eaReads a n f)) (hu : Unstepped s) (ha : s.me.acquiring = false)
    (hf : s.me.fenced = false) (h1 : (s.eaM a n f).toNat < 0x18000) (h2 : (s.eaM a n f).toNat % 16 = 0)
    (hw : s.watch true (s.seenLocal (s.eaM a n f) 16 false) = []) : ∃ t, exec (.stlPr d a n f) s = .next t ∧
      StoresLocal s t (s.gangWrite d 8 (s.eaM a n f).toNat ++ s.gangWrite (d + 1) 8 ((s.eaM a n f).toNat + 8)) := by
  refine storesLocal_of_completes (completes_of_next_after (State.localStore_ready h ha hf h1 h2)) hw hu ?_
  simp only [State.gangWrite, List.singleton_append, List.forall_mem_cons, localEnd]
  exact ⟨h1, by omega, by simp⟩
theorem stzl_stores {s : State} {a : BitVec 4} {n : BitVec 1} {f : BitVec 11}
    (h : Ready s (eaReads a n f) (eaReads a n f)) (hu : Unstepped s) (ha : s.me.acquiring = false)
    (hf : s.me.fenced = false) (h1 : (s.eaM a n f).toNat < 0x18000) (h2 : (s.eaM a n f).toNat % 64 = 0)
    (hw : s.watch true (s.seenLocal (s.eaM a n f) 64 false) = []) : ∃ t, exec (.stzl a n f) s = .next t ∧
      StoresLocal s t (zeroBlock (s.eaM a n f).toNat) := by
  refine storesLocal_of_completes (completes_of_next_after (State.localStore_ready h ha hf h1 h2)) hw hu fun w hwm => ?_
  obtain ⟨i, hi, rfl⟩ := mem_zeroBlock.1 hwm
  show (s.eaM a n f).toNat + 8 * i < 0x18000
  omega
/-- One write of a gang register: its bytes and no other. -/
theorem StoresLocal.gangWrite {s t : State} {d : BitVec 4} {size a : Nat} (h : StoresLocal s t (s.gangWrite d size a)) :
    (∀ x, t.mem.byte x = s.mem.byte x ∧ (x < a ∨ a + size ≤ x → t.me.mem.byte x = s.me.mem.byte x)) ∧
      t.me.mem.load a size = (s.readG d).toNat % 2 ^ (8 * size) :=
  ⟨fun x => ⟨h.byte x, fun hx => h.byte_other (by simpa [State.gangWrite, WriteMisses] using hx)⟩,
    by rw [h.mem]; exact Memory.load_writes_one _ ⟨a, size, s.readG d, _⟩⟩
/-- The two writes of a pair: sixteen bytes and no other. -/
theorem StoresLocal.pair {s t : State} {d e : BitVec 4} {a : Nat} (h : StoresLocal s t (s.gangWrite d 8 a ++ s.gangWrite e 8 (a + 8))) :
    (∀ x, t.mem.byte x = s.mem.byte x ∧ (x < a ∨ a + 16 ≤ x → t.me.mem.byte x = s.me.mem.byte x)) ∧
      t.me.mem.load a 8 = (s.readG d).toNat ∧ t.me.mem.load (a + 8) 8 = (s.readG e).toNat := by
  refine ⟨fun x => ⟨h.byte x, fun hx => h.byte_other ?_⟩, ?_, ?_⟩
  · simp only [State.gangWrite, WriteMisses, List.singleton_append, List.forall_mem_cons]
    exact ⟨by omega, by omega, by simp⟩
  · have hl := s.me.mem.load_writes_last [] ⟨a, 8, s.readG d, s.me.poisonG d.toNat⟩ (post := s.gangWrite e 8 (a + 8))
      (by simp [State.gangWrite, WritesApart])
    rw [h.mem]; exact hl.trans (Nat.mod_eq_of_lt (s.readG d).isLt)
  · have hl := s.me.mem.load_writes_last (s.gangWrite d 8 a) ⟨a + 8, 8, s.readG e, s.me.poisonG e.toNat⟩ (post := []) (by simp)
    rw [h.mem]; exact hl.trans (Nat.mod_eq_of_lt (s.readG e).isLt)
/-- The eight writes of `stzl`: 64 bytes of zero and no other. -/
theorem StoresLocal.zeroBlock {s t : State} {a : Nat} (h : StoresLocal s t (zeroBlock a)) (x : Nat) :
    t.me.mem.byte x = if a ≤ x ∧ x < a + 64 then 0 else s.me.mem.byte x := by
  rw [h.mem]
  split
  next hin =>
    refine Memory.byte_writes_zero _ (fun w hw => ?_) (.inr ⟨⟨a + 8 * ((x - a) / 8), 8, 0, false⟩, mem_zeroBlock.2 ⟨_, ?_, rfl⟩, ?_, ?_⟩)
    · obtain ⟨i, -, rfl⟩ := mem_zeroBlock.1 hw; rfl
    · omega
    · show a + 8 * ((x - a) / 8) ≤ x; omega
    · show x < a + 8 * ((x - a) / 8) + 8; omega
  next hout =>
    refine Memory.byte_writes_other _ fun w hw => ?_
    obtain ⟨i, hi, rfl⟩ := mem_zeroBlock.1 hw
    show x < a + 8 * i ∨ a + 8 * i + 8 ≤ x
    omega

/-! ### Stores of lanes (R226, R228) -/

/-- Two pieces of an access of no common byte. -/
def PiecesApart (q r : Piece) : Prop := q.off + q.size ≤ r.off ∨ r.off + r.size ≤ q.off
/-- What the forms of `vstl` and `vstlq` share: pieces apart, which all lie in local memory when the check of the lane passes. -/
structure LaneStoreForm (x : LaneAcc) : Prop where
  apart : x.pieces.Pairwise PiecesApart
  inside : ∀ l, x.local l = none → ∀ q ∈ x.pieces, (x.ea l).toNat + q.off < localEnd

theorem checkLocal_none {ea : Word} {al mis : Nat} (h : checkLocal ea al mis = none) : ea.toNat < localEnd := by
  unfold checkLocal at h
  split at h
  · cases h
  next hlt => exact Nat.lt_of_not_le hlt
theorem laneStoreForm_plain (p : BitVec 3) (m : BitVec 2) (d a : BitVec 6) (c : BitVec 4) :
    LaneStoreForm (lanePlain p m d a c true false) := by
  refine ⟨List.pairwise_singleton _ _, fun l h q hq => ?_⟩
  obtain rfl := List.mem_singleton.1 hq
  have hn : ¬(accessSize m < accessSize m ∧ localEnd ≤ (l.ea a c (accessSize m)).toNat + accessSize m - 1) := fun h => Nat.lt_irrefl _ h.1
  exact checkLocal_none ((if_neg hn).symm.trans h)
/-- The last byte of a quad is checked with the first (R230). -/
theorem laneStoreForm_quad (p d : BitVec 3) (a : BitVec 6) (sc : BitVec 1) : LaneStoreForm (laneQuad p d a sc true) := by
  refine ⟨?_, fun l h q hq => ?_⟩
  · show (quadPieces d sc).Pairwise PiecesApart
    unfold quadPieces
    split <;> simp [PiecesApart]
  · have hoff : ∀ q ∈ quadPieces d sc, q.off + 1 ≤ quadSize sc := by unfold quadPieces quadSize; split <;> simp
    have hsize : 8 < quadSize sc := by unfold quadSize; split <;> decide
    have hq' : q.off + 1 ≤ quadSize sc := hoff q hq
    have hlt : (l.read a.toNat).toNat + quadSize sc - 1 < localEnd := by
      by_contra hge
      have hp : 8 < quadSize sc ∧ localEnd ≤ (l.read a.toNat).toNat + quadSize sc - 1 := ⟨hsize, Nat.le_of_not_lt hge⟩
      cases (if_pos hp).symm.trans h
    show (l.read a.toNat).toNat + q.off < localEnd
    omega

/-- The write of one piece of a lane, at the lane's address. -/
def pieceWrite (l : Lane) (base : Nat) (q : Piece) : Wr := ⟨base + q.off, q.size, (l.datum q.reg).val, (l.datum q.reg).poison⟩
theorem Lane.stores_eq (l : Lane) (base : Nat) (ps : List Piece) : l.stores base ps = ps.map (pieceWrite l base) := rfl
/-- The writes of a lane store: those of its lanes, one lane after the other. -/
def LaneAcc.laneWrites (x : LaneAcc) (g : Gang) (j : Nat) : List Wr := (g.lane j).stores (x.ea (g.lane j)).toNat x.pieces
/-- The lane store as the model runs it, lane by lane, and all its writes at once end alike. -/
theorem State.foldl_storeLocal_retire (x : LaneAcc) (is : List Nat) (s : State) (n : Option (BitVec 32)) :
    (is.foldl (fun t i => t.storeLocal (x.laneWrites t.gang i)) s).retire n = (s.storeLocal (is.flatMap (x.laneWrites s.gang))).retire n := by
  induction is generalizing s with
  | nil => exact ((State.retire_modMe s _ n).trans (State.modMe_congr rfl)).symm
  | cons i is ih =>
    obtain ⟨m, st, inj, ups, hk⟩ := s.me.writes_shape (x.laneWrites s.gang i)
    have hg : (s.storeLocal (x.laneWrites s.gang i)).gang = s.gang := by rw [State.storeLocal, State.gang_modMe, hk]; rfl
    rw [List.foldl_cons, ih, hg, List.flatMap_cons]
    have happ : (s.storeLocal (x.laneWrites s.gang i)).storeLocal (is.flatMap (x.laneWrites s.gang)) =
        s.storeLocal (x.laneWrites s.gang i ++ is.flatMap (x.laneWrites s.gang)) :=
      (State.modMe_modMe s _ _).trans (State.modMe_congr (Core.writes_append _ _ _).symm)
    rw [happ]
theorem State.laneLocal_ready {s : State} {x : LaneAcc} (h : AccReady s x) (ha : s.me.acquiring = false)
    (hl : ∀ j ∈ s.gang.guard x.p, x.local (s.gang.lane j) = none) (body : List Nat → Out) :
    s.laneLocal x body = body (s.gang.guard x.p) := by
  have hp : s.gang.poisonedLanes (s.gang.guard x.p) [x.a.toNat] = [] :=
    List.filter_eq_nil_iff.2 fun i hi => by simpa using h.2.2 i hi x.a.toNat (List.mem_singleton.2 rfl)
  have hb : (s.gang.guard x.p).filter (fun i => (x.local (s.gang.lane i)).isSome) = [] :=
    List.filter_eq_nil_iff.2 fun i hi => by rw [hl i hi]; simp
  rw [State.laneLocal, State.laneAddrs, State.laneGate_ready (lanesReady_mono h (fun _ => id) (by simp)), hp]
  dsimp only
  rw [ha, hb]; rfl

theorem laneStl_stores {s : State} {i : Instr} {x : LaneAcc} (hi : exec i s = s.finish (s.laneStl x)) (hx : LaneStoreForm x)
    (h : AccReady s x) (hu : Unstepped s) (ha : s.me.acquiring = false) (hf : s.me.fenced = false)
    (hl : ∀ j ∈ s.gang.guard x.p, x.local (s.gang.lane j) = none)
    (hw : s.watch false (x.seen s.gang (s.gang.guard x.p) fun v => coreAddr s.cur v.toNat) = []) :
    ∃ t, exec i s = .next t ∧ StoresLocal s t ((s.gang.guard x.p).flatMap (x.laneWrites s.gang)) := by
  have ho : s.laneStl x = .next ((s.gang.guard x.p).foldl (fun t i => t.storeLocal (x.laneWrites t.gang i)) s)
      (s.watch false (x.seen s.gang (s.gang.guard x.p) fun v => coreAddr s.cur v.toNat)) := by
    rw [State.laneStl, State.laneLocal_ready h ha hl, hf]; rfl
  have hc := (completes_of_next_after ho hi).trans (congrArg Host.Outcome.next (retired_congr (State.foldl_storeLocal_retire x _ s none)))
  refine storesLocal_of_completes hc hw hu fun w hwm => ?_
  obtain ⟨j, hj, hwj⟩ := List.mem_flatMap.1 hwm
  obtain ⟨q, hq, rfl⟩ := List.mem_map.1 hwj
  exact hx.inside _ (hl j hj) q hq
theorem Gang.pairwise_guard (g : Gang) (p : BitVec 3) : (g.guard p).Pairwise (· < ·) := by
  unfold Gang.guard Gang.active
  split
  · exact (List.pairwise_lt_range.filter _).filter _
  · exact List.pairwise_lt_range.filter _
/-- A piece of a lane reads as the lane's datum, where no later lane stores over it. -/
theorem StoresLocal.piece {s t : State} {x : LaneAcc} {is : List Nat} (h : StoresLocal s t (is.flatMap (x.laneWrites s.gang)))
    (hx : LaneStoreForm x) (his : is.Pairwise (· < ·)) {j : Nat} (hj : j ∈ is) {q : Piece} (hq : q ∈ x.pieces)
    (hlater : ∀ k ∈ is, j < k → ∀ r ∈ x.pieces, (x.ea (s.gang.lane k)).toNat + r.off + r.size ≤ (x.ea (s.gang.lane j)).toNat + q.off ∨
      (x.ea (s.gang.lane j)).toNat + q.off + q.size ≤ (x.ea (s.gang.lane k)).toNat + r.off) :
    t.me.mem.load ((x.ea (s.gang.lane j)).toNat + q.off) q.size = ((s.gang.lane j).datum q.reg).val.toNat % 2 ^ (8 * q.size) := by
  obtain ⟨pre, post, rfl⟩ := List.append_of_mem hj
  obtain ⟨qs, rs, hpieces⟩ := List.append_of_mem hq
  have hpost : ∀ k ∈ post, j < k := (List.pairwise_cons.1 (List.pairwise_append.1 his).2.1).1
  have hrs : ∀ r ∈ rs, PiecesApart q r := (List.pairwise_cons.1 (List.pairwise_append.1 (hpieces ▸ hx.apart)).2.1).1
  have hlist : (pre ++ j :: post).flatMap (x.laneWrites s.gang) =
      (pre.flatMap (x.laneWrites s.gang) ++ qs.map (pieceWrite (s.gang.lane j) (x.ea (s.gang.lane j)).toNat)) ++
        pieceWrite (s.gang.lane j) (x.ea (s.gang.lane j)).toNat q ::
          (rs.map (pieceWrite (s.gang.lane j) (x.ea (s.gang.lane j)).toNat) ++ post.flatMap (x.laneWrites s.gang)) := by
    simp only [List.flatMap_append, List.flatMap_cons, LaneAcc.laneWrites, Lane.stores_eq]
    rw [hpieces]
    simp
  rw [h.mem, hlist]
  refine Memory.load_writes_last _ _ (pieceWrite (s.gang.lane j) (x.ea (s.gang.lane j)).toNat q) fun v hv => ?_
  obtain hv | hv := List.mem_append.1 hv
  · obtain ⟨r, hr, rfl⟩ := List.mem_map.1 hv
    have hqr : q.off + q.size ≤ r.off ∨ r.off + r.size ≤ q.off := hrs r hr
    simp only [WritesApart, pieceWrite]
    omega
  · obtain ⟨k, hk, hvk⟩ := List.mem_flatMap.1 hv
    obtain ⟨r, hr, rfl⟩ := List.mem_map.1 hvk
    have hkr := hlater k (by simp [hk]) (hpost k hk) r hr
    simp only [WritesApart, pieceWrite]
    omega

end Sys2Proof.Machine

/-! SUPPORT. Store requests at their homes (spec/14 R332, R336, R341; spec/16 R366): the bytes of their writes change, and no other. -/
namespace Sys2Proof.Machine

open Sys2Proof.Spec
set_option Elab.async false

/-! ### What leaves every byte of memory -/

/-- Every byte of global memory and of every core's memory reads alike. -/
structure State.SameBytes (s t : State) : Prop where
  byte : ∀ x, t.mem.byte x = s.mem.byte x
  core : ∀ c x, (t.core c).mem.byte x = (s.core c).mem.byte x

theorem State.SameBytes.refl (s : State) : s.SameBytes s := ⟨fun _ => rfl, fun _ _ => rfl⟩
theorem State.SameBytes.trans {s t u : State} (h : s.SameBytes t) (g : t.SameBytes u) : s.SameBytes u :=
  ⟨fun x => (g.byte x).trans (h.byte x), fun c x => (g.core c x).trans (h.core c x)⟩
theorem State.SameBytes.foldl {α : Type} {f : State → α → State} (hf : ∀ (s : State) (a : α), s.SameBytes (f s a)) (l : List α)
    (s : State) : s.SameBytes (l.foldl f s) := by
  induction l generalizing s with
  | nil => exact .refl s
  | cons a l ih => exact (hf s a).trans (ih _)
theorem State.SameValues.sameBytes {s t : State} (h : s.SameValues t) : s.SameBytes t := ⟨h.byte, fun c => (h.core c).byte⟩
theorem State.sameBytes_wake (s : State) : s.SameBytes s.wake :=
  ⟨fun _ => rfl, fun c x => by rw [State.core_wake]; rfl⟩
/-- A request is answered, and waiting gangs try again: no byte changes. -/
theorem State.sameBytes_answer_wake (s : State) (r : Req) (a : Answer) : s.SameBytes (s.answer r a).wake :=
  (s.sameValues_answer r a).sameBytes.trans (State.sameBytes_wake _)

/-! ### At a core (R332) -/

theorem State.core_pushRing_ne (s : State) {c d : Nat} (n : Nat) (v : Word) (h : d ≠ c) : (s.pushRing c n v).core d = s.core d :=
  (State.core_modCore _ _ _ _).trans (if_neg h)
theorem State.mem_core_pushRing (s : State) (c n : Nat) (v : Word) : ((s.pushRing c n v).core c).mem = (s.core c).mem := by
  rw [State.pushRing, State.core_modCore, if_pos rfl]; rfl
/-- A store at a core: of its writes, those below the windows reach its memory, and nothing else is written. -/
theorem State.storeAt_memories (s : State) (c : Nat) (ws : List Wr) :
    (s.storeAt c ws).mem = s.mem ∧ (∀ d, d ≠ c → (s.storeAt c ws).core d = s.core d) ∧
      ((s.storeAt c ws).core c).mem = (s.core c).mem.writes (ws.filter (·.addr < localEnd)) := by
  induction ws generalizing s with
  | nil => exact ⟨rfl, fun _ _ => rfl, rfl⟩
  | cons w ws ih =>
    rw [State.storeAt]
    split
    next hring =>
      obtain ⟨hm, hd, hc⟩ := ih (s.pushRing c ((w.addr - 0x1A000) / 16) w.val)
      have hout : ¬w.addr < localEnd := by show ¬w.addr < 0x18000; omega
      refine ⟨hm, fun d hne => ?_, ?_⟩
      · rw [hd d hne, State.core_pushRing_ne _ _ _ hne]
      · rw [hc, List.filter_cons_of_neg (by simpa using hout), State.mem_core_pushRing]
    next =>
      obtain ⟨hm, hd, hc⟩ := ih (s.modCore c (·.writes [w]))
      refine ⟨hm, fun d hne => ?_, ?_⟩
      · rw [hd d hne]; exact (State.core_modCore _ _ _ _).trans (if_neg hne)
      · rw [hc, State.core_modCore, if_pos rfl, Core.mem_writes, ← Memory.writes_append, ← List.filter_append]; rfl
theorem remoteStore_bytes {s : State} {r : Req} {ws : List Wr} {c : Nat} (ho : r.op = .store ws) (hh : r.home = some c) :
    ∃ t, Does (.remoteAccess r) s t ∧ (∀ x, t.mem.byte x = s.mem.byte x) ∧
      (∀ d x, d ≠ c → (t.core d).mem.byte x = (s.core d).mem.byte x) ∧
      ∃ m : Memory, (∀ x, m.byte x = (s.core c).mem.byte x) ∧
        ∀ x, (t.core c).mem.byte x = (m.writes (ws.filter (·.addr < localEnd))).byte x := by
  have hw := (s.sameValues_wakeCore c).sameBytes
  obtain ⟨hm, hd, hc⟩ := (s.wakeCore c).storeAt_memories c ws
  have ha := ((s.wakeCore c).storeAt c ws).sameBytes_answer_wake r .ack
  refine ⟨(((s.wakeCore c).storeAt c ws).answer r .ack).wake, ?_, fun x => ?_, fun d x hne => ?_, _, hw.core c, fun x => ?_⟩
  · show Host.Outcome.next _ = _
    rw [hh, ho]; rfl
  · rw [ha.byte, hm, hw.byte]
  · rw [ha.core, hd d hne, hw.core]
  · rw [ha.core, hc]

/-! ### Where a page lies -/

section
variable {s t : State} (h : s.SameValues t)
include h

theorem State.SameValues.iptAt (f : Nat) : t.iptAt f = s.iptAt f := by
  unfold State.iptAt State.ownerOf; rw [h.ipt, h.sup]
theorem State.SameValues.anchor (part v : Nat) : t.anchor part v = s.anchor part v := by
  have hl : ∀ a, t.mem.load a 8 = s.mem.load a 8 := fun a => Memory.load_congr 8 fun i _ => h.byte _
  unfold State.anchor State.anchorAt; simp only [h.sup, hl]
theorem State.SameValues.chain (part v : Nat) (large : Bool) (n : Nat) (f : Option Nat) :
    t.chain part v large n f = s.chain part v large n f := by
  induction n generalizing f with
  | zero => cases f <;> rfl
  | succ n ih =>
    cases f with
    | none => rfl
    | some f => simp only [State.chain, h.iptAt, ih]
/-- The walk of a page reads no more of a state than its anchors and its table. -/
theorem State.SameValues.resolve (part a : Nat) (w : Bool) : t.resolve part a w = s.resolve part a w := by
  unfold State.resolve State.walk; simp only [h.anchor, h.chain]
theorem State.SameValues.headers : t.headers = s.headers := by
  unfold State.headers State.queueBase; simp only [h.ctx, h.resolve]

end

/-! ### At a slice (R336, R366) -/

/-- A byte put back to what it was, with the mark of its word, where it is of a header's fixed part. -/
def Memory.putBack (old : Memory) (hs : List Nat) (m : Memory) (y : Nat) : Memory :=
  if hs.any fun h => headerFixed h y then (m.setByte y (old.byte y)).setBad (y / 8) (mget false old.bad (y / 8)) else m
theorem Memory.keepHeaders_eq (m old : Memory) (hs : List Nat) (a n : Nat) : m.keepHeaders old hs a n =
    if hs.any fun h => a < h + 256 && h < a + n then (List.range n).foldl (fun m i => old.putBack hs m (a + i)) m else m := rfl
theorem Memory.byte_putBack (old : Memory) (hs : List Nat) (m : Memory) (x y : Nat) :
    (old.putBack hs m y).byte x = if x = y ∧ hs.any (headerFixed · x) = true then old.byte x else m.byte x := by
  unfold Memory.putBack
  by_cases hxy : x = y
  · subst hxy
    by_cases hf : hs.any (headerFixed · x) = true
    · rw [if_pos hf, if_pos ⟨rfl, hf⟩, Memory.byte_setBad, Memory.byte_setByte, if_pos rfl]
    · rw [if_neg hf, if_neg fun h => hf h.2]
  · have hno : ¬(x = y ∧ hs.any (headerFixed · x) = true) := fun h => hxy h.1
    rw [if_neg hno]
    split
    · rw [Memory.byte_setBad, Memory.byte_setByte, if_neg hxy]
    · rfl
theorem Memory.byte_foldl_putBack (old : Memory) (hs : List Nat) (m : Memory) (a n x : Nat) :
    ((List.range n).foldl (fun m i => old.putBack hs m (a + i)) m).byte x =
      if (a ≤ x ∧ x < a + n) ∧ hs.any (headerFixed · x) = true then old.byte x else m.byte x := by
  induction n with
  | zero => exact (if_neg fun h => by have := h.1; omega).symm
  | succ n ih =>
    rw [List.range_succ, List.foldl_append, List.foldl_cons, List.foldl_nil, Memory.byte_putBack, ih]
    by_cases hf : hs.any (headerFixed · x) = true
    · by_cases hy : x = a + n
      · rw [if_pos ⟨hy, hf⟩, if_pos ⟨by omega, hf⟩]
      · have hin : (a ≤ x ∧ x < a + n) ↔ (a ≤ x ∧ x < a + (n + 1)) := by omega
        rw [if_neg fun h => hy h.1]
        simp only [hin]
    · rw [if_neg fun h => hf h.2, if_neg fun h => hf h.2, if_neg fun h => hf h.2]
/-- Of the bytes from `a` that an operation at a slice has written, those of a header's fixed part are put back. -/
theorem Memory.byte_keepHeaders (m old : Memory) (hs : List Nat) (a n x : Nat) :
    (m.keepHeaders old hs a n).byte x = if (a ≤ x ∧ x < a + n) ∧ hs.any (headerFixed · x) = true then old.byte x else m.byte x := by
  rw [Memory.keepHeaders_eq]
  split
  · exact Memory.byte_foldl_putBack old hs m a n x
  next hno =>
    refine (if_neg fun h => hno ?_).symm
    obtain ⟨hin, hf⟩ := h
    obtain ⟨h, hh, hx⟩ := List.any_eq_true.1 hf
    refine List.any_eq_true.2 ⟨h, hh, ?_⟩
    simp only [headerFixed, Bool.and_eq_true, decide_eq_true_eq] at hx ⊢
    omega

theorem State.sameValues_tellControls (s : State) (ws : List Wr) : s.SameValues (s.tellControls ws) := by
  refine State.SameValues.foldl (fun t q => ?_) _ s
  split
  · exact State.sameValues_ite (t.sameValues_push _) (.refl t)
  · exact .refl t
theorem State.sameValues_pushAs (s : State) (f : Option (BitVec 4)) (e : Instr) : s.SameValues (s.pushAs f e) := by
  unfold State.pushAs; split <;> exact State.sameValues_of_cores rfl (fun _ => rfl) rfl rfl rfl rfl
theorem State.sameValues_evalWatches (s : State) : s.SameValues s.evalWatches :=
  State.SameValues.trans (t := { s with watches := s.watches.filter fun w => (s.watchDone w).isNone })
    (State.sameValues_of_cores rfl (fun _ => rfl) rfl rfl rfl rfl) (State.SameValues.foldl (fun t _ => t.sameValues_pushAs _ _) _ _)
/-- A write of a table entry changes no byte of memory. -/
theorem State.sameBytes_storeTable (s : State) (part : Nat) (ws : List Wr) : s.SameBytes (s.storeTable part ws) := by
  have hd : ∀ (t : State) f w, t.SameBytes (t.discardEntryWrite f w) := fun t f w => (t.sameValues_record _ _ _ _ _).sameBytes
  refine State.SameBytes.foldl (fun t f => ?_) _ s
  split
  · unfold State.writeTable
    dsimp only
    split
    · exact hd _ _ _
    · exact ⟨fun _ => rfl, fun _ _ => rfl⟩
  · exact hd _ _ _
/-- Memory after one write at a slice. -/
def State.globalWrite (s : State) (w : Wr) : Memory := (s.mem.store w.addr w.size w.val w.poison).keepHeaders s.mem s.headers w.addr w.size
/-- A state with another global memory. -/
def State.withMem (s : State) (m : Memory) : State := { s with mem := m }
theorem State.writeGlobal_one (s : State) (w : Wr) : s.writeGlobal [w] = ((s.withMem (s.globalWrite w)).tellControls [w]).evalWatches := rfl
theorem State.sameBytes_writeGlobal (s : State) (w : Wr) : (s.withMem (s.globalWrite w)).SameBytes (s.writeGlobal [w]) := by
  rw [State.writeGlobal_one]
  exact ((State.sameValues_tellControls _ _).trans (State.sameValues_evalWatches _)).sameBytes
theorem State.byte_globalWrite (s : State) (w : Wr) (x : Nat) : (s.globalWrite w).byte x =
    if (w.addr ≤ x ∧ x < w.addr + w.size) ∧ s.headers.any (headerFixed · x) = true then s.mem.byte x
    else (s.mem.store w.addr w.size w.val w.poison).byte x :=
  Memory.byte_keepHeaders _ _ _ _ _ x
theorem State.byte_globalWrite_other (s : State) {w : Wr} {x : Nat} (h : WriteMisses w x) : (s.globalWrite w).byte x = s.mem.byte x := by
  rw [State.byte_globalWrite, Memory.byte_store_other _ _ _ h, ite_self]
theorem State.byte_globalWrite_fixed (s : State) {w : Wr} {x : Nat} (h : s.headers.any (headerFixed · x) = true) :
    (s.globalWrite w).byte x = s.mem.byte x := by
  rw [State.byte_globalWrite]
  split
  · rfl
  next hout => exact Memory.byte_store_other _ _ _ (by have : ¬(w.addr ≤ x ∧ x < w.addr + w.size) := fun hin => hout ⟨hin, h⟩; omega)
theorem State.load_globalWrite (s : State) {w : Wr} (h : ∀ a ∈ s.headers, w.addr + w.size ≤ a ∨ a + 256 ≤ w.addr) :
    (s.globalWrite w).load w.addr w.size = w.val.toNat % 2 ^ (8 * w.size) := by
  refine (Memory.load_congr _ fun i hi => ?_).trans (Memory.load_store s.mem w.addr w.size w.val w.poison)
  rw [State.byte_globalWrite, if_neg]
  rintro ⟨-, hf⟩
  obtain ⟨a, ha, hx⟩ := List.any_eq_true.1 hf
  have hfar := h a ha
  simp only [headerFixed, Bool.and_eq_true, decide_eq_true_eq] at hx
  omega
/-- A store request at a slice ends as one of a table entry, or as one write of memory. -/
theorem sliceStore_does {s : State} {r : Req} {w : Wr} (ho : r.op = .store [w]) : ∃ t u, Does (.sliceOperation r) s t ∧ s.SameValues u ∧
    if tableBase ≤ w.addr then u.SameBytes t else (u.withMem (u.globalWrite w)).SameBytes t := by
  have hu := s.sameValues_reachSlices r
  generalize hv : (s.rouseSlices r).scanReq r = u at hu
  refine ⟨_, u, rfl, hu, ?_⟩
  have ht : s.atSlices r = ((u.sliceStore (u.partFor r.src) [w]).answer r .ack).wake := by
    rw [State.atSlices, hv, State.performSlice, ho]; rfl
  rw [ht]
  have hend := (u.sliceStore (u.partFor r.src) [w]).sameBytes_answer_wake r .ack
  unfold State.sliceStore at hend ⊢
  by_cases hb : tableBase ≤ w.addr
  · have hany : ([w].any fun w => decide (tableBase ≤ w.addr)) = true := by simpa using hb
    rw [if_pos hany] at hend ⊢
    rw [if_pos hb]
    exact (u.sameBytes_storeTable _ _).trans hend
  · have hany : ¬([w].any fun w => decide (tableBase ≤ w.addr)) = true := by simpa using hb
    rw [if_neg hany] at hend ⊢
    rw [if_neg hb]
    exact (u.sameBytes_writeGlobal w).trans hend

/-- Settles O44: local stores by the list of their writes; a request at a core and at a slice by what the home performs. -/
theorem storesChangeTheirBytes : Obligations.StoresChangeTheirBytes := by
  refine ⟨?single, ?pair, ?lanes, ?zero, ?core, ?slice⟩
  case single =>
    rintro s i d rs ea size hform h hu ha hf h1 h2 hw
    obtain ⟨t, ht, hs⟩ : ∃ t, exec i s = .next t ∧ StoresLocal s t (s.gangWrite d size ea.toNat) := by
      obtain ⟨a, z, n, f, rfl, rfl, rfl, rfl⟩ | ⟨x, y, o, rfl, rfl, hea, rfl, rfl⟩ := hform
      · exact stl_stores h hu ha hf h1 h2 hw
      · obtain rfl := hea.trans (s.eaM_compact (cg y) o).symm
        exact stlCompact_stores h hu ha hf h1 h2 hw
    obtain ⟨hbyte, hload⟩ := hs.gangWrite
    exact ⟨t, ht, hs.rest, hs.moves, hbyte, hload, hs.regs, hs.lanes⟩
  case pair =>
    rintro s d a n f _ rfl h hu ha hf h1 h2 hw
    obtain ⟨t, ht, hs⟩ := stlPr_stores h hu ha hf h1 h2 hw
    obtain ⟨hbyte, hlow, hhigh⟩ := hs.pair
    exact ⟨t, ht, hs.rest, hs.moves, hbyte, hlow, hhigh, hs.regs, hs.lanes⟩
  case lanes =>
    intro s p a i x hform h hu ha hf hl hw
    have hx : LaneStoreForm x ∧ exec i s = s.finish (s.laneStl x) := by
      obtain ⟨m, d, c, rfl, rfl⟩ | ⟨d, sc, rfl, rfl⟩ := hform
      · exact ⟨laneStoreForm_plain p m d a c, rfl⟩
      · exact ⟨laneStoreForm_quad p d a sc, rfl⟩
    obtain ⟨t, ht, hs⟩ := laneStl_stores hx.2 hx.1 h hu ha hf hl hw
    refine ⟨t, ht, hs.rest, hs.moves, hs.lanes, hs.regs, fun y => ⟨hs.byte y, fun hy => hs.byte_other fun w hwm => ?_⟩,
      fun j hj hlater q hq => hs.piece hx.1 (s.gang.pairwise_guard x.p) hj hq fun k hk hjk r hr => hlater k hk hjk q hq r hr⟩
    obtain ⟨j, hj, hwj⟩ := List.mem_flatMap.1 hwm
    obtain ⟨q, hq, rfl⟩ := List.mem_map.1 hwj
    exact hy j hj q hq
  case zero =>
    rintro s a n f _ rfl h hu ha hf h1 h2 hw
    obtain ⟨t, ht, hs⟩ := stzl_stores h hu ha hf h1 h2 hw
    exact ⟨t, ht, hs.rest, hs.moves, fun x => ⟨hs.byte x, hs.zeroBlock x⟩⟩
  case core =>
    intro s r ws c ho hh
    obtain ⟨t, ht, hmem, hother, m, hm, hc⟩ := remoteStore_bytes ho hh
    refine ⟨t, ht, fun x => ⟨hmem x, fun d hd => hother d x hd, fun hx => ?_⟩, ?_⟩
    · rw [hc, Memory.byte_writes_other, hm]
      intro w hw
      obtain ⟨hw, hlt⟩ := List.mem_filter.1 hw
      exact hx w hw (of_decide_eq_true hlt)
    · rintro w rfl hlt
      have hfilter : [w].filter (·.addr < localEnd) = [w] := List.filter_cons_of_pos (decide_eq_true hlt)
      rw [Memory.load_congr _ fun i _ => hc _, hfilter, Memory.load_writes_one]
  case slice =>
    intro s r w ho
    obtain ⟨t, u, ht, hu, h⟩ := sliceStore_does (s := s) ho
    by_cases hb : tableBase ≤ w.addr
    · rw [if_pos hb] at h
      have hst := hu.sameBytes.trans h
      exact ⟨t, ht, fun x _ => hst.byte x, fun hlt => absurd hb (Nat.not_le.2 hlt), fun x _ => hst.byte x, hst.core⟩
    · rw [if_neg hb] at h
      refine ⟨t, ht, fun x hx => ?_, fun _ hfar => ?_, fun x hx => ?_, fun c x => ?_⟩
      · exact (h.byte x).trans ((u.byte_globalWrite_other hx).trans (hu.byte x))
      · exact (Memory.load_congr _ fun i _ => h.byte _).trans (u.load_globalWrite (hu.headers ▸ hfar))
      · exact (h.byte x).trans ((u.byte_globalWrite_fixed (hu.headers ▸ hx.resolve_left hb)).trans (hu.byte x))
      · exact (h.core c x).trans ((hu.core c).byte x)

end Sys2Proof.Machine

/-! SUPPORT. Strands, channels and migration (spec/06 R135, R155-R172): transfers elsewhere, messages, bindings, claims, launches,
spawns and replicas, by what each finds at its checks. -/
namespace Sys2Proof.Machine

open Sys2Proof.Spec
set_option Elab.async false

/-! ### Transfers elsewhere (R135) -/

/-- Outside the slots of another, a transfer is set off. -/
theorem State.startXfer_outside {s : State} (h : s.me.xfer = none) (kind : XferKind) (p : BitVec 3) (home : BitVec 1) :
    s.startXfer kind p home = .next (setOff s kind p (home = 1)) := by
  rw [State.startXfer, h]
  rfl

/-- Settles O5: every one of them starts a transfer of its kind; `xend` and the compact forms go without `.home`. -/
theorem transfersElsewhereComplete : Obligations.TransfersElsewhereComplete := by
  intro s r a q h hx
  have starts (kind : XferKind) (p : BitVec 3) (home : BitVec 1) := State.startXfer_outside hx kind p home
  exact ⟨completes_of_next (starts (.jx r) q h), completes_of_next (starts (.cx r) q h), completes_of_next (starts (.jxr a) q h),
    completes_of_next (starts .xret q h), completes_of_next (starts .xend q 0), completes_of_next (starts .xret 0 0),
    completes_of_next (starts .xend 0 0)⟩

/-! ### `send` and `recv` (R162-R164) -/

section
variable {s : State} {a b : BitVec 4} {all : List (BitVec 4)} {p : BitVec 1} {n : BitVec 3} {body : Bool → State → Out}

theorem State.checkChannel_seen {s : State} {v : Word} (hw : channelWordOk v = true) (hs : s.sees (coreOf v) = true) (o : Out) :
    s.checkChannel v o = o := by
  simp [State.checkChannel, hw, hs]
/-- A message whose checks pass finds room in the queue of its network, or does not. -/
theorem State.sendForm_checked (h : Ready s [a, b] all) (ha : s.me.acquiring = false) (hf : s.me.fenced = false)
    (hw : channelWordOk (s.readG a) = true) (hs : s.sees (coreOf (s.readG a)) = true) (h8 : (s.readG b).toNat % 8 = 0)
    (hend : (s.readG b).toNat + 8 * (n.toNat + 1) ≤ 0x18000) :
    s.sendForm a b all p n body =
      if 8 ≤ (s.me.sendQueue p).length + (if p = 1 then 0 else s.heldBy (.core s.cur)) then body true s
      else
        let t := s.scanLocal s.cur (s.readG b).toNat (8 * (n.toNat + 1))
        body false ((t.modMe (·.queueSend p (t.sendMessage (s.readG a) (s.readG b) (n.toNat + 1) (p = 1)))).fresh) := by
  have hready : Ready s ([b] ++ [a]) all := ready_mono h (fun _ => id) (by simp)
  have hend' : ¬localEnd < (s.readG b).toNat + 8 * (n.toNat + 1) := Nat.not_lt.2 hend
  rw [State.sendForm]
  dsimp only
  rw [State.gateAddr_ready hready, State.checkChannel_seen hw hs, if_neg (not_not.2 h8), if_neg hend', ha, hf]
  rfl

end

section
variable {s t : State} {d a b : BitVec 4} {ch : Nat} {w : Datum}

/-- `recv` in a carry firing at level 0 takes the next word. -/
theorem recv_takes (hch : ch = fieldOf (s.readG a) 5 0) (hk : s.gang.kind = .carry) (hp : s.me.priv = 0) (h : Ready s [a] [d, a])
    (hc : s.me.messageChannel ch = true) (ht : s.takeWord s.cur ch = some (w, t)) :
    Completes (.recv d a) s (t.writeG d w.val w.poison) := by
  subst hch
  refine completes_of_next (o := s.blocking _) ?_
  rw [State.blocking, hk, hp]
  refine (State.gate_ready h _).trans ?_
  rw [hc, ht]
  rfl
theorem recvnb_takes (hch : ch = fieldOf (s.readG a) 5 0) (h : Ready s [a] [d, a, b]) (hc : s.me.messageChannel ch = true)
    (ht : s.takeWord s.cur ch = some (w, t)) : Completes (.recvnb d a b) s ((t.writeG d w.val w.poison).writeG b 1) := by
  subst hch
  refine completes_of_next ((State.gate_ready h _).trans ?_)
  rw [hc, ht]
  rfl
theorem recvnb_empty (hch : ch = fieldOf (s.readG a) 5 0) (h : Ready s [a] [d, a, b]) (hc : s.me.messageChannel ch = true)
    (ht : s.takeWord s.cur ch = none) : Completes (.recvnb d a b) s ((s.writeG d 0).writeG b 0) := by
  subst hch
  refine completes_of_next ((State.gate_ready h _).trans ?_)
  rw [hc, ht]
  rfl

end

/-- Settles O16: `send` and `sendnb` by the room in the queue, `recv` and `recvnb` by the word that waits. -/
theorem sendReceiveComplete : Obligations.SendReceiveComplete := by
  refine ⟨?send, fun s d a b ch hch hc => ⟨fun w t ht => ⟨fun hk hp h => recv_takes hch hk hp h hc ht,
    fun h => recvnb_takes hch h hc ht⟩, fun ht h => recvnb_empty hch h hc ht⟩⟩
  case send =>
    rintro s d a b p n _ ha hf hw hs h8 hend rfl
    refine ⟨fun hroom => ⟨fun h => completes_of_next ?_, fun h => completes_of_next ?_⟩, fun hfull h => completes_of_next ?_⟩
    · exact (State.sendForm_checked h ha hf hw hs h8 hend).trans (if_neg (Nat.not_le.2 hroom))
    · exact (State.sendForm_checked h ha hf hw hs h8 hend).trans (if_neg (Nat.not_le.2 hroom))
    · exact (State.sendForm_checked h ha hf hw hs h8 hend).trans (if_pos hfull)

/-! ### `chbind` (R158, R159) -/

theorem State.onImage_sound {s : State} {off n : Nat} (h : s.me.mem.poisoned off n = false) (body : Out) : s.onImage off n body = body := by
  rw [State.onImage, h]; rfl

/-- The status that `chbind` reports for an entry of a channel: that of the entry, then 4 while a rebinding is pending. -/
def Core.chbindStatus (k : Core) (ch : Nat) (c : Channel) : Nat :=
  if k.bindStatus ch c ≠ 0 then k.bindStatus ch c else if (k.channel ch).state = 2 then 4 else 0
/-- The entry that stands at an offset of the acting core's memory: word 0 of a channel's new entry. -/
def Core.newEntryAt (k : Core) (off : Nat) : Channel := { word0 := w64 (k.mem.load off 8) }
/-- A channel whose new entry, at an offset of memory, is to take effect: its grants are revoked. -/
def State.bindEntry (t : State) (d : BitVec 4) (ch off : Nat) : State :=
  let w1 := w64 (t.me.mem.load (off + 8) 8)
  let u := t.modMe (·.setChannel ch
    { t.me.channel ch with state := 2, next := some ((t.me.newEntryAt off).word0, w1.getLsbD 0, w1.getLsbD 2), age := 0 })
  (u.revokeGrants u.cur ch).writeG d 0

section
variable {s t : State} {d a b : BitVec 4} {ch off : Nat}

/-- `chbind` with its checks passed goes on with the status of the entry it reads. -/
theorem exec_chbind_checked (h : Ready s [b, a] [d, a, b]) (hch : fieldOf (s.readG a) 63 6 = 0) (h16 : (s.readG b).toNat % 16 = 0)
    (hend : (s.readG b).toNat < 0x18000) (ha : s.me.acquiring = false) (ht : t = s.scanLocal s.cur (s.readG b).toNat 16)
    (hp : t.me.mem.poisoned (s.readG b).toNat 16 = false) (hc : ch = fieldOf (s.readG a) 5 0) (ho : off = (s.readG b).toNat) :
    exec (.chbind d a b) s = s.finish (
      if t.me.chbindStatus ch (t.me.newEntryAt off) ≠ 0 then .next (t.writeG d (w64 (t.me.chbindStatus ch (t.me.newEntryAt off))))
      else .next (t.bindEntry d ch off)) := by
  subst ht hc ho
  have hin : ¬((s.readG b).toNat % 16 ≠ 0 ∨ localEnd ≤ (s.readG b).toNat) := not_or.2 ⟨not_not.2 h16, Nat.not_le.2 hend⟩
  refine congrArg s.finish ((State.gateAddr_ready (addrs := [b]) (uses := [a]) h _).trans ?_)
  rw [if_neg (not_not.2 hch), if_neg hin, ha]
  exact State.onImage_sound hp _

end

/-! ### `evbind` (R172) -/

/-- The statuses of `evbind` and of `evbind.off`, the lowest first. -/
def Core.evbindStatus (k : Core) (sel ch : Nat) : Nat :=
  if !counterKnown sel k.priv.toNat then 1 else if !k.messageChannel ch then 2
  else if 8 ≤ k.bindings.length ∧ !k.bindings.any (·.sel = sel) then 3 else 0
def Core.evbindOffStatus (k : Core) (sel : Nat) : Nat :=
  if !counterKnown sel k.priv.toNat then 1 else if !k.bindings.any (·.sel = sel) then 3 else 0

section
variable {k : Core} {sel ch : Nat}

theorem Core.evbindStatus_unknown (hk : counterKnown sel k.priv.toNat = false) : k.evbindStatus sel ch = 1 := by
  simp [Core.evbindStatus, hk]
theorem Core.evbindStatus_noChannel (hk : counterKnown sel k.priv.toNat = true) (hm : k.messageChannel ch = false) :
    k.evbindStatus sel ch = 2 := by
  simp [Core.evbindStatus, hk, hm]
theorem Core.evbindStatus_full (hk : counterKnown sel k.priv.toNat = true) (hm : k.messageChannel ch = true)
    (hl : 8 ≤ k.bindings.length) (ho : k.bindings.any (·.sel = sel) = false) : k.evbindStatus sel ch = 3 := by
  simp only [Core.evbindStatus, hk, hm, hl, ho]; rfl
theorem Core.evbindStatus_ok (hk : counterKnown sel k.priv.toNat = true) (hm : k.messageChannel ch = true)
    (h : k.bindings.length < 8 ∨ k.bindings.any (·.sel = sel) = true) : k.evbindStatus sel ch = 0 := by
  have hroom : ¬(8 ≤ k.bindings.length ∧ (!k.bindings.any (·.sel = sel)) = true) := by
    rintro ⟨hl, ho⟩
    rw [Bool.not_eq_true'] at ho
    exact h.elim (Nat.not_lt.2 hl) (by rw [ho]; exact Bool.false_ne_true)
  rw [Core.evbindStatus, hk, hm, if_neg hroom]; rfl
theorem Core.evbindOffStatus_unknown (hk : counterKnown sel k.priv.toNat = false) : k.evbindOffStatus sel = 1 := by
  simp [Core.evbindOffStatus, hk]
theorem Core.evbindOffStatus_unbound (hk : counterKnown sel k.priv.toNat = true) (ho : k.bindings.any (·.sel = sel) = false) :
    k.evbindOffStatus sel = 3 := by
  rw [Core.evbindOffStatus, hk, ho]; rfl
theorem Core.evbindOffStatus_ok (hk : counterKnown sel k.priv.toNat = true) (ho : k.bindings.any (·.sel = sel) = true) :
    k.evbindOffStatus sel = 0 := by
  rw [Core.evbindOffStatus, hk, ho]; rfl

end

section
variable {s : State} {d a b : BitVec 4} {sel ch st : Nat}

theorem evbind_reports (h : Ready s [a, b] [d, a, b]) (hs : sel = fieldOf (s.readG a) 31 0) (hc : ch = fieldOf (s.readG a) 37 32)
    (hst : s.me.evbindStatus sel ch = st) (h0 : st ≠ 0) : Completes (.evbind d a b) s (s.writeG d (w64 st)) := by
  subst hs hc hst
  exact completes_of_next ((State.gate_ready h _).trans (if_pos h0))
theorem evbind_binds (h : Ready s [a, b] [d, a, b]) (hs : sel = fieldOf (s.readG a) 31 0) (hc : ch = fieldOf (s.readG a) 37 32)
    (hst : s.me.evbindStatus sel ch = 0) : let t := s.queueCrossing s.cur sel
    Completes (.evbind d a b) s ((t.modMe fun k => { k with bindings := k.bindings.filter (·.sel ≠ sel) ++
      [⟨sel, ch, s.readG b, (t.counterValue t.cur sel).toNat < (s.readG b).toNat, none⟩] }).writeG d 0) := by
  subst hs hc
  exact completes_of_next ((State.gate_ready h _).trans (if_neg (not_not.2 hst)))
theorem evbindOff_reports (h : Ready s [a] [d, a]) (hs : sel = fieldOf (s.readG a) 31 0) (hst : s.me.evbindOffStatus sel = st)
    (h0 : st ≠ 0) : Completes (.evbindOff d a) s (s.writeG d (w64 st)) := by
  subst hs hst
  exact completes_of_next ((State.gate_ready h _).trans (if_pos h0))
theorem evbindOff_unbinds (h : Ready s [a] [d, a]) (hs : sel = fieldOf (s.readG a) 31 0) (hst : s.me.evbindOffStatus sel = 0) :
    Completes (.evbindOff d a) s
      (((s.queueCrossing s.cur sel).modMe fun k => { k with bindings := k.bindings.filter (·.sel ≠ sel) }).writeG d 0) := by
  subst hs
  exact completes_of_next ((State.gate_ready h _).trans (if_neg (not_not.2 hst)))

end

/-- Settles O17: each form by its status; a valid entry and a new binding are written where the status is 0. -/
theorem bindingsAndClaimsComplete : Obligations.BindingsAndClaimsComplete := by
  refine ⟨?chbind, ?evbind, ?claims⟩
  case chbind =>
    rintro s d a b t ch st _ h hch h16 hend ha ht hp hc rfl rfl
    have hexec := exec_chbind_checked h hch h16 hend ha ht hp hc rfl
    exact ⟨fun hst => completes_of_next (if_pos hst) hexec, fun hst => completes_of_next (if_neg (not_not.2 hst)) hexec⟩
  case evbind =>
    intro s d a b sel ch hs hc
    refine ⟨fun h => ⟨fun hk => ?_, fun hk hm => ?_, fun hk hm hl ho => ?_⟩, fun h => ⟨fun hk => ?_, fun hk ho => ?_⟩,
      fun hk => ⟨fun h hm hroom => ?_, fun h ho => ?_⟩⟩
    · exact evbind_reports h hs hc (Core.evbindStatus_unknown hk) (by decide)
    · exact evbind_reports h hs hc (Core.evbindStatus_noChannel hk hm) (by decide)
    · exact evbind_reports h hs hc (Core.evbindStatus_full hk hm hl ho) (by decide)
    · exact evbindOff_reports h hs (Core.evbindOffStatus_unknown hk) (by decide)
    · exact evbindOff_reports h hs (Core.evbindOffStatus_unbound hk ho) (by decide)
    · exact evbind_binds h hs hc (Core.evbindStatus_ok hk hm hroom)
    · exact evbindOff_unbinds h hs (Core.evbindOffStatus_ok hk ho)
  case claims =>
    refine fun s d a => ⟨fun h h1 h32 => completes_of_next ((State.gate_ready h _).trans ?_), fun h => ?_⟩
    · exact if_neg (by omega)
    · exact completes_of_next (State.gate_ready h _)

/-! ### `launch` (R168, spec/16 R367, R368) -/

/-- What `launch` does with the record at `va` and the entry `e` of its routine, read on the way from `u` to `t`. -/
def State.launchEntry (u t : State) (d : BitVec 4) (va n : Nat) (img : List Byte) (e : DirEntry) : Out :=
  if launchValid img e then
    if t.gang.arrivedPending t.gang.indices || t.me.fenced || !t.me.loadRoom 1 || !t.me.storeRoom 1 then .wait u
    else .next ((t.pendG d).sendLoad (.gang t.me.slot d.toNat 8 false (t.me.priv = 1)) t.gang.uids true none
      (.append (imageAt img 2 1) (t.me.mem.image va n)))
  else .next (t.writeG d 2)

section
variable {s u t : State} {d a : BitVec 4} {img : List Byte} {n va : Nat} {e : DirEntry}

theorem State.launchEntry_sends (hv : launchValid img e = true) (ho : Open t) : u.launchEntry t d va n img e =
    .next ((t.pendG d).sendLoad (.gang t.me.slot d.toNat 8 false (t.me.priv = 1)) t.gang.uids true none
      (.append (imageAt img 2 1) (t.me.mem.image va n))) := by
  obtain ⟨-, hfen, harr, hload, hstore⟩ := ho
  rw [State.launchEntry, hv, hfen, harr, hload, hstore]; rfl
theorem State.launchEntry_invalid (hv : launchValid img e = false) : u.launchEntry t d va n img e = .next (t.writeG d 2) := by
  rw [State.launchEntry, hv]; rfl
/-- `launch` with a sound record in local memory looks for the entry of its routine. -/
theorem exec_launch_checked (h : Ready s [a] [d, a]) (himg : img = s.me.mem.image (s.readG a).toNat 64) (hn : n = recordLength img)
    (h64 : (s.readG a).toNat % 64 = 0) (hend : (s.readG a).toNat + n ≤ 0x18000) (ha : s.me.acquiring = false)
    (hu : u = s.scanLocal s.cur (s.readG a).toNat n) (hp : u.me.mem.poisoned (s.readG a).toNat n = false) :
    exec (.launch d a) s = s.finish (
      if imageAt img 0 2 = 0 ∨ imageAt img 0 2 = trapRoutine ∨ !u.reachesCtx then .next (u.writeG d 2)
      else match u.entry u.cur (imageAt img 0 2) with
        | none => .trap (u.dirTrap (imageAt img 0 2) u.allLanes)
        | some (e, t) => u.launchEntry t d (s.readG a).toNat n img e) := by
  subst hu hn himg
  have hin : ¬((s.readG a).toNat % 64 ≠ 0 ∨ localEnd < (s.readG a).toNat + recordLength (s.me.mem.image (s.readG a).toNat 64)) :=
    not_or.2 ⟨not_not.2 h64, Nat.not_lt.2 hend⟩
  refine congrArg s.finish ((State.gateAddr_ready' h _).trans ?_)
  rw [if_neg hin, ha]
  exact State.onImage_sound hp _

end

/-! ### `spawn` (R169) -/

/-- An Operation that waits in `t` waits so. -/
theorem waits_of_wait_in {i : Instr} {s t : State} {o : Out} (ho : o = .wait t) (hi : exec i s = s.finish o := by rfl) : Waits i s t := by
  rw [Waits, hi, ho, State.finish_wait]

section
variable {s t : State} {d a : BitVec 4} {h : BitVec 1} {q : BitVec 3}

/-- `spawn` whose messages have left reports how many strands it made. -/
theorem spawn_reports {n : Nat} (hp : s.gang.phase = .spawned n) (ho : s.me.outbox.any (·.slot = s.me.slot) = false) :
    Completes (.spawn d a h q) s (s.writeG d (w64 n)) := by
  show execSpawn d a h q s = _
  simp only [execSpawn, hp, ho]
  rfl
/-- `spawn` of no lane makes none. -/
theorem spawn_none (hf : Fresh s) (hr : Ready s [a] [d, a]) (hq : s.gang.guardPoison q = false) (hg : s.gang.guard q = []) :
    Completes (.spawn d a h q) s (s.writeG d 0) := by
  have hf' : s.gang.phase = .none := hf
  show execSpawn d a h q s = _
  simp only [execSpawn, hf', State.gateAddr_ready' hr, hq, hg]
  rfl
/-- `spawn` of a routine whose entry passes makes its messages and waits for them to leave. -/
theorem spawn_makes {e : DirEntry} {va : Word} (hf : Fresh s) (hr : Ready s [a] [d, a]) (hq : s.gang.guardPoison q = false)
    (hg : s.gang.guard q ≠ []) (hva : va = w64 (fieldOf (s.readG a) 31 0)) (ht : s.readEntries (routinesOf [va]) = (t, none))
    (hc : t.checkSource va = none) (he : e = t.cached (fieldOf va 31 16))
    (hp : ∀ i ∈ s.gang.guard q, ∀ j ∈ (List.range 32).filter (fun j => e.carry.getLsbD j) ++ (wholeQuads e.carry).map (40 + ·),
      (s.gang.lane i).pending j = false) :
    let made := t.spawnLanes (va.setWidth 32) e (h = 1) (s.gang.guard q) 0
    Waits (.spawn d a h q) s (made.1.modGang fun g => { g with phase := .spawned made.2 }) := by
  subst hva he
  have hf' : s.gang.phase = .none := hf
  have hg' : (s.gang.guard q).isEmpty = false := List.isEmpty_eq_false_iff.2 hg
  simp only [← Bool.not_eq_true, ← List.any_eq_false] at hp
  show execSpawn d a h q s = _
  simp only [execSpawn, hf', State.gateAddr_ready' hr, hq, hg', ht, hc, hp]
  rfl

end

/-! ### `rrepl` and `rrepl.ret` (R170, R171) -/

section
variable {s : State} {r : BitVec 16} {g : BitVec 4} {status : DirEntry → Nat → Nat} {change : State → DirEntry → Nat → State}

/-- Once every core has dropped its copy of the entry, the status is 0. -/
theorem State.replForm_acked {t x : Nat} (hp : s.gang.phase = .acks t 0 x) : s.replForm r g status change = .next (s.writeG g 0) := by
  simp only [State.replForm, hp]
theorem State.replForm_refused (hf : Fresh s) (h : Ready s [g] [g]) (hn : s.ctx.rrepling = none)
    (hr : r = 0 ∨ r = 0xFFFF ∨ s.reachesCtx = false) : s.replForm r g status change = .next (s.writeG g 1) := by
  have hf' : s.gang.phase = .none := hf
  have hr' : r.toNat = 0 ∨ r.toNat = trapRoutine ∨ (!s.reachesCtx) = true :=
    hr.imp (congrArg BitVec.toNat) (Or.imp (congrArg BitVec.toNat) (by simp))
  simp only [State.replForm, hf', State.gate_ready h, hn, if_pos hr']
  rfl
/-- The change of an entry that is read: its status at once, or the change and the invalidations. -/
theorem State.replForm_entry {e : DirEntry} {dst : Nat} (hf : Fresh s) (h : Ready s [g] [g]) (hn : s.ctx.rrepling = none)
    (h0 : r ≠ 0) (hF : r ≠ 0xFFFF) (hc : s.reachesCtx = true) (he : s.readDir r.toNat = some e) (hd : dst = fieldOf (s.readG g) 19 0) :
    s.replForm r g status change = if status e dst ≠ 0 then .next (s.writeG g (w64 (status e dst)))
      else .wait ((change s e dst).invalidateDir r.toNat dst) := by
  subst hd
  have hf' : s.gang.phase = .none := hf
  have hr : ¬(r.toNat = 0 ∨ r.toNat = trapRoutine ∨ (!s.reachesCtx) = true) := by
    rintro (h | h | h)
    · exact h0 (BitVec.eq_of_toNat_eq h)
    · exact hF (BitVec.eq_of_toNat_eq h)
    · simp [hc] at h
  simp only [State.replForm, hf', State.gate_ready h, hn, if_neg hr, he]
  rfl

end

/-- Settles O18: `launch` by its record and entry, `spawn` by its phase and guard, the two changes of a replica by their shared form. -/
theorem launchSpawnReplicasComplete : Obligations.LaunchSpawnReplicasComplete := by
  refine ⟨?launch, ?spawn, ?replicas⟩
  case launch =>
    intro s d a img n u t e h himg hn h64 hend ha hu hp
    have hexec := exec_launch_checked h himg hn h64 hend ha hu hp
    refine ⟨fun hr => completes_of_next (if_pos ?_) hexec, fun h0 hF hc he => ?_⟩
    · exact hr.imp_right (Or.imp_right (by simp))
    · have hr : ¬(imageAt img 0 2 = 0 ∨ imageAt img 0 2 = trapRoutine ∨ (!u.reachesCtx) = true) := by
        rintro (h | h | h)
        exacts [h0 h, hF h, by simp [hc] at h]
      rw [if_neg hr, he] at hexec
      exact ⟨fun hv ho => completes_of_next (State.launchEntry_sends hv ho) hexec,
        fun hv => completes_of_next (State.launchEntry_invalid hv) hexec⟩
  case spawn =>
    intro s d a h q
    exact ⟨fun n hp ho => spawn_reports hp ho, fun hf hr hq => ⟨spawn_none hf hr hq, fun t e va => spawn_makes hf hr hq⟩⟩
  case replicas =>
    intro s r g
    refine ⟨fun t x hp => ⟨completes_of_next (State.replForm_acked hp), completes_of_next (State.replForm_acked hp)⟩,
      fun hf h hn hr => ⟨completes_of_next (State.replForm_refused hf h hn hr), completes_of_next (State.replForm_refused hf h hn hr)⟩,
      fun e dst hf h hn h0 hF hc he hd => ⟨fun hst => waits_of_wait_in ?_, fun hst => waits_of_wait_in ?_,
        fun hst => completes_of_next ?_, fun hst => completes_of_next ?_⟩⟩
    · exact (State.replForm_entry hf h hn h0 hF hc he hd).trans (if_neg (not_not.2 hst))
    · exact (State.replForm_entry hf h hn h0 hF hc he hd).trans (if_neg (not_not.2 hst))
    · exact (State.replForm_entry hf h hn h0 hF hc he hd).trans (if_pos hst)
    · exact (State.replForm_entry hf h hn h0 hF hc he hd).trans (if_pos hst)

end Sys2Proof.Machine

/-! SUPPORT. Messages on their way (spec/06 R136-R172): what each event does, by what it finds at its source or at its channel. -/
namespace Sys2Proof.Machine

open Sys2Proof.Spec
set_option Elab.async false

/-! ### Messages at their sources (R143-R147) -/

section
variable {s : State} {core : Nat} {q : GrantAsk} {o : Outbound}

theorem readyQueueSend_does (ho : (s.core core).requestReady.find? (fun o => (s.core core).ready.any (·.msg.id = o.msg.id)) = some o) :
    Does (.readyQueueSend core) s (s.leave (.core core) o.msg.id) := by
  show execReadyQueueSend core s = _
  simp only [execReadyQueueSend, ho]
theorem changeSliceQueueSend_does {r : List Outbound} (he : sliceReady core (mget [] s.changes core) = o :: r) :
    Does (.changeSliceQueueSend core) s (s.leave (.slice core) o.msg.id) := by
  show execChangeSliceQueueSend core s = _
  simp only [execChangeSliceQueueSend, he]
theorem grantRequest_does (hf : s.fenced q.dst = false) : Does (.grantRequest q) s
    ((s.modCore q.dst fun k => { k with asks := k.asks ++ [q] }).regrant q.dst q.ch) := by
  show execGrantRequest q s = _
  simp only [execGrantRequest, hf]
  rfl
theorem grant_does (ho : (s.outsOf q.src).find? (fun o => o.msg.id = q.id && !o.sent && !o.granted) = some o) :
    Does (.grant q) s (s.mapOut q.src q.id fun o => { o with granted := true }) := by
  show execGrant q s = _
  simp only [execGrant, ho]
theorem revocation_does (ho : (s.outsOf q.src).find? (fun o => o.msg.id = q.id && o.granted && !o.sent) = some o) :
    Does (.revocation q) s (s.mapOut q.src q.id fun o => { o with granted := false, asked := false }) := by
  show execRevocation q s = _
  simp only [execRevocation, ho]
/-- A refused carry message waits for its spill (R145). -/
theorem refusal_carry {c : CarryMsg} (ho : (s.outsOf q.src).find? (fun o => o.msg.id = q.id && !o.sent) = some o)
    (hb : o.msg.body = .carry c) : let t := s.mapOut q.src q.id fun o => { o with refused := true }
    Does (.refusal q) s ((t.recordCore q.dst 0x08 [w64 (kindCode q.kind), channelWord q.dst q.ch, sourceWord q.src]).push
      (.noticePost ⟨.core q.dst, t.noticeOf 0x4B 0 (channelWord q.dst q.ch) (sourceWord q.src) 0, false⟩)) := by
  show execRefusal q s = _
  simp only [execRefusal, ho, hb]
/-- A message of a core enters the ring of its routine, which is mapped, may be written and has room (R147). -/
theorem spill_does {id n : Nat} {c : CarryMsg} {e : TlbEntry}
    (ho : (s.outsOf (.core core)).find? (fun o => o.msg.id = id && !o.granted && !o.sent) = some o) (hb : o.msg.body = .carry c)
    (he : s.walk s.ctx.part.toNat (s.ringAt (routineOf c.code) / 65536) = some e) (hw : e.wr = true)
    (hn : s.ringHeld (routineOf c.code) = some n) (hl : n < 255) :
    let r := routineOf c.code
    let j := ((s.readV s.ctx.part.toNat (s.ringAt r)).getD 0).toNat
    let paid : State := { s with
      quotas := s.afterCharge (.core core) (s.sourcePart (.core core) (arrivalEvent o.msg)) spillCost }
    let t := (paid.writeRing r j c).modCore o.msg.dst fun k => k.setChannel o.msg.ch { k.channel o.msg.ch with ovf := true }
    let u := (((t.dropOut (.core core) id).withdraw o.ask).modCore core (·.bump 0x0104))
    Does (.spill (.core core) id) s (u.recordSource (.core core) 0x04 [w64 r, w64 j, w64 (s.rankOf o.msg.dst)]).wake := by
  have hl' : ¬255 ≤ n := Nat.not_le.2 hl
  show execSpill (.core core) id s = _
  simp only [execSpill, ho, hb, he, hn, hw, if_neg hl']
  rfl

end

/-! ### Arrivals (R152, R160; spec/20 R446) -/

section
variable {s : State} {m : Msg}

theorem carryArrival_does (hf : s.fenced m.dst = false) : Does (.carryArrival m) s (s.arrive m) := by
  show execCarryArrival m s = _
  simp only [execCarryArrival, hf]
  rfl
theorem dataMessageArrival_does (hf : s.fenced m.dst = false)
    (ho : ((s.arrive m).outsOf m.src).find? (fun o => o.msg.id = m.id && o.sent) = none) :
    Does (.dataMessageArrival m) s (s.arrive m) := by
  show execDataMessageArrival m s = _
  simp only [execDataMessageArrival, hf, ho]
  rfl
/-- A change record at a channel without CONS is not merged. -/
theorem changeMessageArrival_plain {d : Nat} {r : ChangeRec} (hf : s.fenced m.dst = false) (hb : m.body = .change d r)
    (hc : ((s.core m.dst).channel m.ch).cons = false) : Does (.changeMessageArrival m) s (s.arrive m) := by
  show execChangeMessageArrival m s = _
  simp only [execChangeMessageArrival, hf, hb, hc]
  rfl

end

/-! ### Rings, rebindings, crossings (R150, R159, R171, R172) -/

section
variable {s : State} {core ch : Nat}

theorem ringDrain_empty (hd : ((s.core core).channel ch).drains = true)
    (h0 : s.ringHeld ((s.core core).channel ch).routine = some 0) : Does (.ringDrain core ch) s
      ((s.setCore core ((s.core core).setChannel ch { (s.core core).channel ch with ovf := false })).regrant core ch) := by
  show execRingDrain core ch s = _
  simp only [execRingDrain, hd, h0]
  rfl
/-- The oldest entry of the ring, present, arrives at the channel, which has room for it. -/
theorem ringDrain_entry {j pa n : Nat} {e : DirEntry} (hd : ((s.core core).channel ch).drains = true)
    (hn : s.ringHeld ((s.core core).channel ch).routine = some (n + 1))
    (hj : j = ((s.readV s.ctx.part.toNat (s.ringAt ((s.core core).channel ch).routine + 8)).getD 0).toNat)
    (he : s.readDir ((s.core core).channel ch).routine = some e)
    (hp : s.resolve s.ctx.part.toNat (s.ringSlot ((s.core core).channel ch).routine j) false = some pa)
    (hseq : s.mem.load (pa + 0xF8) 8 = j + 1) (hroom : carrySlots e.count ≤ (s.core core).slotsFree ch) :
    let m := parseCarry (s.mem.image pa 0xE0) e.carry s.nextTag fun i => s.mem.poisoned (pa + i) 8
    Does (.ringDrain core ch) s (((s.writeSeen s.ctx.part.toNat (s.ringAt ((s.core core).channel ch).routine + 8)
      (bytesOf (j + 1) 8)).fresh).arrive
        { src := .core core, id := s.nextTag, dst := core, ch, slots := carrySlots e.count, body := .carry m }) := by
  subst hj
  have hgo := not_or.2 ⟨not_not.2 hseq, Nat.not_lt.2 hroom⟩
  show execRingDrain core ch s = _
  simp only [execRingDrain, hd, hn, he, hp, if_neg hgo]
  rfl
theorem rebindingTakesEffect_next {w : Word} {en ho : Bool} {c : Channel} (hn : ((s.core core).channel ch).next = some (w, en, ho))
    (hc : c = ({ word0 := w, enable := en, hold := ho, ovf := ((s.core core).channel ch).ovf } : Channel)) :
    Does (.rebindingTakesEffect core ch) s
      ((((s.setCore core ((s.core core).setChannel ch { c with state := if c.routine = 0 then 0 else 1 })).bindRing core
        ch).regrant core ch).wake) := by
  subst hc
  show execRebindingTakesEffect core ch s = _
  simp only [execRebindingTakesEffect, hn]
/-- A retiring replica ends: its code and channel are gone, and its place leaves the entry of its routine. -/
theorem rebindingTakesEffect_retires {e : DirEntry} {r : Nat} {t : State} (hn : ((s.core core).channel ch).next = none)
    (hret : ((s.core core).channel ch).retire = true) (hr : r = ((s.core core).channel ch).routine)
    (ht : t = s.setCore core ({ s.core core with placed := (s.core core).placed.filter (·.id ≠ r) }.setChannel ch {}))
    (he : t.readDir r = some e) :
    Does (.rebindingTakesEffect core ch) s (t.writeDir (e.without (e.places.findIdx (· = core)))) := by
  subst ht hr
  show execRebindingTakesEffect core ch s = _
  simp only [execRebindingTakesEffect, hn, hret, if_true, he]
theorem counterEvent_queues {id : Nat} {b : Binding}
    (hb : (s.core core).bindings.find? (fun b => b.sel = id && b.remembered.isSome) = some b) (hl : (s.core core).ready.length < 16) :
    Does (.counterEvent core id) s ((s.setCore core { s.core core with
      ready := (s.core core).ready ++ [readyMessage core s.nextTag b.ch 2 s.clock (w64 id) (b.remembered.getD 0)],
      bindings := (s.core core).bindings.map fun x => if x.sel = id then { x with remembered := none } else x }).fresh) := by
  have hl' : ¬16 ≤ (s.core core).ready.length := Nat.not_le.2 hl
  show execCounterEvent core id s = _
  simp only [execCounterEvent, State.queueCrossing, hb, if_neg hl']

end

/-! ### The boundary of a transfer elsewhere (R136) -/

section
variable {s : State} {x : Xfer}

theorem transferPacking_packs (hx : s.me.xfer = some x) (hp : x.packed = false) : Does .transferPacking s (s.pack x) := by
  show execTransferPacking s = _
  simp only [execTransferPacking, hx, hp]
  rfl
theorem transferPacking_ends (hx : s.me.xfer = some x) (hp : x.packed = true) (ho : s.me.outbox.any (·.slot = s.me.slot) = false) :
    Does .transferPacking s (s.endXfer x ((List.range s.gang.lanes.length).filter fun i => (s.gang.lane i).packed)) := by
  show execTransferPacking s = _
  simp only [execTransferPacking, hx, hp, ho]
  rfl

end

/-- Settles O32, event by event. -/
theorem messageEventsComplete : Obligations.MessageEventsComplete := by
  intro s src id core ch q m o
  exact ⟨rfl, rfl, readyQueueSend_does, fun e r => changeSliceQueueSend_does, grantRequest_does, grant_does, revocation_does,
    fun c _ => refusal_carry, fun hf => ⟨carryArrival_does hf, dataMessageArrival_does hf, fun d r => changeMessageArrival_plain hf⟩,
    fun c e n ho hb he hw hn => spill_does ho hb he hw hn,
    fun hd => ⟨ringDrain_empty hd, fun j pa e n => ringDrain_entry hd⟩, fun w en ho c => rebindingTakesEffect_next,
    fun e hn hret => rebindingTakesEffect_retires hn hret rfl rfl, rfl, fun b => counterEvent_queues,
    fun x hx => ⟨transferPacking_packs hx, transferPacking_ends hx⟩⟩

end Sys2Proof.Machine

/-! SUPPORT. Firings, traps at a boundary, the derrick and the start of a context (spec/06 R152-R154, spec/12 R295-R298, spec/16
R366-R371, spec/02 R77): what each event does. -/
namespace Sys2Proof.Machine

open Sys2Proof.Spec
set_option Elab.async false

/-! ### Firings (R152, R154) -/

/-- The carry messages that wait at a channel, the oldest first. -/
def Core.carriesAt (k : Core) (ch : Nat) : List (Msg × CarryMsg) :=
  (k.arrivalsAt ch).filterMap fun a => match a.msg.body with
    | .carry m => some (a.msg, m)
    | _ => none
/-- The firing of a carry channel, by the messages that wait there: the first is a strand, or names a frame. -/
def State.fireCarry (s : State) (c ch : Nat) : List (Msg × CarryMsg) → State
  | [] => s
  | (msg, m) :: _ => match m.frame with
    | some f => if s.frameFits c ch then s.formFrame c ch f msg else s
    | none => s.formCarry c ch m.code

section
variable {s : State} {core ch : Nat}

theorem State.fireCarry_strand {m : CarryMsg} {x : Msg} {r : List (Msg × CarryMsg)} (hm : m.frame = none) :
    s.fireCarry core ch ((x, m) :: r) = s.formCarry core ch m.code := by
  simp only [State.fireCarry, hm]
theorem firing_carry (he : (s.core core).eligible ch = true) (hk : ((s.core core).channel ch).kind = 0) :
    Does (.firing core ch) s (s.fireCarry core ch ((s.core core).carriesAt ch)) := by
  show execFiring core ch s = _
  simp only [execFiring, he, hk]
  rfl
theorem firing_message (he : (s.core core).eligible ch = true) (hk : ((s.core core).channel ch).kind = 1) :
    Does (.firing core ch) s (s.formMessage core ch) := by
  show execFiring core ch s = _
  simp only [execFiring, he, hk]
  rfl
theorem firing_change (he : (s.core core).eligible ch = true) (hk : ((s.core core).channel ch).kind = 2) :
    Does (.firing core ch) s (s.formChange core ch) := by
  show execFiring core ch s = _
  simp only [execFiring, he, hk]
  rfl

end

/-! ### The timer's trap (spec/12 R295, R298) -/

section
variable {s : State} {core : Nat} {c : Cause}

theorem trapEntry_timer_system (hp : s.pendingTrap core = some (none, c)) (hc : c.code = 0x12) : Does (.trapEntry core) s
    ((({ s with cur := core } : State).modMe fun k => { k with timerPending := false }).enterTrap none c) := by
  show execTrapEntry core s = _
  simp only [execTrapEntry, hp, hc]
  rfl
theorem trapEntry_timer_gang {slot : Nat} (hp : s.pendingTrap core = some (some slot, c)) (hc : c.code = 0x12) : Does (.trapEntry core) s
    ((((({ s with cur := core } : State).abandon core slot).modMe fun k => { k with slot := slot }).modMe fun k =>
      { k with timerPending := false }).takeTrap c) := by
  show execTrapEntry core s = _
  simp only [execTrapEntry, hp, hc]
  rfl

end

/-! ### The derrick (spec/16 R366-R371) -/

section
variable {s s' : State} {q : Nat} {b : List Byte}

/-- A head whose record is invalid is passed over, and told: the notice is posted last (R369). -/
theorem derrickSelection_invalid (hq : s.derrickQueue = some q) (hs : s' = ({ s with ctx := { s.ctx with queueLast := q } } : State))
    (hb : s'.headRecord q = some b) (hi : s'.headInvalid b = true) :
    ∃ t, Does .derrickSelection s t ∧ t.events = (s'.raiseHead q).events ++
      [.noticePost ⟨.derrick, ⟨w64 (0x44 + s'.ctx.id.toNat * 65536), w64 q, w64 (s'.queueWord q 8), 0⟩, false⟩] := by
  subst hs
  refine ⟨_, rfl, ?_⟩
  simp only [hq, hb, hi, if_true, State.events_push]
  rfl
/-- A head whose distribution has begun goes on from where it stands (R370). -/
theorem derrickSelection_goesOn {e : DirEntry} {i l j : Nat} {t : State} (hq : s.derrickQueue = some q)
    (hs : s' = ({ s with ctx := { s.ctx with queueLast := q } } : State)) (hb : s'.headRecord q = some b)
    (hi : s'.headInvalid b = false) (he : s'.readDir (imageAt b 0 2) = some e)
    (hl : s'.ctx.headLeft.find? (·.1 = q) = some (q, i, l)) (ht : s'.distribute b e l (imageAt b 4 4) 32 i = (t, j)) :
    Does .derrickSelection s { t with ctx := { t.ctx with headLeft := t.ctx.headLeft.filter (·.1 ≠ q) ++ [(q, j, l)] } } := by
  subst hs
  show execDerrickSelection s = _
  simp only [execDerrickSelection, hq, hb, hi, he, hl, ht]
  rfl
theorem launchDone_untimed {idx : Nat} {l : OpenLaunch} (hl : s.ctx.launches.find? (·.id = idx) = some l) (hd : l.done = none) :
    Does (.launchDone q idx) s { s with ctx := { s.ctx with launches := s.ctx.launches.filter (·.id ≠ idx) } } := by
  show execLaunchDone q idx s = _
  simp only [execLaunchDone, hl, hd]
  rfl
theorem launchQueueControl_plain {v : Word} (h0 : fieldOf v 63 6 = 0) (h4 : v.getLsbD 4 = false) : Does (.launchQueueControl q v) s
    { s with ctx := { s.ctx with controls := mput s.ctx.controls q (BitVec.ofNat 8 (v.toNat % 64)) } } := by
  show execLaunchQueueControl q v s = _
  simp only [execLaunchQueueControl, h0, h4]
  rfl

end

/-! ### The start of a context (spec/02 R77) -/

/-- A start for which the request and its control block are good goes by its image, and by the memory of the partition. -/
theorem contextStart_does {s : State} {r : StartReq} {ns : List Nat}
    (hn : ns = (s.numbered (imageAt r.image 6 2 % 2 = 1) r.rects).map (·.1)) (hs : s.ctx.started = true → s.ctx.ended = true)
    (ha : s.areaFree r = true) (hz : sizeOk r.image r.rects = true) (hb : blockOk r ns = true) (h0 : ns ≠ []) :
    (imageOk r.image ns = none → Does (.contextStart r) s (s.refuseStart r)) ∧
      ∀ rs, imageOk r.image ns = some rs →
        Does (.contextStart r) s (if s.startFits r rs ns.length (areaClusters r.rects).length then s.start r rs else s.refuseStart r) := by
  subst hn
  have hgo : ¬((s.ctx.started = true ∧ (!s.ctx.ended) = true) ∨ (!s.areaFree r) = true ∨ (!sizeOk r.image r.rects) = true ∨
      (!blockOk r ((s.numbered (imageAt r.image 6 2 % 2 = 1) r.rects).map (·.1))) = true ∨
      ((s.numbered (imageAt r.image 6 2 % 2 = 1) r.rects).map (·.1)).isEmpty = true) := by
    rintro (⟨h, he⟩ | h | h | h | h)
    · simp [hs h] at he
    · simp [ha] at h
    · simp [hz] at h
    · simp [hb] at h
    · exact h0 (List.isEmpty_iff.1 h)
  refine ⟨fun hi => ?_, fun rs hi => ?_⟩
  all_goals
    show execContextStart r s = _
    simp only [execContextStart, if_neg hgo, hi]

/-- Settles O33, event by event. -/
theorem coreAndDerrickEventsComplete : Obligations.CoreAndDerrickEventsComplete := by
  intro s core ch slot c v
  refine ⟨fun he => ⟨fun m r x hk hm hx => ?firing, firing_message he, firing_change he⟩, trapEntry_timer_system,
    trapEntry_timer_gang, rfl, rfl, rfl, rfl, fun q b s' hq hs hb => ⟨derrickSelection_invalid hq hs hb, fun e i l hi he hl t j =>
      derrickSelection_goesOn hq hs hb hi he hl⟩, fun l => launchDone_untimed, launchQueueControl_plain,
    fun r ns hn hs ha hz hb h0 => ?start⟩
  case firing =>
    have hcarries : (s.core core).carriesAt ch = (x, m) :: r := hx
    have hfires := firing_carry he hk
    rwa [hcarries, State.fireCarry_strand hm] at hfires
  case start =>
    obtain ⟨hbad, hgood⟩ := contextStart_does hn hs ha hz hb h0
    refine ⟨hbad, fun rs hi => ⟨fun hfits => ?_, fun hfits => ?_⟩⟩
    · simpa only [hfits, if_true] using hgood rs hi
    · simpa only [hfits, Bool.false_eq_true, if_false] using hgood rs hi

end Sys2Proof.Machine

/-! SUPPORT. Lane integer, bitwise and movement instructions (spec/09 R208-R212): the forms of the model on ready operands, the
element functions in the words of Table 9-3, and the moves, which copy poison. -/
namespace Sys2Proof.Machine

open Sys2Proof.Spec

/-! ### The element functions of Table 9-3 -/

theorem minS_eq_ite {n : Nat} (x y : BitVec n) : minS x y = if y.toInt < x.toInt then y else x := by simp [minS, lessS]
theorem minN_eq_ite {n : Nat} (x y : BitVec n) : minN x y = if y.toNat < x.toNat then y else x := by simp [minN, lessN]
theorem maxS_eq_ite {n : Nat} (x y : BitVec n) : maxS x y = if x.toInt < y.toInt then y else x := by simp [maxS, lessS]
theorem maxN_eq_ite {n : Nat} (x y : BitVec n) : maxN x y = if x.toNat < y.toNat then y else x := by simp [maxN, lessN]

/-! ### The forms that compute -/

/-- A form that computes one value per lane from operands it consumes completes with it in D and `lt`. -/
theorem completes_laneOp {i : Instr} {s : State} {p : BitVec 3} {d : BitVec 6} (srcs : List (BitVec 6)) {f : Nat → Lane → Word}
    (h : LanesReady s p (s.gang.guard p) (srcs.map (·.toNat)) (ltNum :: d.toNat :: srcs.map (·.toNat)))
    (hi : exec i s = s.finish (s.laneOp p d srcs f) := by rfl) : Completes i s (perLane s p d f) :=
  completes_of_next (State.laneOp_ready f h) hi
/-- A compare completes with its truth value in the predicate of D. -/
theorem completes_lanePred {i : Instr} {s : State} {p : BitVec 3} {d : BitVec 6} (srcs : List (BitVec 6)) {f : Lane → Bool}
    (h : LanesReady s p (s.gang.guard p) (srcs.map (·.toNat)) (srcs.map (·.toNat)))
    (hi : exec i s = s.finish (s.lanePred p d srcs f) := by rfl) :
    Completes i s (inLanes s (s.gang.guard p) fun _ l => l.setPred d.toNat (f l)) :=
  completes_of_next (State.lanePred_ready d f h) hi
/-- A form that changes its lanes as it likes, once its gate is passed. -/
theorem completes_laneGate {i : Instr} {s t : State} {p : BitVec 3} {is uses all : List Nat} (h : LanesReady s p is uses all)
    (hi : exec i s = s.finish (s.laneGate p is uses all (.next t)) := by rfl) : Completes i s t :=
  completes_of_next (State.laneGate_ready h _) hi

/-- Settles O8: each is a `packedOp` of its element function. -/
theorem lanePackedFormsComplete : Obligations.LanePackedFormsComplete := by
  intro s g m d a b h
  simp only [← minS_eq_ite, ← minN_eq_ite, ← maxS_eq_ite, ← maxN_eq_ite]
  and_intros
  all_goals exact completes_laneOp [a, b] h

/-- Settles O9: `laneOp` and `lanePred` of two operands, and the counts, `laneOp` of one. -/
theorem laneBitwiseCompareCountComplete : Obligations.LaneBitwiseCompareCountComplete := by
  intro s g m d a b
  refine ⟨fun h => ?bitwise, fun h => ?compare, fun h => ?count⟩
  case bitwise =>
    and_intros
    all_goals exact completes_laneOp [a, b] h
  case compare =>
    and_intros
    all_goals exact completes_lanePred [a, b] h
  case count => exact ⟨completes_laneOp [a] h, completes_laneOp [a] h⟩

/-! ### The moves -/

/-- Picking between two copies of an operand is a copy of the operand picked (R210). -/
theorem Lane.write_pick (l : Lane) (c : Prop) [Decidable c] (d a b : Nat) :
    (if c then l.write d (l.read a) (l.bad a) else l.write d (l.read b) (l.bad b)) =
      l.write d (l.read (if c then a else b)) (l.bad (if c then a else b)) :=
  (apply_ite (fun n => l.write d (l.read n) (l.bad n)) c a b).symm

section
variable {s : State} {g : BitVec 3} {d a b : BitVec 6} {x : BitVec 4}

theorem completes_vsel (h : LanesReady s g s.gang.active [] [ltNum, d.toNat, a.toNat, b.toNat]) :
    Completes (.vsel g d a b) s (inLanes s s.gang.active fun i l =>
      if s.gang.guards g.toNat i then l.write d.toNat (l.read a.toNat) (l.bad a.toNat)
      else l.write d.toNat (l.read b.toNat) (l.bad b.toNat)) := by
  simp only [Lane.write_pick]
  exact completes_laneGate h
theorem completes_vbcast {k : Nat} (hk : (List.range s.gang.lanes.length).find? (s.gang.guards g.toNat) = some k)
    (hp : (s.gang.lane k).pending a.toNat = false) (h : LanesReady s g s.gang.active [] [ltNum, d.toNat]) :
    Completes (.vbcast g d a) s (inLanes s s.gang.active fun _ l =>
      l.write d.toNat ((s.gang.lane k).read a.toNat) ((s.gang.lane k).bad a.toNat)) := by
  have hi : exec (.vbcast g d a) s = execVbcast g d a s := rfl
  refine completes_laneGate h ?_
  simp only [hi, execVbcast, hk, hp]
  rfl
/-- No lane supplies a value: nothing is written. -/
theorem completes_vbcast_none (hk : (List.range s.gang.lanes.length).find? (s.gang.guards g.toNat) = none)
    (hp : s.gang.guardPoison g = false) : Completes (.vbcast g d a) s s := by
  have hi : exec (.vbcast g d a) s = execVbcast g d a s := rfl
  have h : LanesReady s g [] [] [] := ⟨by simp, hp, by simp⟩
  refine completes_laneGate h ?_
  simp only [hi, execVbcast, hk]
/-- Every lane that supplies a value has it: the shuffle goes on (R211). -/
theorem completes_vshuf {t : State} (h : LanesReady s g (s.gang.guard g) [b.toNat] [ltNum, d.toNat, b.toNat])
    (hp : ∀ i ∈ s.gang.guard g, (s.gang.lane (((s.gang.lane i).read b.toNat).toNat % 32)).pending a.toNat = false)
    (hi : exec (.vshuf g d a b) s = s.finish (s.laneGate g (s.gang.guard g) [b.toNat] [ltNum, d.toNat, b.toNat]
      (if !(s.gang.guard g).all fun i => !(s.gang.lane (((s.gang.lane i).read b.toNat).toNat % 32)).pending a.toNat
        then .wait s else .next t)) := by rfl) : Completes (.vshuf g d a b) s t := by
  have hready : ((s.gang.guard g).all fun i =>
      !(s.gang.lane (((s.gang.lane i).read b.toNat).toNat % 32)).pending a.toNat) = true := by
    simpa [List.all_eq_true] using hp
  refine completes_laneGate h ?_
  rw [hi, hready]
  rfl
/-- A form that names a gang register too goes on when that register awaits no reply. -/
theorem completes_laneGate_gang {i : Instr} {t : State} {is uses all : List Nat} (h : LanesReady s g is uses all)
    (hx : s.me.pendG x.toNat = false)
    (hi : exec i s = s.finish (if s.anyPendG [x] then .wait s else s.laneGate g is uses all (.next t)) := by rfl) :
    Completes i s t := by
  have hpend : s.anyPendG [x] = false := State.anyPendG_eq_false (by simpa using hx)
  refine completes_laneGate h ?_
  rw [hi, hpend]
  rfl

end

/-- Settles O10, move by move; `vredi` last. -/
theorem laneMovesComplete : Obligations.LaneMovesComplete := by
  intro s g d a b x
  exact ⟨completes_vsel, fun h => completes_laneGate h, fun _ hk hp h => completes_vbcast hk hp h, completes_vbcast_none,
    fun h hp => completes_vshuf h hp, fun h hx => completes_laneGate_gang h hx, fun h hx => completes_laneGate_gang h hx⟩

end Sys2Proof.Machine

/-! SUPPORT. Lane floating-point instructions (spec/09 R213-R219): the shared forms on ready operands. -/
namespace Sys2Proof.Machine

open Sys2Proof.Spec

/-- An arithmetic form completes with each exact value rounded by its MOD (R213). -/
theorem completes_floatOp {i : Instr} {s : State} {p : BitVec 3} {m : BitVec 2} {f : Fmt} {d : BitVec 6} (srcs : List (BitVec 6))
    {v : Lane → Nat → Num} (h : LanesReady s p (s.gang.guard p) (srcs.map (·.toNat)) (ltNum :: d.toNat :: srcs.map (·.toNat)))
    (hi : exec i s = s.finish (s.floatOp p m f d srcs v) := by rfl) : Completes i s (rounded s p (arithMode m) f d v) :=
  completes_of_next (State.floatOp_ready v h) hi
/-- Settles O12: two operands, and three for the fused forms, of which D is one. -/
theorem laneFloatArithmeticComplete : Obligations.LaneFloatArithmeticComplete := by
  intro s g m d a b
  refine ⟨fun h => ?two, fun h => ?fma⟩
  case two =>
    and_intros
    all_goals exact completes_floatOp [a, b] h
  case fma =>
    and_intros
    all_goals exact completes_floatOp [a, b, d] h

/-- Settles O13: maps of one and of two operands by `laneOp`, compares by `lanePred`. -/
theorem laneFloatSelectedFormsComplete : Obligations.LaneFloatSelectedFormsComplete := by
  rintro s g m d a b x y rfl rfl
  refine ⟨fun h => ?two, fun h => ?compare, fun h => ?one⟩
  case two => exact ⟨completes_laneOp [a, b] h, completes_laneOp [a, b] h, completes_laneOp [a, b] h⟩
  case compare => exact ⟨completes_lanePred [a, b] h, completes_lanePred [a, b] h, completes_lanePred [a, b] h⟩
  case one =>
    exact ⟨completes_laneOp [a] h, completes_laneOp [a] h, completes_laneOp [a] h, completes_laneOp [a] h⟩

/-- `vfred` consumes its operand in the guard and writes in every lane: it passes a gate for each (R219). -/
theorem completes_twoGates {i : Instr} {s t : State} {p : BitVec 3} {is is' uses uses' all all' : List Nat}
    (h : LanesReady s p is uses all) (h' : LanesReady s p is' uses' all')
    (hi : exec i s = s.finish (s.laneGate p is uses all <| s.laneGate p is' uses' all' <| .next t) := by rfl) :
    Completes i s t :=
  completes_of_next ((State.laneGate_ready h _).trans (State.laneGate_ready h' _)) hi

/-- Settles O14: conversions between floating-point formats and dot products of them round in their lanes, those with integers are
`laneOp`, and `vfred` passes its two gates. -/
theorem laneConversionsDotsComplete : Obligations.LaneConversionsDotsComplete := by
  intro s g m d a b t c
  refine ⟨fun h => ?convert, fun h => ?dot, fun o r h h' => ?reduce⟩
  case convert =>
    intro n conv
    have hconv {i : Instr} (mode : Mode) (hi : exec i s = s.finish (s.convert g mode d a t c)) : Completes i s (conv mode) :=
      completes_laneGate h hi
    exact ⟨hconv _ rfl, hconv _ rfl, completes_laneOp [a] h, completes_laneOp [a] h⟩
  case dot =>
    intro mode dot
    have hdot {i : Instr} (f : Fmt) (hi : exec i s = s.finish (s.dotFloat g m f d a b)) : Completes i s (dot f) :=
      completes_laneGate h hi
    exact ⟨hdot _ rfl, hdot _ rfl, completes_laneOp [a, b, d] h⟩
  case reduce => exact completes_twoGates h h'

end Sys2Proof.Machine

/-! SUPPORT. Lane block instructions (spec/09 R220-R223): the block gate, and the element-wise form, on ready operands. -/
namespace Sys2Proof.Machine

open Sys2Proof.Spec

/-- A block instruction completes with its change of each lane of the guard, on operands read (`uses`) and written (`all`). -/
theorem completes_blockGate {i : Instr} {s : State} {g : BitVec 3} {uses all : List Nat} {f : Lane → Lane}
    (h : LanesReady s g (s.gang.guard g) uses (uses ++ all))
    (hi : exec i s = s.finish (s.blockGate g uses all f) := by rfl) : Completes i s (inLanes s (s.gang.guard g) fun _ l => f l) :=
  completes_laneGate h hi
/-- An element-wise block instruction completes with its result blocks in quad D; what it reads are its source quads and `extra`. -/
theorem completes_blockOp {i : Instr} {s : State} {g : BitVec 3} {m f : BitVec 2} {d : BitVec 3} (srcs : List (BitVec 3))
    (extra : List Nat) {uses : List Nat} {v : Lane → Nat → List Num}
    (h : LanesReady s g (s.gang.guard g) uses (uses ++ ltNum :: sourceRegs (formatCode f m) d))
    (hu : srcs.flatMap (sourceRegs (formatCode f m)) ++ extra = uses)
    (hi : exec i s = s.finish (s.blockOp g m d f srcs extra v) := by rfl) :
    Completes i s (blocks s g (formatCode f m) d v) := by
  subst hu
  exact completes_blockGate h hi

/-- Settles O15: element-wise forms by `blockOp`; packing, unpacking, sidecars and `vbdot` by `blockGate`. -/
theorem laneBlockFormsComplete : Obligations.LaneBlockFormsComplete := by
  constructor
  case left =>
    rintro s g m d f a b F rfl
    refine ⟨fun h => ?two, fun h => ?fma, fun h => ⟨?norm, fun c _ => ?convert⟩, fun h => ?scale⟩
    case two =>
      and_intros
      all_goals exact completes_blockOp [a, b] [] h (by simp [formatCode])
    case fma => exact completes_blockOp [a, b, d] [] h (by simp [formatCode])
    case norm => exact completes_blockOp [a] [] h (by simp [formatCode])
    case convert => exact completes_blockOp [a] [] h (by simp [formatCode])
    case scale => exact completes_blockOp [a] [sideReg b] h (by simp [formatCode, sideReg])
  case right =>
    rintro s g m d f a b c F rfl
    refine ⟨?pack, fun h => completes_blockGate h, ?sxpack, fun h => completes_blockGate h, fun h => completes_blockGate h,
      fun h => completes_blockGate h, ?dot⟩
    case pack => rintro _ rfl h; exact completes_blockGate h
    case sxpack => rintro _ rfl h; exact completes_blockGate h
    case dot => rintro _ rfl h; exact completes_blockGate h

end Sys2Proof.Machine

/-! SUPPORT. The frame of the element-wise lane instructions (spec/09 R204, R205, R208; spec/01 R31): what a write of a lane
register leaves of its lane, a change of lanes of its gang, and the two with retirement of the state. -/
namespace Sys2Proof.Machine

open Sys2Proof.Spec

/-! ### A lane register written -/

@[simp] theorem Lane.read_put (l : Lane) (d n : Nat) (v : Word) (p : Bool) :
    (l.put d v p).read n = if n = d ∧ n < 48 then v else l.read n := by
  by_cases h : 48 ≤ n
  · have hn : ¬n < 48 := by omega
    simp only [Lane.read, if_pos h, hn, and_false, if_false]
  · have hn : n < 48 := by omega
    simp only [Lane.read, if_neg h, Lane.put, mget_mset, hn, and_true]
theorem Lane.bad_put_ne (l : Lane) {d n : Nat} (v : Word) (p : Bool) (h : n ≠ d) : (l.put d v p).bad n = l.bad n := by
  simp only [Lane.bad, Lane.put, getLsbD_bput_ne _ _ h]
/-- The destination and `lt` hold one value (R31). -/
theorem Lane.read_write_dest (l : Lane) {d : Nat} (v : Word) (p : Bool) (h : d < 48) :
    (l.write d v p).read d = (l.write d v p).read ltNum := by
  have hlt : ltNum < 48 := by decide
  simp [Lane.write, h, hlt]
theorem Lane.read_write_ne (l : Lane) {d n : Nat} (v : Word) (p : Bool) (hd : n ≠ d) (ht : n ≠ ltNum) :
    (l.write d v p).read n = l.read n := by
  simp [Lane.write, hd, ht]
theorem Lane.bad_write_ne (l : Lane) {d n : Nat} (v : Word) (p : Bool) (hd : n ≠ d) (ht : n ≠ ltNum) :
    (l.write d v p).bad n = l.bad n := by
  rw [Lane.write, Lane.bad_put_ne _ _ _ ht, Lane.bad_put_ne _ _ _ hd]
/-- Nothing but registers and their marks changes. -/
theorem Lane.write_rest (l : Lane) (d : Nat) (v : Word) (p : Bool) :
    { l.write d v p with regs := l.regs, poison := l.poison } = l := rfl

/-! ### Some lanes of a gang changed -/

theorem Gang.lt_of_mem_guard {g : Gang} {p : BitVec 3} {j : Nat} (h : j ∈ g.guard p) : j < g.lanes.length := by
  obtain ⟨-, hj⟩ := List.mem_filter.1 h
  by_contra hn
  rw [Gang.guards, List.getElem?_eq_none (Nat.le_of_not_lt hn)] at hj
  exact Bool.false_ne_true hj
@[simp] theorem Gang.length_mapLanes (g : Gang) (is : List Nat) (f : Nat → Lane → Lane) :
    (g.mapLanes is f).lanes.length = g.lanes.length := List.length_mapIdx
theorem Gang.lane_mapLanes_mem (g : Gang) {is : List Nat} (f : Nat → Lane → Lane) {j : Nat} (hj : j ∈ is)
    (hl : j < g.lanes.length) : (g.mapLanes is f).lane j = f j (g.lane j) := by
  simp [Gang.lane, Gang.mapLanes, hj, List.getElem?_eq_getElem hl]
theorem Gang.lane_mapLanes_notMem (g : Gang) {is : List Nat} (f : Nat → Lane → Lane) {j : Nat} (hj : j ∉ is) :
    (g.mapLanes is f).lane j = g.lane j := by
  cases h : g.lanes[j]? <;> simp [Gang.lane, Gang.mapLanes, hj, h]

/-! ### A change of lanes, and retirement -/

/-- Retirement changes no special register but RETIRED. -/
theorem special_retire (s : State) {n : Nat} (hn : n ≠ 0x0E) : (s.retire none).special n = s.special n := by
  obtain ⟨gs, cs, hr, -⟩ := Core.retire_shape s.me none
  have hg := s.me.gang_retire none
  exact special_modMe (f := (·.retire none)) hr (by rw [hg]; rfl) (by rw [hg]; rfl) (by rw [hg]; rfl) hn

section
variable (s : State) (is : List Nat) (f : Nat → Lane → Lane)

/-- No special register is read from a lane's contents (spec/01 Table 1-4). -/
theorem special_inLanes (n : Nat) : (inLanes s is f).special n = s.special n := by
  have hme : (inLanes s is f).me = s.me.modGang (·.mapLanes is f) := s.me_modGang _
  have hg : (inLanes s is f).me.gang = s.me.gang.mapLanes is f := s.gang_modGang _
  have hcore : (inLanes s is f).core (inLanes s is f).cur = s.me.modGang (·.mapLanes is f) := hme
  unfold State.special
  split
  case h_6 => simp only [hg, Gang.length_mapLanes]
  case h_7 => exact (congrArg (fun g : Gang => w64 g.grant) hg :)
  case h_8 => exact (congrArg (fun g : Gang => w64 g.channel) hg :)
  all_goals simp only [State.ofContext, State.cycleOf, State.timerRead, hme, hcore]
  all_goals rfl
theorem Core.readG_modGang_lanes (k : Core) (n : Nat) : (k.modGang (·.mapLanes is f)).readG n = k.readG n :=
  Core.readG_congr (k := k) (l := k.modGang (·.mapLanes is f)) rfl rfl (by rw [Core.gang_modGang]; rfl) n
theorem Core.poisonG_modGang_lanes (k : Core) (n : Nat) : (k.modGang (·.mapLanes is f)).poisonG n = k.poisonG n :=
  Core.poisonG_congr (k := k) (l := k.modGang (·.mapLanes is f)) rfl rfl (by rw [Core.gang_modGang]; rfl) n
theorem retire_inLanes_eq_modMe : (inLanes s is f).retire none = s.modMe fun k => (k.modGang (·.mapLanes is f)).retire none :=
  s.retire_modMe (·.modGang (·.mapLanes is f)) none
theorem coreStays_retire_inLanes : CoreStays s ((inLanes s is f).retire none) := by
  have hme : ((inLanes s is f).retire none).me = (s.me.modGang (·.mapLanes is f)).retire none := by
    rw [retire_inLanes_eq_modMe, State.me_modMe]
  obtain ⟨gs, cs, hr, hcs⟩ := Core.retire_shape (s.me.modGang (·.mapLanes is f)) none
  refine ⟨?rest, fun n hn => ?counters, ?retired, fun n hn => ?special, fun j hj => ?gangs⟩
  case rest => rw [hme, hr]; rfl
  case counters => rw [hme, hr]; exact hcs n hn
  case retired => rw [hme, hr]; rfl
  case special => rw [special_retire _ hn, special_inLanes]
  case gangs => rw [hme, Core.at_retire_ne (s.me.modGang _) none hj, Core.at_modGang_ne _ _ hj]
/-- The gang after retirement is the gang moved on, its lanes changed. -/
theorem gang_retire_inLanes : ((inLanes s is f).retire none).gang =
    { (s.gang.mapLanes is f).retire (s.me.succ s.gang.q2) (s.me.priv = 1) with waiting := false } := by
  rw [retire_inLanes_eq_modMe, State.gang_modMe, Core.gang_retire, Core.gang_modGang]
  rfl
theorem lane_retire_inLanes (j : Nat) : ((inLanes s is f).retire none).gang.lane j = (s.gang.mapLanes is f).lane j := by
  rw [gang_retire_inLanes]; rfl
theorem movesOn_retire_inLanes : MovesOn s ((inLanes s is f).retire none) := by
  rw [MovesOn, gang_retire_inLanes]
  exact ⟨rfl, rfl, rfl, rfl, rfl, rfl, rfl⟩

end

/-! ### The forms -/

/-- An element-wise integer instruction is a `laneOp` on its operands (Table 9-3). -/
theorem exec_laneForm {i : Instr} {p : BitVec 3} {d : BitVec 6} {rs : List (BitVec 6)} (h : laneForm i = some (p, d, rs))
    (s : State) : ∃ f, exec i s = s.finish (s.laneOp p d rs f) := by
  unfold laneForm at h
  split at h
  all_goals cases h
  all_goals exact ⟨_, rfl⟩

/-- Settles O43: the form completes as `laneOp` does, a write in each lane of the guard and then retirement. -/
theorem laneFormsFrame : Obligations.LaneFormsFrame := by
  intro s i p d rs hf hready hu hd
  obtain ⟨v, hi⟩ := exec_laneForm hf s
  have ht : retired s (perLane s p d v) = (perLane s p d v).retire none :=
    retired_unstepped hu ((congrArg Gang.step (s.gang_modGang _)).trans hu.1) ((congrArg Gang.stepDebug (s.gang_modGang _)).trans hu.2)
  have hc : exec i s = .next ((perLane s p d v).retire none) := ht ▸ completes_laneOp rs hready hi
  refine ⟨_, hc, ?outside, ?memory, coreStays_retire_inLanes _ _ _, movesOn_retire_inLanes _ _ _, fun n => ?registers, ?count,
    fun j => ⟨fun hj => ?unguarded, fun hj => ?guarded⟩⟩
  case outside => rw [perLane, retire_inLanes_eq_modMe]; exact restStays_modMe _ _
  case memory => rw [perLane, retire_inLanes_eq_modMe]; exact sameMemory_modMe rfl
  case registers =>
    rw [perLane, retire_inLanes_eq_modMe, State.readG_modMe, State.me_modMe, Core.readG_retire, Core.poisonG_retire]
    exact ⟨Core.readG_modGang_lanes _ _ _ _, Core.poisonG_modGang_lanes _ _ _ _⟩
  case count => rw [perLane, gang_retire_inLanes]; exact Gang.length_mapLanes _ _ _
  case unguarded => rw [perLane, lane_retire_inLanes, Gang.lane_mapLanes_notMem _ _ hj]
  case guarded =>
    rw [perLane, lane_retire_inLanes, Gang.lane_mapLanes_mem _ _ hj (Gang.lt_of_mem_guard hj)]
    exact ⟨Lane.read_write_dest _ _ _ hd, fun n hn h36 => ⟨Lane.read_write_ne _ _ _ hn h36, Lane.bad_write_ne _ _ _ hn h36⟩,
      Lane.write_rest _ _ _ _⟩

end Sys2Proof.Machine

/-! SUPPORT. Lane memory instructions (spec/10 R225-R231): the shared forms of lane accesses whose registers are ready and whose checks
pass in every lane of the guard. -/
namespace Sys2Proof.Machine

open Sys2Proof.Spec
set_option Elab.async false

/-! ### Accesses that are ready -/

theorem Gang.poisonedLanes_eq_nil {g : Gang} {is ns : List Nat} (h : ∀ i ∈ is, ∀ n ∈ ns, (g.lane i).bad n = false) :
    g.poisonedLanes is ns = [] := by
  simpa [Gang.poisonedLanes, List.filter_eq_nil_iff] using h

section
variable {s : State} {x : LaneAcc}

theorem State.laneAddrs_ready (h : AccReady s x) (body : Out) : s.laneAddrs x body = body := by
  have haddr : s.gang.poisonedLanes (s.gang.guard x.p) [x.a.toNat] = [] := Gang.poisonedLanes_eq_nil h.2.2
  refine (State.laneGate_ready (lanesReady_mono h (fun _ => id) (by simp)) _).trans ?_
  rw [haddr]

/-! ### Local accesses (R226, R228, R230) -/

theorem State.laneLdl_ready (h : AccReady s x) (ha : s.me.acquiring = false)
    (hl : ∀ j ∈ s.gang.guard x.p, x.local (s.gang.lane j) = none) :
    s.laneLdl x = .next ((s.gang.guard x.p).foldl (fun t j => t.laneLoadLocal x j) s)
      (s.watch false (x.seen s.gang (s.gang.guard x.p) fun v => coreAddr s.cur v.toNat)) :=
  State.laneLocal_ready h ha hl _
theorem State.laneStl_ready (h : AccReady s x) (ha : s.me.acquiring = false)
    (hl : ∀ j ∈ s.gang.guard x.p, x.local (s.gang.lane j) = none) (hf : s.me.fenced = false) :
    s.laneStl x = .next ((s.gang.guard x.p).foldl (fun t j =>
        t.storeLocal ((t.gang.lane j).stores (x.ea (t.gang.lane j)).toNat x.pieces)) s)
      (s.watch false (x.seen s.gang (s.gang.guard x.p) fun v => coreAddr s.cur v.toNat)) := by
  refine (State.laneLocal_ready h ha hl _).trans ?_
  rw [hf]
  rfl

/-! ### Checks that pass (spec/01 R39) -/

theorem reaches_ne_walk {k : Chk} (h : Reaches k) : k ≠ .walk := by
  rintro rfl
  obtain ⟨_, _, h⟩ | ⟨_, _, h⟩ := h <;> cases h
theorem reaches_ne_fault {k : Chk} (h : Reaches k) : k ≠ .fault := by
  rintro rfl
  obtain ⟨_, _, h⟩ | ⟨_, _, h⟩ := h <;> cases h
theorem firstFail_reaches {cs : List Chk} (h : ∀ c ∈ cs, Reaches c) : firstFail cs = none := by
  induction cs with
  | nil => rfl
  | cons c cs ih =>
    have hrest : firstFail cs = none := ih fun k hk => h k (List.mem_cons_of_mem c hk)
    obtain ⟨n, off, rfl⟩ | ⟨pa, e, rfl⟩ := h c List.mem_cons_self <;> simp [firstFail, hrest]
/-- Every check of a lane of the guard reaches its home. -/
theorem laneChecks_reach (h : LanesReach s x) {i : Nat} (hi : i ∈ s.gang.guard x.p) : ∀ c ∈ s.laneChecks x i, Reaches c :=
  List.forall_mem_map.2 (h i hi)
theorem State.lanePages_reach (h : LanesReach s x) {i : Nat} (hi : i ∈ s.gang.guard x.p) : s.lanePages x i = [] := by
  have hnone : (x.pieces.filter fun q => s.checkPiece x (s.gang.lane i) q = .walk) = [] := by
    simpa [List.filter_eq_nil_iff] using fun q hq => reaches_ne_walk (h i hi q hq)
  rw [State.lanePages, hnone, List.map_nil]

/-! ### Global and core-space accesses (R227-R230) -/

/-- A lane access whose checks pass in every lane, and which nothing holds back, is performed in the lanes of its guard. -/
theorem State.laneAccess_reaches {body : List Nat → Out} {t : State} {after : List Cause} (h : AccReady s x)
    (ha : s.me.acquiring = false) (hp : s.gang.arrivedPending (s.gang.guard x.p) = false) (hr : LanesReach s x)
    (hb : body (s.gang.guard x.p) = .next t after) (perform : State → List Placed1 → List Nat → Out) :
    s.laneAccess x body perform = perform s (s.placePieces x (s.gang.guard x.p)) (s.gang.guard x.p) := by
  have hpages : (s.gang.guard x.p).flatMap (s.lanePages x) = [] :=
    List.flatMap_eq_nil_iff.2 fun i hi => State.lanePages_reach hr hi
  have hbad : ((s.gang.guard x.p).filter fun i => (firstFail (s.laneChecks x i)).isSome) = [] := by
    refine List.filter_eq_nil_iff.2 fun i hi => ?_
    simp [firstFail_reaches (laneChecks_reach hr hi)]
  have hgone : ((s.gang.guard x.p).filter fun i => (s.laneChecks x i).contains .fault) = [] := by
    refine List.filter_eq_nil_iff.2 fun i hi hc => ?_
    exact reaches_ne_fault (laneChecks_reach hr hi _ (List.contains_iff_mem.1 hc)) rfl
  have hrest : ((s.gang.guard x.p).filter fun i => !([] : List Nat).contains i) = s.gang.guard x.p := by simp
  rw [State.laneAccess, State.laneAddrs_ready h, ha]
  dsimp only
  rw [hpages, hbad, hgone, hrest, hp, hb]
  rfl
theorem State.laneLd_reaches {acq : Bool} (h : AccReady s x) (ha : s.me.acquiring = false)
    (hp : s.gang.arrivedPending (s.gang.guard x.p) = false) (hr : LanesReach s x)
    (hroom : s.me.loadRoom (min 32 (blockKeys (s.placePieces x (s.gang.guard x.p))).length) = true) :
    s.laneLd x acq =
      .next ((s.modGang (·.mapLanes (s.gang.guard x.p) fun _ l => l.await (x.pieces.map (·.reg)))).sendBlocks x acq
        (s.placePieces x (s.gang.guard x.p))) (s.watch false (x.seen s.gang (s.gang.guard x.p) id)) :=
  State.laneAccess_reaches h ha hp hr (if_pos hroom) _
theorem State.laneSt_reaches {rel : Bool} (h : AccReady s x) (ha : s.me.acquiring = false)
    (hp : s.gang.arrivedPending (s.gang.guard x.p) = false) (hr : LanesReach s x) (hf : s.me.fenced = false)
    (hroom : s.me.storeRoom (blockKeys (s.placePieces x (s.gang.guard x.p))).length = true) (hq : Queued s)
    (hrel : rel = true → s.me.drained = true) :
    s.laneSt x rel = .next (s.storeBlocks (s.placePieces x (s.gang.guard x.p)))
      (s.watch false (x.seen s.gang (s.gang.guard x.p) id)) := by
  refine State.laneAccess_reaches h ha hp hr (t := s) (after := []) ?_ _
  dsimp only
  rw [hf, hroom]
  cases rel with
  | false => exact State.whenQueued_queued hq _
  | true => exact (State.whenReleased_drained (hrel rfl) _).trans (State.whenQueued_queued hq _)

end

/-- A prefetch waits for its address registers alone. -/
theorem vpf_completes {s : State} {p : BitVec 3} {a : BitVec 6} (h : ∀ i ∈ s.gang.guard p, (s.gang.lane i).pending a.toNat = false) :
    Completes (.vpf p a) s s := by
  have hpend : ((s.gang.guard p).any fun i => (s.gang.lane i).pending a.toNat) = false := by
    simpa [List.any_eq_false] using h
  exact completes_of_next (o := if (s.gang.guard p).any fun i => (s.gang.lane i).pending a.toNat then .wait s else .next s)
    (by rw [hpend]; rfl)

/-- Settles O19: each load and store is one of the four shared forms on its shape of access. -/
theorem laneAccessesComplete : Obligations.LaneAccessesComplete := by
  refine ⟨?own, ?global, fun s p a => vpf_completes⟩
  case own =>
    intro s p a i x h ha hl
    refine ⟨fun hi => ?load, fun hi hf => ?store⟩
    case load =>
      have hexec : exec i s = s.finish (s.laneLdl x) := by
        obtain ⟨m, d, e, c, rfl, rfl⟩ | ⟨d, sc, rfl, rfl⟩ := hi <;> rfl
      exact completes_of_next_after (State.laneLdl_ready h ha hl) hexec
    case store =>
      have hexec : exec i s = s.finish (s.laneStl x) := by
        obtain ⟨m, d, c, rfl, rfl⟩ | ⟨d, sc, rfl, rfl⟩ := hi <;> rfl
      exact completes_of_next_after (State.laneStl_ready h ha hl hf) hexec
  case global =>
    rintro s p a i x _ h ha hp hr rfl
    refine ⟨fun hroom => ⟨fun hi => ?load, ?acquire⟩, fun hf hroom hq => ⟨fun hi => ?store, ?release⟩⟩
    case load =>
      have hexec : exec i s = s.finish (s.laneLd x false) := by
        obtain ⟨m, d, e, c, rfl, rfl⟩ | ⟨d, sc, rfl, rfl⟩ := hi <;> rfl
      exact completes_of_next_after (State.laneLd_reaches h ha hp hr hroom) hexec
    case acquire =>
      rintro ⟨m, d, e, k, rfl, rfl⟩
      exact completes_of_next_after (State.laneLd_reaches h ha hp hr hroom)
    case store =>
      have hexec : exec i s = s.finish (s.laneSt x false) := by
        obtain ⟨m, d, c, rfl, rfl⟩ | ⟨d, sc, rfl, rfl⟩ := hi <;> rfl
      exact completes_of_next_after (State.laneSt_reaches h ha hp hr hf hroom hq (by simp)) hexec
    case release =>
      rintro ⟨m, d, k, rfl, rfl⟩ hd
      exact completes_of_next_after (State.laneSt_reaches h ha hp hr hf hroom hq fun _ => hd)

end Sys2Proof.Machine

/-! SUPPORT. Stream instructions (spec/10 R232-R234) and lane chunk instructions (spec/18 R423, R424): what each does with its streams
and with images that pass their checks. -/
namespace Sys2Proof.Machine

open Sys2Proof.Spec
set_option Elab.async false

/-! ### Streams (R232-R234) -/

/-- A blocking form goes on in a carry firing at level 0 (spec/12 R297, R308). -/
theorem State.blocking_carry {s : State} (hk : s.gang.kind = .carry) (hp : s.me.priv = 0) (body : Out) : s.blocking body = body := by
  rw [State.blocking, hk, hp]
  rfl

section
variable {s : State} {p : BitVec 3} {d a : BitVec 6} {n : BitVec 2}

/-- `srd` that finds an element for each lane, or a stream with no copy bound to it, takes them and leaves the readers. -/
theorem srd_completes {x : Stream} (hx : x = s.me.stream n.toNat) (h : LanesReady s p (s.gang.guard p) [] [ltNum, d.toNat])
    (hk : s.gang.kind = .carry) (hp : s.me.priv = 0) (h16 : (s.gang.guard p).length ≤ 16)
    (hahead : x.readers.takeWhile (· ≠ s.me.slot) = []) (helems : (s.gang.guard p).length ≤ x.elems.length ∨ x.bound = none) :
    Completes (.srd p d n) s
      ((s.modMe (·.setStream n.toNat { x with readers := x.readers.filter (· ≠ s.me.slot) })).takeElems n.toNat d.toNat id
        (fun l => l.write d.toNat 0 false) (s.gang.guard p)) := by
  subst hx
  have hgo : ¬((s.me.stream n.toNat).readers.takeWhile (· ≠ s.me.slot) ≠ [] ∨
      ((s.me.stream n.toNat).elems.length < (s.gang.guard p).length ∧ (s.me.stream n.toNat).bound.isSome = true)) := by
    rintro (hne | ⟨hlt, hbound⟩)
    · exact hne hahead
    · obtain hle | hnone := helems
      · exact Nat.not_lt.2 hle hlt
      · simp [hnone] at hbound
  refine completes_of_next ((State.blocking_carry hk hp _).trans ((State.laneGate_ready h _).trans ?_))
  rw [if_neg (Nat.not_lt.2 h16)]
  exact if_neg hgo
/-- `sdrop` of no lane drops nothing; else the count of its lowest lane. -/
theorem sdrop_none (h : LanesReady s p ((s.gang.guard p).take 1) [a.toNat] [a.toNat]) (hg : s.gang.guard p = []) :
    Completes (.sdrop p a n) s s := by
  refine completes_of_next ((State.laneGate_ready h _).trans ?_)
  rw [hg]
  rfl
theorem sdrop_first {i : Nat} {r : List Nat} (h : LanesReady s p ((s.gang.guard p).take 1) [a.toNat] [a.toNat])
    (hg : s.gang.guard p = i :: r) : Completes (.sdrop p a n) s (s.modMe (·.setStream n.toNat
      { s.me.stream n.toNat with elems := (s.me.stream n.toNat).elems.drop ((s.gang.lane i).read a.toNat).toNat })) := by
  refine completes_of_next ((State.laneGate_ready h _).trans ?_)
  rw [hg]
  rfl
/-- `sreset` reads no register: its guard alone may be poisoned. -/
theorem lanesReady_guard (h : s.gang.guardPoison p = false) : LanesReady s p [] [] [] := ⟨by simp, h, by simp⟩
theorem sreset_none (h : s.gang.guardPoison p = false) (hg : s.gang.guard p = []) : Completes (.sreset p n) s s :=
  completes_of_next ((State.laneGate_ready (lanesReady_guard h) _).trans (if_pos hg))
theorem sreset_empties (h : s.gang.guardPoison p = false) (hg : s.gang.guard p ≠ []) : Completes (.sreset p n) s
    (s.modMe (·.setStream n.toNat { s.me.stream n.toNat with elems := [], drop := (s.me.stream n.toNat).bound.isSome })) :=
  completes_of_next ((State.laneGate_ready (lanesReady_guard h) _).trans (if_neg hg))

end

/-! ### Images that pass their checks (R423) -/

theorem chunkCheck_none {a : Word} (h16 : a.toNat % 16 = 0) (hend : a.toNat + 272 ≤ 0x18000) : chunkCheck a = none := by
  have hin : ¬localEnd < a.toNat + imageBytes := Nat.not_lt.2 hend
  rw [chunkCheck, if_neg hin, if_neg (not_not.2 h16)]
theorem Lane.chunkFail_none {l : Lane} {as : List (BitVec 6)}
    (h : ∀ a ∈ as, (l.read a.toNat).toNat % 16 = 0 ∧ (l.read a.toNat).toNat + 272 ≤ 0x18000) : l.chunkFail as = none := by
  rw [Lane.chunkFail, List.head?_eq_none_iff, List.filterMap_eq_nil_iff]
  intro a ha
  rw [chunkCheck_none (h a ha).1 (h a ha).2, Option.map_none]
theorem State.chunkBad_none {t : State} {l : Lane} {as : List (BitVec 6)} {skip : Nat}
    (h : ∀ a ∈ as, t.me.mem.poisoned ((l.read a.toNat).toNat + skip) (272 - skip) = false) : t.chunkBad l as skip = none := by
  rw [State.chunkBad, List.find?_eq_none]
  intro v hv
  obtain ⟨a, ha, rfl⟩ := List.mem_map.1 hv
  exact Bool.not_eq_true _ ▸ h a ha
/-- A lane chunk instruction whose images are ready goes on in the lanes of its guard, with the images read. -/
theorem State.chunkForm_ready {s t : State} {p : BitVec 3} {as : List (BitVec 6)} {uses all : List Nat} {skip : Nat}
    (h : ChunksReady s t p as uses all skip) (body : List Nat → State → Out) :
    s.chunkForm p as uses all skip body = body (s.gang.guard p) t := by
  obtain ⟨hready, hacq, himages, ht⟩ := h
  have haddr : s.gang.poisonedLanes (s.gang.guard p) (as.map (·.toNat)) = [] :=
    Gang.poisonedLanes_eq_nil fun i hi n hn => hready.2.2 i hi n (List.mem_append_right _ hn)
  have hfail : ((s.gang.guard p).filter fun i => ((s.gang.lane i).chunkFail as).isSome) = [] :=
    List.filter_eq_nil_iff.2 fun i hi => by
      rw [Lane.chunkFail_none fun a ha => ⟨(himages i hi a ha).1, (himages i hi a ha).2.1⟩]; exact Bool.false_ne_true
  have hbad : ((s.gang.guard p).filter fun i => (t.chunkBad (s.gang.lane i) as skip).isSome) = [] :=
    List.filter_eq_nil_iff.2 fun i hi => by
      rw [State.chunkBad_none fun a ha => (himages i hi a ha).2.2]; exact Bool.false_ne_true
  have hread : (s.gang.guard p).foldl (fun t i => as.foldl (fun t a =>
      t.scanLocal s.cur (((s.gang.lane i).read a.toNat).toNat + skip) (imageBytes - skip)) t) s = t := ht.symm
  refine (State.laneGate_ready (lanesReady_mono hready (fun _ => id) fun n hn => List.mem_append_left _ hn) _).trans ?_
  rw [haddr, hacq, hfail, hread]
  dsimp only
  rw [hbad]
  rfl

/-! ### Folds (R424) -/

/-- A fold that reaches the last lane, with none of the records it made still to be delivered, is over. -/
theorem State.foldOn_over {t u : State} {fmt : Nat} {a b : BitVec 6} {is : List Nat} {after : List Cause}
    (hf : t.foldLanes fmt a b is = (u, 32)) (hr : u.me.records.any (fun o => t.nextTag ≤ o.seq) = false) :
    t.foldOn fmt a b is 0 [] after = .next u after := by
  have hall : is.filter (fun i => 0 ≤ i) = is := by simp
  have hids : ¬(32 < 32 ∨ (u.me.records.any fun o =>
      ([] ++ (List.range (u.nextTag - t.nextTag)).map (t.nextTag + ·)).contains o.seq) = true) := by
    rintro (hlt | hany)
    · exact Nat.lt_irrefl _ hlt
    · obtain ⟨o, ho, hseq⟩ := List.any_eq_true.1 hany
      obtain ⟨j, -, hj⟩ := List.mem_map.1 (List.contains_iff_mem.1 hseq)
      exact List.any_eq_false.1 hr o ho (decide_eq_true (hj ▸ Nat.le_add_right _ _))
  rw [State.foldOn, hall, hf]
  exact if_neg hids

section
variable {s t : State} {g : BitVec 3} {d a b : BitVec 6}

theorem ckgen_completes (h : ChunksReady s t g [a] [b.toNat] [] 16) (hf : s.me.fenced = false) : Completes (.ckgen g d a b) s
    ((s.gang.guard g).foldl (fun t i => t.writeLocal ((s.gang.lane i).read a.toNat).toNat
      ((makeImage d.toNat (((s.gang.lane i).read b.toNat).toNat % 256) false
        (chunkData (t.chunkAt ((s.gang.lane i).read a.toNat).toNat))).take 16)) t)
    (s.watch false ((s.gang.guard g).flatMap fun i =>
      [s.seenChunk i ((s.gang.lane i).read a.toNat).toNat 16 false true,
       s.seenChunk i (((s.gang.lane i).read a.toNat).toNat + 16) 256 true false])) := by
  refine completes_of_next_after ((State.chunkForm_ready h _).trans ?_)
  rw [hf]
  rfl
theorem ckfold_completes {u : State} (h : ChunksReady s t g [a, b] [] [36] 0) (hf : s.me.fenced = false) (hfresh : Fresh s)
    (hu : t.foldLanes d.toNat a b (s.gang.guard g) = (u, 32)) (hr : u.me.records.any (fun o => t.nextTag ≤ o.seq) = false) :
    Completes (.ckfold g d a b) s u (s.watch false (s.seenFold a b (s.gang.guard g))) := by
  have hphase : s.gang.phase = .none := hfresh
  have hexec : exec (.ckfold g d a b) s = s.finish (s.chunkForm g [a, b] [] [ltNum] 0 fun is t =>
      if s.me.fenced then .wait s else t.foldOn d.toNat a b is 0 [] (s.watch false (s.seenFold a b is))) := by
    show execCkfold g d a b s = _
    rw [execCkfold, hphase]
  refine completes_of_next_after ?_ hexec
  refine (State.chunkForm_ready h _).trans ?_
  rw [hf]
  exact State.foldOn_over hu hr

end

/-- Settles O20: the streams by what they hold, the chunk instructions by their shared form. -/
theorem streamAndChunkFormsComplete : Obligations.StreamAndChunkFormsComplete := by
  refine ⟨?streams, ?chunks⟩
  case streams =>
    rintro s p q d a n x hx
    refine ⟨fun h => ⟨srd_completes hx h, completes_laneGate h, ?count⟩, fun h => ⟨sdrop_none h, ?drop⟩,
      fun h => ⟨sreset_none h, ?reset⟩⟩
    case count => subst hx; exact completes_laneOp [] h
    case drop => subst hx; exact fun i r => sdrop_first h
    case reset => subst hx; exact sreset_empties h
  case chunks =>
    intro s t g d a b
    exact ⟨ckgen_completes, fun h => completes_of_next_after (State.chunkForm_ready h _), fun u => ckfold_completes⟩

end Sys2Proof.Machine

/-! SUPPORT. Atomics, packets and chunk reductions (spec/10 R236-R240, spec/18 R422) whose checks pass: what each request carries. -/
namespace Sys2Proof.Machine

open Sys2Proof.Spec
set_option Elab.async false

/-! ### Checks of local offsets -/

theorem checkLocal_aligned {ea : Word} {al mis : Nat} (hend : ea.toNat < 0x18000) (hal : ea.toNat % al = 0) :
    checkLocal ea al mis = none := by
  have hin : ¬localEnd ≤ ea.toNat := Nat.not_le.2 hend
  rw [checkLocal, if_neg hin, if_neg (not_not.2 hal)]

section
variable {s : State} {ea v : Word} {al mis : Nat}

theorem State.localOffset_aligned (hend : v.toNat < 0x18000) (hal : v.toNat % al = 0) (body : Out) :
    s.localOffset v al mis body = body := by
  rw [State.localOffset, checkLocal_aligned hend hal]
/-- A local access that reads other registers too goes on when they are ready. -/
theorem State.localForm_ready_uses {addrs uses all : List (BitVec 4)} (h : Ready s (addrs ++ uses) all) (ha : s.me.acquiring = false)
    (hend : ea.toNat < 0x18000) (hal : ea.toNat % al = 0) (body : Out) : s.localForm addrs uses all ea al mis body = body := by
  rw [State.localForm, State.gateAddr_ready h, ha, checkLocal_aligned hend hal]
  rfl
theorem State.localChunk_aligned (hend : v.toNat + 272 ≤ 0x18000) (hal : v.toNat % 16 = 0) (body : Out) :
    s.localChunk v body = body := by
  have hin : ¬localEnd < v.toNat + imageBytes := Nat.not_lt.2 hend
  rw [State.localChunk, if_neg hin, if_neg (not_not.2 hal)]
/-- The local operand of `sopq` and `sopw` passes the checks of its offset `gB`. -/
theorem State.localOperand_ready {b : BitVec 4} (hb : s.me.poisonG b.toNat = false) (hend : (s.readG b).toNat < 0x18000)
    (hal : (s.readG b).toNat % al = 0) (body : Out) :
    (if s.me.poisonG b.toNat then .trap ⟨0x0E, 1, s.readG b, s.allLanes⟩ else s.localOffset (s.readG b) al mis body) = body := by
  rw [hb]
  exact State.localOffset_aligned hend hal body

end

theorem State.mayLeave_open {s : State} (ho : Open s) : s.mayLeave = true := by
  obtain ⟨-, hfen, harr, -, hroom⟩ := ho
  rw [State.mayLeave, harr, hfen, hroom]
  rfl

/-! ### Atomics and packets (R236-R239) -/

section
variable {s : State} {d a b : BitVec 4} {z : BitVec 2} {o : BitVec 8} {k : Chk} (ho : Open s) (hk : Reaches k)
include ho hk

/-- An atomic with a result finds room in the outstanding-load table. -/
theorem State.atomicForm_withEntry {uses all : List (BitVec 4)} {size : Nat} {core : Bool} (h : Ready s ([a] ++ uses) all)
    (hc : s.checkAtomic (s.readG a) size core = k) (go : Chk → Out) :
    s.atomicForm a uses all size core id (fun c => s.withEntry (go c)) = go k :=
  (State.atomicForm_reaches h ho hc hk id _).trans (State.withEntry_open ho _)
theorem amocas_completes (h : Ready s [a, d, b] [d, a, b]) (hc : s.checkAtomic (s.readG a) (2 ^ z.toNat) true = k) :
    Completes (.amocas d a b z) s (s.sendAtomic d (2 ^ z.toNat) k (.cas k.at z.toNat (s.readG d) (s.readG b)))
      (s.watchAtomic (s.readG a) (2 ^ z.toNat)) :=
  completes_of_next_after (State.atomicForm_withEntry ho hk h hc _)
theorem amonr_completes (h : Ready s [a, b] [a, b]) (hc : s.checkAtomic (s.readG a) (2 ^ z.toNat) true = k) :
    Completes (.amonr a b z o) s (s.sendStore s.gang.uids k.home (.amo k.at o.toNat z.toNat (s.readG b)))
      (s.watchAtomic (s.readG a) (2 ^ z.toNat)) :=
  completes_of_next_after (State.atomicForm_reaches h ho hc hk id _)
theorem sop_completes (hop : o.toNat < 0x20) (h : Ready s [a, b] [d, a, b])
    (hc : s.checkAtomic (s.readG a) (2 ^ z.toNat) false = k) : Completes (.sop d a b z o) s
      (s.sendAtomic d (2 ^ z.toNat) k (.packet k.at o.toNat z.toNat ⟨s.readG b, false⟩ .none))
      (s.watchAtomic (s.readG a) (2 ^ z.toNat)) :=
  completes_of_next_after ((if_neg (Nat.not_le.2 hop)).trans (State.atomicForm_withEntry ho hk h hc _))
theorem sopq_completes (hop : o.toNat < 0x20) (h : Ready s [a, d, b] [d, a, b])
    (hc : s.checkAtomic (s.readG a) (2 ^ z.toNat) false = k) (hend : (s.readG b).toNat < 0x18000) (hal : (s.readG b).toNat % 8 = 0) :
    Completes (.sopq d a b z o) s (s.sendLoad (.future (s.readG b).toNat) s.gang.uids true none
      (.packet k.at o.toNat z.toNat ⟨s.readG d, false⟩ .none)) (s.watchAtomic (s.readG a) (2 ^ z.toNat)) := by
  have hready : Ready s [a, d] [d, a, b] := ready_mono h (fun _ => id) (by simp)
  refine completes_of_next_after ((if_neg (Nat.not_le.2 hop)).trans ((State.atomicForm_reaches hready ho hc hk _ _).trans ?_))
  exact (State.localOperand_ready (h.2 b (by simp)) hend hal _).trans (State.withEntry_open ho _)
/-- `sopw` reads its operand from the core's own memory on the way. -/
theorem sopw_completes (h : Ready s [a, b] [a, b]) (hc : s.checkAtomic (s.readG a) (2 ^ z.toNat) false = k)
    (hend : (s.readG b).toNat < 0x18000) (hal : (s.readG b).toNat % 8 = 0) :
    let t := s.scanLocal s.cur (s.readG b).toNat 8
    t.me.mem.poisoned (s.readG b).toNat 8 = false → Completes (.sopw a b z o) s (t.sendStore s.gang.uids none
      (.packet k.at o.toNat z.toNat ⟨w64 (t.me.mem.load (s.readG b).toNat 8), false⟩ .none))
      (s.watchAtomic (s.readG a) (2 ^ z.toNat)) := by
  intro t hp
  have hready : Ready s [a] [a, b] := ready_mono h (fun _ => id) (by simp)
  refine completes_of_next_after ((State.atomicForm_reaches (uses := []) hready ho hc hk _ _).trans ?_)
  exact (State.localOperand_ready (h.2 b (by simp)) hend hal _).trans (State.onImage_sound hp _)

/-! ### Chunk reductions (spec/18 R422) -/

/-- A chunk reduction whose checks pass leaves with its source image. -/
theorem State.reduceForm_reaches {img : BitVec 4} {all : List (BitVec 4)} {op : Nat} {more : Out → Out} {dest : LoadDest}
    {pend : State → State} (h : Ready s [a, img] all) (hc : s.checkChunk (s.readG a) = k)
    (hend : (s.readG img).toNat + 272 ≤ 0x18000) (hal : (s.readG img).toNat % 16 = 0) (hmore : ∀ body, more body = body) :
    let t := s.scanLocal s.cur (s.readG img).toNat 272
    let u := t.sendImage (t.me.mem.image (s.readG img).toNat 272)
    s.reduceForm a img all op more dest pend = .next ((pend u.2).sendLoad dest s.gang.uids true none
      (.reduce k.at op u.1 (u.2.me.mem.poisonedWords (s.readG img).toNat 272) (s.readG a))) (s.watchAtomic (s.readG a) 272) := by
  have hready : Ready s [a] all := ready_mono h (fun _ => id) (by simp)
  have himg : s.me.poisonG img.toNat = false := h.2 img (by simp)
  have ⟨hacq, _, _, hroom, _⟩ := ho
  rw [State.reduceForm]
  dsimp only
  rw [State.gateAddr_ready' hready, himg, hacq, hc, State.checked_reaches hk, State.localChunk_aligned hend hal, hmore,
    State.mayLeave_open ho, hroom]
  rfl

end

/-- `amol` is performed at issue. -/
theorem amol_completes {s : State} {d a b : BitVec 4} {z : BitVec 2} {o : BitVec 8} (ho : Open s) (h : Ready s [a, b] [d, a, b])
    (hend : (s.readG a).toNat < 0x18000) (hal : (s.readG a).toNat % 2 ^ z.toNat = 0) :
    let t := s.scanLocal s.cur (s.readG a).toNat (2 ^ z.toNat)
    let x := t.me.mem.atomic (s.readG a).toNat o.toNat (2 ^ z.toNat) (s.readG b)
    Completes (.amol d a b z o) s ((t.modMe fun k => { k with mem := x.1 }).writeG d x.2.1.val x.2.1.poison)
      (s.watchAtomic (coreAddr s.cur (s.readG a).toNat) (2 ^ z.toNat)) := by
  obtain ⟨hacq, hfen, -⟩ := ho
  refine completes_of_next_after ((State.localForm_ready_uses (addrs := [a]) (uses := [b]) h hacq hend hal _).trans ?_)
  rw [hfen]
  rfl

/-! ### Chained packets (R240) -/

/-- The chain that NEXT DEST of an image makes when its checks pass, by its KIND. -/
def State.Chains (s : State) (i : ChainImage) (c : Chk) (chain : Chain) : Prop :=
  i.kind = 0 ∧ chain = .none ∨
    i.kind = 1 ∧ s.checkAtomic i.dest (sizeOf i.sz2) false = c ∧ Reaches c ∧ chain = .packet c.at i.op2 i.sz2 ∨
    i.kind = 2 ∧ channelWordOk i.dest = true ∧ s.sees (coreOf i.dest) = true ∧ chain = .message i.dest ∨
    i.kind = 3 ∧ ∃ n off, s.target i.dest 8 = .ok (n, off) ∧ chain = .future n off
theorem State.checkDest_chains {s : State} {i : ChainImage} {c : Chk} {chain : Chain} (h : s.Chains i c chain) (go : Chain → Out) :
    s.checkDest i go = go chain := by
  unfold State.checkDest
  obtain ⟨hkind, rfl⟩ | ⟨hkind, hc, hr, rfl⟩ | ⟨hkind, hw, hs, rfl⟩ | ⟨hkind, n, off, ht, rfl⟩ := h
  case inl => rw [hkind]; rfl
  case inr.inl => rw [hkind, hc]; exact State.checked_reaches hr _
  case inr.inr.inl => rw [hkind, hw, hs]; rfl
  case inr.inr.inr => rw [hkind, ht]; rfl
/-- `sop.ch` with a sound image whose checks all pass sends the first packet with its chain. -/
theorem sopCh_completes {s : State} {a : BitVec 4} {k c : Chk} {chain : Chain} {i : ChainImage} (ho : Open s) (h : Ready s [a] [a])
    (hend : (s.readG a).toNat < 0x18000) (hal : (s.readG a).toNat % 32 = 0) :
    let t := s.scanLocal s.cur (s.readG a).toNat 32
    t.me.mem.poisoned (s.readG a).toNat 32 = false → i = parseChain (t.me.mem.image (s.readG a).toNat 32) →
    i.ok (t.me.mem.image (s.readG a).toNat 32) = true → s.checkAtomic i.addr (sizeOf i.sz) false = k → Reaches k →
    s.Chains i c chain → Completes (.sopCh a) s
      (t.sendStore s.gang.uids none (.packet k.at i.op i.sz ⟨i.operand, false⟩ chain)) (s.watch true (i.seen s.cur)) := by
  rintro t hp rfl hok hc hk hchain
  refine completes_of_next_after ((State.localForm_ready h ho.1 hend hal).trans ((State.onImage_sound hp _).trans ?_))
  dsimp only
  rw [hok, hc, State.checked_reaches hk, State.checkDest_chains hchain, State.mayLeave_open ho]
  rfl

/-- Settles O21: atomics and packets through their shared form, chunk reductions through theirs, `amol` and `sop.ch` by the local
memory they read. -/
theorem atomicsComplete : Obligations.AtomicsComplete := by
  rintro s d a b z o _ ho rfl
  refine ⟨fun k hk => ⟨fun hc => ⟨?amo, ?amocas, ?amonr⟩, fun hc => ⟨?sop, ?sopq, ?sopw⟩⟩,
    fun k v hk hc hop hend hal => ⟨?reduce, ?reduceTo⟩, amol_completes ho, ?chain⟩
  case amo => exact fun h => amo_completes h ho hc hk
  case amocas => exact fun h => amocas_completes ho hk h hc
  case amonr => exact fun h => amonr_completes ho hk h hc
  case sop => exact fun hop h => sop_completes ho hk hop h hc
  case sopq => exact fun hop h => sopq_completes ho hk hop h hc
  case sopw => exact fun h => sopw_completes ho hk h hc
  case reduce =>
    rintro h rfl
    exact completes_of_next_after
      ((if_pos hop).trans (State.reduceForm_reaches (pend := (·.pendG d)) ho hk h hc hend hal fun _ => rfl))
  case reduceTo =>
    rintro h rfl hend' hal'
    have hready : Ready s [a, d] [d, a, b] := ready_mono h (fun _ => id) (by simp)
    exact completes_of_next_after ((if_pos hop).trans (State.reduceForm_reaches (pend := id) ho hk hready hc hend hal
      (State.localOperand_ready (h.2 b (by simp)) hend' hal')))
  case chain =>
    intro k c chain i h hend hal
    exact sopCh_completes ho h hend hal

end Sys2Proof.Machine

/-! SUPPORT. Futures (spec/10 R241-R244) and dependence counters (R245, R246): an operation on a word of the issuing core, a request to
another core, and the second part of an instruction in two parts. -/
namespace Sys2Proof.Machine

open Sys2Proof.Spec
set_option Elab.async false

/-! ### Waits that are over -/

section
variable {s : State}

theorem State.twoPart_fresh (hf : Fresh s) (answer : Datum → Bool → Out) (start : Out) : s.twoPart answer start = start := by
  have hphase : s.gang.phase = .none := hf
  rw [State.twoPart, hphase]
theorem State.twoPart_answered {tag : Nat} {v : Datum} {ok : Bool} (hp : s.gang.phase = .answered tag v ok)
    (answer : Datum → Bool → Out) (start : Out) : s.twoPart answer start = answer v ok := by
  rw [State.twoPart, hp]
theorem State.whenPut_drained (harr : s.gang.arrivedPending s.gang.indices = false) (hd : s.me.drained = true) (body : Out) :
    s.whenPut body = body := by
  rw [State.whenPut, harr]
  exact State.whenReleased_drained hd body
theorem State.whenRemote_arrived (harr : s.gang.arrivedPending s.gang.indices = false) (body : Out) : s.whenRemote body = body := by
  rw [State.whenRemote, harr]
  rfl
theorem State.sendFuture_room (hl : s.me.loadRoom 1 = true) (hs : s.me.storeRoom 1 = true) (dest : LoadDest) (c off : Nat) (k : FutOp)
    (v : Datum) (pend : State → State) (after : List Cause) : s.sendFuture dest c off k v pend after =
      .next ((pend s).sendLoad dest s.gang.uids true (some c) (.future off k v)) after := by
  rw [State.sendFuture, hl, hs]
  rfl

/-! ### Future operations (R241-R244) -/

variable {a b d : BitVec 4} {c off : Nat}

/-- The address in `gA` passes its checks. -/
theorem State.onTarget_ok {uses all : List (BitVec 4)} {al : Nat} (h : Ready s ([a] ++ uses) all) (ha : s.me.acquiring = false)
    (ht : s.target (s.readG a) al = .ok (c, off)) (body : Nat → Nat → Out) : s.onTarget a uses all al body = body c off := by
  rw [State.onTarget, State.gateAddr_ready h, ha, ht]
  rfl

section
variable (ha : s.me.acquiring = false)
include ha

/-! #### On a word of the issuing core, at issue -/

section
variable {t : State} {ok : Bool} {v : Datum} (ht : s.target (s.readG a) 8 = .ok (s.cur, off))
include ht

theorem fput_own (ho : s.ownFuture off .put (s.datumG b) = (t, true, v)) (harr : s.gang.arrivedPending s.gang.indices = false)
    (hf : Fresh s) (hk : s.gang.kind = .carry) (hp : s.me.priv = 0) (hd : s.me.drained = true) (h : Ready s [a] [a, b]) :
    Completes (.fput a b) s t (s.watchTarget (s.readG a) 8 false true) := by
  refine completes_of_next_after ((State.twoPart_fresh hf _ _).trans ((State.blocking_carry hk hp _).trans
    ((State.onTarget_ok (uses := []) h ha ht _).trans ((State.whenPut_drained harr hd _).trans ((if_pos rfl).trans ?_)))))
  rw [ho]
  rfl
theorem fputnb_own (ho : s.ownFuture off .putnb (s.datumG b) = (t, ok, v)) (harr : s.gang.arrivedPending s.gang.indices = false)
    (hd : s.me.drained = true) (h : Ready s [a] [d, a, b]) :
    Completes (.fputnb d a b) s (t.writeG d (if ok then 1 else 0)) (s.watchTarget (s.readG a) 8 false true) := by
  refine completes_of_next_after
    ((State.onTarget_ok (uses := []) h ha ht _).trans ((State.whenPut_drained harr hd _).trans ((if_pos rfl).trans ?_)))
  rw [ho]
  rfl
theorem ftake_own (ho : s.ownFuture off .take ⟨0, false⟩ = (t, true, v)) (hf : Fresh s) (hk : s.gang.kind = .carry)
    (hp : s.me.priv = 0) (h : Ready s [a] [d, a]) :
    Completes (.ftake d a) s (t.writeG d v.val v.poison) (s.watchTarget (s.readG a) 8 true false) := by
  refine completes_of_next_after ((State.twoPart_fresh hf _ _).trans ((State.blocking_carry hk hp _).trans
    ((State.onTarget_ok (uses := []) h ha ht _).trans ((if_pos rfl).trans ?_))))
  rw [ho]
  rfl
/-- `ftakenb` and `fpeek`: the word, and whether it was full. -/
theorem State.takeForm_own {k : FutOp} (ho : s.ownFuture off k ⟨0, false⟩ = (t, ok, v)) (h : Ready s [a] [d, a, b]) :
    s.takeForm d a b k =
      .next ((t.writeG d v.val v.poison).writeG b (if ok then 1 else 0)) (s.watchTarget (s.readG a) 8 true false) := by
  refine (State.onTarget_ok (uses := []) h ha ht _).trans ((if_pos rfl).trans ?_)
  rw [ho]
  rfl

end

/-! #### On another core's word, by a request -/

section
variable (ht : s.target (s.readG a) 8 = .ok (c, off)) (hc : c ≠ s.cur) (harr : s.gang.arrivedPending s.gang.indices = false)
  (hl : s.me.loadRoom 1 = true) (hs : s.me.storeRoom 1 = true) (h : Ready s [a] [d, a, b])
include ht hc harr hl hs h

theorem fputnb_remote (hd : s.me.drained = true) : Completes (.fputnb d a b) s
    ((s.pendG d).sendLoad (.gang s.me.slot d.toNat 8 false (s.me.priv = 1)) s.gang.uids true (some c)
      (.future off .putnb (s.datumG b))) (s.watchTarget (s.readG a) 8 false true) :=
  completes_of_next_after ((State.onTarget_ok (uses := []) h ha ht _).trans ((State.whenPut_drained harr hd _).trans
    ((if_neg hc).trans (State.sendFuture_room hl hs _ _ _ _ _ _ _))))
theorem State.takeForm_remote (k : FutOp) : s.takeForm d a b k =
    .next ((((s.pendG d).pendG b).acquires).sendLoad (.gangs s.me.slot d.toNat b.toNat (s.me.priv = 1)) s.gang.uids true (some c)
      (.future off k ⟨0, false⟩)) (s.watchTarget (s.readG a) 8 true false) :=
  (State.onTarget_ok (uses := []) h ha ht _).trans
    ((if_neg hc).trans ((State.whenRemote_arrived harr _).trans (State.sendFuture_room hl hs _ _ _ _ _ _ _)))

end

/-! ### Dependence counters (R245, R246) -/

/-- A counter update leaves for its core; with `.old` its register awaits the count before it. -/
theorem State.counterForm_sends {o : BitVec 1} (ht : s.target (s.readG a) 32 = .ok (c, off))
    (harr : s.gang.arrivedPending s.gang.indices = false) (hd : s.me.drained = true) (hs : s.me.storeRoom 1 = true)
    (hl : o = 1 → s.me.loadRoom 1 = true) (h : Ready s [a, b] (if o = 1 then [d, a, b] else [a, b])) (k : CtrOp) :
    s.counterForm d a b o k = .next ((if o = 1 then s.pendG d else s).sendLoad
      (if o = 1 then .gang s.me.slot d.toNat 8 false (s.me.priv = 1) else .update) s.gang.uids true (some c)
      (.counter off k (s.readG b))) (s.watchTarget (s.readG a) 4 (o = 1) true) := by
  have hroom : (!s.me.storeRoom 1 || (decide (o = 1) && !s.me.loadRoom 1)) = false := by simpa [hs] using hl
  refine (State.onTarget_ok (uses := [b]) h ha ht _).trans ((State.whenPut_drained harr hd _).trans ?_)
  rw [hroom]
  rfl

end

end

/-- Settles O22: each operation at home or by a request, `fput` and `ftake` also by their second part, and the counters by their
shared form. -/
theorem futuresAndCountersComplete : Obligations.FuturesAndCountersComplete := by
  intro s d a b c off ha put take
  refine ⟨fun ht harr => ⟨?own, fun hc hl hs h => ?remote⟩, fun tag v ok hp => ⟨?put, ?take⟩, ?counters⟩
  case own =>
    rintro rfl
    refine ⟨?_, fun t ok v ho hd h => fputnb_own ha ht ho harr hd h, ?_,
      fun t ok v ho h => completes_of_next_after (State.takeForm_own ha ht ho h),
      fun t ok v ho h => completes_of_next_after (State.takeForm_own ha ht ho h)⟩
    · rintro t _ v ho rfl hf hk hp hd h
      exact fput_own ha ht ho harr hf hk hp hd h
    · rintro t _ v ho rfl hf hk hp h
      exact ftake_own ha ht ho hf hk hp h
  case remote =>
    exact ⟨fputnb_remote ha ht hc harr hl hs h, completes_of_next_after (State.takeForm_remote ha ht hc harr hl hs h _),
      completes_of_next_after (State.takeForm_remote ha ht hc harr hl hs h _)⟩
  case put => exact completes_of_next_after (State.twoPart_answered hp _ _)
  case take => exact completes_of_next_after (State.twoPart_answered hp _ _)
  case counters =>
    intro o ht harr hd hs hl h
    have hsends := State.counterForm_sends ha ht harr hd hs hl h
    exact ⟨completes_of_next_after (hsends .set), completes_of_next_after (hsends .add), completes_of_next_after (hsends .dec)⟩

end Sys2Proof.Machine

/-! SUPPORT. Barriers (spec/10 R247-R251), fences (R252, R253) and timelines (R254, R255): what each does once nothing holds it back. -/
namespace Sys2Proof.Machine

open Sys2Proof.Spec
set_option Elab.async false

/-! ### Barriers (R247-R251) -/

section
variable {s : State} {a b : BitVec 4} {n sc : BitVec 3}

/-- `barbind` of a ready register goes on with its status: reported, or else the core leaves its barrier, or joins one. -/
theorem exec_barbind_ready (h : Ready s [a] [a, b]) : exec (.barbind a b n sc) s = s.finish (
    let count := fieldOf (s.readG a) 15 0
    let st := s.barbindStatus s.cur n.toNat (sc.toNat + 1) count
    let r := s.me.barrier n.toNat
    if st ≠ 0 then .next (s.writeG b (w64 st))
    else if count = 0 then
      .next (((s.leaveBarrier s.cur n.toNat).modMe (·.setBarrier n.toNat { scope := 0, gen := r.gen })).writeG b 0)
    else .next (((if r.scope = sc.toNat + 1 then s else s.leaveBarrier s.cur n.toNat).joinBarrier s.cur n.toNat (sc.toNat + 1)
      count).writeG b 0)) :=
  congrArg s.finish (State.gate_ready h _)
theorem State.onBarrier_bound (hr : (s.me.barrier n.toNat).scope ≠ 0) (body : Barrier → Out) :
    s.onBarrier n body = body (s.me.barrier n.toNat) := if_neg hr
/-- Arrivals go when the release before them is over and the register and USC have room for them. -/
theorem bararr_completes (h : Ready s [a] [a, b]) (hr : (s.me.barrier n.toNat).scope ≠ 0)
    (harr : s.gang.arrivedPending s.gang.indices = false) (hd : s.me.drained = true)
    (hmax : (s.me.barrier n.toNat).arrived + fieldOf (s.readG a) 15 0 ≤ 65535) (hs : s.me.storeRoom 1 = true) :
    Completes (.bararr a b n) s ((s.arriveBarrier s.cur n.toNat (fieldOf (s.readG a) 15 0) (some s.gang.uids)).writeG b
      (w64 (s.me.barrier n.toNat).gen)) := by
  have hroom : ¬((65535 < (s.me.barrier n.toNat).arrived + fieldOf (s.readG a) 15 0 || !s.me.storeRoom 1) = true) := by
    simpa [hs] using hmax
  exact completes_of_next ((State.gate_ready h _).trans ((State.onBarrier_bound hr _).trans
    ((State.whenPut_drained harr hd _).trans (if_neg hroom))))
theorem barwait_completes (h : Ready s [a] [a, b]) (hr : (s.me.barrier n.toNat).scope ≠ 0) (hk : s.gang.kind = .carry)
    (hp : s.me.priv = 0) (hgen : (s.me.barrier n.toNat).gen ≠ fieldOf (s.readG a) 15 0) : Completes (.barwait a n) s s := by
  have hready : Ready s [a] [a] := ready_mono h (by simp) fun _ => id
  exact completes_of_next ((State.blocking_carry hk hp _).trans ((State.gate_ready hready _).trans
    ((State.onBarrier_bound hr _).trans (if_neg hgen))))
theorem barwaitnb_completes (h : Ready s [a] [a, b]) (hr : (s.me.barrier n.toNat).scope ≠ 0) : Completes (.barwaitnb a b n) s
    (s.writeG b (if (s.me.barrier n.toNat).gen = fieldOf (s.readG a) 15 0 then 0 else 1)) := by
  refine completes_of_next ((State.gate_ready h _).trans ((State.onBarrier_bound hr _).trans ?_))
  rw [flag_decide, ite_not]

end

/-! ### Fences (R252, R253) -/

section
variable {s : State} {sc : BitVec 3}

/-- `fence` of scope `.ln` waits for nothing, any other for its release. -/
theorem fence_completes (harr : s.gang.arrivedPending s.gang.indices = false) (h : sc = 6 ∨ s.me.drained = true) :
    Completes (.fence sc) s s := by
  refine completes_of_next (o := if sc = 6 then .next s else s.whenPut (.next s)) ?_
  by_cases hsc : sc = 6
  · exact if_pos hsc
  · exact (if_neg hsc).trans (State.whenPut_drained harr (h.resolve_left hsc) _)
theorem fenceAcq_completes
    (h : sc = 6 ∨ s.me.loads.any (fun e => e.slot = s.me.slot && !e.orphan && acquired e.req.op) = false) :
    Completes (.fenceAcq sc) s s := by
  have hgo : ¬(sc ≠ 6 ∧ s.me.loads.any (fun e => e.slot = s.me.slot && !e.orphan && acquired e.req.op) = true) := by
    rintro ⟨hsc, hout⟩
    exact Bool.false_ne_true ((h.resolve_left hsc).symm.trans hout)
  exact completes_of_next (if_neg hgo)
theorem fenceRel_completes (harr : s.gang.arrivedPending s.gang.indices = false) : Completes (.fenceRel sc) s
    (if sc = 6 then s else (s.modGang fun g => { g with rel := some s.me.gangTags }).closing) := by
  have hexec : exec (.fenceRel sc) s = s.finish (if sc = 6 then .next s
    else if s.gang.arrivedPending s.gang.indices then .wait s
    else .next (s.modGang fun g => { g with rel := some s.me.gangTags }).closing) := rfl
  refine completes_of_next ?_ hexec
  rw [harr]
  by_cases hsc : sc = 6
  · rw [if_pos hsc, if_pos hsc]
  · rw [if_neg hsc, if_neg hsc]; rfl

end

/-! ### Timelines (R254, R255) -/

section
variable {s : State} {a b : BitVec 4} {k : Chk} (ho : Open s) (h : Ready s [a, b] [a, b]) (hk : Reaches k)
include ho h hk

/-- An access to a timeline whose checks pass goes on. -/
theorem State.timelineForm_reaches {write : Bool} (hc : s.checkTimeline (s.readG a) write = k) (body : Chk → Out) :
    s.timelineForm a b write body = body k := by
  obtain ⟨hacq, -, harr, -⟩ := ho
  rw [State.timelineForm, State.gateAddr_ready (addrs := [a]) (uses := [b]) h, hacq, hc, State.checked_reaches hk, harr]
  rfl
theorem tlwaitnb_completes (hc : s.checkTimeline (s.readG a) false = k) : Completes (.tlwaitnb a b) s
    (((s.pendG b).acquires).sendLoad (.gang s.me.slot b.toNat 8 false (s.me.priv = 1)) [] false none
      (.watch k.at (s.readG b) false)) (s.watch true [⟨0, s.readG a, 8, true, false⟩]) :=
  completes_of_next_after ((State.timelineForm_reaches ho h hk hc _).trans (State.withEntry_open ho _))
/-- `tladd` and `tladd.set` release what came before them. -/
theorem State.tladdForm_sends (hc : s.checkTimeline (s.readG a) true = k) (hd : s.me.drained = true) (set : Bool) :
    s.tladdForm a b set = .next (s.sendStore s.gang.uids none (.timeline k.at set (s.readG b)))
      (s.watch true [⟨0, s.readG a, 8, !set, true⟩]) := by
  have ⟨_, _, _, _, hroom⟩ := ho
  exact (State.timelineForm_reaches ho h hk hc _).trans ((State.whenReleased_drained hd _).trans (if_pos hroom))

end

/-- Settles O23: barriers by their register, fences by their scope, timelines by their shared form. -/
theorem synchronisationComplete : Obligations.SynchronisationComplete := by
  refine ⟨?barriers, fun s sc harr => ⟨fence_completes harr, fenceAcq_completes, fenceRel_completes harr⟩,
    fun s a b => ⟨fun tag v ok hp => ?answered, fun k ho h hk => ⟨tlwaitnb_completes ho h hk, fun hc hd => ?add⟩⟩⟩
  case barriers =>
    rintro s a b n sc _ _ st rfl rfl h
    refine ⟨?bind, fun hr => ⟨bararr_completes h hr, barwait_completes h hr, barwaitnb_completes h hr⟩⟩
    rintro rfl
    refine ⟨fun hst => ?status, fun hst hcount => ?leave, fun hst hcount => ?join⟩
    case status => exact completes_of_next (if_pos hst) (exec_barbind_ready h)
    case leave => exact completes_of_next ((if_neg (not_not.2 hst)).trans (if_pos hcount)) (exec_barbind_ready h)
    case join => exact completes_of_next ((if_neg (not_not.2 hst)).trans (if_neg hcount)) (exec_barbind_ready h)
  case answered => exact completes_of_next_after (State.twoPart_answered hp _ _)
  case add =>
    exact ⟨completes_of_next_after (State.tladdForm_sends ho h hk hc hd false),
      completes_of_next_after (State.tladdForm_sends ho h hk hc hd true)⟩

end Sys2Proof.Machine

/-! SUPPORT. Tensor maps and rings (spec/11 R257-R260, R271-R274): images whose checks pass, and rings that are VALID. -/
namespace Sys2Proof.Machine

open Sys2Proof.Spec
set_option Elab.async false

/-! ### Local images (R262) -/

section
variable {s t : State} {a b : BitVec 4} {all : List (BitVec 4)} {al n : Nat}

/-- An image at an aligned offset inside local memory goes on there. -/
theorem State.imageForm_ready (h : Ready s [a] all) (ha : s.me.acquiring = false) (hend : (s.readG a).toNat < 0x18000)
    (hal : (s.readG a).toNat % al = 0) (body : Nat → Out) : s.imageForm a all al body = body (s.readG a).toNat := by
  rw [State.imageForm, State.gateAddr_ready' h, ha, checkLocal_aligned hend hal]
  rfl
/-- An instruction that reads an image goes on with its words, in the state after the read. -/
theorem State.imageForm_imageAt (hi : ImageAt s t a al n) (h : Ready s [a] all) (body : State → List Word → Out) :
    s.imageForm a all al (fun off => s.readImage off n body) = body t (t.me.mem.wordsAt (s.readG a).toNat n) := by
  obtain ⟨ha, hend, hal, rfl, hp⟩ := hi
  exact (State.imageForm_ready h ha hend hal _).trans (State.onImage_sound hp _)
/-- An instruction that stores an image stores it at once, with no fence that holds it back. -/
theorem State.imageForm_stores (h : Ready s [a] [a]) (ha : s.me.acquiring = false) (hf : s.me.fenced = false)
    (hend : (s.readG a).toNat < 0x18000) (hal : (s.readG a).toNat % al = 0) (ws : List Word) :
    s.imageForm a [a] al (fun off => s.storeImage off ws) =
      .next (s.storeLocal (ws.mapIdx fun i w => ⟨(s.readG a).toNat + 8 * i, 8, w, false⟩)) := by
  refine (State.imageForm_ready h ha hend hal _).trans ?_
  rw [State.storeImage, hf]
  rfl

end

/-! ### Rings (R271-R273) -/

section
variable {s : State} {a b : BitVec 4} {n : BitVec 3} (h : Ready s [a] [a, b]) (hv : (s.me.ring n.toNat).valid = true)
include h hv

theorem State.ringForm_valid (body : RingDesc → Out) : s.ringForm a b n body = body (s.me.ring n.toNat) :=
  (State.gate_ready h _).trans (if_pos hv)
/-- A push goes when the release before it is over: the tiles fit, and `gB` is 1, or they do not, and it is 0. -/
theorem rgpush_fits {r : RingDesc} (harr : s.gang.arrivedPending s.gang.indices = false) (hd : s.me.drained = true)
    (hr : (s.me.ring n.toNat).push (s.readG a).toNat = some r) :
    Completes (.rgpush a b n) s ((s.modMe (·.setRing n.toNat r)).writeG b 1) := by
  refine completes_of_next ((State.ringForm_valid h hv _).trans ((State.whenPut_drained harr hd _).trans ?_))
  rw [hr]
theorem rgpush_full (harr : s.gang.arrivedPending s.gang.indices = false) (hd : s.me.drained = true)
    (hr : (s.me.ring n.toNat).push (s.readG a).toNat = none) : Completes (.rgpush a b n) s (s.writeG b 0) := by
  refine completes_of_next ((State.ringForm_valid h hv _).trans ((State.whenPut_drained harr hd _).trans ?_))
  rw [hr]
/-- A pop goes when the ring holds the tiles and no command reads it. -/
theorem rgpop_holds (hr : (s.readG a).toNat ≤ (s.me.ring n.toNat).held ∧ (s.me.ring n.toNat).busy = 0) :
    Completes (.rgpop a b n) s ((s.modMe (·.setRing n.toNat
      ((s.me.ring n.toNat).setHead ((s.me.ring n.toNat).head + (s.readG a).toNat)))).writeG b 1) :=
  completes_of_next ((State.ringForm_valid h hv _).trans (if_pos hr))
theorem rgpop_lacks (hr : ¬((s.readG a).toNat ≤ (s.me.ring n.toNat).held ∧ (s.me.ring n.toNat).busy = 0)) :
    Completes (.rgpop a b n) s (s.writeG b 0) :=
  completes_of_next ((State.ringForm_valid h hv _).trans (if_neg hr))

end

/-- Settles O24: sets and gets by their image, pushes and pops by their ring. -/
theorem mapsAndRingsComplete : Obligations.MapsAndRingsComplete := by
  intro s t a b n
  refine ⟨?setMap, ?setRing, fun ha hf h hend => ⟨fun hal => ?getMap, fun hal => ?getRing⟩, ?rings⟩
  case setMap =>
    rintro ws st hi h rfl rfl
    exact completes_of_next (State.imageForm_imageAt hi h _)
  case setRing =>
    rintro w0 w1 st hi h rfl rfl rfl
    exact completes_of_next (State.imageForm_imageAt hi h _)
  case getMap => exact completes_of_next (State.imageForm_stores h ha hf hend hal _)
  case getRing => exact completes_of_next (State.imageForm_stores h ha hf hend hal _)
  case rings =>
    rintro r h rfl hv
    exact ⟨fun harr hd => ⟨fun r' => rgpush_fits h hv harr hd, rgpush_full h hv harr hd⟩, rgpop_holds h hv, rgpop_lacks h hv⟩

end Sys2Proof.Machine

/-! SUPPORT. The copy engine's instructions (spec/11 R261-R270): a command that its checks and its queue let in, and waits that are
over. -/
namespace Sys2Proof.Machine

open Sys2Proof.Spec
set_option Elab.async false

/-- An engine command whose queue has room goes on, with no fence that holds it back. -/
theorem State.accept_room {s : State} {p : Prop} [Decidable p] (hp : ¬p) (hf : s.me.fenced = false) (sub : Nat) (body : Out) :
    s.accept (decide p) sub body = body := by
  rw [State.accept, decide_eq_false hp, hf]
  rfl

/-! ### `ccopy` (R262-R265) -/

/-- The copy that `ccopy` asks for: the maps as they stand, none at the destination of a copy into a stream. -/
def State.ccopyJob (s : State) (a b : BitVec 4) (x y : BitVec 3) (w : BitVec 1) (j : BitVec 3) (k : BitVec 2) : CopyJob :=
  .copy (s.me.tmap x.toNat) (if k = 2 then [] else s.me.tmap y.toNat) (s.readG a) (s.readG b) k.toNat j.toNat (w = 1)
    (parseMap (s.me.tmap x.toNat)).bytes
/-- The maps of a copy pass the checks of R263, those of a copy into a stream its own. -/
def State.ccopyOk (s : State) (a b : BitVec 4) (x y : BitVec 3) (k : BitVec 2) : Bool :=
  if k = 2 then s.streamOk (parseMap (s.me.tmap x.toNat)) (s.readG a)
  else s.copyOk (parseMap (s.me.tmap x.toNat)) (parseMap (if k = 2 then [] else s.me.tmap y.toNat)) (s.readG a) (s.readG b)
theorem State.ccopyOk_eq_true {s : State} {a b : BitVec 4} {x y : BitVec 3} {k : BitVec 2}
    (hcopy : k ≠ 2 → s.copyOk (parseMap (s.me.tmap x.toNat)) (parseMap (if k = 2 then [] else s.me.tmap y.toNat)) (s.readG a)
      (s.readG b) = true)
    (hstream : k = 2 → s.streamOk (parseMap (s.me.tmap x.toNat)) (s.readG a) = true) : s.ccopyOk a b x y k = true := by
  by_cases hk : k = 2
  · exact (if_pos hk).trans (hstream hk)
  · exact (if_neg hk).trans (hcopy hk)

section
variable {s : State} {a b : BitVec 4} {x y : BitVec 3} {w : BitVec 1} {j : BitVec 3} {k q : BitVec 2} (h : Ready s [a, b] [a, b])
  (ha : s.me.acquiring = false) (hf : s.me.fenced = false) (hroom : (s.me.copyQ q.toNat).entries.length < 16)
  (hok : s.ccopyOk a b x y k = true)
include h ha hf hroom hok

/-- A copy whose maps and object pass their checks enters its queue when PENDING of its barrier has room for its bytes. -/
theorem exec_ccopy_accepted
    (hobject : ¬((k = 3 ∧ (!(s.me.ring j.toNat).valid) = true) ∨ (k = 1 ∧ (s.me.barrier j.toNat).scope = 0))) :
    exec (.ccopy a b x y w j k q) s = s.finish (
      if k = 1 ∧ pendingTop < (s.me.barrier j.toNat).pending + (parseMap (s.me.tmap x.toNat)).bytes then .wait s
      else .next ((if k = 1 then s.setPending s.cur j.toNat (· + (parseMap (s.me.tmap x.toNat)).bytes) else s).pushCopy q.toNat
        (s.ccopyJob a b x y w j k))) := by
  have hbad : ¬((!s.ccopyOk a b x y k) = true) := by rw [hok]; exact Bool.false_ne_true
  refine congrArg s.finish ((State.gate_ready h _).trans ?_)
  rw [ha]
  exact (if_neg Bool.false_ne_true).trans ((if_neg hbad).trans ((if_neg hobject).trans
    (State.accept_room (Nat.not_le.2 hroom) hf 2 _)))
theorem ccopy_unbarred (hk : k ≠ 1) (hring : k = 3 → (s.me.ring j.toNat).valid = true) :
    Completes (.ccopy a b x y w j k q) s (s.pushCopy q.toNat (s.ccopyJob a b x y w j k)) := by
  refine completes_of_next ?_ (exec_ccopy_accepted h ha hf hroom hok ?_)
  · rw [if_neg fun hw => hk hw.1, if_neg hk]
  · rintro (⟨h3, hinvalid⟩ | ⟨h1, -⟩)
    · rw [hring h3] at hinvalid
      exact Bool.false_ne_true hinvalid
    · exact hk h1
theorem ccopy_barred (hk : k = 1) (hscope : (s.me.barrier j.toNat).scope ≠ 0)
    (hpend : (s.me.barrier j.toNat).pending + (parseMap (s.me.tmap x.toNat)).bytes ≤ 2 ^ 28 - 1) :
    Completes (.ccopy a b x y w j k q) s ((s.setPending s.cur j.toNat (· + (parseMap (s.me.tmap x.toNat)).bytes)).pushCopy q.toNat
      (s.ccopyJob a b x y w j k)) := by
  refine completes_of_next ?_ (exec_ccopy_accepted h ha hf hroom hok ?_)
  · rw [if_neg fun hw => Nat.not_lt.2 hpend hw.2, if_pos hk]
  · rintro (⟨h3, -⟩ | ⟨-, hzero⟩)
    · subst hk
      exact absurd h3 (by decide)
    · exact hscope hzero

end

/-! ### Fences and waits (R268, R269) -/

section
variable {s : State} (ha : s.me.acquiring = false)
include ha

theorem cfence_completes {q : BitVec 2} (m : BitVec 5) (hf : s.me.fenced = false) (hroom : (s.me.copyQ q.toNat).entries.length < 16) :
    Completes (.cfence q m) s
      (s.pushCopy q.toNat (.fence (s.me.queued (m.toNat - if m.toNat.testBit q.toNat then 2 ^ q.toNat else 0)))) := by
  have hexec : exec (.cfence q m) s = s.finish (if s.me.acquiring then .wait s
    else s.accept (16 ≤ (s.me.copyQ q.toNat).entries.length) 2 (.next
      (s.pushCopy q.toNat (.fence (s.me.queued (m.toNat - if m.toNat.testBit q.toNat then 2 ^ q.toNat else 0)))))) := rfl
  refine completes_of_next ?_ hexec
  rw [ha]
  exact (if_neg Bool.false_ne_true).trans (State.accept_room (Nat.not_le.2 hroom) hf 2 _)
/-- `cwait` that issues with nothing in the queues it names has nothing to wait for. -/
theorem cwait_empty {m : BitVec 5} (hfresh : Fresh s) (hk : s.gang.kind = .carry) (hp : s.me.priv = 0)
    (hq : s.me.queued m.toNat = []) : Completes (.cwait m) s s := by
  have hphase : s.gang.phase = .none := hfresh
  have hexec : exec (.cwait m) s = s.finish (s.blocking (
      if s.me.acquiring then .wait s
      else if (s.me.queued m.toNat).isEmpty then .next s
      else .wait (s.modGang fun g => { g with phase := .queues (s.me.queued m.toNat) }).closing)) := by
    show execCwait m s = _
    rw [execCwait, hphase]
  refine completes_of_next ((State.blocking_carry hk hp _).trans ?_) hexec
  rw [ha, hq]
  rfl

end

/-- `cwait` is over when the entries that stood in its queues have completed. -/
theorem cwait_finished {s : State} {m : BitVec 5} {ids : List Nat} (hphase : s.gang.phase = .queues ids)
    (hdone : s.me.unfinished ids = false) : Completes (.cwait m) s s := by
  have hexec : exec (.cwait m) s = s.finish (if s.me.unfinished ids then .wait s.closing else .next s) := by
    show execCwait m s = _
    rw [execCwait, hphase]
  refine completes_of_next ?_ hexec
  rw [hdone]
  rfl

/-- Settles O25: copies by what they are bound to, fences, waits by where they stand, and the status word. -/
theorem copyEngineFormsComplete : Obligations.CopyEngineFormsComplete := by
  refine ⟨?copy, fun s q m ha hf hroom => cfence_completes ha m hf hroom,
    fun s m => ⟨fun ids => cwait_finished, fun hfresh hk hp ha => cwait_empty ha hfresh hk hp⟩,
    fun s a q h => ⟨completes_of_next (State.gate_ready h _), completes_of_next (State.gate_ready h _)⟩⟩
  case copy =>
    intro s a b x y w j k q h ha hf hroom src dst total job hcopy hstream hring
    have hok : s.ccopyOk a b x y k = true := State.ccopyOk_eq_true hcopy hstream
    exact ⟨fun hk => ccopy_unbarred h ha hf hroom hok hk hring, ccopy_barred h ha hf hroom hok⟩

end Sys2Proof.Machine

/-! SUPPORT. The matrix unit's instructions (spec/11 R275-R289): commands that are accepted, and the resumption of one that has
stopped. -/
namespace Sys2Proof.Machine

open Sys2Proof.Spec
set_option Elab.async false

/-! ### Acceptance (R278) -/

/-- A list has no least element only when it is empty. -/
theorem leastBy_eq_none {f : Nat → Nat} {l : List Nat} (h : leastBy f l = none) : l = [] := by
  cases l with
  | nil => rfl
  | cons a as =>
    rw [leastBy] at h
    split at h
    · cases h
    · split at h <;> cases h

section
variable {s : State} {e : MatrixEntry}

/-- A command without a bad field goes on when its barriers are bound and have room, and its queue has room. -/
theorem State.submit_room (hbound : s.unboundFor s.cur e = false) (hroom : s.me.matrixQ.entries.length < 8)
    (hf : s.me.fenced = false) (hpend : s.pendingFull s.cur e = false) : s.submit e none = .next (s.pushMatrix s.cur e) := by
  rw [State.submit, hbound]
  refine (if_neg Bool.false_ne_true).trans ((State.accept_room (Nat.not_le.2 hroom) hf 3 _).trans ?_)
  rw [hpend]
  rfl
theorem State.submit_accepts {gang : Bool} (h : Accepts s e gang) :
    s.submit e (s.badField s.cur e gang) = .next (s.pushMatrix s.cur e) := by
  obtain ⟨hbad, hbound, hroom, hf, hpend⟩ := h
  rw [hbad]
  exact State.submit_room hbound hroom hf hpend
/-- A command that signals no barrier needs none. -/
theorem State.unboundFor_unsignalled (h : e.signals = false) (c : Nat) : s.unboundFor c e = false := by rw [State.unboundFor, h]; rfl
theorem State.pendingFull_unsignalled (h : e.signals = false) (c : Nat) : s.pendingFull c e = false := by rw [State.pendingFull, h]; rfl

end

/-! ### Commands, fences and drains (R275, R285, R286, R288) -/

section
variable {s t : State} {a b : BitVec 4} {e : MatrixEntry}

section
variable (h : Ready s [a] [a]) (hi : ImageAt s t a 64 8)
  (he : e = t.matrixEntry t.cur ((t.me.mem.wordsAt (s.readG a).toNat 8).flatMap fun w => bytesOf w.toNat 8))
include h hi he

theorem State.commandForm_imageAt (gang : Bool) : s.commandForm a gang =
    if gang then t.whenPut (t.submit e (t.badField t.cur e gang)) else t.submit e (t.badField t.cur e gang) := by
  rw [he]
  exact State.imageForm_imageAt hi h _
theorem mcmd_accepted (hacc : Accepts t e false) : Completes (.mcmd a) s (t.pushMatrix t.cur e) :=
  completes_of_next ((State.commandForm_imageAt h hi he false).trans (State.submit_accepts hacc))
/-- A ganged command reads its partners after every earlier access of the gang has been performed. -/
theorem mgang_accepted (hacc : Accepts t e true) (harr : t.gang.arrivedPending t.gang.indices = false) (hd : t.me.drained = true) :
    Completes (.mgang a) s (t.pushMatrix t.cur e) :=
  completes_of_next ((State.commandForm_imageAt h hi he true).trans ((State.whenPut_drained harr hd _).trans
    (State.submit_accepts hacc)))

end

/-- The image of `mfence` has OP 3. -/
theorem op_fenceImage (m : BitVec 4) : imageAt (bytesOf 3 8 ++ bytesOf m.toNat 8 ++ bytesOf 0 48) 0 1 = 3 := rfl
theorem mfence_accepted {m : BitVec 4} (ha : s.me.acquiring = false) (hroom : s.me.matrixQ.entries.length < 8)
    (hf : s.me.fenced = false) (he : e = s.matrixEntry s.cur (bytesOf 3 8 ++ bytesOf m.toNat 8 ++ bytesOf 0 48)) :
    Completes (.mfence m) s (s.pushMatrix s.cur e) := by
  subst he
  have hop : (s.matrixEntry s.cur (bytesOf 3 8 ++ bytesOf m.toNat 8 ++ bytesOf 0 48)).op = 3 := op_fenceImage m
  have hsig : (s.matrixEntry s.cur (bytesOf 3 8 ++ bytesOf m.toNat 8 ++ bytesOf 0 48)).signals = false := by
    rw [MatrixEntry.signals, hop]
    rfl
  refine completes_of_next (o := if s.me.acquiring then .wait s else s.submit _ none) ?_
  rw [ha]
  exact State.submit_room (State.unboundFor_unsignalled hsig _) hroom hf (State.pendingFull_unsignalled hsig _)
/-- A drain with no bad field, in a register with no bit set that it does not use. -/
theorem mdrain_accepted {o t c : BitVec 3} (h : Ready s [a, b] [a, b]) (ha : s.me.acquiring = false)
    (hfield : fieldOf (s.readG a) 63 3 = 0)
    (he : e = s.matrixEntry s.cur (drainImage (fieldOf (s.readG a) 2 0) t.toNat o.toNat
      (8 * bnat (c.getLsbD 0) + 4 * bnat (c.getLsbD 1)) (bnat (c.getLsbD 2)) (s.readG b)))
    (hacc : Accepts s e false) : Completes (.mdrain a b o t c) s (s.pushMatrix s.cur e) := by
  subst he
  obtain ⟨hbad, hbound, hroom, hf, hpend⟩ := hacc
  have hnone := leastBy_eq_none hbad
  refine completes_of_next ((State.gate_ready h _).trans ?_)
  rw [ha, hfield]
  refine Eq.trans ?_ (State.submit_room hbound hroom hf hpend)
  refine congrArg (s.submit _) ?_
  dsimp only
  rw [hnone]
  rfl

end

/-! ### Resumption (R284) -/

section
variable {s : State} {e : MatrixEntry} {es : List MatrixEntry}

theorem exec_mresume_cons (hq : s.me.matrixQ.entries = e :: es) : exec .mresume s = s.finish (
    if s.me.matrixQ.cause = 0 then .next s
    else if e.op = 0 ∧ e.steps < s.me.mprog.toNat then s.badCommand 0x0C
    else .next (s.modMe fun k =>
      let x := k.modMatrix fun e => { e with fresh := true }
      { x with matrixQ := { x.matrixQ with cause := 0 } })) := by
  show execMresume s = _
  rw [execMresume, hq]
theorem exec_mresumeAbort_cons (hq : s.me.matrixQ.entries = e :: es) : exec .mresumeAbort s = s.finish (
    if s.me.matrixQ.cause = 0 then .next s else .next ((s.giveBack s.cur e).popMatrix s.cur)) := by
  show execMresumeAbort s = _
  rw [execMresumeAbort, hq]
/-- A queue that is empty, or has not stopped, has nothing to resume or to discard. -/
theorem mresume_empty (hq : s.me.matrixQ.entries = []) : Completes .mresume s s ∧ Completes .mresumeAbort s s := by
  refine ⟨completes_of_next (o := .next s) rfl ?_, completes_of_next (o := .next s) rfl ?_⟩
  · show execMresume s = _
    rw [execMresume, hq]
  · show execMresumeAbort s = _
    rw [execMresumeAbort, hq]
theorem mresume_unstopped (hc : s.me.matrixQ.cause = 0) : Completes .mresume s s ∧ Completes .mresumeAbort s s := by
  cases hq : s.me.matrixQ.entries with
  | nil => exact mresume_empty hq
  | cons e es =>
    exact ⟨completes_of_next (if_pos hc) (exec_mresume_cons hq), completes_of_next (if_pos hc) (exec_mresumeAbort_cons hq)⟩

end

/-- Settles O26: commands, fences and drains by their acceptance, resumption by the head of the queue, and the status words. -/
theorem matrixFormsComplete : Obligations.MatrixFormsComplete := by
  refine ⟨fun s t a e h hi he => ⟨mcmd_accepted h hi he, mgang_accepted h hi he⟩,
    fun s m e ha hroom hf => mfence_accepted ha hroom hf, fun s a b o t c e => mdrain_accepted,
    fun s => ⟨?unstopped, fun e es hq hc => ⟨fun hk => ?resumed, ?aborted⟩⟩,
    fun s a h => ⟨completes_of_next (State.gate_ready h _), completes_of_next (State.gate_ready h _)⟩⟩
  case unstopped => exact fun h => h.elim mresume_empty mresume_unstopped
  case resumed => exact completes_of_next ((if_neg hc).trans (if_neg hk)) (exec_mresume_cons hq)
  case aborted => exact completes_of_next (if_neg hc) (exec_mresumeAbort_cons hq)

end Sys2Proof.Machine

/-! SUPPORT. The engines at work (spec/11 R264-R289, spec/18 R413-R426): what each event does, by what stands at the head of its
queue or what the unit of its cluster has taken. -/
namespace Sys2Proof.Machine

open Sys2Proof.Spec
set_option Elab.async false

/-! ### The copy engine (R265, R268, spec/18 R426) -/

section
variable {s : State} {core q : Nat} {x : CopyEntry} {es : List CopyEntry} (hends : s.copyEnds core q = true)
  (hq : ((s.core core).copyQ q).entries = x :: es)
include hends hq

theorem copyCompletion_fence {ids : List Nat} (hx : x.job = .fence ids) :
    Does (.copyCompletion core q) s (s.setCore core ((s.core core).popCopy q)).wake := by
  show execCopyCompletion core q s = _
  simp only [execCopyCompletion, hends, hq, hx]
  rfl
/-- A copy that reports to a barrier arrives there, under ARR. -/
theorem copyCompletion_barrier {src dst : List Word} {ao bo : Word} {obj total : Nat} {arr : Bool}
    (hx : x.job = .copy src dst ao bo 1 obj arr total) : Does (.copyCompletion core q) s
      (if arr then ((s.setCore core ((s.core core).popCopy q)).arriveBarrier core obj 1 none)
       else s.setCore core ((s.core core).popCopy q)).wake := by
  show execCopyCompletion core q s = _
  simp only [execCopyCompletion, hends, hq, hx]
  cases arr <;> rfl

end

/-- A record that found no grant is dropped into the recorder, and what waited for its delivery goes on. -/
theorem chunkRecordDrop_does {s : State} {src : Source} {id : Nat} {o : Outbound} {ws : List Datum}
    (ho : (s.outsOf src).find? (fun o => o.msg.id = id && o.fault && !o.granted && !o.sent) = some o) (hb : o.msg.body = .data ws) :
    Does (.chunkRecordDrop src id) s
      (o.after.foldl (State.pushAs · o.stamp) ((((s.dropOut src id).withdraw o.ask).recordVerifier src 0x0E
        (((ws.drop 1).take 2).map (·.val))).setLost src o.verifier true)).wake := by
  show execChunkRecordDrop src id s = _
  simp only [execChunkRecordDrop, ho, hb]

/-! ### Arbitration (R281, R289) -/

/-- Heads start, and the next seat in round-robin whose head can proceed is taken. -/
theorem matrixArbitration_takes {s t : State} {n x c : Nat} (ha : s.arbitrates n = true)
    (ht : t = (s.seats n).foldl (fun t p => t.startMatrix p.2) s)
    (hnext : leastBy (fun x => (x + 7 - (t.cluster n).pointer) % 8)
      (((s.seats n).filter fun p => (t.requests p.2).isSome).map (·.1)) = some x)
    (hseat : (s.seats n).find? (·.1 = x) = some (x, c)) :
    Does (.matrixArbitration n) s (t.modCluster n fun u => { u with pointer := x, turn := (t.requests c).getD .idle }) := by
  subst ht
  show execMatrixArbitration n s = _
  simp only [execMatrixArbitration, ha, hnext, Option.bind_some, hseat]
  rfl

/-! ### What the unit has taken (R280-R286) -/

/-- The turn of a unit as its step leaves it. -/
theorem State.turn_endTurn_wake (s : State) (n : Nat) (turn : Turn) : ((s.endTurn n turn).wake.cluster n).turn = turn := by
  show (mget {} (mput s.clusters n _) n : Cluster).turn = turn
  rw [mget_mput, if_pos rfl]

section
variable {s : State} {n c : Nat} {e : MatrixEntry}

/-- A k-step whose A lines stop is not made: the head stops. -/
theorem matrixKStep_stops {t : State} {stop : Nat × Nat × Word} (hturn : (s.cluster n).turn = .kstep c)
    (hhead : (s.core c).matrixHead = some e)
    (hread : s.readBands c e (s.core c).mprog.toNat (e.parts c) = (t, .error stop)) :
    Does (.matrixKStep n) s ((t.stopMatrix c stop).endTurn n) := by
  show execMatrixKStep n s = _
  simp only [execMatrixKStep, hturn, hhead, hread]
/-- The state after a k-step: the bands updated from the lines read, the heads of the rings and MPROG risen. -/
def State.afterKStep (u : State) (n c : Nat) (e : MatrixEntry) (k : Nat) (bands : List (List (List Num))) (bs : List (List Num)) : State :=
  let t := ((e.parts c).zip bands).foldl (fun t p => t.updateBand p.1.1 p.1.2 e k p.2 bs) u
  let t := (e.rings c).foldl (fun t r => t.modCore r.1 fun x => x.setRing r.2 ((x.ring r.2).setHead ((x.ring r.2).head + 1))) t
  (((t.setMprog ((e.parts c).map (·.1)) (k + 1)).endTurn n (if k + 1 = e.steps && !e.drains then .complete c else .idle)).wake)
theorem matrixKStep_goes {t u : State} {bands : List (List (List Num))} {bs : List (List Num)}
    (hturn : (s.cluster n).turn = .kstep c) (hhead : (s.core c).matrixHead = some e)
    (hA : s.readBands c e (s.core c).mprog.toNat (e.parts c) = (t, .ok bands))
    (hB : t.readB c e (s.core c).mprog.toNat = (u, .ok bs)) :
    Does (.matrixKStep n) s (u.afterKStep n c e (s.core c).mprog.toNat bands bs) := by
  show execMatrixKStep n s = _
  simp only [execMatrixKStep, hturn, hhead, hA, hB]
  rfl
theorem matrixSetContext_does (hturn : (s.cluster n).turn = .setCtx c) (hhead : (s.core c).matrixHead = some e) :
    Does (.matrixSetContext n) s (((s.setFormatCtx c ((s.formatCtx c).apply e)).popMatrix c).endTurn n) := by
  show execMatrixSetContext n s = _
  simp only [execMatrixSetContext, hturn, hhead]
theorem matrixFence_does (hturn : (s.cluster n).turn = .fence c) : Does (.matrixFence n) s ((s.popMatrix c).endTurn n) := by
  show execMatrixFence n s = _
  simp only [execMatrixFence, hturn]
/-- A command that signals no barrier completes: MDRAW of its partners rises by KS, and what it holds is given back. -/
theorem matrixCompletion_unsignalled (hturn : (s.cluster n).turn = .complete c) (hhead : (s.core c).matrixHead = some e)
    (hsig : e.signals = false) : Does (.matrixCompletion n) s (((((e.parts c).foldl (fun t p => t.setFormatCtx p.1
      { t.formatCtx p.1 with mdraw := (t.formatCtx p.1).mdraw + BitVec.ofNat 32 e.steps }) s).giveBack c e).popMatrix c).endTurn n) := by
  show execMatrixCompletion n s = _
  simp only [execMatrixCompletion, hturn, hhead, hsig]
  rfl

end

/-! ### Drains (R285, spec/18 R418, R419) -/

/-- The units of bands that have passed their check are all written, held chunks or not (R419). -/
theorem units_kept_of_passed {bands : List Band} (hok : ∀ b ∈ bands, b.ok ≠ some false) (hold : Bool) :
    (bands.flatMap fun b => b.units.filter fun _ => !(hold && decide (b.ok = some false))) = bands.flatMap (·.units) := by
  refine List.flatMap_congr fun b hb => List.filter_eq_self.2 fun _ _ => ?_
  rw [decide_eq_false (hok b hb), Bool.and_false]
  rfl
/-- What a drain of units whose bands have passed their check writes, and what its chunks report. -/
def State.writeDrain (s : State) (c : Nat) (m : TMap) (off : Word) (units : List (Nat × Nat × List Byte × Bool)) :
    State × List (Source × List Word) :=
  if m.checked then s.drainChunks c m off units [] (List.range (m.bytes / 256))
  else (units.foldl (fun t u => (t.engineFills c m.own (m.at2 off u.1 u.2.1) u.2.2.1.length).performWrites
    (t.engineWrites c m.own (m.at2 off u.1 u.2.1) (u.2.2.1.map fun x => (x, u.2.2.2)))) s, [])

section
variable {s t : State} {n c : Nat} {e : MatrixEntry} {m : TMap} {off : Word} {bands : List Band}
  (hturn : (s.cluster n).turn = .drain c) (hhead : (s.core c).matrixHead = some e) (hm : m = parseMap e.mapO)
  (hoff : off = w64 (e.at 0x28 8)) (hbands : bands = (e.parts c).mapIdx fun j p => s.bandOf e p.1 p.2 j)
include hturn hhead hm hoff hbands

theorem matrixDrain_stops {stop : Nat × Nat × Word} (hstop : s.drainStop c m off (bands.flatMap (·.units)) = some stop) :
    Does (.matrixDrain n) s (((s.drainFills c m off (bands.flatMap (·.units))).stopMatrix c stop).endTurn n) := by
  show execMatrixDrain n s = _
  simp only [execMatrixDrain, hturn, hhead, ← hm, ← hoff, ← hbands, hstop]
/-- A drain whose bands have passed their check, and of whose chunks none is at fault, reports nothing and is to complete next. -/
theorem matrixDrain_passes (hstop : s.drainStop c m off (bands.flatMap (·.units)) = none) (hok : ∀ b ∈ bands, b.ok ≠ some false)
    (hwrite : s.writeDrain c m off (bands.flatMap (·.units)) = (t, [])) :
    Does (.matrixDrain n) s (((t.owePending c e (· - e.owed)).modCore c
      (·.modMatrix fun e => { e with drained := true, waits := [] })).endTurn n (.complete c)).wake := by
  have hfailed : bands.filter (·.ok = some false) = [] := List.filter_eq_nil_iff.2 fun b hb => by simpa using hok b hb
  rw [State.writeDrain] at hwrite
  show execMatrixDrain n s = _
  simp only [execMatrixDrain, hturn, hhead, ← hm, ← hoff, ← hbands, hstop, hfailed, List.flatMap_nil, List.contains_nil,
    Bool.and_false, Bool.or_false, Bool.not_false, List.filter_true, units_kept_of_passed hok, hwrite]
  rfl

end

/-! ### Pushes to the windows (R274, R279) -/

section
variable {s : State} {core n : Nat} {v : Word}

section
variable {t : State} {p : WindowPush} {img : List Byte} {e : MatrixEntry}
  (himg : p.taken.getD ((s.core core).staging.image (64 * n) 56 ++ bytesOf v.toNat 8, (s.core core).staging.poisoned (64 * n) 56) =
    (img, false))
  (ht : t = if p.taken.isSome then s else s.modCore core fun k => { k with staging := k.staging.store (64 * n + 56) 8 v false })
  (he : e = t.matrixEntry core img) (hbad : t.badField core e false = none) (hbound : t.unboundFor core e = false)
include himg ht he hbad hbound

/-- A command of the window with no poisoned word, no bad field and bound barriers is accepted, or stands by with its contents. -/
theorem exec_matrixWindowPush_valid : exec (.matrixWindowPush core n v p) s = .next
    (if t.pushWaits core e || (p.taken.isNone && t.pushStands core)
      then t.push (.matrixWindowPush core n v { p with taken := some (img, false) })
      else (t.pushMatrix core e).ackWindow p.ack).wake := by
  show execMatrixWindowPush core n v p s = _
  simp only [execMatrixWindowPush, himg, ← ht, ← he, hbad, hbound]
  rfl
/-- One just stored waits behind those that stand by; one that stands by goes when the queue has room. -/
theorem matrixWindowPush_accepted (hwaits : t.pushWaits core e = false) (hstands : p.taken.isNone = true → t.pushStands core = false) :
    Does (.matrixWindowPush core n v p) s ((t.pushMatrix core e).ackWindow p.ack).wake := by
  refine (exec_matrixWindowPush_valid himg ht he hbad hbound).trans ?_
  have hgo : (p.taken.isNone && t.pushStands core) = false := by
    cases hp : p.taken.isNone with
    | false => rfl
    | true => exact hstands hp
  rw [hwaits, hgo]
  rfl
theorem matrixWindowPush_standsBy (hwaits : t.pushWaits core e = true) : Does (.matrixWindowPush core n v p) s
    (t.push (.matrixWindowPush core n v { p with taken := some (img, false) })).wake := by
  refine (exec_matrixWindowPush_valid himg ht he hbad hbound).trans ?_
  rw [hwaits]
  rfl

end

/-- A store of a count to a ring's window is a push (R274). -/
theorem ringWindowPush_fits {ack : Option (Nat × List Nat)} {r : RingDesc} (hv : ((s.core core).ring n).valid = true)
    (hr : ((s.core core).ring n).push v.toNat = some r) :
    Does (.ringWindowPush core n v ack) s (((s.modCore core (·.setRing n r)).ackWindow ack).wake) := by
  show execRingWindowPush core n v ack s = _
  simp only [execRingWindowPush, State.pushRing, hv, hr, if_true]

end

/-- Settles O35, event by event. -/
theorem engineEventsComplete : Obligations.EngineEventsComplete := by
  intro s core q n e v ack
  refine ⟨rfl, rfl, fun x es ids hends hq => copyCompletion_fence hends hq,
    fun x es src dst ao bo obj arr total hends hq => copyCompletion_barrier hends hq, fun src id o ws => chunkRecordDrop_does,
    fun ha t x c => matrixArbitration_takes ha, fun c stop t => matrixKStep_stops, fun c t u bands bs => matrixKStep_goes,
    fun c hturn hhead => ?drain, fun c => matrixSetContext_does, fun c => matrixFence_does, fun c => matrixCompletion_unsignalled,
    ?push, ?again, fun r => ringWindowPush_fits⟩
  case drain =>
    intro m off bands
    refine ⟨fun stop => matrixDrain_stops hturn hhead rfl rfl rfl, fun hstop hok => ⟨fun hm => ?plain, fun hm hfaults => ?checked⟩⟩
    case plain => exact matrixDrain_passes hturn hhead rfl rfl rfl hstop hok (if_neg (Bool.not_eq_true _ ▸ hm))
    case checked =>
      have hwrite : s.writeDrain c m off (bands.flatMap (·.units)) =
          ((s.drainChunks c m off (bands.flatMap (·.units)) [] (List.range (m.bytes / 256))).1, []) :=
        (if_pos hm).trans (Prod.ext rfl hfaults)
      exact ⟨_, matrixDrain_passes hturn hhead rfl rfl rfl hstop hok hwrite, State.turn_endTurn_wake _ n _⟩
  case push =>
    intro x t hpoison img ht himg hx hbad hbound
    have htaken : (none : Option (List Byte × Bool)).getD ((s.core core).staging.image (64 * n) 56 ++ bytesOf v.toNat 8,
        (s.core core).staging.poisoned (64 * n) 56) = (img, false) := by rw [himg, hpoison]; rfl
    exact ⟨fun hwaits hstands => matrixWindowPush_accepted (p := ⟨ack, none⟩) htaken ht hx hbad hbound hwaits fun _ => hstands,
      matrixWindowPush_standsBy (p := ⟨ack, none⟩) htaken ht hx hbad hbound⟩
  case again =>
    intro x img hx hbad hbound hwaits
    exact matrixWindowPush_accepted (p := ⟨ack, some (img, false)⟩) rfl rfl hx hbad hbound hwaits (absurd · Bool.false_ne_true)

end Sys2Proof.Machine

/-! SUPPORT. System instructions at the levels at which they run (spec/12 R299, Table 12-2), and `sget` and `sset` (R300, spec/01 R33,
R34). -/
namespace Sys2Proof.Machine

open Sys2Proof.Spec
set_option Elab.async false

/-! ### Levels (R299) -/

section
variable {s : State} {ls : List Nat}

theorem State.atLevels_mem (h : s.me.priv.toNat ∈ ls) (body : Out) : s.atLevels ls body = body :=
  if_pos (List.contains_iff_mem.2 h)
theorem State.atLevels_not_mem (h : s.me.priv.toNat ∉ ls) (body : Out) : s.atLevels ls body = s.trapHere 0x02 0 :=
  if_neg (mt List.contains_iff_mem.1 h)
theorem State.atLevels_one (h : s.me.priv = 1) (body : Out) : s.atLevels [1] body = body :=
  State.atLevels_mem (by rw [h]; decide) body
theorem State.atLevels_zero_one (h : s.me.priv = 0 ∨ s.me.priv = 1) (body : Out) : s.atLevels [0, 1] body = body :=
  State.atLevels_mem (by obtain h | h := h <;> rw [h] <;> decide) body
theorem State.atLevels_one_two (h : s.me.priv = 1 ∨ s.me.priv = 2) (body : Out) : s.atLevels [1, 2] body = body :=
  State.atLevels_mem (by obtain h | h := h <;> rw [h] <;> decide) body

end

/-- A system instruction checks its level before anything else. -/
theorem exec_levelsOf {i : Instr} {ls : List Nat} (h : levelsOf i = some ls) (s : State) :
    ∃ body, exec i s = s.finish (s.atLevels ls body) := by
  cases i
  case scall | tret | halt | sstep | sstepLn | cldw | cldwW | chrd | chwr | wpset | xlinv | xlinvLg | xlinvAll | ebrd | ebrdClr | inj |
      idle =>
    cases h
    exact ⟨_, rfl⟩
  all_goals cases h
/-- The registers that Table 1-4 marks P at level 0. -/
theorem rightOf_privileged {n : Nat} (h : 0x10 ≤ n ∧ n ≤ 0x16 ∨ n = 0x18) : rightOf n 0 = .privileged := by
  have hlow : n ≠ 0x0A ∧ n ≠ 0x0C ∧ ¬(n = 0x0D ∨ n = 0x0E) := by omega
  obtain ⟨ha, hc, hde⟩ := hlow
  obtain h | rfl := h
  · simp only [rightOf, if_neg ha, if_neg hc, if_neg hde, if_pos h, if_true]
  · rfl

/-! ### `sget` and `sset` (R300) -/

section
variable {s : State} {d : BitVec 4} {n : BitVec 8}

section
variable (hr : rightOf n.toNat s.me.priv.toNat = .privileged)
include hr

theorem exec_sget_privileged : exec (.sget d n) s = s.finish (s.trapHere 0x02 0) := congrArg s.finish (if_pos hr)
theorem exec_sset_privileged : exec (.sset d n) s = s.finish (s.trapHere 0x02 0) := congrArg s.finish (if_pos hr)

end

section
variable (hr : rightOf n.toNat s.me.priv.toNat ≠ .privileged)
include hr

section
variable (hl : laneSpecial n.toNat = true)
include hl

/-- A lane register is read into every lane, and into its `lt`. -/
theorem sget_lane (h : LanesReady s 0 s.gang.active [] [ltNum, d.toNat]) : Completes (.sget d n) s
    (inLanes s s.gang.active fun i l => l.write d.toNat (l.special n.toNat i) false) :=
  completes_laneGate h (congrArg s.finish ((if_neg hr).trans (if_pos hl)))
/-- DRAW is written from every lane; another lane register may only be read. -/
theorem sset_lane (h : LanesReady s 0 s.gang.active [d.toNat] [d.toNat]) : Completes (.sset d n) s
    (if rightOf n.toNat s.me.priv.toNat = .readOnly then s
     else inLanes s s.gang.active fun _ l => { l with draw := (l.read d.toNat).setWidth 32 }) := by
  refine completes_of_next ((if_neg hr).trans ((if_pos hl).trans ((State.laneGate_ready h _).trans ?_)))
  split <;> rfl

end

section
variable (hl : laneSpecial n.toNat = false)
include hl

theorem sget_gang (h : Ready s [] [d]) : Completes (.sget d n) s (s.writeG d (s.special n.toNat)) :=
  completes_of_next ((if_neg hr).trans ((if_neg (Bool.not_eq_true _ ▸ hl)).trans (State.gate_ready h _)))
theorem sset_gang (h : Ready s [d] [d]) : Completes (.sset d n) s
    (if rightOf n.toNat s.me.priv.toNat = .readOnly then s else s.setSpecial n.toNat (s.readG d)) :=
  completes_of_next ((if_neg hr).trans ((if_neg (Bool.not_eq_true _ ▸ hl)).trans (State.gate_ready h _)))

end

end

end

/-- Settles O28: a register is one of the lanes', or one of the core's. -/
theorem specialRegisterFormsComplete : Obligations.SpecialRegisterFormsComplete :=
  fun _ _ _ hr => ⟨fun hl => ⟨sget_lane hr hl, sset_lane hr hl⟩, fun hl => ⟨sget_gang hr hl, sset_gang hr hl⟩⟩

/-- Settles O53: a system instruction by its levels, an access to a special register by the right that level 0 has to it. -/
theorem privilegedTraps : Obligations.PrivilegedTraps := by
  intro s
  refine ⟨fun i ls hi hp => ?instruction, fun d n hp hn => ?register⟩
  case instruction =>
    obtain ⟨body, hexec⟩ := exec_levelsOf hi s
    rw [hexec, State.atLevels_not_mem hp]
    rfl
  case register =>
    have hn' : 0x10 ≤ n.toNat ∧ n.toNat ≤ 0x16 ∨ n.toNat = 0x18 := hn.imp_right (congrArg BitVec.toNat)
    have hr : rightOf n.toNat s.me.priv.toNat = .privileged := by rw [hp]; exact rightOf_privileged hn'
    exact ⟨exec_sget_privileged hr, exec_sset_privileged hr⟩

end Sys2Proof.Machine

/-! SUPPORT. Traps (spec/12 R292-R296): the core that enters its trap routine, and the core that returns from it; the calls that are
traps (R301, R305). -/
namespace Sys2Proof.Machine

open Sys2Proof.Spec
set_option Elab.async false

/-! ### Taking a trap (R292-R295) -/

theorem mfind_mput_ne {α : Type} (m : List (Nat × α)) {i j : Nat} (v : α) (h : j ≠ i) : mfind (mput m i v) j = mfind m j := by
  induction m with
  | nil => exact if_neg h
  | cons e m ih =>
    rw [mput_cons]
    split_ifs with hlt heq
    · exact if_neg h
    · subst heq; simp only [mfind, if_neg h]
    · simp only [mfind, ih]

/-- A core's record changes the recorder of its die alone. -/
theorem State.recordCore_eq (s : State) (c type : Nat) (ws : List Word) : ∃ m, s.recordCore c type ws = { s with recorders := m } ∧
    ∀ d, d ≠ s.dieOf c → mfind m d = mfind s.recorders d := by
  unfold State.recordCore
  split <;> exact ⟨_, rfl, fun d hd => mfind_mput_ne _ _ hd⟩

/-- A gang as its trap routine begins: the queue stands at the entry, a step request stands aside (R293, R294). -/
def Gang.trapped (g : Gang) (k : Core) (c : Cause) : Gang :=
  { g.startAt k (codeAddr trapRoutine 0) with
    phase := .none, waiting := false, xferIn := none, walking := [], missed := [], walked := [],
    step := .off, stepArmed := g.step, breakDue := k.breakDue g c }

section
variable (k : Core) (c : Cause)

theorem Core.gang_enter_some (i : Nat) : (k.enter (some i) c).gang = (k.at i).trapped k c :=
  (Core.at_setAt _ i i _).trans (if_pos rfl)
theorem Core.gang_enter_none : (k.enter none c).gang = ({ lanes := [{}], grant := 1 } : Gang).trapped k c :=
  (Core.at_setAt _ 4 4 _).trans (if_pos rfl)
theorem Core.at_enter_none {j : Nat} (h : j ≠ 4) : (k.enter none c).at j = k.at j :=
  (Core.at_setAt _ 4 j _).trans (if_neg h)

end

/-- TRAP_CAUSE holds the cause above its subcode. -/
theorem toNat_trapCause {code sub : Nat} (hcode : code < 256) (hsub : sub < 256) :
    (BitVec.ofNat 16 (code * 256 + sub)).toNat = code * 256 + sub := by
  rw [BitVec.toNat_ofNat]; omega

section
variable (s : State) (slot : Option Nat) (c : Cause)

/-- A trap changes the acting core, and at most the recorder of its die. -/
theorem State.enterTrap_eq : ∃ m, s.enterTrap slot c = { s.modMe (·.enter slot c) with recorders := m } ∧
    ∀ d, d ≠ s.dieOf s.cur → mfind m d = mfind s.recorders d := by
  unfold State.enterTrap
  dsimp only
  split
  · exact State.recordCore_eq (s.modMe (·.enter slot c)) s.cur _ _
  · exact ⟨_, rfl, fun _ _ => rfl⟩
@[simp] theorem State.me_enterTrap : (s.enterTrap slot c).me = s.me.enter slot c := by
  obtain ⟨m, h, -⟩ := s.enterTrap_eq slot c
  rw [h]
  exact s.me_modMe (·.enter slot c)
theorem State.gang_enterTrap : (s.enterTrap slot c).gang = (s.me.enter slot c).gang := congrArg Core.gang (s.me_enterTrap slot c)
/-- Everything outside the acting core is as it was, but for the recorder of its die. -/
theorem State.enterTrap_frame : { s.enterTrap slot c with cores := s.cores, recorders := s.recorders } = s ∧
    (∀ j, j ≠ s.cur → (s.enterTrap slot c).core j = s.core j) ∧
    ∀ d, d ≠ s.dieOf s.cur → mfind (s.enterTrap slot c).recorders d = mfind s.recorders d := by
  obtain ⟨m, h, hm⟩ := s.enterTrap_eq slot c
  rw [h]
  exact ⟨rfl, fun j => s.core_modMe_ne (·.enter slot c), hm⟩

end

/-- At level 0 a trap is taken into the trap routine, unless it is one of level 2 (R297, R301). -/
theorem State.takeTrap_levelZero {s : State} {c : Cause} (hp : s.me.priv = 0) (hpoison : c.code ≠ 0x0E) (hcall : c.code ≠ 0x13) :
    s.takeTrap c = s.enterTrap (some s.me.slot) c :=
  (if_neg hpoison).trans ((if_neg hcall).trans (if_pos hp))

/-- Settles O49: the core enters its routine as `Core.enter` says; the rest is the frame of a trap. -/
theorem trapEntryRule : Obligations.TrapEntryRule := by
  intro s c
  refine ⟨fun hp hpoison hcall hcode hsub => ⟨_, State.takeTrap_levelZero hp hpoison hcall, ?gang⟩, _, rfl, ?system⟩
  all_goals rw [State.me_enterTrap, State.gang_enterTrap]
  case gang =>
    rw [Core.gang_enter_some]
    exact ⟨rfl, toNat_trapCause hcode hsub, rfl, rfl, rfl, rfl, rfl, rfl, rfl, rfl, rfl, rfl, rfl, rfl, rfl, s.enterTrap_frame _ c⟩
  case system =>
    obtain ⟨hrest, hcores, -⟩ := s.enterTrap_frame none c
    rw [Core.gang_enter_none]
    exact ⟨rfl, rfl, rfl, rfl, rfl, rfl, rfl, rfl, fun j => s.me.at_enter_none c, hrest, hcores⟩

/-! ### Returning from a trap (R296) -/

/-- The interrupted gang as `tret` leaves it: the queue reloaded, no entry annulled. -/
def Gang.returned (g : Gang) (k : Core) : Gang :=
  { g with q0 := k.xpc0, q1 := k.xpc1, q2 := k.xpc2, ann0 := false, ann1 := false, ann2 := false,
           skipBreak := g.breakDue ≠ some k.xpc0,
           halted := g.halted || g.haltAtTret || g.haltAsked, haltAtTret := false, haltAsked := false,
           step := g.stepArmed, stepArmed := .off, waiting := false, xferIn := none }

section
variable (k : Core)

@[simp] theorem Core.leave_priv : k.leave.priv = 0 := by
  unfold Core.leave; split <;> rfl
@[simp] theorem Core.leave_trapBank : k.leave.trapBank = k.trapBank := by
  unfold Core.leave; split <;> rfl
theorem Core.at_leave_gang {i : Nat} (ho : k.owner = .gang i) : k.leave.at i = (k.at i).returned k := by
  have hleave : k.leave.gangs = (k.leaveGang i).wake.gangs := by rw [Core.leave, ho]; rfl
  rw [Core.at, hleave]
  refine (Core.at_wake _ i).trans ?_
  rw [Core.leaveGang, Core.at_setAt, if_pos rfl]
  rfl
theorem Core.at_leave_system (ho : k.owner = .system) (j : Nat) :
    k.leave.at j = if j = 4 then {} else { k.at j with waiting := false } := by
  have hleave : k.leave.gangs = k.leaveSystem.wake.gangs := by rw [Core.leave, ho]; rfl
  rw [Core.at, hleave]
  refine (Core.at_wake _ j).trans ?_
  rw [Core.leaveSystem, Core.at, mget_mdel]
  split <;> rfl

end

/-- The state as `tret` returns to the gang in a slot; a gang that this leaves in debug halt is told of (R307). -/
def State.returnTo (s : State) (i : Nat) : State :=
  if ((s.setMe s.me.leave).me.at i).halted then (s.setMe s.me.leave).tellHalt s.cur s.me.slot else s.setMe s.me.leave
theorem State.me_returnTo (s : State) (i : Nat) : (s.returnTo i).me = s.me.leave := by
  unfold State.returnTo
  split <;> exact s.me_setMe _

section
variable {s : State}

theorem exec_tret_gang {i : Nat} (hp : s.me.priv = 1) (ho : s.me.owner = .gang i) :
    exec .tret s = .next (stayed s (s.returnTo i)) := by
  show execTret s = _
  simp only [execTret, ho, State.atLevels_one hp, State.finish_stay]
  rfl
theorem exec_tret_system (hp : s.me.priv = 1) (ho : s.me.owner = .system) : exec .tret s = .next (stayed s (s.setMe s.me.leave)) := by
  show execTret s = _
  simp only [execTret, ho, State.atLevels_one hp, State.finish_stay]
  rfl
/-- An Operation that leaves the queue as it is changes nothing more of the core than the slot that issued last. -/
theorem State.me_stayed (s t : State) : ∃ n, (stayed s t).me = { t.me with lastSlot := n } := by
  rw [stayed, State.me_modMe]
  split <;> exact ⟨_, rfl⟩
theorem exec_tret_leave (hp : s.me.priv = 1) (ho : s.me.owner ≠ .none) :
    ∃ t n, exec .tret s = .next t ∧ t.me = { s.me.leave with lastSlot := n } := by
  cases howner : s.me.owner with
  | none => exact absurd howner ho
  | gang i =>
    obtain ⟨n, hme⟩ := s.me_stayed (s.returnTo i)
    exact ⟨_, n, exec_tret_gang hp howner, hme.trans (by rw [State.me_returnTo])⟩
  | system =>
    obtain ⟨n, hme⟩ := s.me_stayed (s.setMe s.me.leave)
    exact ⟨_, n, exec_tret_system hp howner, hme.trans (by rw [State.me_setMe])⟩

/-- A gang that is to pass over its breakpoint has no trap of one (spec/23 R482). -/
theorem State.fetch_error_ne_break {e : Cause} (hs : s.gang.skipBreak = true) (h : s.fetch = .error e) : e.code ≠ 0x0F := by
  have hskip : ¬(s.me.priv = 0 ∧ (!s.gang.skipBreak) = true ∧ s.gang.phase = .none) := by simp [hs]
  simp only [State.fetch, if_neg hskip] at h
  repeat' split at h
  all_goals cases h
  all_goals nofun

end

/-- Settles O51: the core after `tret` is `Core.leave`, but for the slot that issued last. -/
theorem trapReturnRule : Obligations.TrapReturnRule := by
  refine ⟨fun s hp => ⟨fun i ho => ?gang, fun ho => ?system⟩, fun s e => State.fetch_error_ne_break⟩
  all_goals obtain ⟨t, n, ht, hme⟩ := exec_tret_leave hp (by rw [ho]; nofun)
  all_goals refine ⟨t, ht, ?_⟩
  all_goals rw [hme]
  case gang =>
    have hgang : ({ s.me.leave with lastSlot := n } : Core).at i = (s.me.at i).returned s.me := s.me.at_leave_gang ho
    rw [hgang]
    exact ⟨rfl, rfl, rfl, s.me.leave_priv, s.me.leave_trapBank, decide_eq_true, rfl, rfl, rfl, rfl, rfl⟩
  case system =>
    have hat := s.me.at_leave_system ho
    exact ⟨s.me.leave_priv, s.me.leave_trapBank, (hat 4).trans (if_pos rfl), fun j hj => (hat j).trans (if_neg hj)⟩

/-! ### Calls and breakpoints (R301, R305) -/

/-- Settles O29: a call and a breakpoint leave their cause behind them, a service its status, and `tret` is as above. -/
theorem callsAndReturnComplete : Obligations.CallsAndReturnComplete := by
  intro s d a n
  refine ⟨fun hp h => ?scall, fun h => ⟨fun hp => ?pcall, fun hp => ?service⟩, rfl, rfl, ?tret⟩
  case scall => exact completes_of_next_after ((State.atLevels_zero_one hp _).trans (State.gate_ready h _))
  case pcall => exact completes_of_next_after ((State.gate_ready h _).trans (if_pos hp))
  case service => exact completes_of_next ((State.gate_ready h _).trans (if_neg hp))
  case tret =>
    rintro hp t rfl
    exact ⟨fun i => exec_tret_gang hp, exec_tret_system hp⟩

end Sys2Proof.Machine

/-! SUPPORT. The instructions of the trap routine (spec/12 R302, R303, R305, R307; spec/23 R480, R482): the registers of the gang that it
has interrupted, debug points, step requests and handler-table entries. -/
namespace Sys2Proof.Machine

open Sys2Proof.Spec
set_option Elab.async false

/-! ### The interrupted gang's registers (R302) -/

theorem Core.interrupted_gang {k : Core} {i : Nat} (ho : k.owner = .gang i) : k.interrupted = some i := by
  rw [Core.interrupted, ho]
theorem Core.interrupted_system {k : Core} (ho : k.owner = .system) : k.interrupted = none := by
  rw [Core.interrupted, ho]
/-- Register N of a gang in a slot, with a value and its poison mark copied into it. -/
def Core.copyInto (k : Core) (i n : Nat) (v : Word) (p : Bool) : Core :=
  k.setAt i { k.at i with g := mset 0 (k.at i).g n v, gPoison := bput (k.at i).gPoison n p }
theorem Core.at_copyInto (k : Core) (i n : Nat) (v : Word) (p : Bool) (j m : Nat) :
    mget 0 ((k.copyInto i n v p).at j).g m = if j = i ∧ m = n then v else mget 0 (k.at j).g m := by
  rw [Core.copyInto, Core.at_setAt]
  by_cases hj : j = i
  · subst hj; simp
  · simp [hj]
theorem Core.at_copyInto_ne (k : Core) (n : Nat) (v : Word) (p : Bool) {i j : Nat} (h : j ≠ i) :
    (k.copyInto i n v p).at j = k.at j :=
  (Core.at_setAt _ i j _).trans (if_neg h)

section
variable {s : State} {d n : BitVec 4} (hp : s.me.priv = 1) (h : Ready s [] [d])
include hp h

section
variable {i : Nat} (ho : s.me.owner = .gang i)
include ho

theorem cldw_gang (hn : (s.me.at i).ownPend n.toNat = false) :
    Completes (.cldw d n) s (s.writeG d ((s.me.at i).own n.toNat) ((s.me.at i).ownBad n.toNat)) := by
  refine completes_of_next ((State.atLevels_one hp _).trans ((State.gate_ready h _).trans ?_))
  simp only [Core.interrupted_gang ho, hn]
  rfl
theorem cldwW_gang (hn : (s.me.at i).ownPend n.toNat = false) (h0 : n ≠ 0) : Completes (.cldwW d n) s
    (s.modMe fun k => k.copyInto i n.toNat (s.readG d) (s.me.poisonG d.toNat)) := by
  refine completes_of_next ((State.atLevels_one hp _).trans ((State.gate_ready h _).trans ?_))
  simp only [Core.interrupted_gang ho, hn, if_neg h0]
  rfl
theorem cldwW_zero : Completes (.cldwW d 0) s s := by
  refine completes_of_next ((State.atLevels_one hp _).trans ((State.gate_ready h _).trans ?_))
  simp only [Core.interrupted_gang ho, if_true]

end

section
variable (ho : s.me.owner = .system)
include ho

theorem cldw_system : Completes (.cldw d n) s (s.writeG d 0) := by
  refine completes_of_next ((State.atLevels_one hp _).trans ((State.gate_ready h _).trans ?_))
  simp only [Core.interrupted_system ho]
theorem cldwW_system : Completes (.cldwW d n) s s := by
  refine completes_of_next ((State.atLevels_one hp _).trans ((State.gate_ready h _).trans ?_))
  simp only [Core.interrupted_system ho]

end

end

/-- At level 1 a gang register is one of the trap bank (spec/01 Table 1-3). -/
theorem State.readG_bank {s : State} {d : BitVec 4} (hp : s.me.priv = 1) (hd : d ≠ 0) : s.readG d = mget 0 s.me.trapBank d.toNat :=
  (if_neg (BitVec.toNat_ne.1 hd)).trans (if_pos hp)
theorem Core.trapBank_writeG {k : Core} {n : Nat} (hp : k.priv = 1) (hn : n ≠ 0) (v : Word) (p : Bool) :
    (k.writeG n v p).trapBank = mset 0 k.trapBank n v := by
  rw [Core.writeG, if_neg hn, if_pos hp]
/-- `g0` of a gang reads zero. -/
theorem Gang.own_eq (g : Gang) (n : BitVec 4) : g.own n.toNat = if n = 0 then 0 else mget 0 g.g n.toNat := by
  by_cases h : n = 0
  · rw [h]; rfl
  · rw [if_neg h]; exact if_neg (BitVec.toNat_ne.1 h)

/-- Settles O52: the bank is read and written at level 1, and a copy goes to or from the gang that the routine has interrupted. -/
theorem interruptedRegistersRule : Obligations.InterruptedRegistersRule := by
  intro s d n hp h
  refine ⟨fun hd => ⟨State.readG_bank hp hd, fun v p => ?bank⟩, fun i ho hn => ⟨?read, fun h0 => ?write, ?zero⟩,
    fun ho => ⟨cldw_system hp h ho, cldwW_system hp h ho⟩⟩
  case bank => rw [State.writeG_eq, State.me_modMe, Core.trapBank_writeG hp (BitVec.toNat_ne.1 hd), mget_mset, if_pos rfl]
  case read => exact Gang.own_eq _ n ▸ cldw_gang hp h ho hn
  case write =>
    refine ⟨_, cldwW_gang hp h ho hn h0, ?_⟩
    rw [State.me_modMe]
    simp only [Core.at_copyInto]
    exact ⟨if_pos ⟨trivial, trivial⟩, fun m hm => if_neg (mt And.right hm), fun j => Core.at_copyInto_ne _ _ _ _⟩
  case zero => rintro rfl; exact cldwW_zero hp h ho

/-! ### Debug points, step requests and handler-table entries (R303, R305, R307) -/

section
variable {s t : State} {d a : BitVec 4} (hp : s.me.priv = 1)
include hp

theorem wpset_completes {k : BitVec 1} {i : BitVec 3} {w0 w1 : Word} {st : Nat} (hi : ImageAt s t a 16 2) (h : Ready s [a] [d, a])
    (h0 : w0 = w64 (t.me.mem.load (s.readG a).toNat 8)) (h1 : w1 = w64 (t.me.mem.load ((s.readG a).toNat + 8) 8))
    (hst : st = t.pointStatus (k = 1) w0 w1) : Completes (.wpset d a k i) s
      ((if st = 0 ∧ t.reachesCtx = true then t.setPoint (k = 1) i.toNat w0 w1 else t).writeG d (w64 st)) := by
  subst h0 h1 hst
  exact completes_of_next ((State.atLevels_one hp _).trans (State.imageForm_imageAt hi h _))
theorem halt_completes : Completes .halt s (s.onInterrupted fun g => { g with haltAtTret := true }) :=
  completes_of_next (State.atLevels_one hp _)
theorem sstep_completes : Completes (.sstep a) s (s.onInterrupted fun g => { g with stepArmed := .gang }) :=
  completes_of_next (State.atLevels_one hp _)
/-- The low five bits of `gA` are the lane. -/
theorem sstepLn_completes (h : Ready s [a] [a]) : Completes (.sstepLn a) s
    (s.onInterrupted fun g => { g with stepArmed := .lane ((s.readG a).toNat % 32) }) := by
  have hlane : fieldOf (s.readG a) 4 0 = (s.readG a).toNat % 32 := by simp [fieldOf]
  exact hlane ▸ completes_of_next ((State.atLevels_one hp _).trans (State.gate_ready h _))

section
variable {c : BitVec 6}

theorem chrd_completes (ha : s.me.acquiring = false) (hf : s.me.fenced = false) (h : Ready s [a] [a])
    (hend : (s.readG a).toNat < 0x18000) (hal : (s.readG a).toNat % 16 = 0) : Completes (.chrd a c) s (s.storeLocal
      [⟨(s.readG a).toNat, 8, (s.me.channel c.toNat).word0, false⟩,
       ⟨(s.readG a).toNat + 8, 8, s.me.channelStatus c.toNat, false⟩]) :=
  completes_of_next ((State.atLevels_one hp _).trans (State.imageForm_stores h ha hf hend hal _))

section
variable (hi : ImageAt s t a 16 2) (h : Ready s [a] [d, a]) {x : Channel} {st : Nat}
  (hx : x = (t.me.channel c.toNat).written (w64 (t.me.mem.load (s.readG a).toNat 8)) (w64 (t.me.mem.load ((s.readG a).toNat + 8) 8)))
  (hst : st = (if t.me.bindStatus c.toNat x ≠ 0 then t.me.bindStatus c.toNat x
    else if t.me.resident c.toNat ∨ (t.me.channel c.toNat).state = 2 then 4 else 0))
include hi h hx hst

theorem chwr_reports (h0 : st ≠ 0) : Completes (.chwr d a c) s (t.writeG d (w64 st)) := by
  subst hx hst
  exact completes_of_next ((State.atLevels_one hp _).trans ((State.imageForm_imageAt hi h _).trans (if_pos h0)))
theorem chwr_writes (h0 : st = 0) : Completes (.chwr d a c) s
    ((((t.modMe (·.setChannel c.toNat x)).bindRing t.cur c.toNat).regrant t.cur c.toNat).writeG d 0) := by
  subst hx hst
  exact completes_of_next ((State.atLevels_one hp _).trans ((State.imageForm_imageAt hi h _).trans (if_neg (not_not.2 h0))))

end

end

end

/-- Settles O30, form by form. -/
theorem trapRoutineFormsComplete : Obligations.TrapRoutineFormsComplete := by
  intro s t d a n hp
  refine ⟨fun k i w0 w1 st => wpset_completes hp, halt_completes hp, sstep_completes hp, sstepLn_completes hp,
    fun h => ⟨fun i ho hn => ⟨cldw_gang hp h ho hn, cldwW_gang hp h ho hn, ?zero⟩,
      fun ho => ⟨cldw_system hp h ho, cldwW_system hp h ho⟩⟩,
    fun c => ⟨chrd_completes hp, fun x st hi h hx hst => ⟨chwr_reports hp hi h hx hst, chwr_writes hp hi h hx hst⟩⟩⟩
  case zero => rintro rfl; exact cldwW_zero hp h ho

end Sys2Proof.Machine

/-! SUPPORT. Maintenance at levels 1 and 2 (spec/12 R306, R307, R314, R315, R321): error banks, injections, `idle` and invalidations. -/
namespace Sys2Proof.Machine

open Sys2Proof.Spec
set_option Elab.async false

/-- Level 2 may name any bank, level 1 that of its own core (R321). -/
theorem State.not_foreignBank {s : State} {a : BitVec 4} (hown : s.me.priv = 2 ∨ s.readG a = 0) :
    ¬(s.me.priv = 1 ∧ s.readG a ≠ 0) := by
  rintro ⟨h1, h0⟩
  obtain h2 | h2 := hown
  · rw [h1] at h2; exact absurd h2 (by decide)
  · exact h0 h2

section
variable {s : State} {d a : BitVec 4} (hp : s.me.priv = 1 ∨ s.me.priv = 2)
include hp

/-! ### Error banks, injections and `idle` (R306, R307, R321) -/

section
variable (h : Ready s [a] [d, a])
include h

/-- A bank that the level may name is read, and cleared or not. -/
theorem State.bankForm_reads {w : BitVec 2} (hown : s.me.priv = 2 ∨ s.readG a = 0) {b : ErrorBank}
    (hb : s.bank (s.bankNamed (s.readG a)) = some b) (clear : Bool) : s.bankForm d a w clear =
      .next ((s.setBank (if clear then (b.read w.toNat).2.clear else (b.read w.toNat).2) (s.bankNamed (s.readG a))).writeG d
        (b.read w.toNat).1) := by
  refine (State.atLevels_one_two hp _).trans ((State.gate_ready h _).trans ((if_neg (State.not_foreignBank hown)).trans ?_))
  rw [hb]
/-- At level 2 a selector that names no bank reads 0. -/
theorem State.bankForm_none {w : BitVec 2} (h2 : s.me.priv = 2) (hb : s.bank (s.bankNamed (s.readG a)) = none) (clear : Bool) :
    s.bankForm d a w clear = .next (s.writeG d 0) := by
  refine (State.atLevels_one_two hp _).trans ((State.gate_ready h _).trans ((if_neg (State.not_foreignBank (.inl h2))).trans ?_))
  rw [hb]
theorem inj_armed {n : BitVec 8} (hi : s.me.inject.any (·.1 = n.toNat) = true) : Completes (.inj d a n) s (s.writeG d 1) :=
  completes_of_next ((State.atLevels_one_two hp _).trans ((State.gate_ready h _).trans (if_pos hi)))
theorem inj_arms {n : BitVec 8} (hi : s.me.inject.any (·.1 = n.toNat) = false) : Completes (.inj d a n) s
    ((s.modMe fun k => { k with inject := k.inject ++ [(n.toNat, s.readG a)] }).writeG d 0) :=
  completes_of_next ((State.atLevels_one_two hp _).trans ((State.gate_ready h _).trans (if_neg (Bool.not_eq_true _ ▸ hi))))

end

theorem idle_completes (h : Ready s [a] [a]) :
    Completes (.idle a) s (s.modMe fun k => { k with idle := some (s.clock, (s.readG a).toNat) }) :=
  completes_of_next ((State.atLevels_one_two hp _).trans (State.gate_ready h _))

/-! ### Invalidations (R314, R315) -/

/-- An invalidation is over when nothing is left to acknowledge it. -/
theorem State.invalidateForm_over {tag x : Nat} (ht : s.gang.phase = .acks tag 0 x) (sc : BitVec 3) (gated : Out → Out) (r : Drop) :
    s.invalidateForm sc gated r = .next s := by
  refine (State.atLevels_one_two hp _).trans ?_
  rw [ht]
  rfl
/-- The first part, after the release: the scope's entries are dropped, and the gang waits for its cores. -/
theorem State.invalidateForm_begins (hf : Fresh s) (harr : s.gang.arrivedPending s.gang.indices = false) (hd : s.me.drained = true)
    (sc : BitVec 3) {gated : Out → Out} (hg : ∀ o, gated o = o) (r : Drop) :
    s.invalidateForm sc gated r = .wait (s.invalidate (sc.toNat + 1) r) := by
  have hphase : s.gang.phase = .none := hf
  refine (State.atLevels_one_two hp _).trans ?_
  rw [hphase]
  exact (hg _).trans (State.whenPut_drained harr hd _)

end

/-- Settles O31: banks by what their selector names, injections by what is armed, invalidations by the acknowledgements that are left. -/
theorem maintenanceFormsComplete : Obligations.MaintenanceFormsComplete := by
  refine ⟨fun s d a w n hp => ⟨fun h => ⟨fun hown b hb => ⟨?read, ?clear⟩, fun h2 hb => ⟨?noRead, ?noClear⟩, inj_armed hp h,
    inj_arms hp h⟩, idle_completes hp, fun sc tag x ht => ?ended⟩, fun s a sc hp hf harr hd => ⟨fun h => ?page, ?all⟩⟩
  case read => exact completes_of_next (State.bankForm_reads hp h hown hb false)
  case clear => exact completes_of_next (State.bankForm_reads hp h hown hb true)
  case noRead => exact completes_of_next (State.bankForm_none hp h h2 hb false)
  case noClear => exact completes_of_next (State.bankForm_none hp h h2 hb true)
  case ended =>
    and_intros
    all_goals exact completes_of_next (State.invalidateForm_over hp ht sc _ _)
  case page =>
    and_intros
    all_goals exact waits_of_wait_in (State.invalidateForm_begins hp hf harr hd sc (State.gateAddr_ready' h) _)
  case all => exact waits_of_wait_in (State.invalidateForm_begins hp hf harr hd sc (fun _ => rfl) _)

end Sys2Proof.Machine

/-! SUPPORT. Canonical memories through every step (spec/14 R337, spec/01 R37): one lemma for each function of the model that can change a
memory says that it keeps the canonical form, in the order of their definitions. A memory is changed by `Memory.setByte`, `Memory.setBad`
and what is built on them (Sys2Proof/Laws/Memory.lean), by filters, or by a copy of another memory of the state. `State.wf_f` and
`nextWf_f` speak of the function `f`; `NextWf` of an outcome, `Out.Wf` of the end of an Operation. -/
namespace Sys2Proof.Machine

set_option Elab.async false

/-! ### Lists of cores and of pairs -/

/-- The memories of listed cores hold their canonical form. -/
def coresWf (m : List (Nat × Core)) : Bool := m.all fun e => e.2.mem.wf
/-- The memories of a pair's follower and of both checkpoints hold their canonical form. -/
def Twin.wf (w : Twin) : Bool := w.follower.mem.wf && w.base.mem.wf && w.otherBase.mem.wf
/-- The memories of listed pairs hold their canonical form. -/
def twinsWf (m : List (Nat × Twin)) : Bool := m.all fun e => e.2.wf
/-- The state that an Operation ends with has its memories in canonical form. -/
def Out.Wf : Out → Prop
  | .next s _ | .take s _ | .stay s | .wait s => s.memWf = true
  | .trap _ => True
/-- The next state of an outcome, if it is one, has its memories in canonical form. -/
def NextWf (o : Host.Outcome State Fault Refusal) : Prop := ∀ t, o = .next t → t.memWf = true

theorem coresWf_nil : coresWf [] := rfl
theorem coresWf_cons (e : Nat × Core) (m : List (Nat × Core)) : coresWf (e :: m) = (e.2.mem.wf && coresWf m) := rfl
theorem coresWf_map {f : Nat × Core → Nat × Core} {m : List (Nat × Core)} (h : coresWf m)
    (hf : ∀ e, e.2.mem.wf → (f e).2.mem.wf) : coresWf (m.map f) := by
  simp only [coresWf, List.all_eq_true, List.mem_map] at h ⊢
  rintro _ ⟨e, he, rfl⟩
  exact hf e (h e he)
theorem coresWf_filter {m : List (Nat × Core)} {p : Nat × Core → Bool} (h : coresWf m) : coresWf (m.filter p) := by
  simp only [coresWf, List.all_eq_true] at h ⊢
  exact fun e he => h e (List.mem_filter.1 he).1
theorem coresWf_mput {m : List (Nat × Core)} {c : Nat} {k : Core} (h : coresWf m) (hk : k.mem.wf) :
    coresWf (mput m c k) := by
  simp only [coresWf, List.all_eq_true] at h ⊢
  intro e he
  rcases mem_mput he with rfl | he
  exacts [hk, h e he]
/-- A core that is read has its memory in canonical form; an unlisted one is empty. -/
theorem coresWf_mget {m : List (Nat × Core)} (h : coresWf m) (c : Nat) : (mget {} m c).mem.wf := by
  induction m with
  | nil => rfl
  | cons e m ih =>
    rw [coresWf_cons, Bool.and_eq_true] at h
    rw [mget_cons]
    split
    · exact h.1
    · exact ih h.2
/-- A fold that keeps the form of a list of cores. -/
theorem coresWf_foldl {α : Type} {m : List (Nat × Core)} {f : List (Nat × Core) → α → List (Nat × Core)} {l : List α}
    (h : coresWf m) (hf : ∀ n x, coresWf n → coresWf (f n x)) : coresWf (l.foldl f m) := by
  induction l generalizing m with
  | nil => exact h
  | cons x l ih => exact ih (hf m x h)

theorem twinsWf_nil : twinsWf [] := rfl
theorem twinsWf_filter {m : List (Nat × Twin)} {p : Nat × Twin → Bool} (h : twinsWf m) : twinsWf (m.filter p) := by
  simp only [twinsWf, List.all_eq_true] at h ⊢
  exact fun e he => h e (List.mem_filter.1 he).1
theorem twinsWf_mput {m : List (Nat × Twin)} {c : Nat} {w : Twin} (h : twinsWf m) (hw : w.wf) : twinsWf (mput m c w) := by
  simp only [twinsWf, List.all_eq_true] at h ⊢
  intro e he
  rcases mem_mput he with rfl | he
  exacts [hw, h e he]

theorem Twin.wf_iff {w : Twin} : w.wf = true ↔ (w.follower.mem.wf = true ∧ w.base.mem.wf = true) ∧ w.otherBase.mem.wf = true := by
  simp [Twin.wf]
section
variable {w : Twin} (h : w.wf)
include h
theorem Twin.follower_wf : w.follower.mem.wf := (Twin.wf_iff.1 h).1.1
theorem Twin.base_wf : w.base.mem.wf := (Twin.wf_iff.1 h).1.2
theorem Twin.otherBase_wf : w.otherBase.mem.wf := (Twin.wf_iff.1 h).2
end
theorem Twin.wf_mk {follower base otherBase log again print otherPrint upsets} (hf : follower.mem.wf) (hb : base.mem.wf)
    (ho : otherBase.mem.wf) : (Twin.mk follower base otherBase log again print otherPrint upsets).wf :=
  Twin.wf_iff.2 ⟨⟨hf, hb⟩, ho⟩

theorem Twin.wf_with {w : Twin} {log again print otherPrint upsets} (h : w.wf) :
    (Twin.mk w.follower w.base w.otherBase log again print otherPrint upsets).wf := h

/-! ### The parts of a state -/

theorem State.memWf_parts {s : State} : s.memWf = true ↔
    ((s.mem.wf = true ∧ coresWf s.cores = true) ∧ coresWf s.ctx.savedCores = true) ∧ twinsWf s.twins = true := by
  rw [← Bool.and_eq_true, ← Bool.and_eq_true, ← Bool.and_eq_true]; rfl
section
variable {s : State} (h : s.memWf)
include h
theorem State.mem_wf : s.mem.wf := (State.memWf_parts.1 h).1.1.1
theorem State.cores_wf : coresWf s.cores := (State.memWf_parts.1 h).1.1.2
theorem State.savedCores_wf : coresWf s.ctx.savedCores := (State.memWf_parts.1 h).1.2
theorem State.twins_wf : twinsWf s.twins := (State.memWf_parts.1 h).2
theorem State.me_wf : s.me.mem.wf := State.memWf_core h s.cur
end
/-- A state written out field by field. -/
theorem State.wf_mk {clock cur nextTag cores clusters twins ctx mem ipt disabled parts epoch upsets agenda carried linkUsed
    marked nodes watches changes sliceGrants sliceOut frame quotas trees residuals ports recorders sliceBanks stackBanks sliceRet
    sliceLost heldNotices host sup} (hm : mem.wf) (hc : coresWf cores) (hs : coresWf ctx.savedCores) (ht : twinsWf twins) :
    State.memWf ⟨clock, cur, nextTag, cores, clusters, twins, ctx, mem, ipt, disabled, parts, epoch, upsets, agenda, carried, linkUsed,
      marked, nodes, watches, changes, sliceGrants, sliceOut, frame, quotas, trees, residuals, ports, recorders, sliceBanks, stackBanks,
      sliceRet, sliceLost, heldNotices, host, sup⟩ := State.memWf_parts.2 ⟨⟨⟨hm, hc⟩, hs⟩, ht⟩

/-- An update of fields that hold no memories. -/
theorem State.wf_with {s : State} {clock cur nextTag clusters ctx ipt disabled parts epoch upsets agenda carried linkUsed
    marked nodes watches changes sliceGrants sliceOut frame quotas trees residuals ports recorders sliceBanks stackBanks sliceRet
    sliceLost heldNotices host sup} (h : s.memWf) (hs : ctx.savedCores = s.ctx.savedCores) :
    State.memWf ⟨clock, cur, nextTag, s.cores, clusters, s.twins, ctx, s.mem, ipt, disabled, parts, epoch, upsets, agenda, carried,
      linkUsed, marked, nodes, watches, changes, sliceGrants, sliceOut, frame, quotas, trees, residuals, ports, recorders, sliceBanks,
      stackBanks, sliceRet, sliceLost, heldNotices, host, sup⟩ :=
  State.wf_mk (State.mem_wf h) (State.cores_wf h) (hs ▸ State.savedCores_wf h) (State.twins_wf h)

/-- An update whose one part that holds memories is the list of cores. -/
theorem State.wf_withCores {s : State} {clock cur nextTag cores clusters ctx ipt disabled parts epoch upsets agenda carried linkUsed
    marked nodes watches changes sliceGrants sliceOut frame quotas trees residuals ports recorders sliceBanks stackBanks sliceRet
    sliceLost heldNotices host sup} (h : s.memWf) (hs : ctx.savedCores = s.ctx.savedCores) (hc : coresWf cores) :
    State.memWf ⟨clock, cur, nextTag, cores, clusters, s.twins, ctx, s.mem, ipt, disabled, parts, epoch, upsets, agenda, carried,
      linkUsed, marked, nodes, watches, changes, sliceGrants, sliceOut, frame, quotas, trees, residuals, ports, recorders, sliceBanks,
      stackBanks, sliceRet, sliceLost, heldNotices, host, sup⟩ :=
  State.wf_mk (State.mem_wf h) hc (hs ▸ State.savedCores_wf h) (State.twins_wf h)
/-- An update whose one part that holds memories is the global memory. -/
theorem State.wf_withMem {s : State} {clock cur nextTag clusters ctx mem ipt disabled parts epoch upsets agenda carried linkUsed
    marked nodes watches changes sliceGrants sliceOut frame quotas trees residuals ports recorders sliceBanks stackBanks sliceRet
    sliceLost heldNotices host sup} (h : s.memWf) (hs : ctx.savedCores = s.ctx.savedCores) (hm : mem.wf) :
    State.memWf ⟨clock, cur, nextTag, s.cores, clusters, s.twins, ctx, mem, ipt, disabled, parts, epoch, upsets, agenda, carried,
      linkUsed, marked, nodes, watches, changes, sliceGrants, sliceOut, frame, quotas, trees, residuals, ports, recorders, sliceBanks,
      stackBanks, sliceRet, sliceLost, heldNotices, host, sup⟩ :=
  State.wf_mk hm (State.cores_wf h) (hs ▸ State.savedCores_wf h) (State.twins_wf h)
/-- An update whose one part that holds memories is the list of pairs. -/
theorem State.wf_withTwins {s : State} {clock cur nextTag clusters twins ctx ipt disabled parts epoch upsets agenda carried linkUsed
    marked nodes watches changes sliceGrants sliceOut frame quotas trees residuals ports recorders sliceBanks stackBanks sliceRet
    sliceLost heldNotices host sup} (h : s.memWf) (hs : ctx.savedCores = s.ctx.savedCores) (ht : twinsWf twins) :
    State.memWf ⟨clock, cur, nextTag, s.cores, clusters, twins, ctx, s.mem, ipt, disabled, parts, epoch, upsets, agenda, carried,
      linkUsed, marked, nodes, watches, changes, sliceGrants, sliceOut, frame, quotas, trees, residuals, ports, recorders, sliceBanks,
      stackBanks, sliceRet, sliceLost, heldNotices, host, sup⟩ :=
  State.wf_mk (State.mem_wf h) (State.cores_wf h) (hs ▸ State.savedCores_wf h) ht

/-- An update whose one part that holds memories is the context. -/
theorem State.wf_withCtx {s : State} {clock cur nextTag clusters ctx ipt disabled parts epoch upsets agenda carried linkUsed
    marked nodes watches changes sliceGrants sliceOut frame quotas trees residuals ports recorders sliceBanks stackBanks sliceRet
    sliceLost heldNotices host sup} (h : s.memWf) (hs : coresWf ctx.savedCores) :
    State.memWf ⟨clock, cur, nextTag, s.cores, clusters, s.twins, ctx, s.mem, ipt, disabled, parts, epoch, upsets, agenda, carried,
      linkUsed, marked, nodes, watches, changes, sliceGrants, sliceOut, frame, quotas, trees, residuals, ports, recorders, sliceBanks,
      stackBanks, sliceRet, sliceLost, heldNotices, host, sup⟩ :=
  State.wf_mk (State.mem_wf h) (State.cores_wf h) hs (State.twins_wf h)

/-! ### Choices and folds -/

theorem State.wf_ite {s t : State} {c : Prop} [Decidable c] (hs : s.memWf) (ht : t.memWf) : (if c then s else t).memWf := by
  split <;> assumption
theorem Context.savedWf_ite {x y : Context} {c : Prop} [Decidable c] (hx : coresWf x.savedCores) (hy : coresWf y.savedCores) :
    coresWf (if c then x else y).savedCores := by split <;> assumption
theorem Core.wf_ite {k l : Core} {c : Prop} [Decidable c] (hk : k.mem.wf) (hl : l.mem.wf) : (if c then k else l).mem.wf := by
  split <;> assumption
theorem Memory.wf_ite {k l : Memory} {c : Prop} [Decidable c] (hk : k.wf) (hl : l.wf) : (if c then k else l).wf := by
  split <;> assumption
theorem Out.wf_ite {o p : Out} {c : Prop} [Decidable c] (ho : o.Wf) (hp : p.Wf) : (if c then o else p).Wf := by
  split <;> assumption
theorem Out.wf_next {s : State} {cs : List Cause} (h : s.memWf) : (Out.next s cs).Wf := h
theorem Out.wf_take {s : State} {t : BitVec 32} (h : s.memWf) : (Out.take s t).Wf := h
theorem Out.wf_stay {s : State} (h : s.memWf) : (Out.stay s).Wf := h
theorem Out.wf_wait {s : State} (h : s.memWf) : (Out.wait s).Wf := h
theorem Out.wf_trap {c : Cause} : (Out.trap c).Wf := trivial
theorem nextWf_ite {o p : Host.Outcome State Fault Refusal} {c : Prop} [Decidable c] (ho : NextWf o) (hp : NextWf p) :
    NextWf (if c then o else p) := by split <;> assumption
theorem nextWf_next {s : State} (h : s.memWf) : NextWf (.next s) := by rintro _ ⟨⟩; exact h
theorem State.wf_foldl {α : Type} {s : State} {f : State → α → State} {l : List α} (h : s.memWf)
    (hf : ∀ t x, t.memWf → (f t x).memWf) : (l.foldl f s).memWf := by
  induction l generalizing s with
  | nil => exact h
  | cons x l ih => exact ih (hf s x h)
theorem Memory.wf_foldl {α : Type} {m : Memory} {f : Memory → α → Memory} {l : List α} (h : m.wf)
    (hf : ∀ n x, n.wf → (f n x).wf) : (l.foldl f m).wf := by
  induction l generalizing m with
  | nil => exact h
  | cons x l ih => exact ih (hf m x h)

/-- What an optional value holds, if it is one. -/
def SomeWf {α : Type} (p : α → Prop) (o : Option α) : Prop := ∀ a, o = some a → p a
theorem someWf_none {α : Type} {p : α → Prop} : SomeWf p none := fun _ h => nomatch h
theorem someWf_some {α : Type} {p : α → Prop} {a : α} (h : p a) : SomeWf p (some a) := by rintro _ ⟨⟩; exact h
theorem someWf_ite {α : Type} {p : α → Prop} {o q : Option α} {c : Prop} [Decidable c] (ho : SomeWf p o) (hq : SomeWf p q) :
    SomeWf p (if c then o else q) := by split <;> assumption
theorem twinsWf_mfind {m : List (Nat × Twin)} (h : twinsWf m) (c : Nat) : SomeWf (fun w => w.wf) (mfind m c) := by
  induction m with
  | nil => exact someWf_none
  | cons e m ih =>
    rw [twinsWf, List.all_cons, Bool.and_eq_true] at h
    exact someWf_ite (someWf_some h.1) (ih h.2)
theorem Twin.wf_ite {v w : Twin} {c : Prop} [Decidable c] (hv : v.wf) (hw : w.wf) : (if c then v else w).wf := by
  split <;> assumption

section
variable {α β : Type}
theorem State.wf_fst_ite {p q : State × β} {c : Prop} [Decidable c] (hp : p.1.memWf) (hq : q.1.memWf) :
    (if c then p else q).1.memWf := by split <;> assumption
theorem State.wf_snd_ite {p q : β × State} {c : Prop} [Decidable c] (hp : p.2.memWf) (hq : q.2.memWf) :
    (if c then p else q).2.memWf := by split <;> assumption
/-- A fold whose accumulator holds a state beside another value. -/
theorem State.wf_fst_foldl {p : State × β} {f : State × β → α → State × β} {l : List α} (h : p.1.memWf)
    (hf : ∀ r x, r.1.memWf → (f r x).1.memWf) : (l.foldl f p).1.memWf := by
  induction l generalizing p with
  | nil => exact h
  | cons x l ih => exact ih (hf p x h)
end

/-- The state of a pair that an equation names. -/
theorem State.wf_of_fst_eq {β : Type} {p : State × β} {t : State} {b : β} (heq : p = (t, b)) (h : p.1.memWf) : t.memWf := by
  rw [heq] at h
  exact h
theorem someWf_map {α β : Type} {p : α → Prop} {q : β → Prop} {f : α → β} {o : Option α} (h : SomeWf p o)
    (hf : ∀ a, p a → q (f a)) : SomeWf q (o.map f) := by
  intro b hb
  obtain ⟨a, ha, rfl⟩ := Option.map_eq_some_iff.1 hb
  exact hf a (h a ha)
theorem someWf_map_of_forall {α β : Type} {q : β → Prop} {f : α → β} {o : Option α} (hf : ∀ a, q (f a)) : SomeWf q (o.map f) :=
  someWf_map (p := fun _ => True) (fun _ _ => trivial) fun a _ => hf a
theorem Core.wf_fst_ite {β : Type} {p q : Core × β} {c : Prop} [Decidable c] (hp : p.1.mem.wf) (hq : q.1.mem.wf) :
    (if c then p else q).1.mem.wf := by split <;> assumption
theorem Memory.wf_keep {m : Memory} {p : Nat × Byte → Bool} {q : Nat × Bool → Bool} (h : m.wf) :
    Memory.wf ⟨m.bytes.filter p, m.bad.filter q⟩ := by
  simp only [Memory.wf, Bool.and_eq_true] at h ⊢
  exact ⟨mwf_filter _ h.1, mwf_filter _ h.2⟩

/-! ### Operations that change no memory, and the end of an Operation -/

theorem State.wf_push {s : State} {e : Instr} (h : s.memWf) : (s.push e).memWf := h
theorem State.wf_fresh {s : State} (h : s.memWf) : s.fresh.memWf := h
theorem State.wf_tell {s : State} {a b : Nat} {w : Word} (h : s.memWf) : (s.tell a b w).memWf := h
theorem State.wf_record {s : State} {a b c d : Nat} {ws : List Word} (h : s.memWf) : (s.record a b c d ws).memWf := h
theorem State.wf_recordCore {s : State} {c n : Nat} {ws : List Word} (h : s.memWf) : (s.recordCore c n ws).memWf :=
  (s.memWf_recordCore c n ws).trans h
theorem State.wf_freeze {s : State} {a b : Nat} (h : s.memWf) : (s.freeze a b).memWf := h
theorem State.nextWf_finish {s : State} {o : Out} (h : s.memWf) (ho : o.Wf) : NextWf (s.finish o) := by
  intro t ht
  refine State.memWf_finish h ht ?_
  cases o <;> exact ho
theorem Core.wf_setAt {k : Core} {i : Nat} {g : Gang} (h : k.mem.wf) : (k.setAt i g).mem.wf := h
theorem Core.wf_modGang {k : Core} {f : Gang → Gang} (h : k.mem.wf) : (k.modGang f).mem.wf := h
theorem Core.wf_wake {k : Core} (h : k.mem.wf) : k.wake.mem.wf := h
theorem Core.wf_bump {k : Core} {n : Nat} (h : k.mem.wf) : (k.bump n).mem.wf := h

/-! ### Twins (spec/22 R470) -/

theorem State.wf_reset : State.reset.memWf := rfl

/-! ### The agenda (spec/17) -/

theorem State.wf_pushFrom {s : State} {src : Source} {e : Instr} (h : s.memWf) : (s.pushFrom src e).memWf := h
theorem State.wf_unpush {s : State} {e : Instr} (h : s.memWf) : (s.unpush e).memWf := h
theorem State.wf_keepEvents {s : State} {f : Instr → Bool} (h : s.memWf) : (s.keepEvents f).memWf := h
theorem State.wf_pushAs {s : State} {stamp : Option (BitVec 4)} {e : Instr} (h : s.memWf) : (s.pushAs stamp e).memWf := by
  unfold State.pushAs
  split
  · exact State.wf_push h
  · exact State.wf_with (State.wf_push h) rfl

/-! ### The acting core and its gang, traps (spec/12 R292-R296) -/

theorem State.wf_setMe {s : State} {k : Core} (h : s.memWf) (hk : k.mem.wf) : (s.setMe k).memWf := State.memWf_setCore _ h hk
theorem Core.wf_setPendG {k : Core} {n : Nat} {v : Bool} (h : k.mem.wf) : (k.setPendG n v).mem.wf :=
  Core.wf_ite h (Core.wf_ite h (Core.wf_modGang h))
theorem State.wf_pendG {s : State} {n : BitVec 4} (h : s.memWf) : (s.pendG n).memWf :=
  State.memWf_modMe h fun _ hk => Core.wf_setPendG hk
theorem State.wf_modCluster {s : State} {n : Nat} {f : Cluster → Cluster} (h : s.memWf) : (s.modCluster n f).memWf := h
theorem State.wf_vacate {s : State} (h : s.memWf) : s.vacate.memWf := h
theorem Core.wf_setXfer {k : Core} {x : Option Xfer} (h : k.mem.wf) : (k.setXfer x).mem.wf := h
theorem State.wf_lessAcks {s : State} {tag : Nat} (h : s.memWf) : (s.lessAcks tag).memWf :=
  State.wf_withCores h rfl (coresWf_map (State.cores_wf h) fun _ he => he)
theorem Core.wf_leaveReaders {k : Core} {slot : Nat} (h : k.mem.wf) : (k.leaveReaders slot).mem.wf := h
theorem State.wf_rouse {s : State} {part : Nat} (h : s.memWf) : (s.rouse part).memWf :=
  State.wf_withCores h rfl (coresWf_map (State.cores_wf h) fun _ he => Core.wf_ite he he)
theorem State.wf_tellGang {s : State} {cause : BitVec 16} {c slot : Nat} (h : s.memWf) : (s.tellGang cause c slot).memWf := h
theorem State.wf_tellHalt {s : State} {c slot : Nat} (h : s.memWf) : (s.tellHalt c slot).memWf := h
theorem Core.wf_leaveGang {k : Core} {i : Nat} (h : k.mem.wf) : (k.leaveGang i).mem.wf := h
theorem Core.wf_leaveSystem {k : Core} (h : k.mem.wf) : k.leaveSystem.mem.wf := h
theorem Core.wf_leave {k : Core} (h : k.mem.wf) : k.leave.mem.wf := by
  unfold Core.leave
  with_reducible refine Core.wf_bump (Core.wf_wake ?_)
  split
  · with_reducible exact Core.wf_leaveGang h
  · with_reducible exact Core.wf_leaveSystem h
  · with_reducible exact h
theorem State.wf_trapHere {s : State} {code sub : Nat} : (s.trapHere code sub).Wf := Out.wf_trap
theorem State.wf_blocking {s : State} {body : Out} (hbody : body.Wf) : (s.blocking body).Wf := Out.wf_ite State.wf_trapHere hbody
theorem State.wf_poisonReg {s : State} {n : Nat} : (s.poisonReg n).Wf := Out.wf_trap
theorem State.wf_gate {s : State} {uses all : List (BitVec 4)} {body : Out} (h : s.memWf) (hbody : body.Wf) :
    (s.gate uses all body).Wf := by
  unfold State.gate
  refine Out.wf_ite (Out.wf_wait h) ?_
  split
  · exact State.wf_poisonReg
  · exact hbody
theorem State.wf_gateAddr {s : State} {addrs uses all : List (BitVec 4)} {ea : Word} {body : Out} (h : s.memWf) (hbody : body.Wf) :
    (s.gateAddr addrs uses all ea body).Wf := by
  unfold State.gateAddr
  refine Out.wf_ite (Out.wf_wait h) (Out.wf_ite Out.wf_trap ?_)
  split
  · exact State.wf_poisonReg
  · exact hbody

/-! ### Gang integer instructions (spec/04 R96-R103) -/

theorem State.wf_alu {s : State} {d : BitVec 4} {rs : List (BitVec 4)} {v : Word} (h : s.memWf) : (s.alu d rs v).Wf :=
  State.wf_gate h (Out.wf_next (State.memWf_writeG _ _ _ h))
theorem nextWf_execAdd {d a b : BitVec 4} {s : State} (h : s.memWf) : NextWf (execAdd d a b s) :=
  State.nextWf_finish h (Out.wf_ite (State.wf_gate h (Out.wf_next (State.memWf_writeG _ _ _ h))) (State.wf_alu h))
theorem nextWf_execSub {d a b : BitVec 4} {s : State} (h : s.memWf) : NextWf (execSub d a b s) :=
  State.nextWf_finish h (State.wf_alu h)
theorem nextWf_execAnd {d a b : BitVec 4} {s : State} (h : s.memWf) : NextWf (execAnd d a b s) :=
  State.nextWf_finish h (State.wf_alu h)
theorem nextWf_execOr {d a b : BitVec 4} {s : State} (h : s.memWf) : NextWf (execOr d a b s) :=
  State.nextWf_finish h (State.wf_alu h)
theorem nextWf_execXor {d a b : BitVec 4} {s : State} (h : s.memWf) : NextWf (execXor d a b s) :=
  State.nextWf_finish h (State.wf_alu h)
theorem nextWf_execAddi {d a : BitVec 4} {i : BitVec 15} {s : State} (h : s.memWf) : NextWf (execAddi d a i s) :=
  State.nextWf_finish h (State.wf_alu h)
theorem nextWf_execAndi {d a : BitVec 4} {i : BitVec 15} {s : State} (h : s.memWf) : NextWf (execAndi d a i s) :=
  State.nextWf_finish h (State.wf_alu h)
theorem nextWf_execShli {d a : BitVec 4} {i : BitVec 6} {s : State} (h : s.memWf) : NextWf (execShli d a i s) :=
  State.nextWf_finish h (State.wf_alu h)
theorem nextWf_execShri {d a : BitVec 4} {i : BitVec 6} {s : State} (h : s.memWf) : NextWf (execShri d a i s) :=
  State.nextWf_finish h (State.wf_alu h)
theorem nextWf_execSrai {d a : BitVec 4} {i : BitVec 6} {s : State} (h : s.memWf) : NextWf (execSrai d a i s) :=
  State.nextWf_finish h (State.wf_alu h)

/-! ### Local control (spec/04 R114-R122) -/

theorem State.wf_annul {s : State} (h : s.memWf) : s.annul.memWf := State.memWf_modGang _ h
theorem State.wf_transfer {s : State} {taken nullify : Bool} {target : Int} {info : Word} {t : State} (ht : t.memWf) :
    (s.transfer taken nullify target info t).Wf :=
  Out.wf_ite (Out.wf_ite Out.wf_trap (Out.wf_take ht)) (Out.wf_next (State.wf_ite (State.wf_annul ht) ht))
theorem State.wf_onCondition {s : State} {a : BitVec 4} {c : BitVec 3} {body : Bool → Out} (h : s.memWf) (hbody : ∀ x, (body x).Wf) :
    (s.onCondition a c body).Wf := State.wf_gate h (Out.wf_ite State.wf_poisonReg (hbody _))
theorem nextWf_execB {a : BitVec 4} {c : BitVec 3} {p : BitVec 16} {s : State} (h : s.memWf) : NextWf (execB a c p s) :=
  State.nextWf_finish h (State.wf_onCondition h fun _ => State.wf_transfer h)
theorem nextWf_execCall {a : BitVec 4} {c : BitVec 3} {p : BitVec 16} {s : State} (h : s.memWf) : NextWf (execCall a c p s) :=
  State.nextWf_finish h (State.wf_onCondition h fun _ => Out.wf_ite (Out.wf_wait h) (State.wf_transfer (State.wf_ite
    (State.memWf_writeG _ _ _ h) h)))
theorem State.wf_loopForm {s : State} {nullify : Bool} {a : BitVec 4} {p : BitVec 16} (h : s.memWf) : (s.loopForm nullify a p).Wf :=
  State.wf_gate h (State.wf_transfer (State.memWf_writeG _ _ _ h))
theorem nextWf_execLoop {a : BitVec 4} {p : BitVec 16} {s : State} (h : s.memWf) : NextWf (execLoop a p s) :=
  State.nextWf_finish h (State.wf_loopForm h)
theorem State.wf_compareForm {s : State} {a b : BitVec 4} {p : BitVec 15} {rel : Word → Word → Bool} (h : s.memWf) :
    (s.compareForm a b p rel).Wf := State.wf_gate h (State.wf_transfer h)

/-! ### Translation and waits (spec/14 R340-R345) -/

theorem State.wf_discardEntry {s : State} {c p : Nat} (h : s.memWf) : (s.discardEntry c p).memWf :=
  State.wf_modCluster (State.memWf_modCore _ h fun _ hk => hk)
theorem State.wf_fillEntry {s : State} {c : Nat} {e : TlbEntry} (h : s.memWf) : (s.fillEntry c e).memWf :=
  State.wf_modCluster (State.memWf_modCore _ h fun _ hk => hk)
theorem State.wf_askWalks {s : State} {ps : List Nat} (h : s.memWf) : (s.askWalks ps).memWf := by
  induction ps generalizing s with
  | nil => exact h
  | cons p ps ih =>
    have ht := State.wf_discardEntry (c := s.cur) (p := p) h
    exact ih (State.wf_ite (State.memWf_modGang _ ht) (State.wf_push (State.memWf_modGang _ ht)))
theorem State.wf_addrTrap {s : State} {code sub : Nat} {a : Word} : (s.addrTrap code sub a).Wf := Out.wf_trap

/-! ### Arrays and error banks (spec/22 R462-R469) -/

theorem State.wf_bankCore {s : State} {c : Nat} {ue : Bool} {array code bits addr : Nat} (h : s.memWf) :
    (s.bankCore c ue array code bits addr).memWf :=
  State.wf_ite (State.memWf_modCore _ h fun _ hk => hk) (State.wf_recordCore (State.memWf_modCore _ h fun _ hk => hk))
theorem State.wf_findError {s : State} {c : Nat} {e : Nat × Word} (h : s.memWf) : (s.findError c e).memWf :=
  State.wf_bankCore (State.memWf_modCore _ h fun _ hk => Memory.wf_ite (Memory.wf_setBad _ _ hk) hk)
theorem State.wf_touchCore {s : State} {c : Nat} (h : s.memWf) : (s.touchCore c).memWf := State.memWf_modCore _ h fun _ hk => hk
theorem State.wf_touchSlice {s : State} {n : Nat} (h : s.memWf) : (s.touchSlice n).memWf := h
theorem State.wf_bankOf {s : State} {a : ArrayRef} {ue : Bool} {code n addr : Nat} (h : s.memWf) :
    (s.bankOf a ue code n addr).memWf := by
  unfold State.bankOf
  dsimp only
  split
  · exact State.wf_bankCore h
  · exact State.wf_bankCore h
  · exact State.wf_bankCore h
  · exact State.wf_bankCore h
  · exact State.wf_bankCore h
  · exact State.wf_ite (State.wf_with h rfl) (State.wf_record (State.wf_with h rfl))
  · exact State.wf_ite (State.wf_with h rfl) (State.wf_record (State.wf_with h rfl))
  · exact State.wf_ite (State.wf_modCluster h) (State.wf_record (State.wf_modCluster h))
  · exact State.wf_ite (State.wf_modCluster h) (State.wf_record (State.wf_modCluster h))
theorem Core.wf_spoilQueued {k : Core} {n j : Nat} (h : k.mem.wf) : (k.spoilQueued n j).mem.wf := Core.wf_ite h h
theorem Core.wf_spoilCopy {k : Core} {q n : Nat} (h : k.mem.wf) : (k.spoilCopy q n).mem.wf := by
  unfold Core.spoilCopy
  split <;> exact h
theorem State.wf_damage {s : State} {a : ArrayRef} {addr : Nat} (h : s.memWf) : (s.damage a addr).memWf := by
  unfold State.damage
  split
  · exact State.memWf_modCore _ h fun _ hk => Memory.wf_setBad _ _ hk
  · exact State.memWf_modCore _ h fun _ hk => hk
  · exact State.wf_ite (State.wf_ite (State.wf_push h) h) (State.memWf_modCore _ h fun _ hk => hk)
  · exact State.memWf_modCore _ h fun _ hk => Core.wf_ite (Core.wf_spoilCopy hk) (Core.wf_ite (Core.wf_spoilQueued hk) (Core.wf_ite
      (Core.wf_setAt hk) hk))
  · exact State.wf_withMem h rfl (Memory.wf_setBad _ _ (State.mem_wf h))
  · exact State.wf_withMem h rfl (Memory.wf_setBad _ _ (State.mem_wf h))
  · exact State.wf_ite (State.wf_modCluster h) (State.memWf_modCore _ h fun _ hk => Core.wf_setAt hk)
  · exact h
  · exact h
theorem State.wf_unstand {s : State} {u : ArrayRef × Nat × Bool} (h : s.memWf) : (s.unstand u).memWf := by
  unfold State.unstand
  split
  · exact State.memWf_modCore _ h fun _ hk => hk
  · exact State.wf_with h rfl
theorem State.wf_findUpset {s : State} {code : Nat} {u : ArrayRef × Nat × Bool} (h : s.memWf) : (s.findUpset code u).memWf := by
  unfold State.findUpset
  extract_lets t
  have ht : t.memWf := State.wf_unstand h
  split
  · exact State.wf_bankOf (State.memWf_modCore _ ht fun _ hk => hk)
  · exact State.wf_bankOf (State.wf_modCluster ht)
  · refine State.wf_ite ?_ (State.wf_bankOf ht)
    extract_lets t1
    have ht1 : t1.memWf := State.wf_damage (State.wf_bankOf ht)
    split
    · exact State.wf_push ht1
    · exact ht1
theorem State.wf_findUpsets {s : State} {code : Nat} {meets : ArrayRef → Nat → Bool} (h : s.memWf) :
    (s.findUpsets code meets).memWf := State.wf_foldl h fun _ _ hx => State.wf_findUpset hx
theorem State.wf_decodeGroup {s : State} {a : ArrayRef} {g : Nat} (h : s.memWf) : (s.decodeGroup a g).memWf :=
  State.wf_ite (State.wf_bankOf (State.wf_foldl h fun _ _ hx => State.wf_unstand hx)) (State.wf_foldl (State.wf_bankOf
    (State.wf_foldl h fun _ _ hx => State.wf_unstand hx)) fun _ _ hx => State.wf_damage hx)
theorem State.wf_rouseArray {s : State} {a : ArrayRef} (h : s.memWf) : (s.rouseArray a).memWf :=
  State.wf_ite h (State.wf_foldl h fun _ _ hx => State.wf_decodeGroup hx)
theorem State.wf_scanLocal {s : State} {c a n : Nat} (h : s.memWf) : (s.scanLocal c a n).memWf :=
  State.wf_ite (State.wf_foldl h fun _ _ hx => State.wf_findError hx) (State.wf_findUpsets (State.wf_foldl h fun _ _ hx =>
    State.wf_findError hx))
theorem State.wf_wakeCore {s : State} {c : Nat} (h : s.memWf) : (s.wakeCore c).memWf := State.wf_touchCore (State.wf_rouseArray h)
theorem State.wf_wakeBlocks {s : State} {bs : List Nat} (h : s.memWf) : (s.wakeBlocks bs).memWf :=
  State.wf_foldl h fun _ _ hx => State.wf_touchSlice (State.wf_rouseArray hx)
theorem State.wf_scanBlocks {s : State} {bs : List Nat} (h : s.memWf) : (s.scanBlocks bs).memWf := State.wf_findUpsets h
theorem State.wf_meetGlobal {s : State} {a n : Nat} (h : s.memWf) : (s.meetGlobal a n).memWf :=
  State.wf_scanBlocks (State.wf_wakeBlocks h)
theorem State.wf_cleanWords {s : State} {ws : List Wr} (h : s.memWf) : (s.cleanWords ws).memWf := h
theorem State.wf_overBlocks {s : State} {ws : List Wr} (h : s.memWf) : (s.overBlocks ws).memWf :=
  State.wf_ite h (State.wf_cleanWords (State.wf_findUpsets h))
theorem State.wf_writeV {s : State} {part a : Nat} {bs : List Byte} (h : s.memWf) : (s.writeV part a bs).memWf := by
  unfold State.writeV
  split
  · exact State.wf_withMem (State.wf_wakeBlocks h) rfl (Memory.wf_write _ _ _ (State.mem_wf (State.wf_wakeBlocks h)))
  · exact h

/-! ### The mailbox rings (spec/24 R495, R496) -/

theorem State.wf_putPartitionRing {s : State} {part : Nat} {e : List Byte} (h : s.memWf) : (s.putPartitionRing part e).memWf :=
  State.wf_writeV (State.wf_foldl h fun _ _ hx => State.wf_writeV hx)
theorem State.wf_putHostRing {s : State} {e : List Byte} (h : s.memWf) : (s.putHostRing e).memWf := h
theorem State.wf_putMail {s : State} {origin : Nat} {e : List Byte} (h : s.memWf) : (s.putMail origin e).memWf :=
  State.wf_ite (State.wf_putHostRing h) (State.wf_putPartitionRing h)
theorem State.wf_respond {s : State} {opc status part : Nat} {payload : List Word} (h : s.memWf) :
    (s.respond opc status part payload).memWf := State.wf_ite h (State.wf_with (State.wf_putMail h) rfl)
theorem State.wf_sendEvent {s : State} {e : Nat × Nat × Nat × Nat} (h : s.memWf) : (s.sendEvent e).memWf := h
theorem State.wf_sendEventsOf {s : State} (h : s.memWf) : s.sendEventsOf.memWf :=
  State.wf_ite h (State.wf_ite (State.wf_with h rfl) (State.wf_with (State.wf_foldl h fun _ _ hx => State.wf_sendEvent hx) rfl))
theorem State.wf_takeMail {s : State} {origin : Nat} {e : List Byte} (h : s.memWf) : (s.takeMail origin e).memWf :=
  State.wf_ite (State.wf_with (State.wf_with h rfl) rfl) (State.wf_writeV (State.wf_with h rfl))

/-! ### The homes of addresses (spec/14 R332, R336) -/

theorem State.wf_scanEntries {s : State} {c base cl kind : Nat} {r : ChangeRec} (h : s.memWf) :
    (s.scanEntries c base cl kind r).memWf := State.wf_foldl h fun _ _ hx => State.wf_scanLocal hx
theorem State.wf_answer {s : State} {r : Req} {a : Answer} (h : s.memWf) : (s.answer r a).memWf := by
  unfold State.answer
  refine State.wf_ite h ?_
  split
  · exact h
  · exact State.wf_ite (State.wf_push h) (State.wf_push h)
  · exact State.wf_ite (State.wf_push h) (State.wf_push h)
  · exact State.wf_with h rfl
  · exact h
theorem Core.wf_setChannel {k : Core} {ch : Nat} {c : Channel} (h : k.mem.wf) : (k.setChannel ch c).mem.wf := h
theorem Core.wf_setRing {k : Core} {n : Nat} {r : RingDesc} (h : k.mem.wf) : (k.setRing n r).mem.wf := h
theorem State.wf_pushRing {s : State} {c n : Nat} {count : Word} (h : s.memWf) : (s.pushRing c n count).memWf :=
  State.memWf_modCore _ h fun _ hk => Core.wf_setRing hk
theorem Core.wf_future {k : Core} {off : Nat} {op : FutOp} {v : Datum} (h : k.mem.wf) : (k.future off op v).1.mem.wf := by
  unfold Core.future
  dsimp only
  split
  · exact Core.wf_fst_ite h (Memory.wf_store _ _ _ _ h)
  · exact Core.wf_fst_ite h (Memory.wf_store _ _ _ _ h)
  · exact Core.wf_fst_ite h h
  · exact Core.wf_fst_ite h h
  · exact h
theorem State.wf_counter {s : State} {c off : Nat} {op : CtrOp} {v : Word} (h : s.memWf) : (s.counter c off op v).1.memWf :=
  State.wf_fst_ite h (State.wf_fst_ite (State.wf_fst_ite h (State.wf_fresh (State.memWf_setCore _ h (Memory.wf_store _ _ _ _
    (State.memWf_core h _))))) (State.memWf_setCore _ h (Memory.wf_store _ _ _ _ (State.memWf_core h _))))
theorem State.wf_storeAt {s : State} {c : Nat} {ws : List Wr} (h : s.memWf) : (s.storeAt c ws).memWf := by
  induction ws generalizing s with
  | nil => exact h
  | cons w ws ih => exact ih (State.wf_ite (State.wf_pushRing h) (State.memWf_modCore _ h fun _ hk => Core.wf_writes _ hk))
theorem State.wf_performCore {s : State} {c : Nat} {op : MemOp} (h : s.memWf) : (s.performCore c op).1.memWf := by
  unfold State.performCore
  split
  · exact State.wf_foldl h fun _ _ hx => State.wf_ite (State.wf_scanLocal hx) hx
  · exact State.wf_storeAt h
  · exact h
  · exact State.memWf_modCore _ (State.wf_scanLocal h) fun _ _ => Memory.wf_atomic _ _ _ _ (State.memWf_core (State.wf_scanLocal h) _)
  · exact State.memWf_modCore _ (State.wf_scanLocal h) fun _ _ => Memory.wf_cas _ _ _ _ (State.memWf_core (State.wf_scanLocal h) _)
  · exact State.memWf_setCore _ (State.wf_scanLocal h) (Core.wf_future (State.memWf_core (State.wf_scanLocal h) _))
  · exact State.wf_counter (State.wf_scanLocal h)
  · exact h
theorem State.wf_evalWatches {s : State} (h : s.memWf) : s.evalWatches.memWf :=
  State.wf_foldl (State.wf_with h rfl) fun _ _ hx => State.wf_pushAs hx
theorem State.wf_putChange {s : State} {desc pa : Nat} {chword : Word} {cons : Bool} {r : ChangeRec} (h : s.memWf) :
    (s.putChange desc pa chword cons r).1.memWf := by
  unfold State.putChange
  extract_lets n q m e
  have hm : m.wf := Memory.wf_ite (Memory.wf_claim _ _ (State.mem_wf h)) (State.mem_wf h)
  refine State.wf_fst_ite h (State.wf_fst_ite h (State.wf_fst_ite h ?_))
  split
  · exact State.wf_withMem h rfl (Memory.wf_recount _ _ _ hm)
  · exact State.wf_fresh (State.wf_withMem h rfl (Memory.wf_recount _ _ _ hm))
theorem State.wf_sealWave {s : State} {pa : Nat} {w : BitVec 32} (h : s.memWf) : (s.sealWave pa w).1.memWf := by
  unfold State.sealWave
  dsimp only
  split
  · exact h
  · exact h
  · exact State.wf_fst_ite h (State.wf_withMem h rfl (Memory.wf_store _ _ _ _ (State.mem_wf h)))
  · exact State.wf_withMem h rfl (Memory.wf_store _ _ _ _ (Memory.wf_claim _ _ (State.mem_wf h)))
theorem State.wf_recordVerifier {s : State} {src : Source} {type : Nat} {ws : List Word} (h : s.memWf) :
    (s.recordVerifier src type ws).memWf := by
  unfold State.recordVerifier
  split
  · exact State.wf_recordCore h
  · exact State.wf_record h
  · exact State.wf_record h
  · exact h
theorem State.wf_setLost {s : State} {src : Source} {source : Nat} {v : Bool} (h : s.memWf) : (s.setLost src source v).memWf := by
  unfold State.setLost
  split
  · exact State.wf_foldl h fun _ _ hx => State.memWf_modCore _ hx fun _ hk => hk
  · exact State.wf_with h rfl
  · exact State.wf_with h rfl
  · exact h
theorem State.wf_sendRecords {s : State} {src : Source} {issuer : Nat} {recs : List (List Word)} {after : List Instr} (h : s.memWf) :
    (s.sendRecords src issuer recs after).memWf := by
  induction recs generalizing s with
  | nil => exact State.wf_foldl h fun t e ht => State.wf_push ht
  | cons ws rest ih =>
    rw [State.sendRecords]
    extract_lets u o t
    have hu : u.memWf := State.wf_setLost h
    refine State.wf_ite (ih (State.wf_setLost (State.wf_recordVerifier h))) (ih (State.wf_fresh ?_))
    cases src with
    | core c => exact State.memWf_modCore _ hu fun _ hk => hk
    | _ => exact State.wf_with hu rfl
theorem State.wf_sendReduce {s : State} {issuer pa : Nat} {va : Word} {dst src : List Byte} {stored badDst : Bool} {faults : List
  Nat} {f : Folded} {done : List Instr} (h : s.memWf) :
    (s.sendReduce issuer pa va dst src stored badDst faults f done).memWf := by
  unfold State.sendReduce
  dsimp only
  split
  · exact State.wf_sendRecords h
  · exact State.wf_ite (State.wf_sendRecords h) (State.wf_sendRecords h)
theorem Memory.wf_markWords {m : Memory} {a : Nat} {bad : List Nat} (h : m.wf) : (m.markWords a bad).wf :=
  Memory.wf_foldl h fun _ _ hx => Memory.wf_setBad _ _ hx
theorem State.wf_reduceAt {s : State} {r : Req} {pa op : Nat} {img : List Byte} {badSrc : List Nat} {va : Word} (h : s.memWf) :
    (s.reduceAt r pa op img badSrc va).memWf := by
  unfold State.reduceAt
  refine State.wf_sendReduce ?_
  split
  · exact State.wf_withMem h rfl (Memory.wf_markWords (Memory.wf_write _ _ _ (State.mem_wf h)))
  · exact h
theorem State.wf_discardEntryWrite {s : State} {frame : Nat} {w0 : Word} (h : s.memWf) : (s.discardEntryWrite frame w0).memWf := h
theorem State.wf_writeTable {s : State} {part frame : Nat} {w0 w1 : Word} (h : s.memWf) : (s.writeTable part frame w0 w1).memWf :=
  State.wf_ite (State.wf_discardEntryWrite h) (State.wf_with h rfl)
theorem State.wf_writeAnchor {s : State} {part i : Nat} {w : Word} (h : s.memWf) : (s.writeAnchor part i w).memWf := by
  unfold State.writeAnchor
  split
  · exact State.wf_withMem h rfl (Memory.wf_store _ _ _ _ (State.mem_wf h))
  · exact h
theorem State.wf_writeSeen {s : State} {part a : Nat} {bs : List Byte} (h : s.memWf) : (s.writeSeen part a bs).memWf :=
  State.wf_evalWatches (State.wf_writeV h)
theorem State.wf_append {s : State} {q : Nat} {img : List Byte} (h : s.memWf) : (s.append q img).1.memWf :=
  State.wf_fst_ite h (State.wf_writeSeen (State.wf_writeV (State.wf_writeV h)))
theorem Memory.wf_keepHeaders {m old : Memory} {hs : List Nat} {a n : Nat} (h : m.wf) : (m.keepHeaders old hs a n).wf :=
  Memory.wf_ite (Memory.wf_foldl h fun _ _ hx => Memory.wf_ite (Memory.wf_setBad _ _ (Memory.wf_setByte _ _ hx)) hx) h
theorem State.wf_tellControls {s : State} {ws : List Wr} (h : s.memWf) : (s.tellControls ws).memWf := by
  unfold State.tellControls
  refine State.wf_foldl h fun t q ht => ?_
  split
  · exact State.wf_ite (State.wf_push ht) ht
  · exact ht
theorem State.wf_writeGlobal {s : State} {ws : List Wr} (h : s.memWf) : (s.writeGlobal ws).memWf := by
  refine State.wf_evalWatches (State.wf_tellControls (State.wf_withMem h rfl ?_))
  exact Memory.wf_foldl (State.mem_wf h) fun m w hm => Memory.wf_keepHeaders (Memory.wf_store _ _ _ _ hm)
theorem State.wf_storeTable {s : State} {part : Nat} {ws : List Wr} (h : s.memWf) : (s.storeTable part ws).memWf := by
  unfold State.storeTable
  refine State.wf_foldl h ?_
  intro _ _ hx
  split
  · exact State.wf_writeTable hx
  · exact State.wf_discardEntryWrite hx
theorem State.wf_sliceStore {s : State} {part : Nat} {ws : List Wr} (h : s.memWf) : (s.sliceStore part ws).memWf :=
  State.wf_ite (State.wf_storeTable h) (State.wf_writeGlobal h)
theorem State.wf_slicePut {s : State} {m : Memory} {a n : Nat} (h : s.memWf) (hm : m.wf) : (s.slicePut m a n).memWf :=
  State.wf_evalWatches (State.wf_tellControls (State.wf_withMem h rfl (Memory.wf_keepHeaders hm)))
theorem State.wf_sliceKeep {s t : State} {a n : Nat} (h : t.memWf) : (s.sliceKeep t a n).memWf :=
  State.wf_evalWatches (State.wf_tellControls (State.wf_withMem h rfl (Memory.wf_keepHeaders (State.mem_wf h))))
theorem State.wf_chainOn {s : State} {r : Req} {n : Datum} {pa : Nat} {a5 : Chain} (h : s.memWf) : (s.chainOn r n pa a5).memWf := by
  unfold State.chainOn
  split
  · exact State.wf_answer h
  · exact State.wf_push h
  · exact State.wf_fresh (State.wf_with h rfl)
  · exact State.wf_push h
theorem State.wf_putInOrder {s : State} {r : Req} {desc pa : Nat} {chw : Word} {cons : Bool} {c : ChangeRec} (h : s.memWf) :
    (s.putInOrder r desc pa chw cons c).1.memWf := State.wf_fst_ite h (State.wf_putChange h)
theorem State.wf_performSlice {s : State} {r : Req} (h : s.memWf) : (s.performSlice r).memWf := by
  unfold State.performSlice
  split
  · exact State.wf_answer (State.wf_discardEntryWrite h)
  · split
    · exact State.wf_answer h
    · exact State.wf_answer (State.wf_sliceStore h)
    · exact State.wf_answer (State.wf_slicePut h (Memory.wf_atomic _ _ _ _ (State.mem_wf h)))
    · dsimp only
      split
      · exact State.wf_answer (State.wf_slicePut h (Memory.wf_packet _ _ _ _ (State.mem_wf h)))
      · exact State.wf_chainOn (State.wf_slicePut h (Memory.wf_packet _ _ _ _ (State.mem_wf h)))
    · exact State.wf_answer (State.wf_slicePut h (Memory.wf_cas _ _ _ _ (State.mem_wf h)))
    · exact State.wf_sliceKeep (State.wf_reduceAt h)
    · exact State.wf_ite (State.wf_answer h) (State.wf_ite (State.wf_answer h) (State.wf_answer (State.wf_slicePut h
        (Memory.wf_arrange _ _ _ _ (State.mem_wf h)))))
    · exact State.wf_answer (State.wf_sliceKeep (State.wf_putInOrder h))
    · exact State.wf_answer (State.wf_sliceKeep (State.wf_sealWave h))
    · refine State.wf_ite (State.wf_answer h) ?_
      split
      · exact State.wf_with h rfl
      · exact h
    · exact State.wf_answer (State.wf_slicePut h (Memory.wf_recount _ _ _ (State.mem_wf h)))
    · exact State.wf_answer (State.wf_slicePut h (Memory.wf_atomic _ _ _ _ (State.mem_wf h)))
    · refine State.wf_ite (State.wf_answer h) (State.wf_ite ?_ (State.wf_answer h))
      split
      · exact State.wf_with h rfl
      · exact h
    · exact State.wf_answer (State.wf_evalWatches (State.wf_append h))
    · exact State.wf_answer h
    · exact State.wf_answer (State.wf_writeTable h)
    · exact State.wf_answer h
    · exact State.wf_answer (State.wf_writeAnchor h)
    · exact State.wf_answer h
    · exact State.wf_answer h

/-! ### Requests and checks of accesses (spec/04 R108, R109) -/

theorem State.wf_emit {s : State} {e : Instr} (h : s.memWf) : (s.emit e).memWf :=
  State.wf_ite (State.memWf_modMe h fun _ hk => hk) (State.wf_push h)
theorem State.wf_dispatch {s : State} {counted : Bool} {r : Req} (h : s.memWf) : (s.dispatch counted r).memWf :=
  State.wf_ite (State.wf_answer (State.wf_performCore h)) (State.wf_ite (State.wf_foldl h fun _ _ hx => State.wf_emit hx)
    (State.wf_ite (State.memWf_closing (State.wf_foldl h fun _ _ hx => State.wf_emit hx))
    (State.wf_foldl h fun _ _ hx => State.wf_push hx)))
theorem State.wf_sendStore {s : State} {uids : List Nat} {home : Option Nat} {op : MemOp} (h : s.memWf) :
    (s.sendStore uids home op).memWf := by
  unfold State.sendStore
  with_reducible exact State.wf_dispatch (State.memWf_modMe h fun _ hx => Core.wf_modGang hx)
theorem State.wf_sendLoad {s : State} {dest : LoadDest} {uids : List Nat} {counted : Bool} {home : Option Nat} {op : MemOp} (h :
  s.memWf) :
    (s.sendLoad dest uids counted home op).memWf :=
  State.wf_dispatch (State.wf_ite (State.memWf_modGang _ (State.wf_fresh (State.memWf_modMe h fun _ hx => hx))) (State.wf_fresh
    (State.memWf_modMe h fun _ hx => hx)))
theorem State.wf_returnShared {s : State} {c n : Nat} (h : s.memWf) : (s.returnShared c n).memWf := h
theorem State.wf_gangFault {s : State} {a : Word} {write : Bool} (h : s.memWf) : (s.gangFault a write).Wf := by
  unfold State.gangFault
  refine Out.wf_ite Out.wf_trap ?_
  split
  · exact Out.wf_wait h
  · exact Out.wf_stay (State.memWf_wake (State.wf_returnShared (State.wf_setMe h (State.me_wf h))))
theorem State.wf_checked {s : State} {a : Word} {write : Bool} {c : Chk} {body : Chk → Out} (h : s.memWf) (hbody : ∀ x, (body x).Wf) :
    (s.checked a write c body).Wf := by
  unfold State.checked
  split
  · exact State.wf_addrTrap
  · exact State.wf_gangFault h
  · exact Out.wf_wait (State.wf_askWalks h)
  · exact hbody _
theorem State.wf_gangAccess {s : State} {a : Word} {size align : Nat} {write : Bool} {mis : Nat} {body : Chk → Out} (h : s.memWf)
  (hbody : ∀ x, (body x).Wf) :
    (s.gangAccess a size align write mis body).Wf :=
  Out.wf_ite (Out.wf_wait h) (State.wf_checked h fun _ => Out.wf_ite (Out.wf_wait h) (hbody _))
theorem State.wf_whenStore {s : State} {body : Out} (h : s.memWf) (hbody : body.Wf) : (s.whenStore body).Wf :=
  Out.wf_ite (Out.wf_wait h) hbody
theorem State.wf_whenQueued {s : State} {body : Out} (h : s.memWf) (hbody : body.Wf) : (s.whenQueued body).Wf :=
  Out.wf_ite (Out.wf_wait h) hbody
theorem State.wf_whenReleased {s : State} {body : Out} (h : s.memWf) (hbody : body.Wf) : (s.whenReleased body).Wf :=
  Out.wf_ite hbody (Out.wf_wait (State.memWf_closing h))

/-! ### Gang memory instructions (spec/04 R104-R113) -/

theorem State.wf_localForm {s : State} {addrs uses all : List (BitVec 4)} {ea : Word} {align mis : Nat} {body : Out} (h : s.memWf)
  (hbody : body.Wf) :
    (s.localForm addrs uses all ea align mis body).Wf := by
  unfold State.localForm
  refine State.wf_gateAddr h (Out.wf_ite (Out.wf_wait h) ?_)
  split
  · exact State.wf_addrTrap
  · exact hbody
theorem State.wf_loadLocal {s : State} {size : Nat} {sx : Bool} {ps : List (BitVec 4 × Nat)} (h : s.memWf) :
    (s.loadLocal size sx ps).memWf := by
  induction ps generalizing s with
  | nil => exact h
  | cons p ps ih => exact ih (State.memWf_writeG _ _ _ h)
theorem State.wf_storeLocal {s : State} {ws : List Wr} (h : s.memWf) : (s.storeLocal ws).memWf :=
  State.memWf_modMe h fun _ hk => Core.wf_writes _ hk
theorem nextWf_execLdl {d a : BitVec 4} {z : BitVec 2} {e n : BitVec 1} {f : BitVec 11} {s : State} (h : s.memWf) :
    NextWf (execLdl d a z e n f s) :=
  State.nextWf_finish h (State.wf_localForm h (Out.wf_next (State.wf_loadLocal (State.wf_scanLocal h))))
theorem nextWf_execStl {d a : BitVec 4} {z : BitVec 2} {n : BitVec 1} {f : BitVec 11} {s : State} (h : s.memWf) :
    NextWf (execStl d a z n f s) :=
  State.nextWf_finish h (State.wf_localForm h (Out.wf_ite (Out.wf_wait h) (Out.wf_next (State.wf_storeLocal h))))
theorem State.wf_startLoad {s : State} {d : BitVec 4} {size : Nat} {sx acq : Bool} {c : Chk} (h : s.memWf) :
    (s.startLoad d size sx acq c).memWf := State.wf_sendLoad (State.wf_ite (State.memWf_modGang _ (State.wf_pendG h))
      (State.wf_pendG h))
theorem State.wf_loadForm {s : State} {d : BitVec 4} {addrs : List (BitVec 4)} {ea : Word} {size : Nat} {sx acq : Bool} (h : s.memWf) :
    (s.loadForm d addrs ea size sx acq).Wf :=
  State.wf_gateAddr h (State.wf_gangAccess h fun _ => Out.wf_ite (Out.wf_wait h) (Out.wf_next (State.wf_startLoad h)))
theorem State.wf_storeForm {s : State} {regs addrs : List (BitVec 4)} {ea : Word} {size : Nat} {rel : Bool} {ws : Nat → List Wr} (h
  : s.memWf) :
    (s.storeForm regs addrs ea size rel ws).Wf :=
  State.wf_gateAddr h (State.wf_gangAccess h fun _ => Out.wf_ite (State.wf_whenReleased h (State.wf_whenStore h (State.wf_whenQueued
    h (Out.wf_next (State.wf_sendStore h))))) (State.wf_whenStore h (State.wf_whenQueued h (Out.wf_next (State.wf_sendStore h)))))
theorem nextWf_execLd {d a : BitVec 4} {z : BitVec 2} {e n : BitVec 1} {f : BitVec 11} {s : State} (h : s.memWf) :
    NextWf (execLd d a z e n f s) := State.nextWf_finish h (State.wf_loadForm h)
theorem nextWf_execSt {d a : BitVec 4} {z : BitVec 2} {n : BitVec 1} {f : BitVec 11} {s : State} (h : s.memWf) :
    NextWf (execSt d a z n f s) := State.nextWf_finish h (State.wf_storeForm h)
theorem nextWf_execWbk {a : BitVec 4} {n : BitVec 1} {f : BitVec 11} {s : State} (h : s.memWf) : NextWf (execWbk a n f s) :=
  State.nextWf_finish h (State.wf_gateAddr h (Out.wf_ite (Out.wf_wait h) (Out.wf_ite State.wf_addrTrap (Out.wf_ite (Out.wf_ite
    (Out.wf_next h) State.wf_addrTrap) (State.wf_checked h fun _ => Out.wf_ite (Out.wf_wait h) (State.wf_whenStore h (Out.wf_next
    (State.wf_sendStore h))))))))
theorem nextWf_execXlq {d a : BitVec 4} {n : BitVec 1} {f : BitVec 11} {s : State} (h : s.memWf) : NextWf (execXlq d a n f s) := by
  unfold execXlq
  refine State.nextWf_finish h (State.wf_gateAddr h (Out.wf_ite (Out.wf_next (State.memWf_writeG _ _ _ h)) ?_))
  refine Out.wf_ite (Out.wf_ite (Out.wf_next (State.memWf_writeG _ _ _ h)) (Out.wf_next (State.memWf_writeG _ _ _ h))) ?_
  split
  · exact Out.wf_next (State.memWf_writeG _ _ _ h)
  · exact Out.wf_wait (State.wf_askWalks h)
  · exact Out.wf_next (State.memWf_writeG _ _ _ h)
theorem nextWf_execChka {d a : BitVec 4} {z : BitVec 2} {e n : BitVec 1} {f : BitVec 11} {s : State} (h : s.memWf) :
    NextWf (execChka d a z e n f s) := by
  unfold execChka
  refine State.nextWf_finish h (State.wf_gateAddr h ?_)
  split
  · exact Out.wf_wait (State.wf_askWalks h)
  · exact Out.wf_next (State.memWf_writeG _ _ _ h)

/-! ### The shape of a lane instruction (spec/09 R204-R206) -/

theorem State.wf_laneGate {s : State} {p : BitVec 3} {is uses all : List Nat} {body : Out} (h : s.memWf) (hbody : body.Wf) :
    (s.laneGate p is uses all body).Wf := by
  unfold State.laneGate
  refine Out.wf_ite (Out.wf_wait h) (Out.wf_ite Out.wf_trap ?_)
  split
  · exact Out.wf_trap
  · exact hbody
theorem State.wf_laneOp {s : State} {p : BitVec 3} {d : BitVec 6} {srcs : List (BitVec 6)} {f : Nat → Lane → Word} (h : s.memWf) :
    (s.laneOp p d srcs f).Wf := State.wf_laneGate h (Out.wf_next (State.memWf_modGang _ h))
theorem State.wf_lanePred {s : State} {p : BitVec 3} {d : BitVec 6} {srcs : List (BitVec 6)} {f : Lane → Bool} (h : s.memWf) :
    (s.lanePred p d srcs f).Wf := State.wf_laneGate h (Out.wf_next (State.memWf_modGang _ h))

/-! ### Lanes that leave a gang (spec/06 R138, spec/12 R312) -/

theorem Core.wf_orphanLoads {k : Core} {slot : Nat} (h : k.mem.wf) : (k.orphanLoads slot).mem.wf := h
theorem Core.wf_leaveLoads {k : Core} {slot : Nat} (h : k.mem.wf) : (k.leaveLoads slot).mem.wf := h
theorem State.wf_endFiring {s : State} {slot : Nat} (h : s.memWf) : (s.endFiring slot).memWf := by
  unfold State.endFiring
  with_reducible refine State.memWf_wake (State.wf_setMe (State.wf_returnShared h) ?_)
  split
  · with_reducible exact Core.wf_setAt (Core.wf_leaveReaders (Core.wf_ite (State.me_wf h) (State.me_wf h)))
  · with_reducible exact Core.wf_orphanLoads (Core.wf_leaveReaders (Core.wf_ite (State.me_wf h) (State.me_wf h)))
theorem Core.wf_saveLanes {k : Core} {f : Nat} {is : List Nat} {a : Word} {write : Bool} (h : k.mem.wf) :
    (k.saveLanes f is a write).mem.wf := h
theorem State.wf_laneFault {s : State} {is : List Nat} {a : Word} {write : Bool} {go : State → Out} (h : s.memWf)
    (hgo : ∀ t, t.memWf → (go t).Wf) : (s.laneFault is a write go).Wf := by
  unfold State.laneFault
  refine Out.wf_ite Out.wf_trap (Out.wf_ite (State.wf_gangFault h) ?_)
  split
  · exact Out.wf_wait h
  · have ht : ∀ f, (s.setMe (s.me.saveLanes f is a write)).memWf := fun _ => State.wf_setMe h (Core.wf_saveLanes (State.me_wf h))
    exact Out.wf_ite (Out.wf_wait h) (Out.wf_ite (Out.wf_stay (State.wf_endFiring (State.memWf_modGang _ (ht _)))) (hgo _ (ht _)))
theorem State.wf_dropFrameHold {s : State} {a : Nat} (h : s.memWf) : (s.dropFrameHold a).memWf :=
  State.wf_withCtx (State.memWf_modCore _ h fun _ hk => hk) (State.savedCores_wf h)
theorem State.wf_loseHold {s : State} {m : Msg} (h : s.memWf) : (s.loseHold m).memWf := by
  unfold State.loseHold
  split
  · exact h
  · split
    · exact State.wf_push (State.wf_dropFrameHold h)
    · exact h

/-! ### Channels, grants and arrivals (spec/06 R143-R167) -/

theorem State.wf_grantNext {s : State} {c ch : Nat} {n : Nat} (h : s.memWf) : (s.grantNext c ch n).memWf := by
  induction n generalizing s with
  | zero => exact h
  | succ n ih =>
    rw [State.grantNext]
    dsimp only
    split
    · exact h
    · refine State.wf_ite (ih ?_) (State.wf_ite h (State.wf_ite h (ih ?_)))
      · exact State.wf_push (State.memWf_setCore _ h (State.memWf_core h _))
      · exact State.wf_push (State.memWf_setCore _ h (State.memWf_core h _))
theorem State.wf_regrant {s : State} {c ch : Nat} (h : s.memWf) : (s.regrant c ch).memWf := State.wf_grantNext h
theorem State.wf_revokeGrants {s : State} {c ch : Nat} (h : s.memWf) : (s.revokeGrants c ch).memWf :=
  State.wf_foldl (State.memWf_setCore _ h (State.memWf_core h _)) fun _ _ hx => State.wf_push hx
theorem State.wf_arrive {s : State} {m : Msg} (h : s.memWf) : (s.arrive m).memWf :=
  State.memWf_wake (State.memWf_setCore _ h (Core.wf_ite (Core.wf_setChannel (State.memWf_core h _)) (State.memWf_core h _)))
theorem Core.wf_dropArrivals {k : Core} {ms : List Msg} (h : k.mem.wf) : (k.dropArrivals ms).mem.wf := h
theorem Core.wf_mapOuts {k : Core} {f : Outbound → Outbound} (h : k.mem.wf) : (k.mapOuts f).mem.wf := h
theorem Core.wf_dropOut {k : Core} {id : Nat} (h : k.mem.wf) : (k.dropOut id).mem.wf := h
theorem State.wf_askCore {s : State} {c : Nat} (h : s.memWf) : (s.askCore c).memWf := by
  unfold State.askCore
  with_reducible exact State.wf_ite h (State.wf_foldl (State.memWf_setCore _ h (Core.wf_mapOuts (State.memWf_core h _))) fun _ _ hx
                   => State.wf_push hx)
theorem State.wf_askDerrick {s : State} (h : s.memWf) : s.askDerrick.memWf :=
  State.wf_ite h (State.wf_foldl (State.wf_with h rfl) fun _ _ hx => State.wf_push hx)
theorem State.wf_askSlices {s : State} (h : s.memWf) : s.askSlices.memWf :=
  State.wf_ite h (State.wf_foldl (State.wf_with h rfl) fun _ _ hx => State.wf_push hx)
theorem State.wf_askAll {s : State} (h : s.memWf) : s.askAll.memWf := by
  unfold State.askAll
  extract_lets t t1 _
  have ht : t.memWf := State.wf_foldl h fun _ _ hx => State.wf_askCore hx
  have ht1 : t1.memWf := State.wf_askSlices (State.wf_askDerrick ht)
  exact State.wf_ite ht (State.wf_ite (State.wf_askSlices ht) (State.wf_ite (State.wf_with ht1 rfl) ht1))
theorem State.wf_mapOut {s : State} {src : Source} {id : Nat} {f : Outbound → Outbound} (h : s.memWf) : (s.mapOut src id f).memWf := by
  unfold State.mapOut
  dsimp only
  split
  · exact State.memWf_modCore _ h fun _ hk => Core.wf_mapOuts hk
  · exact State.wf_with h rfl
  · exact State.wf_with h rfl
  · exact State.wf_with h rfl
  · exact h
  · exact h
theorem State.wf_dropOut {s : State} {src : Source} {id : Nat} (h : s.memWf) : (s.dropOut src id).memWf := by
  unfold State.dropOut
  split
  · exact State.memWf_modCore _ h fun _ hk => Core.wf_dropOut hk
  · exact State.wf_with h rfl
  · exact State.wf_with h rfl
  · exact State.wf_with h rfl
  · exact h
  · exact h
theorem State.wf_keepGrant {s : State} {q : GrantAsk} (h : s.memWf) : (s.keepGrant q).memWf := by
  unfold State.keepGrant
  split
  · exact State.memWf_modCore _ h fun _ hk => hk
  · exact State.wf_with h rfl
  · exact State.wf_with h rfl
  · exact State.wf_with h rfl
  · exact h
  · exact h
theorem State.wf_loseGrant {s : State} {q : GrantAsk} (h : s.memWf) : (s.loseGrant q).memWf := by
  unfold State.loseGrant
  split
  · exact State.memWf_modCore _ h fun _ hk => hk
  · exact State.wf_with h rfl
  · exact State.wf_with h rfl
  · exact State.wf_with h rfl
  · exact h
  · exact h
theorem State.wf_forwardOn {s : State} {c : Nat} {m : CarryMsg} {dst : Nat} (h : s.memWf) : (s.forwardOn c m dst).memWf :=
  State.wf_ite h (State.wf_with (State.memWf_modCore _ h fun _ hk => hk) rfl)
theorem State.wf_leave {s : State} {src : Source} {id : Nat} (h : s.memWf) : (s.leave src id).memWf := by
  unfold State.leave
  split
  · exact h
  · refine State.memWf_wake (State.wf_pushAs ?_)
    split
    · exact State.memWf_modCore _ (State.wf_forwardOn (State.wf_ite (State.wf_dropOut h) (State.wf_mapOut h))) fun _ hk => hk
    · exact State.wf_ite (State.wf_dropOut h) (State.wf_mapOut h)
theorem State.wf_wakeDir {s : State} {id : Nat} (h : s.memWf) : (s.wakeDir id).memWf := by
  unfold State.wakeDir
  split
  · exact State.wf_wakeBlocks h
  · exact h
theorem State.wf_entry {s : State} {c id : Nat} (h : s.memWf) : SomeWf (fun r => r.2.memWf) (s.entry c id) := by
  unfold State.entry
  split
  · exact someWf_some h
  · exact someWf_map_of_forall fun _ => State.memWf_modCore _ (State.wf_wakeDir h) fun _ hk => hk
theorem State.wf_chooseReplica {s : State} {c : Nat} {e : DirEntry} {home : Bool} (h : s.memWf) :
    (s.chooseReplica c e home).2.memWf := by
  unfold State.chooseReplica
  dsimp only
  split
  · exact h
  · exact State.memWf_setCore _ h (State.memWf_core h _)
theorem State.wf_drawStrand {s : State} {launch : Nat} (h : s.memWf) : SomeWf (fun r => r.2.memWf) (s.drawStrand launch) :=
  someWf_ite someWf_none (someWf_map_of_forall fun _ => State.wf_with h rfl)
theorem State.wf_countLaunch {s : State} {id : Nat} {d : Int} (h : s.memWf) : (s.countLaunch id d).memWf := by
  unfold State.countLaunch
  dsimp only
  split
  · exact State.wf_push (State.wf_with h rfl)
  · exact State.wf_with h rfl
theorem State.wf_retireStrand {s : State} {n : Nat} (h : s.memWf) : (s.retireStrand n).memWf :=
  State.wf_ite (State.wf_with h rfl) (State.wf_countLaunch (State.wf_with h rfl))
theorem State.wf_bindRing {s : State} {c ch : Nat} (h : s.memWf) : (s.bindRing c ch).memWf :=
  State.wf_ite (State.memWf_modCore _ h fun _ hk => Core.wf_setChannel hk) h

/-! ### Transfers elsewhere and messages (spec/06) -/

theorem State.wf_startXfer {s : State} {kind : XferKind} {p : BitVec 3} {a4 : BitVec 1} (h : s.memWf) : (s.startXfer kind p a4).Wf :=
  Out.wf_ite State.wf_trapHere (Out.wf_next (State.memWf_modMe h fun _ hk => Core.wf_setXfer hk))
theorem nextWf_execXret {q : BitVec 3} {a2 : BitVec 1} {s : State} (h : s.memWf) : NextWf (execXret q a2 s) :=
  State.nextWf_finish h (State.wf_startXfer h)
theorem nextWf_execXend {q : BitVec 3} {s : State} (h : s.memWf) : NextWf (execXend q s) :=
  State.nextWf_finish h (State.wf_startXfer h)
theorem State.wf_readEntries {s : State} {ids : List Nat} (h : s.memWf) : (s.readEntries ids).1.memWf := by
  refine State.wf_fst_foldl h fun r id hr => ?_
  split
  · exact hr
  · rename_i t
    split
    · rename_i e t' heq
      exact State.wf_entry hr _ heq
    · exact hr
theorem State.wf_packLane {s : State} {x : Xfer} {i : Nat} (h : s.memWf) : SomeWf (fun t => t.memWf) (s.packLane x i) := by
  unfold State.packLane
  extract_lets g l a e l' drawn
  refine someWf_ite someWf_none (someWf_map (p := fun d => d.2.memWf) ?_ fun d hd => ?_)
  · exact someWf_ite (State.wf_drawStrand h) (someWf_some h)
  · have ht : (d.2.chooseReplica d.2.cur e x.home).2.memWf := State.wf_chooseReplica hd
    exact State.wf_fresh (State.memWf_modMe (State.memWf_modGang _ ht) fun _ hk => hk)
theorem State.wf_packLanes {s : State} {x : Xfer} {is : List Nat} (h : s.memWf) : (s.packLanes x is).1.memWf := by
  induction is generalizing s with
  | nil => exact h
  | cons i is ih =>
    rw [State.packLanes]
    refine State.wf_fst_ite (ih h) ?_
    split
    · rename_i t heq
      exact ih (State.wf_packLane h _ heq)
    · exact h
theorem State.wf_endXfer {s : State} {x : Xfer} {gone : List Nat} (h : s.memWf) : (s.endXfer x gone).memWf := by
  unfold State.endXfer
  extract_lets slot t t1
  have ht : t.memWf := State.memWf_modMe (State.memWf_modGang _ h) fun _ hk => Core.wf_leaveLoads (Core.wf_setXfer hk)
  have ht1 : t1.memWf := State.wf_ite (State.wf_tellGang ht) ht
  exact State.wf_ite (State.wf_endFiring (State.memWf_modMe ht1 fun _ hk => hk)) (State.memWf_takeAfter _ ht)
theorem State.wf_failXfer {s : State} {x : Xfer} {c : Cause} (h : s.memWf) : (s.failXfer x c).memWf :=
  State.wf_ite (State.memWf_modGang _ (State.memWf_modMe h fun _ hk => Core.wf_modGang (Core.wf_setXfer hk))) (State.memWf_takeTrap
    _ (State.memWf_modMe h fun _ hk => Core.wf_modGang (Core.wf_setXfer hk)))
theorem State.wf_waiting {s : State} (h : s.memWf) : s.waiting.memWf := State.memWf_modGang _ h
theorem State.wf_pack {s : State} {x : Xfer} (h : s.memWf) : (s.pack x).memWf := by
  unfold State.pack
  refine State.wf_ite (State.wf_failXfer h) (State.wf_ite (State.wf_endXfer h) ?_)
  split
  · exact State.wf_ite (State.wf_waiting (State.memWf_closing h)) (State.wf_endXfer (State.wf_foldl h fun _ _ hx1 => State.wf_ite hx1
      (State.wf_retireStrand hx1)))
  · refine State.wf_ite (State.wf_waiting h) (State.wf_ite (State.wf_failXfer h) ?_)
    split
    · rename_i t _ heq
      have ht : t.memWf := State.wf_of_fst_eq heq (State.wf_readEntries h)
      exact State.wf_failXfer ht
    · rename_i t heq
      have ht : t.memWf := State.wf_of_fst_eq heq (State.wf_readEntries h)
      dsimp only
      split
      · exact State.wf_failXfer ht
      · exact State.wf_waiting (State.memWf_closing (State.memWf_modMe (State.wf_packLanes ht) fun _ hx1 => Core.wf_setXfer hx1))
theorem nextWf_execTransferPacking {s : State} (h : s.memWf) : NextWf (execTransferPacking s) := by
  unfold execTransferPacking
  split
  · exact nextWf_next h
  · exact nextWf_ite (nextWf_ite (nextWf_next (State.wf_waiting h)) (nextWf_next (State.wf_endXfer h)))
      (nextWf_next (State.wf_pack h))
theorem nextWf_execReadyQueueSend {core : Nat} {s : State} (h : s.memWf) : NextWf (execReadyQueueSend core s) := by
  unfold execReadyQueueSend
  split
  · exact nextWf_next (State.wf_leave h)
  · exact nextWf_next h
theorem nextWf_execChangeSliceQueueSend {slice : Nat} {s : State} (h : s.memWf) : NextWf (execChangeSliceQueueSend slice s) := by
  unfold execChangeSliceQueueSend
  split
  · exact nextWf_next (State.wf_leave h)
  · exact nextWf_next h
theorem State.wf_recordRefused {s : State} {by' : Source} {kind : Nat} {dst src : Word} (h : s.memWf) :
    (s.recordRefused by' kind dst src).memWf := by
  unfold State.recordRefused
  split
  · exact State.wf_recordVerifier h
  · exact State.wf_recordVerifier h
  · exact State.wf_recordVerifier h
  · exact State.wf_record h
theorem nextWf_execGrant {q : GrantAsk} {s : State} (h : s.memWf) : NextWf (execGrant q s) := by
  unfold execGrant
  refine nextWf_next ?_
  split
  · exact State.wf_mapOut h
  · exact State.wf_keepGrant h
theorem nextWf_execRevocation {q : GrantAsk} {s : State} (h : s.memWf) : NextWf (execRevocation q s) := by
  unfold execRevocation
  refine nextWf_next ?_
  split
  · exact State.wf_mapOut h
  · exact State.wf_loseGrant h
theorem nextWf_execRefusal {q : GrantAsk} {s : State} (h : s.memWf) : NextWf (execRefusal q s) := by
  unfold execRefusal
  refine nextWf_next ?_
  split
  · exact h
  · dsimp only
    split
    · exact State.memWf_wake (State.wf_foldl (State.wf_ite (State.wf_setLost (State.wf_recordVerifier (State.wf_push
        (State.wf_recordCore (State.wf_dropOut h))))) (State.wf_push (State.wf_recordCore (State.wf_dropOut h)))) fun _ _ hx =>
        State.wf_pushAs hx)
    · exact State.wf_push (State.wf_recordCore (State.wf_mapOut h))
    · exact State.wf_push (State.wf_dropOut h)
theorem State.wf_withdraw {s : State} {q : GrantAsk} (h : s.memWf) : (s.withdraw q).memWf :=
  State.wf_unpush (State.memWf_modCore _ h fun _ hk => hk)
theorem State.wf_writeRing {s : State} {r j : Nat} {m : CarryMsg} (h : s.memWf) : (s.writeRing r j m).memWf := by
  unfold State.writeRing
  extract_lets p carry img base t t1 t2
  have ht1 : t1.memWf := State.wf_writeV (State.wf_writeV h)
  have ht2 : t2.memWf := by
    unfold t2
    split
    · exact State.wf_withMem ht1 rfl (Memory.wf_foldl (State.mem_wf ht1) fun m i hm => Memory.wf_setBad _ _ hm)
    · exact ht1
  exact State.wf_writeSeen ht2
theorem State.wf_recordSaved {s : State} {c : Nat} {o : Outbound} (h : s.memWf) : (s.recordSaved c o).memWf := by
  unfold State.recordSaved
  split
  · exact h
  · dsimp only
    split
    · exact State.wf_writeV h
    · exact h
theorem State.wf_recordSource {s : State} {src : Source} {type : Nat} {ws : List Word} (h : s.memWf) :
    (s.recordSource src type ws).memWf := by
  unfold State.recordSource
  split
  · exact State.wf_recordVerifier h
  · exact State.wf_recordVerifier h
  · exact State.wf_record h
theorem nextWf_execSpill {src : Source} {id : Nat} {s : State} (h : s.memWf) : NextWf (execSpill src id s) := by
  unfold execSpill
  refine nextWf_next ?_
  split
  · exact h
  · split
    · extract_lets r p again j t t1 t2 t3
      have hagain : ∀ x, (again x).memWf := fun _ => State.wf_recordSource (State.wf_mapOut h)
      have ht : t.memWf := State.wf_writeRing (State.wf_with h rfl)
      have ht1 : t1.memWf := State.memWf_modCore _ ht fun _ hx => Core.wf_setChannel hx
      have ht2 : t2.memWf := State.wf_withdraw (State.wf_dropOut ht1)
      have ht3 : t3.memWf := by
        unfold t3
        split
        · exact State.memWf_modCore _ ht2 fun _ hx => Core.wf_bump hx
        · exact ht2
      split
      · exact hagain _
      · exact hagain _
      · exact State.wf_ite (hagain _) (State.wf_ite (hagain _) (State.memWf_wake (State.wf_recordSource ht3)))
    · exact h
theorem State.wf_discardMsg {s : State} {m : Msg} (h : s.memWf) : (s.discardMsg m).memWf := by
  unfold State.discardMsg
  extract_lets what t ws t1
  have ht : t.memWf := State.wf_loseHold (State.wf_recordRefused h)
  have ht1 : t1.memWf := State.wf_dropOut ht
  split
  · exact ht
  · extract_lets t2
    have ht2 : t2.memWf := State.wf_ite (State.wf_setLost (State.wf_recordVerifier ht1)) ht1
    exact State.memWf_wake (State.wf_foldl ht2 fun _ _ hx => State.wf_pushAs hx)
theorem nextWf_execDataMessageArrival {m : Msg} {s : State} (h : s.memWf) : NextWf (execDataMessageArrival m s) := by
  unfold execDataMessageArrival
  refine nextWf_next (State.wf_ite (State.wf_discardMsg h) ?_)
  split
  · exact State.memWf_wake (State.wf_foldl (State.wf_dropOut (State.wf_arrive h)) fun _ _ hx => State.wf_pushAs hx)
  · exact State.wf_arrive h
theorem State.wf_sendRelease {s : State} {c desc : Nat} {w : BitVec 32} {n : Nat} (h : s.memWf) : (s.sendRelease c desc w n).memWf := by
  unfold State.sendRelease
  split
  · exact State.wf_push h
  · exact h
theorem nextWf_execChangeMessageArrival {m : Msg} {s : State} (h : s.memWf) : NextWf (execChangeMessageArrival m s) := by
  unfold execChangeMessageArrival
  refine nextWf_next ?_
  split
  · refine State.wf_ite (State.wf_push h) (State.wf_ite (State.wf_arrive h) ?_)
    split
    · exact State.wf_arrive h
    · split
      · split
        · exact State.wf_arrive h
        · exact State.memWf_wake (State.wf_regrant (State.wf_sendRelease (State.memWf_modCore _ (State.memWf_setCore _ h
            (State.memWf_core h _))
            fun _ hx => hx)))
      · exact State.wf_arrive h
  · exact State.wf_arrive h
theorem nextWf_execRingDrain {core ch : Nat} {s : State} (h : s.memWf) : NextWf (execRingDrain core ch s) := by
  unfold execRingDrain
  refine nextWf_next (State.wf_ite h ?_)
  split
  · exact h
  · exact State.wf_regrant (State.memWf_setCore _ h (Core.wf_setChannel (State.memWf_core h _)))
  · dsimp only
    split
    · exact State.wf_ite h (State.wf_arrive (State.wf_fresh (State.wf_writeSeen h)))
    · exact h
theorem State.wf_writeDir {s : State} {e : DirEntry} (h : s.memWf) : (s.writeDir e).memWf := by
  unfold State.writeDir
  dsimp only
  split
  · exact State.wf_evalWatches (State.wf_withMem h rfl (Memory.wf_write _ _ _ (State.mem_wf h)))
  · exact h
theorem nextWf_execRebindingTakesEffect {core ch : Nat} {s : State} (h : s.memWf) : NextWf (execRebindingTakesEffect core ch s) := by
  unfold execRebindingTakesEffect
  extract_lets k x r t
  have hk : k.mem.wf := State.memWf_core h _
  have ht : t.memWf := State.memWf_setCore _ h (Core.wf_setChannel hk)
  refine nextWf_next ?_
  split
  · extract_lets c c1
    exact State.memWf_wake (State.wf_regrant (State.wf_bindRing (State.memWf_setCore _ h (Core.wf_setChannel hk))))
  · refine State.wf_ite ?_ h
    split
    · exact State.wf_writeDir ht
    · exact ht
theorem State.wf_onImage {s : State} {off n : Nat} {body : Out} (hbody : body.Wf) : (s.onImage off n body).Wf :=
  Out.wf_ite Out.wf_trap hbody
theorem State.wf_checkChannel {s : State} {a : Word} {body : Out} (hbody : body.Wf) : (s.checkChannel a body).Wf :=
  Out.wf_ite State.wf_addrTrap (Out.wf_ite State.wf_addrTrap hbody)
theorem Core.wf_queueSend {k : Core} {rp : BitVec 1} {o : Outbound} (h : k.mem.wf) : (k.queueSend rp o).mem.wf := Core.wf_ite h h
theorem State.wf_sendForm {s : State} {a b : BitVec 4} {all : List (BitVec 4)} {rp : BitVec 1} {n : BitVec 3} {body : Bool → State
  → Out} (h : s.memWf) (hbody : ∀ x y, y.memWf → (body x y).Wf) :
    (s.sendForm a b all rp n body).Wf :=
  State.wf_gateAddr h (State.wf_checkChannel (Out.wf_ite State.wf_addrTrap (Out.wf_ite State.wf_addrTrap (Out.wf_ite (Out.wf_wait h)
    (Out.wf_ite (hbody _ _ h) (hbody _ _ (State.wf_fresh (State.memWf_modMe
    (State.wf_scanLocal h) fun _ hk => Core.wf_queueSend hk))))))))
theorem nextWf_execSend {a b : BitVec 4} {p : BitVec 1} {n : BitVec 3} {s : State} (h : s.memWf) : NextWf (execSend a b p n s) :=
  State.nextWf_finish h (State.wf_sendForm h fun _ _ hy => Out.wf_ite (Out.wf_ite State.wf_trapHere
    (Out.wf_wait h)) (Out.wf_next hy))
theorem State.wf_takeWord {s : State} {c ch : Nat} (h : s.memWf) : SomeWf (fun r => r.2.memWf) (s.takeWord c ch) := by
  unfold State.takeWord
  dsimp only
  split
  · exact someWf_none
  · split
    · exact someWf_some (State.wf_regrant (State.memWf_setCore _ h (State.memWf_core h _)))
    · exact someWf_none
theorem nextWf_execRecv {d a : BitVec 4} {s : State} (h : s.memWf) : NextWf (execRecv d a s) := by
  unfold execRecv
  refine State.nextWf_finish h (State.wf_blocking (State.wf_gate h (Out.wf_ite Out.wf_trap ?_)))
  split
  · exact Out.wf_wait h
  · rename_i t heq
    have ht : t.memWf := State.wf_takeWord h _ heq
    exact Out.wf_next (State.memWf_writeG _ _ _ ht)
theorem nextWf_execRecvnb {d a b : BitVec 4} {s : State} (h : s.memWf) : NextWf (execRecvnb d a b s) := by
  unfold execRecvnb
  refine State.nextWf_finish h (State.wf_gate h (Out.wf_ite Out.wf_trap ?_))
  split
  · exact Out.wf_next (State.memWf_writeG _ _ _ (State.memWf_writeG _ _ _ h))
  · rename_i t heq
    have ht : t.memWf := State.wf_takeWord h _ heq
    exact Out.wf_next (State.memWf_writeG _ _ _ (State.memWf_writeG _ _ _ ht))
theorem nextWf_execChbind {d a b : BitVec 4} {s : State} (h : s.memWf) : NextWf (execChbind d a b s) :=
  State.nextWf_finish h (State.wf_gateAddr h (Out.wf_ite State.wf_addrTrap (Out.wf_ite State.wf_addrTrap (Out.wf_ite (Out.wf_wait h)
    (State.wf_onImage (Out.wf_ite (Out.wf_next (State.memWf_writeG _ _ _ (State.wf_scanLocal h))) (Out.wf_next (State.memWf_writeG _ _ _
    (State.wf_revokeGrants (State.memWf_modMe (State.wf_scanLocal h) fun _ hx => Core.wf_setChannel hx))))))))))
theorem nextWf_execLaunch {d a : BitVec 4} {s : State} (h : s.memWf) : NextWf (execLaunch d a s) := by
  unfold execLaunch
  refine State.nextWf_finish h ?_
  refine State.wf_gateAddr h (Out.wf_ite State.wf_addrTrap (Out.wf_ite (Out.wf_wait h) ?_))
  refine State.wf_onImage (Out.wf_ite (Out.wf_next (State.memWf_writeG _ _ _ (State.wf_scanLocal h))) ?_)
  split
  · exact Out.wf_trap
  · rename_i t heq
    have ht : t.memWf := State.wf_entry (State.wf_scanLocal h) _ heq
    exact Out.wf_ite (Out.wf_ite (Out.wf_wait (State.wf_scanLocal h)) (Out.wf_next (State.wf_sendLoad (State.wf_pendG ht))))
      (Out.wf_next (State.memWf_writeG _ _ _ ht))
theorem State.wf_spawnLanes {s : State} {a : BitVec 32} {e : DirEntry} {home : Bool} {is : List Nat} {n : Nat} (h : s.memWf) :
    (s.spawnLanes a e home is n).1.memWf := by
  induction is generalizing s n with
  | nil => exact h
  | cons i is ih =>
    rw [State.spawnLanes]
    dsimp only
    split
    · exact h
    · rename_i num t heq
      have ht : t.memWf := State.wf_drawStrand h _ heq
      exact ih (State.wf_fresh (State.memWf_modMe (State.wf_chooseReplica (State.wf_ite ht (State.wf_countLaunch ht))) fun _ hk => hk))
theorem nextWf_execSpawn {d a : BitVec 4} {a3 : BitVec 1} {q : BitVec 3} {s : State} (h : s.memWf) : NextWf (execSpawn d a a3 q s) := by
  unfold execSpawn
  refine State.nextWf_finish h ?_
  split
  · exact Out.wf_ite (Out.wf_wait h) (Out.wf_next (State.memWf_writeG _ _ _ h))
  · refine State.wf_gateAddr h (Out.wf_ite Out.wf_trap (Out.wf_ite (Out.wf_next (State.memWf_writeG _ _ _ h)) ?_))
    split
    · exact Out.wf_trap
    · rename_i t heq
      have ht : t.memWf := State.wf_of_fst_eq heq (State.wf_readEntries h)
      split
      · exact Out.wf_trap
      · exact Out.wf_ite (Out.wf_wait h) (Out.wf_wait (State.memWf_modGang _ (State.wf_spawnLanes ht)))
theorem Core.wf_place {k : Core} {id : Nat} {code : List (BitVec 16)} (h : k.mem.wf) : (k.place id code).mem.wf := h
theorem State.wf_invalidateDir {s : State} {id dst : Nat} (h : s.memWf) : (s.invalidateDir id dst).memWf :=
  State.memWf_modGang _ (State.wf_with (State.wf_foldl h fun _ _ hx => State.wf_push hx) rfl)
theorem State.wf_replicate {s : State} {e : DirEntry} {dst : Nat} (h : s.memWf) : (s.replicate e dst).memWf :=
  State.wf_writeDir (State.wf_regrant (State.wf_bindRing (State.memWf_modCore _ h fun _ hx => Core.wf_setChannel (Core.wf_place hx))))
theorem State.wf_replForm {s : State} {r : BitVec 16} {g : BitVec 4} {status : DirEntry → Nat → Nat}
    {change : State → DirEntry → Nat → State} (h : s.memWf) (hchange : ∀ x, x.memWf → ∀ y z, (change x y z).memWf) :
    (s.replForm r g status change).Wf := by
  unfold State.replForm
  split
  · exact Out.wf_next (State.memWf_writeG _ _ _ h)
  · exact Out.wf_wait h
  · refine State.wf_gate h (Out.wf_ite (Out.wf_wait h) (Out.wf_ite (Out.wf_next (State.memWf_writeG _ _ _ h)) ?_))
    split
    · exact Out.wf_trap
    · exact Out.wf_ite (Out.wf_next (State.memWf_writeG _ _ _ h)) (Out.wf_wait (State.wf_invalidateDir (hchange _ h _ _)))
theorem nextWf_execRreplRet {r : BitVec 16} {g : BitVec 3} {s : State} (h : s.memWf) : NextWf (execRreplRet r g s) :=
  State.nextWf_finish h (State.wf_replForm h fun _ hx _ _ => State.wf_regrant (State.wf_revokeGrants (State.memWf_modCore _
    (State.wf_writeDir hx) fun _ hx1 => Core.wf_setChannel hx1)))
theorem State.wf_lessChange {s : State} {id : Nat} (h : s.memWf) : (s.lessChange id).memWf := h
theorem State.wf_queueCrossing {s : State} {core sel : Nat} (h : s.memWf) : (s.queueCrossing core sel).memWf := by
  unfold State.queueCrossing
  dsimp only
  split
  · exact State.wf_ite h (State.wf_fresh (State.memWf_setCore _ h (State.memWf_core h _)))
  · exact h
theorem nextWf_execEvbind {d a b : BitVec 4} {s : State} (h : s.memWf) : NextWf (execEvbind d a b s) :=
  State.nextWf_finish h (State.wf_gate h (Out.wf_ite (Out.wf_next (State.memWf_writeG _ _ _ h)) (Out.wf_next (State.memWf_writeG _
    _ _ (State.wf_setMe
    (State.wf_queueCrossing h) (State.me_wf (State.wf_queueCrossing h)))))))
theorem nextWf_execEvbindOff {d a : BitVec 4} {s : State} (h : s.memWf) : NextWf (execEvbindOff d a s) :=
  State.nextWf_finish h (State.wf_gate h (Out.wf_ite (Out.wf_next (State.memWf_writeG _ _ _ h)) (Out.wf_next (State.memWf_writeG _
    _ _ (State.memWf_modMe
    (State.wf_queueCrossing h) fun _ hx => hx)))))
theorem nextWf_execVclaim {d a : BitVec 4} {s : State} (h : s.memWf) : NextWf (execVclaim d a s) :=
  State.nextWf_finish h (State.wf_gate h (Out.wf_ite Out.wf_trap (Out.wf_next (State.memWf_writeG _ _ _ (State.memWf_modMe h fun _ hx =>
    Core.wf_setChannel hx)))))
theorem nextWf_execVrenew {d : BitVec 4} {s : State} (h : s.memWf) : NextWf (execVrenew d s) :=
  State.nextWf_finish h (State.wf_gate h (Out.wf_next (State.memWf_writeG _ _ _ (State.memWf_modGang _ (State.wf_returnShared h)))))

/-! ### Operations at the target (spec/10 R236-R246) -/

theorem State.wf_atomicForm {s : State} {a : BitVec 4} {uses all : List (BitVec 4)} {size : Nat} {core : Bool} {more : Out → Out}
  {go : Chk → Out} (h : s.memWf) (hmore : ∀ x, x.Wf → (more x).Wf) (hgo : ∀ x, (go x).Wf) :
    (s.atomicForm a uses all size core more go).Wf :=
  State.wf_gateAddr h (Out.wf_ite (Out.wf_wait h) (State.wf_checked h fun _ => hmore _ (Out.wf_ite (hgo _) (Out.wf_wait h))))
theorem State.wf_sendAtomic {s : State} {d : BitVec 4} {size : Nat} {c : Chk} {op : MemOp} (h : s.memWf) :
    (s.sendAtomic d size c op).memWf := State.wf_sendLoad (State.wf_pendG h)
theorem State.wf_withEntry {s : State} {body : Out} (h : s.memWf) (hbody : body.Wf) : (s.withEntry body).Wf :=
  Out.wf_ite hbody (Out.wf_wait h)
theorem State.wf_localOffset {s : State} {v : Word} {align mis : Nat} {body : Out} (hbody : body.Wf) :
    (s.localOffset v align mis body).Wf := by
  unfold State.localOffset
  split
  · exact State.wf_addrTrap
  · exact hbody
theorem nextWf_execAmo {d a b : BitVec 4} {z : BitVec 2} {o : BitVec 8} {s : State} (h : s.memWf) : NextWf (execAmo d a b z o s) :=
  State.nextWf_finish h (State.wf_atomicForm h (fun _ hx => hx) fun _ => State.wf_withEntry h (Out.wf_next (State.wf_sendAtomic h)))
theorem nextWf_execAmocas {d a b : BitVec 4} {z : BitVec 2} {s : State} (h : s.memWf) : NextWf (execAmocas d a b z s) :=
  State.nextWf_finish h (State.wf_atomicForm h (fun _ hx => hx) fun _ => State.wf_withEntry h (Out.wf_next (State.wf_sendAtomic h)))
theorem nextWf_execAmol {d a b : BitVec 4} {z : BitVec 2} {o : BitVec 8} {s : State} (h : s.memWf) : NextWf (execAmol d a b z o s) :=
  State.nextWf_finish h (State.wf_localForm h (Out.wf_ite (Out.wf_wait h) (Out.wf_next (State.memWf_writeG _ _ _ (State.memWf_modMe
    (State.wf_scanLocal h) fun _ _ => Memory.wf_atomic _ _ _ _ (State.me_wf (State.wf_scanLocal h)))))))
theorem nextWf_execSopw {a b : BitVec 4} {z : BitVec 2} {o : BitVec 8} {s : State} (h : s.memWf) : NextWf (execSopw a b z o s) :=
  State.nextWf_finish h (State.wf_atomicForm h (fun _ hx => Out.wf_ite Out.wf_trap (State.wf_localOffset (State.wf_onImage hx))) fun
    _ => Out.wf_next (State.wf_sendStore (State.wf_scanLocal h)))
theorem State.wf_localChunk {s : State} {v : Word} {body : Out} (hbody : body.Wf) : (s.localChunk v body).Wf :=
  Out.wf_ite State.wf_addrTrap (Out.wf_ite State.wf_addrTrap hbody)
theorem State.wf_sendImage {s : State} {img : List Byte} (h : s.memWf) : (s.sendImage img).2.memWf := by
  unfold State.sendImage
  split
  · exact State.memWf_modMe h fun _ hk => hk
  · exact h
theorem State.wf_reduceForm {s : State} {a img : BitVec 4} {all : List (BitVec 4)} {op : Nat} {more : Out → Out} {dest : LoadDest}
  {pend : State → State} (h : s.memWf) (hmore : ∀ x, x.Wf → (more x).Wf) (hpend : ∀ x, x.memWf → (pend x).memWf) :
    (s.reduceForm a img all op more dest pend).Wf := by
  unfold State.reduceForm
  exact State.wf_gateAddr h (Out.wf_ite Out.wf_trap (Out.wf_ite (Out.wf_wait h) (State.wf_checked h fun _ => State.wf_localChunk
    (hmore _ (Out.wf_ite (Out.wf_wait h) (Out.wf_next (State.wf_sendLoad (hpend _
    (State.wf_sendImage (State.wf_scanLocal h))))))))))
theorem nextWf_execSop {d a b : BitVec 4} {z : BitVec 2} {o : BitVec 8} {s : State} (h : s.memWf) : NextWf (execSop d a b z o s) :=
  State.nextWf_finish h (Out.wf_ite (State.wf_reduceForm h (fun _ hx => hx) fun _ hx => State.wf_pendG hx) (State.wf_atomicForm h
    (fun _ hx => hx) fun _ => State.wf_withEntry h (Out.wf_next (State.wf_sendAtomic h))))
theorem nextWf_execSopq {d a b : BitVec 4} {z : BitVec 2} {o : BitVec 8} {s : State} (h : s.memWf) : NextWf (execSopq d a b z o s) :=
  State.nextWf_finish h (Out.wf_ite (State.wf_reduceForm h (fun _ hx => Out.wf_ite Out.wf_trap (State.wf_localOffset hx)) fun _ hx
    => hx) (State.wf_atomicForm h (fun _ hx => Out.wf_ite Out.wf_trap (State.wf_localOffset hx)) fun _ => State.wf_withEntry h
    (Out.wf_next (State.wf_sendLoad h))))
theorem State.wf_onTarget {s : State} {a : BitVec 4} {uses all : List (BitVec 4)} {align : Nat} {body : Nat → Nat → Out} (h :
  s.memWf) (hbody : ∀ x y, (body x y).Wf) :
    (s.onTarget a uses all align body).Wf := by
  unfold State.onTarget
  refine State.wf_gateAddr h (Out.wf_ite (Out.wf_wait h) ?_)
  split
  · exact State.wf_addrTrap
  · exact hbody _ _
theorem State.wf_checkDest {s : State} {i : ChainImage} {go : Chain → Out} (h : s.memWf) (hgo : ∀ x, (go x).Wf) :
    (s.checkDest i go).Wf := by
  unfold State.checkDest
  split
  · exact hgo _
  · exact State.wf_checked h fun _ => hgo _
  · exact Out.wf_ite State.wf_addrTrap (Out.wf_ite State.wf_addrTrap (hgo _))
  · split
    · exact State.wf_addrTrap
    · exact hgo _
theorem nextWf_execSopCh {a : BitVec 4} {s : State} (h : s.memWf) : NextWf (execSopCh a s) :=
  State.nextWf_finish h (State.wf_localForm h (State.wf_onImage (Out.wf_ite State.wf_trapHere (State.wf_checked h fun _ =>
    State.wf_checkDest h fun _ => Out.wf_ite (Out.wf_next (State.wf_sendStore (State.wf_scanLocal h))) (Out.wf_wait h)))))
theorem State.wf_twoPart {s : State} {answer : Datum → Bool → Out} {start : Out} (h : s.memWf) (hanswer : ∀ x y, (answer x
  y).Wf) (hstart : start.Wf) :
    (s.twoPart answer start).Wf := by
  unfold State.twoPart
  split
  · exact hanswer _ _
  · exact Out.wf_wait h
  · exact hstart
theorem State.wf_askPhase {s : State} {counted : Bool} {home : Option Nat} {op : MemOp} (h : s.memWf) :
    (s.askPhase counted home op).Wf :=
  Out.wf_ite (Out.wf_wait h) (Out.wf_wait (State.memWf_closing (State.memWf_modGang _ (State.wf_sendLoad h))))
theorem State.wf_whenPut {s : State} {body : Out} (h : s.memWf) (hbody : body.Wf) : (s.whenPut body).Wf :=
  Out.wf_ite (Out.wf_wait h) (State.wf_whenReleased h hbody)
theorem State.wf_sendFuture {s : State} {dest : LoadDest} {c off : Nat} {k : FutOp} {v : Datum} {pend : State → State} {after :
  List Cause} (h : s.memWf) (hpend : ∀ x, x.memWf → (pend x).memWf) :
    (s.sendFuture dest c off k v pend after).Wf := Out.wf_ite (Out.wf_wait h) (Out.wf_next (State.wf_sendLoad (hpend _ h)))
theorem State.wf_ownFuture {s : State} {off : Nat} {k : FutOp} {v : Datum} (h : s.memWf) : (s.ownFuture off k v).1.memWf :=
  State.wf_setMe (State.wf_scanLocal h) (Core.wf_future (State.me_wf (State.wf_scanLocal h)))
theorem State.wf_whenRemote {s : State} {body : Out} (h : s.memWf) (hbody : body.Wf) : (s.whenRemote body).Wf :=
  Out.wf_ite (Out.wf_wait h) hbody
theorem State.wf_acquires {s : State} (h : s.memWf) : s.acquires.memWf := State.memWf_modGang _ h
theorem nextWf_execFput {a b : BitVec 4} {s : State} (h : s.memWf) : NextWf (execFput a b s) :=
  State.nextWf_finish h (State.wf_twoPart h (fun _ _ => Out.wf_next h) (State.wf_blocking (State.wf_onTarget h fun _ _ =>
    State.wf_whenPut h (Out.wf_ite (Out.wf_ite (Out.wf_next (State.wf_ownFuture h)) (Out.wf_wait h)) (State.wf_askPhase h)))))
theorem nextWf_execFputnb {d a b : BitVec 4} {s : State} (h : s.memWf) : NextWf (execFputnb d a b s) :=
  State.nextWf_finish h (State.wf_onTarget h fun _ _ => State.wf_whenPut h (Out.wf_ite (Out.wf_next (State.memWf_writeG _ _ _
    (State.wf_ownFuture h))) (State.wf_sendFuture h fun _ hx1 => State.wf_pendG hx1)))
theorem nextWf_execFtake {d a : BitVec 4} {s : State} (h : s.memWf) : NextWf (execFtake d a s) :=
  State.nextWf_finish h (State.wf_twoPart h (fun _ _ => Out.wf_next (State.memWf_writeG _ _ _ h)) (State.wf_blocking
    (State.wf_onTarget h fun
    _ _ => Out.wf_ite (Out.wf_ite (Out.wf_next (State.memWf_writeG _ _ _ (State.wf_ownFuture h))) (Out.wf_wait h))
      (State.wf_whenRemote h
    (State.wf_askPhase h)))))
theorem State.wf_takeForm {s : State} {d a b : BitVec 4} {k : FutOp} (h : s.memWf) : (s.takeForm d a b k).Wf := by
  unfold State.takeForm
  exact State.wf_onTarget h fun _ _ => Out.wf_ite (Out.wf_next (State.memWf_writeG _ _ _ (State.memWf_writeG _ _ _
    (State.wf_ownFuture h))))
    (State.wf_whenRemote h (State.wf_sendFuture h fun _ hx1 => State.wf_acquires (State.wf_pendG (State.wf_pendG hx1))))
theorem State.wf_counterForm {s : State} {d a b : BitVec 4} {o : BitVec 1} {k : CtrOp} (h : s.memWf) : (s.counterForm d a b o k).Wf :=
  State.wf_onTarget h fun _ _ => State.wf_whenPut h (Out.wf_ite (Out.wf_wait h) (Out.wf_next (State.wf_sendLoad (State.wf_ite
    (State.wf_pendG h) h))))

/-! ### Barriers, fences and timelines (spec/10 R247-R255) -/

theorem Core.wf_setBarrier {k : Core} {n : Nat} {b : Barrier} (h : k.mem.wf) : (k.setBarrier n b).mem.wf := h
theorem State.wf_setNode {s : State} {b : BarrierNode} (h : s.memWf) : (s.setNode b).memWf := h
theorem State.wf_announce {s : State} {b : BarrierNode} (h : s.memWf) : (s.announce b).memWf :=
  State.wf_ite (State.wf_foldl h fun _ _ hx => State.memWf_wake (State.memWf_modCore _ hx fun _ hk => Core.wf_setBarrier hk))
    (State.wf_ite (State.wf_foldl h fun _ _ hx => State.wf_push hx) (State.wf_fresh (State.wf_with h rfl)))
theorem State.wf_complete {s : State} {n scope extent fuel : Nat} (h : s.memWf) : (s.complete n scope extent fuel).memWf := by
  induction fuel generalizing s with
  | zero => exact h
  | succ fuel ih =>
    rw [State.complete]
    split
    · exact h
    · exact State.wf_ite h (ih (State.wf_announce (State.wf_setNode h)))
theorem State.wf_settle {s : State} {n scope extent : Nat} (h : s.memWf) : (s.settle n scope extent).memWf := by
  unfold State.settle
  split
  · exact State.wf_complete h
  · exact h
theorem State.wf_countArrivals {s : State} {c n count : Nat} (h : s.memWf) : (s.countArrivals c n count).memWf := by
  unfold State.countArrivals
  dsimp only
  split
  · exact State.wf_settle (State.wf_setNode h)
  · exact h
theorem State.wf_setPending {s : State} {c n : Nat} {f : Nat → Nat} (h : s.memWf) : (s.setPending c n f).memWf :=
  State.wf_ite (State.wf_settle (State.memWf_modCore _ h fun _ hx => Core.wf_setBarrier hx)) (State.memWf_modCore _ h fun _ hx =>
    Core.wf_setBarrier hx)
theorem State.wf_arriveBarrier {s : State} {c n count : Nat} {ack : Option (List Nat)} (h : s.memWf) :
    (s.arriveBarrier c n count ack).memWf := by
  unfold State.arriveBarrier
  with_reducible refine State.wf_ite h (State.wf_ite ?_ (State.wf_countArrivals h))
  dsimp only
  split
  · with_reducible exact State.wf_emit (State.memWf_modMe (State.memWf_modCore _ h fun _ hx => Core.wf_setBarrier hx) fun _ hx =>
                     Core.wf_modGang hx)
  · with_reducible exact State.wf_push (State.memWf_modCore _ h fun _ hx => Core.wf_setBarrier hx)
theorem nextWf_execBarrierArrival {core n count : Nat} {ack : Option (List Nat)} {s : State} (h : s.memWf) :
    NextWf (execBarrierArrival core n count ack s) := by
  unfold execBarrierArrival
  refine nextWf_next (State.memWf_wake ?_)
  split
  · exact State.wf_push (State.wf_countArrivals (State.memWf_modCore _ h fun _ hx => Core.wf_setBarrier hx))
  · exact State.wf_countArrivals (State.memWf_modCore _ h fun _ hx => Core.wf_setBarrier hx)
theorem State.wf_withdrawCompletions {s : State} {c n : Nat} (h : s.memWf) : (s.withdrawCompletions c n).memWf := h
theorem State.wf_leaveBarrier {s : State} {c n : Nat} (h : s.memWf) : (s.leaveBarrier c n).memWf :=
  State.wf_ite h (State.wf_settle (State.wf_with (State.wf_withdrawCompletions h) rfl))
theorem State.wf_joinBarrier {s : State} {c n scope count : Nat} (h : s.memWf) : (s.joinBarrier c n scope count).memWf :=
  State.wf_settle (State.memWf_modCore _ (State.wf_with (State.wf_withdrawCompletions h) rfl) fun _ hx => Core.wf_setBarrier hx)
theorem nextWf_execBarbind {a b : BitVec 4} {n sc : BitVec 3} {s : State} (h : s.memWf) : NextWf (execBarbind a b n sc s) :=
  State.nextWf_finish h (State.wf_gate h (Out.wf_ite (Out.wf_next (State.memWf_writeG _ _ _ h)) (Out.wf_ite (Out.wf_next
    (State.memWf_writeG _ _ _
    (State.memWf_modMe (State.wf_leaveBarrier h) fun _ hx => Core.wf_setBarrier hx))) (Out.wf_next (State.memWf_writeG _ _ _
    (State.wf_joinBarrier (State.wf_ite h (State.wf_leaveBarrier h))))))))
theorem State.wf_onBarrier {s : State} {n : BitVec 3} {body : Barrier → Out} (hbody : ∀ x, (body x).Wf) : (s.onBarrier n body).Wf :=
  Out.wf_ite Out.wf_trap (hbody _)
theorem nextWf_execBararr {a b : BitVec 4} {n : BitVec 3} {s : State} (h : s.memWf) : NextWf (execBararr a b n s) :=
  State.nextWf_finish h (State.wf_gate h (State.wf_onBarrier fun _ => State.wf_whenPut h (Out.wf_ite (Out.wf_wait h) (Out.wf_next
    (State.memWf_writeG _ _ _ (State.wf_arriveBarrier h))))))
theorem nextWf_execBarwait {a : BitVec 4} {n : BitVec 3} {s : State} (h : s.memWf) : NextWf (execBarwait a n s) :=
  State.nextWf_finish h (State.wf_blocking (State.wf_gate h (State.wf_onBarrier fun _ => Out.wf_ite
    (Out.wf_wait h) (Out.wf_next h))))
theorem nextWf_execFenceRel {sc : BitVec 3} {s : State} (h : s.memWf) : NextWf (execFenceRel sc s) :=
  State.nextWf_finish h (Out.wf_ite (Out.wf_next h) (Out.wf_ite (Out.wf_wait h) (Out.wf_next (State.memWf_closing
    (State.memWf_modGang _ h)))))
theorem State.wf_timelineForm {s : State} {a b : BitVec 4} {write : Bool} {body : Chk → Out} (h : s.memWf) (hbody : ∀ x, (body x).Wf) :
    (s.timelineForm a b write body).Wf :=
  State.wf_gateAddr h (Out.wf_ite (Out.wf_wait h) (State.wf_checked h fun _ => Out.wf_ite (Out.wf_wait h) (hbody _)))
theorem nextWf_execTlwait {a b : BitVec 4} {s : State} (h : s.memWf) : NextWf (execTlwait a b s) :=
  State.nextWf_finish h (State.wf_twoPart h (fun _ _ => Out.wf_next h) (State.wf_blocking (State.wf_timelineForm h fun _ =>
    State.wf_askPhase h)))
theorem nextWf_execTlwaitnb {a b : BitVec 4} {s : State} (h : s.memWf) : NextWf (execTlwaitnb a b s) :=
  State.nextWf_finish h (State.wf_timelineForm h fun _ => State.wf_withEntry h (Out.wf_next (State.wf_sendLoad (State.wf_acquires
    (State.wf_pendG h)))))
theorem State.wf_tladdForm {s : State} {a b : BitVec 4} {set : Bool} (h : s.memWf) : (s.tladdForm a b set).Wf :=
  State.wf_timelineForm h fun _ => State.wf_whenReleased h (Out.wf_ite (Out.wf_next (State.wf_sendStore h)) (Out.wf_wait h))

/-! ### Tensor maps and ring descriptors (spec/11 R257-R274) -/

theorem State.wf_imageForm {s : State} {a : BitVec 4} {all : List (BitVec 4)} {align : Nat} {body : Nat → Out} (h : s.memWf) (hbody
  : ∀ x, (body x).Wf) :
    (s.imageForm a all align body).Wf := by
  unfold State.imageForm
  refine State.wf_gateAddr h (Out.wf_ite (Out.wf_wait h) ?_)
  split
  · exact State.wf_addrTrap
  · exact hbody _
theorem State.wf_readImage {s : State} {off n : Nat} {body : State → List Word → Out} (h : s.memWf)
    (hbody : ∀ x, x.memWf → ∀ y, (body x y).Wf) : (s.readImage off n body).Wf := State.wf_onImage (hbody _ (State.wf_scanLocal h) _)
theorem State.wf_storeImage {s : State} {off : Nat} {ws : List Word} (h : s.memWf) : (s.storeImage off ws).Wf :=
  Out.wf_ite (Out.wf_wait h) (Out.wf_next (State.wf_storeLocal h))
theorem nextWf_execTmset {a b : BitVec 4} {n : BitVec 3} {s : State} (h : s.memWf) : NextWf (execTmset a b n s) :=
  State.nextWf_finish h (State.wf_imageForm h fun _ => State.wf_readImage h fun _ hx1 _ => Out.wf_next (State.memWf_writeG _ _ _
    (State.wf_ite (State.memWf_modMe hx1 fun _ hx2 => hx2) hx1)))
theorem State.wf_walked {s : State} {c page : Nat} (h : s.memWf) : (s.walked c page).memWf :=
  State.wf_ite (State.wf_recordCore (State.wf_wakeBlocks h)) (State.wf_wakeBlocks h)
theorem State.wf_engineFill {s : State} {c : Nat} {own : Bool} {a : Nat} {write : Bool} (h : s.memWf) :
    (s.engineFill c own a write).memWf := by
  unfold State.engineFill
  refine State.wf_ite h ?_
  dsimp only
  split
  · exact State.wf_fillEntry (State.wf_discardEntry (State.wf_walked h))
  · exact State.wf_discardEntry (State.wf_walked h)
theorem State.wf_chargeRead {s : State} {c : Nat} {own : Bool} {a : Word} {n : Nat} (h : s.memWf) : (s.chargeRead c own a n).memWf := by
  unfold State.chargeRead
  dsimp only
  split
  · exact h
  · exact State.wf_ite h (State.wf_with h rfl)
theorem State.wf_engineBytes {s : State} {c : Nat} {own : Bool} {a : Word} {n : Nat} (h : s.memWf) :
    (s.engineBytes c own a n).1.memWf := by
  unfold State.engineBytes
  refine State.wf_fst_foldl h ?_
  intro _ _ hx
  dsimp only
  split
  · exact State.wf_scanLocal (State.wf_wakeCore (State.wf_engineFill hx))
  · exact State.wf_meetGlobal (State.wf_engineFill hx)
  · exact hx
theorem State.wf_engineRead {s : State} {c : Nat} {own : Bool} {a : Word} {n : Nat} (h : s.memWf) :
    (s.engineRead c own a n).1.memWf := by
  unfold State.engineRead
  split
  · exact State.wf_engineBytes h
  · exact State.wf_fst_ite (State.wf_recordRefused (State.wf_engineFill h)) (State.wf_engineBytes h)
theorem State.wf_engineFills {s : State} {c : Nat} {own : Bool} {a : Word} {n : Nat} {write : Bool} (h : s.memWf) :
    (s.engineFills c own a n write).memWf := State.wf_foldl h fun _ _ hx => State.wf_engineFill hx
theorem nextWf_execRgset {a b : BitVec 4} {n : BitVec 3} {s : State} (h : s.memWf) : NextWf (execRgset a b n s) :=
  State.nextWf_finish h (State.wf_imageForm h fun _ => State.wf_readImage h fun _ hx1 _ => Out.wf_next (State.memWf_writeG _ _ _
    (State.wf_ite (State.memWf_modMe hx1 fun _ hx2 => Core.wf_setRing hx2) hx1)))
theorem State.wf_ringForm {s : State} {a b : BitVec 4} {n : BitVec 3} {body : RingDesc → Out} (h : s.memWf) (hbody : ∀ x, (body x).Wf) :
    (s.ringForm a b n body).Wf := State.wf_gate h (Out.wf_ite (hbody _) Out.wf_trap)
theorem nextWf_execRgpush {a b : BitVec 4} {n : BitVec 3} {s : State} (h : s.memWf) : NextWf (execRgpush a b n s) := by
  unfold execRgpush
  refine State.nextWf_finish h (State.wf_ringForm h ?_)
  intro _
  refine State.wf_whenPut h ?_
  split
  · exact Out.wf_next (State.memWf_writeG _ _ _ (State.memWf_modMe h fun _ hx1 => Core.wf_setRing hx1))
  · exact Out.wf_next (State.memWf_writeG _ _ _ h)
theorem nextWf_execRgpop {a b : BitVec 4} {n : BitVec 3} {s : State} (h : s.memWf) : NextWf (execRgpop a b n s) :=
  State.nextWf_finish h (State.wf_ringForm h fun _ => Out.wf_ite (Out.wf_next (State.memWf_writeG _ _ _ (State.memWf_modMe h fun _
    hx1 =>
    Core.wf_setRing hx1))) (Out.wf_next (State.memWf_writeG _ _ _ h)))
theorem State.wf_ackWindow {s : State} {ack : Option (Nat × List Nat)} (h : s.memWf) : (s.ackWindow ack).memWf := by
  unfold State.ackWindow
  split
  · exact State.wf_push h
  · exact h

/-! ### The copy engine (spec/11 R261-R270, spec/18 R411-R421) -/

theorem Core.wf_setCopyQ {k : Core} {q : Nat} {c : CopyQueue} (h : k.mem.wf) : (k.setCopyQ q c).mem.wf := h
theorem Core.wf_modHead {k : Core} {q : Nat} {f : CopyEntry → CopyEntry} (h : k.mem.wf) : (k.modHead q f).mem.wf := h
theorem State.wf_accept {s : State} {full : Bool} {sub : Nat} {body : Out} (h : s.memWf) (hbody : body.Wf) :
    (s.accept full sub body).Wf := Out.wf_ite (Out.wf_ite State.wf_trapHere (Out.wf_wait h)) (Out.wf_ite (Out.wf_wait h) hbody)
theorem State.wf_badCommand {s : State} {field : Nat} : (s.badCommand field).Wf := Out.wf_trap
theorem State.wf_objectTrap {s : State} {n : Nat} : (s.objectTrap n).Wf := Out.wf_trap
theorem State.wf_pushCopy {s : State} {q : Nat} {job : CopyJob} (h : s.memWf) : (s.pushCopy q job).memWf :=
  State.wf_fresh (State.memWf_modMe h fun _ hk => Core.wf_setCopyQ hk)
theorem nextWf_execCcopy {a b : BitVec 4} {x y : BitVec 3} {w : BitVec 1} {j : BitVec 3} {k q : BitVec 2} {s : State} (h : s.memWf) :
    NextWf (execCcopy a b x y w j k q s) :=
  State.nextWf_finish h (State.wf_gate h (Out.wf_ite (Out.wf_wait h) (Out.wf_ite State.wf_badCommand (Out.wf_ite State.wf_objectTrap
    (State.wf_accept h (Out.wf_ite (Out.wf_wait h) (Out.wf_next (State.wf_pushCopy (State.wf_ite (State.wf_setPending h) h)))))))))
theorem nextWf_execCwait {m : BitVec 5} {s : State} (h : s.memWf) : NextWf (execCwait m s) := by
  unfold execCwait
  refine State.nextWf_finish h ?_
  split
  · exact Out.wf_ite (Out.wf_wait (State.memWf_closing h)) (Out.wf_next h)
  · exact State.wf_blocking (Out.wf_ite (Out.wf_wait h) (Out.wf_ite (Out.wf_next h) (Out.wf_wait (State.memWf_closing
      (State.memWf_modGang _
      h)))))
theorem State.wf_stopCopy {s : State} {c q : Nat} {stop : Nat × Nat × Word} (h : s.memWf) : (s.stopCopy c q stop).memWf :=
  State.wf_ite (State.wf_push (State.memWf_modCore _ h fun _ hk => Core.wf_modHead (Core.wf_setCopyQ hk))) (State.memWf_modCore _
    (State.memWf_modCore _ h fun _ hk => Core.wf_modHead (Core.wf_setCopyQ hk)) fun _ hk => hk)
theorem State.wf_copyAdvance {s : State} {c q : Nat} (h : s.memWf) : (s.copyAdvance c q).memWf := by
  unfold State.copyAdvance
  split
  · exact h
  · split
    · exact State.memWf_wake (State.wf_ite (State.wf_setPending (State.memWf_modCore _ h fun _ hx => Core.wf_modHead hx))
        (State.memWf_modCore _
        h fun _ hx => Core.wf_modHead hx))
    · exact h
theorem State.wf_engineSend {s : State} {c q : Nat} {home : Option Nat} {ws : List Wr} (h : s.memWf) :
    (s.engineSend c q home ws).memWf := by
  unfold State.engineSend
  with_reducible exact State.wf_ite (State.wf_copyAdvance (State.memWf_modCore _ (State.wf_wakeCore h) fun _ hx => Core.wf_modHead
                   (Core.wf_writes _ hx))) (State.wf_foldl (State.wf_fresh (State.memWf_modCore _ h fun _ hx => Core.wf_modHead hx)) fun
                   _ _ hx => State.wf_push hx)
theorem State.wf_readChunk {s : State} {c : Nat} {m : TMap} {off : Word} {n0 k : Nat} (h : s.memWf) :
    (s.readChunk c m off n0 k).1.memWf := State.wf_fst_foldl h fun _ _ hx => State.wf_engineRead (State.wf_chargeRead hx)
theorem State.wf_chunkFills {s : State} {c : Nat} {m : TMap} {off : Word} {chunk : Nat} {write : Bool} (h : s.memWf) :
    (s.chunkFills c m off chunk write).memWf :=
  State.wf_ite (State.wf_engineFills (State.wf_foldl h fun _ _ hx => State.wf_engineFills hx)) (State.wf_foldl h fun _ _ hx =>
    State.wf_engineFills hx)
theorem State.wf_flipOut {s : State} {c : Nat} {home : Chk} {img : List Byte} (h : s.memWf) : (s.flipOut c home img).2.memWf := by
  unfold State.flipOut
  refine State.wf_snd_ite h ?_
  split
  · exact State.memWf_modCore _ h fun _ hk => hk
  · exact h
theorem State.wf_sendChunk {s : State} {c q : Nat} {ma mb : TMap} {ao bo : Word} {chunk : Nat} {worn : Bool} (h : s.memWf) :
    (s.sendChunk c q ma mb ao bo chunk worn).memWf := by
  unfold State.sendChunk
  split
  · exact State.wf_stopCopy (State.wf_chunkFills (State.wf_chunkFills h))
  · extract_lets k
    split
    rename_i t data heq
    have ht : t.memWf := State.wf_of_fst_eq heq (State.wf_readChunk h)
    split
    rename_i t1 head heq1
    have ht1 : t1.memWf := State.wf_of_fst_eq heq1 (State.wf_fst_ite (State.wf_engineRead (State.wf_chargeRead ht)) ht)
    extract_lets img mode src bad fails home
    have hu : (t1.flipOut c home img).2.memWf := State.wf_flipOut ht1
    split
    rename_i img' u heq2
    rw [heq2] at hu
    extract_lets r e u1
    have hu1 : u1.memWf := State.wf_fresh (State.memWf_modCore _ hu fun _ hk => hk)
    exact State.wf_ite (State.wf_pushAs hu1) (State.wf_sendRecords hu1)
theorem State.wf_copyStep {s : State} {c q : Nat} (h : s.memWf) : (s.copyStep c q).memWf := by
  unfold State.copyStep
  dsimp only
  split
  · exact h
  · split
    · exact h
    · refine State.wf_ite h (State.wf_ite (State.wf_sendChunk h) (State.wf_ite ?_ ?_))
      · refine State.wf_ite h ?_
        split
        · exact State.wf_stopCopy (State.wf_engineFills (State.memWf_modCore _ h fun _ hx => hx))
        · exact State.wf_copyAdvance (State.memWf_modCore _ (State.memWf_modCore _ (State.wf_engineRead (State.wf_chargeRead
            (State.memWf_modCore _
            h fun _ hx => hx))) fun _ hx => hx) fun _ hx => Core.wf_modHead hx)
      · split
        · exact State.wf_stopCopy (State.wf_engineFills (State.wf_engineFills h))
        · exact State.wf_engineSend (State.wf_engineRead (State.wf_chargeRead (State.wf_engineFills h)))
theorem State.wf_performWrites {s : State} {w : Option Nat × List Wr} (h : s.memWf) : (s.performWrites w).memWf := by
  unfold State.performWrites
  split
  · exact State.memWf_modCore _ (State.wf_wakeCore h) fun _ hx => Core.wf_writes _ hx
  · exact State.wf_writeGlobal (State.wf_overBlocks (State.wf_wakeBlocks h))
theorem State.wf_writeChunk {s : State} {c : Nat} {m : TMap} {off : Word} {chunk : Nat} {bs : List (Byte × Bool)} (h : s.memWf) :
    (s.writeChunk c m off chunk bs).memWf :=
  State.wf_ite (State.wf_performWrites (State.wf_engineFills (State.wf_foldl h fun _ _ hx => State.wf_performWrites
    (State.wf_engineFills hx)))) (State.wf_foldl h fun _ _ hx => State.wf_performWrites (State.wf_engineFills hx))
theorem State.wf_verifyChunk {s : State} {c q : Nat} (h : s.memWf) : (s.verifyChunk c q).memWf := by
  unfold State.verifyChunk
  split
  · with_reducible exact h
  · split
    · dsimp only
      split
      · with_reducible exact State.wf_stopCopy (State.memWf_modCore _ (State.wf_chunkFills h) fun _ hx => Core.wf_modHead hx)
      · with_reducible exact State.wf_sendRecords (State.wf_ite h (State.wf_writeChunk h))
    · with_reducible exact h
theorem Core.wf_popCopy {k : Core} {q : Nat} (h : k.mem.wf) : (k.popCopy q).mem.wf := h
theorem Core.wf_unbindStream {k : Core} {q bind obj : Nat} (h : k.mem.wf) : (k.unbindStream q bind obj).mem.wf := Core.wf_ite h h
theorem nextWf_execCopyCompletion {core q : Nat} {s : State} (h : s.memWf) : NextWf (execCopyCompletion core q s) := by
  unfold execCopyCompletion
  extract_lets k
  have hk : k.mem.wf := State.memWf_core h _
  refine nextWf_next (State.wf_ite h ?_)
  split
  · exact h
  · split
    · exact State.memWf_wake (State.memWf_setCore _ h (Core.wf_popCopy hk))
    · extract_lets k' k'1 t
      have hk' : k'.mem.wf := Core.wf_unbindStream (Core.wf_popCopy hk)
      have hk'1 : k'1.mem.wf := by
        unfold k'1
        split
        · exact Core.wf_setRing hk'
        · exact hk'
      have ht : t.memWf := State.memWf_setCore _ h hk'1
      exact State.memWf_wake (State.wf_ite (State.wf_arriveBarrier ht) ht)
theorem State.wf_dropCopy {s : State} {q : Nat} (h : s.memWf) : (s.dropCopy q).memWf := by
  unfold State.dropCopy
  dsimp only
  split
  · refine State.wf_ite h ?_
    split
    · exact State.wf_ite (State.wf_setPending (State.memWf_modMe h fun _ hx => Core.wf_unbindStream (Core.wf_popCopy hx)))
        (State.memWf_modMe h fun _ hx => Core.wf_unbindStream (Core.wf_popCopy hx))
    · exact h
  · exact h
theorem nextWf_execChunkRecordDrop {src : Source} {id : Nat} {s : State} (h : s.memWf) : NextWf (execChunkRecordDrop src id s) := by
  unfold execChunkRecordDrop
  refine nextWf_next ?_
  split
  · exact h
  · exact State.memWf_wake (State.wf_foldl (State.wf_setLost (State.wf_recordVerifier (State.wf_withdraw (State.wf_dropOut h)))) fun _
      _ hx => State.wf_pushAs hx)

/-! ### The events of memory (spec/04 R108, spec/14 R344) -/

theorem State.wf_scanReq {s : State} {r : Req} (h : s.memWf) : (s.scanReq r).memWf := by
  unfold State.scanReq
  refine State.wf_ite h ?_
  split
  · exact State.wf_overBlocks h
  · exact State.wf_scanBlocks h
theorem State.wf_rouseSlices {s : State} {r : Req} (h : s.memWf) : (s.rouseSlices r).memWf := State.wf_wakeBlocks h
theorem State.wf_atSlices {s : State} {r : Req} (h : s.memWf) : (s.atSlices r).memWf :=
  State.memWf_wake (State.wf_performSlice (State.wf_scanReq (State.wf_rouseSlices h)))
theorem nextWf_execRemoteAccess {r : Req} {s : State} (h : s.memWf) : NextWf (execRemoteAccess r s) := by
  unfold execRemoteAccess
  refine nextWf_next ?_
  split
  · exact State.memWf_wake (State.wf_answer (State.wf_performCore (State.wf_wakeCore h)))
  · exact h
theorem nextWf_execChainedPacket {r : Req} {s : State} (h : s.memWf) : NextWf (execChainedPacket r s) := by
  unfold execChainedPacket
  refine nextWf_next ?_
  split
  · exact State.wf_atSlices h
  · split
    · rename_i t _ _ heq
      have ht : t.memWf := State.wf_of_fst_eq heq (State.wf_performCore (State.wf_wakeCore h))
      exact State.wf_ite (State.wf_push h) (State.memWf_wake (State.wf_answer ht))
    · rename_i t _ _ heq
      have ht : t.memWf := State.wf_of_fst_eq heq (State.wf_performCore (State.wf_wakeCore h))
      exact State.memWf_wake (State.wf_answer ht)
theorem State.wf_writePart {s : State} {c : Nat} {part : LanePart} {own : Bool} {v : Datum} (h : s.memWf) :
    (s.writePart c part own v).memWf := by
  unfold State.writePart
  extract_lets k uid reg x put clear
  have hk : k.mem.wf := State.memWf_core h _
  have hclear : ∀ x, x.memWf → (clear x).memWf := by
    unfold clear
    intro _ hx1
    refine State.wf_withCores hx1 rfl ?_
    refine coresWf_map (State.cores_wf hx1) ?_
    intro _ he
    extract_lets _
    exact he
  split
  · exact hclear _ (State.memWf_setCore _ h hk)
  · exact hclear _ (State.memWf_setCore _ h (Core.wf_setAt hk))
  · exact hclear _ (State.memWf_setCore _ h hk)
  · exact hclear _ (State.memWf_setCore _ h hk)
  · split
    · exact State.wf_push (State.memWf_setCore _ h hk)
    · exact h
theorem State.wf_writeParts {s : State} {c : Nat} {ps : List LanePart} {vs : List Datum} (h : s.memWf) :
    (s.writeParts c ps vs).memWf := by
  induction ps generalizing s vs with
  | nil => exact h
  | cons p ps ih =>
    cases vs with
    | nil => exact h
    | cons v vs => exact ih (State.wf_ite h (State.wf_writePart h))
theorem Core.wf_replyG {k : Core} {slot reg : Nat} {bank : Bool} {v : Word} {p : Bool} (h : k.mem.wf) :
    (k.replyG slot reg bank v p).mem.wf := Core.wf_ite h (Core.wf_ite h (Core.wf_ite h (Core.wf_ite (Core.wf_setAt h) h)))
theorem Core.wf_lessStores {k : Core} {uids : List Nat} (h : k.mem.wf) : (k.lessStores uids).mem.wf := h
theorem Core.wf_freeLoad {k : Core} {e : LoadEntry} (h : k.mem.wf) : (k.freeLoad e).mem.wf := by
  unfold Core.freeLoad
  with_reducible exact Core.wf_ite (Core.wf_lessStores h) h
theorem State.wf_deliver {s : State} {c : Nat} {e : LoadEntry} {vals : List Datum} (h : s.memWf) : (s.deliver c e vals).memWf := by
  unfold State.deliver
  extract_lets k
  have hk : k.mem.wf := State.memWf_core h c
  split
  · exact State.memWf_setCore _ h (Core.wf_freeLoad (Core.wf_replyG hk))
  · exact State.memWf_setCore _ h (Core.wf_freeLoad (Core.wf_replyG (Core.wf_replyG hk)))
  · exact State.wf_writeParts (State.memWf_setCore _ h (Core.wf_freeLoad hk))
  · exact State.memWf_setCore _ h (Core.wf_freeLoad (Core.wf_ite (Core.wf_setAt hk) hk))
  · exact State.wf_ite (State.memWf_setCore _ h (Core.wf_ite hk hk))
      (State.memWf_setCore _ h (Core.wf_freeLoad (Core.wf_future hk)))
  · exact State.wf_copyAdvance (State.memWf_setCore _ h (Core.wf_freeLoad hk))
  · exact State.memWf_setCore _ h (Core.wf_freeLoad hk)
  · exact State.memWf_setCore _ h (Core.wf_freeLoad hk)
theorem nextWf_execLoadReply {core tag : Nat} {vals : List Datum} {s : State} (h : s.memWf) :
    NextWf (execLoadReply core tag vals s) := by
  unfold execLoadReply
  with_reducible refine nextWf_next ?_
  split
  · with_reducible exact h
  · with_reducible exact State.memWf_wake (State.wf_ite (State.memWf_modCore _ h fun _ hx => hx) (State.wf_ite (State.memWf_modCore
                     _ h fun _ hx
                     => Core.wf_ite (Core.wf_lessStores hx) hx) (State.wf_deliver h)))
theorem nextWf_execForwardingEntryTimeout {core tag : Nat} {s : State} (h : s.memWf) :
    NextWf (execForwardingEntryTimeout core tag s) := by
  unfold execForwardingEntryTimeout
  refine nextWf_next ?_
  split
  · exact State.wf_recordCore (State.memWf_setCore _ h (State.memWf_core h _))
  · exact State.wf_recordCore (State.memWf_setCore _ h (State.memWf_core h _))
  · exact h
theorem nextWf_execStoreAcknowledgement {core : Nat} {uids : List Nat} {s : State} (h : s.memWf) :
    NextWf (execStoreAcknowledgement core uids s) := by
  unfold execStoreAcknowledgement
  with_reducible exact nextWf_next (State.memWf_wake (State.memWf_modCore _ h fun _ hx => Core.wf_ite hx (Core.wf_lessStores hx)))
theorem State.wf_resend {s : State} {core tag : Nat} {count : Bool} (h : s.memWf) : (s.resend core tag count).memWf := by
  unfold State.resend
  split
  · exact h
  · exact State.wf_with (State.wf_dispatch (State.wf_with (State.memWf_modCore _ h fun _ hx => Core.wf_ite hx hx) rfl)) rfl
theorem nextWf_execTranslationWalk {core : Nat} {va : Word} {s : State} (h : s.memWf) : NextWf (execTranslationWalk core va s) := by
  unfold execTranslationWalk
  refine nextWf_next (State.memWf_wake ?_)
  split
  · exact State.memWf_modCore _ (State.wf_fillEntry (State.wf_walked h)) fun _ hx => hx
  · exact State.memWf_modCore _ (State.wf_walked h) fun _ hx => hx
theorem nextWf_execTranslationFault {core frame : Nat} {s : State} (h : s.memWf) : NextWf (execTranslationFault core frame s) := by
  unfold execTranslationFault
  refine nextWf_next ?_
  split
  · exact h
  · refine State.wf_push (State.memWf_modCore _ ?_ fun _ hx => hx)
    split
    · exact State.wf_withMem (State.wf_writeSeen h) rfl (Memory.wf_foldl (State.mem_wf (State.wf_writeSeen h)) fun _ _ hx =>
        Memory.wf_setBad _ _ hx)
    · exact State.wf_writeSeen h
theorem State.wf_writeNotice {s : State} {part q tail : Nat} {n : Notice} (h : s.memWf) : (s.writeNotice part q tail n).memWf :=
  State.wf_rouse (State.wf_writeSeen (State.wf_writeV h))
theorem State.wf_holdNotice {s : State} {src : Source} {n : Notice} (h : s.memWf) : (s.holdNotice src n).memWf := h
theorem State.wf_retryNotice {s : State} {a2 : HeldNotice} (h : s.memWf) : (s.retryNotice a2).memWf := by
  unfold State.retryNotice
  split
  · exact State.wf_writeNotice (State.wf_with h rfl)
  · exact h
theorem nextWf_execNoticePost {p : Post} {s : State} (h : s.memWf) : NextWf (execNoticePost p s) := by
  unfold execNoticePost
  refine nextWf_next (State.wf_ite ?_ ?_)
  · split
    · exact State.wf_ite (State.wf_retryNotice h) h
    · exact h
  · split
    · exact State.wf_ite (State.wf_holdNotice h) (State.wf_writeNotice h)
    · exact State.wf_holdNotice h
theorem nextWf_execChangeFiringEnd {core slot : Nat} {s : State} (h : s.memWf) : NextWf (execChangeFiringEnd core slot s) := by
  unfold execChangeFiringEnd
  refine nextWf_next ?_
  split
  · refine State.wf_ite h (State.memWf_wake ?_)
    split
    · exact State.wf_with (State.wf_dispatch (State.wf_with (State.memWf_modCore _ (State.memWf_setCore _ h (State.memWf_core h _))
        fun _ hx
        => hx) rfl)) rfl
    · exact State.memWf_setCore _ h (State.memWf_core h _)
  · exact h
theorem nextWf_execChangeRecordLost {desc : Nat} {wave : BitVec 32} {s : State} (h : s.memWf) :
    NextWf (execChangeRecordLost desc wave s) := by
  unfold execChangeRecordLost
  refine nextWf_next (State.memWf_wake ?_)
  split
  · exact State.wf_push (State.wf_record (State.wf_evalWatches (State.wf_withMem h rfl (Memory.wf_setLost _ _ (Memory.wf_recount _ _
      _ (State.mem_wf h))))))
  · exact h

/-! ### From launch to issue (spec/16) -/

theorem State.wf_form {s : State} {c ch : Nat} {kind : Firing} {g : Gang} {taken : List Msg} (h : s.memWf) :
    (s.form c ch kind g taken).memWf := by
  unfold State.form
  with_reducible exact State.memWf_wake (State.wf_regrant (State.wf_modCluster (State.memWf_setCore _ h (Core.wf_setAt (Core.wf_bump
                   (Core.wf_setChannel (Core.wf_dropArrivals (State.memWf_core h _))))))))
theorem State.wf_formCarry {s : State} {c ch : Nat} {code : BitVec 32} (h : s.memWf) : (s.formCarry c ch code).memWf :=
  State.wf_form h
theorem State.wf_formFrame {s : State} {c ch a : Nat} {msg : Msg} (h : s.memWf) : (s.formFrame c ch a msg).memWf := by
  unfold State.formFrame
  split
  · exact h
  · exact State.wf_pushFrom (State.wf_form (State.wf_with (State.wf_dropFrameHold h) rfl))
theorem State.wf_readCodelet {s : State} {c : Nat} {w : Word} (h : s.memWf) : (s.readCodelet c w).memWf := by
  unfold State.readCodelet
  cases he : s.entry c (fieldOf w 31 16) with
  | none => exact h
  | some r => exact State.wf_entry h _ he
theorem State.wf_formMessage {s : State} {c ch : Nat} (h : s.memWf) : (s.formMessage c ch).memWf := by
  unfold State.formMessage
  extract_lets k x lane t
  have ht : t.memWf := State.wf_fresh h
  refine State.wf_ite (State.wf_form ht) ?_
  split
  · exact h
  · extract_lets ws code arg g t1 here
    have ht1 : t1.memWf := State.wf_readCodelet (State.wf_form ht)
    have hhere : here.memWf := State.memWf_modMe (State.wf_with ht1 rfl) fun _ hx1 => hx1
    exact State.wf_ite (State.memWf_takeTrap _ hhere) (State.wf_ite ht1 (State.memWf_enterTrap _ _ hhere))
theorem State.wf_formChange {s : State} {c ch : Nat} (h : s.memWf) : (s.formChange c ch).memWf := by
  unfold State.formChange
  dsimp only
  split
  · exact h
  · exact State.wf_form (State.wf_fresh h)
theorem nextWf_execFiring {core ch : Nat} {s : State} (h : s.memWf) : NextWf (execFiring core ch s) := by
  unfold execFiring
  refine nextWf_next (State.wf_ite h ?_)
  split
  · split
    · exact h
    · split
      · exact State.wf_ite (State.wf_formFrame h) h
      · exact State.wf_formCarry h
  · exact State.wf_formMessage h
  · exact State.wf_formChange h
theorem State.wf_abandon {s : State} {c slot : Nat} (h : s.memWf) : (s.abandon c slot).memWf := by
  unfold State.abandon
  dsimp only
  split
  · exact State.wf_ite (State.wf_with (State.memWf_modCore _ h fun _ hk => Core.wf_setAt hk) rfl) h
  · exact State.memWf_modCore _ h fun _ hk => Core.wf_setAt hk
  · exact h
theorem nextWf_execTrapEntry {core : Nat} {s : State} (h : s.memWf) : NextWf (execTrapEntry core s) := by
  unfold execTrapEntry
  refine nextWf_next ?_
  split
  · exact h
  · extract_lets t timer drop t1
    have ht : t.memWf := State.wf_with h rfl
    have hdrop : ∀ x, x.memWf → (drop x).memWf := fun _ hx => State.memWf_modMe hx fun _ hx1 => Core.wf_ite hx1 hx1
    have ht1 : t1.memWf := State.wf_ite ht (State.memWf_modMe ht fun _ hx => hx)
    split
    · extract_lets t2 t3 t4
      have ht2 : t2.memWf := State.wf_abandon ht
      have ht3 : t3.memWf := State.memWf_modMe ht2 fun _ hx => hx
      have ht4 : t4.memWf := State.wf_ite ht3 (State.memWf_modMe ht3 fun _ hx => Core.wf_modGang hx)
      exact State.memWf_takeTrap _ (hdrop _ ht4)
    · exact State.wf_ite (State.memWf_levelTwo _ _ (State.memWf_modMe (hdrop _ ht1) fun _ hx => hx)) (State.memWf_enterTrap _ _
        (hdrop _ ht1))
theorem nextWf_execDelaySlotAnnul {s : State} (h : s.memWf) : NextWf (execDelaySlotAnnul s) := by
  unfold execDelaySlotAnnul
  with_reducible exact nextWf_next (State.memWf_modMe h fun _ hx => Core.wf_modGang hx)
theorem State.wf_raiseHead {s : State} {q : Nat} (h : s.memWf) : (s.raiseHead q).memWf := State.wf_with (State.wf_writeSeen h) rfl
theorem State.wf_distribute {s : State} {b : List Byte} {e : DirEntry} {launch count n i : Nat} (h : s.memWf) :
    (s.distribute b e launch count n i).1.memWf := by
  induction n generalizing s i with
  | zero => exact h
  | succ n ih =>
    rw [State.distribute]
    refine State.wf_fst_ite h ?_
    split
    · exact h
    · rename_i num t heq
      have ht : t.memWf := State.wf_drawStrand h _ heq
      exact ih (State.wf_fresh (State.wf_with ht rfl))
theorem nextWf_execDerrickSelection {s : State} (h : s.memWf) : NextWf (execDerrickSelection s) := by
  unfold execDerrickSelection
  refine nextWf_next ?_
  split
  · exact h
  · extract_lets _ t die entry
    have ht : t.memWf := State.wf_with h rfl
    split
    · exact ht
    · refine State.wf_ite (State.wf_push (State.wf_record (State.wf_raiseHead ht))) ?_
      split
      · exact ht
      · split
        · dsimp only
          exact State.wf_with (State.wf_distribute ht) rfl
        · dsimp only
          exact State.wf_with (State.wf_distribute (State.wf_with ht rfl)) rfl
theorem State.wf_settleHeads {s : State} (h : s.memWf) : s.settleHeads.memWf :=
  State.wf_foldl h fun _ _ hx => State.wf_countLaunch (State.wf_raiseHead hx)
theorem nextWf_execLaunchDone {_q idx : Nat} {s : State} (h : s.memWf) : NextWf (execLaunchDone _q idx s) := by
  unfold execLaunchDone
  refine nextWf_next ?_
  split
  · exact h
  · dsimp only
    split
    · exact State.memWf_wake (State.wf_evalWatches (State.wf_withMem h rfl (Memory.wf_atomic _ _ _ _ (State.mem_wf h))))
    · exact State.wf_with h rfl
theorem nextWf_execLaunchQueueControl {q : Nat} {v : Word} {s : State} (h : s.memWf) : NextWf (execLaunchQueueControl q v s) := by
  unfold execLaunchQueueControl
  extract_lets die _ t prio rs t1 _ t2
  have ht : t.memWf := State.wf_with h rfl
  have ht1 : t1.memWf := by
    unfold t1
    refine State.wf_foldl ht ?_
    intro _ _ hx
    split
    · exact State.wf_ite hx (State.wf_foldl hx fun _ _ hx1 => State.memWf_modCore _ hx1 fun _ hx2 => Core.wf_setChannel hx2)
    · exact hx
  have ht2 : t2.memWf := State.wf_with ht1 rfl
  exact nextWf_next (State.wf_ite (State.wf_record h) (State.wf_ite ht (State.wf_ite ht2 (State.wf_writeSeen ht2))))

/-! ### The loader (spec/02 R74-R77) -/

theorem State.wf_mapPage {s : State} {part page : Nat} (h : s.memWf) : (s.mapPage part page).memWf := by
  unfold State.mapPage
  refine State.wf_ite h ?_
  split
  · exact State.wf_withMem h rfl (Memory.wf_store _ _ _ _ (State.mem_wf h))
  · exact h
theorem State.wf_mapRange {s : State} {part a n : Nat} (h : s.memWf) : (s.mapRange part a n).memWf :=
  State.wf_foldl h fun _ _ hx => State.wf_mapPage hx
theorem State.wf_clearArea {s : State} {part a n : Nat} (h : s.memWf) : (s.clearArea part a n).memWf := by
  unfold State.clearArea
  refine State.wf_foldl (State.wf_mapRange h) ?_
  intro _ _ hx
  dsimp only
  split
  · exact State.wf_withMem hx rfl (Memory.wf_wipe _ _ (State.mem_wf hx))
  · exact hx
theorem State.wf_writeRange {s : State} {part a : Nat} {bs : List Byte} (h : s.memWf) : (s.writeRange part a bs).memWf :=
  State.wf_foldl h fun _ _ hx => State.wf_writeV hx
theorem State.wf_placeRoutine {s : State} {r : ImageRoutine} (h : s.memWf) : (s.placeRoutine r).memWf :=
  State.wf_foldl h fun _ _ hx => State.memWf_modCore _ hx fun _ hk => hk
theorem State.wf_bindChannel {s : State} {rs : List ImageRoutine} {x : ImageChannel} (h : s.memWf) : (s.bindChannel rs x).memWf :=
  State.wf_foldl h fun _ _ hx1 => State.memWf_modCore _ hx1 fun _ hk => Core.wf_setChannel hk
theorem State.wf_enterRoutine {s : State} {part : Nat} {xs : List ImageChannel} {r : ImageRoutine} (h : s.memWf) :
    (s.enterRoutine part xs r).memWf := State.wf_writeRange h
theorem State.wf_copySection {s : State} {part : Nat} {cs : List Nat} {r : ImageRecord} (h : s.memWf) :
    (s.copySection part cs r).memWf :=
  State.wf_ite (State.wf_foldl h fun _ _ hx => State.memWf_modCore _ hx fun _ hk => Memory.wf_write _ _ _ hk) (State.wf_ite
    (State.wf_writeRange (State.wf_mapRange h)) h)
theorem PartCore.wf_begin {p : PartCore} {n rank clock : Nat} {paired : Bool} {trap : List (BitVec 16)} :
    (p.begin n rank clock paired trap).mem.wf :=
  rfl
theorem State.wf_start {s : State} {r : StartReq} {rs : List ImageRecord} (h : s.memWf) : (s.start r rs).memWf :=
  State.wf_with (State.wf_foldl (State.wf_writeRange (State.wf_foldl (State.wf_foldl (State.wf_foldl (State.wf_foldl
    (State.wf_writeRange (State.wf_foldl (State.wf_foldl (State.wf_mk (State.mem_wf (State.wf_vacate h)) (coresWf_foldl
    (coresWf_filter (State.cores_wf (State.wf_vacate h))) fun _ _ hx => coresWf_mput hx PartCore.wf_begin) coresWf_nil twinsWf_nil)
    fun _ _ hx => State.wf_clearArea hx) fun _ _ hx => State.wf_writeV hx)) fun _ _ hx => State.wf_placeRoutine hx) fun _ _ hx =>
    State.wf_enterRoutine hx) fun _ _ hx => State.wf_bindChannel hx) fun _ _ hx => State.wf_copySection hx)) fun _ _ hx =>
    State.wf_append hx) rfl
theorem State.wf_refuseStart {s : State} {r : StartReq} (h : s.memWf) : (s.refuseStart r).memWf :=
  State.wf_with (State.wf_rouse (State.wf_tell h)) rfl
theorem nextWf_execContextStart {r : StartReq} {s : State} (h : s.memWf) : NextWf (execContextStart r s) := by
  unfold execContextStart
  refine nextWf_next (State.wf_ite (State.wf_refuseStart h) ?_)
  split
  · exact State.wf_ite (State.wf_start h) (State.wf_refuseStart h)
  · exact State.wf_refuseStart h

/-! ### Frames, quotas and links (spec/17 R389-R406) -/

theorem nextWf_execPacketAdmission {src : Source} {cost : Nat} {s : State} (h : s.memWf) : NextWf (execPacketAdmission src cost s) := by
  unfold execPacketAdmission
  refine nextWf_next ?_
  split
  · exact State.wf_with h rfl
  · exact h
theorem Core.wf_endFrame {k : Core} (h : k.mem.wf) : k.endFrame.mem.wf := h
theorem State.wf_newFrame {s : State} (h : s.memWf) : s.newFrame.memWf :=
  State.wf_withCores h rfl (coresWf_map (State.cores_wf h) fun _ he => Core.wf_endFrame he)
theorem State.wf_passMark {s : State} {pkg : Nat} (h : s.memWf) : (s.passMark pkg).memWf :=
  State.wf_foldl (State.wf_with h rfl) fun _ _ hx => State.wf_push hx
theorem State.wf_startFrame {s : State} (h : s.memWf) : s.startFrame.memWf := State.wf_with (State.wf_newFrame h) rfl
theorem nextWf_execFrameMark {port : Nat} {s : State} (h : s.memWf) : NextWf (execFrameMark port s) :=
  nextWf_next (State.wf_ite (State.wf_ite h (State.wf_startFrame h)) (State.wf_passMark (State.wf_ite h (State.wf_startFrame h))))
theorem State.wf_sendBranch {s : State} {x b : Tree} (h : s.memWf) : (s.sendBranch x b).memWf :=
  State.wf_ite (State.wf_foldl h fun _ _ hx1 => State.wf_ite (State.wf_recordRefused hx1) (State.wf_ite (State.wf_push hx1) hx1))
    (State.wf_ite (State.wf_with h rfl) (State.wf_with h rfl))
theorem State.wf_dropCopyOf {s : State} {from' : Nat} {b : Tree} (h : s.memWf) : (s.dropCopyOf from' b).memWf :=
  State.wf_recordRefused h
theorem nextWf_execMulticastFork {tree : Nat × Nat} {s : State} (h : s.memWf) : NextWf (execMulticastFork tree s) := by
  unfold execMulticastFork
  refine nextWf_next ?_
  split
  · exact h
  · exact State.wf_ite h (State.wf_ite (State.wf_foldl (State.wf_with h rfl) fun _ _ hx => State.wf_sendBranch hx) (State.wf_with
      (State.wf_foldl (State.wf_with h rfl) fun _ _ hx => State.wf_sendBranch hx) rfl))
theorem nextWf_execMulticastResidualSend {router : Nat} {s : State} (h : s.memWf) : NextWf (execMulticastResidualSend router s) := by
  unfold execMulticastResidualSend
  refine nextWf_next ?_
  split
  · exact h
  · exact State.wf_with (State.wf_sendBranch h) rfl
theorem nextWf_execRefusedTraffic {r : Req} {s : State} (h : s.memWf) : NextWf (execRefusedTraffic r s) := by
  unfold execRefusedTraffic
  refine nextWf_next ?_
  split
  · exact State.wf_ite (State.wf_push (State.wf_recordRefused (State.wf_ite h (State.wf_answer h)))) (State.wf_recordRefused
      (State.wf_ite h (State.wf_answer h)))
  · exact State.wf_recordRefused (State.wf_ite h (State.wf_answer h))
theorem State.wf_setPort {s : State} {p : Nat} {x : Port} (h : s.memWf) : (s.setPort p x).memWf := h
theorem State.wf_portState {s : State} {p : Nat} {x : Port} (h : s.memWf) : (s.portState p x).memWf :=
  State.wf_ite (State.wf_setPort h) (State.wf_with (State.wf_record (State.wf_setPort h)) rfl)
theorem State.wf_sendFlits {s : State} {far : Nat} {fs : List (BitVec 512)} (h : s.memWf) : (s.sendFlits far fs).memWf :=
  State.wf_foldl h fun _ _ hx => State.wf_push hx
theorem State.wf_acceptFlit {s : State} {port : Nat} {f : BitVec 512} (h : s.memWf) : (s.acceptFlit port f).memWf :=
  State.wf_ite (State.wf_with (State.wf_setPort h) rfl) (State.wf_setPort h)
theorem State.wf_discardFlit {s : State} {port : Nat} (h : s.memWf) : (s.discardFlit port).memWf :=
  State.wf_ite h (State.wf_push (State.wf_setPort h))
theorem nextWf_execFlitReceive {port : Nat} {flit : BitVec 512} {s : State} (h : s.memWf) : NextWf (execFlitReceive port flit s) :=
  nextWf_next (State.wf_ite h (State.wf_ite (State.wf_setPort h) (State.wf_ite (State.wf_acceptFlit h) (State.wf_discardFlit h))))
theorem State.wf_sendAgain {s : State} {port seq : Nat} (h : s.memWf) : (s.sendAgain port seq).memWf :=
  State.wf_sendFlits (State.wf_keepEvents (State.wf_setPort h))
theorem nextWf_execNegativeAcknowledgement {port seq : Nat} {s : State} (h : s.memWf) :
    NextWf (execNegativeAcknowledgement port seq s) :=
  nextWf_next (State.wf_ite h (State.wf_ite (State.wf_push (State.wf_ite (State.wf_setPort h) (State.wf_record (State.wf_setPort
    h)))) (State.wf_sendAgain (State.wf_ite (State.wf_setPort h) (State.wf_record (State.wf_setPort h))))))
theorem State.wf_sendManagement {s : State} {port : Nat} (h : s.memWf) : (s.sendManagement port).memWf :=
  State.wf_foldl (State.wf_sendFlits h) fun _ _ hx => State.wf_push hx
theorem State.wf_train {s : State} {port : Nat} (h : s.memWf) : (s.train port).memWf := State.wf_portState h
theorem State.wf_trainFar {s : State} {port : Nat} (h : s.memWf) : (s.trainFar port).memWf := State.wf_ite (State.wf_train h) h
theorem State.wf_takeDown {s : State} {port : Nat} (h : s.memWf) : (s.takeDown port).memWf := State.wf_portState h
theorem State.wf_comeUp {s : State} {port far : Nat} {got : BitVec 11} {peer : Nat} (h : s.memWf) :
    (s.comeUp port far got peer).memWf := State.wf_sendFlits (State.wf_keepEvents (State.wf_with (State.wf_portState h) rfl))
theorem nextWf_execPortTraining {port peer : Nat} {s : State} (h : s.memWf) : NextWf (execPortTraining port peer s) :=
  nextWf_next (State.wf_ite h (State.wf_ite (State.wf_takeDown h) (State.wf_ite (State.wf_comeUp (State.wf_comeUp h))
    (State.wf_comeUp h))))

/-! ### Paired execution (spec/22 R470-R474) -/

theorem State.wf_twin {s : State} {c : Nat} (h : s.memWf) : (s.twin c).wf := by
  unfold State.twin
  split
  · rename_i w heq
    have hw : w.wf := twinsWf_mfind (State.twins_wf h) _ _ heq
    exact Twin.wf_with hw
  · exact Twin.wf_mk (State.memWf_core h _) (State.memWf_core h _) (State.memWf_core h _)
theorem State.wf_setTwin {s : State} {c : Nat} {w : Twin} (h : s.memWf) (hw : w.wf) : (s.setTwin c w).memWf :=
  State.wf_withTwins h rfl (twinsWf_mput (State.twins_wf h) hw)
theorem State.wf_setFollower {s : State} {c : Nat} {f : Core} (h : s.memWf) (hf : f.mem.wf) : (s.setFollower c f).memWf :=
  State.wf_with (State.wf_setTwin h (Twin.wf_mk hf (Twin.base_wf (State.wf_twin h)) (Twin.otherBase_wf (State.wf_twin h)))) rfl
theorem State.wf_strikeFollower {s : State} {c : Nat} {a : ArrayRef} {addr : Nat} {ue : Bool} (h : s.memWf) :
    (s.strikeFollower c a addr ue).memWf := by
  unfold State.strikeFollower
  refine State.wf_setTwin h ?_
  split
  · exact Twin.wf_ite (State.wf_twin h) (Twin.wf_with (State.wf_twin h))
  · exact Twin.wf_with (State.wf_twin h)
theorem State.wf_asFollower {s : State} {c : Nat} (h : s.memWf) : (s.asFollower c).memWf :=
  State.wf_withCores h rfl (coresWf_mput (State.cores_wf h) (Twin.follower_wf (State.wf_twin h)))
theorem Memory.wf_takeWords {m : Memory} {ws : List (Nat × Word × Bool)} (h : m.wf) : (m.takeWords ws).wf :=
  Memory.wf_foldl h fun _ _ hx => Memory.wf_setBad _ _ (Memory.wf_store _ _ _ _ hx)
theorem Core.wf_told {f k : Core} (h : f.mem.wf) : (f.told k).mem.wf := h
theorem State.wf_tellFollower {s : State} {c : Nat} (h : s.memWf) : (s.tellFollower c).memWf := by
  unfold State.tellFollower
  split
  · rename_i w heq
    have hw : w.wf := twinsWf_mfind (State.twins_wf h) _ _ heq
    exact State.wf_setTwin h (Twin.wf_mk (Core.wf_told (Twin.follower_wf hw)) (Twin.base_wf hw) (Twin.otherBase_wf hw))
  · exact h
theorem State.wf_closeFirst {s : State} {c : Nat} (h : s.memWf) : (s.closeFirst c).memWf := State.memWf_modCore _ h fun _ hk => hk
theorem Core.wf_settlePair {k before : Core} (h : k.mem.wf) : (k.settlePair before).mem.wf := Core.wf_ite h h
theorem Core.wf_freshInterval {k : Core} {mark clock : Nat} (h : k.mem.wf) : (k.freshInterval mark clock).mem.wf := h
theorem Core.wf_rolledBack {k base : Core} (hbase : base.mem.wf) : (k.rolledBack base).mem.wf := hbase
theorem Core.wf_disarm {k : Core} (h : k.mem.wf) : k.disarm.mem.wf := h
theorem State.wf_recordMismatch {s : State} {c : Nat} {ue : Bool} (h : s.memWf) : (s.recordMismatch c ue).memWf :=
  State.wf_recordCore (State.wf_ite (State.memWf_setCore _ h (State.memWf_core h _)) (State.wf_recordCore (State.memWf_setCore _ h
    (State.memWf_core h _))))
theorem State.wf_rollBack {s : State} {c : Nat} (h : s.memWf) : (s.rollBack c).memWf := by
  unfold State.rollBack
  extract_lets w t _
  have hw : w.wf := State.wf_twin h
  have ht : t.memWf := State.wf_setFollower (State.memWf_setCore _ h (Core.wf_rolledBack (Twin.base_wf hw))) (Core.wf_rolledBack
    (Twin.otherBase_wf hw))
  exact State.wf_setTwin ht (Twin.wf_with (State.wf_twin ht))
theorem State.wf_agree {s : State} {c : Nat} (h : s.memWf) : (s.agree c).memWf :=
  State.memWf_wake (State.wf_foldl (State.wf_setTwin (State.memWf_setCore _ h (Core.wf_freshInterval (State.memWf_core h _)))
    (Twin.wf_mk (Core.wf_freshInterval (Twin.follower_wf (State.wf_twin h))) (Core.wf_freshInterval (State.memWf_core h _))
    (Core.wf_freshInterval (Twin.follower_wf (State.wf_twin h))))) fun _ _ hx => State.wf_push hx)
theorem nextWf_execPairIntervalClose {core : Nat} {s : State} (h : s.memWf) : NextWf (execPairIntervalClose core s) :=
  nextWf_next (State.wf_ite h (State.wf_ite (State.wf_agree h) (State.wf_ite (State.wf_push (State.memWf_modCore _
    (State.wf_recordMismatch h) fun _ hx => Core.wf_disarm hx)) (State.wf_rollBack (State.wf_recordMismatch h)))))

/-! ### Scrubbing, containment and reset (spec/22, spec/24 R505) -/

theorem nextWf_execScrub {a : ArrayRef} {addr : Nat} {s : State} (h : s.memWf) : NextWf (execScrub a addr s) := by
  unfold execScrub
  refine nextWf_next (State.wf_ite h ?_)
  split
  · exact State.wf_scanLocal h
  · exact State.wf_findUpsets h
theorem State.wf_scrubRound {s : State} {clock : Nat} (h : s.memWf) : (s.scrubRound clock).memWf :=
  State.wf_ite h (State.wf_findUpsets (State.wf_foldl h fun _ _ hx => State.wf_ite hx (State.wf_foldl hx fun _ _ hx1 =>
    State.wf_findError hx1)))
theorem State.wf_settleSlices {s : State} (h : s.memWf) : s.settleSlices.memWf :=
  State.wf_ite h (State.wf_with (State.wf_with h rfl) rfl)
theorem nextWf_execRetentionEntry {a : ArrayRef} {s : State} (h : s.memWf) : NextWf (execRetentionEntry a s) := by
  unfold execRetentionEntry
  refine nextWf_next ?_
  split
  · exact State.wf_ite (State.memWf_modCore _ h fun _ hx => hx) h
  · exact State.wf_ite (State.wf_with h rfl) h
  · exact h
theorem nextWf_execRetentionExit {a : ArrayRef} {s : State} (h : s.memWf) : NextWf (execRetentionExit a s) := by
  unfold execRetentionExit
  refine nextWf_next ?_
  split
  · exact State.wf_touchCore (State.wf_rouseArray h)
  · exact State.wf_touchSlice (State.wf_rouseArray h)
  · exact h
theorem Core.wf_contained {k : Core} (h : k.mem.wf) : k.contained.mem.wf := h
theorem Core.wf_besides {k : Core} {cs : List Nat} (h : k.mem.wf) : (k.besides cs).mem.wf := h
theorem State.wf_numberRect {s : State} {rect : Nat} (h : s.memWf) : (s.numberRect rect).memWf :=
  State.wf_ite h (State.wf_with h rfl)
theorem State.wf_abandonSave {s : State} (h : s.memWf) : s.abandonSave.memWf :=
  State.wf_ite (State.wf_tell (State.wf_with (State.wf_withCores (State.wf_writeSeen h) rfl (coresWf_map (State.cores_wf
    (State.wf_writeSeen h)) fun _ he => he)) rfl)) h
theorem State.wf_contain {s : State} {rect trigger : Nat} (h : s.memWf) : (s.contain rect trigger).memWf := by
  unfold State.contain
  extract_lets cs s1 s2 back holds lost strands w0 us dies bounds _ t t1 _ x t2 t3 t4 t5
  have hs1 : s1.memWf := State.wf_numberRect (State.wf_abandonSave h)
  have hs2 : s2.memWf := State.wf_foldl hs1 fun _ _ hx1 => State.wf_foldl hx1 fun _ _ hx2 => State.wf_tellHalt hx2
  have ht : t.memWf := State.wf_mk (State.mem_wf hs2) (coresWf_map (State.cores_wf hs2) fun _ he => Core.wf_ite (Core.wf_contained
    he) (Core.wf_besides he)) (State.savedCores_wf hs2) (twinsWf_filter (State.twins_wf hs2))
  have ht1 : t1.memWf := State.wf_foldl ht fun _ _ hx1 => State.wf_dropFrameHold hx1
  have ht2 : t2.memWf := State.wf_with ht1 rfl
  have ht3 : t3.memWf := State.wf_foldl ht2 fun _ _ hx1 => State.wf_recordRefused hx1
  have ht4 : t4.memWf := State.wf_foldl ht3 fun _ _ hx1 => State.wf_freeze (State.wf_record hx1)
  have ht5 : t5.memWf := State.wf_foldl ht4 fun _ _ hx1 => State.wf_push hx1
  exact State.wf_ite h (State.memWf_wake (State.wf_push (State.wf_push (State.wf_tell ht5))))
theorem State.wf_resetInside {s : State} {rect : Nat} (h : s.memWf) : (s.resetInside rect).memWf := by
  refine State.wf_mk (State.mem_wf h) (coresWf_map (State.cores_wf h) fun e he => ?_) (State.savedCores_wf h)
    (twinsWf_filter (State.twins_wf h))
  exact Core.wf_ite rfl he
theorem State.wf_fatal {s : State} {x : FatalAt} {array addr : Nat} (h : s.memWf) : (s.fatal x array addr).memWf :=
  State.wf_ite h (State.wf_ite (State.wf_with (State.wf_with (State.wf_foldl (State.wf_record h) fun _ _ hx1 => State.wf_freeze hx1)
    rfl) rfl) (State.wf_with (State.wf_foldl (State.wf_record h) fun _ _ hx1 => State.wf_freeze hx1) rfl))

/-! ### The save areas of a context (spec/16 R379-R381) -/

theorem State.wf_writeParts' {s : State} {part base : Nat} {ps : List (Nat × List Byte)} {marks : List Nat} (h : s.memWf) :
    (s.writeParts' part base ps marks).memWf := by
  unfold State.writeParts'
  refine State.wf_foldl (State.wf_foldl h fun _ _ hx => State.wf_writeRange hx) ?_
  intro _ _ hx
  split
  · exact State.wf_withMem hx rfl (Memory.wf_setBad _ _ (State.mem_wf hx))
  · exact hx
theorem State.wf_writeCoreArea {s : State} {c : Nat} (h : s.memWf) : (s.writeCoreArea c).memWf := by
  unfold State.writeCoreArea
  exact State.wf_writeParts' (State.wf_foldl (State.wf_clearArea h) fun t e ht => State.wf_writeV ht)
theorem State.wf_writeClusterArea {s : State} {u i : Nat} (h : s.memWf) : (s.writeClusterArea u i).memWf :=
  State.wf_writeParts' (State.wf_clearArea h)
theorem State.wf_areaMemory {s : State} {base n : Nat} : (s.areaMemory base n).wf := by
  refine Memory.wf_foldl rfl fun m p hm => ?_
  dsimp only
  split
  · exact hm
  · exact Memory.wf_foldl (Memory.wf_foldl hm fun m e hm => Memory.wf_setByte _ _ hm) fun m e hm => Memory.wf_setBad _ _ hm
theorem State.wf_meetArea {s : State} {base n : Nat} (h : s.memWf) : (s.meetArea base n).memWf := by
  unfold State.meetArea
  refine State.wf_foldl h ?_
  intro _ _ hx
  dsimp only
  split
  · exact State.wf_meetGlobal hx
  · exact hx
theorem State.wf_loadCore {s : State} {c : Nat} {m : Memory} {k : Core} (hm : m.wf) : (s.loadCore c m k).mem.wf := Memory.wf_keep hm

/-! ### Preemption and restore (spec/12 R316-R318) -/

theorem State.wf_beginSave {s : State} (h : s.memWf) : s.beginSave.memWf :=
  State.wf_withCores h rfl (coresWf_map (State.cores_wf h) fun _ he => he)
theorem State.wf_abandonAll {s : State} (h : s.memWf) : s.abandonAll.memWf :=
  State.wf_foldl h fun _ _ hx => State.wf_foldl hx fun _ _ hx1 => State.memWf_modCore _ (State.wf_abandon hx1) fun _ hk =>
    Core.wf_setAt hk
theorem State.wf_savedCore {s : State} {c : Nat} (h : s.memWf) : (s.savedCore c).mem.wf := by
  unfold State.savedCore
  with_reducible exact Core.wf_mapOuts (State.memWf_core h _)
theorem State.savedWf_foldl {α : Type} {s : State} {cs : List (Nat × α)} (h : s.memWf) :
    coresWf ((cs.map fun e => (e.1, s.savedCore e.1)).foldl (fun m e => mput m e.1 e.2) []) := by
  rw [List.foldl_map]
  exact coresWf_foldl coresWf_nil fun m e hm => coresWf_mput hm (State.wf_savedCore h)
theorem nextWf_execPreemption {s : State} (h : s.memWf) : NextWf (execPreemption s) := by
  unfold execPreemption
  extract_lets t0 t1 t2 saved us _ x u
  have ht1 : t1.memWf := State.wf_foldl (State.wf_vacate (State.wf_abandonAll h)) fun t c ht => State.wf_writeCoreArea ht
  have ht2 : t2.memWf := State.wf_foldl ht1 fun t e ht => State.wf_writeClusterArea ht
  have hu : u.memWf := State.wf_keepEvents ht2
  exact nextWf_next (State.wf_ite h (State.wf_tell (State.wf_mk (State.mem_wf hu) (coresWf_filter (State.cores_wf ht2))
    (State.savedWf_foldl ht2) (State.twins_wf hu))))
theorem State.wf_loadSeats {s : State} {m : Memory} {id : Nat} {cores : List (Nat × Nat × Nat × Nat)} {k : List (Nat × Core)} (hk :
  coresWf k) :
    coresWf (s.loadSeats m id cores k) := coresWf_foldl hk fun _ _ hx => coresWf_mput hx (coresWf_mget hx _)
theorem State.wf_putBack {s : State} {rects : List Rect} (h : s.memWf) : (s.putBack rects).memWf := by
  unfold State.putBack
  extract_lets cores us part clusterArea coreArea s1 s2 pair start unit units ks ks1 ks2 _ t t'
  have hs : s2.memWf := State.wf_foldl (State.wf_foldl h fun _ _ hx => State.wf_meetArea hx) fun _ _ hx => State.wf_meetArea hx
  have hstart : ∀ p k, k.mem.wf → (start p k).mem.wf := fun _ _ hk => hk
  have hks : coresWf ks := coresWf_foldl (State.cores_wf hs) fun _ _ hx => coresWf_mput hx (State.wf_loadCore State.wf_areaMemory)
  have hks1 : coresWf ks1 := coresWf_foldl hks fun _ _ hx => State.wf_loadSeats hx
  have hks2 : coresWf ks2 := coresWf_foldl hks1 fun _ _ hx => coresWf_mput hx (hstart _ _ (coresWf_mget hx _))
  have ht : t.memWf := State.wf_mk (State.mem_wf hs) hks2 coresWf_nil twinsWf_nil
  exact State.wf_writeRange (State.wf_with ht rfl)

/-! ### The host port and its commands (spec/24 R489-R507) -/

theorem State.wf_modHost {s : State} {f : HostPort → HostPort} (h : s.memWf) : (s.modHost f).memWf := h
theorem State.wf_setDoorbell {s : State} {page : Nat} {d : Doorbell} (h : s.memWf) : (s.setDoorbell page d).memWf := h
theorem wf_systemCore {code : List (BitVec 16)} {clock : Nat} : (systemCore code clock).mem.wf := rfl
theorem wf_supervisorCore {pkg clock : Nat} : (supervisorCore pkg clock).mem.wf := rfl
theorem State.wf_setStage {s : State} {pkg n : Nat} (h : s.memWf) : (s.setStage pkg n).memWf :=
  State.wf_ite (State.wf_modHost h) (State.wf_with h rfl)
theorem State.wf_bootNext {s : State} {pkg : Nat} (h : s.memWf) : (s.bootNext pkg).memWf := by
  unfold State.bootNext
  dsimp only
  split
  · exact State.wf_setStage h
  · exact State.wf_ite (State.wf_with (State.wf_setStage h) rfl) (State.wf_ite (State.wf_with (State.memWf_setCore _
      (State.wf_setStage h) wf_supervisorCore) rfl) (State.wf_setStage h))
theorem State.wf_boot {s : State} : s.boot.memWf := State.wf_with State.wf_reset rfl
theorem State.wf_setPartition {s : State} {n : Nat} {p : Partition} (h : s.memWf) : (s.setPartition n p).memWf := h
theorem State.wf_changeHands {s : State} {p : Partition} (h : s.memWf) : (s.changeHands p).memWf :=
  State.wf_withMem h rfl (Memory.wf_foldl (State.mem_wf h) fun _ _ hx => Memory.wf_wipe _ _ hx)
theorem nextWf_execPartitionCreate {p : PartitionReq} {s : State} (h : s.memWf) : NextWf (execPartitionCreate p s) :=
  nextWf_next (State.wf_respond (State.wf_ite (State.wf_withMem (State.wf_changeHands h) rfl (Memory.wf_wipe _ _ (State.mem_wf
    (State.wf_changeHands h)))) h))
theorem State.wf_dropPartition {s : State} {part : Nat} {p : Partition} {lifted : List Nat} (h : s.memWf) :
    (s.dropPartition part p lifted).memWf :=
  State.wf_withCores (State.wf_changeHands h) rfl (coresWf_filter (State.cores_wf (State.wf_changeHands h)))
theorem nextWf_execPartitionDestroy {part : Nat} {s : State} (h : s.memWf) : NextWf (execPartitionDestroy part s) := by
  unfold execPartitionDestroy
  split
  · exact nextWf_next (State.wf_respond h)
  · extract_lets mine rs t _ ctx d
    have ht : t.memWf := State.wf_foldl h fun t r ht => State.wf_resetInside (State.wf_contain ht)
    have hd : d.memWf := State.wf_dropPartition ht
    exact nextWf_next (State.wf_respond (State.wf_withCtx hd (Context.savedWf_ite coresWf_nil (State.savedCores_wf ht))))
theorem nextWf_execImageLoad {part : Nat} {image : SystemImage} {s : State} (h : s.memWf) : NextWf (execImageLoad part image s) := by
  unfold execImageLoad
  split
  · exact nextWf_next (State.wf_respond h)
  · exact nextWf_ite (nextWf_next (State.wf_respond h)) (nextWf_ite (nextWf_next (State.wf_respond h)) (nextWf_next
      (State.wf_respond (State.memWf_setCore _ (State.wf_putPartitionRing (State.wf_setPartition (State.wf_clearArea (State.wf_clearArea
      h)))) wf_systemCore))))
theorem nextWf_execNotice {part : Nat} {s : State} (h : s.memWf) : NextWf (execNotice part s) := by
  unfold execNotice
  split <;> exact nextWf_next (State.wf_respond h)
theorem nextWf_execPort {port action : Nat} {routes : List Nat} {s : State} (h : s.memWf) : NextWf (execPort port action routes s) :=
  nextWf_next (State.wf_respond (State.wf_ite (State.wf_with (State.wf_trainFar (State.wf_ite (State.wf_train h) (State.wf_takeDown
    h))) rfl) h))
theorem nextWf_execPower {cap tlimit part retidle : Nat} {s : State} (h : s.memWf) : NextWf (execPower cap tlimit part retidle s) := by
  unfold execPower
  split
  · exact nextWf_next (State.wf_respond h)
  · exact nextWf_ite (nextWf_next (State.wf_respond h)) (nextWf_next (State.wf_respond (State.wf_with
      (State.wf_setPartition h) rfl)))
theorem nextWf_execSupervisorResponse {core : Nat} {v : Word} {s : State} (h : s.memWf) : NextWf (execSupervisorResponse core v s) := by
  unfold execSupervisorResponse
  refine nextWf_next ?_
  split
  · exact State.wf_ite h (State.memWf_wake (State.memWf_setCore _ h (Core.wf_replyG (State.memWf_core h _))))
  · exact State.wf_ite (State.memWf_setCore _ h (State.memWf_core h _)) h
theorem State.wf_endPartitions {s : State} {pkg : Nat} (h : s.memWf) : (s.endPartitions pkg).memWf := by
  refine State.wf_foldl h fun t e ht => ?_
  extract_lets mine rs u given ctx d
  have hu : u.memWf := State.wf_foldl ht fun t r ht => State.wf_resetInside (State.wf_contain ht)
  have hd := State.wf_dropPartition (part := e.1) (p := e.2) (lifted := rs) hu
  exact State.wf_withCtx hd (Context.savedWf_ite coresWf_nil (State.savedCores_wf hu))
theorem State.wf_resetPackage {s : State} {pkg : Nat} (h : s.memWf) : (s.resetPackage pkg).memWf :=
  State.wf_mk (Memory.wf_keep (State.mem_wf (State.wf_endPartitions h))) (coresWf_filter (State.cores_wf (State.wf_endPartitions
    h))) (State.savedCores_wf (State.wf_endPartitions h)) (twinsWf_filter (State.twins_wf (State.wf_endPartitions h)))
theorem nextWf_execControl {page q : Nat} {v : Word} {s : State} (h : s.memWf) : NextWf (execControl page q v s) := by
  unfold execControl
  refine nextWf_next (State.wf_ite h ?_)
  split
  · exact State.wf_push h
  · exact h
theorem State.wf_answerRead {s : State} {off : Nat} (h : s.memWf) : (s.answerRead off).memWf := h
theorem State.wf_hostWrites {s : State} {off : Nat} {v : Word} (h : s.memWf) : (s.hostWrites off v).memWf :=
  State.wf_ite h (State.wf_ite (State.wf_ite (State.wf_resetPackage h) h) (State.wf_ite (State.wf_ite (State.wf_setDoorbell h) h)
    (State.wf_modHost h)))
theorem nextWf_execHostRegisterWrite {off : Nat} {a : HostAccess} {s : State} (h : s.memWf) :
    NextWf (execHostRegisterWrite off a s) := by
  unfold execHostRegisterWrite
  refine nextWf_next ?_
  split
  · exact State.wf_hostWrites h
  · exact State.wf_answerRead h
theorem nextWf_execMemoryWindowAccess {off size : Nat} {write : Bool} {v : Word} {s : State} (h : s.memWf) :
    NextWf (execMemoryWindowAccess off size write v s) := by
  unfold execMemoryWindowAccess
  refine nextWf_next (State.wf_ite h ?_)
  split
  · exact State.wf_ite h (State.wf_modHost h)
  · refine State.wf_ite (State.wf_recordRefused (State.wf_ite h (State.wf_modHost h))) ?_
    split
    · exact State.wf_recordRefused (State.wf_ite h (State.wf_modHost h))
    · exact State.wf_push h
theorem State.wf_spdmAnswer {s : State} {session status : Nat} {payload : List Word} (h : s.memWf) :
    (s.spdmAnswer session status payload).memWf := State.wf_respond h
theorem nextWf_execGetMeasurements {session index : Nat} {s : State} (h : s.memWf) : NextWf (execGetMeasurements session index s) := by
  unfold execGetMeasurements
  refine nextWf_next (State.wf_ite (State.wf_spdmAnswer h) ?_)
  split
  · exact State.wf_spdmAnswer h
  · refine State.wf_ite (State.wf_spdmAnswer h) (State.wf_ite (State.wf_spdmAnswer h) ?_)
    split <;> exact State.wf_spdmAnswer h
theorem nextWf_execSpdm {session : Nat} {msg : SpdmReq} {s : State} (h : s.memWf) : NextWf (execSpdm session msg s) := by
  unfold execSpdm
  refine nextWf_next ?_
  split
  · exact State.wf_push h
  · exact State.wf_push h
  · exact State.wf_push h
  · exact State.wf_push h
  · exact State.wf_push h
  · exact State.wf_push h
  · exact State.wf_push h
  · exact State.wf_spdmAnswer h

/-! ### System instructions (spec/12 R299-R307) -/

theorem State.wf_atLevels {s : State} {levels : List Nat} {body : Out} (hbody : body.Wf) : (s.atLevels levels body).Wf :=
  Out.wf_ite hbody State.wf_trapHere
theorem Core.wf_setTimer {k : Core} {v : BitVec 32} {clock : Nat} (h : k.mem.wf) : (k.setTimer v clock).mem.wf := h
theorem State.wf_setSpecial {s : State} {n : Nat} {v : Word} (h : s.memWf) : (s.setSpecial n v).memWf := by
  unfold State.setSpecial
  split
  · exact State.memWf_modMe h fun _ hk => Core.wf_ite hk hk
  · exact State.memWf_modMe h fun _ hk => hk
  · exact State.memWf_modMe h fun _ hk => hk
  · exact State.memWf_modMe h fun _ hk => hk
  · exact State.memWf_modMe h fun _ hk => hk
  · exact State.memWf_modMe h fun _ hk => hk
  · exact State.memWf_modMe h fun _ hk => hk
  · exact State.memWf_modMe h fun _ hk => hk
  · exact State.memWf_modMe h fun _ hk => hk
  · exact State.memWf_modMe h fun _ hk => Core.wf_setTimer hk
  · exact State.wf_with h rfl
  · exact h
theorem nextWf_execSget {d : BitVec 4} {n : BitVec 8} {s : State} (h : s.memWf) : NextWf (execSget d n s) :=
  State.nextWf_finish h (Out.wf_ite State.wf_trapHere (Out.wf_ite (State.wf_laneGate h (Out.wf_next (State.memWf_modGang _ h)))
    (State.wf_gate h (Out.wf_next (State.memWf_writeG _ _ _ h)))))
theorem nextWf_execSset {a : BitVec 4} {n : BitVec 8} {s : State} (h : s.memWf) : NextWf (execSset a n s) :=
  State.nextWf_finish h (Out.wf_ite State.wf_trapHere (Out.wf_ite (State.wf_laneGate h (Out.wf_ite (Out.wf_next h) (Out.wf_next
    (State.memWf_modGang _ h)))) (State.wf_gate h (Out.wf_next (State.wf_ite h (State.wf_setSpecial h))))))
theorem State.wf_modOwn {s : State} {c : Nat} {f : Core → Core} (h : s.memWf) (hf : ∀ x, x.mem.wf → (f x).mem.wf) :
    (s.modOwn c f).memWf :=
  State.wf_ite (State.wf_withCtx h (coresWf_mput (State.savedCores_wf h) (hf _ (coresWf_mget (State.savedCores_wf h) _))))
    (State.memWf_modCore _ h fun _ hk => hf _ hk)
theorem State.wf_faultDone {s : State} {tok : Word} (h : s.memWf) : (s.faultDone tok).1.memWf := by
  unfold State.faultDone
  refine State.wf_fst_ite (State.wf_fst_ite h (State.wf_fst_ite h (State.wf_fst_ite (State.memWf_wake (State.wf_modOwn h fun _ hx =>
    Core.wf_setCopyQ hx)) h))) ?_
  split
  · exact h
  · refine State.wf_fst_ite h ?_
    split
    · exact h
    · exact State.wf_fst_ite h (State.wf_ite (State.wf_recordSaved (State.wf_fresh (State.wf_modOwn (State.wf_chooseReplica h) fun _
        hx => hx))) (State.wf_fresh (State.wf_modOwn (State.wf_chooseReplica h) fun _ hx => hx)))
theorem State.wf_service {s : State} {sel : Nat} {v : Word} (h : s.memWf) : (s.service sel v).1.memWf := by
  unfold State.service
  refine State.wf_fst_ite ?_ (State.wf_fst_ite (State.wf_faultDone h) (State.wf_fst_ite (State.wf_fst_ite (State.wf_modOwn h fun _
    hx => Core.wf_setTimer hx) h) h))
  dsimp only
  split
  · exact h
  · exact State.wf_holdNotice h
  · exact State.wf_writeNotice h
theorem nextWf_execPcall {d a : BitVec 4} {sel : BitVec 8} {s : State} (h : s.memWf) : NextWf (execPcall d a sel s) :=
  State.nextWf_finish h (State.wf_gate h (Out.wf_ite (Out.wf_next h) (Out.wf_next (State.memWf_writeG _ _ _ (State.wf_service h)))))
theorem nextWf_execTret {s : State} (h : s.memWf) : NextWf (execTret s) :=
  State.nextWf_finish h (State.wf_atLevels (Out.wf_stay (State.wf_ite (State.wf_tellHalt (State.wf_setMe h (Core.wf_leave
    (State.me_wf h)))) (State.wf_setMe h (Core.wf_leave (State.me_wf h))))))
theorem nextWf_execBrk {sel : BitVec 8} {s : State} (h : s.memWf) : NextWf (execBrk sel s) := State.nextWf_finish h (Out.wf_next h)
theorem Core.wf_setPoint {k : Core} {code : Bool} {n : Nat} {w0 w1 : Word} (h : k.mem.wf) : (k.setPoint code n w0 w1).mem.wf :=
  Core.wf_ite h h
theorem State.wf_setPoint {s : State} {code : Bool} {n : Nat} {w0 w1 : Word} (h : s.memWf) : (s.setPoint code n w0 w1).memWf := by
  refine State.wf_mk (State.mem_wf h) (coresWf_map (State.cores_wf h) fun e he => ?_)
    (coresWf_map (State.savedCores_wf h) fun e he => Core.wf_setPoint he) (State.twins_wf h)
  split
  · exact Core.wf_setPoint he
  · exact he
theorem nextWf_execWpset {d a : BitVec 4} {k : BitVec 1} {n : BitVec 3} {s : State} (h : s.memWf) : NextWf (execWpset d a k n s) :=
  State.nextWf_finish h (State.wf_atLevels (State.wf_imageForm h fun _ => State.wf_readImage h fun _ hx1 _ => Out.wf_next
    (State.memWf_writeG _ _ _ (State.wf_ite (State.wf_setPoint hx1) hx1))))
theorem State.wf_onInterrupted {s : State} {f : Gang → Gang} (h : s.memWf) : (s.onInterrupted f).memWf := by
  unfold State.onInterrupted
  split
  · exact State.wf_ite (State.memWf_modMe h fun _ hk => Core.wf_setAt hk) h
  · exact h
theorem State.wf_invalidate {s : State} {scope : Nat} {d : Drop} (h : s.memWf) : (s.invalidate scope d).memWf :=
  State.memWf_modGang _ (State.wf_foldl (State.wf_fresh (State.wf_foldl h fun _ _ hx => State.wf_modCluster (State.memWf_modCore _
    hx fun _ hk => hk))) fun _ _ hx => State.wf_push hx)
theorem State.wf_invalidateForm {s : State} {scope : BitVec 3} {gated : Out → Out} {d : Drop} (h : s.memWf) (hgated : ∀ x, x.Wf →
  (gated x).Wf) :
    (s.invalidateForm scope gated d).Wf := by
  unfold State.invalidateForm
  refine State.wf_atLevels ?_
  split
  · exact Out.wf_next h
  · exact Out.wf_wait h
  · exact hgated _ (State.wf_whenPut h (Out.wf_wait (State.wf_invalidate h)))
theorem nextWf_execCldw {d n : BitVec 4} {s : State} (h : s.memWf) : NextWf (execCldw d n s) := by
  unfold execCldw
  refine State.nextWf_finish h (State.wf_atLevels (State.wf_gate h ?_))
  split
  · exact Out.wf_next (State.memWf_writeG _ _ _ h)
  · exact Out.wf_ite (Out.wf_wait h) (Out.wf_next (State.memWf_writeG _ _ _ h))
theorem nextWf_execCldwW {a n : BitVec 4} {s : State} (h : s.memWf) : NextWf (execCldwW a n s) := by
  unfold execCldwW
  refine State.nextWf_finish h (State.wf_atLevels (State.wf_gate h ?_))
  split
  · exact Out.wf_next h
  · exact Out.wf_ite (Out.wf_next h) (Out.wf_ite (Out.wf_wait h) (Out.wf_next (State.memWf_modMe h fun _ hx => Core.wf_setAt hx)))
theorem nextWf_execChwr {d a : BitVec 4} {c : BitVec 6} {s : State} (h : s.memWf) : NextWf (execChwr d a c s) :=
  State.nextWf_finish h (State.wf_atLevels (State.wf_imageForm h fun _ => State.wf_readImage h fun _ hx1 _ => Out.wf_ite
    (Out.wf_next (State.memWf_writeG _ _ _ hx1)) (Out.wf_next (State.memWf_writeG _ _ _ (State.wf_regrant (State.wf_bindRing
      (State.memWf_modMe hx1 fun _
    hx2 => Core.wf_setChannel hx2)))))))
theorem State.wf_setBank {s : State} {b : ErrorBank} {a3 : BankAt} (h : s.memWf) : (s.setBank b a3).memWf := by
  unfold State.setBank
  split
  · exact State.memWf_modCore _ h fun _ hk => hk
  · exact State.wf_with h rfl
  · exact State.wf_modCluster h
  · exact State.wf_with h rfl
  · exact State.wf_with h rfl
  · exact h
theorem State.wf_bankForm {s : State} {d a : BitVec 4} {w : BitVec 2} {clear : Bool} (h : s.memWf) : (s.bankForm d a w clear).Wf := by
  unfold State.bankForm
  refine State.wf_atLevels (State.wf_gate h (Out.wf_ite State.wf_trapHere ?_))
  split
  · exact Out.wf_next (State.memWf_writeG _ _ _ h)
  · exact Out.wf_next (State.memWf_writeG _ _ _ (State.wf_setBank h))
theorem nextWf_execInj {d a : BitVec 4} {sel : BitVec 8} {s : State} (h : s.memWf) : NextWf (execInj d a sel s) :=
  State.nextWf_finish h (State.wf_atLevels (State.wf_gate h (Out.wf_ite (Out.wf_next (State.memWf_writeG _ _ _ h)) (Out.wf_next
    (State.memWf_writeG _ _ _ (State.memWf_modMe h fun _ hx => hx))))))

/-! ### The debug protocol (spec/23 R480-R488) -/

theorem State.wf_ikitik {s : State} {opc : Nat} {q : IkitikReq} {status : Nat} {payload : List Word} {len : Nat} (h : s.memWf) :
    (s.ikitik opc q status payload len).memWf := State.wf_respond h
theorem State.wf_serve {s : State} {opc enable : Nat} {q : IkitikReq} {body : State} (h : s.memWf) (hbody : body.memWf) :
    (s.serve opc enable q body).memWf := State.wf_ite (State.wf_ikitik h) hbody
theorem State.wf_modGangAt {s : State} {t : Nat × Nat} {f : Gang → Gang} (h : s.memWf) : (s.modGangAt t f).memWf :=
  State.memWf_modCore _ h fun _ hk => Core.wf_setAt hk
theorem State.wf_onGangs {s : State} {opc : Nat} {q : IkitikReq} {halted : Bool} {body : List (Nat × Nat) → State} (h : s.memWf)
  (hbody : ∀ x, (body x).memWf) :
    (s.onGangs opc q halted body).memWf := State.wf_ite (State.wf_ikitik h) (State.wf_ite (State.wf_ikitik h) (hbody _))
theorem State.wf_modGangsAt {s : State} {ts : List (Nat × Nat)} {f : Gang → Gang} (h : s.memWf) : (s.modGangsAt ts f).memWf :=
  State.wf_foldl h fun _ _ hx => State.wf_modGangAt hx
theorem nextWf_execIkitikHalt {q : IkitikReq} {s : State} (h : s.memWf) : NextWf (execIkitikHalt q s) :=
  nextWf_next (State.wf_serve h (State.wf_ite (State.wf_ikitik h) (State.wf_ikitik (State.wf_ite (State.wf_with (State.wf_foldl h
    fun _ _ hx => State.wf_modGangAt hx) rfl) (State.wf_foldl h fun _ _ hx => State.wf_modGangAt hx)))))
theorem nextWf_execIkitikResume {q : IkitikReq} {s : State} (h : s.memWf) : NextWf (execIkitikResume q s) :=
  nextWf_next (State.wf_serve h (State.wf_ite (State.wf_ikitik h) (State.wf_ikitik (State.wf_with (State.wf_foldl h fun _ _ hx =>
    State.wf_modGangAt hx) rfl))))
theorem nextWf_execSteplane {q : IkitikReq} {s : State} (h : s.memWf) : NextWf (execSteplane q s) :=
  nextWf_next (State.wf_serve h (State.wf_onGangs h fun _ => State.wf_ite (State.wf_ikitik h)
    (State.wf_ikitik (State.wf_modGangsAt h))))
theorem State.wf_debugRead {s : State} {a : Nat} (h : s.memWf) : (s.debugRead a).memWf := by
  unfold State.debugRead
  refine State.wf_ite h (State.wf_ite (State.wf_ite (State.wf_scanLocal (State.wf_wakeCore h)) h) ?_)
  split
  · exact State.wf_meetGlobal h
  · exact h
theorem nextWf_execReadmem {q : IkitikReq} {s : State} (h : s.memWf) : NextWf (execReadmem q s) :=
  nextWf_next (State.wf_serve h (State.wf_ite (State.wf_ikitik h) (State.wf_ite (State.wf_ikitik (State.wf_foldl h fun _ _ hx =>
    State.wf_debugRead hx)) (State.wf_ikitik (State.wf_foldl h fun _ _ hx => State.wf_debugRead hx)))))
theorem nextWf_execWritereg {q : IkitikReq} {s : State} (h : s.memWf) : NextWf (execWritereg q s) :=
  nextWf_next (State.wf_serve h (State.wf_onGangs h fun _ => State.wf_ite (State.wf_ikitik h) (State.wf_ite (State.wf_ikitik h)
    (State.wf_ite (State.wf_ikitik h) (State.wf_ikitik (State.wf_modGangsAt h))))))
theorem nextWf_execDebug {q : IkitikReq} {s : State} (h : s.memWf) : NextWf (execDebug q s) := by
  unfold execDebug
  dsimp only
  split
  · exact nextWf_next (State.wf_push h)
  · exact nextWf_next (State.wf_push h)
  · exact nextWf_next (State.wf_push h)
  · exact nextWf_next (State.wf_push h)
  · exact nextWf_next (State.wf_push h)
  · exact nextWf_next (State.wf_push h)
  · exact nextWf_next (State.wf_push h)
  · exact nextWf_next (State.wf_push h)
  · exact nextWf_next (State.wf_push h)
  · exact nextWf_next (State.wf_push h)
  · exact nextWf_next (State.wf_push h)
  · exact nextWf_next (State.wf_ikitik h)

/-! ### Packets between their ends (spec/17 R386-R406) -/

theorem State.wf_routeAll {s : State} (h : s.memWf) : s.routeAll.memWf := State.wf_ite h (State.wf_with h rfl)
theorem State.wf_leavesPort {s : State} {p : Packet} (h : s.memWf) : (s.leavesPort p).memWf := by
  unfold State.leavesPort
  split
  · exact h
  · exact State.wf_setPort h
theorem State.wf_cross {s : State} {p : Packet} (h : s.memWf) : (s.cross p).memWf := by
  unfold State.cross
  split
  · exact State.wf_sendFlits (State.wf_with (State.wf_setPort (State.wf_leavesPort h)) rfl)
  · exact h
theorem State.wf_reach {s : State} {p : Packet} (h : s.memWf) : (s.reach p).memWf := h

/-! ### Block-scaled lane instructions (spec/09 R220-R224) -/

theorem State.wf_blockGate {s : State} {g : BitVec 3} {uses all : List Nat} {f : Lane → Lane} (h : s.memWf) :
    (s.blockGate g uses all f).Wf := State.wf_laneGate h (Out.wf_next (State.memWf_modGang _ h))
theorem State.wf_blockOp {s : State} {g : BitVec 3} {m : BitVec 2} {d : BitVec 3} {f : BitVec 2} {srcs : List (BitVec 3)} {extra :
  List Nat} {v : Lane → Nat → List Num} (h : s.memWf) :
    (s.blockOp g m d f srcs extra v).Wf := State.wf_blockGate h
theorem State.wf_blockOp2 {s : State} {g : BitVec 3} {m : BitVec 2} {d : BitVec 3} {f : BitVec 2} {a b : BitVec 3} {op : Num → Num
  → Num} (h : s.memWf) :
    (s.blockOp2 g m d f a b op).Wf := State.wf_blockOp h

/-! ### The matrix unit (spec/11 R275-R290) -/

theorem State.wf_setFormatCtx {s : State} {c : Nat} {x : FormatCtx} (h : s.memWf) : (s.setFormatCtx c x).memWf := h
theorem State.wf_busyRings {s : State} {c : Nat} {e : MatrixEntry} {f : Nat → Nat} (h : s.memWf) : (s.busyRings c e f).memWf :=
  State.wf_foldl h fun _ _ hx => State.memWf_modCore _ hx fun _ hk => Core.wf_setRing hk
theorem State.wf_owePending {s : State} {c : Nat} {e : MatrixEntry} {f : Nat → Nat} (h : s.memWf) : (s.owePending c e f).memWf :=
  State.wf_ite (State.wf_foldl h fun _ _ hx => State.wf_setPending hx) h
theorem State.wf_pushMatrix {s : State} {c : Nat} {e : MatrixEntry} (h : s.memWf) : (s.pushMatrix c e).memWf :=
  State.wf_fresh (State.wf_owePending (State.wf_busyRings (State.memWf_modCore _ h fun _ hx => hx)))
theorem State.wf_submit {s : State} {e : MatrixEntry} {bad : Option Nat} (h : s.memWf) : (s.submit e bad).Wf := by
  unfold State.submit
  split
  · exact State.wf_badCommand
  · exact Out.wf_ite State.wf_objectTrap (State.wf_accept h (Out.wf_ite (Out.wf_wait h) (Out.wf_next (State.wf_pushMatrix h))))
theorem State.wf_commandForm {s : State} {a : BitVec 4} {gang : Bool} (h : s.memWf) : (s.commandForm a gang).Wf :=
  State.wf_imageForm h fun _ => State.wf_readImage h fun _ hx1 _ => Out.wf_ite (State.wf_whenPut hx1 (State.wf_submit hx1))
    (State.wf_submit hx1)
theorem nextWf_execMdrain {a b : BitVec 4} {o t c : BitVec 3} {s : State} (h : s.memWf) : NextWf (execMdrain a b o t c s) :=
  State.nextWf_finish h (State.wf_gate h (Out.wf_ite (Out.wf_wait h) (Out.wf_ite State.wf_badCommand (State.wf_submit h))))
theorem nextWf_execMatrixWindowPush {core slot : Nat} {v : Word} {p : WindowPush} {s : State} (h : s.memWf) :
    NextWf (execMatrixWindowPush core slot v p s) := by
  unfold execMatrixWindowPush
  extract_lets k x s1 e reject
  have hs1 : s1.memWf := State.wf_ite h (State.memWf_modCore _ h fun _ hx1 => hx1)
  have hreject : ∀ x, (reject x).memWf := fun _ => State.wf_ackWindow (State.memWf_modCore _ hs1 fun _ hx2 => hx2)
  refine nextWf_next (State.memWf_wake (State.wf_ite (hreject _) ?_))
  split
  · exact hreject _
  · exact State.wf_ite (hreject _) (State.wf_ite (State.wf_push hs1) (State.wf_ackWindow (State.wf_pushMatrix hs1)))
theorem Core.wf_modMatrix {k : Core} {f : MatrixEntry → MatrixEntry} (h : k.mem.wf) : (k.modMatrix f).mem.wf := h
theorem State.wf_setMprog {s : State} {cs : List Nat} {n : Nat} (h : s.memWf) : (s.setMprog cs n).memWf :=
  State.wf_foldl h fun _ _ hx => State.memWf_modCore _ hx fun _ hk => hk
theorem State.wf_giveBack {s : State} {c : Nat} {e : MatrixEntry} (h : s.memWf) : (s.giveBack c e).memWf :=
  State.wf_ite (State.wf_foldl (State.wf_ite (State.wf_busyRings h) (State.wf_owePending (State.wf_busyRings h))) fun _ _ hx =>
    State.memWf_modCore _ hx fun _ hx1 => hx1) (State.wf_ite (State.wf_busyRings h) (State.wf_owePending (State.wf_busyRings h)))
theorem State.wf_popMatrix {s : State} {c : Nat} (h : s.memWf) : (s.popMatrix c).memWf :=
  State.memWf_wake (State.memWf_modCore _ h fun _ hk => hk)
theorem nextWf_execMresume {s : State} (h : s.memWf) : NextWf (execMresume s) := by
  unfold execMresume
  with_reducible refine State.nextWf_finish h ?_
  split
  · with_reducible exact Out.wf_next h
  · with_reducible exact Out.wf_ite (Out.wf_next h) (Out.wf_ite State.wf_badCommand (Out.wf_next (State.memWf_modMe h fun _ hx =>
                     Core.wf_modMatrix hx)))
theorem nextWf_execMresumeAbort {s : State} (h : s.memWf) : NextWf (execMresumeAbort s) := by
  unfold execMresumeAbort
  refine State.nextWf_finish h ?_
  split
  · exact Out.wf_next h
  · exact Out.wf_ite (Out.wf_next h) (Out.wf_next (State.wf_popMatrix (State.wf_giveBack h)))
theorem State.wf_startMatrix {s : State} {c : Nat} (h : s.memWf) : (s.startMatrix c).memWf := by
  unfold State.startMatrix
  split
  · exact h
  · extract_lets ps t t1 t2
    have ht : t.memWf := State.memWf_modCore _ h fun _ hk => Core.wf_modMatrix hk
    have ht1 : t1.memWf := State.wf_ite ht (State.wf_setMprog ht)
    have ht2 : t2.memWf := State.wf_ite (State.wf_foldl ht1 fun _ _ hx => State.memWf_modCore _ hx fun _ hk => hk) ht1
    exact State.wf_ite (State.wf_modCluster ht2) ht2
theorem nextWf_execMatrixArbitration {cluster : Nat} {s : State} (h : s.memWf) : NextWf (execMatrixArbitration cluster s) := by
  unfold execMatrixArbitration
  refine nextWf_next (State.wf_ite h ?_)
  dsimp only
  split
  · exact State.wf_modCluster (State.wf_foldl h fun _ _ hx => State.wf_startMatrix hx)
  · exact State.wf_foldl h fun _ _ hx => State.wf_startMatrix hx
theorem State.wf_endTurn {s : State} {n : Nat} {turn : Turn} (h : s.memWf) : (s.endTurn n turn).memWf := h
theorem State.wf_stopMatrix {s : State} {c : Nat} {stop : Nat × Nat × Word} (h : s.memWf) : (s.stopMatrix c stop).memWf :=
  State.memWf_wake (State.memWf_modCore _ h fun _ hk => hk)
theorem State.wf_readUnit {s : State} {c : Nat} {m : TMap} {a : Word} (h : s.memWf) : (s.readUnit c m a).1.memWf := by
  unfold State.readUnit
  split
  · exact State.wf_engineFills h
  · exact State.wf_fst_ite (State.wf_engineRead h) (State.wf_engineRead h)
theorem State.wf_readUnits {s : State} {c : Nat} {m : TMap} {as : List Word} (h : s.memWf) : (s.readUnits c m as).1.memWf := by
  induction as generalizing s with
  | nil => exact h
  | cons a as ih =>
    have ht : (s.readUnit c m a).1.memWf := State.wf_readUnit h
    rw [State.readUnits]
    split
    · rename_i t e heq
      exact State.wf_of_fst_eq heq ht
    · rename_i t v heq
      rw [heq] at ht
      have hu : (t.readUnits c m as).1.memWf := ih ht
      split
      · rename_i u vs heq2
        exact State.wf_of_fst_eq heq2 hu
      · rename_i u e heq2
        exact State.wf_of_fst_eq heq2 hu
theorem State.wf_readLines {s : State} {c : Nat} {m : TMap} {ls : List (List Word)} (h : s.memWf) : (s.readLines c m ls).1.memWf := by
  induction ls generalizing s with
  | nil => exact h
  | cons l ls ih =>
    have ht : ((s.chargeRead c m.own (l.headD 0) (l.length * m.unit)).readUnits c m l).1.memWf := State.wf_readUnits
      (State.wf_chargeRead h)
    rw [State.readLines]
    split
    · rename_i t e heq
      exact State.wf_of_fst_eq heq ht
    · rename_i t v heq
      rw [heq] at ht
      have hu : (t.readLines c m ls).1.memWf := ih ht
      split
      · rename_i u vs heq2
        exact State.wf_of_fst_eq heq2 hu
      · rename_i u e heq2
        exact State.wf_of_fst_eq heq2 hu
theorem State.wf_readTile {s : State} {c ring fmt n : Nat} (h : s.memWf) : (s.readTile c ring fmt n).1.memWf := by
  unfold State.readTile
  dsimp only
  split <;> exact State.wf_scanLocal h
theorem State.wf_readA {s : State} {c tc : Nat} {e : MatrixEntry} {k : Nat} (h : s.memWf) : (s.readA c tc e k).1.memWf :=
  State.wf_fst_ite (State.wf_readLines h) (State.wf_readTile h)
theorem State.wf_readB {s : State} {c : Nat} {e : MatrixEntry} {k : Nat} (h : s.memWf) : (s.readB c e k).1.memWf :=
  State.wf_fst_ite (State.wf_readLines h) (State.wf_readTile h)
theorem State.wf_readBands {s : State} {c : Nat} {e : MatrixEntry} {k : Nat} {ps : List (Nat × Nat)} (h : s.memWf) :
    (s.readBands c e k ps).1.memWf := by
  induction ps generalizing s with
  | nil => exact h
  | cons p ps ih =>
    have ht : (s.readA c p.1 e k).1.memWf := State.wf_readA h
    rw [State.readBands]
    split
    · rename_i t x heq
      exact State.wf_of_fst_eq heq ht
    · rename_i t v heq
      have hu : (t.readBands c e k ps).1.memWf := ih (State.wf_of_fst_eq heq ht)
      split
      · rename_i u vs heq2
        exact State.wf_of_fst_eq heq2 hu
      · rename_i u x heq2
        exact State.wf_of_fst_eq heq2 hu
theorem State.wf_updateBand {s : State} {tc tile : Nat} {e : MatrixEntry} {k : Nat} {as bs : List (List Num)} (h : s.memWf) :
    (s.updateBand tc tile e k as bs).memWf := h
theorem nextWf_execMatrixKStep {cluster : Nat} {s : State} (h : s.memWf) : NextWf (execMatrixKStep cluster s) := by
  unfold execMatrixKStep
  refine nextWf_next ?_
  split
  · split
    · exact State.wf_endTurn h
    · dsimp only
      split
      · rename_i t _ heq
        have ht : t.memWf := State.wf_of_fst_eq heq (State.wf_readBands h)
        exact State.wf_endTurn (State.wf_stopMatrix ht)
      · rename_i t _ heq
        have ht : t.memWf := State.wf_of_fst_eq heq (State.wf_readBands h)
        split
        · rename_i t1 _ heq1
          have ht1 : t1.memWf := State.wf_of_fst_eq heq1 (State.wf_readB ht)
          exact State.wf_endTurn (State.wf_stopMatrix ht1)
        · rename_i t1 _ heq1
          have ht1 : t1.memWf := State.wf_of_fst_eq heq1 (State.wf_readB ht)
          exact State.memWf_wake (State.wf_endTurn (State.wf_setMprog (State.wf_foldl (State.wf_foldl ht1 fun _ _ hx =>
            State.wf_updateBand hx) fun _ _ hx => State.memWf_modCore _ hx fun _ hx1 => Core.wf_setRing hx1)))
  · exact h
theorem State.wf_drainFills {s : State} {c : Nat} {m : TMap} {off : Word} {units : List (Nat × Nat × List Byte × Bool)} (h : s.memWf) :
    (s.drainFills c m off units).memWf :=
  State.wf_ite (State.wf_foldl (State.wf_foldl h fun _ _ hx => State.wf_engineFills hx) fun _ _ hx => State.wf_engineFills hx)
    (State.wf_foldl h fun _ _ hx => State.wf_engineFills hx)
theorem State.wf_drainChunk {s : State} {c : Nat} {m : TMap} {off : Word} {chunk : Nat} {units : List (Nat × Nat × List Byte ×
  Bool)} {suspect : Bool} (h : s.memWf) :
    (s.drainChunk c m off chunk units suspect).1.memWf := by
  unfold State.drainChunk
  refine State.wf_ite ?_ ?_
  · refine State.wf_flipOut (State.wf_fst_foldl h ?_)
    intro _ _ hx
    split
    · exact hx
    · exact State.wf_engineRead hx
  · refine State.wf_writeChunk (State.wf_flipOut (State.wf_fst_foldl h ?_))
    intro _ _ hx
    split
    · exact hx
    · exact State.wf_engineRead hx
theorem State.wf_drainChunks {s : State} {c : Nat} {m : TMap} {off : Word} {units : List (Nat × Nat × List Byte × Bool)}
    {marked ks : List Nat} (h : s.memWf) : (s.drainChunks c m off units marked ks).1.memWf := by
  induction ks generalizing s with
  | nil => exact h
  | cons k ks ih => exact ih (State.wf_drainChunk h)
theorem nextWf_execMatrixDrain {cluster : Nat} {s : State} (h : s.memWf) : NextWf (execMatrixDrain cluster s) := by
  unfold execMatrixDrain
  refine nextWf_next ?_
  split
  · split
    · exact State.wf_endTurn h
    · dsimp only
      split
      · exact State.wf_endTurn (State.wf_stopMatrix (State.wf_drainFills h))
      · exact State.memWf_wake (State.wf_endTurn (State.memWf_modCore _ (State.wf_owePending (State.wf_foldl (State.wf_sendRecords
          (State.wf_fst_ite (State.wf_drainChunks h) (State.wf_foldl h fun _ _ hx => State.wf_performWrites (State.wf_engineFills
          hx)))) fun _ _ hx => State.wf_sendRecords hx)) fun _ hx => Core.wf_modMatrix hx))
  · exact h
theorem nextWf_execMatrixSetContext {cluster : Nat} {s : State} (h : s.memWf) : NextWf (execMatrixSetContext cluster s) := by
  unfold execMatrixSetContext
  refine nextWf_next ?_
  split
  · split
    · exact State.wf_endTurn h
    · exact State.wf_endTurn (State.wf_popMatrix (State.wf_setFormatCtx h))
  · exact h
theorem nextWf_execMatrixFence {cluster : Nat} {s : State} (h : s.memWf) : NextWf (execMatrixFence cluster s) := by
  unfold execMatrixFence
  refine nextWf_next ?_
  split
  · exact State.wf_endTurn (State.wf_popMatrix h)
  · exact h
theorem nextWf_execMatrixCompletion {cluster : Nat} {s : State} (h : s.memWf) : NextWf (execMatrixCompletion cluster s) := by
  unfold execMatrixCompletion
  refine nextWf_next ?_
  split
  · split
    · exact State.wf_endTurn h
    · exact State.wf_endTurn (State.wf_popMatrix (State.wf_ite (State.wf_foldl (State.wf_giveBack (State.wf_foldl h fun _ _ hx =>
        State.wf_setFormatCtx hx)) fun _ _ hx => State.wf_arriveBarrier hx) (State.wf_giveBack (State.wf_foldl h fun _ _ hx =>
        State.wf_setFormatCtx hx))))
  · exact h

/-! ### What may happen next, and the passing of a cycle (spec/16 R373) -/

theorem State.wf_notCounted {s : State} {e : Instr} (h : s.memWf) : (s.notCounted e).memWf := by
  unfold State.notCounted
  split
  · exact State.memWf_modCore _ h fun _ hk => Core.wf_setBarrier hk
  · exact h
theorem State.wf_loseMessage {s : State} {p : Packet} (h : s.memWf) : SomeWf (fun r => r.memWf) (s.loseMessage p) := by
  unfold State.loseMessage
  split
  · exact someWf_some (State.wf_dropCopyOf h)
  · exact someWf_some (State.wf_discardMsg h)
  · exact someWf_some (State.wf_discardMsg h)
  · split
    · exact someWf_some (State.wf_push h)
    · exact someWf_some (State.wf_discardMsg h)
  · exact someWf_some (State.wf_recordRefused h)
  · exact someWf_some (State.wf_recordRefused h)
  · exact someWf_some (State.wf_recordRefused h)
  · exact someWf_some (State.wf_recordRefused h)
  · exact someWf_none
theorem State.wf_looked {s : State} (h : s.memWf) : s.looked.memWf := State.wf_ite h (State.wf_findUpsets h)
theorem State.wf_choose {s : State} {c slot : Nat} (h : s.memWf) : (s.choose c slot).memWf :=
  State.wf_looked (State.memWf_modMe (State.wf_with h rfl) fun _ hk => hk)
theorem State.wf_atLevelZero {s : State} (h : s.memWf) : s.atLevelZero.memWf := State.memWf_modMe h fun _ hk => hk
theorem State.wf_levelBack {s : State} {c : Nat} {before : Core} (h : s.memWf) : (s.levelBack c before).memWf :=
  State.memWf_modCore _ h fun _ hk => hk
theorem State.wf_beforeOwn {s : State} {a2 : Instr} (h : s.memWf) : (s.beforeOwn a2).memWf := by
  unfold State.beforeOwn
  split
  · exact State.wf_ite h (State.wf_findUpsets h)
  · exact State.wf_ite h (State.wf_findUpsets h)
  · exact h
theorem Core.wf_older {k before : Core} (h : k.mem.wf) : (k.older before).mem.wf := Core.wf_ite h h
theorem Core.wf_stalls {k before : Core} (h : k.mem.wf) : (k.stalls before).mem.wf := Core.wf_ite h (Core.wf_ite h h)
theorem State.wf_settleHalts {s : State} {c : Nat} (h : s.memWf) : (s.settleHalts c).memWf :=
  State.wf_ite (State.wf_closeFirst h) (State.wf_foldl h fun _ _ hx => State.memWf_modCore _ (State.wf_ite (State.wf_tellGang
    (State.wf_abandon hx)) (State.wf_tellHalt (State.wf_abandon hx))) fun _ hk => Core.wf_setAt hk)
theorem Core.wf_settleFences {k : Core} (h : k.mem.wf) : k.settleFences.mem.wf := Core.wf_ite h h
theorem Core.wf_settleQuiet {k before : Core} {clock : Nat} (h : k.mem.wf) : (k.settleQuiet before clock).mem.wf := Core.wf_ite h h
theorem State.wf_coreTick {s before : State} {c : Nat} (h : s.memWf) : (s.coreTick before c).memWf := by
  unfold State.coreTick
  extract_lets t t1
  have ht : t.memWf := State.memWf_modCore _ (State.wf_settleHalts h) fun _ hk => Core.wf_settleQuiet (Core.wf_settlePair
    (Core.wf_stalls (Core.wf_older (Core.wf_settleFences hk))))
  have ht1 : t1.memWf := State.wf_ite (State.wf_closeFirst ht) ht
  exact State.wf_tellFollower (State.memWf_modCore _ ht1 fun _ hk => hk)
theorem State.wf_noteReleases {s : State} (h : s.memWf) : s.noteReleases.memWf :=
  State.wf_ite h (State.wf_ite h (State.wf_with h rfl))
theorem State.wf_strike {s : State} {a : ArrayRef} {addr : Nat} {ue : Bool} (h : s.memWf) : (s.strike a addr ue).memWf := by
  unfold State.strike
  split
  · exact State.wf_ite h (State.memWf_modCore _ h fun _ hk => hk)
  · exact State.wf_with h rfl
theorem State.wf_struck {s : State} (h : s.memWf) : s.struck.memWf := by
  unfold State.struck
  refine State.wf_ite h ?_
  dsimp only
  split
  · exact State.wf_ite (State.wf_strike h) (State.wf_strikeFollower h)
  · exact State.wf_strike h
theorem State.wf_settleNotices {s : State} {clock : Nat} (h : s.memWf) : (s.settleNotices clock).memWf :=
  State.wf_ite h (State.wf_with h rfl)
theorem State.wf_tick {s before : State} (h : s.memWf) : (s.tick before).memWf :=
  State.wf_with (State.wf_sendEventsOf (State.wf_scrubRound (State.wf_settleSlices (State.wf_settleNotices (State.wf_struck
    (State.wf_routeAll (State.wf_askAll (State.wf_noteReleases (State.wf_settleHeads (State.wf_foldl h fun _ _ hx =>
    State.wf_coreTick hx)))))))))) rfl

/-! ### Change queues (spec/20 R444-R454) -/

theorem State.wf_localImage8 {s : State} {v : Word} {n : Nat} {body : Out} (hbody : body.Wf) : (s.localImage8 v n body).Wf :=
  Out.wf_ite State.wf_addrTrap (Out.wf_ite State.wf_addrTrap hbody)
theorem State.wf_sendChange {s : State} {d : BitVec 4} {op : MemOp} (h : s.memWf) : (s.sendChange d op).Wf :=
  Out.wf_ite (Out.wf_next (State.wf_sendLoad (State.wf_pendG h))) (Out.wf_wait h)
theorem nextWf_execDqput {d a b : BitVec 4} {c : BitVec 1} {s : State} (h : s.memWf) : NextWf (execDqput d a b c s) := by
  unfold execDqput
  with_reducible exact State.nextWf_finish h (State.wf_gateAddr h (Out.wf_ite (Out.wf_wait h) (State.wf_checkChannel
    (State.wf_localImage8 (State.wf_onImage (State.wf_checked h fun _ => Out.wf_ite (Out.wf_next (State.memWf_writeG _ _ _
      (State.wf_scanLocal h))) (Out.wf_ite (Out.wf_wait h) (State.wf_sendChange (State.wf_scanLocal h)))))))))
theorem State.wf_arrangeLocal {s : State} {d : BitVec 4} {va : Word} {kind : Nat} {r : ChangeRec} (h : s.memWf) :
    (s.arrangeLocal d va kind r).Wf := by
  unfold State.arrangeLocal
  refine Out.wf_ite State.wf_addrTrap (State.wf_onImage ?_)
  dsimp only
  split
  · exact Out.wf_next (State.memWf_writeG _ _ _ (State.wf_scanLocal h))
  · exact Out.wf_ite State.wf_addrTrap (Out.wf_ite (Out.wf_wait (State.wf_scanLocal h)) (Out.wf_ite Out.wf_trap (Out.wf_next
      (State.memWf_writeG _ _ _ (State.memWf_modMe (State.wf_scanEntries (State.wf_scanLocal h)) fun _ _ => Memory.wf_arrange _ _ _
      _ (State.me_wf (State.wf_scanEntries (State.wf_scanLocal h))))))))
theorem State.wf_arrangeSlice {s : State} {d : BitVec 4} {va : Word} {kind : Nat} {r : ChangeRec} (h : s.memWf) :
    (s.arrangeSlice d va kind r).Wf := by
  unfold State.arrangeSlice
  refine State.wf_checked h ?_
  intro _
  refine Out.wf_ite (Out.wf_wait (State.memWf_closing h)) ?_
  split
  · exact Out.wf_ite (Out.wf_ite (State.wf_sendChange h) (Out.wf_wait h)) State.wf_addrTrap
  · exact Out.wf_ite (State.wf_sendChange h) (Out.wf_wait h)
theorem State.wf_arrangeForm {s : State} {d a b : BitVec 4} {slice : Bool} {kind : Nat} (h : s.memWf) :
    (s.arrangeForm d a b slice kind).Wf := by
  unfold State.arrangeForm
  exact State.wf_gateAddr h (Out.wf_ite Out.wf_trap (Out.wf_ite (Out.wf_wait h) (Out.wf_ite State.wf_addrTrap (Out.wf_ite
    State.wf_addrTrap (State.wf_localImage8 (State.wf_onImage (Out.wf_ite (State.wf_arrangeSlice (State.wf_scanLocal h))
    (State.wf_arrangeLocal (State.wf_scanLocal h)))))))))
theorem State.wf_waveForm {s : State} {d a b : BitVec 4} {body : Chk → BitVec 32 → Out} (h : s.memWf) (hbody : ∀ x y, (body x
  y).Wf) :
    (s.waveForm d a b body).Wf :=
  State.wf_gateAddr h (Out.wf_ite (Out.wf_wait h) (State.wf_checked h fun _ => Out.wf_ite (Out.wf_wait h) (hbody _ _)))
theorem nextWf_execDxseal {d a b : BitVec 4} {s : State} (h : s.memWf) : NextWf (execDxseal d a b s) :=
  State.nextWf_finish h (State.wf_waveForm h fun _ _ => State.wf_whenReleased h (Out.wf_ite
    (State.wf_sendChange h) (Out.wf_wait h)))
theorem nextWf_execDxquiet {d a b : BitVec 4} {s : State} (h : s.memWf) : NextWf (execDxquiet d a b s) :=
  State.nextWf_finish h (State.wf_twoPart h (fun _ _ => Out.wf_next (State.memWf_writeG _ _ _ h)) (State.wf_waveForm h fun _ _ =>
    State.wf_askPhase h))
theorem nextWf_execDxquietnb {d a b : BitVec 4} {s : State} (h : s.memWf) : NextWf (execDxquietnb d a b s) :=
  State.nextWf_finish h (State.wf_waveForm h fun _ _ => State.wf_withEntry h (Out.wf_next (State.wf_sendLoad (State.wf_acquires
    (State.wf_pendG h)))))

/-! ### Lane floating point (spec/09 R213-R219) -/

theorem State.wf_laneRound {s : State} {p : BitVec 3} {mode : Mode} {n : Nat} {d : BitVec 6} {srcs : List (BitVec 6)} {f : (Nat →
  Nat) → Lane → Word} (h : s.memWf) :
    (s.laneRound p mode n d srcs f).Wf := State.wf_laneGate h (Out.wf_next (State.memWf_modGang _ h))
theorem State.wf_floatOp {s : State} {g : BitVec 3} {m : BitVec 2} {f : Fmt} {d : BitVec 6} {srcs : List (BitVec 6)} {v : Lane →
  Nat → Num} (h : s.memWf) :
    (s.floatOp g m f d srcs v).Wf := by
  unfold State.floatOp
  exact State.wf_laneRound h
theorem State.wf_floatAdd {s : State} {f : Fmt} {g : BitVec 3} {m : BitVec 2} {d a b : BitVec 6} (h : s.memWf) :
    (s.floatAdd f g m d a b).Wf := State.wf_floatOp h
theorem State.wf_floatSub {s : State} {f : Fmt} {g : BitVec 3} {m : BitVec 2} {d a b : BitVec 6} (h : s.memWf) :
    (s.floatSub f g m d a b).Wf := State.wf_floatOp h
theorem State.wf_floatMul {s : State} {f : Fmt} {g : BitVec 3} {m : BitVec 2} {d a b : BitVec 6} (h : s.memWf) :
    (s.floatMul f g m d a b).Wf := State.wf_floatOp h
theorem State.wf_floatFma {s : State} {f : Fmt} {g : BitVec 3} {m : BitVec 2} {d a b : BitVec 6} (h : s.memWf) :
    (s.floatFma f g m d a b).Wf := State.wf_floatOp h
theorem nextWf_execVfaddF32 {g : BitVec 3} {m : BitVec 2} {d a b : BitVec 6} {s : State} (h : s.memWf) :
    NextWf (execVfaddF32 g m d a b s) := State.nextWf_finish h (State.wf_floatAdd h)
theorem nextWf_execVfmulF32 {g : BitVec 3} {m : BitVec 2} {d a b : BitVec 6} {s : State} (h : s.memWf) :
    NextWf (execVfmulF32 g m d a b s) := State.nextWf_finish h (State.wf_floatMul h)
theorem nextWf_execVfmaF32 {g : BitVec 3} {m : BitVec 2} {d a b : BitVec 6} {s : State} (h : s.memWf) :
    NextWf (execVfmaF32 g m d a b s) := State.nextWf_finish h (State.wf_floatFma h)
theorem State.wf_floatMap {s : State} {g : BitVec 3} {m : BitVec 2} {d a b : BitVec 6} {v : Fmt → Nat → Nat → Nat} (h : s.memWf) :
    (s.floatMap g m d a b v).Wf := State.wf_laneOp h
theorem State.wf_floatEach {s : State} {g : BitVec 3} {m : BitVec 2} {d a : BitVec 6} {v : Fmt → Nat → Nat} (h : s.memWf) :
    (s.floatEach g m d a v).Wf := State.wf_laneOp h
theorem State.wf_floatCompare {s : State} {g : BitVec 3} {m : BitVec 2} {d a b : BitVec 6} {rel : Ordering → Bool} (h : s.memWf) :
    (s.floatCompare g m d a b rel).Wf := State.wf_lanePred h
theorem State.wf_convert {s : State} {g : BitVec 3} {mode : Mode} {d a : BitVec 6} {t c : BitVec 3} (h : s.memWf) :
    (s.convert g mode d a t c).Wf := by
  unfold State.convert
  exact State.wf_laneRound h
theorem State.wf_dotFloat {s : State} {g : BitVec 3} {m : BitVec 2} {f : Fmt} {d a b : BitVec 6} (h : s.memWf) :
    (s.dotFloat g m f d a b).Wf := by
  unfold State.dotFloat
  exact State.wf_laneRound h

/-! ### Lane integer instructions (spec/09 R208-R212) -/

theorem State.wf_packedOp {s : State} {g : BitVec 3} {m : BitVec 2} {d a b : BitVec 6} {f : (w : Nat) → BitVec w → BitVec w →
  BitVec w} (h : s.memWf) :
    (s.packedOp g m d a b f).Wf := State.wf_laneOp h
theorem nextWf_execVadd {g : BitVec 3} {m : BitVec 2} {d a b : BitVec 6} {s : State} (h : s.memWf) : NextWf (execVadd g m d a b s) :=
  State.nextWf_finish h (State.wf_packedOp h)
theorem nextWf_execVsub {g : BitVec 3} {m : BitVec 2} {d a b : BitVec 6} {s : State} (h : s.memWf) : NextWf (execVsub g m d a b s) :=
  State.nextWf_finish h (State.wf_packedOp h)
theorem nextWf_execVmul {g : BitVec 3} {m : BitVec 2} {d a b : BitVec 6} {s : State} (h : s.memWf) : NextWf (execVmul g m d a b s) :=
  State.nextWf_finish h (State.wf_packedOp h)
theorem State.wf_wholeOp {s : State} {g : BitVec 3} {d a b : BitVec 6} {f : Word → Word → Word} (h : s.memWf) :
    (s.wholeOp g d a b f).Wf := State.wf_laneOp h
theorem nextWf_execVand {g : BitVec 3} {d a b : BitVec 6} {s : State} (h : s.memWf) : NextWf (execVand g d a b s) :=
  State.nextWf_finish h (State.wf_wholeOp h)
theorem nextWf_execVor {g : BitVec 3} {d a b : BitVec 6} {s : State} (h : s.memWf) : NextWf (execVor g d a b s) :=
  State.nextWf_finish h (State.wf_wholeOp h)
theorem nextWf_execVxor {g : BitVec 3} {d a b : BitVec 6} {s : State} (h : s.memWf) : NextWf (execVxor g d a b s) :=
  State.nextWf_finish h (State.wf_wholeOp h)
theorem State.wf_packedCompare {s : State} {g : BitVec 3} {m : BitVec 2} {d a b : BitVec 6} {f : (w : Nat) → BitVec w → BitVec w →
  Bool} (h : s.memWf) :
    (s.packedCompare g m d a b f).Wf := State.wf_lanePred h
theorem nextWf_execVcmpeq {g : BitVec 3} {m : BitVec 2} {d a b : BitVec 6} {s : State} (h : s.memWf) :
    NextWf (execVcmpeq g m d a b s) := State.nextWf_finish h (State.wf_packedCompare h)
theorem State.wf_packedCount {s : State} {g : BitVec 3} {m : BitVec 2} {d a : BitVec 6} {f : (w : Nat) → BitVec w → Nat} (h : s.memWf) :
    (s.packedCount g m d a f).Wf := State.wf_laneOp h
theorem nextWf_execVmov {g : BitVec 3} {d a : BitVec 6} {s : State} (h : s.memWf) : NextWf (execVmov g d a s) :=
  State.nextWf_finish h (State.wf_laneGate h (Out.wf_next (State.memWf_modGang _ h)))
theorem nextWf_execVbcast {g : BitVec 3} {d a : BitVec 6} {s : State} (h : s.memWf) : NextWf (execVbcast g d a s) := by
  unfold execVbcast
  refine State.nextWf_finish h ?_
  split
  · exact State.wf_laneGate h (Out.wf_next h)
  · exact Out.wf_ite (Out.wf_wait h) (State.wf_laneGate h (Out.wf_next (State.memWf_modGang _ h)))

/-! ### Compact instructions (spec/03 R88) -/

/-! ### Lane memory and streams (spec/10 R225-R235) -/

theorem State.wf_laneAddrs {s : State} {x : LaneAcc} {body : Out} (h : s.memWf) (hbody : body.Wf) : (s.laneAddrs x body).Wf := by
  unfold State.laneAddrs
  refine State.wf_laneGate h ?_
  split
  · exact hbody
  · exact Out.wf_trap
theorem State.wf_laneLocal {s : State} {x : LaneAcc} {body : List Nat → Out} (h : s.memWf) (hbody : ∀ x, (body x).Wf) :
    (s.laneLocal x body).Wf := by
  unfold State.laneLocal
  refine State.wf_laneAddrs h (Out.wf_ite (Out.wf_wait h) ?_)
  split
  · exact Out.wf_trap
  · exact hbody _
theorem State.wf_laneLoadLocal {s : State} {x : LaneAcc} {i : Nat} (h : s.memWf) : (s.laneLoadLocal x i).memWf :=
  State.memWf_modGang _ (State.wf_scanLocal h)
theorem State.wf_laneLdl {s : State} {x : LaneAcc} (h : s.memWf) : (s.laneLdl x).Wf :=
  State.wf_laneLocal h fun _ => Out.wf_next (State.wf_foldl h fun _ _ hx2 => State.wf_laneLoadLocal hx2)
theorem State.wf_laneStl {s : State} {x : LaneAcc} (h : s.memWf) : (s.laneStl x).Wf :=
  State.wf_laneLocal h fun _ => Out.wf_ite (Out.wf_wait h) (Out.wf_next (State.wf_foldl h fun _ _ hx2 => State.wf_storeLocal hx2))
theorem State.wf_laneAccess {s : State} {x : LaneAcc} {body : List Nat → Out} {perform : State → List Placed1 → List Nat → Out}
    (h : s.memWf) (hbody : ∀ is, (body is).Wf) (hperform : ∀ t ps is, t.memWf → (perform t ps is).Wf) :
    (s.laneAccess x body perform).Wf := by
  refine State.wf_laneAddrs h (Out.wf_ite (Out.wf_wait h) (Out.wf_ite (Out.wf_wait (State.wf_askWalks h)) ?_))
  split
  · exact Out.wf_trap
  · refine Out.wf_ite (Out.wf_wait h) ?_
    split
    · rename_i rest t heq
      exact heq ▸ hbody _
    · split
      · exact hperform _ _ _ h
      · refine State.wf_laneFault h fun t ht => ?_
        split
        · rename_i u after heq
          have hu : (Out.next u after).Wf := heq ▸ hperform _ _ _ ht
          exact State.memWf_modGang _ hu
        · exact hperform _ _ _ ht
theorem State.wf_sendBlocks {s : State} {x : LaneAcc} {acq : Bool} {ps : List Placed1} (h : s.memWf) :
    (s.sendBlocks x acq ps).memWf := State.wf_foldl h fun _ _ hx1 => State.wf_sendLoad (State.wf_ite (State.memWf_modGang _ hx1) hx1)
theorem State.wf_laneLd {s : State} {x : LaneAcc} {acq : Bool} (h : s.memWf) : (s.laneLd x acq).Wf :=
  State.wf_laneAccess h (fun _ => Out.wf_ite (Out.wf_next h) (Out.wf_wait h)) fun _ _ _ his => Out.wf_next (State.wf_sendBlocks
    (State.memWf_modGang _ his))
theorem State.wf_storeBlocks {s : State} {ps : List Placed1} (h : s.memWf) : (s.storeBlocks ps).memWf :=
  State.wf_foldl h fun _ _ hx => State.wf_sendStore hx
theorem State.wf_laneSt {s : State} {x : LaneAcc} {rel : Bool} (h : s.memWf) : (s.laneSt x rel).Wf :=
  State.wf_laneAccess h (fun _ => Out.wf_ite (State.wf_whenReleased h (Out.wf_ite (Out.wf_wait h) (State.wf_whenQueued h
    (Out.wf_next h)))) (Out.wf_ite (Out.wf_wait h) (State.wf_whenQueued h (Out.wf_next h)))) fun _ _ _ his => Out.wf_next
    (State.wf_storeBlocks his)
theorem Core.wf_setStream {k : Core} {n : Nat} {x : Stream} (h : k.mem.wf) : (k.setStream n x).mem.wf := h
theorem State.wf_takeElems {s : State} {n d : Nat} {took empty : Lane → Lane} {is : List Nat} (h : s.memWf) :
    (s.takeElems n d took empty is).memWf := by
  induction is generalizing s with
  | nil => exact h
  | cons i is ih =>
    rw [State.takeElems]
    split
    · exact ih (State.memWf_modGang _ (State.memWf_modMe h fun _ hk => hk))
    · exact ih (State.memWf_modGang _ h)
theorem nextWf_execSrd {p : BitVec 3} {d : BitVec 6} {n : BitVec 2} {s : State} (h : s.memWf) : NextWf (execSrd p d n s) :=
  State.nextWf_finish h (State.wf_blocking (State.wf_laneGate h (Out.wf_ite Out.wf_trap (Out.wf_ite (Out.wf_wait (State.wf_ite h
    (State.memWf_modMe h fun _ hx => Core.wf_setStream hx))) (Out.wf_next (State.wf_takeElems (State.memWf_modMe h fun _ hx =>
    Core.wf_setStream hx)))))))
theorem nextWf_execSdrop {p : BitVec 3} {a : BitVec 6} {n : BitVec 2} {s : State} (h : s.memWf) : NextWf (execSdrop p a n s) := by
  unfold execSdrop
  refine State.nextWf_finish h (State.wf_laneGate h ?_)
  split
  · exact Out.wf_next h
  · exact Out.wf_next (State.memWf_modMe h fun _ hx => Core.wf_setStream hx)
theorem nextWf_execSreset {p : BitVec 3} {n : BitVec 2} {s : State} (h : s.memWf) : NextWf (execSreset p n s) :=
  State.nextWf_finish h (State.wf_laneGate h (Out.wf_ite (Out.wf_next h) (Out.wf_next (State.memWf_modMe h fun _ hx =>
    Core.wf_setStream hx))))

/-! ### Lane chunk instructions (spec/18 R423, R424) -/

theorem State.wf_chunkForm {s : State} {p : BitVec 3} {as : List (BitVec 6)} {uses all : List Nat} {skip : Nat} {body : List Nat →
  State → Out} (h : s.memWf) (hbody : ∀ x y, y.memWf → (body x y).Wf) :
    (s.chunkForm p as uses all skip body).Wf := by
  unfold State.chunkForm
  refine State.wf_laneGate h ?_
  split
  · exact Out.wf_trap
  · refine Out.wf_ite (Out.wf_wait h) ?_
    split
    · exact Out.wf_trap
    · dsimp only
      split
      · exact Out.wf_trap
      · exact hbody _ _ (State.wf_foldl h fun _ _ hx => State.wf_foldl hx fun _ _ hx1 => State.wf_scanLocal hx1)
theorem State.wf_writeLocal {s : State} {a : Nat} {bs : List Byte} (h : s.memWf) : (s.writeLocal a bs).memWf :=
  State.memWf_modMe h fun _ hk => Memory.wf_write _ _ _ hk
theorem nextWf_execCkgen {g : BitVec 3} {d a b : BitVec 6} {s : State} (h : s.memWf) : NextWf (execCkgen g d a b s) :=
  State.nextWf_finish h (State.wf_chunkForm h fun _ _ hy => Out.wf_ite (Out.wf_wait h) (Out.wf_next (State.wf_foldl hy fun _ _ hx1
    => State.wf_writeLocal hx1)))
theorem State.wf_foldLane {s : State} {fmt i a b : Nat} (h : s.memWf) : (s.foldLane fmt i a b).memWf := by
  unfold State.foldLane
  extract_lets mode o t me rec' u
  have ht : t.memWf := by
    show (match o.image with | some img => s.writeLocal a img | none => s).memWf
    split
    · exact State.wf_writeLocal h
    · exact h
  exact State.memWf_modGang _ (State.wf_sendRecords ht)
theorem State.wf_foldLanes {s : State} {fmt : Nat} {a b : BitVec 6} {is : List Nat} (h : s.memWf) :
    (s.foldLanes fmt a b is).1.memWf := by
  induction is generalizing s with
  | nil => exact h
  | cons i is ih =>
    rw [State.foldLanes]
    exact State.wf_fst_ite h (ih (State.wf_foldLane h))
theorem State.wf_foldOn {s : State} {fmt : Nat} {a b : BitVec 6} {is : List Nat} {next : Nat} {ids : List Nat} {after : List Cause}
  (h : s.memWf) :
    (s.foldOn fmt a b is next ids after).Wf :=
  Out.wf_ite (Out.wf_wait (State.memWf_modGang _ (State.wf_foldLanes h))) (Out.wf_next (State.wf_foldLanes h))
theorem nextWf_execCkfold {g : BitVec 3} {d a b : BitVec 6} {s : State} (h : s.memWf) : NextWf (execCkfold g d a b s) := by
  unfold execCkfold
  refine State.nextWf_finish h ?_
  split
  · exact State.wf_foldOn h
  · exact State.wf_chunkForm h fun _ _ hy => Out.wf_ite (Out.wf_wait h) (State.wf_foldOn hy)

/-! ### The requests of the mailbox (spec/24 R495) -/

theorem nextWf_execMailboxRequest {s : State} (h : s.memWf) : NextWf (execMailboxRequest s) := by
  unfold execMailboxRequest
  refine nextWf_next (State.wf_ite h ?_)
  split
  · exact h
  · refine State.wf_ite (State.wf_respond (State.wf_takeMail h)) ?_
    split
    · exact State.wf_respond (State.wf_takeMail h)
    · exact State.wf_ite (State.wf_respond (State.wf_takeMail h)) (State.wf_push (State.wf_with (State.wf_takeMail h) rfl))

/-! ### The dispatch -/

/-- Whatever an instruction or an event does, the memories keep their canonical form. -/
theorem nextWf_exec {i : Instr} {s : State} (h : s.memWf) : NextWf (exec i s) := by
  cases i
  case timerExpiry | frameRelease => exact nextWf_next (State.memWf_wake (State.memWf_modCore _ h fun _ hx => hx))
  case carryMessageSend | outboundRecordSend => exact nextWf_next (State.wf_leave h)
  case grantRequest =>
    exact nextWf_next (State.wf_ite (State.wf_recordRefused h) (State.wf_regrant (State.memWf_modCore _ h fun _ hx => hx)))
  case carryArrival => exact nextWf_next (State.wf_ite (State.wf_discardMsg h) (State.wf_arrive h))
  case forwardedReply => exact nextWf_next (State.memWf_wake (State.wf_writePart h))
  case sliceOperation | timelineWrite => exact nextWf_next (State.wf_atSlices h)
  case futureRetry | counterUpdateRetry | changePutRetry => exact nextWf_next (State.wf_resend h)
  case counterEvent => exact nextWf_next (State.wf_queueCrossing h)
  case barrierCompletion => exact nextWf_next (State.memWf_wake (State.memWf_modCore _ h fun _ hx => Core.wf_setBarrier hx))
  case timelineRelease | quiescenceWatch => exact nextWf_execLoadReply h
  case copyUnit => exact nextWf_next (State.wf_copyStep h)
  case checkedChunkVerify => exact nextWf_next (State.memWf_wake (State.wf_verifyChunk h))
  case ringWindowPush => exact nextWf_next (State.memWf_wake (State.wf_ackWindow (State.wf_pushRing h)))
  case invalidationAck => exact nextWf_next (State.memWf_wake (State.wf_lessAcks h))
  case watchdogExpiry =>
    exact nextWf_next (State.wf_push (State.wf_freeze (State.wf_recordCore (State.memWf_setCore _ h (State.memWf_core h _)))))
  case contextRestore => exact nextWf_next (State.wf_ite h (State.wf_ite (State.wf_tell h) (State.wf_putBack h)))
  case containment => exact nextWf_next (State.wf_contain h)
  case containmentReset => exact nextWf_next (State.wf_ite (State.wf_resetInside h) h)
  case fatalError => exact nextWf_next (State.wf_fatal h)
  case recorderUnfreeze => exact nextWf_next (State.wf_with h rfl)
  case frameBoundary => exact nextWf_next (State.wf_passMark (State.wf_startFrame h))
  case creditReturn => exact nextWf_next (State.wf_setPort h)
  case portRetrain => exact nextWf_next (State.wf_trainFar (State.wf_train h))
  case portTrainingTimeout => exact nextWf_next (State.wf_ite (State.wf_takeDown h) h)
  case throttleUpdate => exact nextWf_next (State.wf_ite h (State.wf_record (State.wf_with h rfl)))
  case thermalTrip => exact nextWf_next (State.wf_with (State.wf_fatal h) rfl)
  case powerOn => exact nextWf_next State.wf_boot
  case pcieReset | reset => exact nextWf_next (State.wf_resetPackage h)
  case ring => exact nextWf_next (State.wf_ite h (State.wf_setDoorbell h))
  case doorbellAppendDone => exact nextWf_next (State.wf_ite h (State.wf_setDoorbell (State.wf_fst_ite (State.wf_append h) h)))
  case doorbellAssign =>
    exact nextWf_ite (nextWf_next (State.wf_respond h)) (nextWf_next (State.wf_respond (State.wf_setDoorbell h)))
  case windowSet => exact nextWf_next (State.wf_respond (State.wf_ite (State.wf_modHost h) h))
  case preempt => exact nextWf_next (State.wf_ite (State.wf_beginSave (State.wf_respond h)) (State.wf_respond h))
  case restore => exact nextWf_next (State.wf_ite (State.wf_push (State.wf_with (State.wf_respond h) rfl)) (State.wf_respond h))
  case getVersion | getCapabilities | negotiateAlgorithms | getDigests | getCertificate | challenge =>
    exact nextWf_next (State.wf_spdmAnswer h)
  case ikitikStep => exact nextWf_next (State.wf_serve h (State.wf_onGangs h fun _ => State.wf_ikitik (State.wf_modGangsAt h)))
  case setpoint => exact nextWf_next (State.wf_serve h (State.wf_ite (State.wf_ikitik h) (State.wf_ikitik (State.wf_setPoint h))))
  case readgang => exact nextWf_next (State.wf_serve h (State.wf_onGangs h fun _ => State.wf_ikitik h))
  case readcore | readarrivals => exact nextWf_next (State.wf_serve h (State.wf_ite (State.wf_ikitik h) (State.wf_ikitik h)))
  case readrecorder => exact nextWf_next (State.wf_serve h (State.wf_ikitik h))
  case powerLoss => exact nextWf_next (State.wf_with State.wf_reset rfl)
  case idleExpiry => exact nextWf_next (State.memWf_modCore _ h fun _ hx => hx)
  case linkManagementInterval => exact nextWf_next (State.wf_setPort (State.wf_ite (State.wf_sendManagement h) h))
  case devstatRead => exact nextWf_next (State.wf_answerRead h)
  case directoryInvalidationAck =>
    exact nextWf_next (State.memWf_wake (State.wf_lessChange (State.wf_lessAcks (State.memWf_modCore _ h fun _ hx => hx))))
  case recorderFreeze => exact nextWf_next (State.wf_freeze h)
  case mul | mulhS64 | mulhN64 | divS64 | divN64 | remS64 | remN64 | andn | shl | shr | sra | rol | minS64 | maxS64 | minN64 |
      maxN64 | seq | sltS64 | sltN64 | clz | ctz | popc | sext | zext | bfx | bfi | lea | muli | ori | xori | seqi | sltiS64 |
      sltiN64 | rsbi | miniS64 | maxiS64 | movw | movk => exact State.nextWf_finish h (State.wf_alu h)
  case ldAcq | ldNc => exact State.nextWf_finish h (State.wf_loadForm h)
  case stRel | stNc | stz => exact State.nextWf_finish h (State.wf_storeForm h)
  case ldlPr => exact State.nextWf_finish h (State.wf_localForm h (Out.wf_next (State.wf_loadLocal (State.wf_scanLocal h))))
  case stlPr | stzl =>
    exact State.nextWf_finish h (State.wf_localForm h (Out.wf_ite (Out.wf_wait h) (Out.wf_next (State.wf_storeLocal h))))
  case pf | vpf | fenceAcq => exact State.nextWf_finish h (Out.wf_ite (Out.wf_wait h) (Out.wf_next h))
  case bN => exact State.nextWf_finish h (State.wf_onCondition h fun _ => State.wf_transfer h)
  case ret => exact State.nextWf_finish h (State.wf_gate h (Out.wf_ite Out.wf_trap (State.wf_transfer h)))
  case jr => exact State.nextWf_finish h (State.wf_gate h (State.wf_transfer h))
  case loopN => exact State.nextWf_finish h (State.wf_loopForm h)
  case bEq | bNe | bLtS64 | bLtN64 | bGeS64 | bGeN64 => exact State.nextWf_finish h (State.wf_compareForm h)
  case yield => exact State.nextWf_finish h (Out.wf_next (State.memWf_modGang _ h))
  case nop => exact State.nextWf_finish h (Out.wf_next h)
  case callr => exact State.nextWf_finish h (State.wf_gate h (State.wf_transfer (State.memWf_writeG _ _ _ h)))
  case jx | cx | jxr => exact State.nextWf_finish h (State.wf_startXfer h)
  case sendnb => exact State.nextWf_finish h (State.wf_sendForm h fun _ _ hy => Out.wf_next (State.memWf_writeG _ _ _ hy))
  case rrepl => exact State.nextWf_finish h (State.wf_replForm h fun _ hx _ _ => State.wf_replicate hx)
  case vmulhS | vmulhN | vdivS | vdivN | vremS | vremN | vshl | vshr | vsra | vminS | vminN | vmaxS | vmaxN =>
    exact State.nextWf_finish h (State.wf_packedOp h)
  case vandn => exact State.nextWf_finish h (State.wf_wholeOp h)
  case vcmpltS | vcmpltN => exact State.nextWf_finish h (State.wf_packedCompare h)
  case vsel => exact State.nextWf_finish h (State.wf_laneGate h (Out.wf_next (State.memWf_modGang _ h)))
  case vclz | vpopc => exact State.nextWf_finish h (State.wf_packedCount h)
  case vlea | vfclass | vcvti | vcvtf | vdot8 | scnt => exact State.nextWf_finish h (State.wf_laneOp h)
  case vredi =>
    exact State.nextWf_finish h (Out.wf_ite (Out.wf_wait h) (State.wf_laneGate h (Out.wf_next (State.memWf_writeG _ _ _ h))))
  case vshuf =>
    exact State.nextWf_finish h (State.wf_laneGate h (Out.wf_ite (Out.wf_wait h) (Out.wf_next (State.memWf_modGang _ h))))
  case vgext =>
    exact State.nextWf_finish h (Out.wf_ite (Out.wf_wait h) (State.wf_laneGate h (Out.wf_next (State.memWf_modGang _ h))))
  case vfaddF64 | vfaddBf16 | vfaddF16 => exact State.nextWf_finish h (State.wf_floatAdd h)
  case vfsubF64 | vfsubF32 => exact State.nextWf_finish h (State.wf_floatSub h)
  case vfmulF64 | vfmulBf16 | vfmulF16 => exact State.nextWf_finish h (State.wf_floatMul h)
  case vfmaF64 | vfmaBf16 | vfmaF16 => exact State.nextWf_finish h (State.wf_floatFma h)
  case vfmin | vfmax | vfdiv => exact State.nextWf_finish h (State.wf_floatMap h)
  case vfcmpeq | vfcmplt | vfcmple => exact State.nextWf_finish h (State.wf_floatCompare h)
  case vfsqrt | vfneg | vfabs => exact State.nextWf_finish h (State.wf_floatEach h)
  case vcvt | vcvtx => exact State.nextWf_finish h (State.wf_convert h)
  case vdot2 | vdot4 => exact State.nextWf_finish h (State.wf_dotFloat h)
  case vfred => exact State.nextWf_finish h (State.wf_laneGate h (State.wf_laneGate h (Out.wf_next (State.memWf_modGang _ h))))
  case vbadd | vbsub | vbmul | vbmax | vbmin => exact State.nextWf_finish h (State.wf_blockOp2 h)
  case vbfma | vbscale | vbnorm | vbcvt => exact State.nextWf_finish h (State.wf_blockOp h)
  case vbpack | vbunpack | vsxpack | vsxunpack | vkget | vkset | vbdot => exact State.nextWf_finish h (State.wf_blockGate h)
  case vldl | vldlq => exact State.nextWf_finish h (State.wf_laneLdl h)
  case vstl | vstlq => exact State.nextWf_finish h (State.wf_laneStl h)
  case vld | vldAcq | vldq => exact State.nextWf_finish h (State.wf_laneLd h)
  case vst | vstRel | vstq => exact State.nextWf_finish h (State.wf_laneSt h)
  case srdnb => exact State.nextWf_finish h (State.wf_laneGate h (Out.wf_next (State.wf_takeElems h)))
  case ftakenb | fpeek => exact State.nextWf_finish h (State.wf_takeForm h)
  case dcset | dcadd | dcdec => exact State.nextWf_finish h (State.wf_counterForm h)
  case amonr => exact State.nextWf_finish h (State.wf_atomicForm h (fun _ hx => hx) fun _ => Out.wf_next (State.wf_sendStore h))
  case cfence => exact State.nextWf_finish h (Out.wf_ite (Out.wf_wait h) (State.wf_accept h (Out.wf_next (State.wf_pushCopy h))))
  case mcmd | mgang => exact State.nextWf_finish h (State.wf_commandForm h)
  case mfence => exact State.nextWf_finish h (Out.wf_ite (Out.wf_wait h) (State.wf_submit h))
  case mstat | mstatCtx | cstat => exact State.nextWf_finish h (State.wf_gate h (Out.wf_next (State.memWf_writeG _ _ _ h)))
  case cstatDrop => exact State.nextWf_finish h (State.wf_gate h (Out.wf_next (State.memWf_writeG _ _ _ (State.wf_dropCopy h))))
  case tmget | rgget => exact State.nextWf_finish h (State.wf_imageForm h fun _ => State.wf_storeImage h)
  case barwaitnb =>
    exact State.nextWf_finish h (State.wf_gate h (State.wf_onBarrier fun _ => Out.wf_next (State.memWf_writeG _ _ _ h)))
  case fence => exact State.nextWf_finish h (Out.wf_ite (Out.wf_next h) (State.wf_whenPut h (Out.wf_next h)))
  case tladd | tladdSet => exact State.nextWf_finish h (State.wf_tladdForm h)
  case ckver => exact State.nextWf_finish h (State.wf_chunkForm h fun _ _ hy => Out.wf_next (State.memWf_modGang _ hy))
  case dxlook | dxadd => exact State.nextWf_finish h (State.wf_arrangeForm h)
  case scall | idle =>
    exact State.nextWf_finish h (State.wf_atLevels (State.wf_gate h (Out.wf_next (State.memWf_modMe h fun _ hx => hx))))
  case xlinv | xlinvLg => exact State.nextWf_finish h (State.wf_invalidateForm h fun _ hx => State.wf_gateAddr h hx)
  case xlinvAll => exact State.nextWf_finish h (State.wf_invalidateForm h fun _ hx => hx)
  case chrd => exact State.nextWf_finish h (State.wf_atLevels (State.wf_imageForm h fun _ => State.wf_storeImage h))
  case ebrd | ebrdClr => exact State.nextWf_finish h (State.wf_bankForm h)
  case halt | sstep => exact State.nextWf_finish h (State.wf_atLevels (Out.wf_next (State.wf_onInterrupted h)))
  case sstepLn => exact State.nextWf_finish h (State.wf_atLevels (State.wf_gate h (Out.wf_next (State.wf_onInterrupted h))))
  case brkCompact => exact nextWf_execBrk h
  case addCompact => exact nextWf_execAdd h
  case subCompact => exact nextWf_execSub h
  case andCompact => exact nextWf_execAnd h
  case orCompact => exact nextWf_execOr h
  case xorCompact => exact nextWf_execXor h
  case addiCompact => exact nextWf_execAddi h
  case shliCompact => exact nextWf_execShli h
  case shriCompact => exact nextWf_execShri h
  case sraiCompact => exact nextWf_execSrai h
  case andiCompact => exact nextWf_execAndi h
  case ldlCompact => exact nextWf_execLdl h
  case stlCompact => exact nextWf_execStl h
  case ldCompact => exact nextWf_execLd h
  case stCompact => exact nextWf_execSt h
  case bCompact | bZCompact | bNzCompact => exact nextWf_execB h
  case loopCompact => exact nextWf_execLoop h
  case vaddCompact => exact nextWf_execVadd h
  case vsubCompact => exact nextWf_execVsub h
  case vmulCompact => exact nextWf_execVmul h
  case vandCompact => exact nextWf_execVand h
  case vorCompact => exact nextWf_execVor h
  case vxorCompact => exact nextWf_execVxor h
  case vmovCompact => exact nextWf_execVmov h
  case vfaddF32Compact => exact nextWf_execVfaddF32 h
  case vfmulF32Compact => exact nextWf_execVfmulF32 h
  case vfmaF32Compact => exact nextWf_execVfmaF32 h
  case vcmpeqCompact => exact nextWf_execVcmpeq h
  case xendCompact => exact nextWf_execXend h
  case xretCompact => exact nextWf_execXret h
  case delaySlotAnnul => exact nextWf_execDelaySlotAnnul h
  case trapEntry => exact nextWf_execTrapEntry h
  case transferPacking => exact nextWf_execTransferPacking h
  case spill => exact nextWf_execSpill h
  case grant => exact nextWf_execGrant h
  case revocation => exact nextWf_execRevocation h
  case refusal => exact nextWf_execRefusal h
  case dataMessageArrival => exact nextWf_execDataMessageArrival h
  case changeMessageArrival => exact nextWf_execChangeMessageArrival h
  case ringDrain => exact nextWf_execRingDrain h
  case rebindingTakesEffect => exact nextWf_execRebindingTakesEffect h
  case firing => exact nextWf_execFiring h
  case loadReply => exact nextWf_execLoadReply h
  case forwardingEntryTimeout => exact nextWf_execForwardingEntryTimeout h
  case storeAcknowledgement => exact nextWf_execStoreAcknowledgement h
  case remoteAccess => exact nextWf_execRemoteAccess h
  case chainedPacket => exact nextWf_execChainedPacket h
  case readyQueueSend => exact nextWf_execReadyQueueSend h
  case barrierArrival => exact nextWf_execBarrierArrival h
  case copyCompletion => exact nextWf_execCopyCompletion h
  case chunkRecordDrop => exact nextWf_execChunkRecordDrop h
  case matrixArbitration => exact nextWf_execMatrixArbitration h
  case matrixKStep => exact nextWf_execMatrixKStep h
  case matrixDrain => exact nextWf_execMatrixDrain h
  case matrixSetContext => exact nextWf_execMatrixSetContext h
  case matrixFence => exact nextWf_execMatrixFence h
  case matrixCompletion => exact nextWf_execMatrixCompletion h
  case matrixWindowPush => exact nextWf_execMatrixWindowPush h
  case translationWalk => exact nextWf_execTranslationWalk h
  case translationFault => exact nextWf_execTranslationFault h
  case noticePost => exact nextWf_execNoticePost h
  case derrickSelection => exact nextWf_execDerrickSelection h
  case launchDone q idx => exact nextWf_execLaunchDone (_q := q) h
  case launchQueueControl => exact nextWf_execLaunchQueueControl h
  case contextStart => exact nextWf_execContextStart h
  case preemption => exact nextWf_execPreemption h
  case changeSliceQueueSend => exact nextWf_execChangeSliceQueueSend h
  case changeFiringEnd => exact nextWf_execChangeFiringEnd h
  case changeRecordLost => exact nextWf_execChangeRecordLost h
  case scrub => exact nextWf_execScrub h
  case retentionEntry => exact nextWf_execRetentionEntry h
  case retentionExit => exact nextWf_execRetentionExit h
  case pairIntervalClose => exact nextWf_execPairIntervalClose h
  case packetAdmission => exact nextWf_execPacketAdmission h
  case multicastFork => exact nextWf_execMulticastFork h
  case multicastResidualSend => exact nextWf_execMulticastResidualSend h
  case refusedTraffic => exact nextWf_execRefusedTraffic h
  case flitReceive => exact nextWf_execFlitReceive h
  case negativeAcknowledgement => exact nextWf_execNegativeAcknowledgement h
  case frameMark => exact nextWf_execFrameMark h
  case portTraining => exact nextWf_execPortTraining h
  case hostRegisterWrite => exact nextWf_execHostRegisterWrite h
  case control => exact nextWf_execControl h
  case memoryWindowAccess => exact nextWf_execMemoryWindowAccess h
  case mailboxRequest => exact nextWf_execMailboxRequest h
  case partitionCreate => exact nextWf_execPartitionCreate h
  case partitionDestroy => exact nextWf_execPartitionDestroy h
  case imageLoad => exact nextWf_execImageLoad h
  case debug => exact nextWf_execDebug h
  case spdm => exact nextWf_execSpdm h
  case notice => exact nextWf_execNotice h
  case port => exact nextWf_execPort h
  case power => exact nextWf_execPower h
  case supervisorResponse => exact nextWf_execSupervisorResponse h
  case getMeasurements => exact nextWf_execGetMeasurements h
  case ikitikHalt => exact nextWf_execIkitikHalt h
  case ikitikResume => exact nextWf_execIkitikResume h
  case steplane => exact nextWf_execSteplane h
  case writereg => exact nextWf_execWritereg h
  case readmem => exact nextWf_execReadmem h
  case add => exact nextWf_execAdd h
  case sub => exact nextWf_execSub h
  case and => exact nextWf_execAnd h
  case or => exact nextWf_execOr h
  case xor => exact nextWf_execXor h
  case addi => exact nextWf_execAddi h
  case andi => exact nextWf_execAndi h
  case shli => exact nextWf_execShli h
  case shri => exact nextWf_execShri h
  case srai => exact nextWf_execSrai h
  case ldl => exact nextWf_execLdl h
  case stl => exact nextWf_execStl h
  case ld => exact nextWf_execLd h
  case st => exact nextWf_execSt h
  case wbk => exact nextWf_execWbk h
  case xlq => exact nextWf_execXlq h
  case chka => exact nextWf_execChka h
  case b => exact nextWf_execB h
  case call => exact nextWf_execCall h
  case loop => exact nextWf_execLoop h
  case xret => exact nextWf_execXret h
  case xend => exact nextWf_execXend h
  case send => exact nextWf_execSend h
  case recv => exact nextWf_execRecv h
  case recvnb => exact nextWf_execRecvnb h
  case chbind => exact nextWf_execChbind h
  case launch => exact nextWf_execLaunch h
  case spawn => exact nextWf_execSpawn h
  case rreplRet => exact nextWf_execRreplRet h
  case evbind => exact nextWf_execEvbind h
  case evbindOff => exact nextWf_execEvbindOff h
  case vclaim => exact nextWf_execVclaim h
  case vrenew => exact nextWf_execVrenew h
  case vadd => exact nextWf_execVadd h
  case vsub => exact nextWf_execVsub h
  case vmul => exact nextWf_execVmul h
  case vand => exact nextWf_execVand h
  case vor => exact nextWf_execVor h
  case vxor => exact nextWf_execVxor h
  case vcmpeq => exact nextWf_execVcmpeq h
  case vmov => exact nextWf_execVmov h
  case vbcast => exact nextWf_execVbcast h
  case vfaddF32 => exact nextWf_execVfaddF32 h
  case vfmulF32 => exact nextWf_execVfmulF32 h
  case vfmaF32 => exact nextWf_execVfmaF32 h
  case srd => exact nextWf_execSrd h
  case sdrop => exact nextWf_execSdrop h
  case sreset => exact nextWf_execSreset h
  case amo => exact nextWf_execAmo h
  case amocas => exact nextWf_execAmocas h
  case amol => exact nextWf_execAmol h
  case sop => exact nextWf_execSop h
  case sopCh => exact nextWf_execSopCh h
  case fput => exact nextWf_execFput h
  case fputnb => exact nextWf_execFputnb h
  case ftake => exact nextWf_execFtake h
  case sopw => exact nextWf_execSopw h
  case sopq => exact nextWf_execSopq h
  case ccopy => exact nextWf_execCcopy h
  case mresume => exact nextWf_execMresume h
  case mresumeAbort => exact nextWf_execMresumeAbort h
  case mdrain => exact nextWf_execMdrain h
  case tmset => exact nextWf_execTmset h
  case rgset => exact nextWf_execRgset h
  case rgpush => exact nextWf_execRgpush h
  case rgpop => exact nextWf_execRgpop h
  case cwait => exact nextWf_execCwait h
  case barbind => exact nextWf_execBarbind h
  case bararr => exact nextWf_execBararr h
  case barwait => exact nextWf_execBarwait h
  case fenceRel => exact nextWf_execFenceRel h
  case tlwait => exact nextWf_execTlwait h
  case tlwaitnb => exact nextWf_execTlwaitnb h
  case ckgen => exact nextWf_execCkgen h
  case ckfold => exact nextWf_execCkfold h
  case dqput => exact nextWf_execDqput h
  case dxseal => exact nextWf_execDxseal h
  case dxquiet => exact nextWf_execDxquiet h
  case dxquietnb => exact nextWf_execDxquietnb h
  case sget => exact nextWf_execSget h
  case sset => exact nextWf_execSset h
  case pcall => exact nextWf_execPcall h
  case tret => exact nextWf_execTret h
  case brk => exact nextWf_execBrk h
  case wpset => exact nextWf_execWpset h
  case cldw => exact nextWf_execCldw h
  case cldwW => exact nextWf_execCldwW h
  case chwr => exact nextWf_execChwr h
  case inj => exact nextWf_execInj h

/-! ### What an agent does, and its follower (spec/22 R470-R474) -/

theorem State.nextWf_receive {s : State} {p : Packet} (h : s.memWf) : NextWf (s.receive p) := by
  unfold State.receive
  extract_lets _ t
  have ht : t.memWf := State.wf_with (State.wf_leavesPort h) rfl
  split
  · rename_i u heq
    exact nextWf_next (someWf_ite (State.wf_loseMessage ht) someWf_none u heq)
  · exact nextWf_exec (State.wf_ite (State.wf_notCounted ht) (State.wf_with ht rfl))
theorem nextWf_thenReceive {o : Host.Outcome State Fault Refusal} {q : Packet} (h : NextWf o) : NextWf (thenReceive o q) := by
  unfold thenReceive
  split
  · rename_i t
    have ht : t.memWf := h t rfl
    exact nextWf_ite (State.nextWf_receive ht) (nextWf_next ht)
  · exact h
theorem State.wf_setAckAside {s : State} {q : Packet} (h : s.memWf) : (s.setAckAside q).1.memWf := h
/-- The case split is the agent that the step picks. -/
theorem State.nextWf_perform {s : State} {a : Agent} (h : s.memWf) : NextWf (s.perform a) := by
  cases a with
  | packet p => exact State.nextWf_receive h
  | reach p => exact nextWf_next (State.wf_reach h)
  | cross p => exact nextWf_next (State.wf_cross h)
  | denied p q => exact nextWf_thenReceive (State.nextWf_receive (State.wf_setAckAside h))
  | own i => exact nextWf_exec (State.wf_beforeOwn h)
  | both p q => exact nextWf_thenReceive (State.nextWf_receive h)
  | ahead i q => exact nextWf_thenReceive (nextWf_exec (State.wf_beforeOwn h))
  | issue c slot =>
    rw [State.perform]
    split
    · exact nextWf_exec (State.wf_choose h)
    · exact nextWf_next (State.memWf_takeTrap _ (State.wf_choose h))
  | ending c slot =>
    rw [State.perform]
    have ht : (s.choose c slot).atLevelZero.memWf := State.wf_atLevelZero (State.wf_choose h)
    split
    · split
      · rename_i i _ _ u heq
        exact nextWf_next (State.wf_levelBack (nextWf_exec ht u heq))
      · exact nextWf_exec ht
    · exact nextWf_next (State.wf_levelBack (State.memWf_takeTrap _ ht))
  | again c => exact nextWf_next h
  | boot p => exact nextWf_next (State.wf_bootNext h)
/-- What a member of a pair does leaves its core with its memory in canonical form: the words that an engine writes go by
`Memory.takeWords`, and the rest is a step of its own. -/
theorem State.wf_member {s : State} {c : Nat} {e : Passed} (h : s.memWf) : (s.member c e).1.mem.wf := by
  unfold State.member
  extract_lets t
  have ht : t.memWf := State.wf_with h rfl
  split
  · rename_i u heq
    have hu : u.memWf := State.nextWf_perform ht u heq
    exact Core.wf_ite (Memory.wf_takeWords (State.memWf_core h c)) (State.memWf_core hu c)
  · exact State.memWf_core h c
/-- The follower's turn changes the pair's records, and the follower's memory as `State.member` leaves it. -/
theorem State.wf_follow {s before : State} {c : Nat} {e : Passed} {keep : Bool} (h : s.memWf) (hbefore : before.memWf) :
    (s.follow before c e keep).memWf := by
  have hf : ((before.asFollower c).member c e).1.mem.wf := State.wf_member (State.wf_asFollower hbefore)
  unfold State.follow
  extract_lets w k own k' last
  split
  rename_i f upsets heq
  rw [heq] at hf
  extract_lets t x u
  have ht : t.memWf := State.wf_setFollower (State.memWf_modCore _ h fun _ hk => hk) hf
  have hu : u.memWf := State.wf_setTwin ht (Twin.wf_with (State.wf_twin ht))
  exact State.wf_ite hu (State.wf_recordCore hu)
theorem State.wf_inPairs {s t : State} {a : Agent} (h : s.memWf) (ht : t.memWf) : (s.inPairs a t).memWf :=
  State.wf_ite (State.wf_foldl h fun _ _ hu => State.wf_closeFirst hu)
    (State.wf_ite ht (State.wf_foldl ht fun _ _ hu => State.wf_follow hu h))
theorem State.nextWf_pairedOutcome {s : State} {a : Agent} {o : Host.Outcome State Fault Refusal} (ho : NextWf o)
   (hin : ∀ t, t.memWf → (s.inPairs a t).memWf) : NextWf (s.pairedOutcome a o) := by
  unfold State.pairedOutcome
  split
  · rename_i t
    exact nextWf_next (State.wf_ite (hin t (ho t rfl)) (ho t rfl))
  · exact ho
theorem State.wf_repeatNext {s : State} {c : Nat} (h : s.memWf) : (s.repeatNext c).memWf := by
  unfold State.repeatNext
  extract_lets w
  split
  · exact h
  · rename_i e rest heq
    have hm : (s.member c e).1.mem.wf := State.wf_member h
    split
    rename_i k _ hk
    rw [hk] at hm
    extract_lets t
    have ht : t.memWf := State.wf_follow (State.memWf_setCore _ h hm) h
    exact State.wf_setTwin ht (Twin.wf_with (State.wf_twin ht))

/-! ### One step -/

theorem nextWf_passed {s : State} {o : Host.Outcome State Fault Refusal} (ho : NextWf o) : NextWf (passed s o) := by
  unfold passed
  split
  · rename_i t
    exact nextWf_next (State.wf_tick (ho t rfl))
  · exact ho
theorem nextWf_step {s : State} (h : s.memWf) : NextWf (step s) := by
  unfold step
  split
  · exact nextWf_next (State.wf_tick h)
  · exact nextWf_passed (nextWf_next (State.wf_repeatNext h))
  · exact nextWf_passed (State.nextWf_pairedOutcome (State.nextWf_perform h) fun _ ht => State.wf_inPairs h ht)

/-- Settles O59: by the agent that the step performs, its instruction, and the functions that it goes through. -/
theorem stepKeepsMemoriesCanonical : Obligations.StepKeepsMemoriesCanonical := fun _ t h ht => nextWf_step h t ht

end Sys2Proof.Machine

/-! SUPPORT. Ports and what crosses a link (spec/17 R399-R401): what a port reads as after each change of it, and what the port that sends
a packet holds afterwards. -/
namespace Sys2Proof.Machine

open Sys2Proof.Spec
set_option Elab.async false

/-! ### Reading a port after a change -/

theorem State.port_setPort (s : State) (i j : Nat) (x : Port) : (s.setPort i x).port j = if j = i then x else s.port j :=
  mget_mput _ _ _ _ _
theorem State.port_push (s : State) (e : Instr) (j : Nat) : (s.push e).port j = s.port j := rfl
/-- Flits on their way are events; they change no port (R399). -/
theorem State.port_sendFlits (s : State) (far : Nat) (fs : List (BitVec 512)) (j : Nat) : (s.sendFlits far fs).port j = s.port j := by
  unfold State.sendFlits
  induction fs generalizing s with
  | nil => rfl
  | cons f fs ih => exact (ih _).trans (State.port_push _ _ _)
/-- The buffer that a packet leaves changes nothing of its port but the credits that are owed (R401). -/
theorem State.port_leavesPort (s : State) (p : Packet) (j : Nat) : ∃ o, (s.leavesPort p).port j = { s.port j with owed := o } := by
  unfold State.leavesPort
  split
  · exact ⟨_, rfl⟩
  next i _ =>
    rw [State.port_setPort]
    split_ifs with hj
    · subst hj
      exact ⟨_, rfl⟩
    · exact ⟨_, rfl⟩

/-! ### A packet crosses a link -/

section
variable {s : State} {p : Packet} {i : Nat} {is : List Nat} (hway : s.wayOf p = some (i :: is))
include hway

/-- The port that sends a packet after it has left its buffer: its flits go out in sequence, stay in the replay buffer, and take credits
of their network. -/
theorem State.port_cross : ∃ fs src, fs.length = s.wyalFlits p.event ∧ ∀ j, (s.cross p).port j =
    ((s.leavesPort p).setPort i { (s.leavesPort p).port i with
      seqOut := ((s.leavesPort p).port i).seqOut + BitVec.ofNat 11 (s.wyalFlits p.event)
      replay := ((s.leavesPort p).port i).replay ++ fs
      credits := mput ((s.leavesPort p).port i).credits (vnOf p.event)
        (mget 64 ((s.leavesPort p).port i).credits (vnOf p.event) - s.wyalFlits p.event)
      served := src }).port j := by
  unfold State.cross
  rw [hway]
  exact ⟨_, _, (List.length_map _).trans List.length_range, fun j => (State.port_sendFlits _ _ _ j).trans rfl⟩
theorem State.port_cross_sender : ∃ fs o src, fs.length = s.wyalFlits p.event ∧ (s.cross p).port i =
    { s.port i with
      seqOut := (s.port i).seqOut + BitVec.ofNat 11 (s.wyalFlits p.event)
      replay := (s.port i).replay ++ fs
      credits := mput (s.port i).credits (vnOf p.event) (mget 64 (s.port i).credits (vnOf p.event) - s.wyalFlits p.event)
      owed := o
      served := src } := by
  obtain ⟨fs, src, hlength, hport⟩ := State.port_cross hway
  obtain ⟨o, howed⟩ := s.port_leavesPort p i
  refine ⟨fs, o, src, hlength, ?_⟩
  rw [hport, State.port_setPort, if_pos rfl, howed]
theorem State.port_cross_other {j : Nat} (hj : j ≠ i) : ∃ o, (s.cross p).port j = { s.port j with owed := o } := by
  obtain ⟨_, _, -, hport⟩ := State.port_cross hway
  rw [hport, State.port_setPort, if_neg hj]
  exact s.port_leavesPort p j

end

/-- The replay buffer and the credits of a port that can send a packet have room for its flits (R400, R401). -/
theorem State.room_of_canSend {s : State} {i : Nat} {p : Packet} (h : s.canSend i p = true) :
    (s.port i).replay.length + s.wyalFlits p.event ≤ 512 ∧ s.wyalFlits p.event ≤ mget 64 (s.port i).credits (vnOf p.event) := by
  simp only [State.canSend, Bool.and_eq_true, decide_eq_true_eq] at h
  obtain ⟨⟨⟨-, hreplay⟩, hcredits⟩, -⟩ := h
  exact ⟨hreplay, hcredits⟩

/-- Settles O38: the sender's port after the crossing, with the room that it had; the other ports owe credits at most. -/
theorem crossingFillsReplayBuffer : Obligations.CrossingFillsReplayBuffer := by
  intro s p i is hway hsend
  obtain ⟨hreplay, hcredits⟩ := State.room_of_canSend hsend
  obtain ⟨fs, o, src, hlength, hsender⟩ := State.port_cross_sender hway
  rw [hsender]
  refine ⟨rfl, ?_, ?_, ?_, fun j hj => ?others⟩
  · rw [List.length_append, hlength]
  · rw [List.length_append, hlength]
    exact hreplay
  · rw [mget_mput, if_pos rfl, Nat.sub_add_cancel hcredits]
  case others =>
    obtain ⟨o', hother⟩ := State.port_cross_other hway hj
    rw [hother]
    exact ⟨rfl, rfl⟩

end Sys2Proof.Machine

/-! SUPPORT. The events of the fabrics (spec/17 R389-R406, spec/24 R499): what each does, by what it finds where it happens. -/
namespace Sys2Proof.Machine

open Sys2Proof.Spec
set_option Elab.async false

/-! ### Frames and quotas (R394-R396, R402) -/

/-- A cost that one of the four counts covers is charged to the earliest of them (R396). -/
theorem State.charge_covered {s : State} {src : Source} {part cost i : Nat} {left : List Nat} (hf : s.flits part ≠ 0)
    (hc : chargeFirst cost (s.quota src part).left = some (i, left)) :
    s.charge src part cost = some (s.frame + BitVec.ofNat 4 i,
      s.quotas.filter (fun q => !(q.src = src && q.part = part)) ++ [⟨src, part, left⟩]) := by
  rw [State.charge, if_neg hf, hc]
  rfl
/-- The oldest packet that waits at a source is admitted once its cost is covered (R396). -/
theorem packetAdmission_covered {s : State} {src : Source} {cost i : Nat} {left : List Nat} {p : Packet}
    (hp : s.agenda[s.agenda.findIdx fun p => p.stamp.isNone && payerOf p.event = some src]? = some p)
    (hf : s.flits (s.sourcePart src p.event) ≠ 0)
    (hc : chargeFirst cost (s.quota src (s.sourcePart src p.event)).left = some (i, left)) : Does (.packetAdmission src cost) s
      { s with
        agenda := s.agenda.modify (s.agenda.findIdx fun p => p.stamp.isNone && payerOf p.event = some src)
          (fun p => { p with stamp := some (s.frame + BitVec.ofNat 4 i) }),
        quotas := s.quotas.filter (fun q => !(q.src = src && q.part = s.sourcePart src p.event)) ++
          [⟨src, s.sourcePart src p.event, left⟩] } := by
  show execPacketAdmission src cost s = _
  simp only [execPacketAdmission, hp, Option.map_some, Option.getD_some, State.charge_covered hf hc]

section
variable {s : State} {port : Nat}

/-- The mark that tells a package of a new frame starts it there, and is passed on (R402). -/
theorem frameMark_new (h : s.frame ≠ frameAtCycle s.clock) : Does (.frameMark port) s (s.startFrame.passMark (port / 18)) := by
  show execFrameMark port s = _
  simp only [execFrameMark, if_neg h]
  rfl
/-- In the frame of the cycle a mark is passed on once. -/
theorem frameMark_first (h : s.frame = frameAtCycle s.clock) (hm : s.marked.contains (port / 18) = false) :
    Does (.frameMark port) s (s.passMark (port / 18)) := by
  show execFrameMark port s = _
  simp only [execFrameMark, if_pos h, hm]
  rfl
theorem frameMark_again (h : s.frame = frameAtCycle s.clock) (hm : s.marked.contains (port / 18) = true) :
    Does (.frameMark port) s s := by
  show execFrameMark port s = _
  simp only [execFrameMark, if_pos h, hm, if_true]

end

/-! ### Multicasts and refused traffic (R389, R398) -/

/-- A copy with room in its residual buffer forks: onto the free branches, the rest into that buffer (R389). -/
theorem multicastFork_forks {s : State} {tree router : Nat} {x : Tree}
    (hx : s.trees.find? (fun x => x.id = tree && x.input = router) = some x) (hf : s.forks x = true) :
    let go := (s.branches x).filter fun b => s.freeBranch x b && !s.taken x.input x.id b
    let rest := x.dests.filter fun c => !go.any (·.dests.contains c)
    let t := go.foldl (fun t b => t.sendBranch x b) ({ s with trees := s.trees.erase x } : State)
    Does (.multicastFork (tree, router)) s (if rest.isEmpty then t
      else ({ t with residuals := t.residuals ++ [(x.input, { x with dests := rest })] } : State)) := by
  show execMulticastFork (tree, router) s = _
  simp only [execMulticastFork, hx, hf]
  rfl
/-- A residual copy goes out on the branch that is picked, and leaves its buffer after its last (R389). -/
theorem multicastResidualSend_sends {s : State} {router : Nat} {x b : Tree}
    (h : (s.residualSends router)[Config.pick s.clock % (s.residualSends router).length]? = some (x, b)) :
    let t := s.sendBranch x b
    let rest := x.dests.filter fun c => !b.dests.contains c
    let rs := if rest.isEmpty then t.residuals.erase (router, x)
      else t.residuals.map fun e => if e = (router, x) then (router, { x with dests := rest }) else e
    Does (.multicastResidualSend router) s { t with residuals := rs } := by
  show execMulticastResidualSend router s = _
  simp only [execMulticastResidualSend, h]
/-- A refused request that reads is answered with poison and recorded; no notice is posted for it (Table 17-5). -/
theorem refusedTraffic_read {s : State} {r : Req} (hq : r.quiet = false) (hw : refusedWrite r = false) : Does (.refusedTraffic r) s
    ((s.answer r (.reply (refusedValues r.op))).recordRefused (s.refuserOf r.src (reqEnd r)) 0 (reqTarget r) (sourceWord r.src)) := by
  have hanswer : (if r.quiet then s else s.answer r (.reply (refusedValues r.op))) = s.answer r (.reply (refusedValues r.op)) :=
    if_neg (Bool.eq_false_iff.1 hq)
  show execRefusedTraffic r s = _
  simp only [execRefusedTraffic, hw, hanswer]
  cases r.src <;> rfl

/-! ### Flits and retries of a port that is up (R400, R401, R405) -/

section
variable {s : State} {port n : Nat} {flit : BitVec 512} (hup : (s.port port).state = 2)
include hup

/-- A port that is up takes a link management flit apart from one of a packet (R401). -/
theorem exec_flitReceive_up : exec (.flitReceive port flit) s = .next (if flitField flit 31 29 = 4 then
      s.setPort port (if !flitCrcOk flit then { s.port port with badMgmt := true }
        else if flitField flit 2 2 = 1 then (s.port port).covered (flitField flit 13 3) else s.port port)
    else if flitCrcOk flit ∧ flitField flit 31 29 < 4 ∧ flitField flit 24 14 = (s.port port).seqIn.toNat then s.acceptFlit port flit
    else s.discardFlit port) := by
  show execFlitReceive port flit s = _
  simp only [execFlitReceive, hup, ne_eq, not_true_eq_false, if_false]
theorem flitReceive_badManagement (hvn : flitField flit 31 29 = 4) (hcrc : flitCrcOk flit = false) :
    Does (.flitReceive port flit) s (s.setPort port { s.port port with badMgmt := true }) := by
  refine (exec_flitReceive_up hup).trans ?_
  rw [if_pos hvn, hcrc]
  rfl
/-- A flit of a packet whose CRC does not match is discarded (R400). -/
theorem flitReceive_badPacket (hvn : flitField flit 31 29 ≠ 4) (hcrc : flitCrcOk flit = false) :
    Does (.flitReceive port flit) s (s.discardFlit port) := by
  refine (exec_flitReceive_up hup).trans ?_
  rw [if_neg hvn, if_neg fun h => Bool.eq_false_iff.1 hcrc h.1]
theorem flitReceive_inOrder (hvn : flitField flit 31 29 < 4) (hcrc : flitCrcOk flit = true)
    (hseq : flitField flit 24 14 = (s.port port).seqIn.toNat) : Does (.flitReceive port flit) s (s.acceptFlit port flit) := by
  refine (exec_flitReceive_up hup).trans ?_
  rw [if_neg hvn.ne, if_pos ⟨hcrc, hvn, hseq⟩]
/-- One more retry of the same SEQ: after the eighth the port retrains (R405). -/
theorem exec_negativeAcknowledgement_again (hagain : (s.port port).resend = some (BitVec.ofNat 11 n)) :
    let t := s.setPort port { s.port port with resend := some (BitVec.ofNat 11 n), retries := (s.port port).retries + 1 }
    exec (.negativeAcknowledgement port n) s =
      .next (if 8 < (s.port port).retries + 1 then t.push (.portRetrain port) else t.sendAgain port n) := by
  show execNegativeAcknowledgement port n s = _
  simp only [execNegativeAcknowledgement, hup, hagain, ne_eq, not_true_eq_false, if_false, if_true]
theorem linkManagementInterval_up : Does (.linkManagementInterval port) s ((s.sendManagement port).setPort port { s.port port with
    owed := [], badMgmt := false, managed := s.clock / 256 }) := by
  show execLinkManagementInterval port s = _
  simp only [execLinkManagementInterval, if_pos hup]

end

/-- The sender is told of the SEQ that is expected once for what is on its way (R400). -/
theorem State.discardFlit_first {s : State} {port : Nat} (h : (s.port port).nakDue = false) : s.discardFlit port =
    (s.setPort port { s.port port with nakDue := true }).push
      (.negativeAcknowledgement (s.farPort port) (s.port port).seqIn.toNat) :=
  if_neg (Bool.eq_false_iff.1 h)
theorem State.discardFlit_again {s : State} {port : Nat} (h : (s.port port).nakDue = true) : s.discardFlit port = s := if_pos h

/-- What an ACK covers leaves the replay buffer; what the port has received stands. -/
theorem Port.seqIn_covered (x : Port) (ack : Nat) : (x.covered ack).seqIn = x.seqIn := by
  unfold Port.covered
  extract_lets
  split <;> rfl
theorem Port.nakDue_covered (x : Port) (ack : Nat) : (x.covered ack).nakDue = x.nakDue := by
  unfold Port.covered
  extract_lets
  split <;> rfl
/-- The port that accepts a flit takes the ACK that it carries, last (R400). -/
theorem State.port_acceptFlit (s : State) (port : Nat) (f : BitVec 512) : ∃ y : Port,
    y.seqIn = (s.port port).seqIn + 1 ∧ y.nakDue = false ∧
    (s.acceptFlit port f).port port = if flitField f 2 2 = 1 then y.covered (flitField f 13 3) else y := by
  unfold State.acceptFlit
  extract_lets _ _ _ eop y t
  have ht : (if eop then { t with agenda := t.agenda.map (landOn port (s.port port).seqIn) } else t).port port = t.port port := by
    split <;> rfl
  exact ⟨y, rfl, rfl, ht.trans ((State.port_setPort _ _ _ _).trans (if_pos rfl))⟩
/-- The next SEQ is expected once a flit is accepted, and no negative acknowledgement is due (R400). -/
theorem State.seqIn_nakDue_acceptFlit (s : State) (port : Nat) (f : BitVec 512) :
    ((s.acceptFlit port f).port port).seqIn = (s.port port).seqIn + 1 ∧ ((s.acceptFlit port f).port port).nakDue = false := by
  obtain ⟨y, hseq, hnak, hport⟩ := s.port_acceptFlit port f
  rw [hport, ← hseq, ← hnak]
  split
  · exact ⟨y.seqIn_covered _, y.nakDue_covered _⟩
  · exact ⟨rfl, rfl⟩

/-! ### Training (R405, spec/24 R499) -/

section
variable {s : State} {port peer : Nat}

theorem portTraining_idle (h : (s.port port).state ≠ 1) : Does (.portTraining port peer) s s := by
  show execPortTraining port peer s = _
  simp only [execPortTraining, if_pos h]
theorem portTrainingTimeout_training (h : (s.port port).state = 1) : Does (.portTrainingTimeout port) s (s.takeDown port) := by
  show execPortTrainingTimeout port s = _
  simp only [execPortTrainingTimeout, if_pos h]

variable (htrain : (s.port port).state = 1)
include htrain

theorem portTraining_samePackage (hp : peer = port / 18) : Does (.portTraining port peer) s (s.takeDown port) := by
  show execPortTraining port peer s = _
  simp only [execPortTraining, htrain, ne_eq, not_true_eq_false, if_false, if_pos hp]
/-- A port in TRAIN with another package at its end comes UP, and the other end with it when the link trains again. -/
theorem exec_portTraining_otherPackage (hp : peer ≠ port / 18) : exec (.portTraining port peer) s = .next
    (if s.joined port (s.farPort port) && (s.port (s.farPort port)).state = 1 && (s.port port).peer = peer then
      (s.comeUp port (s.farPort port) (s.port (s.farPort port)).seqIn peer).comeUp (s.farPort port) port (s.port port).seqIn (port / 18)
    else s.comeUp port (s.farPort port) 0 peer) := by
  show execPortTraining port peer s = _
  simp only [execPortTraining, htrain, ne_eq, not_true_eq_false, if_false, if_neg hp]
theorem portTraining_alone (hp : peer ≠ port / 18) (hj : s.joined port (s.farPort port) = false) :
    Does (.portTraining port peer) s (s.comeUp port (s.farPort port) 0 peer) := by
  refine (exec_portTraining_otherPackage htrain hp).trans ?_
  rw [hj]
  rfl
theorem portTraining_bothEnds (hp : peer ≠ port / 18) (hj : s.joined port (s.farPort port) = true)
    (hfar : (s.port (s.farPort port)).state = 1) (hpeer : (s.port port).peer = peer) : Does (.portTraining port peer) s
      ((s.comeUp port (s.farPort port) (s.port (s.farPort port)).seqIn peer).comeUp (s.farPort port) port (s.port port).seqIn
        (port / 18)) := by
  refine (exec_portTraining_otherPackage htrain hp).trans ?_
  rw [hj, hfar, hpeer, decide_eq_true rfl, decide_eq_true rfl]
  rfl

end

/-- Settles O37, event by event. -/
theorem fabricEventsComplete : Obligations.FabricEventsComplete := by
  intro s src cost tree router port n peer r flit x
  refine ⟨?admission, rfl, frameMark_new, frameMark_first, frameMark_again, multicastFork_forks,
    fun b => multicastResidualSend_sends, refusedTraffic_read, fun hup => ⟨flitReceive_badManagement hup, ?discarded, ?discardedAgain,
    flitReceive_inOrder hup, ?resent, ?retrained, linkManagementInterval_up hup⟩, rfl, rfl, portTraining_samePackage, portTraining_idle,
    portTraining_alone, portTraining_bothEnds, portTrainingTimeout_training, s.seqIn_nakDue_acceptFlit port flit⟩
  case admission =>
    rintro i left _ p _ rfl hp rfl hf hc
    exact packetAdmission_covered hp hf hc
  case discarded =>
    exact fun hvn hcrc hnak => State.discardFlit_first hnak ▸ flitReceive_badPacket hup hvn hcrc
  case discardedAgain =>
    exact fun hvn hcrc hnak => (flitReceive_badPacket hup hvn hcrc).trans (congrArg _ (State.discardFlit_again hnak))
  case resent =>
    exact fun hagain hn => (exec_negativeAcknowledgement_again hup hagain).trans (congrArg _ (if_neg (Nat.not_lt.2 hn)))
  case retrained =>
    exact fun hagain hn => (exec_negativeAcknowledgement_again hup hagain).trans (congrArg _ (if_pos (Nat.lt_succ_of_le hn)))

end Sys2Proof.Machine

/-! SUPPORT. Change queues and arrangements (spec/20 R444-R454): a request that its checks let go leaves for the slice, and a search of
a local arrangement is performed at issue. -/
namespace Sys2Proof.Machine

open Sys2Proof.Spec
set_option Elab.async false

/-! ### Records in local memory (R445, R451) -/

/-- The image of a record passes the checks of its offset. -/
theorem State.localImage8_aligned {s : State} {v : Word} {n : Nat} (hal : v.toNat % 8 = 0) (hend : v.toNat + n ≤ 0x18000) (body : Out) :
    s.localImage8 v n body = body := by
  have hin : ¬localEnd < v.toNat + n := Nat.not_lt.2 hend
  rw [State.localImage8, if_neg (not_not.2 hal), if_neg hin]
/-- A request of a change queue leaves when the outstanding-load table has room. -/
theorem State.sendChange_room {s : State} {d : BitVec 4} (hroom : s.me.loadRoom 1 = true) (op : MemOp) : s.sendChange d op =
    .next ((s.pendG d).sendLoad (.gang s.me.slot d.toNat 8 false (s.me.priv = 1)) s.gang.uids true none op) := if_pos hroom

/-! ### `dqput` (R445) -/

section
variable {s t : State} {d a b : BitVec 4} {c : BitVec 1} {df : Word} {k : Chk} {r : ChangeRec}
  (h : Ready s [b, a] [d, a, b]) (ho : Open s) (hw : channelWordOk (s.readG a) = true) (hs : s.sees (coreOf (s.readG a)) = true)
  (hal : (s.readG b).toNat % 8 = 0) (hend : (s.readG b).toNat + 40 ≤ 0x18000) (ht : t = s.scanLocal s.cur (s.readG b).toNat 40)
  (hp : t.me.mem.poisoned (s.readG b).toNat 40 = false) (hdf : df = w64 (t.me.mem.load ((s.readG b).toNat + 32) 8))
  (hc : s.checkDescriptor df = k) (hk : Reaches k) (hr : r = t.me.mem.recordAt (s.readG b).toNat)
include h ho hw hs hal hend ht hp hdf hc hk hr

/-- A put whose checks pass changes nothing, or asks the slice, by its multiplicity. -/
theorem exec_dqput_checked : exec (.dqput d a b c) s = s.finish (if r.mult = 0 then .next (t.writeG d 0)
    else t.sendChange d (.put df.toNat k.at (s.readG a) (c = 1) r)) := by
  subst ht hdf hr
  show s.finish (s.gateAddr [b] [a] [d, a, b] (s.readG b) _) = _
  rw [State.gateAddr_ready (addrs := [b]) (uses := [a]) h, ho.1]
  show s.finish (s.checkChannel _ _) = _
  rw [State.checkChannel_seen hw hs, State.localImage8_aligned hal hend, State.onImage_sound hp]
  dsimp only
  rw [hc, State.checked_reaches hk, State.mayLeave_open ho]
  rfl
theorem dqput_nothing (hm : r.mult = 0) : Completes (.dqput d a b c) s (t.writeG d 0) := by
  rw [Completes, exec_dqput_checked h ho hw hs hal hend ht hp hdf hc hk hr, if_pos hm, State.finish_next]
theorem dqput_leaves (hm : r.mult ≠ 0) (hroom : t.me.loadRoom 1 = true) : Completes (.dqput d a b c) s
    ((t.pendG d).sendLoad (.gang t.me.slot d.toNat 8 false (t.me.priv = 1)) t.gang.uids true none
      (.put df.toNat k.at (s.readG a) (c = 1) r)) := by
  rw [Completes, exec_dqput_checked h ho hw hs hal hend ht hp hdf hc hk hr, if_neg hm, State.sendChange_room hroom, State.finish_next]

end

/-! ### `dxlook` and `dxadd` (R450, R451) -/

/-- The arrangement instructions, by where the table stands and by the kind of the search. -/
def Arranges (i : Instr) (d a b : BitVec 4) (slice : Bool) (kind : Nat) : Prop :=
  i = .dxlook d a b (if slice then 1 else 0) 0 ∧ kind = 0 ∨ i = .dxlook d a b (if slice then 1 else 0) 1 ∧ kind = 1 ∨
    i = .dxadd d a b (if slice then 1 else 0) ∧ kind = 2
theorem exec_of_arranges {i : Instr} {d a b : BitVec 4} {slice : Bool} {kind : Nat} (hi : Arranges i d a b slice kind) (s : State) :
    exec i s = s.finish (s.arrangeForm d a b slice kind) := by
  obtain ⟨rfl, rfl⟩ | ⟨rfl, rfl⟩ | ⟨rfl, rfl⟩ := hi <;> cases slice <;> rfl

section
variable {s t : State} {d a b : BitVec 4} {kind : Nat} {r : ChangeRec} (h : Ready s [a, b] [d, a, b])
  (hacq : s.me.acquiring = false) (hal : (s.readG a).toNat % 64 = 0) (hal8 : (s.readG b).toNat % 8 = 0)
  (hend8 : (s.readG b).toNat + 32 ≤ 0x18000) (ht : t = s.scanLocal s.cur (s.readG b).toNat 32)
  (hp : t.me.mem.poisoned (s.readG b).toNat 32 = false) (hr : r = t.me.mem.recordAt (s.readG b).toNat)
include h hacq hal hal8 hend8 ht hp hr

/-- An arrangement instruction whose record passes its checks searches the table where it stands. -/
theorem State.arrangeForm_checked {slice : Bool} (hend : slice = false → (s.readG a).toNat + 64 ≤ 0x18000) :
    s.arrangeForm d a b slice kind =
      if slice then t.arrangeSlice d (s.readG a) kind r else t.arrangeLocal d (s.readG a) kind r := by
  subst ht hr
  have hready : Ready s [a] [d, a, b] := ready_mono h (fun _ => id) (by simp)
  have hpoison : s.me.poisonG b.toNat = false := h.2 b (by simp)
  have hin : (!slice && decide (localEnd < (s.readG a).toNat + 64) && decide ((s.readG b).toNat % 8 = 0)) = false := by
    cases slice
    · have hbound : ¬localEnd < (s.readG a).toNat + 64 := Nat.not_lt.2 (hend rfl)
      rw [decide_eq_false hbound]; rfl
    · rfl
  rw [State.arrangeForm]
  dsimp only
  rw [State.gateAddr_ready' hready, hpoison, hacq, if_neg (not_not.2 hal), hin, State.localImage8_aligned hal8 hend8,
    State.onImage_sound hp]
  rfl

end

/-! #### A local arrangement -/

section
variable {t : State} {d : BitVec 4} {va : Word} {kind : Nat} {r : ChangeRec} (hend : va.toNat + 64 ≤ 0x18000)
  (hp : (t.scanLocal t.cur va.toNat 64).me.mem.poisoned va.toNat 64 = false)
include hend hp

theorem State.arrangeLocal_badHeader (hcl : (t.scanLocal t.cur va.toNat 64).me.mem.caplog va.toNat 11 = none) :
    t.arrangeLocal d va kind r = .next ((t.scanLocal t.cur va.toNat 64).writeG d 0x8000000000000002#64) := by
  have hin : ¬localEnd < va.toNat + 64 := Nat.not_lt.2 hend
  rw [State.arrangeLocal, if_neg hin, State.onImage_sound hp]
  dsimp only
  rw [hcl]
theorem State.arrangeLocal_searches {cl : Nat} (hcl : (t.scanLocal t.cur va.toNat 64).me.mem.caplog va.toNat 11 = some cl)
    (hext : va.toNat + 64 + 32 * 2 ^ cl ≤ 0x18000) (hfen : kind = 2 → (t.scanLocal t.cur va.toNat 64).me.fenced = false) :
    let u := t.scanLocal t.cur va.toNat 64
    let v := u.scanEntries u.cur va.toNat cl kind r
    v.me.mem.arrangeBad va.toNat 11 kind r = false →
    let x := v.me.mem.arrange va.toNat 11 kind r
    t.arrangeLocal d va kind r = .next ((v.modMe fun k => { k with mem := x.1 }).writeG d x.2) := by
  intro u v hbad x
  have hin : ¬localEnd < va.toNat + 64 := Nat.not_lt.2 hend
  have hin' : ¬localEnd < va.toNat + 64 + 32 * 2 ^ cl := Nat.not_lt.2 hext
  have hstore : (decide (kind = 2) && u.me.fenced) = false := by
    rw [Bool.and_eq_false_imp]
    exact fun hk => hfen (of_decide_eq_true hk)
  rw [State.arrangeLocal, if_neg hin, State.onImage_sound hp]
  dsimp only
  rw [hcl]
  dsimp only
  rw [if_neg hin', hstore, hbad]
  rfl

end

/-! #### An arrangement in a slice -/

/-- A table in a slice whose checks pass is searched there; one with a sound header stands in one slice frame. -/
theorem State.arrangeSlice_leaves {t : State} {d : BitVec 4} {va : Word} {kind pa : Nat} {r : ChangeRec} {e : TlbEntry} (ho : Open t)
    (hc : t.check va 8 64 (kind = 2) (if kind = 2 then 1 else 0) = .phys pa e) (hpend : t.slicePending pa = false)
    (hext : ∀ cl, t.mem.caplog pa 10 = some cl → sliceFrame pa = true ∧ pa % 65536 + 64 + 32 * 2 ^ cl ≤ 65536) :
    t.arrangeSlice d va kind r = .next ((t.pendG d).sendLoad (.gang t.me.slot d.toNat 8 false (t.me.priv = 1)) t.gang.uids true none
      (.arrange pa kind r)) := by
  obtain ⟨-, -, -, hroom, -⟩ := id ho
  have hmis : bnat (kind = 2) = if kind = 2 then 1 else 0 := by simp [bnat]
  rw [State.arrangeSlice, hmis, hc]
  dsimp only
  have hfree : t.slicePending (Chk.phys pa e).at = false := hpend
  rw [State.checked_phys, hfree, State.mayLeave_open ho, State.sendChange_room hroom]
  cases hcl : t.mem.caplog (Chk.phys pa e).at 10 with
  | none => rfl
  | some cl =>
    obtain ⟨hframe, hin⟩ := hext cl hcl
    have hsound : (sliceFrame (Chk.phys pa e).at && inSliceFrame (Chk.phys pa e).at cl) = true :=
      Bool.and_eq_true_iff.2 ⟨hframe, decide_eq_true hin⟩
    exact if_pos hsound

/-! ### Operations on a wave (R452-R454) -/

section
variable {s : State} {d a b : BitVec 4} {k : Chk} (h : Ready s [a, b] [d, a, b]) (ho : Open s)
  (hc : s.checkDescriptor (s.readG a) = k) (hk : Reaches k)
include h ho hc hk

theorem State.waveForm_reaches (body : Chk → BitVec 32 → Out) : s.waveForm d a b body = body k ((s.readG b).setWidth 32) := by
  obtain ⟨hacq, -, harr, -⟩ := ho
  rw [State.waveForm]
  rw [State.gateAddr_ready (addrs := [a]) (uses := [b]) h, hacq, hc, State.checked_reaches hk, harr]
  rfl
/-- `dxseal` is a release: it leaves once the gang's stores are answered. -/
theorem dxseal_leaves (hd : s.me.drained = true) : Completes (.dxseal d a b) s
    ((s.pendG d).sendLoad (.gang s.me.slot d.toNat 8 false (s.me.priv = 1)) s.gang.uids true none
      (.seal k.at ((s.readG b).setWidth 32))) := by
  have ⟨_, _, _, hload, hstore⟩ := ho
  refine completes_of_next ((State.waveForm_reaches h ho hc hk _).trans ((State.whenReleased_drained hd _).trans ?_))
  exact (if_pos hstore).trans (State.sendChange_room hload _)
theorem dxquietnb_leaves : Completes (.dxquietnb d a b) s
    (((s.pendG d).acquires).sendLoad (.gang s.me.slot d.toNat 8 false (s.me.priv = 1)) [] false none
      (.quiet k.at ((s.readG b).setWidth 32) false (s.holds (s.readG a) ((s.readG b).setWidth 32)))) :=
  completes_of_next ((State.waveForm_reaches h ho hc hk _).trans (State.withEntry_open ho _))

end

theorem dxquiet_answered {s : State} {tag : Nat} {v : Datum} {ok : Bool} (d a b : BitVec 4) (hp : s.gang.phase = .answered tag v ok) :
    Completes (.dxquiet d a b) s (s.writeG d v.val v.poison) :=
  completes_of_next (State.twoPart_answered hp _ _)

/-- Settles O27: puts by their multiplicity, arrangements by where they stand, operations on a wave by their shared form. -/
theorem changeQueueFormsComplete : Obligations.ChangeQueueFormsComplete := by
  refine ⟨fun s t d a b c df k r h ho hw hs hal hend ht hp hdf hc hk hr => ⟨?nothing, ?leaves⟩, ?arrange, ?wave⟩
  case nothing => exact dqput_nothing h ho hw hs hal hend ht hp hdf hc hk hr
  case leaves => exact dqput_leaves h ho hw hs hal hend ht hp hdf hc hk hr
  case arrange =>
    intro s t d a b i kind r cl h hacq hal hal8 hend8 ht hp hr
    refine ⟨fun hi hend => ?here, fun hi pa e hc ho hpend hext => ?slice⟩
    case here =>
      intro u hhead
      have hform := State.arrangeForm_checked (kind := kind) h hacq hal hal8 hend8 ht hp hr (slice := false) fun _ => hend
      have hi' : Arranges i d a b false kind := hi
      refine ⟨fun hcl => ?_, fun hcl hext hfen => ?_⟩
      · exact completes_of_next (hform.trans (State.arrangeLocal_badHeader hend hhead hcl)) (exec_of_arranges hi' s)
      · intro v hbad
        exact completes_of_next (hform.trans (State.arrangeLocal_searches hend hhead hcl hext hfen hbad)) (exec_of_arranges hi' s)
    case slice =>
      have hi' : Arranges i d a b true kind := hi
      exact completes_of_next ((State.arrangeForm_checked h hacq hal hal8 hend8 ht hp hr (absurd · (Ne.symm Bool.false_ne_true))).trans
        (State.arrangeSlice_leaves ho hc hpend hext)) (exec_of_arranges hi' s)
  case wave =>
    rintro s d a b k _ rfl
    exact ⟨fun tag v ok hp => dxquiet_answered d a b hp, fun h ho hc hk => ⟨dxseal_leaves h ho hc hk, dxquietnb_leaves h ho hc hk⟩⟩

end Sys2Proof.Machine

/-! SUPPORT. Scrubbing, retention, paired execution, containment, fatal errors, recorders and throttling (spec/22 R461-R478, spec/24 R505,
R506): what each event does, by the state of the array, pair or block that it meets. -/
namespace Sys2Proof.Machine

open Sys2Proof.Spec
set_option Elab.async false

/-! ### Scrubbing and retention (R463, R468) -/

/-- The scrubber reads what is awake, and only that (R463). -/
theorem scrub_core {s : State} {c : Nat} (addr : Nat) (h : (s.core c).retention = .awake) :
    Does (.scrub (.localMem c) addr) s (s.scanLocal c addr 8) :=
  congrArg Host.Outcome.next (if_neg (Bool.eq_false_iff.1 (decide_eq_false (not_not.2 h))))
theorem scrub_slice {s : State} {n : Nat} (addr : Nat) (h : s.sleeps (.slice n) = false) : Does (.scrub (.slice n) addr) s
    (s.findUpsets 0 fun b x => b = .slice n && x / 8 = addr / 8) :=
  congrArg Host.Outcome.next (if_neg (Bool.eq_false_iff.1 h))
theorem scrub_asleep {a : ArrayRef} (addr : Nat) {s : State} (h : s.sleeps a = true) : Does (.scrub a addr) s s :=
  congrArg Host.Outcome.next (if_pos h)
/-- An array that may sleep enters retention (R468). -/
theorem retentionEntry_core {s : State} {c : Nat} (h : s.coreSleeps c = true) :
    Does (.retentionEntry (.localMem c)) s (s.modCore c fun k => { k with retention := .asleep }) :=
  congrArg Host.Outcome.next (if_pos h)
theorem retentionEntry_slice {s : State} {n : Nat} (h : s.sliceSleeps n = true) :
    Does (.retentionEntry (.slice n)) s { s with sliceRet := mput s.sliceRet n (.asleep, s.clock) } :=
  congrArg Host.Outcome.next (if_pos h)

/-! ### The twin of a leader after a change (R470) -/

theorem mfind_mput_self {α : Type} (m : List (Nat × α)) (i : Nat) (v : α) : mfind (mput m i v) i = some v := by
  induction m with
  | nil => exact if_pos rfl
  | cons e m ih =>
    rw [mput_cons]
    split_ifs with hlt heq
    · exact if_pos rfl
    · exact if_pos rfl
    · exact (if_neg heq).trans ih
/-- The pair of a leader reads back as it was set; the error bank of the follower is its part's. -/
theorem State.twin_of_mfind {s : State} {c : Nat} {w : Twin} (h : mfind s.twins c = some w) :
    s.twin c = { w with follower := { w.follower with bank := (mget {} s.parts (s.followerPosition c)).bank } } := by
  rw [State.twin, h]
theorem State.twin_setTwin (s : State) (c : Nat) (w : Twin) : (s.setTwin c w).twin c =
    { w with follower := { w.follower with bank := (mget {} s.parts (s.followerPosition c)).bank } } :=
  State.twin_of_mfind (mfind_mput_self s.twins c w)
theorem State.mem_follower_setTwin (s : State) (c : Nat) (w : Twin) : ((s.setTwin c w).twin c).follower.mem = w.follower.mem :=
  congrArg (·.follower.mem) (s.twin_setTwin c w)
theorem State.mem_follower_setFollower (s : State) (c : Nat) (f : Core) : ((s.setFollower c f).twin c).follower.mem = f.mem :=
  congrArg (·.follower.mem) (State.twin_of_mfind (s := s.setFollower c f) (mfind_mput_self s.twins c { s.twin c with follower := f }))

/-! ### Intervals (R471, R473) -/

/-- A roll back puts both members back to their checkpoints and leaves every other core as it is (R473). -/
theorem State.core_rollBack (s : State) (c d : Nat) :
    (s.rollBack c).core d = if d = c then (s.core c).disarm.rolledBack (s.twin c).base else s.core d :=
  s.core_setCore c d _
theorem State.core_rollBack_self (s : State) (c : Nat) : (s.rollBack c).core c = (s.core c).disarm.rolledBack (s.twin c).base :=
  (s.core_rollBack c c).trans (if_pos rfl)
theorem State.mem_follower_rollBack (s : State) (c : Nat) : ((s.rollBack c).twin c).follower.mem = (s.twin c).otherBase.mem :=
  (State.mem_follower_setTwin _ c _).trans (State.mem_follower_setFollower _ c _)
theorem State.again_rollBack (s : State) (c : Nat) : ((s.rollBack c).twin c).again = (s.twin c).log :=
  congrArg Twin.again (State.twin_setTwin _ c _)

section
variable {s : State} {c : Nat} (hon : (s.core c).pair.on = true) (hagain : (s.twin c).again = [])
include hon hagain

/-- The close of an interval that no roll back has begun again: agreement, or a disagreement, which is the first or the second. -/
theorem exec_pairIntervalClose_open : exec (.pairIntervalClose c) s = .next (if !s.disagrees c then s.agree c
    else
      let t := s.recordMismatch c (s.core c).pair.rerun
      if (s.core c).pair.rerun then (t.modCore c Core.disarm).push (.containment (t.rectOf c) 2) else t.rollBack c) := by
  show execPairIntervalClose c s = _
  simp only [execPairIntervalClose, hon, hagain]
  rfl
theorem pairIntervalClose_agrees (h : s.disagrees c = false) : Does (.pairIntervalClose c) s (s.agree c) :=
  (exec_pairIntervalClose_open hon hagain).trans (congrArg _ (if_pos (by rw [h]; rfl)))
theorem pairIntervalClose_first (h : s.disagrees c = true) (hrerun : (s.core c).pair.rerun = false) :
    Does (.pairIntervalClose c) s ((s.recordMismatch c false).rollBack c) := by
  rw [Does, exec_pairIntervalClose_open hon hagain, h, hrerun]
  rfl
/-- A second disagreement at one checkpoint contains the rectangle of the leader (R473). -/
theorem pairIntervalClose_second (h : s.disagrees c = true) (hrerun : (s.core c).pair.rerun = true) :
    let t := (s.recordMismatch c true).modCore c Core.disarm
    Does (.pairIntervalClose c) s (t.push (.containment (t.rectOf c) 2)) := by
  rw [Does, exec_pairIntervalClose_open hon hagain, h, hrerun]
  rfl

end

/-! ### Throttling (spec/24 R505) -/

section
variable {s : State} {block l m : Nat} (hl : l = mget 0 s.sup.throttle block)
  (hm : m = nextLevel l (Config.sense (256 + dieOfBlock block) s.clock) (Config.sense (400 + dieOfBlock block / 4) s.clock)
    s.sup.tlimit s.sup.cap)
include hl hm

theorem throttleUpdate_same (h : m = l) : Does (.throttleUpdate block) s s := by
  subst hl hm
  exact congrArg Host.Outcome.next (if_pos h)
/-- A change of level is recorded by the recorder of the block's die. -/
theorem throttleUpdate_changes (h : m ≠ l) : Does (.throttleUpdate block) s
    (({ s with sup := { s.sup with throttle := mset 0 s.sup.throttle block m,
                                   looked := mset 0 s.sup.looked block (throttlePeriod s.clock) } } : State).record (dieOfBlock block) 0x06
      (blockSource block).1 (blockSource block).2 [w64 l, w64 m]) := by
  subst hl hm
  exact congrArg Host.Outcome.next (if_neg h)

end

/-- Settles O36, event by event. -/
theorem reliabilityEventsComplete : Obligations.ReliabilityEventsComplete := by
  intro s c n addr rect trigger array die block cause
  refine ⟨scrub_core addr, scrub_slice addr, scrub_asleep addr, retentionEntry_core, retentionEntry_slice, rfl, rfl,
    fun hon hagain => ⟨pairIntervalClose_agrees hon hagain,
      fun h => ⟨pairIntervalClose_first hon hagain h, pairIntervalClose_second hon hagain h⟩⟩,
    ?rollBack, rfl, fun h => congrArg Host.Outcome.next (if_pos h), rfl, ?trip, rfl, ?unfreeze, rfl,
    fun l m hl hm => ⟨throttleUpdate_same hl hm, throttleUpdate_changes hl hm⟩⟩
  case rollBack =>
    intro t w
    have hcore := s.core_rollBack_self c
    refine ⟨?_, ?_, ?_, ?_, s.mem_follower_rollBack c, s.again_rollBack c, fun d hd => (s.core_rollBack c d).trans (if_neg hd)⟩
    all_goals
      rw [hcore]
      rfl
  case trip =>
    rintro t rfl
    rfl
  case unfreeze =>
    rintro r rfl
    rfl

end Sys2Proof.Machine

/-! SUPPORT. The host port (spec/24 R489-R496, R501, Tables 24-1 to 24-4): device registers, doorbells, memory windows, and the requests
of the mailbox rings. -/
namespace Sys2Proof.Machine

open Sys2Proof.Spec
set_option Elab.async false

/-! ### Registers (R490, Tables 24-1, 24-2) -/

section
variable {s : State} {off : Nat} {v : Word} (hans : s.host.answers = true)
include hans

/-- DEVCTL resets the package under its ARM value alone (Table 24-2). -/
theorem State.hostWrites_devctl :
    s.hostWrites 0x08 v = if fieldOf v 15 8 = 0xA5 ∧ v.getLsbD 0 then s.resetPackage 0 else s := by
  rw [State.hostWrites, hans]
  rfl
theorem hostRegisterWrite_resets (harm : fieldOf v 15 8 = 0xA5) (hreset : v.getLsbD 0 = true) :
    Does (.hostRegisterWrite 0x08 (.write v)) s (s.resetPackage 0) :=
  congrArg Host.Outcome.next ((State.hostWrites_devctl hans).trans (if_pos ⟨harm, hreset⟩))
theorem hostRegisterWrite_noReset (hreset : v.getLsbD 0 = false) : Does (.hostRegisterWrite 0x08 (.write v)) s s :=
  congrArg Host.Outcome.next ((State.hostWrites_devctl hans).trans (if_neg fun h => Bool.false_ne_true (hreset.symm.trans h.2)))
/-- Below the doorbells every other register is one of BAR0 (Table 24-1). -/
theorem hostRegisterWrite_bar0 (hoff : off < 2 ^ 32) (h8 : off ≠ 0x08) :
    Does (.hostRegisterWrite off (.write v)) s (s.modHost (·.writeBar0 off v)) := by
  show Host.Outcome.next (s.hostWrites off v) = _
  rw [State.hostWrites, hans, if_neg h8, if_neg (Nat.not_le.2 hoff)]
  rfl

/-! ### Doorbells and windows (R491-R493) -/

/-- A store to CONTROL of a queue of the running context is performed at its home. -/
theorem control_stores {page q pa : Nat} (hassigned : (s.doorbell page).assigned = true) (hid : s.ctx.id.toNat = (s.doorbell page).ctx.id)
    (hpart : s.ctx.part.toNat = (s.doorbell page).ctx.part) (hstarted : s.ctx.started = true) (hq : q < 16)
    (hpa : s.resolve s.ctx.part.toNat (s.queueBase q + 16) true = some pa) : Does (.control page q v) s
      (s.push (.sliceOperation { src := .host, tag := 0, uids := [], home := none,
                                 op := .store [{ addr := pa, size := 8, val := v }] })) := by
  have hq' : ¬16 ≤ q := Nat.not_le.2 hq
  show execControl page q v s = _
  simp only [execControl, hans, hassigned, ← hid, ← hpart, hstarted, hq', hpa, Bool.not_true, Bool.false_eq_true, ne_eq,
    not_true_eq_false, or_self, if_false]
/-- An access inside a window that grants it, to a page that permits it, goes to its home (R493). -/
theorem memoryWindowAccess_goes {size pa : Nat} {w : Nat × WindowReq} {write : Bool}
    (hw : s.host.windows.find? (fun w => w.2.off ≤ off && off + size ≤ w.2.off + w.2.size) = some w)
    (hgrant : (if write then w.2.wr else w.2.rd) = true) (hpa : s.resolve w.2.part (w.2.vbase + (off - w.2.off)) write = some pa) :
    Does (.memoryWindowAccess off size write v) s
      (s.push (.sliceOperation { src := .host, tag := 0, uids := [], home := none,
                                 op := if write then .store [{ addr := pa, size := size, val := v }] else .load [(pa, size)] })) := by
  show execMemoryWindowAccess off size write v s = _
  simp only [execMemoryWindowAccess, hans, hw, hgrant, hpa, Bool.not_true, Bool.false_eq_true, if_false]
/-- RING copies RECORD in one step (R491). -/
theorem ring_copies {page : Nat} (hassigned : (s.doorbell page).assigned = true) (hbusy : (s.doorbell page).busy = false) (hv : v = 1) :
    Does (.ring page v) s (s.setDoorbell page { s.doorbell page with
      busy := true, copy := (List.range 0xF8).map fun i => mget 0 (s.doorbell page).record i }) := by
  show execRing page v s = _
  simp only [execRing, hans, hassigned, hbusy, hv, Bool.not_true, Bool.false_eq_true, ne_eq, not_true_eq_false, or_self, if_false]

end

/-- The record that a doorbell has copied can be appended: it is for the running context, and valid as a launch (R491). -/
def State.appendable (s : State) (d : Doorbell) : Bool :=
  s.ctx.started && !s.ctx.ended && s.ctx.id.toNat = d.ctx.id && s.ctx.part.toNat = d.ctx.part &&
    (s.readDir (imageAt d.copy 0 2)).any fun e => launchValid d.copy e && imageAt d.copy 0 2 ≠ 0 && imageAt d.copy 0 2 ≠ trapRoutine

section
variable {s : State} {page : Nat} (hbusy : (s.doorbell page).busy = true)
include hbusy

/-- The append of a busy page ends with its result (R491). -/
theorem exec_doorbellAppendDone_busy : exec (.doorbellAppendDone page) s = .next
    (let d := s.doorbell page
     let x := if s.appendable d then s.append (imageAt d.copy 2 1) d.copy else (s, 2)
     x.1.setDoorbell page { d with busy := false, copy := [], done := d.done + 1, result := x.2 }) := by
  show execDoorbellAppendDone page s = _
  cases hentry : s.readDir (imageAt (s.doorbell page).copy 0 2) with
  | none | some e =>
    simp only [execDoorbellAppendDone, State.appendable, hbusy, hentry]
    rfl
theorem doorbellAppendDone_valid (h : s.appendable (s.doorbell page) = true) : Does (.doorbellAppendDone page) s
    ((s.append (imageAt (s.doorbell page).copy 2 1) (s.doorbell page).copy).1.setDoorbell page { s.doorbell page with
      busy := false, copy := [], done := (s.doorbell page).done + 1,
      result := (s.append (imageAt (s.doorbell page).copy 2 1) (s.doorbell page).copy).2 }) := by
  rw [Does, exec_doorbellAppendDone_busy hbusy]
  dsimp only
  rw [h]
  rfl
theorem doorbellAppendDone_invalid (h : s.appendable (s.doorbell page) = false) : Does (.doorbellAppendDone page) s
    (s.setDoorbell page { s.doorbell page with busy := false, copy := [], done := (s.doorbell page).done + 1, result := 2 }) := by
  rw [Does, exec_doorbellAppendDone_busy hbusy]
  dsimp only
  rw [h]
  rfl

end

/-- A record for another context than the running one is invalid. -/
theorem State.appendable_elsewhere {s : State} {d : Doorbell}
    (h : s.ctx.started = false ∨ s.ctx.id.toNat ≠ d.ctx.id ∨ s.ctx.part.toNat ≠ d.ctx.part) : s.appendable d = false := by
  rw [State.appendable]
  obtain h | h | h := h <;> simp [h]
/-- One for the running context is as valid as its launch. -/
theorem State.appendable_here {s : State} {d : Doorbell} {e : DirEntry} (hstarted : s.ctx.started = true) (hended : s.ctx.ended = false)
    (hid : s.ctx.id.toNat = d.ctx.id) (hpart : s.ctx.part.toNat = d.ctx.part) (hzero : imageAt d.copy 0 2 ≠ 0)
    (htrap : imageAt d.copy 0 2 ≠ trapRoutine) (he : s.readDir (imageAt d.copy 0 2) = some e) :
    s.appendable d = launchValid d.copy e := by
  simp [State.appendable, hstarted, hended, hid, hpart, hzero, htrap, he]

/-! ### Mailbox requests (R495, R496) -/

section
variable {s : State} {origin : Nat} {e : List Byte} (hstage : s.host.stage = 5) (hfatal : s.host.fatal = false)
  (hserving : s.host.serving = none) (hmail : s.mailEntry = some (origin, e))
include hstage hfatal hserving hmail

/-- A request is taken at stage 5 once the one before it has been answered (R495). -/
theorem mailboxRequest_badHeader (hbad : mailBad e = true) :
    Does .mailboxRequest s ((s.takeMail origin e).respond (imageAt e 0 1) 5 (imageAt e 4 1) []) := by
  show execMailboxRequest s = _
  simp only [execMailboxRequest, hstage, hfatal, hserving, hmail, hbad]
  rfl

section
variable (hgood : mailBad e = false)
include hgood

theorem mailboxRequest_badPayload {st : Nat} (hcmd : s.mailCommand e = .inl st) :
    Does .mailboxRequest s ((s.takeMail origin e).respond (imageAt e 0 1) st (imageAt e 4 1) []) := by
  show execMailboxRequest s = _
  simp only [execMailboxRequest, hstage, hfatal, hserving, hmail, hgood, hcmd]
  rfl
/-- A partition's request that names another partition is refused (R496). -/
theorem mailboxRequest_otherPartition {i : Instr} (hcmd : s.mailCommand e = .inr i) (horigin : origin ≠ 0)
    (h : imageAt e 4 1 ≠ origin ∨ s.commandPart (imageAt e 4 1) i ≠ origin) :
    Does .mailboxRequest s ((s.takeMail origin e).respond (imageAt e 0 1) 1 (imageAt e 4 1) []) := by
  show execMailboxRequest s = _
  simp only [execMailboxRequest, hstage, hfatal, hserving, hmail, hgood, hcmd, if_pos (And.intro horigin h)]
  rfl
theorem mailboxRequest_goes {i : Instr} (hcmd : s.mailCommand e = .inr i)
    (h : origin = 0 ∨ imageAt e 4 1 = origin ∧ s.commandPart (imageAt e 4 1) i = origin) : Does .mailboxRequest s
      (({ s.takeMail origin e with sup := { (s.takeMail origin e).sup with
        session := if imageAt e 0 1 = 0x08 then imageAt e 4 1 else (s.takeMail origin e).sup.session } } : State).push i) := by
  have hown : ¬(origin ≠ 0 ∧ (imageAt e 4 1 ≠ origin ∨ s.commandPart (imageAt e 4 1) i ≠ origin)) := by tauto
  show execMailboxRequest s = _
  simp only [execMailboxRequest, hstage, hfatal, hserving, hmail, hgood, hcmd, if_neg hown]
  rfl

end

end

/-- Settles O39: registers, doorbells, windows and the mailbox, by what they meet. -/
theorem hostPortEventsComplete : Obligations.HostPortEventsComplete := by
  intro s off size page q v
  refine ⟨rfl, rfl, rfl, rfl, rfl, rfl, fun hans => ⟨hostRegisterWrite_resets hans, hostRegisterWrite_noReset hans,
      hostRegisterWrite_bar0 hans, fun h1 h2 h3 h4 h5 pa => control_stores hans h1 h2 h3 h4 h5,
      fun w pa write => memoryWindowAccess_goes hans⟩,
    fun hans => ring_copies hans, fun hbusy => ⟨fun h => ?elsewhere, ?here⟩, ?mail, fun h => ?hostRing, fun e => ?commands⟩
  case elsewhere => exact doorbellAppendDone_invalid hbusy (State.appendable_elsewhere h)
  case here =>
    intro e hstarted hended hid hpart hzero htrap he
    have happ := State.appendable_here hstarted hended hid hpart hzero htrap he
    exact ⟨fun h => doorbellAppendDone_valid hbusy (happ.trans h), fun h => doorbellAppendDone_invalid hbusy (happ.trans h)⟩
  case mail =>
    intro origin e hstage hfatal hserving hmail
    exact ⟨mailboxRequest_badHeader hstage hfatal hserving hmail, fun hgood =>
      ⟨fun st => mailboxRequest_badPayload hstage hfatal hserving hmail hgood, fun i hcmd =>
        ⟨mailboxRequest_otherPartition hstage hfatal hserving hmail hgood hcmd,
          mailboxRequest_goes hstage hfatal hserving hmail hgood hcmd⟩⟩⟩
  case hostRing =>
    exact if_pos h
  case commands =>
    refine ⟨?_, ?_, ?_, ?_, ?_⟩
    all_goals
      intro hopc
      simp only [State.mailCommand, hopc]
      rfl

end Sys2Proof.Machine

/-! SUPPORT. The supervisor's commands (spec/24 R495-R500, spec/16 R379-R382, spec/12 R316, R317): the status that each answers with, and
what it does under status 0. -/
namespace Sys2Proof.Machine

open Sys2Proof.Spec
set_option Elab.async false

/-! ### Partitions (R500) -/

section
variable {s : State} {r : PartitionReq}

theorem partitionCreate_outOfForm (hask : partitionAsk r = false) : Does (.partitionCreate r) s (s.respond 0x01 5 r.part []) := by
  show execPartitionCreate r s = _
  simp only [execPartitionCreate, hask]
  rfl

variable (hask : partitionAsk r = true)
include hask

theorem partitionCreate_refused (h : (s.partition r.part).isSome = true ∨ containOk r = false) :
    Does (.partitionCreate r) s (s.respond 0x01 7 r.part []) := by
  have hbad : ((s.partition r.part).isSome || !containOk r) = true := by
    rw [Bool.or_eq_true, Bool.not_eq_true']
    exact h
  show execPartitionCreate r s = _
  simp only [execPartitionCreate, hask, hbad]
  rfl

variable (hnew : s.partition r.part = none) (hcontain : containOk r = true)
include hnew hcontain

theorem partitionCreate_notFree (hfree : s.partitionFree r = false) : Does (.partitionCreate r) s (s.respond 0x01 8 r.part []) := by
  show execPartitionCreate r s = _
  simp only [execPartitionCreate, hask, hnew, hcontain, hfree]
  rfl
/-- A partition that is created receives its frames and ways zeroed, and its rectangles are numbered (R500). -/
theorem partitionCreate_made (hfree : s.partitionFree r = true) {q : Partition}
    (hq : q = { area := r.area, frames := r.frames, ways := r.ways, sysCores := r.sysCores, fabric := r.fabric,
                retIdle := r.retIdle, contain := r.contain, owner := r.ownerKey, image := none, noticeBase := 0,
                anchors := r.anchors, anchorLog := r.anchorLog }) :
    Does (.partitionCreate r) s (({ s.changeHands q with
      mem := (s.changeHands q).mem.wipe r.anchors (8 * 2 ^ r.anchorLog),
      sup := { s.sup with partitions := mput s.sup.partitions r.part q,
                          rects := s.sup.rects ++ numberRects s.sup.rects (r.contain.map rectClusters) } } : State).respond
      0x01 0 r.part []) := by
  subst hq
  show execPartitionCreate r s = _
  simp only [execPartitionCreate, hask, hnew, hcontain, hfree]
  rfl

end

/-! ### Commands that name a partition (R495, R500, R505) -/

/-- The words that answer NOTICE: four of each of up to 8 entries between HEAD and TAIL of the partition's queue (R322). -/
def State.noticeWords (s : State) (part : Nat) (p : Partition) : List Word :=
  let word (a : Nat) : Word := (s.readV part a).getD 0
  let head := (word (p.noticeBase + 8)).toNat
  ((List.range (min 8 ((word p.noticeBase).toNat - head))).map (· + head)).flatMap fun j =>
    (List.range 4).map fun i => word (p.noticeBase + 0x40 + 32 * (j % 1024) + 8 * i)

section
variable {s : State} {part : Nat}

theorem partitionDestroy_none (h : s.partition part = none) : Does (.partitionDestroy part) s (s.respond 0x02 3 part []) := by
  show execPartitionDestroy part s = _
  simp only [execPartitionDestroy, h]
theorem imageLoad_none (h : s.partition part = none) (image : SystemImage) :
    Does (.imageLoad part image) s (s.respond 0x03 3 part []) := by
  show execImageLoad part image s = _
  simp only [execImageLoad, h]

variable {p : Partition} (hp : s.partition part = some p)
include hp

/-- With no context started nothing is contained before the partition's resources are free (R500). -/
theorem partitionDestroy_idle (hstarted : s.ctx.started = false) :
    Does (.partitionDestroy part) s ((s.dropPartition part p []).respond 0x02 0 part []) := by
  show execPartitionDestroy part s = _
  simp only [execPartitionDestroy, hp, hstarted]
  rfl
theorem notice_answers : Does (.notice part) s (s.respond 0x0A 0 part (s.noticeWords part p)) := by
  show execNotice part s = _
  simp only [execNotice, hp]
  rfl
theorem power_sets {cap tlimit retidle : Nat} (hmin : 1000 ≤ cap) (hmax : cap ≤ 3000) (hcold : 85 ≤ tlimit) (hhot : tlimit ≤ 105)
    (hidle : retIdleOk retidle = true) :
    let t := s.setPartition part { p with retIdle := retidle }
    Does (.power cap tlimit part retidle) s (({ t with sup := { t.sup with cap, tlimit } } : State).respond 0x0C 0 part []) := by
  have hform : ¬(cap < 1000 ∨ 3000 < cap ∨ tlimit < 85 ∨ 105 < tlimit ∨ (!retIdleOk retidle) = true) := by
    rw [hidle]
    rintro (h | h | h | h | h)
    case inr.inr.inr.inr => exact Bool.false_ne_true h
    all_goals omega
  show execPower cap tlimit part retidle s = _
  simp only [execPower, hp, if_neg hform]

section
variable {image : SystemImage}

theorem imageLoad_badSignature (h : Config.crypto 4 (image.id * 2 ^ 64 + p.owner) % 2 = 0) :
    Does (.imageLoad part image) s (s.respond 0x03 7 part []) := by
  show execImageLoad part image s = _
  simp only [execImageLoad, hp, if_pos h]

variable (hsigned : Config.crypto 4 (image.id * 2 ^ 64 + p.owner) % 2 ≠ 0)
include hsigned

theorem imageLoad_longTrap (htrap : 512 < image.trap.length) : Does (.imageLoad part image) s (s.respond 0x03 5 part []) := by
  show execImageLoad part image s = _
  simp only [execImageLoad, hp, if_neg hsigned, if_pos htrap]
/-- An image that is accepted is measured and starts on the partition's first system core; its queue's address is reported (R502). -/
theorem imageLoad_starts (htrap : image.trap.length ≤ 512) :
    let t := ((s.clearArea part noticePlace 0x8040).clearArea part ringPlace 0x3000).setPartition part
      { p with image := some image.id, noticeBase := noticePlace, trap := image.trap }
    let u := t.putPartitionRing part (mailImage 0x0A 0 0 part (bytesOf noticePlace 8))
    Does (.imageLoad part image) s
      ((u.setCore (sysBase + p.sysCores.headD 0) (systemCore image.code s.clock)).respond 0x03 0 part []) := by
  show execImageLoad part image s = _
  simp only [execImageLoad, hp, if_neg hsigned, if_neg (Nat.not_lt.2 htrap)]

end

end

/-! ### Doorbells, windows and ports (R493, R498, R499) -/

section
variable {s : State}

theorem doorbellAssign_assigns {page : Nat} {name : ContextName} (hpage : page < 4096) (hp : (s.partition name.part).isSome = true) :
    Does (.doorbellAssign page name) s ((s.setDoorbell page { assigned := true, ctx := name }).respond 0x04 0 name.part []) := by
  have hok : ¬(4096 ≤ page ∨ (s.partition name.part).isNone = true) := by
    rw [not_or, Nat.not_le, Bool.not_eq_true, Option.isNone_eq_false_iff]
    exact ⟨hpage, hp⟩
  exact if_neg hok
theorem doorbellAssign_refused {page : Nat} {name : ContextName} (h : 4096 ≤ page ∨ s.partition name.part = none) :
    Does (.doorbellAssign page name) s (s.respond 0x04 3 name.part []) :=
  if_pos (h.imp_right Option.isNone_iff_eq_none.2)
theorem windowSet_sets {win : Nat} {w : WindowReq} (hwin : win < 64) (hp : (s.partition w.part).isSome = true)
    (hal : w.off % 2 ^ 21 = 0) (hend : w.off + w.size ≤ 2 ^ 40) : Does (.windowSet win w) s
      ((s.modHost fun h => { h with windows := mput h.windows win w }).respond 0x05 0 w.part []) := by
  have hnamed : ¬(64 ≤ win ∨ (s.partition w.part).isNone = true) := by
    rw [not_or, Nat.not_le, Bool.not_eq_true, Option.isNone_eq_false_iff]
    exact ⟨hwin, hp⟩
  have hform : ¬(w.off % 2 ^ 21 ≠ 0 ∨ 2 ^ 40 < w.off + w.size) := by
    rw [not_or, not_not, Nat.not_lt]
    exact ⟨hal, hend⟩
  show execWindowSet win w s = _
  simp only [execWindowSet, if_neg hnamed, if_neg hform, if_true]

/-- A port command that gives no route table leaves the routes as they are (R498). -/
theorem port_keepsRoutes {port action : Nat} (hport : port < 288) (haction : action ≤ 1) : Does (.port port action []) s
    (((if action = 0 then s.train port else s.takeDown port).trainFar port).respond 0x0B 0 s.ctx.part.toNat []) := by
  have hform : ¬(1 < action ∨ (([] : List Nat) ≠ [] ∧ ([] : List Nat).length ≠ 16) ∨
      ([] : List Nat).any (fun e => e % 128 ≥ 18 ∨ 256 ≤ e) = true) := by
    simpa using haction
  show execPort port action [] s = _
  simp only [execPort, if_neg (Nat.not_le.2 hport), if_neg hform, if_true]
  rfl
/-- A port takes the state that it is given. -/
theorem State.state_portState (s : State) (port : Nat) (x : Port) : ((s.portState port x).port port).state = x.state := by
  unfold State.portState
  split
  · rw [State.port_setPort, if_pos rfl]
  · show ((s.setPort port { x with since := s.clock }).port port).state = x.state
    rw [State.port_setPort, if_pos rfl]

end

/-! ### Responses, pre-emption and restore (R316, R379-R382, R496) -/

section
variable {s : State}

theorem supervisorResponse_replies {core n : Nat} (v : Word) (ha : (s.core core).answer = some n)
    (hstopped : (s.core core).stopped = true) : Does (.supervisorResponse core v) s
      ((s.setCore core { (s.core core).replyG (s.core core).slot (n % 16) (16 ≤ n) v false with
        stopped := false, answer := none })).wake := by
  show execSupervisorResponse core v s = _
  simp only [execSupervisorResponse, ha, hstopped]
  rfl
theorem preempt_begins {ctx : Nat} (hstarted : s.ctx.started = true) (hsaved : s.ctx.saved = false) (hended : s.ctx.ended = false)
    (hid : s.ctx.id.toNat = ctx) : Does (.preempt ctx) s (s.respond 0x06 0 s.ctx.part.toNat []).beginSave := by
  show execPreempt ctx s = _
  simp only [execPreempt, hstarted, hsaved, hended, hid]
  rfl
theorem restore_begins {ctx : Nat} {rects : List Rect} (hsaved : s.ctx.saved = true) (hid : s.ctx.id.toNat = ctx) :
    let t := s.respond 0x07 0 s.ctx.part.toNat []
    Does (.restore ⟨ctx, rects⟩) s (({ t with ctx := { t.ctx with target := rects } } : State).push .contextRestore) := by
  show execRestore ⟨ctx, rects⟩ s = _
  simp only [execRestore, hsaved, hid]
  rfl
/-- The context stands saved once its areas are written, with no grant outstanding (R379). -/
theorem preemption_saves (h : s.savable = true) :
    ∃ t : State, Does .preemption s t ∧ t.ctx.saved = true ∧ t.ctx.savedValid = true ∧ t.sliceGrants = [] := by
  refine ⟨_, congrArg Host.Outcome.next (if_neg ?_), rfl, rfl, rfl⟩
  rw [h]
  exact Bool.false_ne_true
theorem contextRestore_fits {rects : List Rect} (hsaved : s.ctx.saved = true) (htarget : s.ctx.target = rects)
    (hvalid : s.ctx.savedValid = true) (hfits : s.restoreFits rects = true) : Does .contextRestore s (s.putBack rects) := by
  subst htarget
  show execContextRestore s = _
  simp only [execContextRestore, hsaved, hvalid, hfits]
  rfl
/-- A save that is invalid, or whose rectangles do not serve, stays saved, and the supervisor is told (R382). -/
theorem contextRestore_refused {rects : List Rect} (hsaved : s.ctx.saved = true) (htarget : s.ctx.target = rects)
    (h : s.ctx.savedValid = false ∨ s.restoreFits rects = false) :
    Does .contextRestore s (s.tell 8 0 (s.ctx.id.setWidth 64)) := by
  subst htarget
  have hbad : (!s.ctx.savedValid) = true ∨ (!s.restoreFits s.ctx.target) = true := by
    rw [Bool.not_eq_true', Bool.not_eq_true']
    exact h
  show execContextRestore s = _
  simp only [execContextRestore, hsaved, if_pos hbad]
  rfl

end

/-- Settles O40, command by command. -/
theorem supervisorCommandsComplete : Obligations.SupervisorCommandsComplete := by
  intro s part page win port cap tlimit retidle core ctx image v w p name rects code trap
  refine ⟨fun r => ⟨partitionCreate_outOfForm, fun hask => ⟨partitionCreate_refused hask, fun hnew hcontain =>
      ⟨partitionCreate_notFree hask hnew hcontain, fun hfree q => partitionCreate_made hask hnew hcontain hfree⟩⟩⟩,
    fun h => ⟨partitionDestroy_none h, imageLoad_none h _⟩, fun hp => ⟨partitionDestroy_idle hp, ?badSignature, ?signed,
      ⟨_, notice_answers hp⟩, power_sets hp⟩, doorbellAssign_assigns, doorbellAssign_refused, windowSet_sets, fun hport =>
      ⟨port_keepsRoutes hport (Nat.zero_le 1), port_keepsRoutes hport le_rfl, s.state_portState port _, s.state_portState port _⟩,
    fun n => supervisorResponse_replies v, preempt_begins, restore_begins, preemption_saves,
    fun hsaved htarget => ⟨contextRestore_fits hsaved htarget, contextRestore_refused hsaved htarget⟩⟩
  case badSignature => exact imageLoad_badSignature (image := ⟨image, code, trap⟩) hp
  case signed =>
    exact fun hsigned => ⟨imageLoad_longTrap (image := ⟨image, code, trap⟩) hp hsigned,
      imageLoad_starts (image := ⟨image, code, trap⟩) hp hsigned⟩

end Sys2Proof.Machine

/-! SUPPORT. Attestation (spec/24 R504) and the Ikitik debugger (spec/23 R483-R487, Tables 23-3, 23-4): the answers to the requests of both,
and what a debug request does that passes its own checks. -/
namespace Sys2Proof.Machine

open Sys2Proof.Spec
set_option Elab.async false

/-! ### Measurements (R504) -/

section
variable {s : State} {session index : Nat}

theorem getMeasurements_device (hmin : 1 ≤ index) (hmax : index ≤ 3) :
    Does (.getMeasurements session index) s (s.spdmAnswer session 0 (measurement index 0)) :=
  congrArg Host.Outcome.next (if_pos ⟨hmin, hmax⟩)

variable {p : Partition} {i : Nat} (hindex : 16 ≤ index) (hp : s.partition (index - 16) = some p) (hi : p.image = some i)
include hindex hp hi

/-- The measurement of a partition's image is for its own session and for an operator's. -/
theorem exec_getMeasurements_partition : exec (.getMeasurements session index) s = .next
    (if session ≠ 0 ∧ session ≠ index - 16 then s.spdmAnswer session 1 [] else s.spdmAnswer session 0 (measurement 16 i)) := by
  have hdevice : ¬(1 ≤ index ∧ index ≤ 3) := by omega
  show execGetMeasurements session index s = _
  simp only [execGetMeasurements, if_neg hdevice, hp, if_neg (Nat.not_lt.2 hindex), hi]
theorem getMeasurements_own (h : session = 0 ∨ session = index - 16) :
    Does (.getMeasurements session index) s (s.spdmAnswer session 0 (measurement 16 i)) :=
  (exec_getMeasurements_partition hindex hp hi).trans (congrArg _ (if_neg fun hother => h.elim hother.1 hother.2))
theorem getMeasurements_other (hoperator : session ≠ 0) (hother : session ≠ index - 16) :
    Does (.getMeasurements session index) s (s.spdmAnswer session 1 []) :=
  (exec_getMeasurements_partition hindex hp hi).trans (congrArg _ (if_pos ⟨hoperator, hother⟩))

end

/-! ### Messages by their codes (R504, Table 23-3) -/

/-- An SPDM message asks for what its request code names. -/
theorem spdm_asks (s : State) (session : Nat) (m : SpdmReq) :
    (m.code = 0x84 → Does (.spdm session m) s (s.push (.getVersion session))) ∧
    (m.code = 0xE1 → Does (.spdm session m) s (s.push (.getCapabilities session))) ∧
    (m.code = 0xE3 → Does (.spdm session m) s (s.push (.negotiateAlgorithms session))) ∧
    (m.code = 0x81 → Does (.spdm session m) s (s.push (.getDigests session))) ∧
    (m.code = 0x82 → Does (.spdm session m) s (s.push (.getCertificate session m.off m.len))) ∧
    (m.code = 0x83 → Does (.spdm session m) s (s.push (.challenge session m.nonce))) ∧
    (m.code = 0xE0 → Does (.spdm session m) s (s.push (.getMeasurements session m.index))) := by
  refine ⟨?_, ?_, ?_, ?_, ?_, ?_, ?_⟩
  all_goals
    intro hcode
    show execSpdm session m s = _
    simp only [execSpdm, hcode]

section
variable {s : State} {q : IkitikReq}

theorem debug_halt (h : q.kind = 0x01) : Does (.debug q) s (s.push (.ikitikHalt { q with kind := 0 })) := by
  show execDebug q s = _
  simp only [execDebug, h]
theorem debug_readrecorder (h : q.kind = 0x0B) : Does (.debug q) s (s.push (.readrecorder { q with kind := 0 })) := by
  show execDebug q s = _
  simp only [execDebug, h]

/-! ### Debug requests (Table 23-3) -/

theorem setpoint_sets {code : Bool} (hcode : code = decide (q.num / 8 % 2 = 1)) (hnum : q.num < 16) (hwatch : code = false → q.num < 4)
    (hstatus : s.pointStatus code q.val q.val2 ≠ 1) : Does (.setpoint q) s
      (s.serve 0x05 (if code then 0 else 1) { q with core := everyCore } <|
        (s.setPoint code (q.num % 8) q.val q.val2).ikitik 0x05 q 0) := by
  subst hcode
  have hform : ¬(16 ≤ q.num ∨ ((!decide (q.num / 8 % 2 = 1)) = true ∧ 4 ≤ q.num) ∨
      s.pointStatus (decide (q.num / 8 % 2 = 1)) q.val q.val2 = 1) := by
    rintro (h | ⟨h, h'⟩ | h)
    · exact absurd hnum (Nat.not_lt.2 h)
    · exact absurd (hwatch (by simpa using h)) (Nat.not_lt.2 h')
    · exact hstatus h
  show execSetpoint q s = _
  simp only [execSetpoint, if_neg hform]
theorem readcore_answers (h : q.core ≠ everyCore) : Does (.readcore q) s
    (s.serve 0x07 3 q <| s.ikitik 0x07 q 0 (packWords (overlay 0x18C00 0x600 (s.core q.core).engineParts))) :=
  congrArg (fun t => Host.Outcome.next (s.serve 0x07 3 q t)) (if_neg h)
theorem readarrivals_answers (h : q.core ≠ everyCore) : Does (.readarrivals q) s
    (s.serve 0x09 3 q <| s.ikitik 0x09 q 0 (packWords (overlay 0x1C000 0x1200 (s.arrivalParts q.core)))) :=
  congrArg (fun t => Host.Outcome.next (s.serve 0x09 3 q t)) (if_neg h)
/-- A register is written in every gang that is named, or in none (Table 23-3). -/
theorem writereg_does : Does (.writereg q) s (s.serve 0x08 4 q <| s.onGangs 0x08 q true fun ts =>
    if ts.any fun t => (s.gangAt t).pokePends q.kind q.num then s.ikitik 0x08 q 4
    else if q.kind ≠ 0 ∧ ts.any fun t => (s.gangAt t).lanes.length ≤ q.lane then s.ikitik 0x08 q 3
    else if ts.any fun t => ((s.gangAt t).poke q.kind q.num q.lane q.val).isNone then s.ikitik 0x08 q 5
    else (s.modGangsAt ts fun g => (g.poke q.kind q.num q.lane q.val).getD g).ikitik 0x08 q 0) := by
  show execWritereg q s = _
  simp only [execWritereg, List.any_map]
  rfl
/-- The bytes read are those after the read has woken their arrays and met their errors. -/
theorem readmem_answers {t : State} (hlen : q.len ≤ 4096)
    (ht : t = (List.range q.len).foldl (fun t i => t.debugRead (q.val.toNat + i)) s)
    (hall : ((List.range q.len).map fun i => t.debugByte (q.val.toNat + i)).any (·.isNone) = false) :
    let xs := ((List.range q.len).map fun i => t.debugByte (q.val.toNat + i)).filterMap id
    Does (.readmem q) s (s.serve 0x0A 3 { q with core := everyCore } <|
      t.ikitik 0x0A q (if xs.any (·.2) then 6 else 0) (packWords (xs.map (·.1))) xs.length) := by
  subst ht
  show execReadmem q s = _
  simp only [execReadmem, if_neg (Nat.not_lt.2 hlen), hall]
  rfl

end

/-- Settles O41, request by request. -/
theorem attestationAndDebugComplete : Obligations.AttestationAndDebugComplete := by
  intro s session off len nonce index q
  refine ⟨rfl, rfl, rfl, rfl, ?certificate, rfl, getMeasurements_device, fun p i hindex hp hi =>
      ⟨getMeasurements_own hindex hp hi, getMeasurements_other hindex hp hi⟩, spdm_asks s session, debug_halt, debug_readrecorder,
    rfl, rfl, rfl, rfl, fun code => setpoint_sets, rfl, fun h => ⟨readcore_answers h, readarrivals_answers h⟩, writereg_does,
    fun t => readmem_answers, rfl⟩
  case certificate =>
    rintro _ rfl
    rfl

end Sys2Proof.Machine
